-- ==== Sys2Proof/Word.lean ====
section
/-! DEFINITION. The words of the module (R10) and the plain-data map every numbered store of the state is held in. -/

namespace Sys2Proof

/-- R10: a byte is 8 bits. -/
abbrev Byte := BitVec 8
/-- R10: a word is 32 bits. -/
abbrev Word := BitVec 32
/-- R10: a doubleword is 64 bits. -/
abbrev Dword := BitVec 64

/-- Sparse data by number: keys strictly rising, no entry equal to what an unlisted key reads as.
The operations that keep this form are in Machine/Bits.lean. -/
abbrev SMap (V : Type) := List (Nat × V)

/-- R48: the eight number formats, in the order of their codes. -/
inductive Fmt where
  | i4 | i8 | i16 | i32 | g4 | g8 | f16 | f32
  deriving DecidableEq, Repr

/-- R61, R77: the four sticky flags in the layout of FLG: bit 3 NAN, bit 2 FLSH, bit 1 OVF, bit 0 SAT. -/
abbrev Flg := BitVec 4

end Sys2Proof
end

