-- ==== Sys2Proof/Syntax.lean ====
section
/-! DEFINITION. The commands and events of the module: one constructor for each row of spec/opcode_table.json, with what
the outside world or the firmware chooses as its operands. -/

namespace Sys2Proof

/-- A step of the module. Units are numbered as R27, ports as R36, functions as R291 (the PF is 0); `part` is a
partition, `rte` a request table entry, `read` an outstanding read, `cmd` a command handed over. -/
inductive Instr where
  /-- ITEM_TRANSFER (R80): An item on a neighbour-link lane completes its four-phase handshake when the receiver latches it. -/
  | itemTransfer (row col src cons : Nat) (noise : BitVec 39)
  /-- HANDSHAKE_ANOMALY (R84): A lane holds REQ for 64 ticks with room and no hold but no ACK follows, and a handshake anomaly is recorded as an error of the core. -/
  | handshakeAnomaly (row col side : Nat)
  /-- MAC_FIRING (R90): A MAC function unit takes one A and one B item and accumulates; when KCNT elements are done it offers the dot-product result. -/
  | macFiring (row col : Nat) (bad : Bool)
  /-- MACL_FIRING (R90): A MACL function unit takes one A item against its latched operand and accumulates, offering the result after KCNT elements. -/
  | maclFiring (row col : Nat) (bad : Bool)
  /-- DELAY_FIRING (R92): A DELAY unit passes an item of any kind through its 32-item FIFO in order. -/
  | delayFiring (row col : Nat)
  /-- TEST_FIRING (R92): A TEST unit turns one data item into one control item under TCOND. -/
  | testFiring (row col : Nat)
  /-- STEER_FIRING (R95): A STEER unit holding a D and a K item emits D on output 0 or 1 by the condition. -/
  | steerFiring (row col : Nat)
  /-- MERGE_FIRING (R95): A MERGE unit holding K and the selected input emits the selected item. -/
  | mergeFiring (row col : Nat)
  /-- GATE_FIRING (R95): A GATE unit holding D and K emits or discards D by the polarity. -/
  | gateFiring (row col : Nat)
  /-- REPEAT_FIRING (R95): A REPEAT unit emits its D item NCNT times, or n times from its K item. -/
  | repeatFiring (row col : Nat)
  /-- COUNT_FIRING (R95): A COUNT unit emits NCNT control items for one trigger item. -/
  | countFiring (row col : Nat)
  /-- STALL_TIMEOUT (R103): A configuration makes no progress for STALL_TICKS with items pending, and a STALL fault is raised with a queue-depth snapshot. -/
  | stallTimeout (place : Nat)
  /-- VARIANT_PLACE (R107): Firmware places the lowest-numbered variant with an eligible rectangle, or the placement waits. -/
  | variantPlace (part : Nat) (run : Option Nat) (img sect : Nat)
  /-- PLACEMENT_RESUME (R107): A waiting placement is made once sectors are cleared and an eligible rectangle becomes free. -/
  | placementResume (wait : Nat)
  /-- SECTOR_LOAD (R109): A sector load holds and clears the sector and begins streaming its cell records. -/
  | sectorLoad (sector : Nat)
  /-- SECTOR_LOAD_DONE (R109): The last record is written and its CRC compared; the ports are armed and the hold released. -/
  | sectorLoadDone (sector : Nat)
  /-- SECTOR_CLEAR (R112): A clear discards every item in a sector and keeps its cell records. -/
  | sectorClear (sector : Nat)
  /-- WIN_WR (R149): A Tin window write reaches a core's control window and takes effect in issue order. -/
  | winWr (src dst : Nat) (crcBad : Bool)
  /-- WIN_RD (R149): A Tin window read of a core's control window returns the data in a WIN_RSP. -/
  | winRd (src dst : Nat) (crcBad : Bool)
  /-- WIN_RSP (R182): A window read response arrives at the requesting Cobalt core with the request's TAG. -/
  | winRsp (src dst : Nat) (crcBad : Bool)
  /-- RGD_WRITE (R122): A write to a region descriptor is checked and accepted or refused. -/
  | rgdWrite (src dst : Nat) (crcBad : Bool)
  /-- EV_WRITE (R119): A Cobalt write sets a core event counter, taking effect before a same-round signal. -/
  | evWrite (src dst : Nat) (crcBad : Bool)
  /-- TAG_ENTRY_WRITE (R126): A Cobalt write of a weight tile tag entry sets it, clearing CHECKED when VALID is written 1. -/
  | tagEntryWrite (src dst : Nat) (crcBad : Bool)
  /-- TILE_CHECK_DONE (R127): The tile checker finishes the CRC of an unchecked weight tile and sets CHECKED or starts a refetch. -/
  | tileCheckDone (core entry : Nat) (upset : List (Nat × Nat))
  /-- TILE_REFETCH_DONE (R128): A tile refetched from HOME is rechecked, and the held reads proceed or an uncorrectable error is reported. -/
  | tileRefetchDone (core entry : Nat)
  /-- VCTL_GO (R143): A write of GO starts the vector program at ENTRY when the engine is not busy. -/
  | vctlGo (src dst : Nat) (crcBad : Bool)
  /-- VCTL_ABORT (R144): A write of ABORT stops the vector program at the next instruction boundary and ends any wait. -/
  | vctlAbort (src dst : Nat) (crcBad : Bool)
  /-- VNOP (R135): Vector no-operation. -/
  | vnop (core : Nat)
  /-- VLD (R137): Loads 32 rows of 8 words from scratchpad into a tile register. -/
  | vld (core : Nat) (upset : List (Nat × Nat))
  /-- VST (R137): Stores the extent of a tile register to scratchpad and sends flag notices for non-zero row flags. -/
  | vst (core : Nat)
  /-- VMOV (R137): Copies one tile register to another. -/
  | vmov (core : Nat)
  /-- VSETX (R137): Sets the store and reduction extent. -/
  | vsetx (core : Nat)
  /-- VSETA (R137): Sets an address register. -/
  | vseta (core : Nat)
  /-- VADDA (R137): Adds a signed addend to an address register modulo 2^17. -/
  | vadda (core : Nat)
  /-- VSPLAT (R137): Fills a tile register with an immediate element. -/
  | vsplat (core : Nat)
  /-- VAND (R137): Bitwise AND of two tile registers. -/
  | vand (core : Nat)
  /-- VOR (R137): Bitwise OR of two tile registers. -/
  | vor (core : Nat)
  /-- VXOR (R137): Bitwise exclusive OR of two tile registers. -/
  | vxor (core : Nat)
  /-- VNOT (R137): Bitwise NOT of a tile register. -/
  | vnot (core : Nat)
  /-- VSHL (R137): Shifts integer elements left. -/
  | vshl (core : Nat)
  /-- VSHR (R137): Shifts integer elements right with zero fill. -/
  | vshr (core : Nat)
  /-- VSRA (R137): Shifts integer elements right with sign fill. -/
  | vsra (core : Nat)
  /-- VADD (R137): Element-wise integer add under OVM. -/
  | vadd (core : Nat) (bad : Bool)
  /-- VSUB (R137): Element-wise integer subtract under OVM. -/
  | vsub (core : Nat) (bad : Bool)
  /-- VMUL (R137): Element-wise integer multiply under OVM. -/
  | vmul (core : Nat) (bad : Bool)
  /-- VMULQ (R137): Element-wise integer multiply with rounded shift and OVM. -/
  | vmulq (core : Nat) (bad : Bool)
  /-- VMIN (R73): Element-wise minimum. -/
  | vmin (core : Nat)
  /-- VMAX (R73): Element-wise maximum. -/
  | vmax (core : Nat)
  /-- VCMP (R73): Element-wise compare writing mask elements. -/
  | vcmp (core : Nat)
  /-- VSEL (R137): Selects elements of two registers by a mask register. -/
  | vsel (core : Nat)
  /-- VCVT (R138): Converts elements between formats under RND, OVM and FLUSH. -/
  | vcvt (core : Nat) (bad : Bool)
  /-- VLUT (R138): Looks up elements in a table register. -/
  | vlut (core : Nat)
  /-- VCLZ (R137): Counts leading zero bits of integer elements. -/
  | vclz (core : Nat)
  /-- VRED (R140): Reduces a register's extent into a summary set. -/
  | vred (core : Nat) (bad : Bool)
  /-- VSPLS (R137): Fills a register with a field of a summary set. -/
  | vspls (core : Nat)
  /-- VCAP (R137): Fills a register with the CAP value. -/
  | vcap (core : Nat)
  /-- VSIG (R119): Adds to a core event counter after prior scratchpad writes complete. -/
  | vsig (core : Nat)
  /-- VWAIT (R119): Begins a wait on a core event counter. -/
  | vwait (core : Nat)
  /-- VWAIT_END (R119): A vector wait ends when the event counter reaches its value. -/
  | vwaitEnd (core : Nat)
  /-- VWAITLONG (R144): A VWAIT reaches 100,000 ticks; WAITLONG is set and one notice sent while the wait continues. -/
  | vwaitlong (core : Nat)
  /-- VSETL (R139): Sets a loop counter. -/
  | vsetl (core : Nat)
  /-- VLOOP (R139): Decrements a loop counter and branches while not zero. -/
  | vloop (core : Nat)
  /-- VEND (R139): Stops the vector program, sets DONE and sends a completion notice. -/
  | vend (core : Nat)
  /-- SE_LOAD (R154): Writes stream instructions into an idle stream engine. -/
  | seLoad (src dst : Nat) (crcBad : Bool)
  /-- SE_SETWD (R182): Sets a stream engine's watchdog interval. -/
  | seSetwd (src dst : Nat) (crcBad : Bool)
  /-- SE_SETP (R182): Writes a stream engine's parameters P0–P7. -/
  | seSetp (src dst : Nat) (crcBad : Bool)
  /-- SE_ABORT (R172): Stops a stream engine issuing and discards returning data. -/
  | seAbort (src dst : Nat) (crcBad : Bool)
  /-- SE_ABORTED (R172): An aborting stream engine reaches ABORTED once no read is outstanding. -/
  | seAborted (core se : Nat)
  /-- SE_START (R154): Resets a stream engine's state and runs its program from instruction 0. -/
  | seStart (src dst : Nat) (crcBad : Bool)
  /-- SE_QUERY (R184): Returns an SE_STAT payload describing the stream engine. -/
  | seQuery (src dst : Nat) (crcBad : Bool)
  /-- SE_STAT (R184): A stream engine status response arrives at Cobalt. -/
  | seStat (src dst : Nat) (crcBad : Bool)
  /-- SNOP (R155): Stream no-operation. -/
  | snop (core se : Nat)
  /-- SETM (R156): Sets the memory address from a parameter and offset. -/
  | setm (core se : Nat)
  /-- SETS (R156): Sets the scratchpad address. -/
  | sets (core se : Nat)
  /-- SETC (R156): Sets the tile origin coordinates. -/
  | setc (core se : Nat)
  /-- LIMIT (R156): Sets the tensor extent. -/
  | limit (core se : Nat)
  /-- STRM (R156): Sets the memory and scratchpad strides of a loop level. -/
  | strm (core se : Nat)
  /-- STRC (R156): Sets the coordinate strides of a loop level. -/
  | strc (core se : Nat)
  /-- LOOP (R156): Opens a loop level and saves the addresses. -/
  | loop (core se : Nat)
  /-- ENDL (R156): Advances or closes a loop level. -/
  | endl (core se : Nat)
  /-- SHAPE (R157): Sets the tile shape. -/
  | shape (core se : Nat)
  /-- FILL (R158): Starts a tile transfer from memory into scratchpad with padding. -/
  | fill (core se : Nat) (lines : List Nat)
  /-- DRAIN (R158): Starts a transfer of in-extent elements from scratchpad to memory. -/
  | drain (core se : Nat) (upset : List (Nat × Nat)) (lines : List Nat)
  /-- FEED (R158): Starts sending scratchpad rows into a stream-in port. -/
  | feed (core se : Nat) (upset : List (Nat × Nat))
  /-- COLLECT (R160): Starts taking items from a stream-out port into scratchpad. -/
  | collect (core se : Nat)
  /-- STREAM_TRANSFER_COMPLETE (R162): A stream transfer completes; a weight tag or FLAG messages are written and the engine signals. -/
  | streamTransferComplete (core se id : Nat)
  /-- SIG (R156): Adds to a core event counter. -/
  | sig (core se : Nat)
  /-- WAIT (R156): Raises a wait target and begins waiting on an event counter. -/
  | wait (core se : Nat)
  /-- STREAM_WAIT_END (R156): A stream engine wait ends when its event counter reaches the target. -/
  | streamWaitEnd (core se : Nat)
  /-- CFG (R156): Sets the prefetch distance. -/
  | cfg (core se : Nat)
  /-- END (R156): Begins waiting for every transfer of the program to complete. -/
  | endProg (core se : Nat)
  /-- SDONE (R156): A stream program's transfers are complete; the engine stops and sends SDONE. -/
  | sdone (core se : Nat)
  /-- SWATCH (R170): A stream engine makes no progress for WDT ticks and sends one SWATCH notice. -/
  | swatch (core se : Nat)
  /-- STREAM_READ_ERROR (R171): A memory read ends with an error; the engine stops signalling, stops and sends SFAULT. -/
  | streamReadError (core se id : Nat)
  /-- SLICE_WRITEBACK_DONE (R179): A leaving near-cache slice finishes writing back dirty lines, and its group passes to uncached service. -/
  | sliceWritebackDone (group : Nat) (bad : List Nat)
  /-- NOTICE (R182): A notice from a core engine arrives at its sector's Cobalt core. -/
  | notice (src dst : Nat) (crcBad : Bool)
  /-- FLAG (R160): A flag message for a row tag arrives at the Cobalt core. -/
  | flag (src dst : Nat) (crcBad : Bool)
  /-- FW_MSG (R182): A firmware-to-firmware Tin message is delivered. -/
  | fwMsg (src dst : Nat) (crcBad : Bool)
  /-- TX_GO (R188): Cobalt sends the message in TXBUF, or it is discarded as denied. -/
  | txGo (sector : Nat)
  /-- RX_POP (R188): Frees the oldest slot of a Cobalt receive queue. -/
  | rxPop (sector : Nat)
  /-- CNT_CREATE (R202): Creates a work counter for a problem or list. -/
  | cntCreate (src : Nat) (crcBad : Bool)
  /-- CNT_CLAIM (R203): Claims a tile from a work counter: re-issued, fresh, held, END or LIMIT. -/
  | cntClaim (src : Nat) (crcBad : Bool)
  /-- CLAIM_HELD_ANSWER (R203): A held claim is answered when a value enters the re-issue queue or the last claim retires. -/
  | claimHeldAnswer (cnt : Nat)
  /-- CNT_RETIRE (R203): Retires a held claim. -/
  | cntRetire (src : Nat) (crcBad : Bool)
  /-- CNT_WITHDRAW (R203): Moves a core's claims to the re-issue queue and withdraws the core. -/
  | cntWithdraw (src : Nat) (crcBad : Bool)
  /-- CNT_QUERY (R202): Returns a counter's issue and retire counts. -/
  | cntQuery (src : Nat) (crcBad : Bool)
  /-- CNT_DESTROY (R203): Frees a counter and its ledger, answering held claims NOCNT. -/
  | cntDestroy (src : Nat) (crcBad : Bool)
  /-- CNT_RSP (R202): A work counter response arrives at the Cobalt core. -/
  | cntRsp (dst : Nat) (crcBad : Bool)
  /-- LAYER_START (R209): Firmware applies the run checks and creates a layer's counter with its chosen tile shape. -/
  | layerStart (part : Nat) (run : Option Nat) (img layer cnt tag : Nat)
  /-- LAYER_COMPLETE (R194): Every tile of a layer or fused group is retired and drained, and the next layer may begin. -/
  | layerComplete (part : Nat) (run : Option Nat) (img layer cnt : Nat)
  /-- PROMPT_CHECK (R214): Firmware reads the prompt ids and ends the request with TOKEN_INVALID if any is out of vocabulary. -/
  | promptCheck (rte : Nat)
  /-- PREFILL_CHUNK_START (R220): A prefill chunk of 1–2,048 positions begins on the non-lent sectors. -/
  | prefillChunkStart (rte count : Nat) (pages : List Nat)
  /-- PREFILL_CHUNK_COMMIT (R221): A prefill chunk commits its KV and PREFILLED through the commit word. -/
  | prefillChunkCommit (part : Nat)
  /-- DECODE_STEP_START (R225): A decode step begins over the batch fixed at the previous commit. -/
  | decodeStepStart (part : Nat) (pages : List (Nat × Nat)) (bad : Option Nat)
  /-- DECODE_STEP_OUTPUT (R225): Every sampler has written its token, fixing the output tick. -/
  | decodeStepOutput (part : Nat)
  /-- DECODE_STEP_COMMIT (R226): Once the cancel horizon reaches the output tick, a step commits tokens, KV, counts, flags and stops. -/
  | decodeStepCommit (part : Nat)
  /-- STREAM_ENTRY_WRITE (R227): The queue engine writes a committed token to its stream ring when there is room. -/
  | streamEntryWrite (rte : Nat)
  /-- COMPLETION_WRITE (R305): The queue engine writes a completion entry after the entries that must precede it. -/
  | completionWrite (fn cq : Nat)
  /-- RECORD_RING_WRITE (R307): An appended record is written to the record ring when it has room. -/
  | recordRingWrite (part : Nat)
  /-- STEERING_BIND_COMPLETE (R232): A steering set copy ends; the bind completes and waiting REQUEST_OPENs are judged. -/
  | steeringBindComplete (cmd off : Nat)
  /-- HALF_DISPATCH (R255): Brass starts sending the jobs of one half of an exchange batch to its holders. -/
  | halfDispatch (part xl half pos0 : Nat) (chunk : Bool)
  /-- JOB_ARRIVAL (R258): A job header arrives at a holder, which runs the job or returns a refusing RESULT. -/
  | jobArrival (part chip spart : Nat)
  /-- JOB_COMPLETE (R258): A holder finishes a job and returns its RESULT rows and header. -/
  | jobComplete (part chip spart : Nat)
  /-- RESULT_ARRIVAL (R259): A RESULT header arrives at the sender and is accepted or discarded. -/
  | resultArrival (part xl half chip : Nat)
  /-- TEXCH_EXPIRY (R260): In paced mode TEXCH ticks pass from a half's dispatch; it is combined or the step is replayed. -/
  | texchExpiry (part xl half : Nat)
  /-- XLIMIT_EXPIRY (R261): A half's results are incomplete after XLIMIT, and the requests concerned end with EXCHANGE_TIMEOUT. -/
  | xlimitExpiry (part xl half : Nat)
  /-- MEMORY_READ_RETURN (R270): A tier-1 block returns and is decoded by the Reed–Solomon code. -/
  | memoryReadReturn (off : Nat) (errs errs2 : List (Nat × Byte)) (tier1 : Bool)
  /-- TIER1_READ_LATE (R288): A tier-1 read has not completed 10,000 ticks after issue. -/
  | tier1ReadLate (off : Nat)
  /-- PERIODIC_REFRESH (R274): A due periodic LPDDR6 refresh is issued. -/
  | periodicRefresh (sub row : Nat)
  /-- RFM_REQUEST (R273): A refresh-management request from an LPDDR6 device is served in the next allowed slot. -/
  | rfmRequest (sub bank : Nat)
  /-- MAINTENANCE_WINDOW (R274): In paced mode a 160 ns maintenance window opens for the group's due maintenance. -/
  | maintenanceWindow (group : Nat)
  /-- PERIODIC_CALIBRATION (R274): A sub-channel's periodic calibration runs. -/
  | periodicCalibration (sub : Nat) (ok : Bool)
  /-- PATROL_SCRUB (R438): A patrol scrub read checks LPDDR6 blocks. -/
  | patrolScrub (sub : Nat) (errs errs2 : List (Nat × Byte))
  /-- SRAM_SCRUB (R438): A scrub read checks SRAM words. -/
  | sramScrub (utype unit word bits : Nat)
  /-- OPTICAL_BIAS_CALIBRATION (R438): A laser's bias is calibrated inside its optical engine. -/
  | opticalBiasCalibration (port lane : Nat)
  /-- AGEING_MEASUREMENT (R440): A sector's delay lines are measured and loss reported. -/
  | ageingMeasurement (sector count : Nat)
  /-- HOSTLIM_EXPIRY (R277): A host read is late past HOSTLIM and ends with HOST_TIMEOUT. -/
  | hostlimExpiry (read : Nat)
  /-- PCIE_COMPLETION_TIMEOUT (R277): A PCIe Completion Timeout ends a host read. -/
  | pcieCompletionTimeout (read : Nat)
  /-- HOST_ERROR_COMPLETION (R277): An UR, CA or poisoned completion ends a host read with HOST_READ_ERROR. -/
  | hostErrorCompletion (read : Nat)
  /-- LINK_LEAVES_DL_ACTIVE (R277): The host link leaves DL_Active, ending outstanding host reads. -/
  | linkLeavesDlActive
  /-- RD (R278): An inbound peer read request is served or refused. -/
  | rd (port : Nat)
  /-- WR (R278): An inbound peer write is served or refused and acknowledged. -/
  | wr (port : Nat)
  /-- RDATA (R340): A peer read response arrives and is matched to its access. -/
  | rdata (port : Nat)
  /-- WACK (R279): A peer write acknowledgement arrives. -/
  | wack (port : Nat)
  /-- PEERLIM_EXPIRY (R279): A peer access is late past PEERLIM and ends with PEER_TIMEOUT. -/
  | peerlimExpiry (tag : Nat)
  /-- SEGMENT (R282): A chain SEGMENT notice arrives; the receiver checks the CRC and acknowledges and forwards or NACKs. -/
  | segment (part slot : Nat)
  /-- ACK (R282): A chain ACK arrives at the sender of a segment. -/
  | ack (part slot : Nat)
  /-- NACK (R282): A chain NACK makes the predecessor resend the segment with a higher attempt. -/
  | nack (part slot : Nat)
  /-- CHAIN_ABORT (R282): A chain ABORT notice ends the chain at the module and is passed on. -/
  | chainAbort (part slot : Nat)
  /-- CHAIN_PREDECESSOR_SILENT (R282): A chain predecessor is silent for PEERLIM and the chain ends with CHAIN_FAILED. -/
  | chainPredecessorSilent (part slot : Nat)
  /-- POLL_PASS (R300): The queue engine begins a pass reading every active doorbell line. -/
  | pollPass
  /-- DOORBELL_LINE_READ (R301): A doorbell line read returns and its indices are checked. -/
  | doorbellLineRead (fn line : Nat) (data : List Byte)
  /-- DESCRIPTOR_FETCH (R304): A descriptor fetch returns and is handed to firmware in fetch order, or the ring is stopped. -/
  | descriptorFetch (fn : Nat) (data : List Byte)
  /-- QUEUE_CREATE (R312): Creates an I/O submission, completion or stream ring. -/
  | queueCreate (fn : Nat)
  /-- QUEUE_DELETE (R312): Deletes a ring. -/
  | queueDelete (fn : Nat)
  /-- RECORD_RING_SET (R307): Sets the partition's record ring and writes held records. -/
  | recordRingSet (fn : Nat)
  /-- TELEMETRY_READ_DROPS (R314): Writes the partition's expert drop counters to host memory. -/
  | telemetryReadDrops (fn : Nat)
  /-- TELEMETRY_READ_ENERGY (R400): Writes the partition's energy counters to host memory. -/
  | telemetryReadEnergy (fn : Nat)
  /-- PART_CREATE (R353): Creates a partition from its parameter block. -/
  | partCreate (fn : Nat)
  /-- PART_DESTROY (R355): Destroys a partition, ending its commands and sealing its chain. -/
  | partDestroy (fn : Nat)
  /-- CAP_SET (R393): Sets the host power cap. -/
  | capSet (fn : Nat)
  /-- REQUEST_OPEN (R212): Opens a request, admitting or refusing it. -/
  | requestOpen (fn : Nat)
  /-- REQUEST_CANCEL (R231): Cancels a request by host tag at tick t_x. -/
  | requestCancel (fn : Nat)
  /-- STEERING_BIND (R232): Begins copying and binding a steering set to an index. -/
  | steeringBind (fn : Nat)
  /-- MODEL_SELECT (R357): Begins selecting the partition's model. -/
  | modelSelect (fn : Nat)
  /-- MODEL_SELECT_COMPLETE (R357): The switch finishes, the serving context starts and the select completes. -/
  | modelSelectComplete (part : Nat)
  /-- MODEL_CHAIN (R280): Joins a chain that loads a model image into a slot. -/
  | modelChain (fn : Nat)
  /-- MODEL_EVICT (R467): Frees a model slot with its registration and damage marks. -/
  | modelEvict (fn : Nat)
  /-- IMAGE_REGISTER (R312): Registers a configuration image under a handle. -/
  | imageRegister (fn : Nat)
  /-- REGISTRATION_DONE (R356): The loader ends a registration of a model slot or handle, and waiting commands proceed. -/
  | registrationDone (part : Nat) (image : Bool) (key : Nat)
  /-- GRAPH_RUN (R312): Runs layers of a registered image as one run context. -/
  | graphRun (fn : Nat)
  /-- COPY (R312): Begins copying bytes between two global addresses. -/
  | copy (fn : Nat)
  /-- COPY_COMPLETE (R312): A COPY's writes are complete and it completes. -/
  | copyComplete (cmd : Nat)
  /-- FENCE (R313): Orders the descriptors of its ring behind earlier ones. -/
  | fence (fn : Nat)
  /-- FENCE_RELEASE (R313): Every earlier descriptor of the ring completes; the FENCE completes and later descriptors proceed. -/
  | fenceRelease (cmd : Nat)
  /-- COUNTER_OP (R312): Queries a work counter and writes its answer. -/
  | counterOp (fn : Nat)
  /-- AQEN_WRITE (R295): A write of SETUP.AQEN enables or disables a function's admin rings. -/
  | aqenWrite (fn : Nat) (on : Bool)
  /-- SETUP_LOCK (R296): A write of SETUP.LOCK in the PF sets the set-up lock. -/
  | setupLock (fn : Nat)
  /-- POLL_WRITE (R294): A PF write of POLL.TICKS sets the poll interval, at least 25. -/
  | pollWrite (fn : Nat) (ticks : Word)
  /-- MBPOP (R324): Frees the oldest message of a mailbox channel for the function. -/
  | mbpop (fn ch : Nat)
  /-- TXSEND (R323): A host write of TXSEND sends a 64-byte mailbox message or is dropped. -/
  | txsend (fn ch : Nat) (data : Dword)
  /-- MBOX (R324): An internal mailbox message travels as a Tin MBOX message to its receiver. -/
  | mbox (src dst : Nat) (crcBad : Bool)
  /-- REGISTER_WRITE (R12): A write to a register field with no behaviour of its own. -/
  | registerWrite (space unit off : Nat) (value : Dword)
  /-- MSIX_VECTOR_UNMASK (R320): An unmasked vector with its PBA bit set sends its message. -/
  | msixVectorUnmask (fn vec : Nat)
  /-- IMOD_TIMER_EXPIRY (R319): MTICKS pass since the first unsignalled entry, and the ring's interrupt is sent. -/
  | imodTimerExpiry (fn ring : Nat)
  /-- VF_FLR (R297): A Function Level Reset of a VF stops its rings and ends its requests and commands. -/
  | vfFlr (fn : Nat)
  /-- VF_ENABLE_CLEAR (R297): VF Enable is cleared and each VF is reset as for an FLR. -/
  | vfEnableClear
  /-- PF_FLR (R298): A Function Level Reset of the PF resets the PF and clears VF Enable. -/
  | pfFlr
  /-- FLIT_RECEIVE (R330): A flit arrives on a port and is accepted or refused, with its slots, ACK and credits. -/
  | flitReceive (port : Nat) (flit : List Byte) (fecBad : Bool)
  /-- NAK (R334): A NAK arrives and the sender replays every flit after its ACK. -/
  | nak (port ack : Nat)
  /-- ACK_IDLE_TIMER (R335): 64 flits or 100 ns pass with an ACK owed, and an IDLE flit is sent. -/
  | ackIdleTimer (port : Nat)
  /-- ACK_STALL_TIMEOUT (R336): No far ACK advances for 20 µs with flits unacknowledged, and the port enters RETRAIN. -/
  | ackStallTimeout (port : Nat)
  /-- LANE_LOCK_LOSS (R336): A lane or the FEC loses lock, or alignment is lost, on a port. -/
  | laneLockLoss (port : Nat)
  /-- PORT_RELOCK (R336): Lock and alignment return; a matching IDENT makes the port ACTIVE again. -/
  | portRelock (port : Nat) (record : List Byte)
  /-- RETRAIN_TIMEOUT (R349): RETRAIN does not end within 50 ms and the port becomes DOWN. -/
  | retrainTimeout (port : Nat)
  /-- DOWN_RETRY (R349): 100 ms after DOWN the port enters TRAINING. -/
  | downRetry (port : Nat)
  /-- PORT_LOCK (R349): Lanes, FEC and alignment lock in TRAINING and the port enters CHECK. -/
  | portLock (port : Nat)
  /-- IDENT_SEND (R343): A port sends its identity record every 10 µs in CHECK or every 100 ms in ACTIVE. -/
  | identSend (port : Nat)
  /-- IDENT (R344): An identity record arrives and is compared with the plan. -/
  | ident (port : Nat)
  /-- NO_RECORD (R344): No valid record arrives within 10 ms of CHECK, and the port is quarantined. -/
  | noRecord (port : Nat)
  /-- UNIT_ERROR_RECOVERY (R364): An error charged to a unit discards work, withdraws the unit and starts its test. -/
  | unitErrorRecovery
  /-- SELF_TEST_DONE (R366): A targeted self-test ends and its verdict is decided. -/
  | selfTestDone (utype unit : Nat) (pass : Bool)
  /-- RETURN_TEST_START (R437): A returned unit's domain is withdrawn at the next commit boundary and tested. -/
  | returnTestStart (utype unit : Nat)
  /-- EN_ASSERT (R382): EN is recognised and the power-up sequence begins. -/
  | enAssert
  /-- EN_DEASSERT (R385): EN is deasserted with main power and the power-fail sequence runs. -/
  | enDeassert
  /-- POWER_GOOD (R382): Rails are good; PG is asserted and the tick count starts. -/
  | powerGood
  /-- RAIL_START_FAIL (R383): A rail fails to become good within its bound; rails go off and RAIL_FAULT is reported. -/
  | railStartFail (rail : Nat)
  /-- RAIL_OUT_OF_WINDOW (R383): A rail stays more than 5 % from its level for 10 µs. -/
  | railOutOfWindow (rail : Nat)
  /-- INPUT_UNDERVOLTAGE (R379): The input falls below 38.5 V for 10 µs and the power-fail sequence starts. -/
  | inputUndervoltage (vin : Nat)
  /-- INPUT_COLLAPSE (R406): The input falls below 36.0 V and the sequence ends with every rail off. -/
  | inputCollapse (vin : Nat)
  /-- INPUT_RESTART (R379): The input exceeds 39.5 V after an undervoltage and the module may start again. -/
  | inputRestart (vin : Nat)
  /-- INPUT_OVERVOLTAGE (R379): The input exceeds 62 V; logic rails go off and PG is deasserted. -/
  | inputOvervoltage (vin : Nat)
  /-- PFW_RECOGNISED (R405): PFW# is recognised; the module holds, writes what it can and seals chains. -/
  | pfwRecognised
  /-- PFW_POWER_OFF (R405): 3.0 ms after PFW# recognition PG is deasserted and rails go off. -/
  | pfwPowerOff
  /-- DROOP_TRIP (R386): A rail falls 40 mV below its setpoint and its domain is held. -/
  | droopTrip (domain : Nat)
  /-- DROOP_RELEASE (R386): A rail stays above setpoint − 20 mV for 20 ns and the hold is released. -/
  | droopRelease (domain held : Nat)
  /-- POWER_SAMPLE (R394): Input power is sampled every 1,000 ticks into the 1 ms average. -/
  | powerSample (watts : Nat) (uj : List (Nat × Nat))
  /-- GOVERNOR_ACTION (R394): Every 10,000 ticks the governor lowers, raises or keeps VSET. -/
  | governorAction
  /-- FLOOR_PACE_CLIMB (R395): A once-per-ms climb step out of floor pace in free-running mode. -/
  | floorPaceClimb
  /-- DEPARTURE_RETURN (R392): Every cause of a departure clears and the module returns to the pace rate. -/
  | departureReturn
  /-- THERMAL_SAMPLE (R402): Junction sensors are read every 100 µs and the thermal responses applied. -/
  | thermalSample (sensors : List Int) (inlet outlet : Int)
  /-- THERMAL_STOP_END (R402): Tj ≤ 95 °C for 10 s ends the thermal stop and starts the ramp. -/
  | thermalStopEnd
  /-- HARDWARE_TRIP (R404): A trip sensor reaches 115 °C; PG is deasserted and rails go off. -/
  | hardwareTrip
  /-- HEARTBEAT_LOST (R393): No heartbeat for 2 s; the rack cap becomes ORPHCAP. -/
  | heartbeatLost
  /-- PERST_ASSERT (R410): PERST# is asserted with main power; boot is abandoned or partitions end with RESET seals. -/
  | perstAssert
  /-- BOOT_START (R408): PG is asserted and PERST# deasserted; Electrum's ROM starts. -/
  | bootStart (failed : List (Nat × Nat))
  /-- LPDDR6_TRAINING_DONE (R408): Every memory group is trained and calibrated. -/
  | lpddr6TrainingDone
  /-- BUNDLE_REGISTER (R420): Registers a firmware bundle and starts fetching it. -/
  | bundleRegister (req : List Byte)
  /-- BUNDLE_FETCHED (R415): The bundle is read and hashed, and its checks decided. -/
  | bundleFetched
  /-- FUSE_PROGRAM_DONE (R412): SVNMIN and ROOTREV fuses are programmed and boot enters STARTING. -/
  | fuseProgramDone (ok : Bool)
  /-- BOOT_RUNNING (R409): Runtime firmware is started and the module reaches RUNNING. -/
  | bootRunning
  /-- GET_VERSION (R417): SPDM GET_VERSION. -/
  | getVersion (req : List Byte)
  /-- GET_CAPABILITIES (R417): SPDM GET_CAPABILITIES. -/
  | getCapabilities (req : List Byte)
  /-- NEGOTIATE_ALGORITHMS (R417): SPDM NEGOTIATE_ALGORITHMS. -/
  | negotiateAlgorithms (req : List Byte)
  /-- GET_DIGESTS (R417): SPDM GET_DIGESTS. -/
  | getDigests (req : List Byte)
  /-- GET_CERTIFICATE (R417): SPDM GET_CERTIFICATE from a slot. -/
  | getCertificate (req : List Byte)
  /-- CHALLENGE (R417): SPDM CHALLENGE signed with slot 0. -/
  | challenge (req : List Byte)
  /-- GET_MEASUREMENTS (R418): Returns the measurement blocks taken at one instant. -/
  | getMeasurements (req : List Byte)
  /-- SPDM_UNSUPPORTED_REQUEST (R417): An unsupported SPDM request receives ERROR UnsupportedRequest. -/
  | spdmUnsupportedRequest (req : List Byte)
  /-- BOOT_STATUS (R420): Returns the boot state, its tick and BM. -/
  | bootStatus (req : List Byte)
  /-- SEAL_RING_SET (R424): Sets the seal ring in PF host memory. -/
  | sealRingSet (req : List Byte)
  /-- SEAL_GET (R420): Returns the latest seal of a partition. -/
  | sealGet (req : List Byte)
  /-- EPOCH_TIME_END (R242): An epoch reaches 1 s and ends. -/
  | epochTimeEnd (part : Nat)
  /-- EPOCH_SEAL (R422): Electrum signs a seal of the chain head for an ended epoch. -/
  | epochSeal (part : Nat)
  /-- SEAL_RING_WRITE (R424): A held seal is written to the seal ring when it has room. -/
  | sealRingWrite
  /-- STANDBY_UP (R428): Standby power is applied and Pewter starts with empty stores. -/
  | standbyUp (ga : Nat)
  /-- PEWTER_READY (R454): Pewter is ready after standby good and EN may be recognised. -/
  | pewterReady
  /-- STANDBY_LOSS (R447): Standby power is lost; the module acts as on a hardware trip and the stores are lost. -/
  | standbyLoss
  /-- SETDASA (R429): I3C SETDASA assigns Pewter's dynamic address. -/
  | setdasa (addr : Nat)
  /-- ENTDAA (R429): I3C ENTDAA dynamic address assignment. -/
  | entdaa (addr : Nat)
  /-- I3C_INDEX_WRITE (R429): A one-byte private write selects a tray register index. -/
  | i3cIndexWrite (index : Nat)
  /-- I3C_REGISTER_WRITE (R430): A private write of index and 8 data bytes writes a tray register. -/
  | i3cRegisterWrite (index : Nat) (value : Dword)
  /-- HEARTBEAT (R434): A rack manager heartbeat is received. -/
  | heartbeat (msg : List Byte)
  /-- SETTINGS_PUT (R381): Delivers a power settings block. -/
  | settingsPut (msg : List Byte)
  /-- PLAN_PUT (R435): Delivers one chunk of a wiring plan, checking the plan on the last. -/
  | planPut (msg : List Byte)
  /-- TELEM_GET (R436): Returns a telemetry group. -/
  | telemGet (msg : List Byte)
  /-- LOG_GET (R434): Returns entries of a fault, cap excursion or departure log. -/
  | logGet (msg : List Byte)
  /-- RETURN (R437): Requests the return to service of a fenced unit. -/
  | returnUnit (msg : List Byte)
  /-- SETTINGS_GET (R434): Returns the power settings in force and pending. -/
  | settingsGet (msg : List Byte)
  /-- SRING (R441): Sets a function's sample ring. -/
  | sring (ch : Nat)
  /-- SSET (R441): Sets or replaces a sampling set. -/
  | sset (ch : Nat)
  /-- SSTOP (R441): Stops a sampling set. -/
  | sstop (ch : Nat)
  /-- SAMPLE_TICK (R443): A set's sample tick arrives and its points are read and written to the ring. -/
  | sampleTick (fn set : Nat) (values : List Nat)
  /-- HOST_READ_COMPLETION (R276): The completions of a host read arrive and its data is delivered to the stream engine, admission check, prompt check or parameter-block check that waits for it. -/
  | hostReadCompletion (read : Nat) (data : List Byte)
  /-- HOST_LINK_DL_ACTIVE (R277): The host link enters DL_Active (at boot event 2 or after a loss), after which the module may issue host reads again. -/
  | hostLinkDlActive
  /-- VF_ENABLE_SET (R325): The host sets VF Enable, so the VFs' engines may reach HOST addresses and the VF mailbox domains stop being down. -/
  | vfEnableSet
  /-- PART_CREATE_COMPLETE (R353): The clearing of a new partition's groups and cores ends, its system region and chain are set up, STATUS.PEX becomes 1 and the partition becomes EMPTY. -/
  | partCreateComplete (part : Nat)
  /-- COBALT_TIMER_COMPARE (R150): The tick count reaches a Cobalt core's timer compare value and its interrupt becomes pending. -/
  | cobaltTimerCompare (sector : Nat)
  /-- START_RAMP_PACE_STEP (R384): During the 20 ms start ramp in paced mode, the pace rate rises by one 10 M items/s step at its equally spaced moment. -/
  | startRampPaceStep
  /-- RACK_MANAGER_MALFORMED (R433): A rack manager message of reserved type, with a non-zero reserved field or a wrong LEN is answered MALFORMED and nothing else happens. -/
  | rackManagerMalformed (msg : List Byte)
  deriving DecidableEq, Repr

end Sys2Proof
end

