-- ==== Sys2Proof/Decode.lean ====
section
/-! DEFINITION. Words of the opcode table. The table gives no row any bits. -/

namespace Sys2Proof

/-- The command that a word spells by the table's bits: every row has an empty field list, so there is none.
DESIGN CHOICE: log entry 5. -/
def decodeTableWord (_nbits _w : Nat) : Option Instr := none

end Sys2Proof
end

