-- ==== Sys2Proof/Config.lean ====
section
/-! DEFINITION. What each module fixes for itself or the manual leaves open: constants without a body, so that no proof can
see their values. -/

namespace Sys2Proof.Config

/-- R411: the fused serial number, below 2^64 in every module. -/
opaque serial : BitVec 64
/-- R411: the SHA-512 of the four bundle-signing public keys. -/
opaque rootHash : Nat → List Byte
/-- R411: the device identity key's private part, and the treatment signing key's as a function of BM. -/
opaque dik : Nat
opaque tsk : List Byte → Nat
/-- R418: the SHA-512 of Electrum's ROM. -/
opaque romDigest : List Byte
/-- R411: the DIK certificate chain of the identity store, and the TSK certificate that Electrum issues for a BM. -/
opaque dikChain : List Byte
/-- SPDM: the SHA-512 of the root certificate of that chain. -/
opaque dikRoot : List Byte
opaque tskCert : List Byte → List Byte
/-- R421: draws of Electrum's random bit generator, and the SPDM nonces. -/
opaque drbg : Nat → BitVec 128
opaque nonce : Nat → List Byte
/-- R419: the Vendor ID of the PF's configuration header. -/
opaque vendorId : BitVec 16
/-- R440: the start-of-life count of a sector, fused at manufacture. -/
opaque startOfLife : Nat → Nat
/-- R256, R278: where firmware of R2 places the receive buffer of a holder (chip, partition) for the jobs of a sender (chip,
partition) and a half, and the sender's buffer for the results; local offsets. -/
opaque jobBuf : Nat → Nat → Nat → Nat → Nat → Nat
opaque resultBuf : Nat → Nat → Nat → Nat → Nat → Nat
/-- R280, R282: where the firmware of a chip places a segment of a chain's destination and the chain's notice window, by chip,
CHAINID and segment; local offsets at that chip. -/
opaque chainSeg : Nat → Nat → Nat → Nat
opaque chainNotice : Nat → Nat → Nat
/-- R189, R235: the model layer whose residual output a layer of a configuration image writes, by model image digest,
configuration image and layer: the image's own parameters hold it in a form that the bundle defines. -/
opaque residualOf : List Byte → Nat → Nat → Option Nat
/-- R217, R284: the KV plane whose slices the rows of a layer's D are, likewise. -/
opaque kvPlane : List Byte → Nat → Nat → Option Nat
/-- R225 item 1: what firmware writes before the layers of a chunk or step run (input rows and problem lists): by model
image digest, configuration image, the rows as (row tag, position, token id) and the places of KV slices by row tag,
position and plane; local offsets with their bytes. -/
opaque inputWrites : List Byte → Nat → List (Nat × Nat × Nat) → (Nat → Nat → Nat → Option Nat) → List (Nat × List Byte)
/-- R249: the layer whose D rows are the activation rows of an expert layer, by model image digest and expert layer; and where
firmware has the output rows of an expert layer, by partition, expert layer, prefill or decode, and row of the batch. -/
opaque expertIn : List Byte → Nat → Nat
opaque expertOut : Nat → Nat → Bool → Nat → Nat
/-- R143, R357: the vector programs that firmware writes to a core for a model, and where its parameters go in a Cobalt core's
data memory, by model image digest. -/
opaque vecProgram : List Byte → Nat → List Dword
opaque paramAt : List Byte → Nat
/-- R223: the rows of a decode matrix that firmware assigns to lent sectors, by layer and row. -/
opaque lentRow : Nat → Nat → Bool
/-- R215: where firmware places the page table and the request area of an RTE in the system region of a partition. -/
opaque tableAt : Nat → Nat → Nat
opaque areaAt : Nat → Nat → Nat
/-- R213, R240: the prompt buffer in memory outside the module, which its host program must not change while the request runs,
by function, global address and length. -/
opaque promptBytes : Nat → Nat → Nat → List Byte
/-- Values that the manual leaves open, by the number of the draw. -/
opaque freeValue : Nat → Nat

end Sys2Proof.Config
end

