-- ==== Sys2Proof/Machine/Bits.lean ====
section
/-! DEFINITION. Bit fields, byte order (R9) and the operations on sparse maps: one home for each. -/

namespace Sys2Proof.Machine

/-- Bits `[lo + w - 1 : lo]` of a number. -/
def bits (x lo w : Nat) : Nat := x / 2 ^ lo % 2 ^ w

/-- One bit of a number. -/
def bit (x n : Nat) : Bool := x / 2 ^ n % 2 == 1

/-- The number 1 for true, 0 for false. -/
def b2n (b : Bool) : Nat := if b then 1 else 0

/-- Bits `[lo + w - 1 : lo]` of `x` replaced by the low `w` bits of `v`. -/
def putBits (x lo w v : Nat) : Nat :=
  x - bits x lo w * 2 ^ lo + v % 2 ^ w * 2 ^ lo

/-- R50: the value of a two's complement code of `w` bits. -/
def sext (w c : Nat) : Int :=
  let c := c % 2 ^ w
  if 2 * c < 2 ^ w then (c : Int) else (c : Int) - (2 ^ w : Nat)

/-- The two's complement code of `w` bits of an integer. -/
def wrapInt (w : Nat) (v : Int) : Nat := (v % ((2 ^ w : Nat) : Int)).toNat

/-- R9: the number a little-endian run of bytes holds. -/
def leNat : List Byte → Nat
  | [] => 0
  | b :: r => b.toNat + 256 * leNat r

/-- R9: the `n` little-endian bytes of a number. -/
def leBytes : Nat → Nat → List Byte
  | 0, _ => []
  | n + 1, x => BitVec.ofNat 8 x :: leBytes n (x / 256)

/-- The number a big-endian run of bytes holds (digests and signatures, R9). -/
def beNat (bs : List Byte) : Nat := leNat bs.reverse

/-- The `n` big-endian bytes of a number. -/
def beBytes (n x : Nat) : List Byte := (leBytes n x).reverse

/-- `n` zero bytes. -/
def zeros (n : Nat) : List Byte := List.replicate n 0

/-- Bytes `off` to `off + n - 1` of a run, as a little-endian number; bytes past the end count as 0. -/
def fld (bs : List Byte) (off n : Nat) : Nat := leNat ((bs.drop off).take n)

/-- Whether bytes `off` to `off + n - 1` of a run are all 0. -/
def zeroAt (bs : List Byte) (off n : Nat) : Bool := ((bs.drop off).take n).all (· == 0)

/-- `x` rounded up to a multiple of `m`. -/
def roundUp (x m : Nat) : Nat := (x + m - 1) / m * m

/-- The quotient rounded up. -/
def ceilDiv (a b : Nat) : Nat := (a + b - 1) / b

/-- A power of two? -/
def isPow2 (n : Nat) : Bool := n != 0 && 2 ^ Nat.log2 n == n

/-- The entries of a list with their places, from `k` on. -/
def numbered {α : Type} (k : Nat) : List α → List (Nat × α)
  | [] => []
  | x :: xs => (k, x) :: numbered (k + 1) xs

/-- The place of the first entry that satisfies `p`. -/
def firstIdx {α : Type} (p : α → Bool) (xs : List α) : Option Nat :=
  ((numbered 0 xs).find? (fun q => p q.2)).map (·.1)

/-- The list with the first entry that satisfies `p` taken out. -/
def dropFirst {α : Type} (p : α → Bool) : List α → List α
  | [] => []
  | x :: xs => if p x then xs else x :: dropFirst p xs

/-- The list with `f` applied to every entry that satisfies `p`. -/
def updateWhere {α : Type} (p : α → Bool) (f : α → α) (xs : List α) : List α :=
  xs.map (fun x => if p x then f x else x)


/-- What a key reads as; `d` is what an unlisted key reads as. DESIGN CHOICE: log entry 7. -/
def SGet {V : Type} (d : V) (m : SMap V) (k : Nat) : V :=
  match m with
  | [] => d
  | (j, v) :: r => if j = k then v else SGet d r k

/-- The map without the key. -/
def SErase {V : Type} (m : SMap V) (k : Nat) : SMap V :=
  match m with
  | [] => []
  | (j, v) :: r => if j = k then SErase r k else (j, v) :: SErase r k

/-- The map with the key bound, in key order. -/
def SPut {V : Type} (m : SMap V) (k : Nat) (v : V) : SMap V :=
  match m with
  | [] => [(k, v)]
  | (j, w) :: r =>
    if k < j then (k, v) :: (j, w) :: r
    else if j = k then (k, v) :: r
    else (j, w) :: SPut r k v

/-- A write: it keeps the canonical form, so the value an unlisted key reads as removes the entry. -/
def SSet {V : Type} [DecidableEq V] (d : V) (m : SMap V) (k : Nat) (v : V) : SMap V :=
  if v = d then SErase m k else SPut m k v

/-- The canonical form, with every key above `lo`. -/
def SWfFrom {V : Type} [DecidableEq V] (d : V) (lo : Nat) : SMap V → Bool
  | [] => true
  | (j, v) :: r => decide (lo ≤ j) && decide (v ≠ d) && SWfFrom d (j + 1) r

/-- The canonical form: keys strictly rising, no entry equal to what an unlisted key reads as. -/
def SWf {V : Type} [DecidableEq V] (d : V) (m : SMap V) : Bool := SWfFrom d 0 m

/-- Writes of a run of values to consecutive keys. -/
def SSetRun {V : Type} [DecidableEq V] (d : V) (m : SMap V) (k : Nat) : List V → SMap V
  | [] => m
  | v :: vs => SSetRun d (SSet d m k v) (k + 1) vs

/-- A run of `n` consecutive keys. -/
def SGetRun {V : Type} (d : V) (m : SMap V) (k : Nat) : Nat → List V
  | 0 => []
  | n + 1 => SGet d m k :: SGetRun d m (k + 1) n

end Sys2Proof.Machine
end

