-- ==== Sys2Proof/Machine/Operands.lean ====
section
/-! DEFINITION. Operand forms: the number formats of elements (R48 to R56, R70). Element codes are numbers below 2^w. -/

namespace Sys2Proof

open Sys2Proof.Machine

/-- R48: width in bits. -/
def Fmt.width : Fmt → Nat
  | .i4 => 4 | .i8 => 8 | .i16 => 16 | .i32 => 32 | .g4 => 4 | .g8 => 8 | .f16 => 16 | .f32 => 32

/-- R48: the format of a 3-bit code. -/
def Fmt.ofCode (c : Nat) : Fmt :=
  match c % 8 with
  | 0 => .i4 | 1 => .i8 | 2 => .i16 | 3 => .i32 | 4 => .g4 | 5 => .g8 | 6 => .f16 | _ => .f32

/-- R48: the 3-bit code of a format. -/
def Fmt.code : Fmt → Nat
  | .i4 => 0 | .i8 => 1 | .i16 => 2 | .i32 => 3 | .g4 => 4 | .g8 => 5 | .f16 => 6 | .f32 => 7

/-- R48: integer formats. -/
def Fmt.isInt : Fmt → Bool
  | .i4 | .i8 | .i16 | .i32 => true
  | _ => false

/-- R65: the formats a dot product takes. -/
def Fmt.isOperand (f : Fmt) : Bool := f != .i32 && f != .f32

/-- R66: the formats that carry group scales. -/
def Fmt.isScaled (f : Fmt) : Bool := f == .g4 || f == .g8

/-- R70: mantissa bits M. -/
def Fmt.M : Fmt → Nat
  | .g4 => 1 | .g8 => 3 | .f16 => 10 | .f32 => 23 | _ => 0

/-- R70: bias B. -/
def Fmt.B : Fmt → Int
  | .g4 => 1 | .g8 => 7 | .f16 => 15 | .f32 => 127 | _ => 0

/-- R70: sign bit position P. -/
def Fmt.P (f : Fmt) : Nat := Fmt.width f - 1

/-- R70: MAXSIG. -/
def Fmt.maxSig : Fmt → Nat
  | .g4 => 3 | .g8 => 7 | .f16 => 2047 | .f32 => 2 ^ 24 - 1 | _ => 0

/-- R70: MAXE. -/
def Fmt.maxE : Fmt → Int
  | .g4 => 1 | .g8 => 6 | .f16 => 5 | .f32 => 104 | _ => 0

/-- R56: the code of the largest finite value. -/
def Fmt.largest : Fmt → Nat
  | .i4 => 0x7 | .i8 => 0x7F | .i16 => 0x7FFF | .i32 => 0x7FFFFFFF
  | .g4 => 0x7 | .g8 => 0x7E | .f16 => 0x7BFF | .f32 => 0x7F7FFFFF

/-- R56: the code of the smallest finite value. -/
def Fmt.smallest : Fmt → Nat
  | .i4 => 0x8 | .i8 => 0x80 | .i16 => 0x8000 | .i32 => 0x80000000
  | .g4 => 0xF | .g8 => 0xFE | .f16 => 0xFBFF | .f32 => 0xFF7FFFFF

/-- R63: the canonical NaN of a float format. -/
def Fmt.qnan : Fmt → Nat
  | .g4 => 0x8 | .g8 => 0x7F | .f16 => 0x7E00 | .f32 => 0x7FC00000 | _ => 0

/-- R52, R70: the zero of sign `s`; G4 has one zero. -/
def Fmt.encZero (f : Fmt) (s : Bool) : Nat := if f == .g4 then 0 else b2n s * 2 ^ Fmt.P f

/-- R70: the infinity of sign `s` (F16 and F32). -/
def Fmt.encInf (f : Fmt) (s : Bool) : Nat :=
  b2n s * 2 ^ Fmt.P f + (2 ^ (Fmt.P f - Fmt.M f) - 1) * 2 ^ Fmt.M f

/-- R70: the largest finite magnitude of sign `s`. -/
def Fmt.encMax (f : Fmt) (s : Bool) : Nat := if s then Fmt.smallest f else Fmt.largest f

/-- R51, R53, R55: the NaN codes. -/
def Fmt.isNanCode (f : Fmt) (c : Nat) : Bool :=
  match f with
  | .g4 => c % 16 == 0x8
  | .g8 => bits c 0 7 == 0x7F
  | .f16 => bits c 10 5 == 31 && bits c 0 10 != 0
  | .f32 => bits c 23 8 == 255 && bits c 0 23 != 0
  | _ => false

/-- R55: the infinity codes, F16 and F32 only. -/
def Fmt.isInfCode (f : Fmt) (c : Nat) : Bool :=
  match f with
  | .f16 => bits c 10 5 == 31 && bits c 0 10 == 0
  | .f32 => bits c 23 8 == 255 && bits c 0 23 == 0
  | _ => false

/-- R147: a zero of either sign. -/
def Fmt.isZeroCode (f : Fmt) (c : Nat) : Bool :=
  if f.isInt then c % 2 ^ f.width == 0
  else if f == .g4 then c % 16 == 0 else bits c 0 (Fmt.P f) == 0

/-- R70: weight of the smallest product of a format. -/
def Fmt.LO (f : Fmt) : Int := if f.isInt then 0 else 2 * (1 - Fmt.B f - (Fmt.M f : Int))

/-- R49: elements of a row of `n` in a format, from its bytes. -/
def Machine.rowElems (f : Fmt) (n : Nat) (bs : List Byte) : List Nat :=
  if f.width = 4 then (List.range n).map (fun i => bits (fld bs (i / 2) 1) (4 * (i % 2)) 4)
  else (List.range n).map (fun i => fld bs (i * (f.width / 8)) (f.width / 8))

/-- R49, R169: the bytes of a row of element codes; the last byte of an odd row of 4-bit elements has 0 in bits [7:4]. -/
def Machine.packRow (f : Fmt) : List Nat → List Byte
  | [] => []
  | [x] => if f.width = 4 then leBytes 1 (x % 16) else leBytes (f.width / 8) x
  | x :: y :: r => if f.width = 4 then leBytes 1 (x % 16 + 16 * (y % 16)) ++ packRow f r
      else leBytes (f.width / 8) x ++ packRow f (y :: r)

end Sys2Proof
end

