-- ==== Sys2Proof/Machine/Flags.lean ====
section
/-! DEFINITION. The sticky flags (R61) and what decides how arithmetic raises them: FLUSH, IOVF and OVM (R57, R59). -/

namespace Sys2Proof.Machine

/-- R61: the flags. -/
def flagSAT : Flg := 1
def flagOVF : Flg := 2
def flagFLSH : Flg := 4
def flagNAN : Flg := 8

/-- The flags of a list of flagged values, joined. -/
def flagsOf {α : Type} (xs : List (α × Flg)) : Flg := xs.foldl (fun fl x => fl ||| x.2) 0

/-- R57: what the arithmetic of a context reads of its numeric mode word. -/
structure Mode where
  flush : Bool
  iovf  : Bool
  deriving DecidableEq, Repr

/-- R57: FLUSH is bit 0 and IOVF bit 1 of the mode word. -/
def Mode.ofWord (w : Nat) : Mode := ⟨bit w 0, bit w 1⟩

/-- R59: whether an overflow wraps, OVM resolved through the context's IOVF. -/
def ovmWraps (md : Mode) (ovm : Nat) : Bool :=
  match ovm % 4 with
  | 0 => md.iovf
  | 2 => true
  | _ => false

end Sys2Proof.Machine
end

