-- ==== Sys2Proof/Machine/Numeric.lean ====
section
/-! DEFINITION. Decoding, rounding and the defined dot product (R63 to R74), by the reference pseudocode of R70. Every function
answers a code and the flags it raised. -/

namespace Sys2Proof.Machine

/-- R70: the class of a decoded number. -/
inductive Cls where
  | zero | fin | inf | nan
  deriving DecidableEq, Repr

/-- R70: a decoded number; a FIN value is (-1)^s * sig * 2^e. -/
structure Num where
  cls : Cls
  s   : Bool
  sig : Nat
  e   : Int
  deriving DecidableEq, Repr

/-- R70 `decode`. -/
def fdecode (flush : Bool) (f : Fmt) (c : Nat) : Num × Flg :=
  let s := bit c (Fmt.P f)
  let ef := bits c (Fmt.M f) (Fmt.P f - Fmt.M f)
  let mf := bits c 0 (Fmt.M f)
  if Fmt.isNanCode f c then (⟨.nan, s, 0, 0⟩, 0)
  else if Fmt.isInfCode f c then (⟨.inf, s, 0, 0⟩, 0)
  else if ef = 0 then
    if mf = 0 then (⟨.zero, s, 0, 0⟩, 0)
    else if flush then (⟨.zero, if f == .g4 then false else s, 0, 0⟩, flagFLSH)
    else (⟨.fin, s, mf, 1 - Fmt.B f - (Fmt.M f : Int)⟩, 0)
  else (⟨.fin, s, 2 ^ Fmt.M f + mf, (ef : Int) - Fmt.B f - (Fmt.M f : Int)⟩, 0)

/-- `n * 2^e` where that is an integer. -/
def mulPow2 (n : Nat) (e : Int) : Nat :=
  if 0 ≤ e then n * 2 ^ e.toNat else n / 2 ^ (-e).toNat

/-- The signed form of `mulPow2`, for e ≥ 0. -/
def imulPow2 (v : Int) (e : Int) : Int := v * ((2 ^ e.toNat : Nat) : Int)

/-- `a * 2^ea > b * 2^eb`, exactly. -/
def gtPow2 (a : Nat) (ea : Int) (b : Nat) (eb : Int) : Bool :=
  let lo := min ea eb
  decide (a * 2 ^ (ea - lo).toNat > b * 2 ^ (eb - lo).toNat)

/-- R70: the weight-`q` rounding of `sig * 2^e`: the kept significand and its weight. -/
def roundAt (rtz : Bool) (sig : Nat) (e q : Int) : Nat × Int :=
  if e < q then
    let d := 2 ^ (q - e).toNat
    let k := sig / d
    let rem := sig - k * d
    (if !rtz && (decide (2 * rem > d) || (2 * rem == d && k % 2 == 1)) then k + 1 else k, q)
  else (sig, e)

/-- R70 `round_float`: (-1)^s * sig * 2^e (sig > 0) rounded into a float format. -/
def roundFloat (flush : Bool) (f : Fmt) (s : Bool) (sig : Nat) (e : Int) (rtz : Bool) : Nat × Flg :=
  let q := max ((Nat.log2 sig : Int) + e) (1 - Fmt.B f) - (Fmt.M f : Int)
  let r := roundAt rtz sig e q
  let sg := r.1
  let ex := r.2
  if sg = 0 then (Fmt.encZero f s, 0)
  else if gtPow2 sg ex (Fmt.maxSig f) (Fmt.maxE f) then
    if f == .g4 || f == .g8 || rtz then (Fmt.encMax f s, flagSAT) else (Fmt.encInf f s, flagOVF)
  else
    let t := (Nat.log2 sg : Int) + ex
    if t < 1 - Fmt.B f then
      if flush then (Fmt.encZero f s, flagFLSH)
      else (b2n s * 2 ^ Fmt.P f + mulPow2 sg (ex - (1 - Fmt.B f - (Fmt.M f : Int))), 0)
    else
      let m := mulPow2 sg (ex - (t - (Fmt.M f : Int))) - 2 ^ Fmt.M f
      (b2n s * 2 ^ Fmt.P f + (t + Fmt.B f).toNat * 2 ^ Fmt.M f + m, 0)

/-- R70: a signed exact value `v * 2^e` (v ≠ 0) rounded into a float format. -/
def roundInt (flush : Bool) (f : Fmt) (v e : Int) (rtz : Bool) : Nat × Flg :=
  roundFloat flush f (decide (v < 0)) v.natAbs e rtz

/-- The signed significand of a decoded number: 0 for a zero. -/
def Num.ssig (x : Num) : Int :=
  match x.cls with
  | .zero => 0
  | _ => if x.s then -(x.sig : Int) else (x.sig : Int)

/-- The exponent of a decoded number: 0 for a zero. -/
def Num.sexp (x : Num) : Int :=
  match x.cls with
  | .zero => 0
  | _ => x.e

/-- R70 `add_f32`. -/
def addF32 (flush : Bool) (x y : Nat) : Nat × Flg :=
  let a := fdecode flush .f32 x
  let b := fdecode flush .f32 y
  let fl := a.2 ||| b.2
  let n := a.1
  let m := b.1
  if n.cls = .nan ∨ m.cls = .nan then (Fmt.qnan .f32, fl ||| flagNAN)
  else if n.cls = .inf ∧ m.cls = .inf ∧ n.s ≠ m.s then (Fmt.qnan .f32, fl ||| flagNAN)
  else if n.cls = .inf then (Fmt.encInf .f32 n.s, fl)
  else if m.cls = .inf then (Fmt.encInf .f32 m.s, fl)
  else if n.cls = .zero ∧ m.cls = .zero then (Fmt.encZero .f32 (n.s && m.s), fl)
  else if n.cls = .zero then
    let r := roundFloat flush .f32 m.s m.sig m.e false
    (r.1, fl ||| r.2)
  else if m.cls = .zero then
    let r := roundFloat flush .f32 n.s n.sig n.e false
    (r.1, fl ||| r.2)
  else
    let lo := min n.e m.e
    let v := imulPow2 n.ssig (n.e - lo) + imulPow2 m.ssig (m.e - lo)
    if v = 0 then (Fmt.encZero .f32 false, fl)
    else
      let r := roundInt flush .f32 v lo false
      (r.1, fl ||| r.2)

/-- R67 step 5, R72, R74: an exact integer brought into `w` bits by the overflow rule. -/
def intFit (w : Nat) (wraps : Bool) (v : Int) : Nat × Flg :=
  let half : Int := ((2 ^ (w - 1) : Nat) : Int)
  if -half ≤ v ∧ v < half then (wrapInt w v, 0)
  else if wraps then (wrapInt w v, flagOVF)
  else (if v < 0 then 2 ^ (w - 1) else 2 ^ (w - 1) - 1, flagSAT)

/-- R70 `int_add32`. -/
def intAdd32 (acc : Nat) (S : Int) (wraps : Bool) : Nat × Flg := intFit 32 wraps (sext 32 acc + S)

/-- R70: what a group of products has come to so far. -/
structure GroupAcc where
  S       : Int
  nan     : Bool
  pinf    : Bool
  ninf    : Bool
  allneg0 : Bool
  n       : Nat
  deriving DecidableEq, Repr

/-- A group before its first product. -/
def GroupAcc.empty : GroupAcc := ⟨0, false, false, false, true, 0⟩

/-- R70: one product joined to a group, with the flags decoding raised. -/
def groupStep (flush : Bool) (f : Fmt) (g : GroupAcc) (a b : Nat) : GroupAcc × Flg :=
  if f.isInt then
    ({ g with S := g.S + sext f.width a * sext f.width b, n := g.n + 1 }, 0)
  else
    let x := fdecode flush f a
    let y := fdecode flush f b
    let fl := x.2 ||| y.2
    let s := x.1.s != y.1.s
    let g := { g with n := g.n + 1 }
    if x.1.cls = .nan ∨ y.1.cls = .nan then ({ g with nan := true }, fl)
    else if x.1.cls = .inf ∨ y.1.cls = .inf then
      if x.1.cls = .zero ∨ y.1.cls = .zero then ({ g with nan := true }, fl)
      else if s then ({ g with ninf := true }, fl) else ({ g with pinf := true }, fl)
    else if x.1.cls = .zero ∨ y.1.cls = .zero then
      (if s then g else { g with allneg0 := false }, fl)
    else
      let p := imulPow2 ((x.1.sig * y.1.sig : Nat) : Int) (x.1.e + y.1.e - Fmt.LO f)
      ({ g with allneg0 := false, S := if s then g.S - p else g.S + p }, fl)

/-- R67, R68, R69: a group's end: its value joined to the accumulator. A group of fewer than 32 products
is completed with pad elements, whose products are +0. -/
def groupEnd (md : Mode) (wraps : Bool) (f : Fmt) (g : GroupAcc) (sa sb : Int) (acc : Nat) : Nat × Flg :=
  if f.isInt then intAdd32 acc g.S wraps
  else
    let allneg0 := g.allneg0 && g.n == 32
    let gv : Nat × Flg :=
      if g.nan ∨ (g.pinf ∧ g.ninf) then (Fmt.qnan .f32, flagNAN)
      else if g.pinf then (Fmt.encInf .f32 false, 0)
      else if g.ninf then (Fmt.encInf .f32 true, 0)
      else if g.S = 0 then (Fmt.encZero .f32 allneg0, 0)
      else roundInt md.flush .f32 g.S (Fmt.LO f + sa + sb) false
    let r := addF32 md.flush acc gv.1
    (r.1, gv.2 ||| r.2)

/-- R70: the products of one group, in order. -/
def groupFold (flush : Bool) (f : Fmt) : List (Nat × Nat) → GroupAcc → Flg → GroupAcc × Flg
  | [], g, fl => (g, fl)
  | (a, b) :: r, g, fl =>
    let x := groupStep flush f g a b
    groupFold flush f r x.1 (fl ||| x.2)

/-- R70 `dot`, group by group: `fuel` bounds the groups, ⌈K / 32⌉ of them. Scales default to 0. -/
def dotGroups (md : Mode) (wraps : Bool) (f : Fmt) :
    Nat → List (Nat × Nat) → List Int → List Int → Nat → Flg → Nat × Flg
  | 0, _, _, _, acc, fl => (acc, fl)
  | n + 1, ps, sa, sb, acc, fl =>
    match ps with
    | [] => (acc, fl)
    | _ =>
      let g := groupFold md.flush f (ps.take 32) GroupAcc.empty 0
      let r := groupEnd md wraps f g.1 (sa.headD 0) (sb.headD 0) acc
      dotGroups md wraps f n (ps.drop 32) sa.tail sb.tail r.1 (fl ||| g.2 ||| r.2)

/-- R67 to R71: the defined dot product of K pairs of element codes. -/
def dot (md : Mode) (wraps : Bool) (f : Fmt) (ps : List (Nat × Nat)) (sa sb : List Int) (acc : Nat) :
    Nat × Flg :=
  dotGroups md wraps f (ceilDiv ps.length 32) ps sa sb acc 0

/-- R72: a finite float rounded to an integer. -/
def roundToInt (rtz : Bool) (x : Num) : Int :=
  let r := roundAt rtz x.sig x.e 0
  let m : Int := ((mulPow2 r.1 r.2 : Nat) : Int)
  if x.s then -m else m

/-- R72: a conversion. -/
def convert (md : Mode) (ovm : Nat) (rtz : Bool) (src dst : Fmt) (c : Nat) : Nat × Flg :=
  let wr := ovmWraps md ovm
  if src.isInt then
    let v := sext src.width c
    if dst.isInt then intFit dst.width wr v
    else if v = 0 then (Fmt.encZero dst false, 0)
    else roundInt md.flush dst v 0 rtz
  else
    let x := fdecode md.flush src c
    if dst.isInt then
      match x.1.cls with
      | .nan => (0, x.2 ||| flagSAT)
      | .inf => (Fmt.encMax dst x.1.s, x.2 ||| flagSAT)
      | .zero => (0, x.2)
      | .fin =>
        let r := intFit dst.width wr (roundToInt rtz x.1)
        (r.1, x.2 ||| r.2)
    else
      match x.1.cls with
      | .nan => (Fmt.qnan dst, x.2 ||| flagNAN)
      | .inf => if dst == .g4 || dst == .g8 then (Fmt.encMax dst x.1.s, x.2 ||| flagSAT)
                else (Fmt.encInf dst x.1.s, x.2)
      | .zero => (Fmt.encZero dst x.1.s, x.2)
      | .fin =>
        let r := roundFloat md.flush dst x.1.s x.1.sig x.1.e rtz
        (r.1, x.2 ||| r.2)

/-- R73: the order of two decoded numbers that are no NaN: -1, 0 or 1. Zeros of both signs are equal. -/
def numCmp (x y : Num) : Int :=
  let key (n : Num) : Int × Int × Int :=
    match n.cls with
    | .inf => (if n.s then -1 else 1, 0, 0)
    | _ => (0, n.ssig, n.sexp)
  let a := key x
  let b := key y
  if a.1 ≠ b.1 then (if a.1 < b.1 then -1 else 1)
  else
    let lo := min a.2.2 b.2.2
    let v := imulPow2 a.2.1 (a.2.2 - lo) - imulPow2 b.2.1 (b.2.2 - lo)
    if v < 0 then -1 else if v = 0 then 0 else 1

/-- R73: the conditions EQ, NE, LT, LE, GT, GE of codes 0 to 5, with the flags FLUSH raised. -/
def compareF (flush : Bool) (f : Fmt) (cond a b : Nat) : Bool × Flg :=
  let test (c : Int) : Bool :=
    match cond with
    | 0 => c == 0
    | 1 => c != 0
    | 2 => decide (c < 0)
    | 3 => decide (c ≤ 0)
    | 4 => decide (c > 0)
    | _ => decide (c ≥ 0)
  if f.isInt then
    let x := sext f.width a
    let y := sext f.width b
    (test (if x < y then -1 else if x = y then 0 else 1), 0)
  else
    let x := fdecode flush f a
    let y := fdecode flush f b
    if x.1.cls = .nan ∨ y.1.cls = .nan then (cond == 1, x.2 ||| y.2)
    else (test (numCmp x.1 y.1), x.2 ||| y.2)

/-- R73: the element MIN and MAX write for a selected input: a copy, or the zero a subnormal was flushed to. -/
def keepElem (f : Fmt) (x : Num) (c : Nat) : Nat :=
  match x.cls with
  | .zero => Fmt.encZero f x.s
  | _ => c

/-- R73: MIN (`mx` false) or MAX (`mx` true). -/
def minMax (flush : Bool) (f : Fmt) (mx : Bool) (a b : Nat) : Nat × Flg :=
  if f.isInt then
    let lt := decide (sext f.width a < sext f.width b)
    (if lt == mx then b else a, 0)
  else
    let x := fdecode flush f a
    let y := fdecode flush f b
    let fl := x.2 ||| y.2
    if x.1.cls = .nan ∨ y.1.cls = .nan then (Fmt.qnan f, fl ||| flagNAN)
    else if x.1.cls = .zero ∧ y.1.cls = .zero then
      (Fmt.encZero f (if mx then x.1.s && y.1.s else x.1.s || y.1.s), fl)
    else
      let lt := decide (numCmp x.1 y.1 < 0)
      (if lt == mx then keepElem f y.1 b else keepElem f x.1 a, fl)

end Sys2Proof.Machine
end

