-- ==== Sys2Proof/Machine/Library.lean ====
section
/-! DEFINITION. The library sequences (R146, R147), steering (R235), sampling (R236 to R239), routing and
combination (R251 to R254), each by its reference pseudocode. -/

namespace Sys2Proof.Machine

/-- R147: division toward minus infinity, b > 0. -/
def floorDiv (a b : Int) : Int := a.fdiv b

/-- R147: the nearest integer to a / b, ties to even, b > 0. -/
def rneDiv (a b : Int) : Int :=
  let q := a.fdiv b
  let r := a - q * b
  if 2 * r > b ∨ (2 * r = b ∧ q % 2 ≠ 0) then q + 1 else q

/-- R147: the nearest integer to v / 2^s, ties to even. -/
def rneShift (v : Int) (s : Nat) : Int := if s = 0 then v else rneDiv v ((2 ^ s : Nat) : Int)

/-- R147 `fix16`: value * 2^16 of an element that is no NaN, saturated to the I32 range. -/
def fix16 (flush : Bool) (f : Fmt) (x : Nat) : Int × Flg :=
  let a := fdecode flush f x
  match a.1.cls with
  | .zero => (0, a.2)
  | c =>
    let m : Int :=
      if c = .inf then ((2 ^ 40 : Nat) : Int)
      else if 0 ≤ a.1.e + 16 then imulPow2 a.1.sig (a.1.e + 16)
      else rneShift a.1.sig (-(a.1.e + 16)).toNat
    let q := if a.1.s then -m else m
    if q > 2 ^ 31 - 1 then (2 ^ 31 - 1, a.2 ||| flagSAT)
    else if q < -(2 ^ 31) then (-(2 ^ 31), a.2 ||| flagSAT)
    else (q, a.2)

/-- The largest `r` below 2^n with `p r`, for `p` true up to a bound: built from its bits. -/
def greatest (p : Nat → Bool) : Nat → Nat → Nat
  | 0, r => r
  | n + 1, r => greatest p n (if p (r + 2 ^ n) then r + 2 ^ n else r)

/-- R147: EXP2T[j], the integer nearest to 2^(30 + j/256). -/
def exp2T (j : Nat) : Nat :=
  let r := greatest (fun x => decide (x ^ 256 ≤ 2 ^ (7680 + j))) 32 0
  if (2 * r + 1) ^ 256 ≤ 2 ^ (7936 + j) then r + 1 else r

/-- R147 `exp2q`: t ≤ 0 in Q16; the result in Q30. -/
def exp2q (t : Int) : Int :=
  if t < -30 * 65536 then 0
  else
    let ip := floorDiv t 65536
    let f := (t - ip * 65536).toNat
    let j := f / 256
    let u := f - j * 256
    let lo : Int := (exp2T j : Nat)
    let hi : Int := (exp2T (j + 1) : Nat)
    rneShift (lo + rneShift ((hi - lo) * (u : Int)) 8) (-ip).toNat

/-- R147 `out`: every zero written is +0. -/
def libOut (flush : Bool) (fo : Fmt) (sig e : Int) : Nat × Flg :=
  if sig = 0 then (Fmt.encZero fo false, 0)
  else
    let r := roundInt flush fo sig e false
    if Fmt.isZeroCode fo r.1 then (Fmt.encZero fo false, r.2) else r

/-- The largest of a list of integers; 0 for none. -/
def maxOf : List Int → Int
  | [] => 0
  | x :: xs => xs.foldl max x

/-- The sum of a list of integers. -/
def sumOf (xs : List Int) : Int := xs.foldl (· + ·) 0

/-- R147 `lib_softmax`. -/
def libSoftmax (flush : Bool) (fi : Fmt) (x : List Nat) (c : Int) (fo : Fmt) : List Nat × Flg :=
  if x.any (Fmt.isNanCode fi) then (x.map (fun _ => Fmt.qnan fo), flagNAN)
  else
    let fx := x.map (fix16 flush fi)
    let X := fx.map (fun q => rneShift (q.1 * c) 16)
    let m := maxOf X
    let e := X.map (fun v => exp2q (rneShift ((v - m) * 94548) 16))
    let S := sumOf e
    let y := e.map (fun v => libOut flush fo (rneDiv (v * 2 ^ 32) S) (-32))
    (y.map (·.1), flagsOf fx ||| flagsOf y)

/-- R147 `lib_act`. -/
def libAct (flush : Bool) (fi : Fmt) (x : Nat) (c : Int) (fo : Fmt) : Nat × Flg :=
  if Fmt.isNanCode fi x then (Fmt.qnan fo, flagNAN)
  else
    let fx := fix16 flush fi x
    if fx.1 = 0 then (Fmt.encZero fo false, fx.2)
    else
      let z := rneShift (fx.1 * c) 16
      let p := exp2q (rneShift (-((z.natAbs : Nat) : Int) * 94548) 16)
      let s := if 0 ≤ z then rneDiv (2 ^ 60) (2 ^ 30 + p) else rneDiv (p * 2 ^ 30) (2 ^ 30 + p)
      let y := libOut flush fo (fx.1 * s) (-46)
      (y.1, fx.2 ||| y.2)

/-- R147 `rsqrt_q`: the largest r with r * r * ms ≤ 2^92. -/
def rsqrtQ (ms : Int) : Nat := greatest (fun r => decide (((r * r : Nat) : Int) * ms ≤ 2 ^ 92)) 47 0

/-- R147 `lib_norm`. -/
def libNorm (flush : Bool) (fi : Fmt) (x g : List Nat) (eps : Int) (msub : Bool) (fo : Fmt) : List Nat × Flg :=
  if x.any (Fmt.isNanCode fi) || g.any (fun c => Fmt.isNanCode .f16 c || Fmt.isInfCode .f16 c) then
    (x.map (fun _ => Fmt.qnan fo), flagNAN)
  else
    let n : Int := (x.length : Nat)
    let fx := x.map (fix16 flush fi)
    let X0 := fx.map (·.1)
    let M := if msub then rneDiv (sumOf X0) n else 0
    let X := X0.map (fun v => v - M)
    let Q := sumOf (X.map (fun v => v * v))
    let r : Int := (rsqrtQ (rneDiv Q n + eps) : Nat)
    let y := (X.zip g).map (fun (v, gc) =>
      let b := fdecode flush .f16 gc
      match b.1.cls with
      | .zero => (Fmt.encZero fo false, b.2)
      | _ =>
        let o := libOut flush fo (v * r * b.1.ssig) (-46 + b.1.e)
        (o.1, b.2 ||| o.2))
    (y.map (·.1), flagsOf fx ||| flagsOf y)

/-- R235 `steer`: the steered residual element. -/
def steer (flush : Bool) (fa : Fmt) (h : Nat) (hasm : Bool) (mv sm : Nat) (hasa : Bool) (av sa : Nat) :
    Nat × Flg :=
  let H := fdecode flush fa h
  let M := fdecode flush .g8 mv
  let S := fdecode flush .f16 sm
  let A := fdecode flush .g8 av
  let T := fdecode flush .f16 sa
  let bad (x : Num) : Bool := x.cls == .nan || x.cls == .inf
  let fl := H.2 ||| (if hasm then M.2 ||| S.2 else 0) ||| (if hasa then A.2 ||| T.2 else 0)
  let ps := if hasm then H.1.ssig * M.1.ssig * S.1.ssig else H.1.ssig
  let pe := if hasm then H.1.sexp + M.1.sexp + S.1.sexp else H.1.sexp
  let qs := if hasa then A.1.ssig * T.1.ssig else 0
  let qe := if hasa then A.1.sexp + T.1.sexp else 0
  if bad H.1 || (hasm && (bad M.1 || bad S.1)) || (hasa && (bad A.1 || bad T.1)) then
    (Fmt.qnan fa, fl ||| flagNAN)
  else
    let lo := min pe qe
    let v := imulPow2 ps (pe - lo) + imulPow2 qs (qe - lo)
    if v = 0 then (Fmt.encZero fa false, fl)
    else
      let r := roundInt flush fa v lo false
      (r.1, fl ||| r.2)

/-- R237: rotate left, for 0 < r < 64. -/
def rotl64 (x : BitVec 64) (r : Nat) : BitVec 64 := (x <<< r) ||| (x >>> (64 - r))

/-- R237: one round of the generator. -/
def dvRound (r : Nat) (ab : BitVec 64 × BitVec 64) : BitVec 64 × BitVec 64 :=
  let b := ab.2 + (rotl64 ab.1 23 ^^^ BitVec.ofNat 64 r)
  let a := (ab.1 ^^^ b) * 0x9C5D3E71A6B42F0D#64
  let a := a ^^^ (a >>> 29)
  (a, rotl64 b 41 * 0xE3C17A954D28B6F3#64)

/-- R237 `dv_rand`. -/
def dvRand (seed n : BitVec 64) : BitVec 64 :=
  let ab := (List.range 8).foldl (fun ab r => dvRound r ab)
    (seed ^^^ 0x5B2E8D47C913F6A1#64, n ^^^ 0x2F710C9BE84D36A5#64)
  ab.1 ^^^ ab.2

/-- R236: the sampling block's fields. -/
structure SampBlk where
  mode : Nat
  topk : Nat
  temp : Nat
  topp : Nat
  deriving DecidableEq, Repr

/-- An insertion into a list ordered by weight descending, equal weights by index ascending (R239). -/
def insDesc (x : Nat × Int) : List (Nat × Int) → List (Nat × Int)
  | [] => [x]
  | y :: ys => if y.2 < x.2 then x :: y :: ys else y :: insDesc x ys

/-- R239 `sort_desc_stable`: entries in index order, sorted by value descending. -/
def sortDesc (xs : List (Nat × Int)) : List (Nat × Int) := xs.foldl (fun acc x => insDesc x acc) []

/-- R239: the length of the shortest prefix whose weight reaches TOPP; `kk` when none does. -/
def toppCut (topp W : Int) : Nat → Int → List (Nat × Int) → Nat
  | j, _, [] => j
  | j, c, x :: xs => if (c + x.2) * 65536 ≥ topp * W then j + 1 else toppCut topp W (j + 1) (c + x.2) xs

/-- R239: the entry at which the running sum first exceeds `r`; the last otherwise. -/
def pickAt (r : Int) : Int → List (Nat × Int) → Nat
  | _, [] => 0
  | c, x :: xs => if c + x.2 > r ∨ xs = [] then x.1 else pickAt r (c + x.2) xs

/-- R239 GREEDY: the largest, the lowest index on a tie. -/
def argmax : Nat × Int → List (Nat × Int) → Nat
  | b, [] => b.1
  | b, x :: xs => argmax (if b.2 < x.2 then x else b) xs

/-- R239 `sample`: the token drawn from a logits row, none on NaN logits. -/
def sample (flush : Bool) (fz : Fmt) (z : List Nat) (sp : SampBlk) (seed : BitVec 64) (n : Nat) :
    Option Nat × Flg :=
  if z.any (Fmt.isNanCode fz) then (none, flagNAN)
  else
    let fx := z.map (fix16 flush fz)
    let X := fx.map (·.1)
    let fl := flagsOf fx
    if sp.mode = 0 then
      (some (argmax (0, X.headD 0) ((numbered 0 X).drop 1)), fl)
    else
      let S := X.map (fun v => rneDiv (v * 65536) sp.temp)
      let m := maxOf S
      let w := S.map (fun v => exp2q (rneShift ((v - m) * 94548) 16))
      let o := sortDesc (numbered 0 w)
      let kk := if sp.topk = 0 ∨ sp.topk > z.length then z.length else sp.topk
      let ok := o.take kk
      let W := sumOf (ok.map (·.2))
      let kept := ok.take (toppCut sp.topp W 0 0 ok)
      let Wc := sumOf (kept.map (·.2))
      let r := ((dvRand seed (BitVec.ofNat 64 n)).toNat : Int) * Wc / 2 ^ 64
      (some (pickAt r 0 kept), fl)

/-- R251: the residual path. -/
def RESID : Nat := 0xFFFF

/-- R251: one expert layer's routing parameters of R249. -/
structure XPar where
  nexp : Nat
  win  : Nat
  e    : Nat
  a    : Nat
  cap  : Nat
  deriving DecidableEq, Repr

/-- R250: an occupancy record. -/
structure Occ where
  nextPos : Nat
  csn     : Nat
  last    : List Nat
  count   : SMap Nat
  deriving DecidableEq, Repr

/-- R250: the zeroed record of admission. -/
def Occ.empty : Occ := ⟨0, 0, [], []⟩

/-- R251: an F32 logit as an exact rank key: descending order of keys is descending order of values, both
zeros equal (R73). -/
def rankKey (flush : Bool) (c : Nat) : Int :=
  let x := (fdecode flush .f32 c).1
  match x.cls with
  | .zero => 0
  | .inf => if x.s then -(2 ^ 300) else 2 ^ 300
  | _ => imulPow2 x.ssig (x.e + 150)

/-- R251: the walk down the ranked list: placements, and the counts it leaves. -/
def routeWalk (L : XPar) : List Nat → Nat → List Nat → SMap Nat → List Nat × SMap Nat
  | [], _, pl, ct => (pl, ct)
  | e :: es, skipped, pl, ct =>
    if pl.length ≥ L.e then (pl, ct)
    else if SGet 0 ct e < L.cap then routeWalk L es skipped (pl ++ [e]) (SSet 0 ct e (SGet 0 ct e + 1))
    else if skipped = L.a then (pl, ct)
    else routeWalk L es (skipped + 1) pl ct

/-- R251 `route`: the placement of position `p`, the record after it, the drops counted and the flags. -/
def route (flush : Bool) (z : List Nat) (p : Nat) (L : XPar) (t : Occ) : List Nat × Occ × Nat × Flg :=
  if p + 1 = t.nextPos then (t.last, t, 0, 0)
  else
    let ct := if p % L.win = 0 then [] else t.count
    let nan := z.any (Fmt.isNanCode .f32)
    let fl := if nan then flagNAN else flagsOf (z.map (fdecode flush .f32))
    let o := (sortDesc (numbered 0 (z.map (rankKey flush)))).map (·.1)
    let w := if nan then ([], ct) else routeWalk L o 0 [] ct
    let pl := w.1 ++ List.replicate (L.e - w.1.length) RESID
    (pl, { t with nextPos := p + 1, last := pl, count := w.2 }, L.e - w.1.length, fl)

/-- R253: the gates of a token: softmax over the logits of its E highest-ranked experts, in rank order. -/
def gates (flush : Bool) (z : List Nat) (e : Nat) (gatec : Int) : List Nat × Flg :=
  let o := (sortDesc (numbered 0 (z.map (rankKey flush)))).map (·.1)
  libSoftmax flush .f32 ((o.take e).map (fun i => z.getD i 0)) gatec .f32

/-- R254: the exact sum of the filled choices; none on a NaN or infinite result element. -/
def combineSum (flush : Bool) (fy : Fmt) : List (Nat × Nat × Nat) → Int → Flg → Option Int × Flg
  | [], v, fl => (some v, fl)
  | (place, g, y) :: r, v, fl =>
    if place = RESID then combineSum flush fy r v fl
    else
      let a := fdecode flush .f32 g
      let b := fdecode flush fy y
      let fl := fl ||| a.2 ||| b.2
      if b.1.cls = .nan ∨ b.1.cls = .inf then (none, fl ||| flagNAN)
      else if a.1.cls = .zero ∨ b.1.cls = .zero then combineSum flush fy r v fl
      else
        let p := imulPow2 ((a.1.sig * b.1.sig : Nat) : Int) (a.1.e + b.1.e + 400)
        combineSum flush fy r (if a.1.s != b.1.s then v - p else v + p) fl

/-- R254 `combine`: one element of an expert layer's output row; entries are (placement, gate, result). -/
def combine (flush : Bool) (fy : Fmt) (xs : List (Nat × Nat × Nat)) : Nat × Flg :=
  match combineSum flush fy xs 0 0 with
  | (none, fl) => (Fmt.qnan .f32, fl)
  | (some v, fl) =>
    if v = 0 then (Fmt.encZero .f32 false, fl)
    else
      let r := roundInt flush .f32 v (-400) false
      (r.1, fl ||| r.2)

end Sys2Proof.Machine
end

