-- ==== Sys2Proof/Machine/StateArray.lean ====
section
/-! DEFINITION. State of the array, the cores, the stream engines, the control cores, the Tin path and the work counters
(chapters 3 to 6). -/

namespace Sys2Proof.Machine

/-- R77: an item on a lane; its parity bit is a function of the other fields. -/
structure Item where
  flg  : Flg := 0
  kind : Nat := 0
  pay  : Nat := 0
  deriving DecidableEq, Repr

/-- R90: a dot product in progress in an accumulator. -/
structure MacSt where
  acc : Nat := 0
  /-- Elements accumulated. -/
  k   : Nat := 0
  /-- C has been taken, or is not streamed. -/
  begun : Bool := false
  grp : GroupAcc := GroupAcc.empty
  /-- Scales of the group in progress, once taken. -/
  sa  : Option Int := none
  sb  : Option Int := none
  flg : Flg := 0
  deriving DecidableEq, Repr

/-- R76, R96: one cell. -/
structure Cell where
  /-- Words 0 to 4 of the configuration record. -/
  w0 : Nat := 0
  w1 : Nat := 0
  w2 : Nat := 0
  w3 : Nat := 0
  w4 : Nat := 0
  /-- Pass-through stages of each outbound lane, oldest item first, two at most. -/
  outs : SMap (List Item) := []
  /-- Input latches by consumer number: 4 A, 5 B, 6 C, 7 D, 8 D2, 9 K. -/
  latch : SMap (Option Item) := []
  mac : MacSt := {}
  /-- A finished output that waits for the output stage (R90). -/
  macWait : Option Item := none
  /-- Output stages: function unit, steering outputs 0 and 1. -/
  fu  : Option Item := none
  st0 : Option Item := none
  st1 : Option Item := none
  /-- DELAY buffer, oldest first. -/
  delay : List Item := []
  /-- REPEAT and COUNT: emissions still to make of the item held. -/
  reps : Option Nat := none
  /-- R91: flags of items consumed without forwarding. -/
  owed : Flg := 0
  /-- R81: consumers that have latched the item now offered by each source, by selector code. -/
  taken : SMap Nat := []
  deriving DecidableEq, Repr

/-- R358: the context a placement or an interval's work belongs to. -/
inductive Ctx where
  | chunk
  | step
  | run (cmd : Nat)
  deriving DecidableEq, Repr

/-- R107: a placed configuration. -/
structure Placement where
  id : Nat
  part : Nat
  ctx : Ctx
  /-- R107: the image's role takes lent sectors too. -/
  all : Bool
  /-- Model slot of the image, none for a registered image; its address there, and the address of its array section. -/
  slot : Option Nat
  sect : Nat
  /-- Where its configuration image begins, and its length. -/
  base : Nat := 0
  len : Nat := 0
  variant : Nat
  row : Nat
  col : Nat
  fh : Nat
  fw : Nat
  sectors : List Nat
  mode : Nat
  stallTicks : Nat
  /-- R103: consecutive ticks without progress; the configuration made progress since the latest tick. -/
  idle : Nat := 0
  moved : Bool := false
  /-- R108: cores withdrawn from it. -/
  withdrawn : List Nat := []
  /-- Sectors whose load has not ended (R109). -/
  loading : List Nat := []
  /-- Of these, the sectors whose load has begun. -/
  begun : List Nat := []
  deriving DecidableEq, Repr

/-- R112: which records the cells of a sector hold: image, array section, variant, place in its footprint, and their CRC. -/
structure Loaded where
  part : Nat
  slot : Option Nat
  base : Nat
  sect : Nat
  variant : Nat
  index : Nat
  crc : Nat
  deriving DecidableEq, Repr

/-- R104: a fault report. -/
structure Snapshot where
  part : Nat
  ctx : Ctx
  bytes : List Byte
  deriving DecidableEq, Repr

/-- R156: a loop level. -/
structure Level where
  opn : Bool := false
  cnt : Nat := 0
  iter : Nat := 0
  dm : Int := 0
  ds : Int := 0
  dy : Int := 0
  dx : Int := 0
  m : Nat := 0
  s : Nat := 0
  y : Nat := 0
  x : Nat := 0
  /-- Instruction after the LOOP. -/
  top : Nat := 0
  deriving DecidableEq, Repr

/-- R157: the tile shape. -/
structure Shape where
  nrow : Nat := 0
  nel  : Nat := 0
  mp   : Nat := 0
  sp   : Nat := 0
  fmt  : Fmt := .i4
  deriving DecidableEq, Repr

/-- R158: the kinds of transfer; `sig` is a SIG whose turn among the engine's signals is still to come (R162). -/
inductive XKind where
  | fill | drain | feed | collect | sig
  deriving DecidableEq, Repr

/-- R158: a transfer started and not yet signalled, with the registers as it started. -/
structure Xfer where
  id : Nat
  kind : XKind
  insn : Nat
  m : Nat
  s : Nat
  y : Nat
  x : Nat
  ylim : Nat
  xlim : Nat
  shape : Shape
  pitch : Int
  /-- FEED, COLLECT: beats passed on each lane. -/
  beats : SMap Nat := []
  /-- COLLECT: flags by row tag (R160). -/
  flags : SMap Flg := []
  /-- FILL: bytes of tier 2 read so far. -/
  got : List Byte := []
  /-- FILL (R163): in-extent bytes whose read has been issued, in row order, and how many of them are outstanding. -/
  bytes : Nat := 0
  out : Nat := 0
  /-- FILL (R123): the region descriptors under which its scratchpad writes were issued. -/
  rgd : SMap Dword := []
  /-- Every kind: complete, its signal waiting for its turn (R162). -/
  fin : Bool := false
  deriving DecidableEq, Repr

/-- R184: the state of a stream engine. -/
inductive SEState where
  | idle | running | waiting | done | fault | aborted | aborting
  deriving DecidableEq, Repr

/-- R153: a stream engine. -/
structure SE where
  prog : SMap Dword := []
  pc : Nat := 0
  p : SMap Dword := []
  m : Nat := 0
  s : Nat := 0
  y : Nat := 0
  x : Nat := 0
  ylim : Nat := 0
  xlim : Nat := 0
  levels : SMap Level := []
  /-- Open levels, innermost first. -/
  opens : List Nat := []
  shape : Shape := {}
  g : SMap (BitVec 16) := []
  pfd : Nat := 2
  wdt : Nat := 100000
  state : SEState := .idle
  cause : Nat := 0
  xfers : List Xfer := []
  lastProg : Nat := 0
  /-- R170: the notice for the present lack of progress has been sent. -/
  watched : Bool := false
  /-- END is reached: the engine waits for its transfers. -/
  atEnd : Bool := false
  /-- R172: a START received during a hold. -/
  pendingStart : Bool := false
  deriving DecidableEq, Repr

/-- R140: a summary set. -/
structure SumSet where
  smax : Nat := 0
  scnt : Nat := 0
  ssum : Nat := 0
  flg : Flg := 0
  anynan : Bool := false
  valid : Bool := false
  fmt : Fmt := .i4
  deriving DecidableEq, Repr

/-- R126: a tag store entry. -/
structure TagEnt where
  crc : Nat := 0
  valid : Bool := false
  checked : Bool := false
  home : Nat := 0
  deriving DecidableEq, Repr

/-- Chapter 4: a core. -/
structure Core where
  spad : SMap Word := []
  /-- Tile registers as 8,192-bit numbers, and the flag field of each row by 32 × register + row. -/
  tregs : SMap (BitVec 8192) := []
  rowFlg : SMap Flg := []
  rgd : SMap Dword := []
  rgerr : Dword := 0
  sperr : Dword := 0
  ev : SMap (BitVec 16) := []
  sums : SMap SumSet := []
  rowtag : SMap Nat := []
  vim : SMap Dword := []
  tags : SMap TagEnt := []
  entry : Nat := 0
  vpc : Nat := 0
  /-- VSTAT.PC: last instruction executed or the faulting one. -/
  vlast : Nat := 0
  fcause : Nat := 0
  waitlong : Bool := false
  fault : Bool := false
  done : Bool := false
  busy : Bool := false
  abortV : Bool := false
  a : SMap (BitVec 17) := []
  l : SMap (BitVec 16) := []
  nr : Nat := 32
  nb : Nat := 32
  /-- A VWAIT in progress: counter, value, tick at which it began, WAITLONG notice sent. -/
  vwait : Option (Nat × BitVec 16 × Nat × Bool) := none
  /-- R124: held after a fault. -/
  held : Bool := false
  se : SMap SE := []
  /-- Port FIFOs by 16 × side + lane. -/
  fin : SMap (List Item) := []
  fout : SMap (List Item) := []
  /-- R127: tag entries under check; R128: under refetch. -/
  checking : List Nat := []
  refetch : List Nat := []
  deriving DecidableEq, Repr

/-- R181: a Tin message. -/
structure Tin where
  dst : Nat
  src : Nat
  typ : Nat
  part : Nat
  tag : Nat := 0
  arg : Nat := 0
  data : List Byte := []
  deriving DecidableEq, Repr

/-- R148, R188: a Cobalt control core. -/
structure Cobalt where
  /-- Electrum has released it from reset. -/
  run : Bool := false
  imem : SMap Byte := []
  dmem : SMap Byte := []
  x : SMap Dword := []
  f : SMap Dword := []
  pc : Dword := 0
  user : Bool := false
  csrs : SMap Dword := []
  /-- The address an LR.W or LR.D has reserved. -/
  resv : Option Nat := none
  /-- R150: pending bits: 0 vector notices, 1 fault reports, 2 Tin arrivals, 3 timer. -/
  pend : BitVec 4 := 0
  timecmp : Option Nat := none
  txbuf : SMap Byte := []
  busy : Bool := false
  denied : Bool := false
  rxq : List Tin := []
  head : Nat := 0
  deriving DecidableEq, Repr

/-- R207: what the counter unit reads of one problem: M rows for tiling, N columns, occupied rows, SKIP. -/
structure Prob where
  tm : Nat
  tn : Nat
  mp : Nat
  skip : Bool
  deriving DecidableEq, Repr

/-- R204, R205: a claim in the ledger: its value, its core, and the flags of its tile by row tag. -/
structure Claim where
  val : Nat
  core : Nat
  flags : SMap Flg := []
  deriving DecidableEq, Repr

/-- R201–R204: a work counter with its ledger. -/
structure Ctr where
  part : Nat
  tr : Nat
  tc : Nat
  probs : List Prob
  next : Nat := 0
  retired : Nat := 0
  ledger : List Claim := []
  reissue : List Nat := []
  gone : List Nat := []
  /-- Held claims in arrival order: core, sender, tag. -/
  waiting : List (Nat × Nat × Nat) := []
  /-- The run context it serves; none for the serving context. -/
  run : Option Nat := none
  deriving DecidableEq, Repr

/-- R174: a line of a near-cache slice. -/
structure Line where
  tag : Nat
  dirty : Bool
  deriving DecidableEq, Repr

/-- Chapter 9: local memory. -/
structure Mem where
  /-- LPDDR6 contents, the near caches' dirty lines included, by local offset (R175). -/
  bytes : SMap Byte := []
  /-- R369: 32-byte blocks whose code decodes as uncorrectable, by offset ÷ 32. -/
  lost : SMap Bool := []
  /-- R174: lines by (4,096 × group + set) × 16 + way; tree bits by 4,096 × group + set. -/
  lines : SMap (Option Line) := []
  plru : SMap Nat := []
  /-- R272: class map of each group. -/
  classMap : SMap Word := []
  /-- R273: row counters of a bank: row and count. -/
  rows : SMap (List (Nat × Nat)) := []
  /-- R273: rows whose targeted refresh is still pending, by bank. -/
  due : SMap (List Nat) := []
  /-- R369: spare rows used by sub-channel; remapped rows by device-row number; corrected errors of the last 24 h. -/
  spares : SMap Nat := []
  remaps : List Nat := []
  corrected : List (Nat × Nat) := []
  /-- R288: outstanding tier-1 reads: offset, partition, tick of issue. -/
  reads : List (Nat × Nat × Nat) := []
  /-- R370: calibrations failed in a row by sub-channel. -/
  calFails : SMap Nat := []
  /-- R274: ticks of the latest refresh and calibration by sub-channel; patrol position by sub-channel. -/
  refreshAt : SMap Nat := []
  calAt : SMap Nat := []
  patrol : SMap Nat := []
  /-- R264: blocks in the read FIFO of a sub-channel's controller. -/
  fifo : SMap Nat := []
  /-- R273: banks whose refresh-management request waits for a slot. -/
  rfm : List Nat := []
  /-- R274: the latest maintenance window of a sub-channel, by its first tick, and the targeted refreshes issued in it. -/
  window : SMap (Nat × Nat) := []
  deriving DecidableEq, Repr

/-- R360: an error report charged to a unit, waiting for its recovery. -/
structure Report1 where
  tick : Nat
  utype : Nat
  source : Nat
  unit : Nat
  part : Option Nat
  addr : Nat := 0
  /-- Its fault log entry. -/
  log : Nat
  deriving DecidableEq, Repr

/-- Why a unit is under test. -/
inductive TestWhy where
  | error | boot | returned
  deriving DecidableEq, Repr

/-- R365: a targeted self-test of the units of one margin domain. -/
structure SelfTest where
  utype : Nat
  unit : Nat
  why : TestWhy
  start : Nat
  /-- Fault log entry to rewrite with the outcome. -/
  log : Nat
  part : Option Nat
  deriving DecidableEq, Repr

/-- R194: a layer or fused group that runs, on a counter: the image's place in its model, the layers. -/
structure LayerRun where
  part : Nat
  run : Option Nat
  img : Nat
  layer : Nat
  count : Nat
  cnt : Nat
  deriving DecidableEq, Repr

/-- R33, R222: what the 512 KiB buffer of a Copper unit holds: the input vectors of its latest pass by batch row, and the
output elements it has computed as (row, column, code). -/
structure Copper where
  ins : List (Nat × List Byte) := []
  outs : List (Nat × Nat × Nat) := []
  deriving DecidableEq, Repr

/-- Chapters 3 to 6 and 12: the engines. -/
structure Engines where
  cells : SMap Cell := []
  places : List Placement := []
  /-- R107: placements that wait for sectors to be cleared. -/
  waits : List Placement := []
  nextPlace : Nat := 1
  /-- R84: ticks that a lane has stood unacknowledged with its receiving stage empty, by 8 × cell + side. -/
  laneWait : SMap Nat := []
  /-- R112: the records that each sector's cells hold. -/
  loaded : SMap (Option Loaded) := []
  snaps : List Snapshot := []
  cores : SMap Core := []
  cobalts : SMap Cobalt := []
  /-- R222: the Copper units by number. -/
  coppers : SMap Copper := []
  tin : List Tin := []
  ctrs : SMap (Option Ctr) := []
  layers : List LayerRun := []
  /-- R360: errors reported and not yet recovered. -/
  reports : List Report1 := []
  tests : List SelfTest := []
  /-- Units out of service for a test, as (UTYPE, UNIT); units whose domain rejoins at the next commit boundary. -/
  away : List (Nat × Nat) := []
  rejoin : List (Nat × Nat × Nat) := []
  /-- R437: returned units waiting for a commit boundary of their partition. -/
  returning : List (Nat × Nat × Nat) := []
  deriving DecidableEq, Repr

end Sys2Proof.Machine
end

