-- ==== Sys2Proof/Machine/StateHost.lean ====
section
/-! DEFINITION. State of the host interface (chapter 10): function registers, rings, descriptors handed over, reads
outstanding on the host link and the fabric, writes issued, completions due, mailboxes. -/

namespace Sys2Proof.Machine

/-- R294: the set-up registers of one function that a write can change; the other registers are computed. -/
structure FnRegs where
  aqBase  : Dword := 0
  aqCfg   : Dword := 0
  dbBase  : Dword := 0
  dbCfg   : Dword := 0
  imod    : Dword := 0
  errstat : Dword := 0
  mbien   : Bool := false
  aqen    : Bool := false
  msixAddr : SMap Dword := []
  msixData : SMap Word := []
  /-- PCIe: the vectors whose mask bit is clear; every vector is masked at reset. -/
  msixOpen : Dword := 0
  pba      : Dword := 0
  /-- The virtual function is enabled (VF Enable of the PF); true of the PF itself. -/
  enabled  : Bool := false
  deriving DecidableEq, Repr

/-- R302: the kinds of ring; the seal ring (R424) and the sample ring (R441) follow the rules of a record ring. -/
inductive RingKind where
  | sub | comp | stream | record | seal | sample
  deriving DecidableEq, Repr

/-- R299–R307: a ring in host memory. `cnt` is H, the module's own count: descriptors fetched or entries written; `idx`
is the last valid index of its doorbell word: the tail of a submission ring, the head of the others. Admin rings have id 0. -/
structure Ring where
  kind  : RingKind
  fn    : Nat
  id    : Nat
  base  : Nat
  lg    : Nat
  db    : Nat
  vec   : Nat := 0
  /-- The completion ring of a submission ring. -/
  cq    : Nat := 0
  cnt   : Word := 0
  idx   : Word := 0
  /-- R301, R304: fetching is stopped until QUEUE_DELETE. -/
  stopped : Bool := false
  /-- R303: V, the descriptors fetched but not yet completed. -/
  resv  : Nat := 0
  /-- R319: entries written since the last message, and the tick of the first of them. -/
  unsig : Nat := 0
  first : Nat := 0
  deriving DecidableEq, Repr

/-- R304, R308: a descriptor as fetched: its ring, its count in the ring and its fetch tick. -/
structure Desc where
  fn   : Nat
  sq   : Nat
  seq  : Nat
  tick : Nat
  raw  : List Byte
  /-- R298: its function has been reset: it runs to its end, and no completion is written. -/
  silent : Bool := false
  deriving DecidableEq, Repr

/-- How far a handed-over command has come. -/
inductive CmdPhase where
  /-- Handed over, waiting for an earlier command to end (R232, R312, R356) or for its reads. -/
  | waiting
  | running
  deriving DecidableEq, Repr

/-- A command handed over and not yet completed. `a`, `b` are its own counts; `buf` what it has read so far. -/
structure Cmd where
  id  : Nat
  d   : Desc
  ph  : CmdPhase
  a   : Nat := 0
  b   : Nat := 0
  /-- The sampling block, the stop set or the parameter block once read. -/
  buf : List Byte := []
  buf2 : List Byte := []
  deriving DecidableEq, Repr

/-- R305: a completion due. `req` names the request whose entries and record must precede it (R44), `cancel` the
request whose completion entry must precede it (R231). `held` says that the fetch reserved a slot for it (R303). -/
structure Comp where
  fn : Nat
  sq : Nat
  seq : Nat
  cid : Nat
  status : Nat
  stop : Nat := 0
  flg : Nat := 0
  info : Nat := 0
  info2 : Nat := 0
  req : Option Nat := none
  cancel : Option Nat := none
  held : Bool := true
  deriving DecidableEq, Repr

/-- What a read of tier 2 serves. -/
inductive ReadFor where
  | line (fn line : Nat)
  | desc (fn sq : Nat)
  | param (cmd : Nat)
  | samp (cmd : Nat)
  | stopset (cmd : Nat)
  | steering (cmd : Nat)
  | copy (cmd : Nat)
  | prompt (rte : Nat)
  | chainSrc (part slot : Nat)
  | bundle
  | stream (core se slot : Nat)
  /-- A problem list in tier 2 (R195), by partition and address. -/
  | list (part addr : Nat)
  deriving DecidableEq, Repr

/-- R277, R279: a read of host or peer memory under way. Its pieces are issued one after another (R276); `got` holds
the bytes that have arrived, `issued` the tick at which the piece in flight was issued. -/
structure ORead where
  id    : Nat
  fn    : Nat
  addr  : Nat
  len   : Nat
  got   : List Byte := []
  issued : Nat
  use   : ReadFor
  /-- Fabric tag of the piece in flight of a PEER read. -/
  tag   : Nat := 0
  deriving DecidableEq, Repr

/-- R276: one posted write on the host link, in the order of issue. -/
structure HWrite where
  fn   : Nat
  addr : Nat
  data : List Byte
  deriving DecidableEq, Repr

/-- Chapter 10: the host interface. -/
structure HostIf where
  /-- R15: the set-up lock. -/
  lock  : Bool := false
  /-- R294: POLL.TICKS. -/
  poll  : Word := 100
  fns   : SMap FnRegs := []
  rings : List Ring := []
  /-- Descriptors fetched and not yet handed to firmware, in fetch order. -/
  handed : List Desc := []
  cmds  : List Cmd := []
  comps : List Comp := []
  reads : List ORead := []
  nextId : Nat := 1
  writes : List HWrite := []
  /-- R300: a pass over the doorbell lines is under way; the tick at which the latest pass began; the lines left. -/
  passing : Bool := false
  passTick : Nat := 0
  /-- R277: the host link is in DL_Active. -/
  dlActive : Bool := false
  /-- R276, R291: Max_Read_Request_Size and Max_Payload_Size of the PF, in bytes; the AER status registers of uncorrectable and
  correctable errors. -/
  mrrs : Nat := 512
  mps  : Nat := 128
  aerUncor : Word := 0
  aerCor : Word := 0
  /-- R294, R322: MBBIND registers. -/
  mbbind : SMap Word := []
  /-- R323: the 64-byte transmit buffers, by 32 × function + channel. -/
  mbTx  : SMap (List Byte) := []
  /-- R324: the receive queue of each channel, oldest first. -/
  mbRx  : SMap (List (List Byte)) := []
  /-- R324: losses counted by Pewter for receivers other than the host, by channel. -/
  mbLoss : SMap Nat := []
  deriving DecidableEq, Repr

end Sys2Proof.Machine
end

