-- ==== Sys2Proof/Machine/StateFabric.lean ====
section
/-! DEFINITION. State of the optical ports and of the accesses under way on the fabric (chapter 11). -/

namespace Sys2Proof.Machine

/-- R349: the states of a port. -/
inductive PortState where
  | dark | training | check | active | retrain | quarantine | down | fenced
  deriving DecidableEq, Repr

/-- R332: a message: the fields of its command slot and its data bytes. -/
structure Msg where
  mtype : Nat
  cls   : Nat
  dst   : Nat
  src   : Nat
  spart : Nat
  tag   : Nat
  len   : Nat
  off   : Nat
  status : Nat
  data  : List Byte
  deriving DecidableEq, Repr

/-- R334: a SLOTS flit kept for replay. -/
structure TxFlit where
  seq : Nat
  vc  : Nat
  slots : List (List Byte)
  deriving DecidableEq, Repr

/-- R329–R337: one optical port. -/
structure Port where
  state : PortState := .dark
  cause : Nat := 0
  /-- Tick of the latest change of state. -/
  since : Nat := 0
  /-- Slots waiting to be sent, by VC. -/
  txq0 : List (List Byte) := []
  txq1 : List (List Byte) := []
  txq2 : List (List Byte) := []
  replay : List TxFlit := []
  seq : Nat := 0
  /-- R334: the SEQ expected next; whether a SLOTS flit has been accepted; a NAK stands since the last accepted flit. -/
  rxSeq : Nat := 0
  ackv : Bool := false
  nakSent : Bool := false
  /-- R330, R335: accepted flits not yet covered by a sent ACK, or freed slots not yet told. -/
  owed : Bool := false
  /-- R336: tick of the latest advance of the far ACK (or of the first flit unacknowledged); replays without an advance;
  ticks of the NAKs of the last second, latest first. -/
  ackTick : Nat := 0
  replays : Nat := 0
  naks : List Nat := []
  /-- R333: slots sent, and slots the far end has freed, per VC. -/
  sent0 : Nat := 0
  sent1 : Nat := 0
  sent2 : Nat := 0
  far0 : Nat := 16384
  far1 : Nat := 16384
  far2 : Nat := 64
  /-- R333: slots freed at this end, per VC. -/
  freed0 : Nat := 0
  freed1 : Nat := 0
  freed2 : Nat := 0
  /-- Slots received and not yet complete messages, per VC. -/
  rx0 : List (List Byte) := []
  rx1 : List (List Byte) := []
  rx2 : List (List Byte) := []
  /-- R332: slots of reserved MTYPE after a discarded message are passed over, by VC. -/
  skip0 : Bool := false
  skip1 : Bool := false
  skip2 : Bool := false
  /-- Messages received and not yet served, per VC. -/
  msgs0 : List Msg := []
  msgs1 : List Msg := []
  msgs2 : List Msg := []
  /-- R344, R345: the record compared at CHECK; in QUARANTINE the record received. -/
  record : List Byte := []
  /-- R343: tick at which the identity record was last sent. -/
  identAt : Nat := 0
  identSent : Bool := false
  /-- R337: ticks of entries to RETRAIN, latest first. -/
  retrains : List Nat := []
  deriving DecidableEq, Repr

/-- What a peer write carries. -/
inductive WriteFor where
  /-- R258: rows of a job by sending partition, expert layer, half, attempt, holder; rows of a result by holding
  partition, sender and half; headers. -/
  | jobRow (part key attempt chip hpart : Nat)
  | resultRow (part chip spart half : Nat)
  | head
  | chainData (part slot cmd seg : Nat)
  | notice (part slot cmd : Nat)
  | copy (cmd : Nat)
  | stream (core se slot : Nat)
  deriving DecidableEq, Repr

/-- R340, R341: an outstanding peer access; `read` names the read it serves, `write` what it writes. -/
structure Access where
  tag  : Nat
  chip : Nat
  port : Nat
  stor : Bool
  part : Nat
  len  : Nat
  issued : Nat
  read  : Option Nat := none
  write : Option WriteFor := none
  deriving DecidableEq, Repr

/-- R256: a write into the receive buffer that holds jobs of a sending partition for a half: holding partition, sender's
chip and partition, half, offset in the buffer, bytes. -/
structure BrassIn where
  hpart : Nat
  chip  : Nat
  spart : Nat
  half  : Nat
  off   : Nat
  data  : List Byte
  deriving DecidableEq, Repr

/-- Chapter 11. -/
structure Fabric where
  ports : SMap Port := []
  accs  : List Access := []
  nextTag : Nat := 0
  /-- R341: tags ended by PEER_TIMEOUT or PEER_LOST, with the tick. -/
  dead  : List (Nat × Nat) := []
  /-- Flits sent: port and bytes. -/
  out   : List (Nat × List Byte) := []
  /-- R259: writes that Brass discarded. -/
  brassErr : Nat := 0
  /-- R256, R258: writes of jobs in receive buffers, in the order of arrival. -/
  brassIn : List BrassIn := []
  deriving DecidableEq, Repr

end Sys2Proof.Machine
end

