-- ==== Sys2Proof/Machine/StateMgmt.lean ====
section
/-! DEFINITION. State of power, pace and thermal control (chapter 13), of Electrum (chapter 14) and of Pewter (chapter 15). -/

namespace Sys2Proof.Machine

/-- R430: MSTAT.PSTATE. -/
inductive PwrState where
  | off | starting | on | floorPace | thermalStop | tripped | railFault | pfw
  deriving DecidableEq, Repr

/-- R397: a cap excursion; `tend` is 0 while A is above LIMIT. -/
structure CapEnt where
  tstart : Nat
  tend : Nat := 0
  limit : Nat
  peak : Nat
  cause : Nat
  deriving DecidableEq, Repr

/-- R434: a departure entry. -/
structure DepEnt where
  tstart : Nat
  tend : Nat := 0
  csn : Nat
  part : Nat
  cause : Nat
  deriving DecidableEq, Repr

/-- R386: what is kept of one droop domain. -/
structure DroopCtr where
  trips : Nat := 0
  total : Nat := 0
  longest : Nat := 0
  deriving DecidableEq, Repr

/-- Chapter 13. -/
structure Power where
  pstate : PwrState := .on
  /-- EN as recognised, PG as driven, PERST# asserted. -/
  en : Bool := true
  pg : Bool := true
  perst : Bool := false
  /-- The module starts only after EN is deasserted and asserted again. -/
  needCycle : Bool := false
  /-- R379: it does not start until the input exceeds 39.5 V. -/
  uv : Bool := false
  /-- R430 FAULT: RAIL_FAULT stands. -/
  railFault : Bool := false
  /-- Input in units of 10 mV. -/
  vin : Nat := 4800
  /-- Tick at which EN was recognised, on the standby time base. -/
  enAt : Nat := 0
  /-- R381: settings in force since the latest EN assertion. -/
  paced : Bool := false
  pace : Nat := 0
  slope : Nat := 4
  ecmode : Nat := 0
  vset : Nat := 750
  /-- R394: the latest samples of input power in W, latest first, at most 100; their mean. -/
  samples : List Nat := []
  avg : Nat := 0
  lastRaise : Nat := 0
  /-- R395: floor pace and its three parts: burst limit, gating rate in M items/s (0: none). -/
  floor : Bool := false
  burst : Bool := false
  gate : Nat := 0
  lastClimb : Nat := 0
  /-- R402: Tj has reached 103 °C in this floor pace. -/
  hot : Bool := false
  /-- R392: a departure is in progress since a tick. -/
  departed : Option Nat := none
  /-- R434: its CAUSE; first and last tick of the latest departure that has ended. -/
  depCause : Nat := 1
  lastDep : Nat × Nat := (0, 0)
  /-- R395: each mean A of the last second before a departure, latest first, with its tick. -/
  recentA : List (Nat × Nat) := []
  /-- Highest A measured at P in the second before the departure. -/
  refA : Nat := 0
  hostCap : Nat := 2000
  /-- R384: tick at which the start ramp began; the pace rate of the ramp in units of 10 M items/s. -/
  ramp : Option Nat := none
  rampRate : Nat := 80
  /-- R401: sensors in units of 0.1 °C: 64 sectors, 4 hub; inlet and outlet. -/
  sensors : List Int := []
  tin : Int := 0
  tout : Int := 0
  tj : Int := 0
  /-- R402: tick since which Tj has stayed below 98 °C, and at or below 95 °C. -/
  below98 : Option Nat := none
  below95 : Option Nat := none
  /-- R403: the thermal stop; partitions whose interval still runs to its commit, runs still to reach a boundary. -/
  tstop : Bool := false
  tsParts : List Nat := []
  tsRuns : List Nat := []
  /-- R402: tick at which the latest thermal stop ended; the ramp after it runs at floor pace. -/
  stopEnd : Option Nat := none
  /-- R386: domains held by a droop trip with the tick of the trip; counters by domain. -/
  held : SMap Nat := []
  droop : SMap DroopCtr := []
  /-- R383: rail domains whose regulator is off, in the numbering of R466. -/
  railsOff : List Nat := []
  /-- R405: tick of time 0 of the power-fail sequence. -/
  pfwAt : Option Nat := none
  /-- R398: module counter in µJ. -/
  energy : Nat := 0
  deriving DecidableEq, Repr

/-- R421: a seal with its signature, and whose chain it belongs to. -/
structure Seal where
  part : Nat
  chain : List Byte
  epoch : Nat
  bytes : List Byte
  deriving DecidableEq, Repr

/-- Chapter 14: Electrum. -/
structure Electrum where
  /-- R416: boot state and the tick of its latest change. -/
  state : Nat := 0
  tick : Nat := 0
  /-- R408 event 1 has occurred since the latest PERST# deassertion; events 2 and 3. -/
  started : Bool := false
  waiting : Bool := false
  trained : Bool := false
  /-- R411: fuses that Electrum writes. -/
  svnMin : Nat := 0
  rootRev : Nat := 0
  /-- The bundle being fetched: host address, length, tick of the request, bytes as read. -/
  addr : Nat := 0
  len : Nat := 0
  reqAt : Nat := 0
  bundle : List Byte := []
  /-- R414: BM once the checks have passed. -/
  bm : List Byte := []
  /-- R418: block 3, once the set-up lock is set. -/
  lockDigest : List Byte := []
  /-- R417: how far SPDM negotiation has come: 0 nothing, 1 version, 2 capabilities, 3 algorithms. -/
  spdm : Nat := 0
  /-- R409: negotiated state was discarded at event 8 and no GET_VERSION has come since. -/
  resync : Bool := false
  /-- SPDM 1.3 transcript parts: VCA; certificates; measurement requests since the latest signature. -/
  vca : List Byte := []
  msgB : List Byte := []
  msgL : List Byte := []
  /-- Responses issued on the DOE mailbox. -/
  out : List (List Byte) := []
  /-- R423: held seals in the order they were made. -/
  store : List Seal := []
  /-- R420: the latest seal of each partition since boot. -/
  latest : SMap (Option Seal) := []
  /-- R424: discards of a chain since its previous entry was written. -/
  dropped : SMap Nat := []
  /-- R421: CHAINID of each partition's chain; draws made of the random bit generator. -/
  chainIds : SMap (List Byte) := []
  draws : Nat := 0
  deriving DecidableEq, Repr

/-- R363: a fault log entry. -/
structure FaultEnt where
  tick : Nat
  csn : Nat
  utype : Nat
  source : Nat
  unit : Nat
  part : Nat
  outcome : Nat
  count : Nat
  addr : Nat
  deriving DecidableEq, Repr

/-- R441: a sample set, and the tick of its acceptance or latest sample. -/
structure SampSet where
  sectors : Nat
  cores : Nat
  kinds : Nat
  period : Nat
  count : Nat
  taken : Nat := 0
  last : Nat := 0
  lost : Bool := false
  deriving DecidableEq, Repr

/-- R436: what a memory group's telemetry counts. -/
structure MemCtr where
  corrected : Nat := 0
  uncorrectable : Nat := 0
  remapped : Nat := 0
  passes : Nat := 0
  passEnd : Nat := 0
  late : Bool := false
  deriving DecidableEq, Repr

/-- R440: a sector's ageing counts. -/
structure AgeCtr where
  start : Nat := 0
  latest : Nat := 0
  loss : Nat := 0
  tick : Nat := 0
  deriving DecidableEq, Repr

/-- Chapter 15: Pewter. -/
structure Pewter where
  standby : Bool := true
  ready : Bool := true
  readyAt : Nat := 0
  /-- R428: the stores were lost since the latest boot, so the first boot tests every unit. -/
  fresh : Bool := false
  ga : Nat := 0
  /-- R381: the block accepted latest; the block in force. -/
  settings : Option (List Byte) := none
  inForce : Option (List Byte) := none
  /-- R393: standby tick of the latest heartbeat. -/
  beat : Option Nat := none
  hbLost : Bool := false
  /-- R435: a transfer in progress: next chunk and bytes so far. -/
  xfer : Option (Nat × List Byte) := none
  plan : Option (List Byte) := none
  /-- R346: the plan applied at the latest EN assertion. -/
  applied : Option (List Byte) := none
  /-- R367: fenced units as (UTYPE, UNIT), and R468 returns pending. -/
  fence : List (Nat × Nat) := []
  returns : List (Nat × Nat) := []
  /-- R366: transients as (UTYPE, UNIT, standby tick), latest first. -/
  transients : List (Nat × Nat × Nat) := []
  faultLog : SMap (Option FaultEnt) := []
  faultNext : Nat := 0
  capLog : SMap (Option CapEnt) := []
  capNext : Nat := 0
  depLog : SMap (Option DepEnt) := []
  /-- R41, R371: chunks and steps reported as possibly longer than R41 states: partition, CSN, 1 replayed or 2 units away. -/
  longSteps : List (Nat × Nat × Nat) := []
  depNext : Nat := 0
  /-- R429: I3C dynamic address, selected index, TCTL; in-band interrupts raised, with the MSTAT they announce. -/
  dynAddr : Option Nat := none
  index : Nat := 0
  tctl : Dword := 0
  ibis : List Dword := []
  mstatSeen : Nat := 0
  /-- R433, R436: messages sent to the rack manager. -/
  out : List (List Byte) := []
  /-- R431: messages were discarded without a response. -/
  discarded : Nat := 0
  /-- R441: sample sets by 4 × function + SETID; sampling messages discarded. -/
  sets : SMap (Option SampSet) := []
  sampLost : Nat := 0
  mem : SMap MemCtr := []
  age : SMap AgeCtr := []
  /-- R440: sectors reported with AGEING_WARN, and with AGEING_LIMIT. -/
  ageWarn : List Nat := []
  ageLimit : List Nat := []
  /-- R350: the ten counters of a port, by 16 × port + counter. -/
  ports : SMap Nat := []
  /-- R374: third reports of hub units: (unit, standby tick). -/
  hubReports : List (Nat × Nat) := []
  moduleFault : Bool := false
  deriving DecidableEq, Repr

end Sys2Proof.Machine
end

