-- ==== Sys2Proof/Machine/StatePart.lean ====
section
/-! DEFINITION. State of the partitions (chapters 7, 8, 9 and 12): requests, commit words, intervals in progress, model
slots, steering sets, images, chains of treatment records, expert exchange. -/

namespace Sys2Proof.Machine

/-- R210: the states of a request. -/
inductive RState where
  | free | open | prefill | ready | decode | closing
  deriving DecidableEq, Repr

/-- R215: a dynamic block. -/
structure Dyn where
  csn : Nat := 0
  state : RState := .free
  stop : Nat := 0
  flg : Flg := 0
  prefilled : Nat := 0
  ngen : Nat := 0
  deriving DecidableEq, Repr

/-- R226, R227: a committed token that the queue engine has not yet written. -/
structure StreamEnt where
  token : Nat
  n     : Nat
  last  : Bool
  /-- R306: the commit that made it. -/
  csn   : Nat := 0
  deriving DecidableEq, Repr

/-- R290: the error that decides how a request ends: tick of its report, rank among R288's rows, status. -/
structure ReqErr where
  tick : Nat
  rank : Nat
  status : Nat
  deriving DecidableEq, Repr

/-- R215, R216: a request table entry with its request area. -/
structure Rte where
  part : Nat
  model : Nat
  steer : Nat
  fn : Nat
  sq : Nat
  seq : Nat
  cid : Nat
  cq : Nat
  sring : Nat
  limit : Nat
  hosttag : Nat
  seed : Nat
  nprompt : Nat
  prompt : Nat
  kvRows : Nat
  /-- R215: local offsets of the page table and of the request area. -/
  kvpt : Nat := 0
  area : Nat := 0
  /-- R217: the page table: entry b × NPLANE + l holds 1 + bits [41:16] of a mapped page; 0 maps none. -/
  pt : SMap Nat := []
  /-- R218, R250: pages of the KV pool reserved for the request, its occupancy table included. -/
  resv : Nat
  cxlTick : Nat := 0
  dyn0 : Dyn := {}
  dyn1 : Dyn := {}
  samp : List Byte
  stopset : List Byte
  /-- Committed tokens, first token first: token history and digest state of the request area. -/
  toks : List Nat := []
  /-- R214: the prompt ids once read. -/
  ids : Option (List Nat) := none
  /-- R227: committed entries not yet written to the stream ring. -/
  ents : List StreamEnt := []
  /-- R250: the two copies of the occupancy record of each expert layer. -/
  occ0 : SMap Occ := []
  occ1 : SMap Occ := []
  err : Option ReqErr := none
  /-- R213: position in admission order. -/
  order : Nat
  /-- R225: position in the order of becoming READY. -/
  readyAt : Nat := 0
  /-- R241, R307: the record is folded into the chain; it is written to the record ring. -/
  appended : Bool := false
  recorded : Bool := false
  /-- Status of the completion once CLOSING. -/
  status : Nat := 0
  /-- R297: a function reset ends it at the next commit, with nothing written to the host. -/
  aborted : Bool := false
  deriving DecidableEq, Repr

/-- R225: what a decode step holds for one request before its commit. -/
structure StepRow where
  rte : Nat
  token : Option Nat := none
  stop : Nat := 0
  flg : Flg := 0
  /-- R250: the working occupancy record of each expert layer routed in the step. -/
  occ : SMap Occ := []
  /-- R252: its residual choices of the step by expert layer. -/
  drops : SMap Nat := []
  deriving DecidableEq, Repr

/-- R225: a decode step in progress. -/
structure DStep where
  rows : List StepRow
  start : Nat
  /-- t_o, once every sampler has written. -/
  tout : Option Nat := none
  /-- R194: layers complete, by configuration image. -/
  ran : SMap Nat := []
  /-- R225 item 2: local offset of each request's logits row, by RTE, as offset plus 1. -/
  logits : SMap Nat := []
  /-- R257, R262: dispatches made of each half, by expert layer and half; halves combined since the step began anew. -/
  tries : SMap Nat := []
  joined : List Nat := []
  /-- R391: pace periods held; a departure touched the step (R392). -/
  held : Nat := 0
  departed : Bool := false
  /-- R62, R91: flags that cleared configurations held and no one row raised. -/
  flg : Flg := 0
  deriving DecidableEq, Repr

/-- R220: a prefill chunk in progress. -/
structure Chunk where
  rte : Nat
  first : Nat
  count : Nat
  start : Nat
  /-- R194: layers complete, by configuration image. -/
  ran : SMap Nat := []
  /-- R257, R262: dispatches made of each half of the chunk's exchange batches; halves combined since the chunk began anew. -/
  tries : SMap Nat := []
  joined : List Nat := []
  flg : Flg := 0
  /-- The working copies of the occupancy records (R250). -/
  occ : SMap Occ := []
  /-- R252: its residual choices by expert layer. -/
  drops : SMap Nat := []
  /-- R391: the tick at which its latest layer completed. -/
  ready : Nat := 0
  held : Nat := 0
  departed : Bool := false
  deriving DecidableEq, Repr

/-- R313: the loader's report and status. -/
structure Report where
  status : Nat
  variant : Nat := 0xFFFF
  layer : Nat := 0xFFFFFFFF
  problem : Nat := 0xFFFFFFFF
  cell : Nat := 0xFFFFFFFF
  pair : Nat := 0xFFFFFFFF
  need : Nat := 0
  room : Nat := 0
  deriving DecidableEq, Repr

/-- R356: the registration kept with a slot or handle. -/
inductive Reg where
  | none
  /-- Running since a tick. -/
  | running (since : Nat)
  /-- Registered: every check passed. -/
  | ok
  | refused (r : Report)
  deriving DecidableEq, Repr

/-- R286, R356: a model slot that holds an image. -/
structure Slot where
  imgLen : Nat
  digest : List Byte
  /-- R286: local offsets of the segments, segment 0 first. -/
  segs : List Nat
  mirror : Bool
  reg : Reg := .none
  /-- R289: segments marked damaged. -/
  damaged : List Nat := []
  deriving DecidableEq, Repr

/-- R232, R233: a bound steering set. -/
structure SteerSet where
  bytes : List Byte
  digest : List Byte
  off : Nat
  damaged : Bool := false
  deriving DecidableEq, Repr

/-- R312: a configuration image under a handle. -/
structure Image where
  addr : Nat
  len : Nat
  reg : Reg
  /-- The registered image: address and length that runs use while a replacement is registered. -/
  cur : Option (Nat × Nat) := none
  deriving DecidableEq, Repr

/-- R282: the state of one segment at a sender or receiver. -/
structure SegSt where
  idx : Nat
  attempt : Nat := 0
  /-- Stored here with its CRC checked. -/
  stored : Bool := false
  /-- Acknowledged by the successor. -/
  acked : Bool := false
  /-- A data write of the predecessor has arrived; its data writes are forwarded as they arrive. -/
  touched : Bool := false
  fwd : Bool := false
  /-- Its data has been sent whole; its SEGMENT notice has been sent. -/
  sent : Bool := false
  noticed : Bool := false
  /-- Data writes to the successor not yet acknowledged. -/
  unacked : Nat := 0
  deriving DecidableEq, Repr

/-- R280–R282: a chain in progress at this module; PRED and SUCC are 0xFFFF where there is none. -/
structure Chain where
  cmd : Nat
  id : Nat
  imgLen : Nat
  pred : Nat
  succ : Nat
  slot : Nat
  mirror : Bool
  src : Nat
  /-- R280: the slot of the resident image that a head sends from. -/
  res : Option Nat
  digest : List Byte
  /-- Destination segments. -/
  segs : List Nat
  st : List SegSt
  /-- Local offset of the notice window; notices that have arrived, oldest first. -/
  win : Nat
  notices : List (List Byte) := []
  /-- Tick of the latest write or notice of the predecessor. -/
  heard : Nat
  deriving DecidableEq, Repr

/-- R206, R358: a run context of a GRAPH_RUN. -/
structure RunCtx where
  cmd : Nat
  handle : Nat
  layer : Nat
  left : Nat
  /-- R58: the numeric mode word, fixed when the run starts. -/
  mode : Nat := 0
  flg : Flg := 0
  /-- R62: the flags of the layers complete, and how often the layer in progress was discarded. -/
  kept : Flg := 0
  deriving DecidableEq, Repr

/-- R278: a peer window. -/
structure PWin where
  base : Nat
  size : Nat
  chipLo : Nat
  chipHi : Nat
  parts : Nat
  acc : Nat
  deriving DecidableEq, Repr

/-- R255: a row of a half: its place in the exchange batch, its request, where its output row goes, its placements and gates. -/
structure XRow where
  row : Nat
  rte : Nat
  out : Nat
  places : List Nat
  gates : List Nat
  deriving DecidableEq, Repr

/-- R255: one job of a half at its sender. -/
structure XJob where
  chip : Nat
  hpart : Nat
  /-- RSLOT, HSLOT of the rows in the job's order. -/
  rows : List (Nat × Nat)
  /-- Row writes not yet acknowledged as accepted; the header is sent when none is left (R258). -/
  unacked : Nat := 0
  headed : Bool := false
  /-- R259: accepted result writes: offset in the result buffer, bytes. -/
  got : List (Nat × List Byte) := []
  /-- STATUS of the RESULT header once it has arrived, and its row records. -/
  result : Option Nat := none
  res : List (List Byte) := []
  /-- R261: the path was lost, or the results were late. -/
  lost : Bool := false
  /-- R260: the result came after TEXCH. -/
  late : Bool := false
  deriving DecidableEq, Repr

/-- R255: a dispatched half of an exchange batch; `pos0` is the first position of a chunk's batch, 0 for a step's. -/
structure XHalf where
  xl : Nat
  half : Nat
  pos0 : Nat
  attempt : Nat
  start : Nat
  jobs : List XJob
  rows : List XRow
  /-- It belongs to the chunk in progress, not to the step. -/
  chunk : Bool
  /-- R260: TEXCH has passed in paced mode and its results were incomplete. -/
  late : Bool := false
  deriving DecidableEq, Repr

/-- R256: a job whose header was sent and whose RESULT header has not arrived, until its results are late (R261). -/
structure Owed where
  half : Nat
  chip : Nat
  hpart : Nat
  limit : Nat
  deriving DecidableEq, Repr

/-- R256–R258: a job accepted by a holder. -/
structure HJob where
  chip : Nat
  spart : Nat
  half : Nat
  header : List Byte
  rows : List (List Byte)
  /-- The RESULT header, once the job is complete, and the row writes not yet acknowledged as accepted. -/
  reply : Option (List Byte) := none
  unacked : Nat := 0
  deriving DecidableEq, Repr

/-- R242, R421: an ended epoch awaiting its seal. -/
structure EpochEnd where
  count : Nat
  reason : Nat
  tick : Nat
  /-- Number of the epoch, first sequence number, chain head at its end and start tick. -/
  epoch : Nat
  first : Nat
  head : List Byte
  began : Nat
  deriving DecidableEq, Repr

/-- R315: what a partition is, but for the difference of IDLE and BUSY, which its requests decide. -/
inductive PPhase where
  | absent | empty | selecting | selected | faulted
  deriving DecidableEq, Repr

/-- R353: a partition. -/
structure Part where
  phase : PPhase := .absent
  /-- PART_CREATE accepted and its clears under way. -/
  creating : Bool := false
  sectors : Nat := 0
  groups : Nat := 0
  lend : Nat := 0
  nslot : Nat := 0
  rteq : Nat := 0
  kvPages : Nat := 0
  cntq : Nat := 0
  sqq : Nat := 0
  cqq : Nat := 0
  srq : Nat := 0
  hostlim : Nat := 0
  peerlim : Nat := 0
  peerLo : Nat := 0
  peerHi : Nat := 0
  pwin : List PWin := []
  xsend : List (Nat × Nat) := []
  /-- R224: the commit word and the tick of the latest commit. -/
  cw : Nat := 0
  ctick : Nat := 0
  slots : SMap (Option Slot) := []
  sel : Option Nat := none
  /-- R357: placements cleared and re-pointed for a MODEL_SELECT in progress: the command and its slot. -/
  selecting : Option (Nat × Nat) := none
  /-- R358: the serving context with its numeric mode word. -/
  serving : Option Nat := none
  /-- R62, R91: the serving context's own flag word: flags that cleared configurations held and no one row raised. -/
  ctxFlg : Flg := 0
  steers : SMap (Option SteerSet) := []
  images : SMap (Option Image) := []
  chains : List Chain := []
  runs : List RunCtx := []
  /-- Problem lists of tier 2 read for the layers that run (R195): address and bytes. -/
  lists : List (Nat × List Byte) := []
  chunk : Option Chunk := none
  step : Option DStep := none
  /-- R62: flag notices of the interval by row tag, not yet committed. -/
  notices : SMap Flg := []
  admitted : Nat := 0
  readied : Nat := 0
  /-- R241: chain head, next SEQ, held records (R307). -/
  head : List Byte := []
  seqno : Nat := 0
  held : List (List Byte × Option Nat) := []
  /-- R242: number of the epoch in progress, tick at which it began and records appended in it. -/
  epoch : Nat := 0
  epochAt : Nat := 0
  epochN : Nat := 0
  ended : List EpochEnd := []
  chainOver : Bool := false
  /-- R252: drop counters by expert layer. -/
  drops : SMap Nat := []
  halves : List XHalf := []
  /-- R256: results outstanding at holders, those of discarded dispatches included. -/
  owed : List Owed := []
  hjobs : List HJob := []
  /-- R373: discards of the interval since the latest commit. -/
  discards : Nat := 0
  /-- R288: blocks that failed in the interval. -/
  failed : List Nat := []
  /-- R398, R399: energy counter of the partition and the share not yet divided, in units of R398. -/
  energy : Nat := 0
  undivided : Nat := 0
  ringEnergy : SMap Nat := []
  /-- R368: Copper units whose rows cores compute until the next MODEL_SELECT or return. -/
  rowMoves : List Nat := []
  /-- R274: first tick of the latest chunk or step. -/
  began : Nat := 0
  /-- R371: units out of service at the latest MODEL_SELECT, as (UTYPE, UNIT). -/
  selOut : List (Nat × Nat) := []
  /-- R297: since a reset of its function, no engine of the partition accesses a HOST address. -/
  hostCut : Bool := false
  /-- R370: groups lost to a group fault. -/
  lostGroups : Nat := 0
  deriving DecidableEq, Repr

end Sys2Proof.Machine
end

