-- ==== Sys2Proof/Machine/State.lean ====
section
/-! DEFINITION. The state of the module, the reasons a step can stop, and the state after reset (R13). -/

namespace Sys2Proof.Machine

/-- Why a step stops with a fault. -/
inductive Fault where
  /-- Raised by every meaning whose command names a unit number that R27, R36, R180 or R291 does not give the module
  (core 4,096, port 16, function 17). Safe: the hardware has no such unit to act on. -/
  | noSuchUnit
  deriving DecidableEq, Repr

/-- Why a command is refused. -/
inductive Refusal where
  /-- The dispatch's arm of a command that has no meaning yet. Safe: nothing is claimed of it. -/
  | notModelled (mnemonic : String)
  deriving DecidableEq, Repr

/-- The whole module, and the commands that wait for it, first in, first out. -/
structure State where
  /-- R30: the tick count, and the standby time base (R29). -/
  tick : Nat
  sbTick : Nat
  /-- The model's own counter behind its free values. -/
  freeCtr : Nat
  host : HostIf
  parts : SMap Part
  rtes : SMap (Option Rte)
  fab : Fabric
  power : Power
  sec : Electrum
  pew : Pewter
  eng : Engines
  mem : Mem
  pending : List Instr
  deriving DecidableEq, Repr

/-- R13: the state after PERST# deassertion with main power good, before event 1 of R408. The PF (function 0) is enabled;
no fused value, partition, plan or bundle is present. DESIGN CHOICE: log entry 5. -/
def State.reset : State where
  tick := 0
  sbTick := 0
  freeCtr := 0
  host := {}
  parts := []
  rtes := []
  fab := {}
  power := {}
  sec := {}
  pew := {}
  eng := {}
  mem := {}
  pending := []

end Sys2Proof.Machine
end

