-- ==== Sys2Proof/Machine/Cache.lean ====
section
/-! DEFINITION. The lines of the near cache (R174, R176, R177): tags, recency and dirty state. The bytes themselves are those
of local memory (R175: a write accepted by a slice counts as written). -/

namespace Sys2Proof.Machine

/-- R174: the set of a line of a group, from its group-local offset. -/
def cacheSet (off : Nat) : Nat := (BitVec.ofNat 12 (bits off 7 12) ^^^ BitVec.ofNat 12 (bits off 19 12)).toNat

/-- Key of a set of a group: the group's number and the set. -/
def setKey (off : Nat) : Nat := 4096 * (off / 2 ^ 36) + cacheSet (off % 2 ^ 36)

def lineNo (off : Nat) : Nat := off % 2 ^ 36 / 128

/-- The way of a set that holds a line. -/
def wayOf (m : Mem) (off : Nat) : Option Nat :=
  (List.range 16).find? (fun w => match SGet none m.lines (16 * setKey off + w) with
    | some l => l.tag == lineNo off
    | none => false)

/-- The nodes of the 16-way tree on the path to a way, with the side taken at each. -/
def treePath (w : Nat) : List (Nat × Bool) :=
  [(0, bit w 3), (1 + w / 8, bit w 2), (3 + w / 4, bit w 1), (7 + w / 2, bit w 0)]

/-- The tree set to lead to a way, or away from it. -/
def treeSet (t w : Nat) (toward : Bool) : Nat :=
  (treePath w).foldl (fun t n => putBits t n.1 1 (b2n (n.2 == toward))) t

/-- The way the tree leads to. DEDUCED: log entry 30. -/
def treeVictim (t : Nat) : Nat :=
  let a := b2n (bit t 0)
  let b := 2 * a + b2n (bit t (1 + a))
  let c := 2 * b + b2n (bit t (3 + b))
  2 * c + b2n (bit t (7 + c))

/-- The way a new line takes: the lowest empty one, else the tree's victim. DEDUCED: log entry 30. -/
def newWay (m : Mem) (off : Nat) : Nat :=
  ((List.range 16).find? (fun w => (SGet none m.lines (16 * setKey off + w)).isNone)).getD (treeVictim (SGet 0 m.plru (setKey off)))

def putLine (m : Mem) (off w : Nat) (l : Option Line) : Mem := { m with lines := SSet none m.lines (16 * setKey off + w) l }

def touch (m : Mem) (off w : Nat) (recent : Bool) : Mem :=
  { m with plru := SSet 0 m.plru (setKey off) (treeSet (SGet 0 m.plru (setKey off)) w (!recent)) }

/-- R176: a read of one line in class NORMAL (0), STREAM (1) or BYPASS (2). -/
def lineRead (ch : Nat) (m : Mem) (off : Nat) : Mem :=
  match wayOf m off with
  | some w => if ch = 0 then touch m off w true else if ch = 1 then m else putLine m off w none
  | none =>
    if ch = 2 then m
    else
      let w := newWay m off
      touch (putLine m off w (some ⟨lineNo off, false⟩)) off w (ch == 0)

/-- R177: a write of one line, whole or in part. -/
def lineWrite (ch : Nat) (m : Mem) (off : Nat) : Mem :=
  match wayOf m off with
  | some w =>
    if ch = 2 then putLine m off w none
    else
      let m := putLine m off w (some ⟨lineNo off, true⟩)
      if ch = 0 then touch m off w true else m
  | none =>
    if ch = 2 then m
    else
      let w := newWay m off
      touch (putLine m off w (some ⟨lineNo off, true⟩)) off w (ch == 0)

/-- R176, R177: the lines that an access of one line writes to LPDDR6: its own in class BYPASS, or a dirty victim. -/
def deviceWrites (write : Bool) (ch : Nat) (m : Mem) (off : Nat) : List Nat :=
  match wayOf m off with
  | some w => if ch = 2 ∧ (write ∨ ((SGet none m.lines (16 * setKey off + w)).any (·.dirty))) then [off] else []
  | none =>
    if ch = 2 then (if write then [off] else [])
    else match SGet none m.lines (16 * setKey off + newWay m off) with
      | some l => if l.dirty then [off / 2 ^ 36 * 2 ^ 36 + 128 * l.tag] else []
      | none => []

/-- The lines of a range. -/
def linesIn (off n : Nat) : List Nat :=
  if n = 0 then [] else (List.range ((off + n - 1) / 128 - off / 128 + 1)).map (fun i => 128 * (off / 128 + i))

end Sys2Proof.Machine
end

