-- ==== Sys2Proof/Machine/Crypto.lean ====
section
/-! DEFINITION. The standards' functions that the manual names: CRC-32C (R126), SHA-512 (FIPS 180-4), ECDSA over
P-521 (FIPS 186-5, RFC 6979) and the Reed–Solomon code of LPDDR6 blocks (R270). -/

namespace Sys2Proof.Machine

/-- FIPS 180-4: the initial hash value. -/
def sha512H : List (BitVec 64) := [0x6a09e667f3bcc908#64, 0xbb67ae8584caa73b#64, 0x3c6ef372fe94f82b#64, 0xa54ff53a5f1d36f1#64, 0x510e527fade682d1#64, 0x9b05688c2b3e6c1f#64, 0x1f83d9abfb41bd6b#64, 0x5be0cd19137e2179#64]

/-- FIPS 180-4: round constants 0 to 15. -/
def sha512K0 : List (BitVec 64) := [
  0x428a2f98d728ae22#64, 0x7137449123ef65cd#64, 0xb5c0fbcfec4d3b2f#64, 0xe9b5dba58189dbbc#64,
  0x3956c25bf348b538#64, 0x59f111f1b605d019#64, 0x923f82a4af194f9b#64, 0xab1c5ed5da6d8118#64,
  0xd807aa98a3030242#64, 0x12835b0145706fbe#64, 0x243185be4ee4b28c#64, 0x550c7dc3d5ffb4e2#64,
  0x72be5d74f27b896f#64, 0x80deb1fe3b1696b1#64, 0x9bdc06a725c71235#64, 0xc19bf174cf692694#64]

/-- FIPS 180-4: round constants 16 to 31. -/
def sha512K1 : List (BitVec 64) := [
  0xe49b69c19ef14ad2#64, 0xefbe4786384f25e3#64, 0x0fc19dc68b8cd5b5#64, 0x240ca1cc77ac9c65#64,
  0x2de92c6f592b0275#64, 0x4a7484aa6ea6e483#64, 0x5cb0a9dcbd41fbd4#64, 0x76f988da831153b5#64,
  0x983e5152ee66dfab#64, 0xa831c66d2db43210#64, 0xb00327c898fb213f#64, 0xbf597fc7beef0ee4#64,
  0xc6e00bf33da88fc2#64, 0xd5a79147930aa725#64, 0x06ca6351e003826f#64, 0x142929670a0e6e70#64]

/-- FIPS 180-4: round constants 32 to 47. -/
def sha512K2 : List (BitVec 64) := [
  0x27b70a8546d22ffc#64, 0x2e1b21385c26c926#64, 0x4d2c6dfc5ac42aed#64, 0x53380d139d95b3df#64,
  0x650a73548baf63de#64, 0x766a0abb3c77b2a8#64, 0x81c2c92e47edaee6#64, 0x92722c851482353b#64,
  0xa2bfe8a14cf10364#64, 0xa81a664bbc423001#64, 0xc24b8b70d0f89791#64, 0xc76c51a30654be30#64,
  0xd192e819d6ef5218#64, 0xd69906245565a910#64, 0xf40e35855771202a#64, 0x106aa07032bbd1b8#64]

/-- FIPS 180-4: round constants 48 to 63. -/
def sha512K3 : List (BitVec 64) := [
  0x19a4c116b8d2d0c8#64, 0x1e376c085141ab53#64, 0x2748774cdf8eeb99#64, 0x34b0bcb5e19b48a8#64,
  0x391c0cb3c5c95a63#64, 0x4ed8aa4ae3418acb#64, 0x5b9cca4f7763e373#64, 0x682e6ff3d6b2b8a3#64,
  0x748f82ee5defb2fc#64, 0x78a5636f43172f60#64, 0x84c87814a1f0ab72#64, 0x8cc702081a6439ec#64,
  0x90befffa23631e28#64, 0xa4506cebde82bde9#64, 0xbef9a3f7b2c67915#64, 0xc67178f2e372532b#64]

/-- FIPS 180-4: round constants 64 to 79. -/
def sha512K4 : List (BitVec 64) := [
  0xca273eceea26619c#64, 0xd186b8c721c0c207#64, 0xeada7dd6cde0eb1e#64, 0xf57d4f7fee6ed178#64,
  0x06f067aa72176fba#64, 0x0a637dc5a2c898a6#64, 0x113f9804bef90dae#64, 0x1b710b35131c471b#64,
  0x28db77f523047d84#64, 0x32caab7b40c72493#64, 0x3c9ebe0a15c9bebc#64, 0x431d67c49c100d4c#64,
  0x4cc5d4becb3e42b6#64, 0x597f299cfc657e2a#64, 0x5fcb6fab3ad6faec#64, 0x6c44198c4a475817#64]

/-- FIPS 186-5, curve P-521: coefficient b. -/
def p521B : Nat := 0x51953eb9618e1c9a1f929a21a0b68540eea2da725b99b315f3b8b489918ef109e156193951ec7e937b1652c0bd3bb1bf073573df883d2c34f1ef451fd46b503f00

/-- FIPS 186-5, curve P-521: the order of the base point. -/
def p521N : Nat := 0x1fffffffffffffffffffffffffffffffffffffffffffffffffffffffffffffffffa51868783bf2f966b7fcc0148f709a5d03bb5c9b8899c47aebb6fb71e91386409

/-- FIPS 186-5, curve P-521: the base point's x. -/
def p521Gx : Nat := 0xc6858e06b70404e9cd9e3ecb662395b4429c648139053fb521f828af606b4d3dbaa14b5e77efe75928fe1dc127a2ffa8de3348b3c1856a429bf97e7e31c2e5bd66

/-- FIPS 186-5, curve P-521: the base point's y. -/
def p521Gy : Nat := 0x11839296a789a3bc0045c8a5fb42c7d1bd998f54449579b446817afbd17273e662c97ee72995ef42640c550b9013fad0761353c7086a272c24088be94769fd16650


/-- R126: one bit of the reflected CRC-32C. -/
def crc32cBit (c : BitVec 32) : BitVec 32 :=
  if c.getLsbD 0 then (c >>> 1) ^^^ 0x82F63B78#32 else c >>> 1

/-- R126: one byte of the CRC-32C. -/
def crc32cByte (c : BitVec 32) (b : Byte) : BitVec 32 :=
  crc32cBit (crc32cBit (crc32cBit (crc32cBit (crc32cBit (crc32cBit (crc32cBit (crc32cBit
    (c ^^^ b.setWidth 32))))))))

/-- R126: CRC-32C, initial value 0xFFFF_FFFF, reflected, final XOR 0xFFFF_FFFF. -/
def crc32c (bs : List Byte) : BitVec 32 := bs.foldl crc32cByte 0xFFFFFFFF#32 ^^^ 0xFFFFFFFF#32

/-- FIPS 180-4: the 80 round constants. -/
def sha512K : List (BitVec 64) := sha512K0 ++ sha512K1 ++ sha512K2 ++ sha512K3 ++ sha512K4

/-- Rotate right of a 64-bit word. -/
def rotr64 (x : BitVec 64) (n : Nat) : BitVec 64 := (x >>> n) ||| (x <<< (64 - n))

/-- FIPS 180-4: the message schedule continued by `n` words; `ws` holds the last 16, the latest first. -/
def shaSched : Nat → List (BitVec 64) → List (BitVec 64)
  | 0, _ => []
  | n + 1, ws =>
    let w15 := ws.getD 14 0
    let w2 := ws.getD 1 0
    let s0 := rotr64 w15 1 ^^^ rotr64 w15 8 ^^^ (w15 >>> 7)
    let s1 := rotr64 w2 19 ^^^ rotr64 w2 61 ^^^ (w2 >>> 6)
    let w := ws.getD 15 0 + s0 + ws.getD 6 0 + s1
    w :: shaSched n (w :: ws.take 15)

/-- FIPS 180-4: the eight working variables. -/
structure ShaVars where
  a : BitVec 64
  b : BitVec 64
  c : BitVec 64
  d : BitVec 64
  e : BitVec 64
  f : BitVec 64
  g : BitVec 64
  h : BitVec 64
  deriving DecidableEq, Repr

/-- FIPS 180-4: one round. -/
def shaRound (v : ShaVars) (kw : BitVec 64 × BitVec 64) : ShaVars :=
  let t1 := v.h + (rotr64 v.e 14 ^^^ rotr64 v.e 18 ^^^ rotr64 v.e 41)
    + ((v.e &&& v.f) ^^^ (~~~v.e &&& v.g)) + kw.1 + kw.2
  let t2 := (rotr64 v.a 28 ^^^ rotr64 v.a 34 ^^^ rotr64 v.a 39)
    + ((v.a &&& v.b) ^^^ (v.a &&& v.c) ^^^ (v.b &&& v.c))
  ⟨t1 + t2, v.a, v.b, v.c, v.d + t1, v.e, v.f, v.g⟩

/-- FIPS 180-4: one 128-byte block. -/
def shaBlock (hs : List (BitVec 64)) (blk : List Byte) : List (BitVec 64) :=
  let w := (List.range 16).map (fun j => BitVec.ofNat 64 (beNat ((blk.drop (8 * j)).take 8)))
  let ws := w ++ shaSched 64 w.reverse
  let v0 : ShaVars := ⟨hs.getD 0 0, hs.getD 1 0, hs.getD 2 0, hs.getD 3 0, hs.getD 4 0, hs.getD 5 0,
    hs.getD 6 0, hs.getD 7 0⟩
  let v := (sha512K.zip ws).foldl shaRound v0
  (hs.zip [v.a, v.b, v.c, v.d, v.e, v.f, v.g, v.h]).map (fun (x, y) => x + y)

/-- FIPS 180-4: blocks in order; `n` of them. -/
def shaBlocks : Nat → List (BitVec 64) → List Byte → List (BitVec 64)
  | 0, hs, _ => hs
  | n + 1, hs, bs => shaBlocks n (shaBlock hs (bs.take 128)) (bs.drop 128)

/-- FIPS 180-4: SHA-512 of a run of bytes; 64 bytes in the standard's order (R9). -/
def sha512 (m : List Byte) : List Byte :=
  let n := (m.length + 17 + 127) / 128
  let pad := 128 * n - m.length - 17
  let msg := m ++ [0x80#8] ++ zeros pad ++ beBytes 16 (8 * m.length)
  (shaBlocks n sha512H msg).flatMap (fun w => beBytes 8 w.toNat)

/-- HMAC-SHA-512 with a key of at most 128 bytes. -/
def hmac512 (key m : List Byte) : List Byte :=
  let k := key ++ zeros (128 - key.length)
  sha512 (k.map (· ^^^ 0x5C#8) ++ sha512 (k.map (· ^^^ 0x36#8) ++ m))

/-- P-521: the field prime. -/
def p521P : Nat := 2 ^ 521 - 1

/-- `b^e mod m`, over the low `n` bits of the exponent. -/
def powMod (m : Nat) : Nat → Nat → Nat → Nat
  | 0, _, _ => 1 % m
  | n + 1, b, e =>
    let r := powMod m n (b * b % m) (e / 2)
    if e % 2 = 1 then b * r % m else r

/-- The inverse modulo a prime below 2^521. -/
def invMod (m x : Nat) : Nat := powMod m 521 (x % m) (m - 2)

/-- A point of the curve; none is the point at infinity. -/
abbrev P521Pt := Option (Nat × Nat)

/-- The group law of P-521 (a = -3). -/
def p521Add (P Q : P521Pt) : P521Pt :=
  match P, Q with
  | none, q => q
  | p, none => p
  | some (x1, y1), some (x2, y2) =>
    let m := p521P
    if x1 = x2 ∧ (y1 + y2) % m = 0 then none
    else
      let l :=
        if x1 = x2 then (3 * x1 * x1 + (m - 3)) * invMod m (2 * y1) % m
        else (y2 + m - y1) * invMod m (x2 + m - x1) % m
      let x := (l * l + 2 * m - x1 - x2) % m
      some (x, (l * (x1 + m - x) + m - y1) % m)

/-- Scalar multiples over the low `n` bits of the scalar. -/
def p521Mul : Nat → Nat → P521Pt → P521Pt
  | 0, _, _ => none
  | n + 1, k, P =>
    let r := p521Mul n (k / 2) (p521Add P P)
    if k % 2 = 1 then p521Add P r else r

/-- The base point. -/
def p521G : P521Pt := some (p521Gx, p521Gy)

/-- Whether a pair of coordinates lies on the curve. -/
def p521On (x y : Nat) : Bool :=
  decide (x < p521P) && decide (y < p521P) &&
    (y * y + 3 * x) % p521P == (x * x * x + p521B) % p521P

/-- FIPS 186-5: ECDSA verification of (r, s) over a 64-byte digest. -/
def ecdsaVerify (qx qy : Nat) (digest : List Byte) (r s : Nat) : Bool :=
  let n := p521N
  if p521On qx qy && decide (0 < r ∧ r < n ∧ 0 < s ∧ s < n) then
    let w := invMod n s
    let z := beNat digest
    match p521Add (p521Mul 521 (z * w % n) p521G) (p521Mul 521 (r * w % n) (some (qx, qy))) with
    | none => false
    | some (x, _) => x % n == r
  else false

/-- RFC 6979: the candidates of the deterministic nonce, `fuel` of them at most. -/
def rfc6979Loop : Nat → List Byte → List Byte → Nat
  | 0, _, _ => 1
  | fuel + 1, K, V =>
    let V1 := hmac512 K V
    let V2 := hmac512 K V1
    let t := beNat ((V1 ++ V2).take 66) / 2 ^ 7
    if 0 < t ∧ t < p521N then t
    else
      let K' := hmac512 K (V2 ++ [0#8])
      rfc6979Loop fuel K' (hmac512 K' V2)

/-- RFC 6979: the nonce of a private key and a 64-byte digest. -/
def rfc6979 (d : Nat) (digest : List Byte) : Nat :=
  let xh := beBytes 66 d ++ beBytes 66 (beNat digest % p521N)
  let V := List.replicate 64 1#8
  let K := zeros 64
  let K := hmac512 K (V ++ [0#8] ++ xh)
  let V := hmac512 K V
  let K := hmac512 K (V ++ [1#8] ++ xh)
  rfc6979Loop 64 K (hmac512 K V)

/-- FIPS 186-5 with RFC 6979 nonces: the ECDSA signature of a 64-byte digest. -/
def ecdsaSign (d : Nat) (digest : List Byte) : Nat × Nat :=
  let n := p521N
  let k := rfc6979 d digest
  let r := match p521Mul 521 k p521G with
    | none => 0
    | some (x, _) => x % n
  (r, invMod n k * ((beNat digest + r * d) % n) % n)

/-- R413: a public key in the 133-byte form. -/
def p521PubBytes (d : Nat) : List Byte :=
  match p521Mul 521 d p521G with
  | none => zeros 133
  | some (x, y) => [0x04#8] ++ beBytes 66 x ++ beBytes 66 y

/-- R270: the product by α = 0x02 in GF(2^8) with x^8 + x^4 + x^3 + x^2 + 1. -/
def gfAlpha (x : Byte) : Byte := if x.getLsbD 7 then (x <<< 1) ^^^ 0x1D#8 else x <<< 1

/-- R270: α^n times a symbol. -/
def gfMulAlpha : Nat → Byte → Byte
  | 0, x => x
  | n + 1, x => gfAlpha (gfMulAlpha n x)

/-- R270: the syndrome of a code word at α^i, symbols highest power first. -/
def rsSyndrome (i : Nat) (cw : List Byte) : Byte := cw.foldl (fun acc c => gfMulAlpha i acc ^^^ c) 0

/-- R270: the product in GF(2^8). -/
def gfMul (a b : Byte) : Byte :=
  (List.range 8).foldl (fun acc i => if b.getLsbD i then acc ^^^ gfMulAlpha i a else acc) 0

/-- R270: a product of a polynomial, highest power first, by (x - r). -/
def polyMulRoot (p : List Byte) (r : Byte) : List Byte :=
  ((p ++ [0#8]).zip (0#8 :: p)).map (fun (a, b) => a ^^^ gfMul b r)

/-- R270: the generator polynomial, highest power first. -/
def rsGen : List Byte := (List.range 4).foldl (fun p i => polyMulRoot p (gfMulAlpha i 1#8)) [1#8]

/-- R270: one step of the division that leaves the check symbols. -/
def rsDivStep (reg : List Byte) (c : Byte) : List Byte :=
  let f := c ^^^ reg.headD 0
  ((reg.drop 1 ++ [0#8]).zip (rsGen.drop 1)).map (fun (x, g) => x ^^^ gfMul g f)

/-- R270: the four check symbols of 36 message symbols. -/
def rsCheck (msg : List Byte) : List Byte := msg.foldl rsDivStep (zeros 4)

/-- R270: the four address symbols, bits [35:5] of the group-local offset. -/
def rsAddr (groupOff : Nat) : List Byte := leBytes 4 (groupOff % 2 ^ 36 / 32)

/-- R270: the outcome of decoding a block. -/
inductive RsOut where
  | clean | corrected (data : List Byte) | uncorrectable
  deriving DecidableEq, Repr

/-- R270: the places at which a single symbol error would explain the syndromes. -/
def rsLocate (s0 s1 s2 s3 : Byte) : List Nat :=
  (List.range 40).filter (fun p =>
    gfMulAlpha p s0 == s1 && gfMulAlpha p s1 == s2 && gfMulAlpha p s2 == s3)

/-- R270: the decoder. `data`, `chk` are the symbols as they came back; the address symbols are the controller's.
A single error in an address symbol is a block read at a wrong address, and uncorrectable. -/
def rsDecode (data : List Byte) (groupOff : Nat) (chk : List Byte) : RsOut :=
  let cw := data ++ rsAddr groupOff ++ chk
  let s0 := rsSyndrome 0 cw
  let s1 := rsSyndrome 1 cw
  let s2 := rsSyndrome 2 cw
  let s3 := rsSyndrome 3 cw
  if s0 = 0 ∧ s1 = 0 ∧ s2 = 0 ∧ s3 = 0 then .clean
  else if s0 = 0 then .uncorrectable
  else
    match rsLocate s0 s1 s2 s3 with
    | [p] =>
      if p < 4 then .corrected data
      else if p < 8 then .uncorrectable
      else .corrected (data.set (39 - p) (data.getD (39 - p) 0 ^^^ s0))
    | _ => .uncorrectable

end Sys2Proof.Machine
end

