-- ==== Sys2Proof/Machine/Ops.lean ====
section
/-! DEFINITION. The named operations over the state: one home for reading and writing each unit, for memory, for writes to
the host, for completions and for reports of errors. -/

namespace Sys2Proof.Machine

/-- The one form of a meaning: a unit number that the module does not have stops it, anything else gives a next state.
DESIGN CHOICE: log entry 4. DESIGN CHOICE: log entry 12. -/
def onUnit (known : Bool) (t : State) : Host.Outcome State Fault Refusal :=
  if known then .next t else .fault .noSuchUnit

/-- An event whose condition does not hold in this state does not occur: nothing changes. DESIGN CHOICE: log entry 4. -/
def whenB (c : Bool) (s t : State) : State := if c then t else s

/-! ### Reading and writing units -/

def getPart (s : State) (p : Nat) : Part := SGet {} s.parts p
def modPart (s : State) (p : Nat) (f : Part → Part) : State :=
  { s with parts := SSet {} s.parts p (f (getPart s p)) }
def getRte (s : State) (r : Nat) : Option Rte := SGet none s.rtes r
def setRte (s : State) (r : Nat) (v : Option Rte) : State := { s with rtes := SSet none s.rtes r v }
def modRte (s : State) (r : Nat) (f : Rte → Rte) : State := setRte s r ((getRte s r).map f)
def getCore (s : State) (n : Nat) : Core := SGet {} s.eng.cores n
def setCore (s : State) (n : Nat) (c : Core) : State :=
  { s with eng := { s.eng with cores := SSet {} s.eng.cores n c } }
def modCore (s : State) (n : Nat) (f : Core → Core) : State := setCore s n (f (getCore s n))
def getCell (s : State) (row col : Nat) : Cell := SGet {} s.eng.cells (1024 * row + col)
def setCell (s : State) (row col : Nat) (c : Cell) : State :=
  { s with eng := { s.eng with cells := SSet {} s.eng.cells (1024 * row + col) c } }
def getSE (s : State) (n e : Nat) : SE := SGet {} (getCore s n).se e
def setSE (s : State) (n e : Nat) (v : SE) : State := modCore s n (fun c => { c with se := SSet {} c.se e v })
def modSE (s : State) (n e : Nat) (f : SE → SE) : State := setSE s n e (f (getSE s n e))
def getCob (s : State) (n : Nat) : Cobalt := SGet {} s.eng.cobalts n
def modCob (s : State) (n : Nat) (f : Cobalt → Cobalt) : State :=
  { s with eng := { s.eng with cobalts := SSet {} s.eng.cobalts n (f (getCob s n)) } }
def getPort (s : State) (n : Nat) : Port := SGet {} s.fab.ports n
def modPort (s : State) (n : Nat) (f : Port → Port) : State :=
  { s with fab := { s.fab with ports := SSet {} s.fab.ports n (f (getPort s n)) } }
def getFn (s : State) (n : Nat) : FnRegs := SGet {} s.host.fns n
def modFn (s : State) (n : Nat) (f : FnRegs → FnRegs) : State :=
  { s with host := { s.host with fns := SSet {} s.host.fns n (f (getFn s n)) } }
def getCtr (s : State) (n : Nat) : Option Ctr := SGet none s.eng.ctrs n
def setCtr (s : State) (n : Nat) (v : Option Ctr) : State :=
  { s with eng := { s.eng with ctrs := SSet none s.eng.ctrs n v } }
def modEng (s : State) (f : Engines → Engines) : State := { s with eng := f s.eng }
def modHost (s : State) (f : HostIf → HostIf) : State := { s with host := f s.host }
def modPew (s : State) (f : Pewter → Pewter) : State := { s with pew := f s.pew }
def modSec (s : State) (f : Electrum → Electrum) : State := { s with sec := f s.sec }
def modPow (s : State) (f : Power → Power) : State := { s with power := f s.power }
def modMem (s : State) (f : Mem → Mem) : State := { s with mem := f s.mem }
def modFab (s : State) (f : Fabric → Fabric) : State := { s with fab := f s.fab }
def modParts (s : State) (f : SMap Part → SMap Part) : State := { s with parts := f s.parts }
def modRtes (s : State) (f : SMap (Option Rte) → SMap (Option Rte)) : State := { s with rtes := f s.rtes }

/-- R29, R30: the time bases at a count. -/
def setTick (s : State) (n : Nat) : State := { s with tick := n % 2 ^ 64 }
def setStandby (s : State) (n : Nat) : State := { s with sbTick := n }

/-- The model's free values: each draw reads a fresh argument of an opaque constant. -/
def spend (s : State) (n : Nat) : State := { s with freeCtr := s.freeCtr + n }
def drawFree (s : State) : Nat × State := (Config.freeValue s.freeCtr, spend s 1)

/-! ### Numbers of units (R27) -/

/-- Partitions of the module. DESIGN CHOICE: log entry 43. -/
def partIds : List Nat := List.range 16

def coreOfCell (row col : Nat) : Nat :=
  let sr := row / 128
  let sc := col / 128
  let q := 2 * (sr / 4) + sc / 4
  64 * (16 * q + 4 * (sr % 4) + sc % 4) + 8 * (row % 128 / 16) + col % 128 / 16

/-- Row and column of a sector in the module's 8 × 8 grid (R107). -/
def sectorRow (n : Nat) : Nat := 4 * (n / 32) + n % 16 / 4
def sectorCol (n : Nat) : Nat := 4 * (n / 16 % 2) + n % 4

/-- The sector at a row and column of the module's grid. -/
def sectorAt (r c : Nat) : Nat := 16 * (2 * (r / 4) + c / 4) + 4 * (r % 4) + c % 4

/-- The partition that holds a sector or a memory group. -/
def partOfSector (s : State) (n : Nat) : Option Nat :=
  partIds.find? (fun p => (getPart s p).phase != .absent && bit (getPart s p).sectors n)
def partOfGroup (s : State) (g : Nat) : Option Nat :=
  partIds.find? (fun p => (getPart s p).phase != .absent && bit (getPart s p).groups g)

/-- R363: unit types. -/
def utCore : Nat := 1
def utCobalt : Nat := 2
def utCopper : Nat := 3
def utSlice : Nat := 4
def utGroup : Nat := 5
def utRow : Nat := 6
def utHub : Nat := 7
def utPort : Nat := 8
def utRail : Nat := 9

/-- R367: the unit, or for a core its sector's Cobalt core, is in the fence map. -/
def fenced (s : State) (u n : Nat) : Bool :=
  s.pew.fence.contains (u, n) || (u == utCore && s.pew.fence.contains (utCobalt, n / 64)) ||
    (u == utSlice && s.pew.fence.contains (utGroup, n)) || (u == utCopper && s.pew.fence.contains (utGroup, n / 8))

/-- The unit is out of service: fenced, or withdrawn for a test. -/
def outOfService (s : State) (u n : Nat) : Bool :=
  fenced s u n || s.eng.away.contains (u, n) || (u == utCore && s.eng.away.contains (utCobalt, n / 64))

/-- The partition that holds a unit. -/
def partOfUnit (s : State) (u n : Nat) : Option Nat :=
  if u = utCore then partOfSector s (n / 64)
  else if u = utCobalt then partOfSector s n
  else if u = utCopper then partOfGroup s (n / 8)
  else if u = utSlice ∨ u = utGroup then partOfGroup s n
  else none

/-- R354: the sectors of a partition whose Cobalt core serves, ascending. -/
def liveSectors (s : State) (p : Nat) : List Nat :=
  (List.range 64).filter (fun n => bit (getPart s p).sectors n && !outOfService s utCobalt n)

/-- R354: the lead sector and the lent sectors. -/
def leadSector (s : State) (p : Nat) : Option Nat := (liveSectors s p).head?
def lentSectors (s : State) (p : Nat) : List Nat :=
  let l := liveSectors s p
  l.drop (l.length - min (getPart s p).lend (l.length - 1))

/-- R265: groups of a partition, ascending. -/
def groupsOf (p : Part) : List Nat := (List.range 48).filter (bit p.groups)

/-- R82: the sector is held by a droop trip, a load, the thermal stop or the power-fail sequence. -/
def sectorHeld (s : State) (n : Nat) : Bool :=
  SGet 0 s.power.held n != 0 || s.eng.places.any (fun pl => pl.loading.contains n) ||
    (s.power.tstop && !(s.power.tsParts.any (fun p => bit (getPart s p).sectors n) ||
      s.power.tsRuns.any (fun c => s.eng.places.any (fun pl => pl.ctx == .run c && pl.sectors.contains n)))) ||
    s.power.pfwAt.isSome || !s.power.pg || s.power.perst || s.power.railsOff.contains n

/-- R82, R124: the core is held. -/
def coreHeld (s : State) (n : Nat) : Bool :=
  sectorHeld s (n / 64) || (getCore s n).held || outOfService s utCore n ||
    s.eng.places.any (fun pl => pl.withdrawn.contains n)

/-! ### Local memory (chapter 9) -/

/-- DESIGN CHOICE: log entry 7. -/
def memGet (s : State) (off n : Nat) : List Byte := SGetRun 0 s.mem.bytes off n

/-- R271, R272: the offset lies in the primary copy of MIRRORED data. -/
def mirrored (s : State) (off : Nat) : Bool :=
  let g := off / 2 ^ 36
  let k := bits off 33 3
  let sys := decide (0xFBF000000 ≤ off % 2 ^ 36 ∧ off % 2 ^ 36 ≤ 0xFFEFFFFFF) &&
    (match partOfGroup s g with | some p => (groupsOf (getPart s p)).head? == some g | none => false)
  sys || (decide (4 ≤ k) && bit (SGet 0 s.mem.classMap g).toNat (8 * (k - 4) + bits off 30 3))

/-- R271: the other copy of a mirrored block, and the primary one: the second copy lies 2^35 below. -/
def copyOf (off : Nat) : Nat := off - 2 ^ 35
def primaryOf (s : State) (off : Nat) : Nat := if bits off 33 3 < 4 ∧ mirrored s (off + 2 ^ 35) then off + 2 ^ 35 else off

/-- A write to the devices: the bytes, and every block written whole has a valid code again (R369), in both copies of mirrored
data (R271). The second copy has no bytes of its own: it holds what the primary one holds. -/
def memStore (s : State) (off : Nat) (bs : List Byte) : State :=
  let lo := (off + 31) / 32
  let hi := (off + bs.length) / 32
  let hit := fun (b : Nat) => decide (lo ≤ b) && decide (b < hi)
  modMem s (fun m => { m with
    bytes := SSetRun 0 m.bytes off bs
    lost := m.lost.filter (fun e => !hit (primaryOf s (32 * e.1) / 32)) })

/-- A block marked, or no longer marked, as decoding as uncorrectable. -/
def markLost (s : State) (off : Nat) (v : Bool) : State := modMem s (fun m => { m with lost := SSet false m.lost (off / 32) v })

/-- A block decodes as uncorrectable; of mirrored data, the copy at this offset. -/
def blockLost (s : State) (off : Nat) : Bool := SGet false s.mem.lost (off / 32)

/-- A block of the range decodes as uncorrectable; of mirrored data, in both copies (R271). -/
def memLost (s : State) (off n : Nat) : Bool :=
  s.mem.lost.any (fun e => decide (off / 32 ≤ e.1) && decide (e.1 * 32 < off + n) &&
    (!mirrored s (32 * e.1) || blockLost s (copyOf (32 * e.1))))

/-! ### LPDDR6: rows, activations and maintenance slots (R265, R273, R274) -/

/-- R265: the sub-channel of the module that holds an offset, and the device row, one 2 KiB run of offsets. -/
def subOf (off : Nat) : Nat := off / 2 ^ 33
def rowOf (off : Nat) : Nat := off / 2048

/-- R265: the bank within the rank: bits [14:11] XOR bits [18:15]. -/
def bankBits (off : Nat) : Nat := (BitVec.ofNat 4 (bits off 11 4) ^^^ BitVec.ofNat 4 (bits off 15 4)).toNat

/-- A bank of a rank of a sub-channel, and the row number within it. -/
def bankOf (off : Nat) : Nat := (subOf off * 2 + bits off 32 1) * 16 + bankBits off
def rowIn (off : Nat) : Nat := bits off 15 17

/-- The smallest counter of a bank. -/
def minCount : List (Nat × Nat) → Nat
  | [] => 0
  | x :: xs => xs.foldl (fun m y => min m y.2) x.2

/-- One activation of a row: its counter, or the place of the smallest of the bank's 32. DEDUCED: log entry 31. -/
def activated (row : Nat) (cs : List (Nat × Nat)) : List (Nat × Nat) :=
  if cs.any (fun c => c.1 == row) then updateWhere (fun c => c.1 == row) (fun c => (c.1, c.2 + 1)) cs
  else if cs.length < 32 then cs ++ [(row, 1)]
  else
    let m := minCount cs
    dropFirst (fun c => c.2 == m) cs ++ [(row, m + 1)]

def countOf (row : Nat) (cs : List (Nat × Nat)) : Nat := ((cs.find? (fun c => c.1 == row)).map (·.2)).getD 0

/-- The targeted refreshes of a row's neighbours are done: its counter is reset. -/
def refreshed (m : Mem) (bank row : Nat) : Mem :=
  { m with rows := SSet [] m.rows bank ((SGet [] m.rows bank).filter (fun c => c.1 != row))
           due := SSet [] m.due bank ((SGet [] m.due bank).filter (· != row)) }

/-- R274: ticks since the first one of the maintenance schedule of a group; none in free-running mode, and for a group of no
partition, whose maintenance is issued when due. DEDUCED: log entry 31. -/
def slotTick (s : State) (g : Nat) : Option Nat :=
  if s.power.paced then (partOfGroup s g).map (fun p => s.tick - (getPart s p).began) else none

/-- R274: maintenance of a group may be issued now: the first 16 ticks of every 192 are a window. -/
def slotOpen (s : State) (g : Nat) : Bool :=
  match slotTick s g with | none => true | some t => decide (t % 192 < 16)

/-- R274: targeted row refreshes issued so far in the window of a sub-channel that is open now. -/
def inWindow (s : State) (sub : Nat) : Nat :=
  match slotTick s (sub / 8) with
  | none => 0
  | some t => let w := SGet (0, 0) s.mem.window sub; if w.1 = s.tick - t % 192 then w.2 else 0

/-- R273, R274: the targeted refreshes of one row, four rows' refreshes, when a slot and its 8 of them allow. -/
def targeted (s : State) (bank row : Nat) : State :=
  let sub := bank / 32
  if !slotOpen s (sub / 8) ∨ 8 < inWindow s sub + 4 then s
  else
    let n := inWindow s sub + 4
    modMem s (fun m => { refreshed m bank row with window := match slotTick s (sub / 8) with
      | none => m.window
      | some t => SSet (0, 0) m.window sub (s.tick - t % 192, n) })

/-- R273: a row is activated, for a read or a write; targeted refreshes that fall due are issued when a slot allows. -/
def activate (s : State) (off : Nat) : State :=
  let b := bankOf off
  let r := rowIn off
  let s := modMem s (fun m => { m with rows := SSet [] m.rows b (activated r (SGet [] m.rows b)) })
  if countOf r (SGet [] s.mem.rows b) < 256 then s
  else targeted (modMem s (fun m => { m with due := SSet [] m.due b (let l := SGet [] m.due b; if l.contains r then l else l ++ [r]) })) b r

/-- R273: no further activation of a row at 512 whose targeted refreshes are pending. -/
def blocked (s : State) (off : Nat) : Bool :=
  decide (512 ≤ countOf (rowIn off) (SGet [] s.mem.rows (bankOf off)))

/-- R273: the pending targeted refreshes of a bank, as far as the slot allows. -/
def issueDue (s : State) (bank : Nat) : State := (SGet [] s.mem.due bank).foldl (fun s r => targeted s bank r) s

/-! ### The near cache (R175 to R179) -/

/-- R179: the slice of a group serves; else every access goes to LPDDR6. -/
def sliceServes (s : State) (g : Nat) : Bool := !outOfService s utSlice g && !outOfService s utGroup g

/-- One line of an access: what it writes to the devices activates their rows, and the slice takes it, unless the group is
uncached. -/
def lineAccess (write : Bool) (ch : Nat) (s : State) (o : Nat) : State :=
  if sliceServes s (o / 2 ^ 36) then
    modMem ((deviceWrites write ch s.mem o).foldl activate s) (fun m => if write then lineWrite ch m o else lineRead ch m o)
  else if write then activate s o else s

/-- R175, R179: an access of a range of local memory passes through its slices, in class NORMAL (0), STREAM (1) or BYPASS (2).
DEDUCED: log entry 30. -/
def cacheAccess (s : State) (write : Bool) (ch off n : Nat) : State := (linesIn off n).foldl (lineAccess write ch) s

/-- R179: a slice that has left service still writes lines back, and accesses to its group wait. -/
def sliceLeaving (s : State) (g : Nat) : Bool := !sliceServes s g && s.mem.lines.any (fun e => e.1 / 65536 == g)

/-- R179: a slice without a line. -/
def clearSlice (s : State) (g : Nat) : State :=
  modMem s (fun m => { m with
    lines := m.lines.filter (fun e => e.1 / 65536 != g)
    plru := m.plru.filter (fun e => e.1 / 4096 != g) })

/-- R179: an access of a range waits for a write-back. -/
def memWaits (s : State) (off n : Nat) : Bool := (linesIn off n).any (fun o => sliceLeaving s (o / 2 ^ 36))

/-- R175: a write through the near cache in a class. -/
def localWrite (s : State) (ch off : Nat) (bs : List Byte) : State := memStore (cacheAccess s true ch off bs.length) off bs

/-- R175: a write of a unit other than a stream engine, in class NORMAL. DEDUCED: log entry 30. -/
def memPut (s : State) (off : Nat) (bs : List Byte) : State := localWrite s 0 off bs

/-- R175: what a read of a range, in class NORMAL, leaves of the lines. DEDUCED: log entry 30. -/
def memTouch (s : State) (off n : Nat) : State := cacheAccess s false 0 off n

/-- R266, R272: a byte of the data space of a group; `sys` when the group is the lowest of its partition. -/
def inDataSpace (s : State) (sys : Bool) (off : Nat) : Bool :=
  let go := off % 2 ^ 36
  let so := go % 2 ^ 33
  let k := go / 2 ^ 33
  let cm := (SGet 0 s.mem.classMap (off / 2 ^ 36)).toNat
  decide (so < 0x1FF000000) &&
    !(sys && (decide (0xFBF000000 ≤ go ∧ go ≤ 0xFFEFFFFFF) || decide (0x7BF000000 ≤ go ∧ go ≤ 0x7FEFFFFFF))) &&
    !(decide (k < 4) && bit cm (8 * k + so / 0x40000000))

/-- R269: LOCAL bytes `off` to `off + n - 1` lie in the data space of a partition's groups; a range of the size given
lies in one kind of range exactly when its ends and its 16 MiB steps do. -/
def localOk (s : State) (p off n : Nat) : Bool :=
  let P := getPart s p
  let ok := fun (o : Nat) => decide (o < 48 * 2 ^ 36) && bit P.groups (o / 2 ^ 36) &&
    inDataSpace s ((groupsOf P).head? == some (o / 2 ^ 36)) o
  decide (0 < n) && ok off && ok (off + n - 1) &&
    (List.range ((off + n - 1) / 0x1000000 - off / 0x1000000)).all (fun i => ok ((off / 0x1000000 + i + 1) * 0x1000000))

/-- R35, R268: fields of a global address. -/
def gSpace (a : Nat) : Nat := bits a 48 2
def gChip (a : Nat) : Nat := bits a 50 14
def gOff (a : Nat) : Nat := bits a 0 48

/-- R338: the module's chip number; 0 with no plan. -/
def ownChip (s : State) : Nat := match s.pew.applied with
  | none => 0
  | some pl => fld pl 0x18 2 % 2 ^ 14

/-- The module has a chip number of its own. -/
def hasPlan (s : State) : Bool := s.pew.applied.isSome

/-- R286: a byte of the image in a slot as a local offset. -/
def imgOff (sl : Slot) (o : Nat) : Nat := sl.segs.getD (o / 0x400000) 0 + o % 0x400000

/-- R286: bytes of the image in a slot, split at segment boundaries. -/
def imgGet (s : State) (sl : Slot) (o n : Nat) : List Byte :=
  (List.range n).map (fun i => SGet 0 s.mem.bytes (imgOff sl (o + i)))

def imgFld (s : State) (sl : Slot) (o n : Nat) : Nat := leNat (imgGet s sl o n)

def getSlot (s : State) (p k : Nat) : Option Slot := SGet none (getPart s p).slots k

/-- The slot of the selected model. -/
def selSlot (s : State) (p : Nat) : Option Slot := (getPart s p).sel.bind (getSlot s p)

/-- R269: is the address permitted for an access of a partition's engine? `img` is the slot of the running image. -/
def permitted (s : State) (p : Nat) (img : Option Nat) (write : Bool) (a n : Nat) : Bool :=
  let P := getPart s p
  match gSpace a with
  | 0 => gChip a == 0 && localOk s p (gOff a) n
  | 1 => gChip a == 0 && (getFn s (p + 1)).enabled && decide (gOff a + n ≤ 2 ^ 48)
  | 2 => (hasPlan s && gChip a == ownChip s && localOk s p (gOff a) n) ||
      (!(hasPlan s && gChip a == ownChip s) && decide (P.peerLo ≤ gChip a ∧ gChip a ≤ P.peerHi))
  | _ => !write && gChip a == 0 && match img.bind (getSlot s p) with
      | none => false
      | some sl => decide (gOff a + n ≤ sl.imgLen)

/-- The local offset an address names, for LOCAL, IMAGE and the module's own PEER addresses. -/
def localOf (s : State) (p : Nat) (img : Option Nat) (a : Nat) : Option Nat :=
  match gSpace a with
  | 0 => some (gOff a)
  | 1 => none
  | 2 => if hasPlan s && gChip a == ownChip s then some (gOff a) else none
  | _ => (img.bind (getSlot s p)).map (fun sl => imgOff sl (gOff a))

/-- Bytes of tier 1 at a global address. -/
def gGet (s : State) (p : Nat) (img : Option Nat) (a n : Nat) : List Byte :=
  match gSpace a with
  | 3 => match img.bind (getSlot s p) with
      | none => zeros n
      | some sl => imgGet s sl (gOff a) n
  | _ => memGet s (gOff a) n

/-! ### Host writes, rings and interrupts (chapter 10) -/

def hostWrite (s : State) (fn addr : Nat) (data : List Byte) : State :=
  modHost s (fun h => { h with writes := h.writes ++ [⟨fn, addr, data⟩] })

/-- R320: the message of an unmasked vector, or the pending bit of a masked one. -/
def sendVec (s : State) (fn v : Nat) : State :=
  let r := getFn s fn
  if r.msixOpen.getLsbD v then
    hostWrite s fn (SGet 0 r.msixAddr v).toNat (leBytes 4 (SGet 0 r.msixData v).toNat)
  else modFn s fn (fun r => { r with pba := r.pba ||| (1#64 <<< v) })

/-- R294, R319: a bit of ERRSTAT is set; vector 0 fires when it becomes set. -/
def setErr (s : State) (fn b : Nat) : State :=
  let r := getFn s fn
  if r.errstat.getLsbD b then s
  else sendVec (modFn s fn (fun r => { r with errstat := r.errstat ||| (1#64 <<< b) })) fn 0

/-- R294: ERRSTAT.MBCH takes the channel of the latest event. -/
def setErrCh (s : State) (fn b ch : Nat) : State :=
  setErr (modFn s fn (fun r => { r with
    errstat := BitVec.ofNat 64 (putBits r.errstat.toNat 16 8 ch) })) fn b

def RingKind.size : RingKind → Nat
  | .sub => 64 | .comp => 16 | .stream => 16 | .record => 256 | .seal => 512 | .sample => 32

def Ring.slots (r : Ring) : Nat := 2 ^ r.lg

/-- R303: room for one entry that the module writes, apart from slots reserved. -/
def Ring.room (r : Ring) : Bool := decide ((r.cnt - r.idx).toNat < r.slots)

/-- R302: PHASE of the next entry. -/
def Ring.phase (r : Ring) : Bool := r.cnt.toNat / r.slots % 2 == 0

def findRing (s : State) (k : RingKind) (fn id : Nat) : Option Ring :=
  s.host.rings.find? (fun r => r.kind == k && r.fn == fn && r.id == id)

def modRing (s : State) (k : RingKind) (fn id : Nat) (f : Ring → Ring) : State :=
  modHost s (fun h => { h with
    rings := updateWhere (fun r => r.kind == k && r.fn == fn && r.id == id) f h.rings })

/-- R319: an entry was written to a ring with a vector. -/
def signalRing (s : State) (k : RingKind) (fn id : Nat) : State :=
  match findRing s k fn id with
  | none => s
  | some r =>
    if r.vec = 0 then s
    else
      let im := (getFn s fn).imod.toNat
      if r.unsig + 1 ≥ max (bits im 0 8) 1 ∨ bits im 16 16 = 0 then
        sendVec (modRing s k fn id (fun r => { r with unsig := 0 })) fn r.vec
      else modRing s k fn id (fun r => { r with
        unsig := r.unsig + 1, first := if r.unsig = 0 then s.tick else r.first })

/-- R302: one entry written to a ring: PHASE set in its last 8 bytes, which are a posted write of their own. -/
def ringWrite (s : State) (k : RingKind) (fn id : Nat) (entry : List Byte) : State :=
  match findRing s k fn id with
  | none => s
  | some r =>
    let n := k.size
    let b := if k = .record ∨ k = .seal then 0 else 63
    let tail := putBits (fld entry (n - 8) 8) b 1 (b2n r.phase)
    let a := r.base + n * (r.cnt.toNat % r.slots)
    let s := hostWrite (hostWrite s fn a (entry.take (n - 8))) fn (a + n - 8) (leBytes 8 tail)
    signalRing (modRing s k fn id (fun r => { r with cnt := r.cnt + 1 })) k fn id

/-! ### Commands and completions -/

/-- A completion falls due for a descriptor. -/
def dueComp (s : State) (c : Comp) : State := modHost s (fun h => { h with comps := h.comps ++ [c] })

def compOf (d : Desc) (status : Nat) : Comp :=
  { fn := d.fn, sq := d.sq, seq := d.seq, cid := fld d.raw 2 2, status := status }

/-- The descriptor leaves the hand-over queue. -/
def dropDesc (s : State) (d : Desc) : State :=
  modHost s (fun h => { h with handed := dropFirst (· == d) h.handed })

/-- A command starts to run. -/
def startCmd (s : State) (d : Desc) (ph : CmdPhase) : State :=
  modHost s (fun h => { h with cmds := h.cmds ++ [{ id := h.nextId, d := d, ph := ph }], nextId := h.nextId + 1 })

def findCmd (s : State) (id : Nat) : Option Cmd := s.host.cmds.find? (fun c => c.id == id)

def modCmd (s : State) (id : Nat) (f : Cmd → Cmd) : State :=
  modHost s (fun h => { h with cmds := updateWhere (fun c => c.id == id) f h.cmds })

/-- A command ends: its reads are dropped and its completion falls due. -/
def endCmd (s : State) (id : Nat) (mk : Comp → Comp) : State :=
  match findCmd s id with
  | none => s
  | some c =>
    let t := modHost s (fun h => { h with cmds := dropFirst (fun c => c.id == id) h.cmds })
    if c.d.silent then t else dueComp t (mk (compOf c.d 0))

/-- R313: the 32 bytes of a loader report. -/
def reportBytes (r : Report) : List Byte :=
  leBytes 2 r.status ++ leBytes 2 r.variant ++ leBytes 4 r.layer ++ leBytes 4 r.problem ++ leBytes 4 r.cell ++ leBytes 4 r.pair ++
    leBytes 4 r.need ++ leBytes 4 r.room

/-- R313: a command that applies loader checks writes its report before it completes. -/
def writeReport (s : State) (d : Desc) (addr : Nat) (r : Report) : State :=
  if addr = 0 then s else hostWrite s d.fn addr (reportBytes r)

/-- R311, R313: where REPORT stands in a descriptor whose command applies loader checks. -/
def reportAt (d : Desc) : Nat :=
  let o := fld d.raw 0 1
  if o = 0x13 ∨ o = 0x21 then fld d.raw 0x18 8 else if o = 0x20 then fld d.raw 0x28 8 else 0

/-- A command ends with a status; one that applies loader checks has its report written first (R313). -/
def endCmdSt (s : State) (id status : Nat) : State :=
  match findCmd s id with
  | none => s
  | some k => endCmd (if k.d.silent then s else writeReport s k.d (reportAt k.d) { status := status }) id
      (fun c => { c with status := status })

/-- A command ends with nothing written (R297). -/
def killCmd (s : State) (id : Nat) : State :=
  modHost s (fun h => { h with cmds := h.cmds.filter (fun c => c.id != id) })

/-! ### Reports of errors (chapter 12) -/

/-- R363: an entry of the fault log; the latest 4,096 are kept. -/
def logFault (s : State) (e : FaultEnt) : State :=
  modPew s (fun w => { w with
    faultLog := (SSet none w.faultLog w.faultNext (some e)).filter (fun x => decide (w.faultNext < x.1 + 4096))
    faultNext := w.faultNext + 1 })

/-- R363: transients of a unit in the 24 h ending now, on the standby time base. -/
def transientsOf (s : State) (u n : Nat) : Nat :=
  (s.pew.transients.filter (fun t => t.1 == u && t.2.1 == n && decide (s.sbTick < t.2.2 + 8640000000000))).length

def faultEnt (s : State) (u src n : Nat) (part : Option Nat) (outcome addr : Nat) : FaultEnt :=
  { tick := s.tick, csn := match part with | some p => (getPart s p).cw | none => 0
    utype := u, source := src, unit := n
    part := match part with | some p => p | none => 128
    outcome := outcome, count := transientsOf s u n + 1, addr := addr }

/-- R360, R363: an error is charged to a unit and waits for its recovery (R364). -/
def reportError (s : State) (u src n addr : Nat) : State :=
  let part := partOfUnit s u n
  let t := logFault s (faultEnt s u src n part 0 addr)
  modEng t (fun e => { e with reports := e.reports ++ [⟨s.tick, u, src, n, part, addr, s.pew.faultNext⟩] })

/-- R290: an error ends a request at the next commit; the earliest report decides, then R288's order. -/
def failReq (s : State) (r rank status : Nat) : State :=
  modRte s r (fun q => match q.err with
    | none => { q with err := some ⟨s.tick, rank, status⟩ }
    | some e =>
      if s.tick < e.tick ∨ (s.tick = e.tick ∧ rank < e.rank) then { q with err := some ⟨s.tick, rank, status⟩ } else q)

/-- R215, R224: the valid dynamic block, and a write of the other one. -/
def validDyn (cw : Nat) (q : Rte) : Dyn :=
  if q.dyn1.csn ≤ cw ∧ (q.dyn0.csn < q.dyn1.csn ∨ cw < q.dyn0.csn) then q.dyn1 else q.dyn0

def writeDyn (cw : Nat) (q : Rte) (d : Dyn) : Rte :=
  if q.dyn1.csn ≤ cw ∧ (q.dyn0.csn < q.dyn1.csn ∨ cw < q.dyn0.csn) then { q with dyn0 := d } else { q with dyn1 := d }

def dynOf (s : State) (q : Rte) : Dyn := validDyn (getPart s q.part).cw q

/-- The requests of a partition outside FREE, ascending. DESIGN CHOICE: log entry 43. -/
def reqsOf (s : State) (p : Nat) : List (Nat × Rte) :=
  s.rtes.filterMap (fun e => match e.2 with
    | some q => if q.part = p ∧ (dynOf s q).state ≠ .free then some (e.1, q) else none
    | none => none)

/-- R315: the states of a partition. -/
inductive PState where
  | absent | empty | selecting | idle | busy | faulted
  deriving DecidableEq, Repr

/-- R315: some request is outside FREE, or some REQUEST_OPEN awaits its decision. -/
def partBusy (s : State) (p : Nat) : Bool :=
  !(reqsOf s p).isEmpty || s.host.cmds.any (fun c => c.d.fn == p + 1 && fld c.d.raw 0 1 == 0x10)

def pstate (s : State) (p : Nat) : PState :=
  match (getPart s p).phase with
  | .absent => .absent
  | .empty => .empty
  | .selecting => .selecting
  | .faulted => .faulted
  | .selected => if partBusy s p then .busy else .idle

/-! ### The Tin path (chapter 5) -/

/-- R181: a message enters the network. -/
def tinSend (s : State) (m : Tin) : State := modEng s (fun e => { e with tin := e.tin ++ [m] })

/-- R185: the oldest message under way between two endpoints that satisfies `p` for its type. -/
def tinHead (s : State) (src dst : Nat) (p : Nat → Bool) : Option Tin :=
  s.eng.tin.find? (fun m => m.src == src && m.dst == dst && p m.typ)

/-- R182: responses travel on the response channel. -/
def tinRsp (t : Nat) : Bool := t == 0x03 || t == 0x07 || t == 0x0A

/-- R185: the oldest request, or response, under way between two endpoints. DEDUCED: log entry 33. -/
def tinFront (s : State) (rsp : Bool) (src dst : Nat) : Option Tin := tinHead s src dst (fun t => tinRsp t == rsp)

/-- A message leaves the network; its Cobalt sender's TXBUF is free again (R188): when BUSY falls the rule does not say.
DESIGN CHOICE: log entry 50. -/
def tinDrop (s : State) (m : Tin) : State :=
  let s := modEng s (fun e => { e with tin := dropFirst (· == m) e.tin })
  if 0x1000 ≤ m.src ∧ m.src < 0x1040 then modCob s (m.src - 0x1000) (fun c => { c with busy := false }) else s

/-- R148, R180: a sector's Cobalt endpoint. -/
def cobEp (sector : Nat) : Nat := 0x1000 + sector

/-- R182: a notice of a core to its sector's Cobalt core. -/
def notice (s : State) (core kind engine : Nat) : State :=
  tinSend s { dst := cobEp (core / 64), src := core, typ := 0x04, part := (partOfSector s (core / 64)).getD 0
              arg := kind + 2 ^ 8 * engine + 2 ^ 32 * (s.tick % 2 ^ 32) }

/-- R187: a message fails its CRC: it is discarded and an error of the sender reported. -/
def tinBad (s : State) (m : Tin) : State :=
  let s := tinDrop s m
  if m.src < 4096 then reportError s utCore 0x06 m.src 0
  else if m.src < 0x1040 then reportError s utCobalt 0x06 (m.src - 0x1000) 0
  else reportError s utHub 0x06
    (if m.src = 0x1100 then 0 else if m.src = 0x1101 then 1 else if m.src = 0x1103 then 3 else 4) 0

end Sys2Proof.Machine
end

