-- ==== Sys2Proof/Machine/Records.lean ====
section
/-! DEFINITION. Treatment records, chains and epochs (R240–R242), and the move of a request to CLOSING. -/

namespace Sys2Proof.Machine

/-- R284: figures of a model image's header. -/
structure Hdr where
  ncfg : Nat
  mode : Nat
  nlayer : Nat
  dim : Nat
  rfmt : Nat
  hfmt : Nat
  kvtok : Nat
  v : Nat
  ctxmax : Nat
  nplane : Nat
  expOff : Nat
  deriving DecidableEq, Repr

def hdrOf (s : State) (sl : Slot) : Hdr :=
  let h := imgGet s sl 0 0x80
  ⟨fld h 6 2, fld h 0x10 4, fld h 0x14 2, fld h 0x16 2, fld h 0x18 1, fld h 0x19 1, fld h 0x1A 2, fld h 0x1C 4,
    fld h 0x20 4, fld h 0x24 2, fld h 0x30 8⟩

/-- R284: OFF, LEN and ROLE of a configuration image entry. -/
def cfgEnt (s : State) (sl : Slot) (i : Nat) : Nat × Nat × Nat :=
  let e := imgGet s sl (0x80 + 32 * i) 32
  (fld e 0 8, fld e 8 8, fld e 16 1)

/-- R285: the configuration digest. -/
def cfgDigest (s : State) (sl : Slot) : List Byte :=
  sha512 ((List.range (hdrOf s sl).ncfg).flatMap (fun i =>
    let e := cfgEnt s sl i
    sha512 (imgGet s sl e.1 e.2.1)))

/-- R240: the treatment record of a request that goes to CLOSING. -/
def buildRecord (s : State) (q : Rte) : List Byte :=
  let P := getPart s q.part
  let d := dynOf s q
  let sl := getSlot s q.part q.model
  let dg := fun (f : Slot → List Byte) => match sl with | some x => (f x).take 16 | none => zeros 16
  let steer := if q.steer = 0xFFFF then zeros 16 else match SGet none P.steers q.steer with
    | some t => t.digest.take 16
    | none => zeros 16
  let ids := match q.ids with
    | some ids => ids.flatMap (leBytes 4)
    | none => if gSpace q.prompt = 0 then memGet s (gOff q.prompt) (4 * q.nprompt)
      else Config.promptBytes q.fn q.prompt (4 * q.nprompt)
  let io := (sha512 (leBytes 4 q.nprompt ++ ids ++ q.toks.flatMap (leBytes 4))).take 16
  [1#8, BitVec.ofNat 8 d.stop, d.flg.setWidth 8, 0#8] ++ leBytes 4 (P.serving.getD 0) ++ leBytes 8 P.seqno ++
    leBytes 8 q.seed ++ leBytes 4 q.nprompt ++ leBytes 4 d.ngen ++ leBytes 8 q.hosttag ++ leBytes 8 P.ctick ++
    dg (·.digest) ++ dg (cfgDigest s) ++ steer ++ (sha512 q.samp).take 16 ++ (s.sec.bm.take 16) ++
    (if P.seqno = 0 then zeros 32 else P.head.take 32) ++ (sha512 (q.stopset ++ leBytes 4 q.limit)).take 16 ++ io

/-- R242: an epoch ends with a reason; a final one ends the chain (R422). -/
def endEpoch (s : State) (p reason : Nat) : State :=
  modPart s p (fun P =>
    if P.chainOver then P
    else { P with
      ended := P.ended ++ [⟨P.epochN, reason, s.tick, P.epoch, P.seqno - P.epochN, P.head, P.epochAt⟩]
      epoch := P.epoch + 1, epochN := 0, epochAt := s.tick, chainOver := decide (3 ≤ reason) })

/-- R241: the record of a request in CLOSING is folded into the chain and waits for the record ring. -/
def appendRecord (s : State) (r : Nat) : State :=
  match getRte s r with
  | none => s
  | some q =>
    if q.appended ∨ (getPart s q.part).chainOver then s
    else
      let b := buildRecord s q
      let s := modRte s r (fun q => { q with appended := true })
      let s := modPart s q.part (fun P => { P with
        head := sha512 b, seqno := P.seqno + 1, epochN := P.epochN + 1, held := P.held ++ [(b, some r)] })
      if (getPart s q.part).epochN = 65536 then endEpoch s q.part 2 else s

/-- R215: the dynamic block that the commit `csn` has written already, else the valid one before it. -/
def dynAt (csn : Nat) (q : Rte) : Dyn :=
  if q.dyn0.csn = csn then q.dyn0 else if q.dyn1.csn = csn then q.dyn1 else validDyn (csn - 1) q

/-- R211: a request moves to CLOSING at a commit whose sequence number is `csn`, with a stop reason and a status; what the
same commit wrote of it stands (R226, R231). -/
def closeReq (s : State) (csn r stop status : Nat) : State :=
  modRte s r (fun q =>
    let d := dynAt csn q
    writeDyn (csn - 1) { q with status := status, err := none } { d with csn := csn, state := .closing, stop := stop })

/-- R211, R231: the request becomes FREE: its entry, area and pages are returned, what is still read for it is
forgotten, and the completions of its cancellations may be written. -/
def freeReq (s : State) (r : Nat) : State :=
  modHost (setRte s r none) (fun h => { h with
    comps := updateWhere (fun c => c.cancel == some r) (fun c => { c with cancel := none }) h.comps
    reads := h.reads.filter (fun x => x.use != .prompt r) })

end Sys2Proof.Machine
end

