-- ==== Sys2Proof/Machine/Engine.lean ====
section
/-! DEFINITION. Operations on whole engines: aborting stream and vector programs, clearing sectors, tearing down contexts,
discarding intervals, program faults (chapters 3, 4, 5 and 12). -/

namespace Sys2Proof.Machine

/-- R150: an interrupt source of a Cobalt core becomes pending. -/
def raiseInt (s : State) (sector src : Nat) : State :=
  modCob s sector (fun c => { c with pend := c.pend ||| (1#4 <<< src) })

/-- R172: ABORT of a stream engine: it issues nothing more, incomplete transfers signal nothing, and it is ABORTED when
no read is outstanding. -/
def seAbort (e : SE) : SE :=
  let out := e.xfers.filter (fun x => x.out != 0)
  match e.state with
  | .running | .waiting => { e with xfers := out, state := if out.isEmpty then .aborted else .aborting, pendingStart := false }
  | _ => { e with pendingStart := false }

/-- R171, R184: a stream engine stops with a cause: it drops every transfer it has not completed, the ones before the failed one
too, sends no signal any more, and an SFAULT notice goes out. DESIGN CHOICE: log entry 50. -/
def seStop (s : State) (n e cause : Nat) : State :=
  notice (modSE s n e (fun v => { v with state := .fault, cause := cause, xfers := [] })) n 0x06 e

def SEState.live : SEState → Bool
  | .running => true
  | .waiting => true
  | .aborting => true
  | _ => false

/-- R154: a program starts. -/
def seStart (s : State) (n e : Nat) : State :=
  let ev := (getCore s n).ev
  modSE s n e (fun v => if v.state.live then v else { v with
    pc := 0, m := 0, s := 0, y := 0, x := 0, ylim := 0, xlim := 0, levels := [], opens := [], g := ev
    state := .running, cause := 0, xfers := [], lastProg := s.tick, watched := false, atEnd := false, pendingStart := false })

/-- R172: STARTs received during a hold take effect at release. -/
def seRelease (s : State) (n : Nat) : State :=
  if coreHeld s n then s
  else (List.range 4).foldl (fun s e => if (getSE s n e).pendingStart then seStart s n e else s) s

/-- R172: a sector is no longer held. -/
def releaseSector (s : State) (n : Nat) : State := (List.range 64).foldl (fun s i => seRelease s (64 * n + i)) s

/-- R139: the vector program stops where it stands. -/
def vecAbort (c : Core) : Core := { c with busy := false, abortV := false, vwait := none }

/-- Programs of a core aborted (R359, R364). -/
def coreAbort (c : Core) : Core := { vecAbort c with se := c.se.map (fun e => (e.1, seAbort e.2)), held := false }

/-- R112: a cell without its items; the configuration record stays. -/
def cellClear (c : Cell) : Cell := { w0 := c.w0, w1 := c.w1, w2 := c.w2, w3 := c.w3, w4 := c.w4 }

/-- Items that wait in a cell: in stages, latches and units (R103, R104). -/
def cellItems (c : Cell) : Nat :=
  (c.outs.map (fun o => min o.2.length 2)).sum + c.latch.length + c.delay.length +
    b2n c.fu.isSome + b2n c.st0.isSome + b2n c.st1.isSome + b2n c.macWait.isSome

/-- R91: flags still held in a cell's units: in latches, accumulators, the DELAY buffer and output stages. -/
def cellFlags (c : Cell) : Flg :=
  let held := c.latch.filterMap (·.2) ++ c.delay ++ c.macWait.toList ++ c.fu.toList ++ c.st0.toList ++ c.st1.toList
  held.foldl (fun f i => f ||| i.flg) (c.owed ||| c.mac.flg)

/-- The map with `f` applied to the entries whose key satisfies `p`, in canonical form. -/
def mapKeys {V : Type} [DecidableEq V] (d : V) (p : Nat → Bool) (f : V → V) (m : SMap V) : SMap V :=
  (m.map (fun e => if p e.1 then (e.1, f e.2) else e)).filter (fun e => decide (e.2 ≠ d))

def cellSector (k : Nat) : Nat := coreOfCell (k / 1024) (k % 1024) / 64

/-- R62, R91: flags that join the flag word of a context: a chunk's or a run's, or a step's of one request; those of a step of
several rows, which no row raised alone, join the serving context's own word at the commit. DESIGN CHOICE: log entry 49. -/
def ctxFlags (s : State) (p : Nat) (c : Ctx) (f : Flg) : State :=
  modPart s p (fun P => match c with
    | .chunk => { P with chunk := P.chunk.map (fun k => { k with flg := k.flg ||| f }) }
    | .step => match P.step with
      | some t => if t.rows.length = 1 then { P with step := some { t with rows := t.rows.map (fun r => { r with flg := r.flg ||| f }) } }
          else { P with step := some { t with flg := t.flg ||| f } }
      | none => { P with ctxFlg := P.ctxFlg ||| f }
    | .run id => { P with runs := updateWhere (fun r => r.cmd == id) (fun r => { r with flg := r.flg ||| f }) P.runs })

/-- R112: a sector cleared: every item discarded, flags held passed on, the port FIFOs emptied. -/
def clearSector (s : State) (n : Nat) : State :=
  let fl := s.eng.cells.foldl (fun f c => if cellSector c.1 = n then f ||| cellFlags c.2 else f) 0
  let s := match s.eng.places.find? (fun pl => pl.sectors.contains n) with
    | some pl => ctxFlags s pl.part pl.ctx fl
    | none => s
  modEng s (fun e => { e with
    cells := mapKeys {} (fun k => cellSector k == n) cellClear e.cells
    cores := mapKeys {} (fun k => k / 64 == n) (fun c => { c with fin := [], fout := [] }) e.cores })

/-- The placements that satisfy `p` cleared and removed. -/
def clearPlaces (s : State) (p : Placement → Bool) : State :=
  let gone := s.eng.places.filter p
  let s := gone.foldl (fun s pl => pl.sectors.foldl clearSector s) s
  modEng s (fun e => { e with places := e.places.filter (fun pl => !p pl), waits := e.waits.filter (fun pl => !p pl) })

/-- Stream and vector programs of a partition's sectors that satisfy `p` aborted. -/
def abortCores (s : State) (p : Nat → Bool) : State :=
  modEng s (fun e => { e with cores := mapKeys {} (fun k => p (k / 64)) coreAbort e.cores })

/-- R203: a counter freed; its held claims are answered NOCNT. -/
def freeCtr (s : State) (n : Nat) : State :=
  match getCtr s n with
  | none => s
  | some c =>
    c.waiting.foldl (fun s w => tinSend s { dst := w.2.1, src := 0x1104, typ := 0x07, part := c.part, tag := w.2.2, arg := 4 })
      (setCtr s n none)

/-- Counters of a partition that serve a context. -/
def freeCtrs (s : State) (p : Nat) (ok : Option Nat → Bool) : State :=
  (s.eng.ctrs.filter (fun e => match e.2 with | some c => c.part == p && ok c.run | none => false)).foldl
    (fun s e => freeCtr s e.1) s

/-- The sectors a context works on: its placements', or for a context without one every sector of the partition. -/
def ctxSectors (s : State) (p : Nat) (c : Ctx) : Nat → Bool := fun n =>
  let pls := s.eng.places.filter (fun pl => pl.part == p && pl.ctx == c)
  if pls.isEmpty then bit (getPart s p).sectors n &&
      !(s.eng.places.any (fun pl => pl.sectors.contains n))
  else pls.any (fun pl => pl.sectors.contains n)

/-- Layers of a partition no longer run (R194). -/
def dropLayers (s : State) (p : Nat) : State :=
  modEng s (fun e => { e with layers := e.layers.filter (fun l => l.part != p) })

/-- R359: the work of a context torn down: programs aborted, counters destroyed, placements cleared. -/
def tearDown (s : State) (p : Nat) (c : Ctx) : State :=
  let secs := ctxSectors s p c
  let s := abortCores s secs
  let mine := fun (r : Option Nat) => match c with | .run id => r == some id | _ => r.isNone
  let s := freeCtrs s p mine
  let s := modEng s (fun e => { e with layers := e.layers.filter (fun l => !(l.part == p && mine l.run)) })
  clearPlaces s (fun pl => pl.part == p && pl.ctx == c)

/-- R226, R372: a decode step as it stands at its start. -/
def stepAnew (t : Nat) (d : DStep) : DStep := { rows := d.rows.map (fun r => { rte := r.rte }), start := t, tries := d.tries }

/-- R372: a prefill chunk as it stands at its start. -/
def chunkAnew (t : Nat) (occ : SMap Occ) (k : Chunk) : Chunk := { rte := k.rte, first := k.first, count := k.count, start := t, ready := t, occ := occ, tries := k.tries }

/-- R250, R224: the valid occupancy record of an expert layer. -/
def validOcc (cw : Nat) (q : Rte) (x : Nat) : Occ :=
  let a := SGet Occ.empty q.occ0 x
  let b := SGet Occ.empty q.occ1 x
  if b.csn ≤ cw ∧ (a.csn < b.csn ∨ cw < a.csn) then b else a

/-- R266: a block of the system region of a partition. -/
def sysOff (P : Part) (i : Nat) : Nat := ((groupsOf P).headD 0) * 2 ^ 36 + 0xFBF000000 + 32 * i

/-- R373: the effects of a partition fault on the partition itself; its requests end with PARTITION_FAULT, at a commit unless a
PFW# hold has ended them (R248). -/
def faultPart (s : State) (p reason : Nat) : State :=
  let P := getPart s p
  if P.phase = .absent ∨ P.phase = .faulted then s
  else
    let s := clearPlaces (abortCores s (bit P.sectors)) (fun pl => pl.part == p)
    let s := dropLayers (freeCtrs s p (fun _ => true)) p
    let rs := reqsOf s p
    let ends := s.host.cmds.filter (fun c => c.d.fn == p + 1)
    let hand := s.host.handed.filter (fun d => d.fn == p + 1)
    let comps := (rs.filter (fun e => !e.2.appended)).map (fun e =>
        { fn := e.2.fn, sq := e.2.sq, seq := e.2.seq, cid := e.2.cid, status := 0x0601, stop := 7, req := some e.1 : Comp }) ++
      ends.map (fun c => compOf c.d 0x0601) ++ hand.map (fun d => compOf d 0x0601)
    let s := if s.power.pfwAt.isSome then s else modPart s p (fun P => { P with cw := P.cw + 1, ctick := s.tick })
    let open' := rs.filter (fun e => !e.2.appended)
    let s := open'.foldl (fun s e =>
      if (validDyn P.cw e.2).state = .closing then s else closeReq s (P.cw + 1) e.1 7 0x0601) s
    let s := if (List.range 32).any (fun i => memLost s (sysOff P i) 32) then s
      else open'.foldl (fun s e => appendRecord s e.1) s
    let s := modHost s (fun h => { h with
      comps := h.comps.filter (fun c => !(c.fn == p + 1 && c.req.isSome && rs.all (fun e => some e.1 != c.req))) ++ comps
      cmds := h.cmds.filter (fun c => c.d.fn != p + 1)
      handed := h.handed.filter (fun d => d.fn != p + 1)
      reads := h.reads.filter (fun r => r.fn != p + 1 || (match r.use with | .line _ _ => true | .desc _ _ => true | _ => false)) })
    endEpoch (modPart s p (fun P => { P with
      phase := .faulted, chunk := none, step := none, halves := [], hjobs := [], runs := [], chains := []
      selecting := none, serving := none, notices := [] })) p reason

/-- Work in progress of a partition. -/
def partWorks (P : Part) : Bool := P.step.isSome || P.chunk.isSome || !P.runs.isEmpty

/-- R364, R372: the work of a partition since its last commit boundary is discarded and starts again from that
boundary; the fifth discard of one interval is a partition fault (R373). Without work there is no interval to count. -/
def discardInterval (s : State) (p : Nat) : State :=
  let P := getPart s p
  let s := clearPlaces (abortCores s (bit P.sectors)) (fun pl => pl.part == p)
  let s := dropLayers (freeCtrs s p (fun _ => true)) p
  let occ := match P.chunk.bind (fun k => getRte s k.rte) with
    | some q => (numbered 0 (List.replicate 256 ())).foldl (fun m x => SSet Occ.empty m x.1 (validOcc P.cw q x.1)) []
    | none => []
  let s := modPart s p (fun P => { P with
    step := P.step.map (stepAnew s.tick), chunk := P.chunk.map (chunkAnew s.tick occ)
    runs := P.runs.map (fun r => { r with flg := r.kept })
    notices := [], halves := [], discards := if partWorks P then P.discards + 1 else P.discards, began := s.tick })
  if partWorks P && decide (5 ≤ P.discards + 1) then faultPart s p 4 else s

/-- The context whose work a core does: its placement's, or the interval in progress. -/
def ctxOfCore (s : State) (n : Nat) : Option (Nat × Ctx) :=
  match s.eng.places.find? (fun pl => pl.sectors.contains (n / 64)) with
  | some pl => some (pl.part, pl.ctx)
  | none => (partOfSector s (n / 64)).map (fun p =>
      (p, if (getPart s p).step.isSome then .step
          else match (getPart s p).chunk, (getPart s p).runs with
            | none, r :: _ => .run r.cmd
            | _, _ => .chunk))

/-- R290: rank of a status among the rows of R288 (program faults share the row of addresses not permitted). -/
def rankOf (st : Nat) : Nat :=
  if st = 0x0401 then 4 else if st = 0x0402 then 5 else if st = 0x0602 then 7
  else if 0x0403 ≤ st ∧ st ≤ 0x0405 then 8 else if 0x0406 ≤ st ∧ st ≤ 0x0408 then 9 else 10

/-- R245, R313: the requests of a context, or its GRAPH_RUN, end with a status. -/
def failCtx (s : State) (p : Nat) (c : Ctx) (st : Nat) : State :=
  match c with
  | .chunk => match (getPart s p).chunk with
    | some k => failReq s k.rte (rankOf st) st
    | none => s
  | .step => match (getPart s p).step with
    | some t => t.rows.foldl (fun s r => failReq s r.rte (rankOf st) st) s
    | none => s
  | .run id =>
    let fl := ((getPart s p).runs.find? (fun r => r.cmd == id)).map (·.flg)
    let s := match findCmd s id with | some k => writeReport s k.d (reportAt k.d) { status := st } | none => s
    modPart (endCmd s id (fun k => { k with status := st, flg := (fl.getD 0).toNat })) p
      (fun P => { P with runs := P.runs.filter (fun r => r.cmd != id) })

/-- R362: no error of a unit that took part in the partition's work waits for its recovery. -/
def noReports (s : State) (p : Nat) : Bool := !s.eng.reports.any (fun r => r.part == some p)

/-- R359, R466: a program fault: logged, the work it belongs to torn down with the flags it held, its requests or its run ended.
While a unit error of the partition waits, the interval is to be replayed and nothing ends (R375).
DEDUCED: log entry 35. -/
def programFault (s : State) (p : Nat) (c : Ctx) (st u n : Nat) : State :=
  let s := logFault s (faultEnt s u 0x0F n (some p) 8 0)
  let s := tearDown (if noReports s p then failCtx s p c st else s) p c
  if c = .step then modPart s p (fun P => { P with step := P.step.map (fun t => { t with flg := 0 }) }) else s

/-- R359: the statuses of program faults. -/
def programStatus (st : Nat) : Bool := decide ((0x0201 ≤ st ∧ st ≤ 0x0205) ∨ st = 0x0409 ∨ st = 0x0108)

/-- R375: a unit error replays the interval, so a program fault of it ends a request only when it occurs again.
DEDUCED: log entry 35. -/
def forgetFaults (s : State) (p : Nat) : State :=
  modRtes s (fun m => (m.map (fun e => (e.1, e.2.map (fun q =>
    if q.part = p then { q with err := q.err.filter (fun x => !programStatus x.status) } else q)))).filter (fun e => decide (e.2 ≠ none)))

/-- R124, R136, R154: a program fault of a core's engine. The core's sector is told (R150). -/
def coreFault (s : State) (n st : Nat) : State :=
  let s := notice s n 0x03 0
  match ctxOfCore s n with
  | some (p, c) => programFault s p c st utCore n
  | none => modCore s n (fun c => { c with held := true })

end Sys2Proof.Machine
end

