-- ==== Sys2Proof/Machine/Images.lean ====
section
/-! DEFINITION. Runs of local memory, reading configuration images (R189, R190, R106) and what follows the loss of data in local memory (R288,
R289). -/

namespace Sys2Proof.Machine

/-- R286: a range of an image as runs of local memory, split at segment boundaries. -/
def imgRuns (sl : Slot) : Nat → Nat → Nat → List (Nat × Nat)
  | 0, _, _ => []
  | fuel + 1, o, n =>
    let k := min n (0x400000 - o % 0x400000)
    if n = 0 then [] else (imgOff sl o, k) :: imgRuns sl fuel (o + k) (n - k)

/-- The runs of local memory that a tier-1 address names; none for tier 2. -/
def localRuns (s : State) (p : Nat) (img : Option Nat) (a n : Nat) : Option (List (Nat × Nat)) :=
  if gSpace a = 3 then (img.bind (getSlot s p)).map (fun sl => imgRuns sl (n / 0x400000 + 2) (gOff a) n)
  else (localOf s p img a).map (fun o => [(o, n)])

/-- A configuration image: part of the model image in a slot, or at a local offset. -/
structure CfgImg where
  part : Nat
  slot : Option Nat
  base : Nat
  len  : Nat
  deriving DecidableEq, Repr

/-- Bytes of a configuration image. -/
def ciGet (s : State) (c : CfgImg) (o n : Nat) : List Byte :=
  match c.slot with
  | none => memGet s (c.base + o) n
  | some k => match getSlot s c.part k with
    | some sl => imgGet s sl (c.base + o) n
    | none => zeros n

def ciFld (s : State) (c : CfgImg) (o n : Nat) : Nat := leNat (ciGet s c o n)

/-- The local offset of a byte of a configuration image. -/
def ciLocal (s : State) (c : CfgImg) (o : Nat) : Nat :=
  match c.slot.bind (getSlot s c.part) with
  | some sl => imgOff sl (c.base + o)
  | none => c.base + o

/-- R284: configuration image `i` of the model in a slot, with its ROLE. -/
def cfgImage (s : State) (p k i : Nat) : Option (CfgImg × Nat) :=
  match getSlot s p k with
  | none => none
  | some sl =>
    if i < (hdrOf s sl).ncfg then
      let e := cfgEnt s sl i
      some (⟨p, some k, e.1, e.2.1⟩, e.2.2)
    else none

/-- R312: the image that runs of a handle use. -/
def handleImage (s : State) (p h : Nat) : Option CfgImg :=
  match SGet none (getPart s p).images h with
  | some i => i.cur.map (fun a => ⟨p, none, a.1, a.2⟩)
  | none => none

/-- The image that a context runs: image `i` of the selected model for the serving context, or the run's own; with the
context and whether its role takes lent sectors too (R107). -/
def ctxImage (s : State) (p : Nat) (run : Option Nat) (i : Nat) : Option (CfgImg × Ctx × Bool) :=
  let P := getPart s p
  match run with
  | some id => (P.runs.find? (fun r => r.cmd == id)).bind (fun r => (handleImage s p r.handle).map (fun c => (c, .run id, true)))
  | none => (P.sel.bind (fun k => cfgImage s p k i)).bind (fun x =>
      if x.2 = 1 then (if P.chunk.isSome then some (x.1, .chunk, false) else none)
      else if x.2 = 2 then (if P.step.isSome then some (x.1, .step, true) else none)
      else if P.chunk.isSome then some (x.1, .chunk, false)
      else if P.step.isSome then some (x.1, .step, false) else none)

/-- R190: figures of the layer section. -/
def layerOff (s : State) (c : CfgImg) : Nat := ciFld s c 0x18 8
def nLayers (s : State) (c : CfgImg) : Nat := ciFld s c (layerOff s c + 6) 2
def nArrays (s : State) (c : CfgImg) : Nat := ciFld s c (layerOff s c + 8) 4
def arrayOff (s : State) (c : CfgImg) (i : Nat) : Nat := ciFld s c (ciFld s c (layerOff s c + 0x10) 8 + 8 * i) 8

/-- R191: the bytes of a layer descriptor. -/
def layerDesc (s : State) (c : CfgImg) (l : Nat) : List Byte := ciGet s c (layerOff s c + 0x40 + 128 * l) 128

/-- R106: a variant descriptor. -/
def varDesc (s : State) (c : CfgImg) (a v : Nat) : List Byte := ciGet s c (a + 0x40 + 32 * v) 32

/-- What a local offset of a partition holds (R288). -/
inductive Data where
  | sys
  | segment (slot seg : Nat)
  | steering (index : Nat)
  | kv (rte : Nat)
  /-- KV of a position of the request that no commit covers yet. -/
  | fresh (rte : Nat)
  | work
  deriving DecidableEq, Repr

/-- The segment of a partition's images that holds a local offset. -/
def segmentAt (P : Part) (off : Nat) : Option (Nat × Nat) :=
  P.slots.findSome? (fun e => e.2.bind (fun sl =>
    (firstIdx (fun o => decide (o ≤ off ∧ off < o + 0x400000)) sl.segs).map (fun i => (e.1, i))))

/-- R266: the offset lies in the system region of the group, or in its copy. -/
def inSystem (P : Part) (off : Nat) : Bool :=
  (groupsOf P).head? == some (off / 2 ^ 36) &&
    (decide (0xFBF000000 ≤ off % 2 ^ 36 ∧ off % 2 ^ 36 ≤ 0xFFEFFFFFF) ||
     decide (0x7BF000000 ≤ off % 2 ^ 36 ∧ off % 2 ^ 36 ≤ 0x7FEFFFFFF))

/-- R217, R288: a commit covers the KV position that byte `off` of page-table entry `i` of a request belongs to. -/
def kvCommitted (s : State) (p : Nat) (q : Rte) (i off : Nat) : Bool :=
  match selSlot s p with
  | none => true
  | some sl =>
    let h := hdrOf s sl
    let d := dynOf s q
    decide (i / h.nplane * h.kvtok + off % 65536 / (65536 / h.kvtok) < max d.prefilled (q.nprompt - 1 + d.ngen))

def dataAt (s : State) (p off : Nat) : Data :=
  let P := getPart s p
  if inSystem P off then .sys
  else match segmentAt P off with
    | some x => .segment x.1 x.2
    | none =>
      match P.steers.find? (fun e => match e.2 with
          | some t => decide (t.off ≤ off ∧ off < t.off + t.bytes.length) | none => false) with
      | some e => .steering e.1
      | none =>
        match s.rtes.findSome? (fun e => e.2.bind (fun q => if q.part = p then
            (q.pt.find? (fun x => x.2 == off / 65536 + 1)).map (fun x => (e.1, kvCommitted s p q x.1 off)) else none)) with
        | some (r, c) => if c then .kv r else .fresh r
        | none => .work

/-- The requests of a context. -/
def ctxReqs (s : State) (p : Nat) (c : Ctx) : List Nat :=
  match c with
  | .chunk => ((getPart s p).chunk.map (fun k => k.rte)).toList
  | .step => match (getPart s p).step with | some t => t.rows.map (·.rte) | none => []
  | .run _ => []

/-- R288: the requests of a context, or its run, end with a status of a given rank. -/
def failCtxAt (s : State) (p : Nat) (c : Ctx) (rank st : Nat) : State :=
  match c with
  | .run _ => tearDown (failCtx s p c st) p c
  | _ => (ctxReqs s p c).foldl (fun s r => failReq s r rank st) s

/-- R364, R372, R373: the work of one context since its last commit boundary is discarded, a run's flags of it too (R62). -/
def discardCtx (s : State) (p : Nat) (c : Ctx) : State :=
  match c with
  | .run id =>
    let s := modPart (tearDown s p c) p (fun P => { P with
      runs := updateWhere (fun r => r.cmd == id) (fun r => { r with flg := r.kept }) P.runs, discards := P.discards + 1 })
    if 5 ≤ (getPart s p).discards then faultPart s p 4 else s
  | _ => discardInterval s p

/-- R288, R289: what follows an uncorrectable error in data that a context reads. -/
def dataLoss (s : State) (p : Nat) (c : Ctx) (off : Nat) : State :=
  match dataAt s p off with
  | .sys => faultPart s p 4
  | .segment k i =>
    let s := modPart s p (fun P => { P with slots := SSet none P.slots k ((SGet none P.slots k).map
      (fun sl => { sl with damaged := if sl.damaged.contains i then sl.damaged else sl.damaged ++ [i] })) })
    failCtxAt s p c 5 0x0402
  | .steering i =>
    let s := modPart s p (fun P => { P with steers := SSet none P.steers i ((SGet none P.steers i).map
      (fun t => { t with damaged := true })) })
    (ctxReqs s p c).foldl (fun s r => match getRte s r with
      | some q => if q.steer = i then failReq s r 6 0x0401 else s
      | none => s) s
  | .kv r => failReq s r 4 0x0401
  | .fresh r =>
    if (getPart s p).failed.contains (off / 32) then failReq s r 1 0x0401
    else discardCtx (modPart s p (fun P => { P with failed := P.failed ++ [off / 32] })) p c
  | .work =>
    if (getPart s p).failed.contains (off / 32) then failCtxAt s p c 1 0x0401
    else discardCtx (modPart s p (fun P => { P with failed := P.failed ++ [off / 32] })) p c

/-- The context that reads a partition's memory now. -/
def readingCtx (P : Part) : Option Ctx :=
  if P.step.isSome then some .step else if P.chunk.isSome then some .chunk else P.runs.head?.map (fun r => .run r.cmd)

/-- R288: the data consequences of an uncorrectable block that was read. -/
def lostData (s : State) (off : Nat) : State :=
  match partOfGroup s (off / 2 ^ 36) with
  | none => s
  | some p => match dataAt s p off, readingCtx (getPart s p) with
    | .sys, _ => faultPart s p 4
    | _, some c => dataLoss s p c off
    | _, none => s

/-- R178: an uncorrectable error in a line of a slice: a clean line is invalid; a dirty one is a memory error at the line's
address, charged to the slice, and with `tell` its loss has the consequences of R288 at once. -/
def lineMet (s : State) (tell : Bool) (off : Nat) : State :=
  let o := 128 * (off / 128)
  match wayOf s.mem o with
  | none => s
  | some w =>
    let dirty := ((SGet none s.mem.lines (16 * setKey o + w)).map (·.dirty)).getD false
    let s := modMem s (fun m => putLine m o w none)
    if dirty then
      let s := (List.range 4).foldl (fun s i => markLost s (o + 32 * i) true) (reportError s utSlice 0x09 (o / 2 ^ 36) o)
      if tell then lostData s o else s
    else s

end Sys2Proof.Machine
end

