-- ==== Sys2Proof/Machine/Array.lean ====
section
/-! DEFINITION. The Tungsten array (chapter 3): transfers on lanes, firings of function and steering units, placing and loading
configurations, the progress monitor. Sides are numbered N 0, E 1, S 2, W 3. -/

namespace Sys2Proof.Machine

def ones (n x : Nat) : Nat := ((List.range n).filter (bit x)).length

/-- R77: an item on the wires, its parity bit included. -/
def itemWord (i : Item) : Nat :=
  let w := i.pay % 2 ^ 32 + 2 ^ 32 * (i.kind % 4) + 2 ^ 34 * i.flg.toNat
  w + 2 ^ 38 * (ones 38 w % 2)

def wordItem (w : Nat) : Item := ⟨BitVec.ofNat 4 (bits w 34 4), bits w 32 2, bits w 0 32⟩

/-- R96: PORT of a side, and the source of a side's outbound lane. -/
def Cell.port (c : Cell) (d : Nat) : Nat := bits c.w0 (12 + 2 * d) 2
def Cell.op (c : Cell) : Nat := bits c.w1 0 3
def Cell.skind (c : Cell) : Nat := bits c.w4 0 3

/-- R97: the selector of a consumer: 0 to 3 the outbound lanes, 4 A, 5 B, 6 C, 7 D, 8 D2, 9 K. -/
def Cell.sel (c : Cell) (k : Nat) : Nat :=
  if k < 4 then bits c.w0 (3 * k) 3
  else if k = 4 then bits c.w1 6 3
  else if k = 5 then bits c.w1 9 3
  else if k = 6 then bits c.w1 12 3
  else if k = 7 then bits c.w4 3 3
  else if k = 8 then bits c.w4 6 3
  else bits c.w4 9 3

/-- R81: the consumers of a source. -/
def Cell.consumers (c : Cell) (src : Nat) : List Nat := (List.range 10).filter (fun k => c.sel k == src)

/-- The cell on the other end of a neighbour link. -/
def neighbour (row col d : Nat) : Option (Nat × Nat) :=
  if d = 0 then (if row = 0 then none else some (row - 1, col))
  else if d = 1 then (if col = 1023 then none else some (row, col + 1))
  else if d = 2 then (if row = 1023 then none else some (row + 1, col))
  else (if col = 0 then none else some (row, col - 1))

/-- R159: the port FIFO of a boundary cell's side. -/
def portLane (row col d : Nat) : Nat := 16 * d + (if d % 2 = 0 then col % 16 else row % 16)

/-- R87: the link of a side crosses two dies. -/
def crossesDie (row col d : Nat) : Bool :=
  (d == 0 && row == 512) || (d == 2 && row == 511) || (d == 1 && col == 511) || (d == 3 && col == 512)

/-- R85: an outbound lane whose source is an output of the cell's own units. -/
def unitSourced (c : Cell) (d : Nat) : Bool := decide (5 ≤ c.sel d ∧ c.sel d ≤ 7)

/-- R85, R87: items an outbound lane holds: two pass-through stages where a route crosses the cell, none where the route starts
at a unit's output stage; on a die crossing two FIFOs of 16, which a lane led to a stream engine does not pass.
DEDUCED: log entry 32. -/
def laneCap (row col : Nat) (c : Cell) (d : Nat) : Nat :=
  (if unitSourced c d then 0 else 2) + (if crossesDie row col d && !bit (c.port d) 1 then 32 else 0)

/-- The output stage of a unit: 5 function unit, 6 and 7 steering outputs. -/
def unitOut (c : Cell) (src : Nat) : Option Item := if src = 5 then c.fu else if src = 6 then c.st0 else c.st1

/-- The item at the far end of an outbound lane; a lane without stages offers its unit's output until the far end has taken it. -/
def laneHead (row col : Nat) (c : Cell) (d : Nat) : Option Item :=
  if laneCap row col c d = 0 then (if bit (SGet 0 c.taken (c.sel d)) d then none else unitOut c (c.sel d))
  else (SGet [] c.outs d).head?

def placeOfCell (s : State) (row col : Nat) : Option Placement :=
  s.eng.places.find? (fun pl => pl.sectors.contains (coreOfCell row col / 64))

/-- R108: no item enters a placed footprint from a cell outside it. -/
def sameFootprint (s : State) (row col row' col' : Nat) : Bool :=
  (placeOfCell s row col).map (·.id) == (placeOfCell s row' col').map (·.id)

/-- The item a source now offers to the consumers of a cell. -/
def offered (s : State) (row col src : Nat) : Option Item :=
  let c := getCell s row col
  if src = 0 then none
  else if src ≤ 4 then
    let d := src - 1
    if bit (c.port d) 0 then (SGet [] (getCore s (coreOfCell row col)).fin (portLane row col d)).head?
    else match neighbour row col d with
      | none => none
      | some n =>
        let nb := getCell s n.1 n.2
        if bit (nb.port ((d + 2) % 4)) 1 || !sameFootprint s row col n.1 n.2 || coreHeld s (coreOfCell n.1 n.2) then none
        else laneHead n.1 n.2 nb ((d + 2) % 4)
  else if src < 8 then unitOut c src
  else if src < 12 then (if bit (c.port (src - 8)) 1 then laneHead row col c (src - 8) else none)
  else none

/-- The consumer can latch an item. -/
def hasRoom (row col : Nat) (c : Cell) (k : Nat) : Bool :=
  if k < 4 then decide ((SGet [] c.outs k).length < laneCap row col c k) else (SGet none c.latch k).isNone

/-- R81, R90: a unit's output stage freed. -/
def freeUnit (s : State) (row col src : Nat) : State :=
  let c := getCell s row col
  if src = 5 then setCell s row col { c with fu := c.macWait, macWait := none }
  else if src = 6 then setCell s row col { c with st0 := none }
  else setCell s row col { c with st1 := none }

/-- A consumer of a source has latched its item; `free` follows the last. -/
def noteWith (free : State → State) (s : State) (row col src k : Nat) : State :=
  let c := getCell s row col
  let m := SGet 0 c.taken src + 2 ^ k
  if (c.consumers src).all (bit m) then free (setCell s row col { c with taken := SSet 0 c.taken src 0 })
  else setCell s row col { c with taken := SSet 0 c.taken src m }

/-- The far end of an outbound lane has taken its item. -/
def takeLane (s : State) (row col d : Nat) : State :=
  let c := getCell s row col
  if laneCap row col c d = 0 then noteWith (fun s => freeUnit s row col (c.sel d)) s row col (c.sel d) d
  else setCell s row col { c with outs := SSet [] c.outs d ((SGet [] c.outs d).drop 1) }

/-- R81: a source's stage freed once every consumer has latched its item. -/
def freeSource (s : State) (row col src : Nat) : State :=
  let c := getCell s row col
  if src ≤ 4 then
    let d := src - 1
    if bit (c.port d) 0 then
      modCore s (coreOfCell row col) (fun k =>
        { k with fin := SSet [] k.fin (portLane row col d) ((SGet [] k.fin (portLane row col d)).drop 1) })
    else match neighbour row col d with
      | none => s
      | some n => takeLane s n.1 n.2 ((d + 2) % 4)
  else freeUnit s row col src

/-- R93: the input takes an item of the kind. -/
def kindTaken (c : Cell) (k kind : Nat) : Bool :=
  if k < 4 then true
  else if k = 4 then
    if c.op = 3 then true
    else kind == 0 || (kind == 2 && (c.op == 1 || c.op == 2) && bit c.w1 17)
  else if k = 5 then kind == 0 || (kind == 2 && bit c.w1 18)
  else if k = 6 then kind == 0
  else if k = 9 then kind == 1
  else kind == 0 || kind == 1

/-! ### Program faults of a configuration (R103 to R105) -/

/-- R104: a function unit holds one operand without its partner. -/
def waitF (c : Cell) : Bool :=
  let a := (SGet none c.latch 4).isSome
  let b := (SGet none c.latch 5).isSome
  let k := (SGet none c.latch 6).isSome
  let needC := !c.mac.begun && c.sel 6 != 0
  if c.op = 1 then (a || b || k) && !(a && b && (k || !needC))
  else if c.op = 2 then (a || k) && !(a && (k || !needC))
  else false

/-- R104: a steering unit holds an item without the rest of its firing rule. -/
def waitS (c : Cell) : Bool :=
  let d := (SGet none c.latch 7).isSome
  let d2 := (SGet none c.latch 8).isSome
  let k := SGet none c.latch 9
  if c.skind = 1 ∨ c.skind = 3 then d != k.isSome
  else if c.skind = 2 then match k with
    | some i => if bit i.pay 0 then !d2 else !d
    | none => d || d2
  else if c.skind = 4 then c.sel 9 != 0 && d != k.isSome
  else false

/-- R104: the record of one core of the footprint. -/
def coreRecord (s : State) (pl : Placement) (core : Nat) : List Byte :=
  let cs := s.eng.cells.filter (fun e => coreOfCell (e.1 / 1024) (e.1 % 1024) == core)
  let k := getCore s core
  let w := cs.find? (fun e => waitF e.2 || waitS e.2)
  let side := fun (m : SMap (List Item)) d => (List.range 16).any (fun i => !(SGet [] m (16 * d + i)).isEmpty)
  let portw := ((List.range 4).map (fun d => 2 ^ d * b2n (side k.fin d) + 2 ^ (d + 4) * b2n (side k.fout d))).sum
  leBytes 2 (cs.map (fun e => cellItems e.2)).sum ++ leBytes 2 (cs.filter (fun e => waitF e.2)).length ++
    leBytes 1 (min 255 (cs.filter (fun e => waitS e.2)).length) ++ leBytes 1 portw ++
    leBytes 2 (cs.filter (fun e => e.2.op == 3 && decide (e.2.delay.length + b2n e.2.fu.isSome ≥ 32))).length ++
    leBytes 4 (match w with
      | some e => 65536 * (e.1 / 1024 - 128 * pl.row) + (e.1 % 1024 - 128 * pl.col)
      | none => 0xFFFFFFFF) ++ zeros 4

/-- R104: the queue-depth snapshot. -/
def snapshot (s : State) (pl : Placement) (cause : Nat) : List Byte :=
  leBytes 8 s.tick ++ leBytes 2 pl.variant ++ leBytes 1 pl.row ++ leBytes 1 pl.col ++ leBytes 4 cause ++ zeros 16 ++
    pl.sectors.flatMap (fun n => (List.range 64).flatMap (fun i => coreRecord s pl (64 * n + i)))

/-- R104, R105, R150: a STALL (1) or ITEM_KIND (2) fault of a configuration, which its sectors' control cores are told. -/
def arrayFault (s : State) (pl : Placement) (cause : Nat) : State :=
  let b := snapshot s pl cause
  let s := modEng s (fun e => { e with snaps := e.snaps ++ [⟨pl.part, pl.ctx, b⟩] })
  let s := pl.sectors.foldl (fun s n => raiseInt s n 1) s
  programFault s pl.part pl.ctx (if cause = 1 then 0x0201 else 0x0202) utCore (64 * pl.sectors.headD 0)

/-- R103: an item of the configuration has not been consumed. -/
def itemsPending (s : State) (pl : Placement) : Bool :=
  s.eng.cells.any (fun e => pl.sectors.contains (cellSector e.1) && cellItems e.2 != 0)

/-- STALL_TIMEOUT. -/
def execStallTimeout (place : Nat) (s : State) : Host.Outcome State Fault Refusal :=
  .next (match s.eng.places.find? (fun pl => pl.id == place) with
    | none => s
    | some pl => whenB (decide (pl.stallTicks ≤ pl.idle) && itemsPending s pl) s (arrayFault s pl 1))

/-! ### Transfers -/

def inGrid (row col : Nat) : Bool := decide (row < 1024 ∧ col < 1024)

/-- The consumer latches the item. -/
def latchItem (c : Cell) (k : Nat) (i : Item) : Cell :=
  if k < 4 then { c with outs := SSet [] c.outs k (SGet [] c.outs k ++ [i]) }
  else { c with latch := SSet none c.latch k (some i) }

/-- R103: the configuration of the cell has made progress. -/
def progressed (s : State) (row col : Nat) : State :=
  modEng s (fun e => { e with
    places := updateWhere (fun pl => pl.sectors.contains (coreOfCell row col / 64)) (fun pl => { pl with moved := true }) e.places })

/-- The consumers of a source that have latched its item; the source is freed after the last. -/
def noteTaken (s : State) (row col src k : Nat) : State := noteWith (fun s => freeSource s row col src) s row col src k

/-- A cell's own consumer latches an item as it came over the wires: R84 on its parity, R93 on its kind. -/
def receive (s : State) (row col src k w : Nat) : State :=
  let s := setCell s row col (latchItem (getCell s row col) k (wordItem w))
  let s := noteTaken s row col src k
  let s := if src ≤ 4 ∨ k < 4 then progressed s row col else s
  if ones 39 w % 2 = 1 then reportError s utCore 0x05 (coreOfCell row col) 0
  else if kindTaken (getCell s row col) k (bits w 32 2) then s
  else match placeOfCell s row col with
    | some pl => arrayFault s pl 2
    | none => s

/-- An item leaves a cell's outbound lane for the side's stream engine (R86), as it came over the wires (R84). -/
def toPort (s : State) (row col d w : Nat) : State :=
  let n := coreOfCell row col
  let s := takeLane s row col d
  let s := progressed (modCore s n (fun k =>
    { k with fout := SSet [] k.fout (portLane row col d) (SGet [] k.fout (portLane row col d) ++ [wordItem w]) })) row col
  if ones 39 w % 2 = 1 then reportError s utCore 0x05 n 0 else s

/-- ITEM_TRANSFER: the consumer `cons` of cell (row, col) latches the item that source `src` offers; sources 8 to 11 are the
cell's own outbound lanes toward a stream engine (`cons` 10). `noise` is what disturbs the wires.
DEDUCED: log entry 32. -/
def execItemTransfer (row col src cons : Nat) (noise : BitVec 39) (s : State) : Host.Outcome State Fault Refusal :=
  onUnit (inGrid row col) (match offered s row col src with
    | none => s
    | some i =>
      let c := getCell s row col
      let w := (BitVec.ofNat 39 (itemWord i) ^^^ noise).toNat
      if coreHeld s (coreOfCell row col) then s
      else if 8 ≤ src then
        whenB (cons == 10 && decide ((SGet [] (getCore s (coreOfCell row col)).fout (portLane row col (src - 8))).length < 8)) s
          (toPort s row col (src - 8) w)
      else
        whenB (decide (cons < 10) && c.sel cons == src && !bit (SGet 0 c.taken src) cons && hasRoom row col c cons) s
          (receive s row col src cons w))

/-- R84: a lane has REQ high and no ACK though its receiving stage is empty and the receiver is not held. Sides 0 to 3 are the
cell's inbound lanes, 4 to 7 its outbound lanes to a stream engine. -/
def laneStuck (s : State) (row col side : Nat) : Bool :=
  let c := getCell s row col
  !coreHeld s (coreOfCell row col) &&
    (if side < 4 then (offered s row col (side + 1)).isSome &&
        (c.consumers (side + 1)).any (fun k => !bit (SGet 0 c.taken (side + 1)) k && hasRoom row col c k)
     else (offered s row col (side + 4)).isSome &&
        decide ((SGet [] (getCore s (coreOfCell row col)).fout (portLane row col (side - 4))).length < 8))

/-- R84: ticks that each lane has stood so, by 8 × cell + side. -/
def laneTick (s : State) : SMap Nat :=
  s.eng.cells.foldl (fun m e => (List.range 8).foldl (fun m d =>
    if laneStuck s (e.1 / 1024) (e.1 % 1024) d then SSet 0 m (8 * e.1 + d) (SGet 0 s.eng.laneWait (8 * e.1 + d) + 1) else m) m) []

/-- HANDSHAKE_ANOMALY: an offered item has not been acknowledged within 64 ticks though the receiving stage is empty (R84). -/
def execHandshakeAnomaly (row col side : Nat) (s : State) : Host.Outcome State Fault Refusal :=
  onUnit (inGrid row col && decide (side < 8))
    (whenB (laneStuck s row col side && decide (64 ≤ SGet 0 s.eng.laneWait (8 * (1024 * row + col) + side))) s
      (reportError s utCore 0x04 (coreOfCell row col) 0))

/-! ### Function units -/

/-- R58: the numeric mode of the context a cell works for. -/
def cellMode (s : State) (row col : Nat) : Mode :=
  Mode.ofWord (match placeOfCell s row col with | some pl => pl.mode | none => 0)

/-- R90: the unit takes C and the scale items its inputs hold; while both accumulators hold finished outputs it takes nothing. -/
def macTake (c : Cell) : Cell :=
  if c.macWait.isSome then c else
  let m := c.mac
  let c := if m.begun then c
    else if c.sel 6 = 0 then { c with mac := { m with begun := true } }
    else match SGet none c.latch 6 with
      | some i => { c with
          mac := { m with begun := true, acc := i.pay % 2 ^ 32, flg := m.flg ||| i.flg }
          latch := SSet none c.latch 6 none }
      | none => c
  let c := match SGet none c.latch 4 with
    | some i => if i.kind = 2 ∧ c.mac.sa.isNone then { c with
          mac := { c.mac with sa := some (sext 8 i.pay), flg := c.mac.flg ||| i.flg }
          latch := SSet none c.latch 4 none } else c
    | none => c
  match SGet none c.latch 5 with
    | some i => if i.kind = 2 ∧ c.mac.sb.isNone then { c with
          mac := { c.mac with sb := some (sext 8 i.pay), flg := c.mac.flg ||| i.flg }
          latch := SSet none c.latch 5 none } else c
    | none => c

/-- R78: elements of an item's payload: two of I4 and G4, one of the others. -/
def itemElems (f : Fmt) (pay : Nat) : List Nat :=
  if f.width = 4 then [bits pay 0 4, bits pay 4 4] else [bits pay 0 f.width]

/-- R90: pairs of elements joined to an output in progress, `n` of them in all. -/
def macPairs (md : Mode) (wraps : Bool) (f : Fmt) (n : Nat) (lscl : Option Int) : List (Nat × Nat) → MacSt → MacSt
  | [], m => m
  | (a, b) :: r, m =>
    if n ≤ m.k then m
    else
      let g := groupStep md.flush f m.grp a b
      let m := { m with k := m.k + 1, grp := g.1, flg := m.flg ||| g.2 }
      if m.k % 32 = 0 ∨ m.k = n then
        let e := groupEnd md wraps f m.grp (m.sa.getD 0) (lscl.getD (m.sb.getD 0)) m.acc
        macPairs md wraps f n lscl r { m with acc := e.1, flg := m.flg ||| e.2, grp := GroupAcc.empty, sa := none, sb := none }
      else macPairs md wraps f n lscl r m

/-- The unit holds what a firing needs: C, its scales, and a data item of each streamed operand. -/
def macReady (c : Cell) : Bool :=
  let data := fun k => match SGet none c.latch k with | some i => i.kind == 0 | none => false
  c.mac.begun && c.macWait.isNone && data 4 && (!bit c.w1 17 || c.mac.sa.isSome) &&
    (c.op == 2 || data 5 && (!bit c.w1 18 || c.mac.sb.isSome))

/-- R90, R91: a finished output is offered; while the stage is full it waits in its accumulator. -/
def macOut (c : Cell) : Cell :=
  if c.mac.k = bits c.w2 0 20 then
    let i : Item := ⟨c.mac.flg ||| c.owed, 0, c.mac.acc⟩
    let c := { c with mac := {}, owed := 0 }
    if c.fu.isNone then { c with fu := some i } else { c with macWait := some i }
  else c

/-- R89, R90: one firing of a MAC or MACL unit. -/
def macFire (md : Mode) (c : Cell) : Cell :=
  let f := Fmt.ofCode (bits c.w1 3 3)
  let wraps := ovmWraps md (bits c.w1 15 2)
  match SGet none c.latch 4, SGet none c.latch 5 with
  | some a, b =>
    let xs := itemElems f a.pay
    let ys := if c.op = 2 then xs.map (fun _ => bits c.w3 0 f.width) else itemElems f ((b.map (·.pay)).getD 0)
    let fl := a.flg ||| (if c.op = 2 then 0 else (b.map (·.flg)).getD 0)
    let m := macPairs md wraps f (bits c.w2 0 20) (if c.op = 2 then some (sext 8 (bits c.w2 20 8)) else none) (xs.zip ys)
      { c.mac with flg := c.mac.flg ||| fl }
    macOut { c with mac := m, latch := SSet none (if c.op = 2 then c.latch else SSet none c.latch 5 none) 4 none }
  | none, _ => c

/-- A MAC (1) or MACL (2) unit takes what it waits for and fires; `bad` is a disagreement of its checks (R361). -/
def macFiring (op row col : Nat) (bad : Bool) (s : State) : State :=
  let c := getCell s row col
  if c.op ≠ op ∨ coreHeld s (coreOfCell row col) then s
  else
    let t := macTake c
    if macReady t then
      let s := setCell s row col (macFire (cellMode s row col) t)
      if bad then reportError s utCore 0x01 (coreOfCell row col) 0 else s
    else setCell s row col t

/-- MAC_FIRING. -/
def execMacFiring (row col : Nat) (bad : Bool) (s : State) : Host.Outcome State Fault Refusal :=
  onUnit (inGrid row col) (macFiring 1 row col bad s)

/-- MACL_FIRING. -/
def execMaclFiring (row col : Nat) (bad : Bool) (s : State) : Host.Outcome State Fault Refusal :=
  onUnit (inGrid row col) (macFiring 2 row col bad s)

/-- A firing of a unit of the cell: `f` gives the cell after it, none when the unit does not fire. -/
def cellFiring (row col : Nat) (f : Cell → Option Cell) (s : State) : State :=
  if coreHeld s (coreOfCell row col) then s
  else match f (getCell s row col) with
    | some c => setCell s row col c
    | none => s

/-- R92: DELAY takes an item into its buffer of 32, its output stage included, and offers the oldest. -/
def delayFire (c : Cell) : Option Cell :=
  if c.op = 3 then
    let c := match SGet none c.latch 4 with
      | some i => if c.delay.length + b2n c.fu.isSome < 32 then
          { c with delay := c.delay ++ [i], latch := SSet none c.latch 4 none } else c
      | none => c
    some (match c.fu, c.delay with
      | none, i :: r => { c with fu := some i, delay := r }
      | _, _ => c)
  else none

/-- DELAY_FIRING. -/
def execDelayFiring (row col : Nat) (s : State) : Host.Outcome State Fault Refusal :=
  onUnit (inGrid row col) (cellFiring row col delayFire s)

/-- R92: the condition of TEST on an element, with the flags raised. -/
def testCond (flush : Bool) (f : Fmt) (tcond x : Nat) : Bool × Flg :=
  let d := fdecode flush f x
  let fl : Flg := if f.isInt then 0 else d.2
  if tcond = 0 then
    (if f.isInt then x != 0 else Fmt.isNanCode f x || d.1.cls != .zero, fl)
  else if tcond = 1 then compareF flush f 2 x (if f.isInt then 0 else Fmt.encZero f false)
  else (Fmt.isNanCode f x, fl)

def testFire (md : Mode) (c : Cell) : Option Cell :=
  match SGet none c.latch 4, c.fu with
  | some i, none =>
    if c.op = 4 ∧ i.kind = 0 then
      let f := Fmt.ofCode (bits c.w1 3 3)
      let t := testCond md.flush f (bits c.w1 19 2) (bits i.pay 0 f.width)
      some { c with fu := some ⟨i.flg ||| t.2 ||| c.owed, 1, b2n t.1⟩, owed := 0, latch := SSet none c.latch 4 none }
    else none
  | _, _ => none

/-- TEST_FIRING. -/
def execTestFiring (row col : Nat) (s : State) : Host.Outcome State Fault Refusal :=
  onUnit (inGrid row col) (cellFiring row col (testFire (cellMode s row col)) s)

/-! ### Steering units (R95) -/

/-- R91: an item forwarded with the flags of what was consumed with it. -/
def carry (c : Cell) (i : Item) (f : Flg) : Item := { i with flg := i.flg ||| f ||| c.owed }

/-- STEER: D goes to the output that K bit [0] names. -/
def steerFire (c : Cell) : Option Cell :=
  match SGet none c.latch 7, SGet none c.latch 9 with
  | some d, some k =>
    let t := { c with latch := SSet none (SSet none c.latch 7 none) 9 none, owed := 0 }
    if c.skind ≠ 1 then none
    else if bit k.pay 0 then (if c.st1.isNone then some { t with st1 := some (carry c d k.flg) } else none)
    else (if c.st0.isNone then some { t with st0 := some (carry c d k.flg) } else none)
  | _, _ => none

/-- STEER_FIRING. -/
def execSteerFiring (row col : Nat) (s : State) : Host.Outcome State Fault Refusal :=
  onUnit (inGrid row col) (cellFiring row col steerFire s)

/-- MERGE: the item at the input that K selects; the other stays. -/
def mergeFire (c : Cell) : Option Cell :=
  match SGet none c.latch 9 with
  | some k =>
    let n := if bit k.pay 0 then 8 else 7
    match SGet none c.latch n with
    | some d =>
      if c.skind = 2 ∧ c.st0.isNone then
        some { c with latch := SSet none (SSet none c.latch n none) 9 none, owed := 0, st0 := some (carry c d k.flg) }
      else none
    | none => none
  | none => none

/-- MERGE_FIRING. -/
def execMergeFiring (row col : Nat) (s : State) : Host.Outcome State Fault Refusal :=
  onUnit (inGrid row col) (cellFiring row col mergeFire s)

/-- GATE: D passes when K bit [0] equals POL; flags of a discarded D are owed to the next emission. -/
def gateFire (c : Cell) : Option Cell :=
  match SGet none c.latch 7, SGet none c.latch 9 with
  | some d, some k =>
    let t := { c with latch := SSet none (SSet none c.latch 7 none) 9 none }
    if c.skind ≠ 3 then none
    else if bit k.pay 0 == bit c.w4 12 then
      (if c.st0.isNone then some { t with owed := 0, st0 := some (carry c d k.flg) } else none)
    else some { t with owed := c.owed ||| d.flg ||| k.flg }
  | _, _ => none

/-- GATE_FIRING. -/
def execGateFiring (row col : Nat) (s : State) : Host.Outcome State Fault Refusal :=
  onUnit (inGrid row col) (cellFiring row col gateFire s)

/-- REPEAT: one emission of D, a copy with its own flags; D and K are consumed after the last. -/
def repeatFire (c : Cell) : Option Cell :=
  match SGet none c.latch 7 with
  | some d =>
    let k := SGet none c.latch 9
    if c.skind ≠ 4 ∨ (c.sel 9 ≠ 0 ∧ k.isNone) then none
    else
      let n := c.reps.getD (if c.sel 9 = 0 then bits c.w4 16 16 else bits ((k.map (·.pay)).getD 0) 0 16)
      let kf := (k.map (·.flg)).getD 0
      let fin := { c with latch := SSet none (SSet none c.latch 7 none) 9 none, reps := none }
      if n = 0 then some { fin with owed := c.owed ||| d.flg ||| kf }
      else if c.st0.isSome then none
      else if n = 1 then some { fin with st0 := some d, owed := c.owed ||| kf }
      else some { c with st0 := some d, reps := some (n - 1) }
  | none => none

/-- REPEAT_FIRING. DEDUCED: log entry 32. -/
def execRepeatFiring (row col : Nat) (s : State) : Host.Outcome State Fault Refusal :=
  onUnit (inGrid row col) (cellFiring row col repeatFire s)

/-- COUNT: one of NCNT control items, bit [0] set on all but the last; each carries the trigger's flags (R91). -/
def countFire (c : Cell) : Option Cell :=
  match SGet none c.latch 7, c.st0 with
  | some d, none =>
    if c.skind ≠ 5 then none
    else
      let n := c.reps.getD (bits c.w4 16 16)
      let fl : Flg := if c.reps.isNone then d.flg ||| c.owed else d.flg
      let c := { c with owed := if c.reps.isNone then 0 else c.owed }
      if n ≤ 1 then some { c with st0 := some ⟨fl, 1, 0⟩, reps := none, latch := SSet none c.latch 7 none }
      else some { c with st0 := some ⟨fl, 1, 1⟩, reps := some (n - 1) }
  | _, _ => none

/-- COUNT_FIRING. DEDUCED: log entry 32. -/
def execCountFiring (row col : Nat) (s : State) : Host.Outcome State Fault Refusal :=
  onUnit (inGrid row col) (cellFiring row col countFire s)

/-! ### Placing configurations (R107 to R112) -/

/-- The sectors of a rectangle with its top left corner at a sector row and column, row-major. -/
def rectSectors (fh fw r c : Nat) : List Nat :=
  (List.range fh).flatMap (fun i => (List.range fw).map (fun j => sectorAt (r + i) (c + j)))

/-- R108: the cores of a rectangle withdrawn for fenced or withdrawn ones and their link groups. -/
def rectWithdrawn (s : State) (ci : CfgImg) (a v : Nat) (secs : List Nat) : List Nat :=
  let go := fld (varDesc s ci a v) 0x10 8
  let cores := secs.flatMap (fun n => (List.range 64).map (fun i => 64 * n + i))
  let grp := numbered 0 cores
  let groupOf := fun i => ciFld s ci (a + go + 2 * i) 2
  let out := grp.filter (fun e => outOfService s utCore e.2)
  let nums := (out.map (fun e => groupOf e.1)).filter (· != 0xFFFF)
  (grp.filter (fun e => outOfService s utCore e.2 || nums.contains (groupOf e.1))).map (·.2)

/-- R107: rectangles of a variant, in row-major order of their corners, all of whose sectors satisfy `ok` and that keep
MINCORES cores. -/
def rectangles (s : State) (ci : CfgImg) (a v : Nat) (ok : Nat → Bool) : List (Nat × Nat × List Nat) :=
  let d := varDesc s ci a v
  let fh := fld d 0 1
  let fw := fld d 1 1
  ((List.range (9 - fh)).flatMap (fun r => (List.range (9 - fw)).map (fun c => (r, c, rectSectors fh fw r c)))).filter
    (fun x => x.2.2.all ok && decide (fld d 2 2 + (rectWithdrawn s ci a v x.2.2).length ≤ 64 * x.2.2.length))

/-- The sectors of an image's role. -/
def roleSector (s : State) (p : Nat) (all : Bool) (n : Nat) : Bool :=
  (liveSectors s p).contains n && (all || !(lentSectors s p).contains n)

def sectorFree (s : State) (n : Nat) : Bool := !s.eng.places.any (fun pl => pl.sectors.contains n)

/-- R107: the lowest-numbered variant that has a rectangle; of its rectangles, the first in row-major order of corners.
DESIGN CHOICE: log entry 47. -/
def findRect (s : State) (ci : CfgImg) (a : Nat) (ok : Nat → Bool) : Option (Nat × Nat × Nat × List Nat) :=
  (List.range (min 4 (ciFld s ci (a + 6) 2))).findSome? (fun v =>
    (rectangles s ci a v ok).head?.map (fun x => (v, x)))

/-- R103, R106: STALL_TICKS of an array section. -/
def stallTicksOf (s : State) (ci : CfgImg) (a : Nat) : Nat :=
  let t := ciFld s ci (a + 8) 4
  if t = 0 then 100000 else t

/-- R112: the records that sector number `i` of a placement's footprint needs. -/
def recordsOf (s : State) (ci : CfgImg) (sect v i : Nat) : Loaded :=
  ⟨ci.part, ci.slot, ci.base, sect, v, i, ciFld s ci (sect + fld (varDesc s ci sect v) 0x18 8 + 4 * i) 4⟩

/-- R107: a section is placed, or waits for sectors to be cleared or for a test to end (R364); the run check of its layers
decides whether it ever can be placed (R209, R375). Sectors that already hold its records need no load (R112). -/
def tryPlace (s : State) (w : Placement) (ci : CfgImg) : State :=
  let drop := fun (s : State) => modEng s (fun e => { e with waits := e.waits.filter (fun x => x.id != w.id) })
  match findRect s ci w.sect (fun n => roleSector s w.part w.all n && sectorFree s n) with
  | some (v, r, c, secs) =>
    modEng (drop s) (fun e => { e with places := e.places ++ [{ w with
      variant := v, row := r, col := c, fh := fld (varDesc s ci w.sect v) 0 1, fw := fld (varDesc s ci w.sect v) 1 1
      sectors := secs, withdrawn := rectWithdrawn s ci w.sect v secs, begun := []
      loading := ((numbered 0 secs).filter (fun x => SGet none s.eng.loaded x.2 != some (recordsOf s ci w.sect v x.1))).map (·.2) }] })
  | none =>
    if s.eng.waits.any (fun x => x.id == w.id) then s else modEng s (fun e => { e with waits := e.waits ++ [w] })

/-- R107: firmware asks for a placement of the array section at `a` of an image for a context; the context's numeric mode word is
fixed when it starts (R58). -/
def newPlace (s : State) (ci : CfgImg) (c : Ctx) (all : Bool) (a : Nat) : State :=
  let mode := match c with
    | .run id => (((getPart s ci.part).runs.find? (fun r => r.cmd == id)).map (·.mode)).getD 0
    | _ => (getPart s ci.part).serving.getD (ciFld s ci 0x10 4)
  tryPlace (modEng s (fun e => { e with nextPlace := e.nextPlace + 1 }))
    { id := s.eng.nextPlace, part := ci.part, ctx := c, all := all, slot := ci.slot, sect := a, base := ci.base, len := ci.len, variant := 0
      row := 0, col := 0, fh := 0, fw := 0, sectors := [], mode := mode, stallTicks := stallTicksOf s ci a } ci

/-- VARIANT_PLACE: firmware places array section `sect` of image `img` of the selected model, or of a run's image.
DEDUCED: log entry 32. -/
def execVariantPlace (part : Nat) (run : Option Nat) (img sect : Nat) (s : State) : Host.Outcome State Fault Refusal :=
  .next (match ctxImage s part run img with
    | none => s
    | some (ci, c, all) =>
      whenB (s.sec.state == 4 && decide (sect < nArrays s ci)) s (newPlace s ci c all (arrayOff s ci sect)))

def placeImg (w : Placement) : CfgImg := ⟨w.part, w.slot, w.base, w.len⟩

/-- PLACEMENT_RESUME. -/
def execPlacementResume (wait : Nat) (s : State) : Host.Outcome State Fault Refusal :=
  .next (match s.eng.waits.find? (fun w => w.id == wait) with
    | none => s
    | some w => tryPlace s w (placeImg w))

/-- SECTOR_LOAD: the sector is held and cleared (R109 events 1 to 3). -/
def execSectorLoad (sector : Nat) (s : State) : Host.Outcome State Fault Refusal :=
  onUnit (decide (sector < 64))
    (match s.eng.places.find? (fun pl => pl.loading.contains sector && !pl.begun.contains sector) with
    | none => s
    | some pl =>
      modEng (clearSector s sector) (fun e => { e with
        loaded := SSet none e.loaded sector none
        places := updateWhere (fun x => x.id == pl.id) (fun x => { x with begun := x.begun ++ [sector] }) e.places }))

/-- R96: a cell configured by its record. -/
def cellOfRecord (b : List Byte) : Cell := { w0 := fld b 0 4, w1 := fld b 4 4, w2 := fld b 8 4, w3 := fld b 12 4, w4 := fld b 16 4 }

/-- The cells of a sector loaded from its 512 KiB of records. -/
def loadCells (s : State) (sector : Nat) (rec : List Byte) : State :=
  (List.range 16384).foldl (fun s i =>
    setCell s (128 * sectorRow sector + i / 128) (128 * sectorCol sector + i % 128) (cellOfRecord ((rec.drop (32 * i)).take 32))) s

/-- SECTOR_LOAD_DONE: the records are written and their CRC compared; on a mismatch the placement is cleared and the loss of
the image's data handled (R111). -/
def execSectorLoadDone (sector : Nat) (s : State) : Host.Outcome State Fault Refusal :=
  onUnit (decide (sector < 64))
    (match s.eng.places.find? (fun pl => pl.loading.contains sector && pl.begun.contains sector) with
    | none => s
    | some pl =>
      let ci := placeImg pl
      let d := varDesc s ci pl.sect pl.variant
      let i := (firstIdx (· == sector) pl.sectors).getD 0
      let at' := pl.sect + fld d 8 8 + 524288 * i
      let rec' := ciGet s ci at' 524288
      if (crc32c rec').toNat = ciFld s ci (pl.sect + fld d 0x18 8 + 4 * i) 4 ∧ !memLost s (ciLocal s ci at') 524288 then
        releaseSector (modEng (loadCells s sector rec') (fun e => { e with
          loaded := SSet none e.loaded sector (some (recordsOf s ci pl.sect pl.variant i))
          places := updateWhere (fun x => x.id == pl.id)
            (fun x => { x with loading := x.loading.filter (· != sector), begun := x.begun.filter (· != sector) }) e.places })) sector
      else
        let s := clearPlaces s (fun x => x.id == pl.id)
        let s := logFault s (faultEnt s utGroup 0x0A (ciLocal s ci at' / 2 ^ 36) (some pl.part) 7 (ciLocal s ci at'))
        dataLoss s pl.part pl.ctx (ciLocal s ci at'))

/-- R112: the work that the placement serves stands at a commit boundary. -/
def atBoundary (s : State) (pl : Placement) : Bool :=
  match pl.ctx with
  | .chunk => (getPart s pl.part).chunk.isNone
  | .step => (getPart s pl.part).step.isNone
  | .run id => !s.eng.ctrs.any (fun e => match e.2 with | some c => c.run == some id | none => false)

/-- SECTOR_CLEAR: the sector's items are discarded and its records stay; its placement gives the sector up, and a
later one of the same configuration there runs without a load (R112). -/
def execSectorClear (sector : Nat) (s : State) : Host.Outcome State Fault Refusal :=
  onUnit (decide (sector < 64))
    (match s.eng.places.find? (fun pl => pl.sectors.contains sector) with
    | none => clearSector s sector
    | some pl =>
      whenB (atBoundary s pl && !pl.loading.contains sector) s
        (modEng (clearSector s sector) (fun e => { e with
          places := (updateWhere (fun x => x.id == pl.id)
            (fun x => { x with sectors := x.sectors.filter (· != sector) }) e.places).filter (fun x => !x.sectors.isEmpty) })))

end Sys2Proof.Machine
end

