-- ==== Sys2Proof/Machine/Mapping.lean ====
section
/-! DEFINITION. Layers, operand ranges, the choice of tiles and their order (R190 to R200, R208), and the run checks of
R209. -/

namespace Sys2Proof.Machine

/-- R191: a layer descriptor; R195: for one problem of a list, with the entry's own shape and addresses. -/
structure Layer where
  kind : Nat
  fmt  : Fmt
  fmtd : Fmt
  ovm  : Nat
  opt  : Nat
  seq  : Nat
  seqp : Nat
  m : Nat
  n : Nat
  k : Nat
  trmax : Nat
  tcmax : Nat
  a : Nat
  b : Nat
  c : Nat
  d : Nat
  ap : Nat
  bp : Nat
  cp : Nat
  dp : Nat
  sa : Nat
  sb : Nat
  g : Nat
  rtab : Nat
  rtag : Nat
  cfg : Nat
  nprob : Nat
  spad : Nat
  deriving DecidableEq, Repr

def layerOf (b : List Byte) : Layer :=
  let f := fld b
  { kind := f 0 1, fmt := Fmt.ofCode (f 1 1 % 8), fmtd := Fmt.ofCode (f 1 1 / 8 % 8), ovm := f 1 1 / 64, opt := f 2 1, seq := f 3 1
    seqp := f 4 4, m := f 8 4, n := f 12 4, k := f 16 4, trmax := f 20 2, tcmax := f 22 2, a := f 0x18 8, b := f 0x20 8, c := f 0x28 8
    d := f 0x30 8, ap := f 0x38 4, bp := f 0x3C 4, cp := f 0x40 4, dp := f 0x44 4, sa := f 0x48 8, sb := f 0x50 8, g := f 0x58 8
    rtab := f 0x60 8, rtag := f 0x68 2, cfg := f 0x6A 2, nprob := f 0x6C 4, spad := f 0x70 2 }

def Layer.sca (l : Layer) : Bool := bit l.opt 0
def Layer.scb (l : Layer) : Bool := bit l.opt 1
def Layer.cin (l : Layer) : Bool := bit l.opt 2
def Layer.fin (l : Layer) : Bool := bit l.opt 3
def Layer.fout (l : Layer) : Bool := bit l.opt 4
def Layer.rtconst (l : Layer) : Bool := bit l.opt 6

/-- R195: one problem of a list as a MATMUL of its own. -/
def problemOf (l : Layer) (e : List Byte) : Layer :=
  let f := fld e
  let off := fun (base o : Nat) => wrapInt 64 ((base : Int) + sext 32 o)
  { l with
    kind := 1, m := f 0 4, n := f 4 4, k := f 8 4, opt := putBits (putBits l.opt 2 1 (b2n (bit (f 16 4) 16))) 6 1 1
    a := f 0x18 8, b := f 0x20 8, d := f 0x28 8, c := f 0x30 8, rtab := 0, rtag := f 16 4 % 65536
    sa := if l.sca then off (f 0x18 8) (f 0x38 4) else 0, sb := if l.scb then off (f 0x20 8) (f 0x3C 4) else 0 }

/-- R195: MP, NP, MCAP and SKIP of a list entry. -/
def entMP (e : List Byte) : Nat := fld e 0 4
def entNP (e : List Byte) : Nat := fld e 4 4
def entCap (e : List Byte) : Nat := if fld e 12 4 = 0 then fld e 0 4 else fld e 12 4
def entSkip (e : List Byte) : Bool := bit (fld e 16 4) 17

/-! ### Operand ranges (R192, R209) -/

/-- Bytes from the first to the last of `rows` rows; no rows have none. -/
def span (rows pitch bytes : Nat) : Nat := if rows = 0 then 0 else (rows - 1) * pitch + bytes

def Layer.aCols (l : Layer) : Nat := if l.kind = 1 then l.k else l.n

/-- The range of A, and of the other operands read, as (address, bytes). -/
def Layer.rangeA (l : Layer) : Nat × Nat := (l.a, span l.m l.ap (ceilDiv (l.aCols * l.fmt.width) 8))
def Layer.rangeB (l : Layer) : Nat × Nat := (l.b, span l.n l.bp (ceilDiv (l.k * l.fmt.width) 8))
def Layer.rangeD (l : Layer) : Nat × Nat := (l.d, span l.m l.dp (ceilDiv (l.n * l.fmtd.width) 8))
def Layer.rangeSB (l : Layer) : Nat × Nat := (l.sb, l.n * ceilDiv l.k 32)

/-- R209: every range that a layer reads, D apart; `tab` is false for a problem of a list, whose tags are its entry's. -/
def Layer.reads (l : Layer) : List (Nat × Nat) :=
  if l.kind = 2 then [(l.rtab, 64 * l.nprob)]
  else
    (if l.fin then [] else [l.rangeA]) ++ (if l.kind = 1 then [l.rangeB] else []) ++
    (if l.kind = 1 ∧ l.sca then [(l.sa, l.m * ceilDiv l.k 32)] else []) ++ (if l.kind = 1 ∧ l.scb then [l.rangeSB] else []) ++
    (if l.kind = 1 ∧ l.cin then [(l.c, span l.m l.cp (4 * l.n))] else []) ++ (if l.seq = 3 then [(l.g, 2 * l.n)] else []) ++
    (if l.rtconst then [] else [(l.rtab, 2 * l.m)])

/-- R209: operands that must lie in tier 1, in space LOCAL or IMAGE. -/
def Layer.tier1 (l : Layer) : List Nat :=
  if l.kind = 2 then []
  else (if l.kind = 1 then [l.b] else []) ++ (if l.kind = 1 ∧ l.scb then [l.sb] else []) ++ (if l.seq = 3 then [l.g] else [])

/-- R269: a layer's addresses are permitted. -/
def layerAddrOk (s : State) (p : Nat) (img : Option Nat) (l : Layer) : Bool :=
  l.reads.all (fun r => decide (r.2 = 0) || permitted s p img false r.1 r.2) &&
    (l.kind == 2 || l.fout || l.rangeD.2 == 0 || permitted s p img true l.rangeD.1 l.rangeD.2) &&
    l.tier1.all (fun a => gSpace a == 0 || gSpace a == 3)

/-- Where a range lies, as runs of (place, offset, bytes): place 0 is local memory, 1 the host, 2 + chip a peer. -/
def physRuns (s : State) (p : Nat) (img : Option Nat) (r : Nat × Nat) : List (Nat × Nat × Nat) :=
  match localRuns s p img r.1 r.2 with
  | some rs => rs.map (fun x => (0, x.1, x.2))
  | none => [(if gSpace r.1 = 1 then 1 else 2 + gChip r.1, gOff r.1, r.2)]

/-- R209: two ranges share a byte. -/
def overlap (s : State) (p : Nat) (img : Option Nat) (x y : Nat × Nat) : Bool :=
  (physRuns s p img x).any (fun a => (physRuns s p img y).any (fun b =>
    a.1 == b.1 && decide (a.2.1 < b.2.1 + b.2.2 ∧ b.2.1 < a.2.1 + a.2.2)))

/-- R209: D shares a byte with another range of its layer. -/
def layerOverlaps (s : State) (p : Nat) (img : Option Nat) (l : Layer) : Bool :=
  l.kind != 2 && !l.fout && l.rangeD.2 != 0 && l.reads.any (fun r => overlap s p img l.rangeD r)

def aligned128 (a : Nat) : Bool := a % 128 == 0

/-- R209: a pitch in use is a positive multiple of 128, not below its row's bytes. -/
def pitchOk (p bytes : Nat) : Bool := decide (0 < p) && p % 128 == 0 && decide (bytes ≤ p)

/-- R209: every operand address is 128-byte aligned. -/
def layerBases (l : Layer) : Bool := [l.a, l.b, l.c, l.d, l.sa, l.sb, l.g, l.rtab].all aligned128

/-- R209 LAYER_ALIGN, for every kind but LIST. DEDUCED: log entry 21. -/
def layerAligned (l : Layer) : Bool :=
  layerBases l && (l.fin || pitchOk l.ap (ceilDiv (l.aCols * l.fmt.width) 8)) &&
  (l.kind != 1 || pitchOk l.bp (ceilDiv (l.k * l.fmt.width) 8)) && (!(l.kind == 1 && l.cin) || pitchOk l.cp (4 * l.n)) &&
  (l.fout || pitchOk l.dp (ceilDiv (l.n * l.fmtd.width) 8))

/-! ### Tiles (R197, R200, R208) -/

def Layer.budget (l : Layer) : Nat := 1024 * (if l.spad = 0 then 320 else l.spad)

def r32 (x : Nat) : Nat := roundUp x 32

/-- R197: scratchpad a tile shape needs. -/
def needOf (l : Layer) (tr tc : Nat) : Nat :=
  let e := l.fmt.width
  if l.kind = 1 ∨ l.kind = 2 then
    2 * (tr + tc) * 512 * e / 8 + 2 * (tr * b2n l.sca + tc * b2n l.scb) * 16 + 2 * tr * tc * 4
  else if l.kind = 3 then 2 * tr * tc * (e + l.fmtd.width) / 8
  else 2 * tr * r32 l.n * (e + l.fmtd.width) / 8 + (if l.seq = 3 then 2 * r32 l.n else 0)

/-- R197: the candidates, clipped to the layer's bounds and shape. A list without rows has r32(M) = 0, and the clip leaves
32: no tile is 0 rows high. DESIGN CHOICE: log entry 46. -/
def candidates (l : Layer) (m n : Nat) : List (Nat × Nat) :=
  let clip := fun (x mx r : Nat) => min x (min (if mx = 0 then x else mx) (max 32 r))
  [(256, 256), (256, 128), (128, 128), (128, 64), (64, 64), (64, 32), (32, 32)].map (fun c =>
    (clip c.1 l.trmax (r32 m), clip c.2 l.tcmax (r32 n)))

/-- The first entry with the greatest value. -/
def firstMax (f : Nat × Nat → Nat) : List (Nat × Nat) → Option (Nat × Nat)
  | [] => none
  | x :: xs => match firstMax f xs with
    | none => some x
    | some y => if f x < f y then some y else some x

/-- R197: the tile shape for `P` cores; `tiles` counts the tiles of a shape. DESIGN CHOICE: log entry 46. -/
def chooseTiles (l : Layer) (m n P : Nat) (tiles : Nat → Nat → Nat) : Option (Nat × Nat) :=
  if l.kind = 4 then
    let fit := [32, 16, 8, 4, 2, 1].filter (fun tr => decide (needOf l tr (r32 l.n) ≤ l.budget))
    ((fit.find? (fun tr => decide (P ≤ ceilDiv l.m tr))).or fit.getLast?).map (fun tr => (tr, r32 l.n))
  else
    let fit := (candidates l m n).filter (fun c => decide (needOf l c.1 c.2 ≤ l.budget))
    (fit.find? (fun c => decide (P ≤ tiles c.1 c.2))).or (firstMax (fun c => tiles c.1 c.2) fit)

/-- R208: TR of a fused group. -/
def chooseGroup (ls : List Layer) (P : Nat) : Option (Nat × Nat) :=
  let budget := ls.foldl (fun b l => min b l.budget) (1024 * 368)
  let m := (ls.map (·.m)).headD 0
  let need := fun tr => (ls.map (fun l => needOf l tr (r32 l.n))).sum
  let fit := [256, 128, 64, 32, 16, 8, 4, 2, 1].filter (fun tr => decide (need tr ≤ budget))
  ((fit.find? (fun tr => decide (P ≤ ceilDiv m tr))).or fit.getLast?).map (fun tr => (tr, r32 ((ls.map (·.n)).foldl max 0)))

/-- R200 `hilbert_xy`: `n` levels from side `sd` on. -/
def hilbert : Nat → Nat → Nat → Int × Int → Int × Int
  | 0, _, _, xy => xy
  | n + 1, sd, t, (x, y) =>
    let rx := t / 2 % 2
    let ry := if t % 2 = rx then 0 else 1
    let p : Int × Int := if ry = 0 then (if rx = 1 then ((sd : Int) - 1 - y, (sd : Int) - 1 - x) else (y, x)) else (x, y)
    hilbert n (2 * sd) (t / 4) (p.1 + (sd * rx : Nat), p.2 + (sd * ry : Nat))

/-- The least k with 2^k ≥ n. -/
def log2Up (n : Nat) : Nat := if n ≤ 1 then 0 else Nat.log2 (n - 1) + 1

/-- R200: the tile of value `v` within one problem: points of the curve from `d` on. -/
def hilbertNth (k tm tn : Nat) : Nat → Nat → Nat → Nat × Nat
  | 0, _, _ => (0, 0)
  | fuel + 1, d, v =>
    let p := hilbert k 1 d (0, 0)
    if p.2 < tm ∧ p.1 < tn then
      (if v = 0 then (p.2.toNat, p.1.toNat) else hilbertNth k tm tn fuel (d + 1) (v - 1))
    else hilbertNth k tm tn fuel (d + 1) v

/-- R200 `tile_of`: problem, tile row and tile column. -/
def tileOfVal : List Prob → Nat → Nat → Nat × Nat × Nat
  | [], q, _ => (q, 0, 0)
  | pr :: r, q, v =>
    if pr.tm * pr.tn ≤ v then tileOfVal r (q + 1) (v - pr.tm * pr.tn)
    else
      let k := log2Up (max pr.tm pr.tn)
      (q, hilbertNth k pr.tm pr.tn (4 ^ k) 0 v)

def tileCount (ps : List Prob) : Nat := (ps.map (fun p => p.tm * p.tn)).sum

/-- R200: the problem of a list entry under a tile shape. -/
def probOf (tr tc : Nat) (e : List Byte) : Prob := ⟨ceilDiv (entCap e) tr, ceilDiv (entNP e) tc, entMP e, entSkip e⟩

/-! ### The layers of an image and the run checks (R209) -/

def layerAt (s : State) (ci : CfgImg) (i : Nat) : Layer := layerOf (layerDesc s ci i)

/-- R208: the number of layers from `i` on that run on one counter. -/
def groupLen (s : State) (ci : CfgImg) : Nat → Nat → Nat
  | 0, _ => 1
  | fuel + 1, i => if (layerAt s ci i).fout then 1 + groupLen s ci fuel (i + 1) else 1

/-- The entries of a problem list at a global address, none while a list of tier 2 has not been read. -/
def listEntries (s : State) (p : Nat) (img : Option Nat) (addr n : Nat) : Option (List (List Byte)) :=
  let cut := fun (bs : List Byte) => (List.range n).map (fun i => (bs.drop (64 * i)).take 64)
  match localOf s p img addr with
  | some _ => some (cut (gGet s p img addr (64 * n)))
  | none => ((getPart s p).lists.find? (fun l => l.1 == addr)).map (fun l => cut l.2)

/-- R195: a list entry breaks the entry table. -/
def entBad (l : Layer) (e : List Byte) : Bool :=
  let f := fld e
  let rng := fun lo hi (x : Nat) => decide (lo ≤ x ∧ x ≤ hi)
  !(rng 0 16777215 (f 0 4) && rng 1 16777215 (f 4 4) && rng 1 1048575 (f 8 4) && (f 12 4 == 0 || decide (f 0 4 ≤ f 12 4)) &&
    bits (f 16 4) 18 14 == 0 && f 20 4 == 0 && (bit (f 16 4) 16 || f 0x30 8 == 0) && (l.sca || f 0x38 4 == 0) &&
    (l.scb || f 0x3C 4 == 0))

/-- R209: the first entry that LIST_ENTRY_INVALID refuses. -/
def badEntry (s : State) (p : Nat) (img : Option Nat) (l : Layer) (es : List (List Byte)) : Option Nat :=
  let ns := numbered 0 es
  (ns.find? (fun x =>
    entBad l x.2 || (!entSkip x.2 &&
      let q := problemOf l x.2
      !layerAligned q || !layerAddrOk s p img q || layerOverlaps s p img q ||
        ns.any (fun y => decide (x.1 ≠ y.1) && !entSkip y.2 && entMP x.2 != 0 && entMP y.2 != 0 &&
          overlap s p img q.rangeD (problemOf l y.2).rangeD)))).map (·.1)

/-- The outcome of the run checks: the counter's problems with its tile shape, or the report of a refusal. -/
inductive RunCheck where
  | wait
  | ok (tr tc : Nat) (probs : List Prob)
  | fail (r : Report)
  deriving DecidableEq, Repr

/-- R209: the checks made when a layer's counter is to be created, on `P` cores. DEDUCED: log entry 21. -/
def runCheck (s : State) (ci : CfgImg) (i n P : Nat) : RunCheck :=
  let p := ci.part
  let ls := (List.range n).map (fun j => layerAt s ci (i + j))
  let l := layerAt s ci i
  match (numbered i ls).find? (fun x => !layerAddrOk s p ci.slot x.2) with
  | some x => .fail { status := 0x0316, layer := x.1 }
  | none =>
    match (numbered i ls).find? (fun x => layerOverlaps s p ci.slot x.2) with
    | some x => .fail { status := 0x0317, layer := x.1 }
    | none =>
      if l.kind = 2 then
        match listEntries s p ci.slot l.rtab l.nprob with
        | none => .wait
        | some es =>
          let tiles := fun tr tc => tileCount (es.map (probOf tr tc))
          let mx := (es.map entCap).foldl max 0
          let nx := (es.map entNP).foldl max 0
          match chooseTiles l mx nx P tiles with
          | none => .fail { status := 0x0319, layer := i }
          | some (tr, tc) =>
            if 2 ^ 32 - 1 < tiles tr tc then .fail { status := 0x0311, layer := i }
            else match badEntry s p ci.slot l es with
              | some e => .fail { status := 0x0318, layer := i, problem := e }
              | none => .ok tr tc (es.map (probOf tr tc))
      else
        let t := if 1 < n then chooseGroup ls P else chooseTiles l l.m l.n P (fun tr tc => ceilDiv l.m tr * ceilDiv l.n tc)
        match t with
        | none => .fail { status := 0x0319, layer := i }
        | some (tr, tc) => .ok tr tc [⟨ceilDiv l.m tr, if 1 < n then 1 else ceilDiv l.n tc, l.m, false⟩]

/-- R305: STATUS, INFO and INFO2 of a completion that ends with a loader's outcome. -/
def loaderInfo (k : Comp) (r : Report) : Comp :=
  { k with
    status := r.status
    info := if 0x0301 ≤ r.status ∧ r.status ≤ 0x031C then r.layer else 0
    info2 := if r.status = 0x0318 then r.problem else 0 }

/-- R194, R209: a run ends with a refusal, its report written. -/
def failRun (s : State) (p : Nat) (c : Ctx) (r : Report) : State :=
  match c with
  | .run id =>
    let s := match findCmd s id with | some k => writeReport s k.d (reportAt k.d) r | none => s
    let fl := (((getPart s p).runs.find? (fun r => r.cmd == id)).map (·.flg)).getD 0
    failCtxAt (endCmd s id (fun k => loaderInfo { k with flg := fl.toNat } r)) p c 10 r.status
  | _ => failCtxAt s p c 10 r.status

end Sys2Proof.Machine
end

