-- ==== Sys2Proof/Machine/Layers.lean ====
section
/-! DEFINITION. What a layer computes (R193): the elements of D by tiles, by fused groups and by Copper units (R198, R207,
R208, R222, R287), and what serving makes of a complete layer: KV slices, steering and logits (R217, R225, R235). -/

namespace Sys2Proof.Machine

/-! ### Operands -/

/-- Bytes of an operand of a layer: tier 1, or what was read of tier 2 for the layers that run. -/
def opGet (s : State) (p : Nat) (img : Option Nat) (a n : Nat) : List Byte :=
  match localOf s p img a with
  | some _ => gGet s p img a n
  | none => match (getPart s p).lists.find? (fun l => decide (l.1 ≤ a ∧ a + n ≤ l.1 + l.2.length)) with
    | some l => (l.2.drop (a - l.1)).take n
    | none => zeros n

/-- The operands of tier 2 among ranges that have not been read for the layer. -/
def unread (s : State) (p : Nat) (img : Option Nat) (rs : List (Nat × Nat)) : List (Nat × Nat) :=
  rs.filter (fun r => r.2 != 0 && (localOf s p img r.1).isNone &&
    !(getPart s p).lists.any (fun l => decide (l.1 ≤ r.1 ∧ r.1 + r.2 ≤ l.1 + l.2.length)))

/-- R191: the row tag of row `r`. -/
def Layer.tagOf (l : Layer) (src : Nat → Nat → List Byte) (r : Nat) : Nat :=
  if l.rtconst then l.rtag else fld (src (l.rtab + 2 * r) 2) 0 2

/-- R192: row `r` of A. -/
def Layer.rowA (l : Layer) (src : Nat → Nat → List Byte) (r : Nat) : List Nat :=
  rowElems l.fmt l.aCols (src (l.a + r * l.ap) (ceilDiv (l.aCols * l.fmt.width) 8))

/-- R192: the group scales of row `r` of an operand at `a`. -/
def Layer.scales (l : Layer) (src : Nat → Nat → List Byte) (a r : Nat) : List Int :=
  let n := ceilDiv l.k 32
  (src (a + r * n) n).map (fun b => sext 8 b.toNat)

/-! ### Elements of D (R193) -/

/-- R193: element (r, c) of a MATMUL over the row `xs` of A. -/
def mmElem (md : Mode) (src : Nat → Nat → List Byte) (l : Layer) (xs : List Nat) (r c : Nat) : Nat × Flg :=
  let ys := rowElems l.fmt l.k (src (l.b + c * l.bp) (ceilDiv (l.k * l.fmt.width) 8))
  let c0 := if l.cin then fld (src (l.c + r * l.cp + 4 * c) 4) 0 4 else 0
  let d := dot md (ovmWraps md l.ovm) l.fmt (xs.zip ys) (if l.sca then l.scales src l.sa r else [])
    (if l.scb then l.scales src l.sb c else []) c0
  let x := if l.seq = 0 then convert md l.ovm (bit l.opt 5) (if l.fmt.isInt then .i32 else .f32) l.fmtd d.1
    else libAct md.flush .f32 d.1 (l.seqp : Nat) l.fmtd
  (x.1, d.2 ||| x.2)

/-- R193: an element of an EWISE layer. -/
def ewElem (md : Mode) (l : Layer) (x : Nat) : Nat × Flg :=
  if l.seq = 0 then convert md l.ovm (bit l.opt 5) l.fmt l.fmtd x else libAct md.flush l.fmt x (l.seqp : Nat) l.fmtd

/-- R193: a row of a ROWWISE layer. -/
def rwRow (md : Mode) (src : Nat → Nat → List Byte) (l : Layer) (xs : List Nat) : List Nat × Flg :=
  if l.seq = 3 then libNorm md.flush l.fmt xs (rowElems .f16 l.n (src l.g (2 * l.n))) (l.seqp : Nat) (bit l.opt 7) l.fmtd
  else libSoftmax md.flush l.fmt xs (l.seqp : Nat) l.fmtd

/-- R193: columns `c` to `c + n - 1` of row `r` of D, from the row `xs` of A, with the flags raised. -/
def rowOfD (md : Mode) (src : Nat → Nat → List Byte) (l : Layer) (xs : List Nat) (r c n : Nat) : List Nat × Flg :=
  if l.kind = 4 then
    let y := rwRow md src l xs
    ((y.1.drop c).take n, y.2)
  else
    let ys := if l.kind = 3 then ((xs.drop c).take n).map (ewElem md l)
      else (List.range n).map (fun j => mmElem md src l xs r (c + j))
    (ys.map (·.1), flagsOf ys)

/-- R208: row `r` down a fused group, each layer's whole row the next one's A; with each layer's flags by row tag. -/
def groupRow (md : Mode) (src : Nat → Nat → List Byte) (r : Nat) : List Layer → List Nat → List Nat × List (Nat × Flg)
  | [], xs => (xs, [])
  | l :: ls, xs =>
    let y := rowOfD md src l xs r 0 l.n
    let z := groupRow md src r ls y.1
    (z.1, (l.tagOf src r, y.2) :: z.2)

/-! ### Tiles (R198, R199, R207) -/

/-- What a tile writes: each row's address with its bytes, and the flags by row tag. -/
structure TileOut where
  rows : List (Nat × List Byte) := []
  flags : List (Nat × Flg) := []
  deriving DecidableEq, Repr

/-- R193, R198: the tile of rows `r0` and columns `c0` on, `tr` by `tc`, of one layer. -/
def tileOut (md : Mode) (src : Nat → Nat → List Byte) (l : Layer) (r0 c0 tr tc : Nat) : TileOut :=
  let n := min tc (l.n - c0)
  let rs := (List.range (min tr (l.m - r0))).map (fun i => (r0 + i, rowOfD md src l (l.rowA src (r0 + i)) (r0 + i) c0 n))
  { rows := rs.map (fun x => (l.d + x.1 * l.dp + c0 * l.fmtd.width / 8, packRow l.fmtd x.2.1))
    flags := rs.map (fun x => (l.tagOf src x.1, x.2.2)) }

/-- R208: the tile of rows `r0` on, `tr` of them, of a fused group. -/
def groupOut (md : Mode) (src : Nat → Nat → List Byte) (ls : List Layer) (r0 tr : Nat) : TileOut :=
  match ls.head?, ls.getLast? with
  | some f, some l =>
    let rs := (List.range (min tr (f.m - r0))).map (fun i => (r0 + i, groupRow md src (r0 + i) ls (f.rowA src (r0 + i))))
    { rows := rs.map (fun x => (l.d + x.1 * l.dp, packRow l.fmtd x.2.1)), flags := rs.flatMap (fun x => x.2.2) }
  | _, _ => {}

/-- R58: the numeric mode of the context of a layer. -/
def layerMode (s : State) (p : Nat) (run : Option Nat) : Mode :=
  Mode.ofWord (match run with
    | some id => (((getPart s p).runs.find? (fun r => r.cmd == id)).map (·.mode)).getD 0
    | none => (getPart s p).serving.getD 0)

/-- R193, R195, R207, R208: what the tile (problem, row, column) of a running layer writes; an EMPTY tile, nothing. -/
def layerTile (s : State) (ci : CfgImg) (lr : LayerRun) (tr tc : Nat) (t : Nat × Nat × Nat) : TileOut :=
  let md := layerMode s lr.part lr.run
  let src := opGet s lr.part ci.slot
  let l := layerAt s ci lr.layer
  if l.kind = 2 then
    let e := src (l.rtab + 64 * t.1) 64
    if entSkip e then {} else tileOut md src (problemOf l e) (t.2.1 * tr) (t.2.2 * tc) tr tc
  else if 1 < lr.count then groupOut md src ((List.range lr.count).map (fun j => layerAt s ci (lr.layer + j))) (t.2.1 * tr) tr
  else tileOut md src l (t.2.1 * tr) (t.2.2 * tc) tr (if l.kind = 4 then l.n else tc)

/-- R193, R199: a tile's rows of D in tier 1 of this module, written; rows of tier 2 are written by the tile's DRAINs alone.
DESIGN CHOICE: log entry 44. -/
def writeRows (s : State) (p : Nat) (img : Option Nat) (rows : List (Nat × List Byte)) : State :=
  rows.foldl (fun s x => match localOf s p img x.1 with
    | some o => if x.2.isEmpty || !permitted s p img true x.1 x.2.length then s else memPut s o x.2
    | none => s) s

/-- R62, R205: flags by row tag join the uncommitted work of a context. -/
def joinFlags (s : State) (p : Nat) (run : Option Nat) (fs : List (Nat × Flg)) : State :=
  match run with
  | some id => ctxFlags s p (.run id) (flagsOf fs)
  | none => modPart s p (fun P => { P with notices := fs.foldl (fun m x => SSet 0 m x.1 (SGet 0 m x.1 ||| x.2)) P.notices })

/-! ### Copper units (R222, R223, R287) -/

/-- R222, R287: a layer of the DECODE image whose weight rows Copper units hold: `dec` marks that image. -/
def copperLayer (dec : Bool) (l : Layer) : Bool := dec && l.kind == 1 && gSpace l.b == 3 && !l.fin && !l.fout

/-- R287: the Copper unit beside the sub-channel that holds row `n` of B. -/
def copperOf (s : State) (ci : CfgImg) (l : Layer) (n : Nat) : Nat :=
  let o := (localOf s ci.part ci.slot (l.b + n * l.bp)).getD 0
  8 * (o / 2 ^ 36) + bits o 33 3

/-- R223, R368: row `n` of B is computed by cores: firmware has assigned it to lent sectors, or its unit is withdrawn. -/
def rowOnCores (s : State) (ci : CfgImg) (layer : Nat) (l : Layer) (n : Nat) : Bool :=
  (!(lentSectors s ci.part).isEmpty && Config.lentRow layer n) || (getPart s ci.part).rowMoves.contains (copperOf s ci l n) ||
    outOfService s utCopper (copperOf s ci l n)

/-- R222: batch rows whose input vectors fit 384 KiB together; one pass takes so many. -/
def passRows (l : Layer) : Nat := max 1 (393216 / ceilDiv (l.k * l.fmt.width) 8)

/-- R222: the passes of a layer over its batch. -/
def passes (l : Layer) : Nat := ceilDiv l.m (passRows l)

/-- R176, R222, R287: each pass reads a weight row in class STREAM and its scale bytes in class NORMAL. -/
def readWeights (s : State) (ci : CfgImg) (l : Layer) (n : Nat) : State :=
  let s := ((localRuns s ci.part ci.slot (l.b + n * l.bp) (ceilDiv (l.k * l.fmt.width) 8)).getD []).foldl
    (fun s r => cacheAccess s false 1 r.1 r.2) s
  if l.scb then ((localRuns s ci.part ci.slot (l.sb + n * ceilDiv l.k 32) (ceilDiv l.k 32)).getD []).foldl
    (fun s r => cacheAccess s false 0 r.1 r.2) s else s

/-- R222: the input vectors of a layer, read from the step buffers in class NORMAL. -/
def readVectors (s : State) (ci : CfgImg) (l : Layer) : State :=
  (List.range l.m).foldl (fun s r => ((localRuns s ci.part ci.slot (l.a + r * l.ap) (ceilDiv (l.k * l.fmt.width) 8)).getD []).foldl
    (fun s x => memTouch s x.1 x.2) s) s

/-- R222: the buffer of a unit after a layer: the vectors of the last pass, and the elements of its rows of B. -/
def copperBuf (src : Nat → Nat → List Byte) (l : Layer) (mine : List Nat) (out : List (Nat × List Nat)) : Copper :=
  let r0 := (passes l - 1) * passRows l
  { ins := (List.range (l.m - r0)).map (fun i => (r0 + i, src (l.a + (r0 + i) * l.ap) (ceilDiv (l.k * l.fmt.width) 8)))
    outs := out.flatMap (fun x => mine.map (fun n => (x.1, n, x.2.getD n 0))) }

/-- R222, R287: a Copper layer: every unit computes the rows of B that it holds over full K, and the step buffers take D. -/
def copperRun (s : State) (ci : CfgImg) (lr : LayerRun) (l : Layer) : State :=
  let src := opGet s ci.part ci.slot
  let md := layerMode s lr.part lr.run
  let rs := (List.range l.m).map (fun r => (r, rowOfD md src l (l.rowA src r) r 0 l.n))
  let cols := (List.range l.n).filter (fun n => !rowOnCores s ci lr.layer l n)
  let units := (cols.map (copperOf s ci l)).eraseDups
  let t := (List.range (passes l)).foldl (fun s _ => cols.foldl (fun s n => readWeights s ci l n) s) (readVectors s ci l)
  let t := modEng t (fun e => { e with coppers := units.foldl (fun m u =>
    SSet {} m u (copperBuf src l (cols.filter (fun n => copperOf s ci l n == u)) (rs.map (fun x => (x.1, x.2.1))))) e.coppers })
  joinFlags (writeRows t ci.part ci.slot (rs.map (fun x => (l.d + x.1 * l.dp, packRow l.fmtd x.2.1)))) lr.part lr.run
    (rs.map (fun x => (l.tagOf src x.1, x.2.2)))

/-! ### The KV cache (R217) -/

/-- R217: the page-table walker: the local offset of byte `b` of position `t`'s slice in plane `l`; none when it refuses. -/
def kvWalk (h : Hdr) (q : Rte) (t l b : Nat) : Option Nat :=
  if q.kvRows * h.kvtok ≤ t ∨ h.nplane ≤ l ∨ 65536 / h.kvtok ≤ b then none
  else match SGet 0 q.pt (t / h.kvtok * h.nplane + l) with
    | 0 => none
    | e => some ((e - 1) * 65536 + t % h.kvtok * (65536 / h.kvtok) + b)

/-- R217, R466: the walker has refused an access of a request: it ends with KV_PAGE_FAULT, logged against a unit of the kind that
made the access; which one the spec does not say: a free value.
DESIGN CHOICE: log entry 45. -/
def kvRefused (s : State) (r p : Nat) (cop : Bool) : State :=
  let d := drawFree s
  failReq (logFault d.2 (faultEnt d.2 (if cop then utCopper else utCore) 0x0F (if cop then d.1 % 384 else d.1 % 4096) (some p) 8 0)) r 10 0x0108

/-- R217: a KV slice written through the walker; a refusal ends the request with KV_PAGE_FAULT. -/
def kvWrite (s : State) (cop : Bool) (r t l : Nat) (bs : List Byte) : State :=
  match getRte s r with
  | none => s
  | some q => match selSlot s q.part with
    | none => s
    | some sl =>
      let h := hdrOf s sl
      match kvWalk h q t l 0 with
      | none => kvRefused s r q.part cop
      | some o => memPut s o (bs.take (65536 / h.kvtok))

/-- R256, R471: the LIST layers of the model's images that compute experts: holders run them, for jobs. -/
def expertLayers (s : State) (sl : Slot) : List Nat :=
  let x := (hdrOf s sl).expOff
  if x = 0 then [] else (List.range (imgFld s sl (x + 6) 2)).flatMap (fun i =>
    (List.range (imgFld s sl (x + 0x44 + 64 * i) 1)).map (fun j => imgFld s sl (x + 0x42 + 64 * i) 2 + j))

/-- The first layer from `i` on that is none of `ex`. -/
def skipLayers (ex : List Nat) : Nat → Nat → Nat
  | 0, i => i
  | fuel + 1, i => if ex.contains i then skipLayers ex fuel (i + 1) else i

/-! ### What serving makes of a complete layer (R220, R225, R235) -/

/-- R225 item 1, R220: the rows of a context in their order: row tag, position and token id of the input. -/
def stepInput (s : State) (r : Nat) : Nat × Nat × Nat :=
  match getRte s r with
  | none => (r, 0, 0)
  | some q =>
    let n := (dynOf s q).ngen
    (r, q.nprompt - 1 + n, if n = 0 then (q.ids.getD []).getD (q.nprompt - 1) 0 else q.toks.getD (n - 1) 0)

/-- R255: the rows of a step's batch, in ascending RTE index; of a chunk, its positions. -/
def ctxRows (s : State) (p : Nat) (c : Ctx) : List (Nat × Nat × Nat) :=
  match c with
  | .chunk => match (getPart s p).chunk with
    | some k => (List.range k.count).map (fun i =>
        (k.rte, k.first + i, (((getRte s k.rte).bind (·.ids)).getD []).getD (k.first + i) 0))
    | none => []
  | .step => match (getPart s p).step with
    | some t => ((sortDesc (t.rows.map (fun r => (r.rte, -((r.rte : Int)))))).map (·.1)).map (stepInput s)
    | none => []
  | .run _ => []

/-- R191, R215: firmware writes the row tag table of every layer of an image that names one. -/
def writeTags (s : State) (ci : CfgImg) (rows : List (Nat × Nat × Nat)) : State :=
  (List.range (nLayers s ci)).foldl (fun s i =>
    let l := layerAt s ci i
    if l.kind = 2 ∨ l.rtconst ∨ gSpace l.rtab ≠ 0 then s
    else writeRows s ci.part ci.slot [(l.rtab, (rows.take l.m).flatMap (fun x => leBytes 2 x.1))]) s

/-- R225, R220: what firmware writes before the layers of image `i` of the selected model run for a context. -/
def writeInputs (s : State) (p i : Nat) (c : Ctx) : State :=
  match (getPart s p).sel.bind (fun k => (cfgImage s p k i).bind (fun x => (getSlot s p k).map (fun sl => (x.1, sl)))) with
  | none => s
  | some (ci, sl) =>
    let rows := ctxRows s p c
    let kv := fun r t l => (getRte s r).bind (fun q => kvWalk (hdrOf s sl) q t l 0)
    let s := writeTags s ci rows
    writeRows s p none ((Config.inputWrites sl.digest i rows kv).map (fun w => (w.1, w.2)))

/-- R233: the record of a model layer in a steering set, and the fields of element `j`: HASM, MV, SM, HASA, AV, SA. -/
def steerRec (t : SteerSet) (layer : Nat) : Option Nat :=
  let o := fld t.bytes (0x40 + 8 * layer) 8
  if o = 0 then none else some o

def steerElem (flush : Bool) (f : Fmt) (t : SteerSet) (o : Nat) (j h : Nat) : Nat × Flg :=
  let fl := fld t.bytes o 1
  let dim := fld t.bytes 8 2
  let av := o + 16 + (if bit fl 0 then dim else 0)
  steer flush f h (bit fl 0) (fld t.bytes (o + 16 + j) 1) (fld t.bytes (o + 2) 2) (bit fl 1) (fld t.bytes (av + j) 1) (fld t.bytes (o + 4) 2)

/-- R235: one row of a model layer's residual output is replaced by its steered elements. -/
def steerRow (s : State) (p ml : Nat) (h : Hdr) (tag a : Nat) : State :=
  match getRte s tag with
  | none => s
  | some q => match (if q.steer = 0xFFFF then none else SGet none (getPart s p).steers q.steer) with
    | none => s
    | some t => match steerRec t ml with
      | none => s
      | some o =>
        let f := Fmt.ofCode (h.rfmt % 8)
        let md := layerMode s p none
        let ys := (numbered 0 (rowElems f h.dim (opGet s p none a (ceilDiv (h.dim * f.width) 8)))).map (fun x =>
          steerElem md.flush f t o x.1 x.2)
        joinFlags (writeRows s p none [(a, packRow f (ys.map (·.1)))]) p none [(tag, flagsOf ys)]

/-- Where row `x` of a context lies in the D of a layer: the row that carries its tag, a chunk's rows in their order. -/
def rowPlace (src : Nat → Nat → List Byte) (l : Layer) (c : Ctx) (first : Nat) (x : Nat × Nat × Nat) : Option Nat :=
  (((List.range l.m).filter (fun r => l.tagOf src r == x.1))[if c = .chunk then x.2.1 - first else 0]?).map (fun r => l.d + r * l.dp)

/-- R217, R225, R235: what a complete layer of a serving context is: a model layer's residual output to be steered, the
slices of a KV plane, the logits rows. DESIGN CHOICE: log entry 45. -/
def layerOutputs (s : State) (cop : Bool) (p i n : Nat) (ci : CfgImg) (c : Ctx) : State :=
  match selSlot s p with
  | none => s
  | some sl =>
    let h := hdrOf s sl
    let l := layerAt s ci n
    let all := ctxRows s p c
    let rows := all.filterMap (fun x => (rowPlace (opGet s p ci.slot) l c (all.headD x).2.1 x).map (fun a => (x, a)))
    let s := match Config.kvPlane sl.digest i n with
      | none => s
      | some pl => rows.foldl (fun s x => kvWrite s cop x.1.1 x.1.2.1 pl (opGet s p ci.slot x.2 (ceilDiv (l.n * l.fmtd.width) 8))) s
    let s := match Config.residualOf sl.digest i n with
      | none => s
      | some ml => if l.n = h.dim ∧ l.fmtd = Fmt.ofCode (h.rfmt % 8) then
            rows.foldl (fun s x => steerRow s p ml h x.1.1 x.2) s
          else s
    if c = .step ∧ l.n = h.v ∧ l.fmtd = Fmt.ofCode (h.hfmt % 8) ∧ l.kind ≠ 2 then
      modPart s p (fun P => { P with step := P.step.map (fun t => { t with
        logits := rows.foldl (fun m x => SSet 0 m x.1.1 (gOff x.2 + 1)) t.logits }) })
    else s

end Sys2Proof.Machine
end

