-- ==== Sys2Proof/Machine/Mailbox.lean ====
section
/-! DEFINITION. Mailboxes (R321 to R325): masters, channels, and the delivery of a message. -/

namespace Sys2Proof.Machine

/-- R294: fields of MBBINDn. -/
def bindSnd (s : State) (ch : Nat) : Nat := bits (SGet 0 s.host.mbbind ch).toNat 0 8
def bindRcv (s : State) (ch : Nat) : Nat := bits (SGet 0 s.host.mbbind ch).toNat 8 8
def bindValid (s : State) (ch : Nat) : Bool := bit (SGet 0 s.host.mbbind ch).toNat 31

/-- R325: the master's domain is down. -/
def masterDown (s : State) (m : Nat) : Bool :=
  if m = 0 then false
  else if m ≤ 0x10 then !(getFn s m).enabled
  else if 0x40 ≤ m ∧ m < 0x80 then !(getCob s (m - 0x40)).run || outOfService s utCobalt (m - 0x40) ||
    s.power.railsOff.contains (m - 0x40)
  else if m = 0x80 then !s.pew.standby
  else if m = 0x81 then !s.sec.waiting
  else true

/-- R180, R324: the Tin endpoint at which messages to a master arrive. -/
def mbEndpoint (m : Nat) : Nat :=
  if 0x40 ≤ m ∧ m < 0x80 then cobEp (m - 0x40) else if m = 0x80 then 0x1102 else if m = 0x81 then 0x1103 else 0x1100

/-- R324: a message arrives at the receive queue of a host function, or is lost to a full one. -/
def mbHost (s : State) (fn ch : Nat) (msg : List Byte) : State :=
  let q := SGet [] s.host.mbRx ch
  if 4 ≤ q.length then setErrCh s fn 5 ch
  else
    let s := modHost s (fun h => { h with mbRx := SSet [] h.mbRx ch (q ++ [msg]) })
    if q.isEmpty ∧ (getFn s fn).mbien then sendVec s fn 0 else s

/-- R324: a message arrives at Pewter or Electrum; Pewter counts what a full queue loses. -/
def mbInner (s : State) (ch : Nat) (msg : List Byte) : State :=
  let q := SGet [] s.host.mbRx ch
  modHost s (fun h =>
    if 4 ≤ q.length then { h with mbLoss := SSet 0 h.mbLoss ch (SGet 0 h.mbLoss ch + 1) }
    else { h with mbRx := SSet [] h.mbRx ch (q ++ [msg]) })

/-- R324: the MBOX message that carries a mailbox message to a receiver inside the module. DEDUCED: log entry 27. -/
def mbTin (src ch dst : Nat) (part : Nat) (msg : List Byte) : Tin :=
  { dst := dst, src := src, typ := 0x0C, part := part, arg := ch, data := msg }

/-- R324, R325: a Cobalt core may send an MBOX message: it is the channel's SND, and the receiver is up. -/
def mboxAllowed (s : State) (sector dst arg len : Nat) : Bool :=
  decide (arg < 32) && len == 64 && bindValid s arg && bindSnd s arg == 0x40 + sector && dst == mbEndpoint (bindRcv s arg) &&
    !masterDown s (bindRcv s arg)

end Sys2Proof.Machine
end

