-- ==== Sys2Proof/Machine/Scratch.lean ====
section
/-! DEFINITION. The scratchpad with its regions, weight tiles and error counters, and the core control window (R113 to
R131, R141, R143). -/

namespace Sys2Proof.Machine

/-! ### Regions and tiles -/

/-- R121: fields of a region descriptor. -/
def rgBase (d : Nat) : Nat := bits d 0 17
def rgLimit (d : Nat) : Nat := bits d 17 17
def rgClass (d : Nat) : Nat := bits d 34 2
def rgTile (d : Nat) : Nat := 256 * 2 ^ bits d 45 3
def rgEnabled (d : Nat) : Bool := rgClass d == 1 || rgClass d == 2

def Core.rg (c : Core) (n : Nat) : Nat := (SGet 0#64 c.rgd n).toNat

/-- The enabled region that holds a word address. -/
def regionOf (c : Core) (a : Nat) : Option Nat :=
  ((List.range 16).map c.rg).find? (fun d => rgEnabled d && decide (rgBase d ≤ a ∧ a ≤ rgLimit d))

/-- R126: the tag store entry of the weight tile that holds a word. -/
def tileEntry (d a : Nat) : Nat := bits d 48 10 + (a - rgBase d) / rgTile d

/-- Where an entry's tile lies: first word and size. -/
def tileOf (c : Core) (e : Nat) : Option (Nat × Nat) :=
  ((List.range 16).map c.rg).findSome? (fun d =>
    if rgClass d = 2 ∧ bits d 48 10 ≤ e ∧ e < bits d 48 10 + (rgLimit d + 1 - rgBase d) / rgTile d then
      some (rgBase d + (e - bits d 48 10) * rgTile d, rgTile d)
    else none)

/-- How an access of a word goes. -/
inductive Acc where
  | ok
  /-- The word's tile is under check or refetch, or must first be checked. -/
  | waits (entry : Nat)
  /-- R124, R127: refused, with VSTAT.FCAUSE. -/
  | bad (cause : Nat)
  deriving DecidableEq, Repr

/-- R121, R127: a read of a word by a port whose permission is descriptor bit `p`. -/
def readAcc (c : Core) (p a : Nat) : Acc :=
  if 0x17FFF < a then .bad 4
  else match regionOf c a with
    | none => .bad 2
    | some d =>
      if !bit d p then .bad 2
      else if rgClass d = 1 then .ok
      else
        let e := tileEntry d a
        let t := SGet {} c.tags e
        if !t.valid then .bad 3 else if t.checked && !c.refetch.contains e then .ok else .waits e

/-- R121: a write of a word. -/
def writeAcc (c : Core) (p a : Nat) : Acc :=
  if 0x17FFF < a then .bad 4
  else match regionOf c a with
    | none => .bad 2
    | some d => if bit d p then .ok else .bad 2

/-- The first access of a list that is not performed. -/
def firstAcc (f : Nat → Acc) : List Nat → Acc
  | [] => .ok
  | a :: r => match f a with | .ok => firstAcc f r | x => x

def spadGet (c : Core) (a : Nat) : Nat := (SGet 0#32 c.spad a).toNat

/-- R126, R129: a word written; its tile loses VALID and CHECKED, and a check or refetch of it is abandoned. -/
def spadPut (c : Core) (a v : Nat) : Core :=
  let c := { c with spad := SSet 0#32 c.spad a (BitVec.ofNat 32 v) }
  match regionOf c a with
  | none => c
  | some d =>
    if rgClass d = 2 then
      let e := tileEntry d a
      { c with
        tags := SSet {} c.tags e { SGet {} c.tags e with valid := false, checked := false }
        checking := c.checking.filter (· != e), refetch := c.refetch.filter (· != e) }
    else c

def spadPuts (c : Core) : List (Nat × Nat) → Core
  | [] => c
  | (a, v) :: r => spadPuts (spadPut c a v) r

/-! ### Error counters (R131) -/

/-- A saturating 16-bit counter of SPERR: 0 CORR, 1 UNCORR, 2 CRCMM, 3 REFETCH. -/
def sperrUp (c : Core) (k : Nat) : Core :=
  let x := c.sperr.toNat
  let v := bits x (16 * k) 16
  { c with sperr := BitVec.ofNat 64 (putBits x (16 * k) 16 (if v = 0xFFFF then v else v + 1)) }

/-- R128 event 1: a tile's check fails; the core's error is reported and the tile is refetched. -/
def tileMismatch (s : State) (n e : Nat) : State :=
  let s := modCore s n (fun c =>
    let c := sperrUp c 2
    { c with checking := c.checking.filter (· != e), refetch := if c.refetch.contains e then c.refetch else c.refetch ++ [e]
             tags := SSet {} c.tags e { SGet {} c.tags e with checked := false } })
  reportError s utCore 0x03 n 0

/-- R125: what SECDED finds in one word read: `n` bits in error. -/
def upsetWord (s : State) (core a n : Nat) : State :=
  if n = 0 then s
  else if n = 1 then modCore s core (sperrUp · 0)
  else
    let s := modCore s core (sperrUp · 1)
    match regionOf (getCore s core) a with
    | some d => if rgClass d = 2 then tileMismatch s core (tileEntry d a)
        else reportError (modCore s core (fun c => { c with held := true })) utCore 0x02 core 0
    | none => s

/-- R125: upsets found among the words a command reads; true when the words are not delivered. -/
def upsets (s : State) (core : Nat) (us : List (Nat × Nat)) (as : List Nat) : State × Bool :=
  let us := us.filter (fun u => as.contains u.1)
  (us.foldl (fun s u => upsetWord s core u.1 u.2) s, us.any (fun u => decide (2 ≤ u.2)))

/-! ### The control window -/

/-- R141: the fields of a summary set, by doubleword. -/
def sumDword (t : SumSet) (i : Nat) : Nat :=
  if i = 0 then t.smax + 2 ^ 32 * t.scnt
  else if i = 1 then t.ssum
  else if i = 2 then t.fmt.code + 8 * b2n t.valid + 16 * b2n t.anynan + 256 * t.flg.toNat
  else 0

/-- R143: VSTAT. -/
def vstat (c : Core) : Nat :=
  b2n c.busy + 2 * b2n c.done + 4 * b2n c.fault + 8 * b2n c.waitlong + 256 * c.fcause + 2 ^ 22 * c.vlast

/-- R113, R114: a doubleword of the control window. -/
def winDword (c : Core) (o : Nat) : Nat :=
  let i := o / 8
  let e16 := fun (f : Nat → Nat) => f 0 + 2 ^ 16 * f 1 + 2 ^ 32 * f 2 + 2 ^ 48 * f 3
  if i = 0 then 0x44101040
  else if i = 1 then c.entry
  else if i = 2 then vstat c
  else if i = 3 then c.sperr.toNat
  else if i = 4 then c.rgerr.toNat
  else if 8 ≤ i ∧ i < 24 then c.rg (i - 8)
  else if 24 ≤ i ∧ i < 28 then e16 (fun j => (SGet 0#16 c.ev (4 * (i - 24) + j)).toNat)
  else if 32 ≤ i ∧ i < 48 then sumDword (SGet {} c.sums ((i - 32) / 4)) ((i - 32) % 4)
  else if 48 ≤ i ∧ i < 56 then e16 (fun j => SGet 0 c.rowtag (4 * (i - 48) + j))
  else if 512 ≤ i ∧ i < 1536 then (SGet 0#64 c.vim (i - 512)).toNat
  else if 2048 ≤ i ∧ i < 4096 then
    let t := SGet {} c.tags ((i - 2048) / 2)
    if i % 2 = 0 then t.crc + 2 ^ 32 * b2n t.valid + 2 ^ 33 * b2n t.checked else t.home
  else 0

/-- Bytes of the control window. -/
def winRead (c : Core) (o n : Nat) : List Byte :=
  (List.range n).map (fun j => BitVec.ofNat 8 (bits (winDword c (8 * ((o + j) / 8))) (8 * ((o + j) % 8)) 8))

/-- R122: why a descriptor write is refused, none when it is accepted; of several causes RGERR shows the lowest code.
DESIGN CHOICE: log entry 50. -/
def rgdCause (c : Core) (n d : Nat) : Option Nat :=
  let b := rgBase d
  let l := rgLimit d
  if rgClass d = 0 then none
  else if l < b ∨ 0x17FFF < l then some 1
  else if (List.range 16).any (fun i => i != n && rgEnabled (c.rg i) && decide (b ≤ rgLimit (c.rg i) ∧ rgBase (c.rg i) ≤ l)) then
    some 2
  else if rgClass d = 3 ∨ (rgClass d = 2 ∧ bits d 45 3 = 7) then some 3
  else if rgClass d = 2 ∧ (l + 1 - b) % rgTile d ≠ 0 then some 4
  else if rgClass d = 2 ∧ 1024 < bits d 48 10 + (l + 1 - b) / rgTile d then some 5
  else none

/-- R122: a write of a region descriptor; reserved fields take no value (R14). -/
def rgdWrite (c : Core) (n v : Nat) : Core :=
  let d := putBits (v % 2 ^ 58) 42 3 0
  match rgdCause c n d with
  | none => { c with rgd := SSet 0#64 c.rgd n (BitVec.ofNat 64 d) }
  | some k => { c with rgerr := BitVec.ofNat 64 (k + 2 ^ 16 * n + 2 ^ 31) }

/-- R139, R143: a program starts at ENTRY. -/
def vecStart (c : Core) : Core :=
  { c with busy := true, vpc := c.entry, a := [], l := [], nr := 32, nb := 32, vwait := none, fault := false, fcause := 0 }

/-- R143, R144: a write of VCTL. -/
def vctlWrite (c : Core) (v : Nat) : Core :=
  let c := { c with entry := v % 1024 }
  if bit v 30 then (if c.busy then vecAbort c else c)
  else if bit v 31 ∧ !c.busy then vecStart c
  else c

/-- A 16-bit array of the window: four entries of one doubleword written where `m` says. -/
def put16 {α : Type} (f : SMap α → Nat → Nat → SMap α) (x : SMap α) (i v m : Nat) : SMap α :=
  (List.range 4).foldl (fun x j => if bits m (16 * j) 16 = 0 then x else f x (4 * i + j) (bits v (16 * j) 16)) x

/-- R126: a write of half of a tag entry; a write of HOME alone leaves STATE, CHECKED included, as it was.
DESIGN CHOICE: log entry 50. -/
def tagWrite (c : Core) (i v : Nat) : Core :=
  let t := SGet {} c.tags (i / 2)
  let t := if i % 2 = 0 then { t with crc := v % 2 ^ 32, valid := bit v 32, checked := bit v 33 && !bit v 32 }
    else { t with home := v % 2 ^ 42 }
  { c with tags := SSet {} c.tags (i / 2) t }

/-- A write of the bytes of one doubleword that `m` marks: `old` bytes elsewhere. -/
def mergeBits (old v m : Nat) : Nat :=
  (BitVec.ofNat 64 old &&& ~~~(BitVec.ofNat 64 m) ||| (BitVec.ofNat 64 v &&& BitVec.ofNat 64 m)).toNat

/-- R113: a write of a doubleword of the control window. -/
def winWrite (c : Core) (i v m : Nat) : Core :=
  let w := mergeBits (winDword c (8 * i)) v m
  let u := mergeBits 0 v m
  if i = 1 then vctlWrite c (putBits (putBits w 30 1 (bits u 30 1)) 31 1 (bits u 31 1))
  else if i = 2 then { c with done := c.done && !bit u 1, waitlong := c.waitlong && !bit u 3 }
  else if i = 4 then (if bit u 31 then { c with rgerr := c.rgerr &&& ~~~(1#64 <<< 31) } else c)
  else if 8 ≤ i ∧ i < 24 then rgdWrite c (i - 8) w
  else if 24 ≤ i ∧ i < 28 then { c with ev := put16 (fun x k y => SSet 0#16 x k (BitVec.ofNat 16 y)) c.ev (i - 24) w m }
  else if 48 ≤ i ∧ i < 56 then { c with rowtag := put16 (fun x k y => SSet 0 x k y) c.rowtag (i - 48) w m }
  else if 512 ≤ i ∧ i < 1536 then
    if c.busy then c else { c with vim := SSet 0#64 c.vim (i - 512) (BitVec.ofNat 64 w) }
  else if 2048 ≤ i ∧ i < 4096 then tagWrite c (i - 2048) w
  else c

/-- The part of doubleword `i` that a payload at offset `o` covers: its value and its mask. -/
def coverDword (o : Nat) (bs : List Byte) (i : Nat) : Nat × Nat :=
  (List.range 8).foldl (fun x j =>
    let a := 8 * i + j
    if o ≤ a ∧ a < o + bs.length then
      (x.1 + 2 ^ (8 * j) * ((bs.getD (a - o) 0).toNat), x.2 + 2 ^ (8 * j) * 255)
    else x) (0, 0)

/-- R149: a payload written at a window offset. -/
def winPut (c : Core) (o : Nat) (bs : List Byte) : Core :=
  if bs.isEmpty then c
  else (List.range ((o + bs.length - 1) / 8 - o / 8 + 1)).foldl (fun c j =>
    let x := coverDword o bs (o / 8 + j)
    winWrite c (o / 8 + j) x.1 x.2) c

/-! ### The tile checker (R127 to R129) -/

/-- The bytes of a run of words. -/
def spadBytes (c : Core) (a n : Nat) : List Byte := (List.range n).flatMap (fun i => leBytes 4 (spadGet c (a + i)))

/-- A read that meets an unchecked tile starts its check and waits. -/
def startCheck (c : Core) (e : Nat) : Core :=
  if c.checking.contains e ∨ c.refetch.contains e then c else { c with checking := c.checking ++ [e] }

/-- TILE_CHECK_DONE: `upset` names the words that the checker read with bits in error (R125); a double-bit error is handled as
a mismatch of the tile. -/
def execTileCheckDone (core entry : Nat) (upset : List (Nat × Nat)) (s : State) : Host.Outcome State Fault Refusal :=
  let c := getCore s core
  onUnit (decide (core < 4096))
    (if !c.checking.contains entry then s
    else match tileOf c entry with
      | none => modCore s core (fun c => { c with checking := c.checking.filter (· != entry) })
      | some (a, n) =>
        let u := upsets s core upset ((List.range n).map (a + ·))
        if u.2 then u.1
        else if (crc32c (spadBytes c a n)).toNat = (SGet {} c.tags entry).crc then
          modCore u.1 core (fun c => { c with
            checking := c.checking.filter (· != entry)
            tags := SSet {} c.tags entry { SGet {} c.tags entry with checked := true } })
        else tileMismatch u.1 core entry)

/-- R288: Pewter logs the row of an uncorrectable block that a core's engine read; the context it works for is told. -/
def lostFor (s : State) (core off : Nat) : State :=
  let s := logFault s (faultEnt s utRow 0x0A (off / 2 ^ 33) (partOfGroup s (off / 2 ^ 36)) 7 off)
  match ctxOfCore s core with
  | some (p, c) => dataLoss s p c off
  | none => s

/-- TILE_REFETCH_DONE: HOME is read in class BYPASS (R176), the tile rewritten from it and checked again. -/
def execTileRefetchDone (core entry : Nat) (s : State) : Host.Outcome State Fault Refusal :=
  let c := getCore s core
  onUnit (decide (core < 4096))
    (if !c.refetch.contains entry then s
    else match tileOf c entry with
      | none => modCore s core (fun c => { c with refetch := c.refetch.filter (· != entry) })
      | some (a, n) =>
        let t := SGet {} c.tags entry
        let bs := memGet s t.home (4 * n)
        let wait := memWaits s t.home (4 * n)
        let s := if wait then s else cacheAccess s false 2 t.home (4 * n)
        let drop := fun (c : Core) => { c with refetch := c.refetch.filter (· != entry) }
        if wait then s
        else if memLost s t.home (4 * n) then lostFor (modCore s core drop) core t.home
        else
          let put := fun (c : Core) => { c with
            spad := (List.range n).foldl (fun m i => SSet 0#32 m (a + i) (BitVec.ofNat 32 (fld bs (4 * i) 4))) c.spad }
          if (crc32c bs).toNat = t.crc then
            modCore s core (fun c =>
              let c := sperrUp (drop (put c)) 3
              { c with tags := SSet {} c.tags entry { SGet {} c.tags entry with checked := true } })
          else lostFor (modCore s core (fun c => drop (put c))) core t.home)

/-! ### Deliveries on the Tin path to a core -/

/-- R149, R185: the window a message addresses is that of core `dst`. -/
def winHead (s : State) (typ src dst : Nat) : Option Tin :=
  (tinFront s false src dst).bind (fun m => if m.typ == typ then some m else none)

/-- What kind of register a window write begins at: 0 other, 1 a descriptor, 2 an event counter, 3 a tag entry, 4 VCTL with
ABORT, 5 VCTL with GO alone. -/
def winKind (m : Tin) : Nat :=
  let o := m.arg % 2 ^ 32
  if 0x40 ≤ o ∧ o < 0xC0 then 1
  else if 0xC0 ≤ o ∧ o < 0xE0 then 2
  else if 0x4000 ≤ o ∧ o < 0x8000 then 3
  else if o = 8 then (if bit (fld m.data 0 8) 30 then 4 else if bit (fld m.data 0 8) 31 then 5 else 0)
  else 0

/-- The oldest window write under way from `src` to core `dst` takes effect, if it is of the kind; a core out of service
takes none (R149). -/
def deliverWin (kind src dst : Nat) (crcBad : Bool) (s : State) : State :=
  match winHead s 0x01 src dst with
  | none => s
  | some m =>
    if winKind m ≠ kind then s
    else if crcBad then tinBad s m
    else
      let s := tinDrop s m
      if outOfService s utCore dst then s else modCore s dst (fun c => winPut c (m.arg % 2 ^ 32) m.data)

/-- WIN_WR. -/
def execWinWr (src dst : Nat) (crcBad : Bool) (s : State) : Host.Outcome State Fault Refusal :=
  onUnit (decide (dst < 4096)) (deliverWin 0 src dst crcBad s)

/-- RGD_WRITE. -/
def execRgdWrite (src dst : Nat) (crcBad : Bool) (s : State) : Host.Outcome State Fault Refusal :=
  onUnit (decide (dst < 4096)) (deliverWin 1 src dst crcBad s)

/-- EV_WRITE. -/
def execEvWrite (src dst : Nat) (crcBad : Bool) (s : State) : Host.Outcome State Fault Refusal :=
  onUnit (decide (dst < 4096)) (deliverWin 2 src dst crcBad s)

/-- TAG_ENTRY_WRITE. -/
def execTagEntryWrite (src dst : Nat) (crcBad : Bool) (s : State) : Host.Outcome State Fault Refusal :=
  onUnit (decide (dst < 4096)) (deliverWin 3 src dst crcBad s)

/-- VCTL_ABORT. -/
def execVctlAbort (src dst : Nat) (crcBad : Bool) (s : State) : Host.Outcome State Fault Refusal :=
  onUnit (decide (dst < 4096)) (deliverWin 4 src dst crcBad s)

/-- VCTL_GO. DEDUCED: log entry 33. -/
def execVctlGo (src dst : Nat) (crcBad : Bool) (s : State) : Host.Outcome State Fault Refusal :=
  onUnit (decide (dst < 4096)) (deliverWin 5 src dst crcBad s)

/-- WIN_RD: the answer carries the request's TAG and the bytes of the window between two instructions (R142); a core out of
service gives none (R149). -/
def execWinRd (src dst : Nat) (crcBad : Bool) (s : State) : Host.Outcome State Fault Refusal :=
  onUnit (decide (dst < 4096)) (match winHead s 0x02 src dst with
    | none => s
    | some m =>
      if crcBad then tinBad s m
      else
        let s := tinDrop s m
        if outOfService s utCore dst then s
        else tinSend s { dst := src, src := dst, typ := 0x03, part := (partOfSector s (dst / 64)).getD 0, tag := m.tag, data := winRead (getCore s dst) (m.arg % 2 ^ 32) (bits m.arg 40 8) })

/-! ### Deliveries to a Cobalt core -/

/-- R188: a message arrives in a receive queue with room and raises the interrupt. -/
def rxArrive (s : State) (sector : Nat) (m : Tin) : State :=
  raiseInt (modCob s sector (fun c => { c with rxq := c.rxq ++ [m] })) sector 2

/-- The oldest message of a channel under way to a Cobalt core, of a type, is taken by `f` if it is sound. -/
def deliverCob (rsp : Bool) (typ src dst : Nat) (crcBad : Bool) (f : Nat → State → Tin → State) (s : State) : State :=
  match tinFront s rsp src dst with
  | none => s
  | some m =>
    if m.typ ≠ typ ∨ dst < 0x1000 ∨ 0x1040 ≤ dst ∨ (getCob s (dst - 0x1000)).rxq.length ≥ 64 then s
    else if crcBad then tinBad s m
    else f (dst - 0x1000) (tinDrop s m) m

def cobDst (dst : Nat) : Bool := decide (dst < 0x1105)

/-- WIN_RSP. -/
def execWinRsp (src dst : Nat) (crcBad : Bool) (s : State) : Host.Outcome State Fault Refusal :=
  onUnit (cobDst dst) (deliverCob true 0x03 src dst crcBad (fun n s m => rxArrive s n m) s)

/-- R150: the interrupt of a notice: a vector notice, or a fault report. -/
def noticeInt (kind : Nat) : Option Nat :=
  if kind = 1 ∨ kind = 2 then some 0 else if kind = 3 ∨ kind = 6 then some 1 else none

/-- NOTICE. -/
def execNotice (src dst : Nat) (crcBad : Bool) (s : State) : Host.Outcome State Fault Refusal :=
  onUnit (cobDst dst) (deliverCob false 0x04 src dst crcBad (fun n s m =>
    let s := rxArrive s n m
    match noticeInt (m.arg % 256) with | some i => raiseInt s n i | none => s) s)

/-- R205: a flag of a row tag joins the first claim of a core. DESIGN CHOICE: log entry 46. -/
def claimFlag (core tag : Nat) (f : Flg) : List Claim → List Claim
  | [] => []
  | l :: r => if l.core = core then { l with flags := SSet 0 l.flags tag (SGet 0 l.flags tag ||| f) } :: r
    else l :: claimFlag core tag f r

/-- R205: the counter that holds a claim of a core. -/
def claimCtr (s : State) (core : Nat) : Option (Nat × Ctr) :=
  s.eng.ctrs.findSome? (fun e => e.2.bind (fun c => if c.ledger.any (fun l => l.core == core) then some (e.1, c) else none))

/-- R62, R160, R205: firmware holds the flags with the claim whose COLLECT sent them, or with the uncommitted work of the
core's context when the core holds no claim. -/
def holdFlag (s : State) (core : Nat) (tag : Nat) (f : Flg) : State :=
  match claimCtr s core, ctxOfCore s core with
  | some (n, c), _ => setCtr s n (some { c with ledger := claimFlag core tag f c.ledger })
  | none, some (p, .run id) => ctxFlags s p (.run id) f
  | none, some (p, _) => modPart s p (fun P => { P with notices := SSet 0 P.notices tag (SGet 0 P.notices tag ||| f) })
  | none, none => s

/-- FLAG. -/
def execFlag (src dst : Nat) (crcBad : Bool) (s : State) : Host.Outcome State Fault Refusal :=
  onUnit (cobDst dst) (deliverCob false 0x05 src dst crcBad (fun n s m =>
    holdFlag (rxArrive s n m) m.src (m.arg % 65536) (BitVec.ofNat 4 (bits m.arg 16 4))) s)

/-- FW_MSG. -/
def execFwMsg (src dst : Nat) (crcBad : Bool) (s : State) : Host.Outcome State Fault Refusal :=
  onUnit (cobDst dst) (deliverCob false 0x0B src dst crcBad (fun n s m => rxArrive s n m) s)

/-- SE_STAT. -/
def execSeStat (src dst : Nat) (crcBad : Bool) (s : State) : Host.Outcome State Fault Refusal :=
  onUnit (cobDst dst) (deliverCob true 0x0A src dst crcBad (fun n s m => rxArrive s n m) s)

/-! ### The endpoint registers of a Cobalt core (R188) -/

/-- R202: a CNT_OP without a reserved OP, a non-zero reserved field or a wrong LEN. -/
def cntOpOk (arg : Nat) (data : List Byte) (len : Nat) : Bool :=
  let op := arg % 256
  decide (1 ≤ op ∧ op ≤ 6) && (decide (2 ≤ op ∧ op ≤ 4) || bits arg 20 12 == 0) && (op == 3 || bits arg 32 32 == 0) &&
    len == (if op = 1 then 32 else 0) && (op != 1 || fld data 0x18 8 == 0)

/-- R182, R186: the message in TXBUF may be sent. -/
def txAllowed (s : State) (sector : Nat) (h : List Byte) : Bool :=
  let w := fld h 0 8
  let dst := bits w 0 16
  let typ := bits w 32 8
  let len := bits w 40 9
  let arg := fld h 8 8
  let p := partOfSector s sector
  let sameP := fun n => partOfSector s n == p && p.isSome
  decide (1 ≤ typ ∧ typ ≤ 0x0C) && decide (len ≤ 256 ∧ len % 8 = 0) && bits w 49 3 == 0 &&
    ((decide (dst < 4096) && sameP (dst / 64)) || (decide (0x1000 ≤ dst ∧ dst < 0x1040) && sameP (dst - 0x1000)) ||
      decide (0x1100 ≤ dst ∧ dst ≤ 0x1104)) &&
    !((typ == 1 || typ == 2) && decide (dst < 4096) && outOfService s utCore dst) &&
    (if typ = 1 then bits arg 32 32 == 0
     else if typ = 2 then bits arg 32 8 == 0 && bits arg 48 16 == 0 && decide (8 ≤ bits arg 40 8 ∧ bits arg 40 8 ≤ 32) &&
       bits arg 40 8 % 8 == 0 && len == 0
     else if typ = 4 then decide (1 ≤ arg % 256 ∧ arg % 256 ≤ 6) && bits arg 10 22 == 0
     else if typ = 5 then bits arg 20 44 == 0
     else if typ = 6 then cntOpOk arg (h.drop 16) len
     else if typ = 8 then bits arg 2 6 == 0 && bits arg 13 51 == 0 && decide (bits arg 8 5 + len / 8 ≤ 32)
     else if typ = 9 then bits arg 2 6 == 0 && bits arg 13 19 == 0 &&
       (!bit arg 12 || bits arg 32 32 == 0 || decide (1000 ≤ bits arg 32 32 ∧ bits arg 32 32 ≤ 100000000)) &&
       len == (if bit arg 10 then 64 else 0)
     else if typ = 0x0C then mboxAllowed s sector dst arg len
     else true)

/-- R188: GO is written: the message in TXBUF is sent, or discarded as denied; it has no effect while BUSY is 1. -/
def txGo (s : State) (sector : Nat) : State :=
  let c := getCob s sector
  let h := SGetRun 0 c.txbuf 0 272
  let len := bits (fld h 0 8) 40 9
  if c.busy ∨ !c.run then s
  else if txAllowed s sector h then
    tinSend (modCob s sector (fun c => { c with busy := true })) {
      dst := fld h 0 2
      src := cobEp sector
      typ := fld h 4 1
      part := (partOfSector s sector).getD 0
      tag := fld h 7 1
      arg := fld h 8 8
      data := (h.drop 16).take len }
  else modCob s sector (fun c => { c with denied := true })

/-- TX_GO. BUSY falls when the message leaves the network, at its receiver. DESIGN CHOICE: log entry 50. -/
def execTxGo (sector : Nat) (s : State) : Host.Outcome State Fault Refusal := onUnit (decide (sector < 64)) (txGo s sector)

/-- R188: POP is written: the HEAD slot is free. -/
def rxPop (s : State) (sector : Nat) : State :=
  whenB (!(getCob s sector).rxq.isEmpty) s
    (modCob s sector (fun c => { c with rxq := c.rxq.drop 1, head := (c.head + 1) % 64 }))

/-- RX_POP. -/
def execRxPop (sector : Nat) (s : State) : Host.Outcome State Fault Refusal := onUnit (decide (sector < 64)) (rxPop s sector)

/-- COBALT_TIMER_COMPARE: the tick count has reached the compare value (R150). -/
def execCobaltTimerCompare (sector : Nat) (s : State) : Host.Outcome State Fault Refusal :=
  onUnit (decide (sector < 64)) (match (getCob s sector).timecmp with
    | none => s
    | some t => whenB (decide (t ≤ s.tick)) s (raiseInt (modCob s sector (fun c => { c with timecmp := none })) sector 3))

end Sys2Proof.Machine
end

