-- ==== Sys2Proof/Machine/FabricOps.lean ====
section
/-! DEFINITION. Operations on the optical ports: flits, slots, routes, and the issue of peer accesses (chapter 11); reads of
tier 2 under way (R276, R279). -/

namespace Sys2Proof.Machine

/-- R332: the command slot of a message. -/
def cmdSlot (m : Msg) : List Byte :=
  leBytes 16 (m.mtype + 2 ^ 4 * m.cls + 2 ^ 6 * m.dst + 2 ^ 20 * m.src + 2 ^ 34 * m.spart + 2 ^ 38 * m.tag +
    2 ^ 54 * m.len + 2 ^ 67 * m.off + 2 ^ 109 * m.status)

/-- R332: the `n` data slots of a run of bytes. -/
def dataSlots : Nat → List Byte → List (List Byte)
  | 0, _ => []
  | n + 1, bs => (bs.take 16 ++ zeros (16 - bs.length)) :: dataSlots n (bs.drop 16)

def msgSlots (m : Msg) : List (List Byte) := cmdSlot m :: dataSlots (ceilDiv m.data.length 16) m.data

/-- R330: a flit with the port's present ACK and credit fields. -/
def flitBytes (p : Port) (ftype vc seq ack : Nat) (slots : List (List Byte)) : List Byte :=
  let d0 := ftype + 2 ^ 4 * vc + 2 ^ 8 * seq + 2 ^ 20 * ack + 2 ^ 32 * b2n p.ackv +
    2 ^ 36 * (p.freed0 / 8 % 4096) + 2 ^ 48 * (p.freed1 / 8 % 4096)
  let body := slots.flatten ++ zeros (240 - 16 * slots.length)
  let head := leBytes 8 d0 ++ leBytes 4 (p.freed2 % 4096)
  head ++ leBytes 4 (crc32c (head ++ zeros 4 ++ body)).toNat ++ body

/-- R330: SEQ of the last SLOTS flit received in order. -/
def Port.ackSeq (p : Port) : Nat := if p.ackv then (p.rxSeq + 4095) % 4096 else 0

def portOut (s : State) (n : Nat) (b : List Byte) : State :=
  modFab (modPort s n (fun p => { p with owed := false })) (fun f => { f with out := f.out ++ [(n, b)] })

/-- R335: an IDLE flit (2) or a NAK (3) is sent. -/
def ctlFlit (s : State) (n ftype : Nat) : State :=
  let p := getPort s n
  portOut s n (flitBytes p ftype 0 0 p.ackSeq [])

/-- R333: credit held for a VC. -/
def Port.credit (p : Port) (vc : Nat) : Nat :=
  if vc = 0 then p.far0 - p.sent0 else if vc = 1 then p.far1 - p.sent1 else p.far2 - p.sent2

def Port.txq (p : Port) (vc : Nat) : List (List Byte) := if vc = 0 then p.txq0 else if vc = 1 then p.txq1 else p.txq2

/-- R349: the VC may be sent in the port's state. -/
def Port.carries (p : Port) (vc : Nat) : Bool :=
  p.state == .active || (vc == 2 && (p.state == .check || p.state == .quarantine))

/-- Slots of a VC leave its queue and use credit. -/
def Port.take (p : Port) (vc n : Nat) : Port :=
  if vc = 0 then { p with txq0 := p.txq0.drop n, sent0 := p.sent0 + n }
  else if vc = 1 then { p with txq1 := p.txq1.drop n, sent1 := p.sent1 + n }
  else { p with txq2 := p.txq2.drop n, sent2 := p.sent2 + n }

def Port.queue (p : Port) (vc : Nat) (sl : List (List Byte)) : Port :=
  if vc = 0 then { p with txq0 := p.txq0 ++ sl }
  else if vc = 1 then { p with txq1 := p.txq1 ++ sl } else { p with txq2 := p.txq2 ++ sl }

/-- R350: one of a port's counters goes up. -/
def portCount (s : State) (n ctr : Nat) : State :=
  modPew s (fun w => { w with ports := SSet 0 w.ports (16 * n + ctr) ((SGet 0 w.ports (16 * n + ctr) + 1) % 2 ^ 64) })

/-- R332 to R334: SLOTS flits of one VC, `fuel` at most, while slots wait, credit is held for all that a flit takes, and the replay
buffer has room; a flit is full or takes every slot that waits, so that no NULL slot falls within a message. -/
def pumpVC (n vc : Nat) : Nat → State → State
  | 0, s => s
  | fuel + 1, s =>
    let p := getPort s n
    let k := min 15 (p.txq vc).length
    if k = 0 ∨ p.credit vc < k ∨ !p.carries vc ∨ p.replay.length ≥ 2560 then s
    else
      let sl := (p.txq vc).take k
      let s := portOut s n (flitBytes p 1 vc p.seq p.ackSeq sl)
      let s := modPort s n (fun p => { p.take vc k with
        replay := p.replay ++ [⟨p.seq, vc, sl⟩], seq := (p.seq + 1) % 4096
        ackTick := if p.replay.isEmpty then s.tick else p.ackTick })
      pumpVC n vc fuel (portCount s n 1)

/-- Every waiting slot that may be sent is sent. -/
def pump (s : State) (n : Nat) : State :=
  let p := getPort s n
  pumpVC n 0 p.txq0.length (pumpVC n 1 p.txq1.length (pumpVC n 2 p.txq2.length s))

/-- A message is queued on its VC and sent as credit allows. -/
def sendMsg (s : State) (n vc : Nat) (m : Msg) : State := pump (modPort s n (fun p => p.queue vc (msgSlots m))) n

/-- R338: the route byte of a chip. -/
def routeOf (s : State) (chip : Nat) : Nat := match s.pew.applied with
  | none => 0xFF
  | some pl => fld pl (0x140 + chip) 1

/-- R338, R339, R342: the port of an access and whether it is STOR; under 0x10 the other port of the pair takes what the port by
bit 12 cannot carry. -/
def routePort (s : State) (chip off : Nat) : Option Nat × Bool :=
  let r := routeOf s chip
  if r < 14 then (some r, false)
  else if r < 16 then (some r, true)
  else if r = 16 then
    let a := if bit off 12 then 15 else 14
    let b := if bit off 12 then 14 else 15
    let sa := (getPort s a).state
    let sb := (getPort s b).state
    if sa != .active && (sb == .active || (sb == .retrain && sa != .retrain)) then (some b, true) else (some a, true)
  else (none, false)

/-- R341: the first tag from the counter on that no access holds and none ended with less than 10,000,000 ticks ago. -/
def pickTag (s : State) : Nat → Nat → Nat
  | 0, t => t % 65536
  | fuel + 1, t =>
    if s.fab.accs.any (fun a => a.tag == t % 65536) ||
        s.fab.dead.any (fun d => d.1 == t % 65536 && decide (s.tick < d.2 + 10000000)) then pickTag s fuel (t + 1)
    else t % 65536

/-- R339: a peer access is issued: sent, or held while its port retrains. False when it ends at once with PEER_LOST. -/
def peerIssue (s : State) (part chip off : Nat) (data : Option (List Byte)) (len : Nat) (read : Option Nat)
    (write : Option WriteFor) : State × Bool :=
  match routePort s chip off with
  | (none, _) => (s, false)
  | (some n, stor) =>
    let st := (getPort s n).state
    if st = .active ∨ st = .retrain then
      let tag := pickTag s (s.fab.accs.length + s.fab.dead.length + 1) s.fab.nextTag
      let a : Access := ⟨tag, chip, n, stor, part, len, s.tick, read, write⟩
      let s := modFab s (fun f => { f with accs := f.accs ++ [a], nextTag := (tag + 1) % 65536 })
      let m : Msg := ⟨if data.isSome then 2 else 1, b2n stor, chip, ownChip s, part, tag, len, off % 2 ^ 42, 0, data.getD []⟩
      (sendMsg s n 0 m, true)
    else (s, false)

/-- R332: a peer write in pieces that each lie within one 4 KiB block; false when one ends at once. -/
def peerWrite : Nat → State → Nat → Nat → Nat → List Byte → WriteFor → State × Bool
  | 0, s, _, _, _, _, _ => (s, true)
  | fuel + 1, s, part, chip, off, bs, w =>
    let k := min (4096 - off % 4096) bs.length
    if k = 0 then (s, true)
    else
      let r := peerIssue s part chip off (some (bs.take k)) k none (some w)
      if r.2 then peerWrite fuel r.1 part chip (off + k) (bs.drop k) w else r

def peerWriteAll (s : State) (part chip off : Nat) (bs : List Byte) (w : WriteFor) : State × Bool :=
  peerWrite (bs.length / 4096 + 2) s part chip off bs w

/-- A read of host memory: a HOST address, or 2^64 and a 64-bit host address. DEDUCED: log entry 16. -/
def ORead.host (r : ORead) : Bool := decide (2 ^ 64 ≤ r.addr) || gSpace r.addr == 1

/-- R276, R332: length of the next piece of a read. -/
def pieceLen (s : State) (r : ORead) : Nat :=
  let a := r.addr + r.got.length
  let left := r.len - r.got.length
  let m := min (4096 - gOff a % 4096) left
  if r.host then min m s.host.mrrs else m

/-- The next piece of a read is issued. A host read waits while the link is not in DL_Active (R277): its tag is 1. False
when a peer read ends at once with PEER_LOST. -/
def issuePiece (s : State) (r : ORead) : State × Bool :=
  if r.host then
    (modHost s (fun h => { h with reads := h.reads ++ [{ r with issued := s.tick, tag := b2n (!h.dlActive) }] }), true)
  else
    let x := peerIssue s (r.fn - 1) (gChip r.addr) (gOff r.addr + r.got.length) none (pieceLen s r) (some r.id) none
    (modHost x.1 (fun h => { h with reads := h.reads ++ [{ r with issued := s.tick }] }), x.2)

/-- A read of host or peer memory begins. -/
def startRead (s : State) (fn addr len : Nat) (use : ReadFor) : State × Bool :=
  let r : ORead := { id := s.host.nextId, fn := fn, addr := addr, len := len, issued := s.tick, use := use }
  issuePiece (modHost s (fun h => { h with nextId := h.nextId + 1 })) r

def dropRead (s : State) (id : Nat) : State :=
  modHost s (fun h => { h with reads := h.reads.filter (fun r => r.id != id) })

/-- R341: accesses of a read that has ended are forgotten. -/
def endAccess (s : State) (tag : Nat) (dead : Bool) : State :=
  modFab s (fun f => { f with
    accs := f.accs.filter (fun a => a.tag != tag)
    dead := if dead then (tag, s.tick) :: f.dead.filter (fun d => decide (s.tick < d.2 + 10000000)) else f.dead })

end Sys2Proof.Machine
end

