-- ==== Sys2Proof/Machine/Space.lean ====
section
/-! DEFINITION. What a partition's data space holds and can hold (R232, R266, R272, R280, R286, R352), and the clearing of memory
(R267). -/

namespace Sys2Proof.Machine

/-- R266, R270, R272: bytes of the data space of a group with a class map; `sys` for the lowest group of a partition. -/
def groupBytes (cm : Nat) (sys : Bool) : Nat :=
  let gone := fun (q : Nat) => decide (q < 32) && bit cm q
  let all := ((List.range 64).map (fun q => if gone q then 0 else if q % 8 = 7 then 0x3F000000 else 0x40000000)).sum
  if sys then all - 0x40000000 - (if gone 30 then 0 else 0x1000000) - (if gone 31 then 0 else 0x3F000000) else all

/-- Bytes of the data space of the groups in a bit map. -/
def spaceBytes (s : State) (groups : Nat) : Nat :=
  let gs := (List.range 48).filter (bit groups)
  (gs.map (fun g => groupBytes (SGet 0 s.mem.classMap g).toNat (gs.head? == some g))).sum

/-- R256, R352: the receive buffers of `n` senders. -/
def slotPairBytes (n : Nat) : Nat := n * (2 * 1024 * 8184 * 4)

/-- What firmware has placed in a partition's data space, as (offset, bytes). -/
def holdings (s : State) (p : Nat) : List (Nat × Nat) :=
  let P := getPart s p
  P.slots.flatMap (fun e => match e.2 with | some sl => sl.segs.map (fun o => (o, 0x400000)) | none => []) ++
    P.chains.flatMap (fun c => c.segs.map (fun o => (o, 0x400000))) ++
    P.steers.filterMap (fun e => e.2.map (fun t => (t.off, t.bytes.length))) ++
    P.images.filterMap (fun e => e.2.bind (fun i => i.cur)) ++
    s.rtes.flatMap (fun e => match e.2 with
      | some q => if q.part = p then q.pt.map (fun x => ((x.2 - 1) * 65536, 65536)) else []
      | none => [])

/-- Two ranges share a byte. -/
def meets (x y : Nat × Nat) : Bool := decide (x.1 < y.1 + y.2 ∧ y.1 < x.1 + x.2)

/-- A range of the data space that holds none of `held`. -/
def rangeFree (s : State) (p : Nat) (held : List (Nat × Nat)) (off n : Nat) : Bool :=
  localOk s p off n && held.all (fun h => !meets h (off, n))

/-- Bytes that a partition's data space holds: the KV pool and the receive buffers whole, and what firmware has placed. -/
def heldBytes (s : State) (p : Nat) : Nat :=
  let P := getPart s p
  P.kvPages * 65536 + slotPairBytes P.xsend.length +
    (P.slots.map (fun e => match e.2 with | some sl => sl.segs.length * 0x400000 | none => 0)).sum +
    (P.chains.map (fun c => c.segs.length * 0x400000)).sum +
    (P.steers.map (fun e => match e.2 with | some t => t.bytes.length | none => 0)).sum +
    (P.images.map (fun e => match e.2.bind (fun i => i.cur) with | some c => c.2 | none => 0)).sum

/-- R232, R280: the data space can hold `n` bytes beside everything it holds. DEDUCED: log entry 20. -/
def roomFor (s : State) (p n : Nat) : Bool := decide (heldBytes s p + n ≤ spaceBytes s (getPart s p).groups)

/-- R267: a range written to zero with a valid code. -/
def clearMem (s : State) (off n : Nat) : State :=
  modMem s (fun m => { m with
    bytes := m.bytes.filter (fun e => !(decide (off ≤ e.1) && decide (e.1 < off + n)))
    lost := m.lost.filter (fun e => !(decide (off ≤ e.1 * 32) && decide (e.1 * 32 < off + n))) })

/-- R272: the class-map bit of a granule of sub-channel k ≥ 4 of a group is set, and both granules are cleared. -/
def mirrorGranule (s : State) (g k m : Nat) : State :=
  let a := g * 2 ^ 36 + k * 2 ^ 33 + m * 0x40000000
  let n := if m = 7 then 0x3F000000 else 0x40000000
  let s := clearMem (clearMem s a n) (a - 2 ^ 35) n
  modMem s (fun e => { e with
    classMap := SSet 0 e.classMap g (BitVec.ofNat 32 (putBits (SGet 0 e.classMap g).toNat (8 * (k - 4) + m) 1 1)) })

/-- R266: the system region of a group, with its copy, where the group is its partition's lowest: live data. -/
def sysHeld (s : State) (g : Nat) : List (Nat × Nat) :=
  match partOfGroup s g with
  | some p => if (groupsOf (getPart s p)).head? = some g then
      [(g * 2 ^ 36 + 0xFBF000000, 0x40000000), (g * 2 ^ 36 + 0x7BF000000, 0x40000000)] else []
  | none => []

/-- R272, R286: a range of a sub-channel may take a segment of a MIRRORED image: its granule is mirrored, or neither
granule holds live data. DEDUCED: log entry 20. -/
def mirrorReady (s : State) (held : List (Nat × Nat)) (off : Nat) : Bool :=
  let g := off / 2 ^ 36
  let q := bits off 30 6
  let a := off - off % 0x40000000
  bit (SGet 0 s.mem.classMap g).toNat (q - 32) ||
    (sysHeld s g ++ held).all (fun h => !meets h (a, 0x40000000) && !meets h (a - 2 ^ 35, 0x40000000))

/-- R286: the lowest 4 MiB range of the sub-channel at `base` that is free and fits the image's mirroring. -/
def lowestFree (s : State) (p : Nat) (mirror : Bool) (held : List (Nat × Nat)) (base : Nat) : Option Nat :=
  ((List.range 2048).map (fun j => base + 0x400000 * j)).find? (fun o =>
    rangeFree s p held o 0x400000 && (!mirror || mirrorReady s held o))

/-- R286: the sub-channel that takes segment `i`: groups in turn, then their sub-channels; of a mirrored image, 4 to 7. -/
def segBase (gs : List Nat) (mirror : Bool) (i : Nat) : Nat :=
  gs.getD (i % gs.length) 0 * 2 ^ 36 + (if mirror then 4 + i / gs.length % 4 else i / gs.length % 8) * 2 ^ 33

/-- R272: a segment of a mirrored image at an offset makes its granule a mirrored one. -/
def placeAt (s : State) (mirror : Bool) (o : Nat) : State :=
  if mirror && !bit (SGet 0 s.mem.classMap (o / 2 ^ 36)).toNat (bits o 30 6 - 32) then
    mirrorGranule s (o / 2 ^ 36) (bits o 33 3) (bits o 30 3)
  else s

/-- R286: segment `i` placed in the lowest free 4 MiB range of its sub-channel. -/
def placeSegment (s : State) (p : Nat) (mirror : Bool) (held : List (Nat × Nat)) (i : Nat) : Option (Nat × State) :=
  (lowestFree s p mirror held (segBase (groupsOf (getPart s p)) mirror i)).map (fun o => (o, placeAt s mirror o))

/-- The length of a segment (R286). -/
def segSpan : Nat := 0x400000

/-- R286: segments `i` on, `n` of them, in order; none when a sub-channel has no room. DEDUCED: log entry 20. -/
def placeSegments (p : Nat) (mirror : Bool) (n : Nat) (s : State) (held : List (Nat × Nat)) (i : Nat) : Option (List Nat × State) :=
  (List.range n).foldl (fun a k => a.bind (fun r =>
    (placeSegment r.2 p mirror (r.1.map (fun o => (o, segSpan)) ++ held) (i + k)).map (fun x => (r.1 ++ [x.1], x.2)))) (some ([], s))

end Sys2Proof.Machine
end

