-- ==== Sys2Proof/Machine/Serve.lean ====
section
/-! DEFINITION. Serving requests (chapter 7): admission, prefill chunks, decode steps, commits, stream entries, completions and
records. -/

namespace Sys2Proof.Machine

/-- How a read of a buffer starts. -/
inductive RdRes where
  | now (bs : List Byte)
  | pending
  | fail (status : Nat)
  deriving DecidableEq, Repr

/-- R268, R269, R288: firmware begins to read a buffer at a global address. -/
def beginRead (s : State) (p addr len : Nat) (use : ReadFor) : State × RdRes :=
  if !permitted s p none false addr len then (s, .fail 0x0409)
  else match localOf s p none addr with
    | some off => if memLost s off len then (s, .fail 0x0401) else (memTouch s off len, .now (memGet s off len))
    | none =>
      let r := startRead s (p + 1) addr len use
      if r.2 then (r.1, .pending) else (dropRead r.1 s.host.nextId, .fail 0x0408)

/-- R227, R381, R408: the module serves: firmware runs, main power is good, no power-fail sequence is under way. -/
def serving (s : State) : Bool :=
  s.sec.state == 4 && s.power.pg && !s.power.perst && s.power.pfwAt.isNone && !s.pew.moduleFault

/-! ### Admission (R212) -/

def sampOk (b : List Byte) : Bool :=
  let mode := fld b 0 1
  let topk := fld b 2 2
  let temp := fld b 4 4
  let topp := fld b 8 4
  zeroAt b 1 1 && zeroAt b 12 4 &&
    ((mode == 0 && topk == 0 && temp == 0 && topp == 0) ||
     (mode == 1 && decide (1 ≤ temp ∧ temp < 2 ^ 31 ∧ 1 ≤ topp ∧ topp ≤ 65536)))

def stopLen (b : List Byte) (i : Nat) : Nat := fld b (8 + i) 1

/-- Token ids of stop sequence `i`. -/
def stopSeq (b : List Byte) (i : Nat) : List Nat :=
  (List.range (stopLen b i)).map (fun j => fld b (16 + 32 * i + 4 * j) 4)

/-- R212, R228: the stop set has no cause of STOPSET_INVALID; ids beyond a sequence's length are no such cause, and no match
reads them. DEDUCED: log entry 24. -/
def stopsetOk (b : List Byte) : Bool :=
  let n := fld b 4 1
  zeroAt b 5 3 && decide (n ≤ 8) && (List.range 8).all (fun i =>
    if i < n then decide (1 ≤ stopLen b i ∧ stopLen b i ≤ 8) else stopLen b i == 0)

/-- R218: rows of the page table of a request. -/
def kvRowsOf (h : Hdr) (l limit : Nat) : Nat := ceilDiv (min (l + limit - 1) h.ctxmax) h.kvtok

/-- R249, R250: pages of the occupancy table. -/
def occPages (s : State) (sl : Slot) (h : Hdr) : Nat :=
  if h.expOff = 0 then 0
  else ceilDiv (imgFld s sl (h.expOff + 6) 2 * 2 * (32 + 8 * ceilDiv (imgFld s sl (h.expOff + 8) 4) 8)) 65536

/-- R212: the steering set's shape is the model's. -/
def steerFits (h : Hdr) : Option SteerSet → Bool
  | some t => decide (fld t.bytes 6 2 = h.nlayer ∧ fld t.bytes 8 2 = h.dim ∧ fld t.bytes 10 1 = h.rfmt)
  | none => true

/-- R212: the first check that fails. -/
def admitCheck (s : State) (p : Nat) (c : Cmd) : Option Nat :=
  let P := getPart s p
  let f := fun o n => fld c.d.raw o n
  match selSlot s p with
  | none => some 3
  | some sl =>
    let h := hdrOf s sl
    let st := f 0x12 2
    let set := SGet none P.steers st
    if some (f 0x10 2) ≠ P.sel ∨ (st ≠ 0xFFFF ∧ set.isNone) ∨
        (reqsOf s p).any (fun e => e.2.hosttag == f 8 8) then some 3
    else if f 0x18 4 = 0 ∨ h.ctxmax < f 0x18 4 ∨ f 0x1C 4 = 0 ∨ 2 ^ 20 < f 0x1C 4 then some 0x0101
    else if !sampOk c.buf then some 0x0102
    else if !stopsetOk c.buf2 then some 0x0103
    else if st != 0xFFFF && !steerFits h set then some 0x0104
    else if P.rteq ≤ (reqsOf s p).length then some 0x0106
    else if P.kvPages < ((reqsOf s p).map (fun e => e.2.resv)).sum +
        kvRowsOf h (f 0x18 4) (f 0x1C 4) * h.nplane + occPages s sl h then some 0x0107
    else none

/-- The lowest RTE index that is FREE. DEDUCED: log entry 23. -/
def freeRte (s : State) : Nat := ((List.range (s.rtes.length + 1)).find? (fun i => (getRte s i).isNone)).getD s.rtes.length

/-- R211: the admitted request's entry. -/
def newRte (s : State) (p : Nat) (c : Cmd) : Rte :=
  let f := fun o n => fld c.d.raw o n
  let P := getPart s p
  let kv := match selSlot s p with
    | some sl =>
      let h := hdrOf s sl
      (kvRowsOf h (f 0x18 4) (f 0x1C 4), kvRowsOf h (f 0x18 4) (f 0x1C 4) * h.nplane + occPages s sl h)
    | none => (0, 0)
  { part := p, model := f 0x10 2, steer := f 0x12 2, fn := c.d.fn, sq := c.d.sq, seq := c.d.seq, cid := f 2 2
    cq := ((findRing s .sub c.d.fn c.d.sq).map (·.cq)).getD 0, sring := f 0x14 2, limit := f 0x1C 4, hosttag := f 8 8
    seed := f 0x28 8, nprompt := f 0x18 4, prompt := f 0x20 8, kvRows := kv.1, resv := kv.2
    kvpt := 8 * Config.tableAt p (freeRte s) % 2 ^ 42, area := 4096 * Config.areaAt p (freeRte s) % 2 ^ 42
    dyn0 := { csn := P.cw, state := .open }, samp := c.buf, stopset := c.buf2, order := P.admitted }

/-- R211, R212: the decision on a REQUEST_OPEN. -/
def openRequest (s : State) (p : Nat) (c : Cmd) : State :=
  match admitCheck s p c with
  | some st => endCmdSt s c.id st
  | none =>
    let q := newRte s p c
    modPart (killCmd (setRte s (freeRte s) (some q)) c.id) p (fun P => { P with admitted := P.admitted + 1 })

/-- R232: a bind handed over before the open, to the index it names, still runs. -/
def awaitsBind (s : State) (c : Cmd) : Bool :=
  s.host.cmds.any (fun b => b.d.fn == c.d.fn && fld b.d.raw 0 1 == 0x12 && decide (b.id < c.id) &&
    fld b.d.raw 0x10 2 == fld c.d.raw 0x12 2)

/-- R213: REQUEST_OPENs are decided in fetch order, each once its blocks are read and its bind has ended. -/
def settleOpens (p : Nat) : Nat → State → State
  | 0, s => s
  | fuel + 1, s =>
    match s.host.cmds.find? (fun c => c.d.fn == p + 1 && fld c.d.raw 0 1 == 0x10) with
    | none => s
    | some c =>
      if c.buf.length = 16 ∧ c.buf2.length = 272 ∧ !awaitsBind s c then settleOpens p fuel (openRequest s p c) else s

def settle (s : State) (p : Nat) : State := settleOpens p s.host.cmds.length s

/-! ### Prefill -/

/-- R214: the prompt has been read. -/
def promptDone (s : State) (r : Nat) (bs : List Byte) : State :=
  match getRte s r with
  | none => s
  | some q =>
    let ids := (List.range q.nprompt).map (fun i => fld bs (4 * i) 4)
    let v := match selSlot s q.part with | some sl => (hdrOf s sl).v | none => 0
    let s := modRte s r (fun q => { q with ids := some ids })
    if ids.any (fun i => decide (v ≤ i)) then failReq s r 10 0x010B else s

/-- PROMPT_CHECK. -/
def execPromptCheck (rte : Nat) (s : State) : Host.Outcome State Fault Refusal :=
  match getRte s rte with
  | none => .next s
  | some q =>
    if !serving s ∨ (dynOf s q).state ≠ .open ∨ q.ids.isSome ∨ q.err.isSome ∨
        s.host.reads.any (fun r => r.use == .prompt rte) then .next s
    else
      let r := beginRead s q.part q.prompt (4 * q.nprompt) (.prompt rte)
      .next (match r.2 with
        | .now bs => promptDone r.1 rte bs
        | .pending => r.1
        | .fail st => failReq r.1 rte (rankOf st) st)

/-- Entries of the page table, up to position `t`, that map no page. -/
def unmapped (h : Hdr) (q : Rte) (t : Nat) : List Nat :=
  (List.range ((t / h.kvtok + 1) * h.nplane)).filter (fun e => SGet 0 q.pt e == 0)

/-- R218: a page of the KV pool: aligned, in the partition's data space, and nothing that firmware has placed there lies in
it (pages of requests, images, steering sets). -/
def pageFree (s : State) (p pg : Nat) : Bool :=
  pg % 65536 == 0 && rangeFree s p (holdings s p) pg 65536

/-- R218: pages mapped to the entries that need them, in ascending entry. -/
def mapPages (q : Rte) (es pgs : List Nat) : Rte :=
  { q with pt := (es.zip pgs).foldl (fun m e => SSet 0 m e.1 (e.2 / 65536 + 1)) q.pt }

/-- R391: in paced mode an interval begins 200 ticks after the latest commit. -/
def pacedReady (s : State) (p : Nat) : Bool := !s.power.paced || decide ((getPart s p).ctick + 200 ≤ s.tick)

/-- R213: the request whose prefill comes next: the earliest admitted that is in OPEN or PREFILL. -/
def nextPrefill (s : State) (p : Nat) : Option Nat :=
  let xs := (reqsOf s p).filter (fun e => ((dynOf s e.2).state == .open || (dynOf s e.2).state == .prefill) && e.2.err.isNone
    && e.2.cxlTick == 0 && !e.2.aborted)
  (xs.find? (fun e => xs.all (fun f => decide (e.2.order ≤ f.2.order)))).map (·.1)

/-- R289: a request that would use damaged data ends with the interval. -/
def damageCheck (s : State) (r : Nat) (q : Rte) : State :=
  let bad := match selSlot s q.part with | some sl => !sl.damaged.isEmpty | none => false
  let badSet := match SGet none (getPart s q.part).steers q.steer with | some t => t.damaged | none => false
  if bad then failReq s r 5 0x0402 else if badSet ∧ q.steer ≠ 0xFFFF then failReq s r 6 0x0401 else s

/-- The expert layers of the selected model. -/
def nxlOf (s : State) (p : Nat) : Nat := match selSlot s p with
  | some sl => let h := hdrOf s sl; if h.expOff = 0 then 0 else imgFld s sl (h.expOff + 6) 2
  | none => 0

/-- R250: the valid occupancy records of a request. -/
def occsOf (s : State) (q : Rte) : SMap Occ :=
  (List.range (nxlOf s q.part)).foldl (fun m x => SSet Occ.empty m x (validOcc (getPart s q.part).cw q x)) []

/-- R284: the configuration image of a role in a model, and in the selected model. -/
def roleIn (s : State) (sl : Slot) (role : Nat) : Nat :=
  ((List.range (hdrOf s sl).ncfg).find? (fun i => (cfgEnt s sl i).2.2 == role)).getD 0

def roleImage (s : State) (p role : Nat) : Nat := match selSlot s p with
  | some sl => roleIn s sl role
  | none => 0

/-- PREFILL_CHUNK_START: `count` positions of a request, with pages for the rows of the table it enters. -/
def execPrefillChunkStart (rte count : Nat) (pages : List Nat) (s : State) : Host.Outcome State Fault Refusal :=
  match getRte s rte with
  | none => .next s
  | some q =>
    let P := getPart s q.part
    match selSlot s q.part with
    | none => .next s
    | some sl =>
      let h := hdrOf s sl
      let d := dynOf s q
      let es := unmapped h q (d.prefilled + count - 1)
      if !serving s ∨ s.power.tstop ∨ P.serving.isNone ∨ P.chunk.isSome ∨ !P.runs.isEmpty ∨ nextPrefill s q.part ≠ some rte ∨
          q.ids.isNone ∨ count = 0 ∨ 2048 < count ∨ q.nprompt < d.prefilled + count ∨ !pacedReady s q.part ∨
          pages.length ≠ es.length ∨ !pages.all (pageFree s q.part) ∨ !pages.Nodup then .next s
      else
        let s := damageCheck s rte q
        let s := modRte s rte (fun q => mapPages q es pages)
        let s := modPart s q.part (fun P => { P with
          chunk := some { rte := rte, first := d.prefilled, count := count, start := s.tick, ready := s.tick, occ := occsOf s q }
          began := s.tick })
        .next (writeInputs s q.part (roleImage s q.part 1) .chunk)

/-! ### Commits -/

/-- R230: every REQUEST_CANCEL fetched for the partition up to tick `t` has been delivered. -/
def horizonAt (s : State) (p t : Nat) : Bool :=
  !s.host.handed.any (fun d => d.fn == p + 1 && fld d.raw 0 1 == 0x11 && decide (d.tick ≤ t))

/-- R231: the request is in the step in progress and its token was sampled before t_x, so the step's commit closes it. -/
def heldByStep (P : Part) (r : Nat) (q : Rte) : Bool := match P.step with
  | some t => t.rows.any (fun x => x.rte == r) && (match t.tout with | some o => decide (o < q.cxlTick) | none => false)
  | none => false

/-- R231, R245, R290: the requests that an error or a cancellation ends go to CLOSING at the commit `csn`. -/
def endings (s : State) (p csn : Nat) : State :=
  (reqsOf s p).foldl (fun s e =>
    match getRte s e.1 with
    | none => s
    | some q =>
      let st := (dynAt csn q).state
      if st = .free then s
      else if q.aborted then (if st = .closing then s else closeReq s csn e.1 7 8)
      else if st = .closing then s
      else match q.err with
        | some x =>
          if q.cxlTick ≠ 0 ∧ q.cxlTick ≤ x.tick then closeReq s csn e.1 6 0 else closeReq s csn e.1 7 x.status
        | none => if q.cxlTick ≠ 0 ∧ !heldByStep (getPart s p) e.1 q then closeReq s csn e.1 6 0 else s) s

/-- R403: at the first commit after entry to the thermal stop every other request closes with THERMAL_STOP. -/
def thermalEndings (s : State) (p csn : Nat) : State :=
  if s.power.tsParts.contains p then
    let s := (reqsOf s p).foldl (fun s e =>
      match getRte s e.1 with
      | none => s
      | some q => if (dynAt csn q).state = .closing then s else closeReq s csn e.1 7 0x010A) s
    modPow s (fun w => { w with tsParts := w.tsParts.filter (· != p) })
  else s

/-- R399: the energy of the interval divided among submission rings by weight; the remainder goes to the lowest ring. -/
def divideEnergy (s : State) (p : Nat) (ws : List (Nat × Nat)) : State :=
  if s.power.ecmode ≠ 1 then s
  else
    let E := (getPart s p).undivided
    let tot := (ws.map (·.2)).sum
    let add := fun (m : SMap Nat) k v => SSet 0 m k ((SGet 0 m k + v) % 2 ^ 64)
    modPart s p (fun P =>
      if tot = 0 then { P with undivided := 0, ringEnergy := add P.ringEnergy 65536 E }
      else
        let parts := ws.map (fun w => (w.1, E * w.2 / tot))
        let low := ws.foldl (fun m w => min m w.1) 65535
        let m := parts.foldl (fun m w => add m w.1 w.2) P.ringEnergy
        { P with undivided := 0, ringEnergy := add m low (E - (parts.map (·.2)).sum) })

/-- R366, R367, R437: units that rejoin at this boundary of their partition; the rows of a Copper unit return to it (R368). -/
def rejoinUnits (s : State) (p : Nat) : State :=
  let back := s.eng.rejoin.filter (fun u => u.1 == p)
  let s := back.foldl (fun s u => if u.2.1 = utGroup then modPart s p (fun P => { P with
    groups := putBits P.groups u.2.2 1 1, lostGroups := putBits P.lostGroups u.2.2 1 0 }) else s) s
  let s := modPart s p (fun P => { P with rowMoves := P.rowMoves.filter (fun n => !back.any (fun b => b.2 == (utCopper, n)) || fenced s utCopper n) })
  modEng s (fun e => { e with
    rejoin := e.rejoin.filter (fun u => u.1 != p)
    away := e.away.filter (fun u => !back.any (fun b => b.2.1 == u.1 && b.2.2 == u.2)) })

/-- R392: a chunk or step that a departure touched, or whose held periods passed the guard (CAUSE 3), is reported. -/
def logDeparture (s : State) (p : Nat) (touched : Bool) (cause : Nat) : State :=
  if touched then modPew s (fun w => { w with
    depLog := SSet none w.depLog w.depNext (some {
      tstart := if cause = 3 then s.tick else s.power.departed.getD s.power.lastDep.1
      tend := if cause = 3 then s.tick else if s.power.departed.isSome then 0 else s.power.lastDep.2
      csn := (getPart s p).cw
      part := p
      cause := cause })
    depNext := w.depNext + 1 })
  else s

/-- R211, R297: the requests that a function reset ended are FREE once their records are appended; the records stay held. -/
def freeAborted (s : State) (p : Nat) : State :=
  ((reqsOf s p).filter (fun e => e.2.aborted && (dynOf s e.2).state == .closing)).foldl (fun s e =>
    freeReq (modPart s p (fun P => { P with held := P.held.map (fun h => (h.1, if h.2 = some e.1 then none else h.2)) })) e.1) s

/-- R224, R241: the commit word rises, records of the requests that went to CLOSING are appended in ascending RTE index
and their completions fall due. No commit follows a PFW# hold (R248). -/
def commitWord (s : State) (p : Nat) : State :=
  if s.power.pfwAt.isSome then s
  else
    let csn := (getPart s p).cw + 1
    let s := thermalEndings (endings s p csn) p csn
    let s := modPart s p (fun P => { P with cw := csn, ctick := s.tick, discards := 0, failed := [] })
    let new := (reqsOf s p).filter (fun e => (dynOf s e.2).state == .closing && (dynOf s e.2).csn == csn)
    let s := new.foldl (fun s e => appendRecord s e.1) s
    let s := (new.filter (fun e => !e.2.aborted)).foldl (fun s e => dueComp s
      { fn := e.2.fn, sq := e.2.sq, seq := e.2.seq, cid := e.2.cid, status := e.2.status, req := some e.1 }) s
    let s := freeAborted s p
    rejoinUnits (if (reqsOf s p).any (fun e => e.2.aborted) then s else modPart s p (fun P => { P with hostCut := false })) p

/-- R250, R224: the occupancy copies that a commit writes. -/
def commitOcc (csn : Nat) (occ : SMap Occ) (q : Rte) : Rte :=
  occ.foldl (fun q e =>
    let o := { e.2 with csn := csn }
    let a := SGet Occ.empty q.occ0 e.1
    let b := SGet Occ.empty q.occ1 e.1
    if b.csn ≤ csn - 1 ∧ (a.csn < b.csn ∨ csn - 1 < a.csn) then { q with occ0 := SSet Occ.empty q.occ0 e.1 o }
    else { q with occ1 := SSet Occ.empty q.occ1 e.1 o }) q

/-- R226, R231, R245: the row of a request commits: it has no error, and no cancellation at or before t_o suppresses it. -/
def rowCommits (csn tout : Nat) (q : Rte) : Bool :=
  (validDyn (csn - 1) q).state != .closing && q.err.isNone && !q.aborted && !(q.cxlTick != 0 && decide (q.cxlTick ≤ tout))

/-- R226: what the commit of a step makes of one row of its batch. -/
def commitRow (csn tout : Nat) (notices : SMap Flg) (x : StepRow) (q : Rte) : Rte :=
  let d := validDyn (csn - 1) q
  if !rowCommits csn tout q then q
  else
    let flg := d.flg ||| x.flg ||| SGet 0 notices x.rte
    let st : RState := if x.stop ≠ 0 then .closing else .decode
    let q := commitOcc csn x.occ q
    match x.token with
    | none => writeDyn (csn - 1) q { d with csn := csn, state := st, stop := x.stop, flg := flg }
    | some t =>
      writeDyn (csn - 1)
        { q with toks := q.toks ++ [t]
                 ents := q.ents ++ [⟨t, d.ngen, decide (1 ≤ x.stop ∧ x.stop ≤ 4), csn⟩] }
        { d with csn := csn, state := st, stop := x.stop, flg := flg, ngen := d.ngen + 1 }

/-- R391: pace periods in a number of ticks. -/
def periodsIn (s : State) (ticks : Nat) : Nat := ticks * (80 + s.power.pace) / 10

/-- R391: the commit word may be issued: at max(ready, W + ⌈W/128⌉) periods after the start in paced mode. -/
def paceIssue (s : State) (start ready held : Nat) : Bool :=
  !s.power.paced || s.power.departed.isSome ||
    decide (max (periodsIn s (ready - start)) (periodsIn s (ready - start) - held + ceilDiv (periodsIn s (ready - start) - held) 128) ≤
      periodsIn s (s.tick - start))

/-- R252: the residual choices of a committed row join the drop counters. -/
def commitDrops (ds : SMap Nat) (P : Part) : Part :=
  { P with drops := ds.foldl (fun m e => SSet 0 m e.1 ((SGet 0 m e.1 + e.2) % 2 ^ 64)) P.drops }

/-- R41, R371: units of a partition out of service that served at its latest MODEL_SELECT. -/
def partShort (s : State) (p : Nat) : Bool :=
  (s.pew.fence ++ s.eng.away).any (fun u => (partOfUnit s u.1 u.2 == some p) && !(getPart s p).selOut.contains u) ||
    (getPart s p).lostGroups != 0

/-- R41: in paced mode Pewter reports a chunk or step that was replayed (1) or ran with a unit of its partition out of service
(2), by partition and CSN. -/
def logLong (s : State) (p : Nat) : State :=
  let P := getPart s p
  let why := if P.discards ≠ 0 then 1 else if partShort s p then 2 else 0
  if !s.power.paced ∨ why = 0 then s
  else modPew s (fun w => { w with longSteps := w.longSteps ++ [(p, P.cw + 1, why)] })

/-- R391: the periods held exceed the guard of the interval's active periods. -/
def beyondGuard (s : State) (start ready held : Nat) : Bool :=
  s.power.paced && held != 0 && decide (periodsIn s (ready - start) < held * 129)

/-- R392: the report of a chunk or step that a departure touched, or whose held periods exceed the guard. -/
def reportTiming (s : State) (p : Nat) (departed : Bool) (start ready held : Nat) : State :=
  let dep := departed || s.power.departed.isSome
  logLong (logDeparture s p (dep || beyondGuard s start ready held) (if dep then s.power.depCause else 3)) p

/-- R194, R221: every layer of the image of a role has run in a context. -/
def imageRan (s : State) (p role : Nat) (ran : SMap Nat) : Bool :=
  match selSlot s p with
  | some sl => match cfgImage s p ((getPart s p).sel.getD 0) (roleImage s p role) with
    | some x => decide (nLayers s x.1 ≤ skipLayers (expertLayers s sl) 4096 (SGet 0 ran (roleImage s p role)))
    | none => false
  | none => false

/-- A half among those of the chunk and the step in progress: the exchange batch, the expert layer and the half. -/
def halfKey (chunk : Bool) (pos0 xl half : Nat) : Nat := ((2 * pos0 + b2n chunk) * 256 + xl) * 2 + half

/-- R255, R259: every half of an exchange batch of `n` rows has been combined at every expert layer. -/
def batchJoined (nxl : Nat) (joined : List Nat) (chunk : Bool) (pos0 n : Nat) : Bool :=
  (List.range nxl).all (fun x => joined.contains (halfKey chunk pos0 x 0) && (decide (n < 2) || joined.contains (halfKey chunk pos0 x 1)))

/-- R221, R225: a chunk has run whole: its layers, and its exchange batches at every expert layer. -/
def chunkRan (s : State) (p : Nat) (k : Chunk) : Bool :=
  imageRan s p 1 k.ran && (List.range (ceilDiv k.count 256)).all (fun b =>
    batchJoined (nxlOf s p) k.joined true (k.first + 256 * b) (min 256 (k.count - 256 * b)))

/-- R230, R362: nothing stands against a commit of a partition at output tick `o`. -/
def commitClear (s : State) (p o : Nat) : Bool := serving s && noReports s p && horizonAt s p o && (getPart s p).halves.isEmpty

/-- PREFILL_CHUNK_COMMIT: the layers of the PREFILL image have run over the chunk (R220, R221). -/
def execPrefillChunkCommit (part : Nat) (s : State) : Host.Outcome State Fault Refusal :=
  let P := getPart s part
  match P.chunk with
  | none => .next s
  | some k =>
    if !commitClear s part s.tick ∨ !chunkRan s part k ∨
        (!k.departed ∧ !paceIssue s k.start k.ready k.held) then .next s
    else
      let csn := P.cw + 1
      let s := match getRte s k.rte with | some q => damageCheck s k.rte q | none => s
      let ok := match getRte s k.rte with | some q => rowCommits csn s.tick q && q.cxlTick == 0 | none => false
      let s := modRte s k.rte (fun q =>
        let d := validDyn P.cw q
        if !ok then q
        else
          let fin := decide (q.nprompt ≤ k.first + k.count)
          writeDyn P.cw (commitOcc csn k.occ { q with readyAt := if fin then P.readied else q.readyAt })
            { d with csn := csn, state := if fin then .ready else .prefill, prefilled := k.first + k.count
                     flg := d.flg ||| k.flg ||| SGet 0 P.notices k.rte })
      let sq := match getRte s k.rte with | some q => q.sq | none => 0
      let s := divideEnergy s part [(sq, k.count)]
      let s := reportTiming s part k.departed k.start k.ready k.held
      let s := modPart s part (fun P => commitDrops (if ok then k.drops else []) { P with
        chunk := none, readied := P.readied + 1, notices := SErase P.notices k.rte })
      .next (settle (commitWord s part) part)

/-- R225: the batch of a step: the requests in DECODE with room for entries (R227), then READY ones as they became so. -/
def batchOf (s : State) (p : Nat) : List Nat :=
  let rs := (reqsOf s p).filter (fun e => decide (e.2.ents.length < 64) && !e.2.aborted)
  let dec := (rs.filter (fun e => (dynOf s e.2).state == .decode)).map (·.1)
  let rdy := (rs.filter (fun e => (dynOf s e.2).state == .ready)).map (fun e => (e.1, -((e.2.readyAt : Int))))
  (dec ++ (sortDesc rdy).map (·.1)).take 256

/-- R225: the page-table entries each request of the batch needs for its input position. -/
def stepNeeds (s : State) (h : Hdr) (rs : List Nat) : List (Nat × Nat) :=
  rs.flatMap (fun r => match getRte s r with
    | some q => (unmapped h q (q.nprompt - 1 + (dynOf s q).ngen)).map (fun e => (r, e))
    | none => [])

/-- R217: the walker on the slices that a row of a step writes; a refusal ends the request with KV_PAGE_FAULT. -/
def kvCheck (s : State) (h : Hdr) (r : Nat) : State :=
  match getRte s r with
  | none => s
  | some q =>
    if (List.range h.nplane).all (fun l => (kvWalk h q (q.nprompt - 1 + (dynOf s q).ngen) l 0).isSome) then s
    else kvRefused s r q.part false

/-- DECODE_STEP_START: `pages` maps the entries the step enters; `bad` is a Copper unit whose checks disagree (R361).
DEDUCED: log entry 23. -/
def execDecodeStepStart (part : Nat) (pages : List (Nat × Nat)) (bad : Option Nat) (s : State) : Host.Outcome State Fault Refusal :=
  let P := getPart s part
  match selSlot s part with
  | none => .next s
  | some sl =>
    let rs := batchOf s part
    let h := hdrOf s sl
    let need := stepNeeds s h rs
    if !serving s ∨ P.serving.isNone ∨ P.step.isSome ∨ !pacedReady s part ∨
        s.power.tstop ∨ pages.map (·.1) ≠ need.map (·.1) ∨
        !(pages.map (·.2)).all (pageFree s part) ∨ !(pages.map (·.2)).Nodup then .next s
    else
      let s := (need.zip pages).foldl (fun s x => modRte s x.1.1 (fun q => mapPages q [x.1.2] [x.2.2])) s
      let s := rs.foldl (fun s r => match getRte s r with | some q => kvCheck (damageCheck s r q) h r | none => s) s
      let s := modPart s part (fun P => { P with step := some { rows := rs.map (fun r => { rte := r }), start := s.tick }, began := s.tick })
      let s := if rs.isEmpty then s else writeInputs s part (roleImage s part 2) .step
      .next (match bad with
        | none => s
        | some u => if decide (u < 384) && partOfGroup s (u / 8) == some part then reportError s utCopper 0x01 u 0 else s)

/-- R228: the stop matcher on token `n`, after the token is sampled. -/
def stopOf (q : Rte) (ctxmax n tok : Nat) : Nat :=
  let hist := q.toks ++ [tok]
  let hit := (List.range (fld q.stopset 4 1)).any (fun i =>
    let k := stopLen q.stopset i
    decide (k ≤ n + 1) && hist.drop (n + 1 - k) == stopSeq q.stopset i)
  if tok = fld q.stopset 0 4 ∧ fld q.stopset 0 4 ≠ 0xFFFFFFFF then 1
  else if hit then 2
  else if n + 1 = q.limit then 3
  else if n + 1 = ctxmax - q.nprompt + 1 then 4
  else 0

def sampOf (b : List Byte) : SampBlk := ⟨fld b 0 1, fld b 2 2, fld b 4 4, fld b 8 4⟩

/-- R225 items 3: one row's token, stop and flags. -/
def sampleRow (s : State) (P : Part) (h : Hdr) (r off : Nat) : StepRow :=
  match getRte s r with
  | none => { rte := r }
  | some q =>
    let f := Fmt.ofCode (h.hfmt % 8)
    let flush := bit (P.serving.getD 0) 0
    let n := (dynOf s q).ngen
    let z := rowElems f h.v (memGet s off (ceilDiv (h.v * f.width) 8))
    let x := sample flush f z (sampOf q.samp) (BitVec.ofNat 64 q.seed) n
    match x.1 with
    | none => { rte := r, stop := 5, flg := x.2 }
    | some t => { rte := r, token := some t, stop := stopOf q h.ctxmax n t, flg := x.2 }

/-- R225: every layer of the DECODE image has run, and each request of the batch has its logits row. -/
def stepReady (s : State) (p : Nat) (t : DStep) : Bool :=
  t.rows.isEmpty || (imageRan s p 2 t.ran && batchJoined (nxlOf s p) t.joined false 0 t.rows.length &&
    t.rows.all (fun x => SGet 0 t.logits x.rte != 0))

/-- DECODE_STEP_OUTPUT. -/
def execDecodeStepOutput (part : Nat) (s : State) : Host.Outcome State Fault Refusal :=
  let P := getPart s part
  match P.step, selSlot s part with
  | some t, some sl =>
    let h := hdrOf s sl
    if !serving s ∨ t.tout.isSome ∨ !P.halves.isEmpty ∨ !stepReady s part t then .next s
    else
      .next (modPart s part (fun P => { P with step := some { t with
        rows := t.rows.map (fun x =>
          let y := sampleRow s P h x.rte (SGet 0 t.logits x.rte - 1)
          { y with flg := y.flg ||| x.flg, occ := x.occ, drops := x.drops })
        tout := some s.tick } }))
  | _, _ => .next s

/-- DECODE_STEP_COMMIT. DEDUCED: log entry 23. -/
def execDecodeStepCommit (part : Nat) (s : State) : Host.Outcome State Fault Refusal :=
  let P := getPart s part
  match P.step with
  | none => .next s
  | some t => match t.tout with
    | none => .next s
    | some o =>
      if !commitClear s part o ∨ (!t.departed ∧ !paceIssue s t.start o t.held) then .next s
      else
        let csn := P.cw + 1
        let s := t.rows.foldl (fun s x => match getRte s x.rte with | some q => damageCheck s x.rte q | none => s) s
        let ok := t.rows.filter (fun x => match getRte s x.rte with | some q => rowCommits csn o q | none => false)
        let s := t.rows.foldl (fun s x => modRte s x.rte (commitRow csn o P.notices x)) s
        let ws := t.rows.filterMap (fun x => (getRte s x.rte).map (fun q => (q.sq, 1)))
        let s := reportTiming (divideEnergy s part ws) part t.departed t.start o t.held
        let s := modPart s part (fun P => commitDrops (ok.flatMap (·.drops)) { P with
          step := none, ctxFlg := P.ctxFlg ||| t.flg, notices := t.rows.foldl (fun m x => SErase m x.rte) P.notices })
        .next (settle (commitWord s part) part)

/-! ### What the queue engine writes (R44, R227, R305–R307) -/

/-- Host writes of a function are possible: the link is up, and its partition exists. -/
def mayWrite (s : State) (fn : Nat) : Bool :=
  s.host.dlActive && s.power.pg && !s.power.perst && SGet 0 s.power.held 112 == 0 &&
    (fn == 0 || (getFn s fn).enabled && (getPart s (fn - 1)).phase != .absent)

/-- R306: on a ring that requests share, entries are written in the order of their commits, and those of one commit in
ascending RTE: no other request's next entry comes before this one. -/
def entryFirst (s : State) (rte : Nat) (q : Rte) (e : StreamEnt) : Bool :=
  s.rtes.all (fun x => match x.2 with
    | some r => r.fn != q.fn || r.sring != q.sring || x.1 == rte || (match r.ents with
      | [] => true
      | d :: _ => decide (e.csn < d.csn ∨ (e.csn = d.csn ∧ rte < x.1)))
    | none => true)

/-- STREAM_ENTRY_WRITE. -/
def execStreamEntryWrite (rte : Nat) (s : State) : Host.Outcome State Fault Refusal :=
  match getRte s rte with
  | none => .next s
  | some q => match q.ents, findRing s .stream q.fn q.sring with
    | e :: es, some r =>
      if !mayWrite s q.fn ∨ !r.room ∨ !entryFirst s rte q e then .next s
      else
        let b := leBytes 8 q.hosttag ++ leBytes 4 e.token ++ leBytes 4 (e.n % 2 ^ 20 + 2 ^ 20 * b2n e.last)
        .next (ringWrite (modRte s rte (fun q => { q with ents := es })) .stream q.fn q.sring b)
    | _, _ => .next s

/-- R44, R231: everything that must precede a completion has been written. -/
def compReady (s : State) (c : Comp) : Bool :=
  (match c.req with
    | none => true
    | some r => match getRte s r with
      | none => true
      | some q => q.ents.isEmpty && (q.recorded || !q.appended && ((getPart s q.part).phase == .faulted || s.power.pfwAt.isSome))) &&
  (match c.cancel with
    | none => true
    | some r => (getRte s r).isNone)

/-- The completion ring of a submission ring. -/
def cqOf (s : State) (fn sq : Nat) : Nat := ((findRing s .sub fn sq).map (·.cq)).getD 0

/-- R305: the 16 bytes of a completion; a request's own figures are those of its last dynamic block. -/
def compBytes (s : State) (c : Comp) : List Byte :=
  let d := (c.req.bind (getRte s)).map (dynOf s)
  let stop := match d with | some d => if c.status = 0x0109 then 8 else d.stop | none => c.stop
  let pf := decide (c.status = 0x0601)
  let flg := match d with | some d => if pf then 0 else d.flg.toNat | none => c.flg
  let info := match d with | some d => if pf then 0 else d.ngen | none => c.info
  leBytes 2 c.cid ++ leBytes 2 c.sq ++ leBytes 2 c.status ++ leBytes 1 stop ++ leBytes 1 flg ++ leBytes 4 info ++
    leBytes 4 (c.info2 % 2 ^ 31)

/-- R303: room for a completion: a reserved slot, or one beyond every reservation. -/
def compRoom (r : Ring) (c : Comp) : Bool :=
  if c.held then r.room else decide ((r.cnt - r.idx).toNat + r.resv < r.slots)

/-- R312: some descriptor fetched from a submission ring has not completed. -/
def ringBusy (s : State) (fn sq : Nat) : Bool :=
  s.host.handed.any (fun d => d.fn == fn && d.sq == sq) || s.host.cmds.any (fun c => c.d.fn == fn && c.d.sq == sq) ||
    s.host.comps.any (fun c => c.fn == fn && c.sq == sq) || s.host.reads.any (fun r => r.use == .desc fn sq) ||
    s.rtes.any (fun e => match e.2 with | some q => q.fn == fn && q.sq == sq | none => false)

/-- R399: a deleted submission ring's energy counter is added to IDLE. -/
def deleteRing (s : State) (k : RingKind) (fn id : Nat) : State :=
  let s := modHost s (fun h => { h with rings := h.rings.filter (fun r => !(r.kind == k && r.fn == fn && r.id == id)) })
  if k = .sub ∧ 0 < fn then modPart s (fn - 1) (fun P => { P with
    ringEnergy := SSet 0 (SSet 0 P.ringEnergy 65536 ((SGet 0 P.ringEnergy 65536 + SGet 0 P.ringEnergy id) % 2 ^ 64)) id 0 })
  else s

/-- R312: a QUEUE_DELETE of a submission ring completes once every descriptor fetched from the ring has completed. -/
def settleDelete (s : State) (c : Cmd) : State :=
  if fld c.d.raw 0 1 = 2 ∧ !ringBusy s c.d.fn (fld c.d.raw 0x12 2) then
    endCmdSt (deleteRing s .sub c.d.fn (fld c.d.raw 0x12 2)) c.id 0
  else s

def settleDeletes (s : State) (fn : Nat) : State := (s.host.cmds.filter (fun c => c.d.fn == fn)).foldl settleDelete s

/-- R303, R305: the next completion of a completion ring: the oldest whose command is complete; one of R301, which reserved no
slot, lets those with a slot pass while it has no room. -/
def nextComp (s : State) (fn cq : Nat) (r : Ring) : Option Comp :=
  s.host.comps.find? (fun c => c.fn == fn && cqOf s fn c.sq == cq && compReady s c && (c.held || compRoom r c))

/-- COMPLETION_WRITE. -/
def execCompletionWrite (fn cq : Nat) (s : State) : Host.Outcome State Fault Refusal :=
  match (findRing s .comp fn cq).bind (fun r => (nextComp s fn cq r).map (fun c => (r, c))) with
  | some (r, c) =>
    if !mayWrite s fn ∨ !compRoom r c then .next s
    else
      let b := compBytes s c
      let s := modHost s (fun h => { h with comps := dropFirst (· == c) h.comps })
      let s := if c.held then modRing s .comp fn cq (fun r => { r with resv := r.resv - 1 }) else s
      let s := ringWrite s .comp fn cq b
      .next (settleDeletes (match c.req with | some q => freeReq s q | none => s) fn)
  | none => .next s

/-- RECORD_RING_WRITE. -/
def execRecordRingWrite (part : Nat) (s : State) : Host.Outcome State Fault Refusal :=
  match (getPart s part).held, findRing s .record (part + 1) 0 with
  | h :: hs, some r =>
    if !mayWrite s (part + 1) ∨ !r.room then .next s
    else
      let s := modPart s part (fun P => { P with held := hs })
      let s := match h.2 with | some q => modRte s q (fun q => { q with recorded := true }) | none => s
      .next (ringWrite s .record (part + 1) 0 (h.1 ++ zeros 64))
  | _, _ => .next s

end Sys2Proof.Machine
end

