-- ==== Sys2Proof/Machine/Vector.lean ====
section
/-! DEFINITION. The vector engine (R132 to R144): the check of an instruction, its operands and its effect. -/

namespace Sys2Proof.Machine

/-! ### Fields and the check of R136 -/

def vOpc (w : Nat) : Nat := bits w 58 6
def vTD (w : Nat) : Nat := bits w 54 4
def vTA (w : Nat) : Nat := bits w 50 4
def vTB (w : Nat) : Nat := bits w 46 4
def vTC (w : Nat) : Nat := bits w 42 4
def vFmt (w : Nat) : Fmt := Fmt.ofCode (bits w 39 3)
def vFmtD (w : Nat) : Fmt := Fmt.ofCode (bits w 36 3)
def vOvm (w : Nat) : Nat := bits w 34 2
def vRnd (w : Nat) : Bool := bit w 33
def vSset (w : Nat) : Nat := bits w 0 2

/-- Masks of the fields of R134. -/
def mTD : Nat := 15 * 2 ^ 54
def mTA : Nat := 15 * 2 ^ 50
def mTB : Nat := 15 * 2 ^ 46
def mTC : Nat := 15 * 2 ^ 42
def mFMT : Nat := 7 * 2 ^ 39
def mFMTD : Nat := 7 * 2 ^ 36
def mOVM : Nat := 3 * 2 ^ 34
def mRND : Nat := 2 ^ 33

/-- R135: the bits an opcode uses; none for a reserved opcode. -/
def vMask (w : Nat) : Option Nat :=
  match vOpc w with
  | 0x00 => some 0
  | 0x01 => some (mTD + 0xFFFFFFFF)
  | 0x02 => some (mTA + 0xFFFFFFFF)
  | 0x03 => some (mTD + mTA)
  | 0x04 => some 0x3F3F
  | 0x05 => some 0xE001FFFF
  | 0x06 => some 0xE003FFFF
  | 0x07 => some (mTD + mFMT + (2 ^ (vFmt w).width - 1))
  | 0x08 => some (mTD + mTA + mTB)
  | 0x09 => some (mTD + mTA + mTB)
  | 0x0A => some (mTD + mTA + mTB)
  | 0x0B => some (mTD + mTA)
  | 0x0C => some (mTD + mTA + mTB + mFMT + 0x3F)
  | 0x0D => some (mTD + mTA + mTB + mFMT + 0x3F)
  | 0x0E => some (mTD + mTA + mTB + mFMT + 0x3F)
  | 0x10 => some (mTD + mTA + mTB + mFMT + mOVM)
  | 0x11 => some (mTD + mTA + mTB + mFMT + mOVM)
  | 0x12 => some (mTD + mTA + mTB + mFMT + mOVM)
  | 0x13 => some (mTD + mTA + mTB + mFMT + mOVM + 0x3F)
  | 0x14 => some (mTD + mTA + mTB + mFMT)
  | 0x15 => some (mTD + mTA + mTB + mFMT)
  | 0x16 => some (mTD + mTA + mTB + mFMT + 7)
  | 0x17 => some (mTD + mTA + mTB + mTC + mFMT)
  | 0x18 => some (mTD + mTA + mFMT + mFMTD + mOVM + mRND + 7)
  | 0x19 => some (mTD + mTA + mTB + mFMT + mFMTD + 7)
  | 0x1A => some (mTD + mTA + mFMT)
  | 0x1B => some (mTA + mFMT + 7)
  | 0x1C => some (mTD + mFMT + 15)
  | 0x1D => some (mTD + mFMT)
  | 0x20 => some 0xFFFF000F
  | 0x21 => some 0xFFFF000F
  | 0x22 => some 0xFFFF0003
  | 0x23 => some 0x03FF0003
  | 0x24 => some 0
  | _ => none

/-- R138: the number of parts of a width-changing instruction. -/
def partsOf (f g : Fmt) : Nat := max f.width g.width / min f.width g.width

/-- R137: conditions on FMT, codes and IMM values, by opcode. -/
def vCodes (c : Core) (w : Nat) : Bool :=
  let f := vFmt w
  let o := vOpc w
  if o = 0x04 then decide (1 ≤ bits w 8 6 ∧ bits w 8 6 ≤ 32 ∧ 1 ≤ bits w 0 6 ∧ bits w 0 6 ≤ 32)
  else if 0x0C ≤ o ∧ o ≤ 0x0E then f.isInt
  else if 0x10 ≤ o ∧ o ≤ 0x13 then f.isInt && vOvm w != 3
  else if o = 0x16 then decide (bits w 0 3 ≤ 5)
  else if o = 0x18 then vOvm w != 3 && decide (bits w 0 3 < partsOf f (vFmtD w))
  else if o = 0x19 then f.isInt && decide (bits w 0 3 < partsOf f (vFmtD w))
  else if o = 0x1A then f.isInt
  else if o = 0x1B then (!bit w 2 || (SGet {} c.sums (vSset w)).fmt == f) && 8 * c.nb % f.width == 0
  else if o = 0x1C then
    if bits w 2 2 = 0 then f == (SGet {} c.sums (vSset w)).fmt else f == .i32 || f == .f32
  else if o = 0x1D then f == .i32
  else if o = 0x22 then bits w 16 16 != 0
  else true

/-- R136: the instruction is legal. -/
def vLegal (c : Core) (w : Nat) : Bool :=
  match vMask w with
  | none => false
  | some m => BitVec.ofNat 64 (w % 2 ^ 58) &&& ~~~(BitVec.ofNat 64 m) == 0#64 && vCodes c w

/-! ### Tile registers (R132, R133) -/

def Core.t (c : Core) (n : Nat) : Nat := (SGet 0#8192 c.tregs n).toNat
def Core.rowF (c : Core) (n r : Nat) : Flg := SGet 0 c.rowFlg (32 * n + r)

/-- Element k of a register in elements of `w` bits. -/
def Core.el (c : Core) (n w k : Nat) : Nat := bits (c.t n) (k * w) w

/-- The number whose elements of `w` bits these are, first element lowest. -/
def packElems (w : Nat) : List Nat → Nat
  | [] => 0
  | x :: xs => x % 2 ^ w + 2 ^ w * packElems w xs

/-- The flags of elements of one row joined. -/
def rowJoin (w r : Nat) (es : List (Nat × Flg)) : Flg :=
  ((es.drop (r * (256 / w))).take (256 / w)).foldl (fun f e => f ||| e.2) 0

def setT (c : Core) (n v : Nat) : Core := { c with tregs := SSet 0#8192 c.tregs n (BitVec.ofNat 8192 v) }
def setRowF (c : Core) (n r : Nat) (f : Flg) : Core := { c with rowFlg := SSet 0 c.rowFlg (32 * n + r) f }

/-- A whole register written from its elements, each with the flags that reach its row. -/
def putElems (c : Core) (n w : Nat) (es : List (Nat × Flg)) : Core :=
  (List.range 32).foldl (fun c r => setRowF c n r (rowJoin w r es)) (setT c n (packElems w (es.map (·.1))))

/-- R137: an element-wise instruction: `f` gives element k and the flags its arithmetic raised; `src` are the registers that
supplied it. -/
def ewise (c : Core) (n w : Nat) (src : Nat → List Nat) (f : Nat → Nat × Flg) : Core :=
  putElems c n w ((List.range (8192 / w)).map (fun k =>
    let x := f k
    (x.1, (src k).foldl (fun fl r => fl ||| c.rowF r (k * w / 256)) x.2)))

/-! ### Running one instruction -/

/-- R58: the mode of the context a core works for. -/
def coreMode (s : State) (n : Nat) : Mode :=
  Mode.ofWord (match ctxOfCore s n with
    | some (p, .run id) => match (getPart s p).runs.find? (fun r => r.cmd == id) with
      | some r => r.mode
      | none => 0
    | some (p, _) => (getPart s p).serving.getD 0
    | none => 0)

/-- The engine runs a program, waits for nothing and is not held. -/
def vecReady (s : State) (n : Nat) : Bool :=
  (getCore s n).busy && (getCore s n).vwait.isNone && !coreHeld s n

/-- R124, R136: the program stops on a fault. -/
def vecFault (s : State) (n cause st : Nat) : State :=
  coreFault (modCore s n (fun c => { c with busy := false, fault := true, fcause := cause, vlast := c.vpc })) n st

/-- The next instruction when it is of the opcode; an illegal instruction stops the engine, whatever the opcode asked. -/
def vecRun (opc n : Nat) (f : Nat → State → State) (s : State) : State :=
  let c := getCore s n
  let w := (SGet 0#64 c.vim c.vpc).toNat
  if !vecReady s n then s
  else if !vLegal c w then vecFault s n 1 0x0204
  else if vOpc w ≠ opc then s
  else f w (modCore s n (fun c => { c with vlast := c.vpc, vpc := (c.vpc + 1) % 1024 }))

def coreOk (n : Nat) : Bool := decide (n < 4096)

/-- An instruction that acts on the core alone. -/
def vecPure (opc n : Nat) (f : Mode → Nat → Core → Core) (s : State) : Host.Outcome State Fault Refusal :=
  onUnit (coreOk n) (vecRun opc n (fun w s => modCore s n (f (coreMode s n) w)) s)

/-- An arithmetic instruction, with a disagreement of its checks (R361). -/
def vecArith (opc n : Nat) (bad : Bool) (f : Mode → Nat → Core → Core) (s : State) : Host.Outcome State Fault Refusal :=
  onUnit (coreOk n) (vecRun opc n (fun w s =>
    let s := modCore s n (f (coreMode s n) w)
    if bad then reportError s utCore 0x01 n 0 else s) s)

/-! ### Loads, stores and addresses -/

/-- R137: the address of word `i` of row `r` of a VLD or VST. -/
def vAddr (c : Core) (w r i : Nat) : Nat :=
  (SGet 0#17 c.a (bits w 29 3)).toNat + bits w 0 16 + r * (if bits w 16 12 = 0 then 8 else bits w 16 12) + i

def vInc (c : Core) (w : Nat) : Core :=
  if bit w 28 then
    { c with
      a := SSet 0#17 c.a (bits w 29 3)
        (SGet 0#17 c.a (bits w 29 3) + BitVec.ofNat 17 (32 * (if bits w 16 12 = 0 then 8 else bits w 16 12))) }
  else c

/-- VLD. -/
def vldWords (c : Core) (w : Nat) : List Nat := (List.range 32).flatMap (fun r => (List.range 8).map (vAddr c w r))

def vldPut (w : Nat) (c : Core) : Core :=
  let es := (vldWords c w).map (fun a => (spadGet c a, (0 : Flg)))
  vInc (putElems c (vTD w) 32 es) w

/-- A vector access that is not performed: a fault, or a wait for the check of a tile with the instruction still to come. -/
def vecAcc (s0 s : State) (n : Nat) (x : Acc) : State :=
  match x with
  | .ok => s
  | .waits e => modCore s0 n (fun c => startCheck c e)
  | .bad k => vecFault s0 n k 0x0203

/-- VLD: `upset` names the words read that hold bits in error, with how many (R125). -/
def execVld (core : Nat) (upset : List (Nat × Nat)) (s : State) : Host.Outcome State Fault Refusal :=
  onUnit (coreOk core) (vecRun 0x01 core (fun w t =>
    let c := getCore s core
    let as := vldWords c w
    let u := upsets t core upset as
    vecAcc s (if u.2 then (upsets s core upset as).1 else modCore u.1 core (vldPut w)) core
      (firstAcc (readAcc c 38) as)) s)

/-- R137: the words and bytes a VST writes: address, byte mask, row and word. -/
def vstWords (c : Core) (w : Nat) : List (Nat × Nat × Nat × Nat) :=
  (List.range c.nr).flatMap (fun r => (List.range (ceilDiv c.nb 4)).map (fun i =>
    (vAddr c w r i, min 4 (c.nb - 4 * i), r, i)))

def vstPut (w : Nat) (c : Core) : Core :=
  vInc (spadPuts c ((vstWords c w).map (fun x =>
    let v := c.el (vTA w) 32 (8 * x.2.2.1 + x.2.2.2)
    (x.1, putBits (spadGet c x.1) 0 (8 * x.2.1) v)))) w

/-- R133: flag notices of the stored rows. -/
def vstNotices (s : State) (n w : Nat) : State :=
  let c := getCore s n
  (List.range c.nr).foldl (fun s r =>
    let f := c.rowF (vTA w) r
    if f = 0 then s
    else tinSend s { dst := cobEp (n / 64), src := n, typ := 0x05, part := (partOfSector s (n / 64)).getD 0
                     arg := SGet 0 c.rowtag r + 65536 * f.toNat }) s

/-- VST. -/
def execVst (core : Nat) (s : State) : Host.Outcome State Fault Refusal :=
  onUnit (coreOk core) (vecRun 0x02 core (fun w t =>
    let c := getCore s core
    vecAcc s (vstNotices (modCore t core (vstPut w)) core w) core (firstAcc (writeAcc c 39) ((vstWords c w).map (·.1)))) s)

/-- VNOP. -/
def execVnop (core : Nat) (s : State) : Host.Outcome State Fault Refusal := vecPure 0x00 core (fun _ _ c => c) s

/-- VMOV. -/
def execVmov (core : Nat) (s : State) : Host.Outcome State Fault Refusal :=
  vecPure 0x03 core (fun _ w c => ewise c (vTD w) 32 (fun _ => [vTA w]) (fun k => (c.el (vTA w) 32 k, 0))) s

/-- VSETX. -/
def execVsetx (core : Nat) (s : State) : Host.Outcome State Fault Refusal :=
  vecPure 0x04 core (fun _ w c => { c with nr := bits w 0 6, nb := bits w 8 6 }) s

/-- VSETA. -/
def execVseta (core : Nat) (s : State) : Host.Outcome State Fault Refusal :=
  vecPure 0x05 core (fun _ w c => { c with a := SSet 0#17 c.a (bits w 29 3) (BitVec.ofNat 17 (bits w 0 17)) }) s

/-- VADDA. -/
def execVadda (core : Nat) (s : State) : Host.Outcome State Fault Refusal :=
  vecPure 0x06 core (fun _ w c => { c with
    a := SSet 0#17 c.a (bits w 29 3) (SGet 0#17 c.a (bits w 29 3) + BitVec.ofInt 17 (sext 18 (bits w 0 18))) }) s

/-- VSPLAT. -/
def execVsplat (core : Nat) (s : State) : Host.Outcome State Fault Refusal :=
  vecPure 0x07 core (fun _ w c => ewise c (vTD w) (vFmt w).width (fun _ => []) (fun _ => (bits w 0 (vFmt w).width, 0))) s

/-! ### Logic and shifts -/

/-- A bitwise instruction on words. -/
def vLogic (f : Word → Word → Word) (w : Nat) (c : Core) : Core :=
  ewise c (vTD w) 32 (fun _ => [vTA w, vTB w]) (fun k =>
    ((f (BitVec.ofNat 32 (c.el (vTA w) 32 k)) (BitVec.ofNat 32 (c.el (vTB w) 32 k))).toNat, 0))

/-- VAND. -/
def execVand (core : Nat) (s : State) : Host.Outcome State Fault Refusal := vecPure 0x08 core (fun _ => vLogic (· &&& ·)) s
/-- VOR. -/
def execVor (core : Nat) (s : State) : Host.Outcome State Fault Refusal := vecPure 0x09 core (fun _ => vLogic (· ||| ·)) s
/-- VXOR. -/
def execVxor (core : Nat) (s : State) : Host.Outcome State Fault Refusal := vecPure 0x0A core (fun _ => vLogic (· ^^^ ·)) s

/-- VNOT. -/
def execVnot (core : Nat) (s : State) : Host.Outcome State Fault Refusal :=
  vecPure 0x0B core (fun _ w c => ewise c (vTD w) 32 (fun _ => [vTA w]) (fun k =>
    ((~~~(BitVec.ofNat 32 (c.el (vTA w) 32 k))).toNat, 0))) s

/-- R137: an element of `n` bits shifted: 0 left, 1 right with zero fill, 2 right with sign fill. -/
def shiftElem (kind n x amt : Nat) : Nat :=
  if kind = 0 then (if n ≤ amt then 0 else x * 2 ^ amt % 2 ^ n)
  else if kind = 1 then (if n ≤ amt then 0 else x / 2 ^ amt)
  else wrapInt n (sext n x / ((2 ^ min amt n : Nat) : Int))

def vShift (kind w : Nat) (c : Core) : Core :=
  let n := (vFmt w).width
  ewise c (vTD w) n (fun _ => if bit w 5 then [vTA w, vTB w] else [vTA w]) (fun k =>
    (shiftElem kind n (c.el (vTA w) n k) (if bit w 5 then c.el (vTB w) n k else bits w 0 5), 0))

/-- VSHL. -/
def execVshl (core : Nat) (s : State) : Host.Outcome State Fault Refusal := vecPure 0x0C core (fun _ => vShift 0) s
/-- VSHR. -/
def execVshr (core : Nat) (s : State) : Host.Outcome State Fault Refusal := vecPure 0x0D core (fun _ => vShift 1) s
/-- VSRA. -/
def execVsra (core : Nat) (s : State) : Host.Outcome State Fault Refusal := vecPure 0x0E core (fun _ => vShift 2) s

/-! ### Arithmetic -/

/-- R74: an exact integer operation brought into the format's range. -/
def vInt (op : Int → Int → Int) (md : Mode) (w : Nat) (c : Core) : Core :=
  let n := (vFmt w).width
  ewise c (vTD w) n (fun _ => [vTA w, vTB w]) (fun k =>
    intFit n (ovmWraps md (vOvm w)) (op (sext n (c.el (vTA w) n k)) (sext n (c.el (vTB w) n k))))

/-- VADD. -/
def execVadd (core : Nat) (bad : Bool) (s : State) : Host.Outcome State Fault Refusal := vecArith 0x10 core bad (vInt (· + ·)) s
/-- VSUB. -/
def execVsub (core : Nat) (bad : Bool) (s : State) : Host.Outcome State Fault Refusal := vecArith 0x11 core bad (vInt (· - ·)) s
/-- VMUL. -/
def execVmul (core : Nat) (bad : Bool) (s : State) : Host.Outcome State Fault Refusal := vecArith 0x12 core bad (vInt (· * ·)) s
/-- VMULQ. -/
def execVmulq (core : Nat) (bad : Bool) (s : State) : Host.Outcome State Fault Refusal :=
  vecArith 0x13 core bad (fun md w c => vInt (fun a b => rneShift (a * b) (bits w 0 6)) md w c) s

/-- An element-wise function of two elements of any format. -/
def vPair (f : Fmt → Nat → Nat → Nat × Flg) (w : Nat) (c : Core) : Core :=
  let n := (vFmt w).width
  ewise c (vTD w) n (fun _ => [vTA w, vTB w]) (fun k => f (vFmt w) (c.el (vTA w) n k) (c.el (vTB w) n k))

/-- VMIN. -/
def execVmin (core : Nat) (s : State) : Host.Outcome State Fault Refusal :=
  vecPure 0x14 core (fun md => vPair (fun f a b => minMax md.flush f false a b)) s
/-- VMAX. -/
def execVmax (core : Nat) (s : State) : Host.Outcome State Fault Refusal :=
  vecPure 0x15 core (fun md => vPair (fun f a b => minMax md.flush f true a b)) s
/-- VCMP: all ones where the condition holds, 0 elsewhere. -/
def execVcmp (core : Nat) (s : State) : Host.Outcome State Fault Refusal :=
  vecPure 0x16 core (fun md w => vPair (fun f a b =>
    let r := compareF md.flush f (bits w 0 3) a b
    (if r.1 then 2 ^ f.width - 1 else 0, r.2)) w) s

/-- VSEL: the row's flags are those of the registers that supplied an element. -/
def execVsel (core : Nat) (s : State) : Host.Outcome State Fault Refusal :=
  vecPure 0x17 core (fun _ w c =>
    let n := (vFmt w).width
    let pick := fun k => if c.el (vTC w) n k ≠ 0 then vTA w else vTB w
    ewise c (vTD w) n (fun k => [pick k]) (fun k => (c.el (pick k) n k, 0))) s

/-- R138: N elements between widths: `f` of source element i goes to its place in TD; other elements of TD, and the flags of
rows that receive none, stay. -/
def vConv (w : Nat) (f : Nat → Nat × Flg) (extra : Flg) (c : Core) : Core :=
  let a := (vFmt w).width
  let d := (vFmtD w).width
  let n := 8192 / max a d
  let part := bits w 0 3
  let so := if a < d then part * n else 0
  let dst := if d < a then part * n else 0
  let es := (List.range n).map (fun i =>
    let x := f (c.el (vTA w) a (so + i))
    (x.1, x.2 ||| extra ||| c.rowF (vTA w) ((so + i) * a / 256)))
  let t := putBits (c.t (vTD w)) (dst * d) (n * d) (packElems d (es.map (·.1)))
  let r0 := dst * d / 256
  (List.range (n * d / 256)).foldl (fun c r => setRowF c (vTD w) (r0 + r) (rowJoin d r es)) (setT c (vTD w) t)

/-- VCVT. -/
def execVcvt (core : Nat) (bad : Bool) (s : State) : Host.Outcome State Fault Refusal :=
  vecArith 0x18 core bad (fun md w => vConv w (convert md (vOvm w) (vRnd w) (vFmt w) (vFmtD w)) 0) s

/-- VLUT: entry i of the table in TB, the table's flags joined. -/
def execVlut (core : Nat) (s : State) : Host.Outcome State Fault Refusal :=
  vecPure 0x19 core (fun _ w c => vConv w (fun x => (c.el (vTB w) (vFmtD w).width (x % 256), 0))
    ((List.range 32).foldl (fun f r => f ||| c.rowF (vTB w) r) 0) c) s

/-- VCLZ. -/
def execVclz (core : Nat) (s : State) : Host.Outcome State Fault Refusal :=
  vecPure 0x1A core (fun _ w c =>
    let n := (vFmt w).width
    ewise c (vTD w) n (fun _ => [vTA w]) (fun k =>
      let x := c.el (vTA w) n k
      (if x = 0 then n else n - 1 - Nat.log2 x, 0))) s

/-! ### Summaries (R140) -/

/-- The elements of TA in the extent, in ascending order. -/
def redElems (c : Core) (w : Nat) : List Nat :=
  let n := (vFmt w).width
  (List.range c.nr).flatMap (fun r => (List.range (8 * c.nb / n)).map (fun j => c.el (vTA w) n (r * (256 / n) + j)))

/-- SMAX, SCNT and ANYNAN after one element. FLUSH applies to x wherever it is read: the first SMAX is the flushed zero, and a
flushed subnormal counts as zero in SCNT. DESIGN CHOICE: log entry 50. -/
def redStep (md : Mode) (f : Fmt) (t : SumSet) (x : Nat) : SumSet :=
  let d := fdecode md.flush f x
  let m := minMax md.flush f true t.smax x
  let fl : Flg := if f.isInt then 0 else d.2
  let first := if f.isInt ∨ d.1.cls = .nan then x else keepElem f d.1 x
  let zero := if f.isInt then x == 0 else d.1.cls == .zero
  { t with
    smax := if t.valid then m.1 else first
    flg := t.flg ||| fl ||| (if t.valid then m.2 else 0)
    valid := true
    scnt := (t.scnt + b2n (!zero)) % 2 ^ 32
    anynan := t.anynan || Fmt.isNanCode f x }

/-- The 64-bit running sum of an integer format, clamped at its limits. -/
def redInt (f : Fmt) (t : SumSet) (x : Nat) : SumSet :=
  let v := sext 64 t.ssum + sext f.width x
  if v > 2 ^ 63 - 1 then { t with ssum := 2 ^ 63 - 1, flg := t.flg ||| flagSAT }
  else if v < -(2 ^ 63) then { t with ssum := 2 ^ 63, flg := t.flg ||| flagSAT }
  else { t with ssum := wrapInt 64 v }

/-- The value 1.0 of a float format. -/
def oneCode (f : Fmt) : Nat := f.B.toNat * 2 ^ f.M

def redSum (md : Mode) (f : Fmt) (xs : List Nat) (t : SumSet) : SumSet :=
  if f.isInt then xs.foldl (redInt f) t
  else if f = .f32 then xs.foldl (fun t x =>
    let r := addF32 md.flush (t.ssum % 2 ^ 32) x
    { t with ssum := r.1, flg := t.flg ||| r.2 }) t
  else
    let r := dot md false f (xs.map (fun x => (x, oneCode f))) [] [] (t.ssum % 2 ^ 32)
    { t with ssum := r.1, flg := t.flg ||| r.2 }

def vRed (md : Mode) (w : Nat) (c : Core) : Core :=
  let f := vFmt w
  let t := if bit w 2 then SGet {} c.sums (vSset w) else { ({} : SumSet) with smax := (SGet {} c.sums (vSset w)).smax, fmt := f }
  let xs := redElems c w
  let t := redSum md f xs (xs.foldl (redStep md f) t)
  let fl := (List.range c.nr).foldl (fun fl r => fl ||| c.rowF (vTA w) r) t.flg
  { c with sums := SSet {} c.sums (vSset w) { t with flg := fl } }

/-- VRED. DEDUCED: log entry 33. -/
def execVred (core : Nat) (bad : Bool) (s : State) : Host.Outcome State Fault Refusal := vecArith 0x1B core bad vRed s

/-- VSPLS: every row takes the summary set's flags. -/
def execVspls (core : Nat) (s : State) : Host.Outcome State Fault Refusal :=
  vecPure 0x1C core (fun _ w c =>
    let t := SGet {} c.sums (vSset w)
    let v := match bits w 2 2 with
      | 0 => t.smax | 1 => bits t.ssum 0 32 | 2 => bits t.ssum 32 32 | _ => t.scnt
    ewise c (vTD w) (vFmt w).width (fun _ => []) (fun _ => (v, t.flg))) s

/-- VCAP. -/
def execVcap (core : Nat) (s : State) : Host.Outcome State Fault Refusal :=
  vecPure 0x1D core (fun _ w c => ewise c (vTD w) 32 (fun _ => []) (fun _ => (0x44101040, 0))) s

/-! ### Events, loops and the end (R119, R139, R144) -/

/-- VSIG. -/
def execVsig (core : Nat) (s : State) : Host.Outcome State Fault Refusal :=
  vecPure 0x20 core (fun _ w c => { c with
    ev := SSet 0#16 c.ev (bits w 0 4) (SGet 0#16 c.ev (bits w 0 4) + BitVec.ofNat 16 (bits w 16 16)) }) s

/-- R119: a wait on counter `e` for value `v` may end. -/
def waitOver (c : Core) (e : Nat) (v : BitVec 16) : Bool := decide ((SGet 0#16 c.ev e - v).toNat < 2 ^ 15)

/-- VWAIT: the wait ends at once, or begins. -/
def execVwait (core : Nat) (s : State) : Host.Outcome State Fault Refusal :=
  onUnit (coreOk core) (vecRun 0x21 core (fun w s => modCore s core (fun c =>
    let v := BitVec.ofNat 16 (bits w 16 16)
    if waitOver c (bits w 0 4) v then c else { c with vwait := some (bits w 0 4, v, s.tick, false) })) s)

/-- VWAIT_END. -/
def execVwaitEnd (core : Nat) (s : State) : Host.Outcome State Fault Refusal :=
  onUnit (coreOk core) (match (getCore s core).vwait with
    | none => s
    | some x => whenB (waitOver (getCore s core) x.1 x.2.1 && !coreHeld s core) s
        (modCore s core (fun c => { c with vwait := none })))

/-- VWAITLONG. -/
def execVwaitlong (core : Nat) (s : State) : Host.Outcome State Fault Refusal :=
  onUnit (coreOk core) (match (getCore s core).vwait with
    | none => s
    | some x => whenB (decide (x.2.2.1 + 100000 ≤ s.tick) && !x.2.2.2) s
        (notice (modCore s core (fun c => { c with waitlong := true, vwait := some (x.1, x.2.1, x.2.2.1, true) })) core 0x02 0))

/-- VSETL. -/
def execVsetl (core : Nat) (s : State) : Host.Outcome State Fault Refusal :=
  vecPure 0x22 core (fun _ w c => { c with l := SSet 0#16 c.l (bits w 0 2) (BitVec.ofNat 16 (bits w 16 16)) }) s

/-- VLOOP. -/
def execVloop (core : Nat) (s : State) : Host.Outcome State Fault Refusal :=
  vecPure 0x23 core (fun _ w c =>
    let v := SGet 0#16 c.l (bits w 0 2) - 1
    let c := { c with l := SSet 0#16 c.l (bits w 0 2) v }
    if v ≠ 0 then { c with vpc := bits w 16 10 } else c) s

/-- VEND. -/
def execVend (core : Nat) (s : State) : Host.Outcome State Fault Refusal :=
  onUnit (coreOk core) (vecRun 0x24 core (fun _ s =>
    notice (modCore s core (fun c => { c with busy := false, done := true })) core 0x01 0) s)

end Sys2Proof.Machine
end

