-- ==== Sys2Proof/Machine/Stream.lean ====
section
/-! DEFINITION. Stream engines (R153 to R172): control messages, the check of an instruction, transfers and their completion. -/

namespace Sys2Proof.Machine

/-! ### Control (R154, R172, R182 to R184) -/

/-- The stream control message at the head of the way from `src` to core `dst`. -/
def seCtl (s : State) (src dst : Nat) : Option Tin := winHead s 0x09 src dst

/-- R183: the lowest place of the order SETWD, SETP, ABORT, START, QUERY that still stands in a message's ARG. -/
def seNext (arg : Nat) : Option Nat := [12, 10, 9, 8, 11].find? (bit arg)

/-- A field of a control message applied: it leaves the message, and the message the network after its last field. -/
def seApplied (s : State) (m : Tin) (gone : List Nat) : State :=
  let arg := gone.foldl (fun a b => putBits a b 1 0) m.arg
  if (seNext arg).isNone then tinDrop s m
  else modEng s (fun e => { e with tin := updateWhere (· == m) (fun x => { x with arg := arg }) e.tin })

/-- The field `b` of the head control message applied when its turn has come; a message that fails its CRC is discarded (R187). -/
def seField (b : Nat) (src dst : Nat) (crcBad : Bool) (f : Tin → Nat → State → State) (s : State) : Host.Outcome State Fault Refusal :=
  onUnit (coreOk dst) (match seCtl s src dst with
    | none => s
    | some m =>
      if crcBad then tinBad s m
      else if (seNext m.arg).isNone then tinDrop s m
      else if seNext m.arg ≠ some b then s
      else
        let t := seApplied s m (if b = 9 then [9, 8] else [b])
        if outOfService s utCore dst then t else f m (m.arg % 4) t)

/-- SE_SETWD. DEDUCED: log entry 33. -/
def execSeSetwd (src dst : Nat) (crcBad : Bool) (s : State) : Host.Outcome State Fault Refusal :=
  seField 12 src dst crcBad (fun m e s => modSE s dst e (fun v => { v with
    wdt := if bits m.arg 32 32 = 0 then 100000 else bits m.arg 32 32 })) s

/-- SE_SETP. -/
def execSeSetp (src dst : Nat) (crcBad : Bool) (s : State) : Host.Outcome State Fault Refusal :=
  seField 10 src dst crcBad (fun m e s => modSE s dst e (fun v => { v with
    p := (List.range 8).foldl (fun p i => SSet 0#64 p i (BitVec.ofNat 64 (fld m.data (8 * i) 8))) v.p })) s

/-- SE_ABORT: a START in the same message is ignored (R172). -/
def execSeAbort (src dst : Nat) (crcBad : Bool) (s : State) : Host.Outcome State Fault Refusal :=
  seField 9 src dst crcBad (fun _ e s => modSE s dst e seAbort) s

/-- SE_START: during a hold it takes effect at release. -/
def execSeStart (src dst : Nat) (crcBad : Bool) (s : State) : Host.Outcome State Fault Refusal :=
  seField 8 src dst crcBad (fun _ e s =>
    if coreHeld s dst then modSE s dst e (fun v => if v.state.live then v else { v with pendingStart := true })
    else seStart s dst e) s

/-- R184: code of a state; an engine that is still aborting has not left state running. -/
def SEState.code : SEState → Nat
  | .idle => 0 | .running => 1 | .waiting => 2 | .done => 3 | .fault => 4 | .aborted => 5 | .aborting => 1

/-- R163: bytes of reads that an engine has outstanding. -/
def SE.outst (v : SE) : Nat := (v.xfers.map (·.out)).sum

/-- R184: the SE_STAT payload. -/
def seStat (v : SE) : List Byte :=
  leBytes 8 (v.state.code + 2 ^ 8 * (v.pc % 32) + 2 ^ 16 * v.cause) ++ leBytes 8 v.m ++ leBytes 4 v.s ++ leBytes 4 v.outst ++
    leBytes 8 v.lastProg

/-- SE_QUERY. -/
def execSeQuery (src dst : Nat) (crcBad : Bool) (s : State) : Host.Outcome State Fault Refusal :=
  seField 11 src dst crcBad (fun m e s => tinSend s {
    dst := src, src := dst, typ := 0x0A, part := (partOfSector s (dst / 64)).getD 0, tag := m.tag
    data := seStat (getSE s dst e) }) s

/-- SE_LOAD: no effect on a running engine. -/
def execSeLoad (src dst : Nat) (crcBad : Bool) (s : State) : Host.Outcome State Fault Refusal :=
  onUnit (coreOk dst) (match winHead s 0x08 src dst with
    | none => s
    | some m =>
      if crcBad then tinBad s m
      else
        let t := tinDrop s m
        let v := getSE t dst (m.arg % 4)
        if outOfService s utCore dst ∨ v.state.live then t
        else modSE t dst (m.arg % 4) (fun v => { v with
          prog := (List.range (m.data.length / 8)).foldl (fun p i =>
            SSet 0#64 p (bits m.arg 8 5 + i) (BitVec.ofNat 64 (fld m.data (8 * i) 8))) v.prog }))

/-- SE_ABORTED: no read of an aborted engine is outstanding. -/
def execSeAborted (core se : Nat) (s : State) : Host.Outcome State Fault Refusal :=
  let v := getSE s core se
  onUnit (coreOk core && decide (se < 4)) (whenB (v.state == .aborting && v.outst == 0) s
    (modSE s core se (fun v => { v with state := .aborted, xfers := [] })))

/-! ### Fields and the check of R154 -/

def sOpc (w : Nat) : Nat := bits w 58 6
def sPidx (w : Nat) : Nat := bits w 55 3
def sLvl (w : Nat) : Nat := bits w 50 3
def sEv (w : Nat) : Nat := bits w 48 4
def sSe (w : Nat) : Bool := bit w 52
def sCh (w : Nat) : Nat := bits w 56 2
def sMask (w : Nat) : Nat := bits w 32 16

/-- R155: bits `[lo + n - 1 : lo]`, as a mask. -/
def fm (lo n : Nat) : Nat := (2 ^ n - 1) * 2 ^ lo

/-- R155: the bits an opcode uses. -/
def sBits (w : Nat) : Option Nat :=
  match sOpc w with
  | 0x00 => some 0
  | 0x01 => some (fm 55 3 + fm 0 32)
  | 0x02 => some (fm 0 17)
  | 0x03 => some (fm 0 48)
  | 0x04 => some (if bit w 57 then fm 54 4 else fm 54 4 + fm 0 48)
  | 0x05 => some (fm 50 3 + fm 32 18 + fm 0 32)
  | 0x06 => some (fm 50 3 + fm 0 48)
  | 0x07 => some (fm 50 3 + fm 24 4 + fm 0 20)
  | 0x08 => some (fm 50 3)
  | 0x09 => some (fm 27 31 + fm 6 20)
  | 0x0A => some (fm 52 6 + fm 48 4)
  | 0x0B => some (fm 56 2 + fm 48 5)
  | 0x0C => some (fm 48 5 + fm 32 16 + fm 28 2 + fm 16 12)
  | 0x0D => some (fm 48 5 + fm 32 16 + fm 26 6)
  | 0x0E => some (fm 48 4 + fm 0 16)
  | 0x0F => some (fm 48 4 + fm 0 16)
  | 0x10 => some (fm 0 4)
  | 0x11 => some 0
  | _ => none

/-- R157: bytes of a tile row. -/
def Shape.rowBytes (h : Shape) : Nat := ceilDiv (h.nel * h.fmt.width) 8

/-- P[i] as a signed byte pitch. -/
def SE.par (v : SE) (i : Nat) : Nat := (SGet 0#64 v.p i).toNat
def SE.pitch (v : SE) : Int := sext 64 (v.par v.shape.mp)

/-- R169: X, DX and NEL of a transfer of 4-bit elements are even. -/
def even4 (v : SE) : Bool :=
  v.shape.fmt.width != 4 || (v.x % 2 == 0 && v.shape.nel % 2 == 0 &&
    v.opens.all (fun l => (SGet {} v.levels l).dx % 2 == 0))

/-- The tile of a weight region that begins at a word, with its tag entry. -/
def tileAt (c : Core) (a : Nat) : Option (Nat × Nat) :=
  match regionOf c a with
  | none => none
  | some d => if rgClass d = 2 ∧ (a - rgBase d) % rgTile d = 0 then some (tileEntry d a, rgTile d) else none

/-- R161: a FILL with TAGW fills a whole tile from tier 1. -/
def tagwOk (s : State) (n : Nat) (v : SE) (p : Nat) (img : Option Nat) : Bool :=
  let h := v.shape
  let B := h.rowBytes
  let len := h.nrow * B
  (match tileAt (getCore s n) v.s with | some t => h.nrow * ceilDiv B 4 == t.2 | none => false) &&
    (gSpace v.m == 0 || gSpace v.m == 3) && v.pitch == (B : Int) && h.sp == ceilDiv B 4 &&
    (match localOf s p img v.m with | some o => o % 128 == 0 | none => false) &&
    (gSpace v.m == 0 || decide (gOff v.m % 0x400000 + len ≤ 0x400000)) &&
    decide (v.y + h.nrow ≤ v.ylim ∧ v.x + h.nel ≤ v.xlim)

/-- The image slot whose IMAGE space a core's engines read: the selected model's for the serving context (R268). -/
def imgSlotOf (s : State) (n : Nat) : Option Nat :=
  match ctxOfCore s n with
  | some (_, .run _) => none
  | some (p, _) => (getPart s p).sel
  | none => none

def partOfCore (s : State) (n : Nat) : Nat := (partOfSector s (n / 64)).getD 0

/-- R154, R155: conditions on codes, values and the engine's state. -/
def sCodes (s : State) (n : Nat) (v : SE) (w : Nat) : Bool :=
  let o := sOpc w
  if 0x05 ≤ o ∧ o ≤ 0x08 then
    decide (sLvl w < 6) && (if o = 0x07 then !v.opens.contains (sLvl w)
      else if o = 0x08 then v.opens.head? == some (sLvl w) else true)
  else if o = 0x0A then
    decide (sCh w < 3 ∧ bits w 54 2 < 3 ∧ ceilDiv v.shape.rowBytes 4 ≤ v.shape.sp) && even4 v &&
      (!bit w 53 || tagwOk s n v (partOfCore s n) (imgSlotOf s n))
  else if o = 0x0B then decide (sCh w < 3 ∧ ceilDiv v.shape.rowBytes 4 ≤ v.shape.sp) && even4 v
  else if o = 0x0C then decide (bits w 28 2 < 3) && even4 v
  else if o = 0x0D then even4 v
  else if o = 0x10 then decide (1 ≤ w % 16 ∧ w % 16 ≤ 8)
  else if o = 0x11 then v.opens.isEmpty
  else true

def sLegal (s : State) (n : Nat) (v : SE) (w : Nat) : Bool :=
  decide (v.pc < 32) && match sBits w with
    | none => false
    | some m => BitVec.ofNat 64 (w % 2 ^ 58) &&& ~~~(BitVec.ofNat 64 m) == 0#64 && sCodes s n v w

/-! ### Running one instruction -/

/-- R163: transfers not yet complete. -/
def SE.incomplete (v : SE) : Nat := (v.xfers.filter (fun x => !x.fin)).length

/-- The engine may execute its next instruction. -/
def seReady (s : State) (n e : Nat) : Bool :=
  let v := getSE s n e
  v.state == .running && !v.atEnd && !coreHeld s n && decide (v.incomplete < max v.pfd 1)

/-- The engine stops on a fault of its program, handled as R124 states. -/
def seFault (s : State) (n e cause st : Nat) : State :=
  coreFault (modSE s n e (fun v => { v with state := .fault, cause := cause, xfers := [] })) n st

def seMoved (s : State) (n e : Nat) : State := modSE s n e (fun v => { v with lastProg := s.tick, watched := false })

/-- The next instruction when it is of the opcode; an illegal one stops the engine. -/
def seRun (opc n e : Nat) (f : Nat → State → State) (s : State) : State :=
  let v := getSE s n e
  let w := (SGet 0#64 v.prog v.pc).toNat
  if !seReady s n e then s
  else if !sLegal s n v w then seFault s n e 1 0x0205
  else if sOpc w ≠ opc then s
  else f w s

def seOk (n e : Nat) : Bool := decide (n < 4096) && decide (e < 4)

/-- An instruction that acts on the engine's registers; the program counter moves on first. -/
def sePure (opc n e : Nat) (f : Nat → SE → SE) (s : State) : Host.Outcome State Fault Refusal :=
  onUnit (seOk n e) (seRun opc n e (fun w s =>
    seMoved (modSE s n e (fun v => f w { v with pc := v.pc + 1 })) n e) s)

/-- SNOP. -/
def execSnop (core se : Nat) (s : State) : Host.Outcome State Fault Refusal := sePure 0x00 core se (fun _ v => v) s

/-- SETM. -/
def execSetm (core se : Nat) (s : State) : Host.Outcome State Fault Refusal :=
  sePure 0x01 core se (fun w v => { v with m := wrapInt 64 ((v.par (sPidx w) : Nat) + sext 32 (bits w 0 32)) }) s

/-- SETS. -/
def execSets (core se : Nat) (s : State) : Host.Outcome State Fault Refusal :=
  sePure 0x02 core se (fun w v => { v with s := bits w 0 17 }) s

/-- SETC. -/
def execSetc (core se : Nat) (s : State) : Host.Outcome State Fault Refusal :=
  sePure 0x03 core se (fun w v => { v with y := bits w 24 24, x := bits w 0 24 }) s

/-- LIMIT. -/
def execLimit (core se : Nat) (s : State) : Host.Outcome State Fault Refusal :=
  sePure 0x04 core se (fun w v =>
    let u := if bit w 57 then v.par (bits w 54 3) else w
    { v with ylim := bits u 24 24, xlim := bits u 0 24 }) s

/-- A loop level changed. -/
def modLevel (v : SE) (l : Nat) (f : Level → Level) : SE := { v with levels := SSet {} v.levels l (f (SGet {} v.levels l)) }

/-- STRM. -/
def execStrm (core se : Nat) (s : State) : Host.Outcome State Fault Refusal :=
  sePure 0x05 core se (fun w v => modLevel v (sLvl w) (fun l => { l with ds := sext 18 (bits w 32 18), dm := sext 32 (bits w 0 32) })) s

/-- STRC. -/
def execStrc (core se : Nat) (s : State) : Host.Outcome State Fault Refusal :=
  sePure 0x06 core se (fun w v => modLevel v (sLvl w) (fun l => { l with dy := sext 24 (bits w 24 24), dx := sext 24 (bits w 0 24) })) s

/-- The instruction after the ENDL that matches a LOOP: the first ENDL of its level from `pc` on. -/
def afterEndl (v : SE) (l pc : Nat) : Nat :=
  match (List.range (32 - pc)).find? (fun i =>
      let w := (SGet 0#64 v.prog (pc + i)).toNat
      sOpc w == 0x08 && sLvl w == l) with
  | some i => pc + i + 1
  | none => 32

/-- LOOP. -/
def execLoop (core se : Nat) (s : State) : Host.Outcome State Fault Refusal :=
  sePure 0x07 core se (fun w v =>
    let n := if bit w 24 then v.par (bits w 25 3) % 2 ^ 20 else bits w 0 20
    if n = 0 then { v with pc := afterEndl v (sLvl w) v.pc }
    else
      let v := modLevel v (sLvl w) (fun l => { l with
        opn := true, cnt := n, iter := 0, m := v.m, s := v.s, y := v.y, x := v.x, top := v.pc })
      { v with opens := sLvl w :: v.opens }) s

/-- ENDL. -/
def execEndl (core se : Nat) (s : State) : Host.Outcome State Fault Refusal :=
  sePure 0x08 core se (fun w v =>
    let l := SGet {} v.levels (sLvl w)
    if l.iter + 1 < l.cnt then
      let v := modLevel v (sLvl w) (fun l => { l with iter := l.iter + 1 })
      { v with
        m := wrapInt 64 ((v.m : Int) + l.dm), s := wrapInt 17 ((v.s : Int) + l.ds)
        y := wrapInt 24 ((v.y : Int) + l.dy), x := wrapInt 24 ((v.x : Int) + l.dx), pc := l.top }
    else
      let v := modLevel v (sLvl w) (fun l => { l with iter := l.iter + 1, opn := false })
      { v with m := l.m, s := l.s, y := l.y, x := l.x, opens := v.opens.drop 1 }) s

/-- SHAPE. -/
def execShape (core se : Nat) (s : State) : Host.Outcome State Fault Refusal :=
  sePure 0x09 core se (fun w v => { v with
    shape := ⟨bits w 46 12 + 1, bits w 30 16 + 1, bits w 27 3, bits w 9 17, Fmt.ofCode (bits w 6 3)⟩ }) s

/-- CFG. -/
def execCfg (core se : Nat) (s : State) : Host.Outcome State Fault Refusal :=
  sePure 0x10 core se (fun w v => { v with pfd := w % 16 }) s

/-- WAIT: the target rises and the engine waits. -/
def execWait (core se : Nat) (s : State) : Host.Outcome State Fault Refusal :=
  onUnit (seOk core se) (seRun 0x0F core se (fun w s =>
    modSE s core se (fun v => { v with
      g := SSet 0#16 v.g (sEv w) (SGet 0#16 v.g (sEv w) + BitVec.ofNat 16 (bits w 0 16)), state := .waiting })) s)

/-- STREAM_WAIT_END. -/
def execStreamWaitEnd (core se : Nat) (s : State) : Host.Outcome State Fault Refusal :=
  let v := getSE s core se
  let e := sEv (SGet 0#64 v.prog v.pc).toNat
  onUnit (seOk core se) (whenB (v.state == .waiting && !coreHeld s core && waitOver (getCore s core) e (SGet 0#16 v.g e)) s
    (seMoved (modSE s core se (fun v => { v with state := .running, pc := v.pc + 1 })) core se))

/-- END: the engine waits for every transfer of the program. -/
def execEndProg (core se : Nat) (s : State) : Host.Outcome State Fault Refusal :=
  onUnit (seOk core se) (seRun 0x11 core se (fun _ s => modSE s core se (fun v => { v with atEnd := true })) s)

/-- SDONE. -/
def execSdone (core se : Nat) (s : State) : Host.Outcome State Fault Refusal :=
  let v := getSE s core se
  onUnit (seOk core se) (whenB (v.state == .running && v.atEnd && v.xfers.isEmpty) s
    (notice (seMoved (modSE s core se (fun v => { v with state := .done, atEnd := false })) core se) core 0x04 se))

/-- SWATCH (R170). -/
def execSwatch (core se : Nat) (s : State) : Host.Outcome State Fault Refusal :=
  let v := getSE s core se
  onUnit (seOk core se)
    (whenB ((v.state == .running || v.state == .waiting) && decide (v.lastProg + v.wdt ≤ s.tick) && !v.watched) s
      (notice (modSE s core se (fun v => { v with watched := true })) core 0x05 se))

/-! ### Transfers (R157 to R162) -/

/-- R157: in-extent elements of a row of the tile. -/
def Xfer.cols (x : Xfer) (r : Nat) : Nat := if x.y + r < x.ylim then min x.shape.nel (x.xlim - x.x) else 0

/-- In-extent bytes of a row. -/
def Xfer.inBytes (x : Xfer) (r : Nat) : Nat := ceilDiv (x.cols r * x.shape.fmt.width) 8

/-- The memory address of a row. -/
def Xfer.rowAddr (x : Xfer) (r : Nat) : Nat := wrapInt 64 ((x.m : Int) + (r : Int) * x.pitch)

/-- Rows with bytes in the extent. -/
def Xfer.rows (x : Xfer) : List Nat := (List.range x.shape.nrow).filter (fun r => x.inBytes r != 0)

/-- Scratchpad words of `n` words in every row. -/
def Xfer.words (x : Xfer) (n : Nat → Nat) : List Nat :=
  (List.range x.shape.nrow).flatMap (fun r => (List.range (n r)).map (fun i => x.s + r * x.shape.sp + i))

/-- A transfer with the registers as they stand. -/
def newXfer (v : SE) (id : Nat) (k : XKind) (w : Nat) : Xfer :=
  { id := id, kind := k, insn := w, m := v.m, s := v.s, y := v.y, x := v.x, ylim := v.ylim, xlim := v.xlim
    shape := v.shape, pitch := v.pitch }

/-- A transfer is started: the engine goes on to its next instruction. -/
def addXfer (s : State) (n e : Nat) (x : Xfer) : State :=
  seMoved (modSE s n e (fun v => { v with xfers := v.xfers ++ [x], pc := v.pc + 1 })) n e

def modXfer (s : State) (n e id : Nat) (f : Xfer → Xfer) : State :=
  modSE s n e (fun v => { v with xfers := updateWhere (fun x => x.id == id) f v.xfers })

def findXfer (s : State) (n e id : Nat) : Option Xfer := (getSE s n e).xfers.find? (fun x => x.id == id)

/-- A scratchpad access of an engine that is not performed. -/
def seAcc (s : State) (n e : Nat) (x : Acc) (go : State) : State :=
  match x with
  | .ok => go
  | .waits t => modCore s n (fun c => startCheck c t)
  | .bad _ => seFault s n e 2 0x0203

/-- R269: every row of a transfer lies at permitted addresses. -/
def rowsPermitted (s : State) (n : Nat) (x : Xfer) (write : Bool) : Bool :=
  x.rows.all (fun r => permitted s (partOfCore s n) (imgSlotOf s n) write (x.rowAddr r) (x.inBytes r))

/-- Whether a transfer's memory lies in tier 1. -/
def tier1 (s : State) (n : Nat) (x : Xfer) : Bool := (localOf s (partOfCore s n) (imgSlotOf s n) x.m).isSome

/-- The layer that a counter of a partition serves. -/
def layerOfCtr (s : State) (p n : Nat) : Option LayerRun := s.eng.layers.find? (fun l => l.part == p && l.cnt == n)

/-- The row tags of the tiles that a core has claimed. -/
def claimedTags (s : State) (n : Nat) : List Nat :=
  s.eng.ctrs.flatMap (fun e => match e.2.bind (fun c => (layerOfCtr s c.part e.1).map (fun lr => (c, lr))) with
    | none => []
    | some (c, lr) => match ctxImage s c.part lr.run lr.img with
      | none => []
      | some x => (c.ledger.filter (fun l => l.core == n)).flatMap (fun l =>
          (layerTile s x.1 lr c.tr c.tc (tileOfVal c.probs 0 l.val)).flags.map (·.1)))

/-- R288: the requests whose rows an access of a core's engine serves: those of the tiles that the core has claimed, and every
request of the context when it has claimed none of them. DEDUCED: log entry 28. -/
def servedReqs (s : State) (p : Nat) (c : Ctx) (n : Nat) : List Nat :=
  let all := ctxReqs s p c
  let mine := all.filter (claimedTags s n).contains
  if mine.isEmpty then all else mine

/-- R171, R288: an engine whose read or write of tier 2 ended with an error stops with a cause, and the requests or the run that
the access serves end with a status. -/
def tier2Fail (s : State) (n e cause st : Nat) : State :=
  match ctxOfCore s n with
  | some (p, .run id) => failCtxAt (seStop s n e cause) p (.run id) (rankOf st) st
  | some (p, c) => (servedReqs s p c n).foldl (fun s r => failReq s r (rankOf st) st) (seStop s n e cause)
  | none => seStop s n e cause

/-- R297: an engine that reaches a HOST address after a function reset stops with cause 0x04. -/
def hostStopped (s : State) (n : Nat) (x : Xfer) : Bool := gSpace x.m == 1 && (getPart s (partOfCore s n)).hostCut

/-- R165: a FILL is not issued before the layer whose configuration is placed on the core starts. -/
def layerBegun (s : State) (n : Nat) : Bool :=
  match s.eng.places.find? (fun pl => pl.sectors.contains (n / 64)) with
  | none => true
  | some pl => s.eng.layers.any (fun l => l.part == pl.part && (match pl.ctx with | .run id => l.run == some id | _ => l.run.isNone))

/-- The address of in-extent byte `i` of a tile, with the bytes of its row from there on. -/
def pieceAt (x : Xfer) : List Nat → Nat → Option (Nat × Nat)
  | [], _ => none
  | r :: rs, i => if i < x.inBytes r then some (wrapInt 64 ((x.rowAddr r + i : Nat) : Int), x.inBytes r - i)
      else pieceAt x rs (i - x.inBytes r)

def Xfer.piece (x : Xfer) (i : Nat) : Option (Nat × Nat) := pieceAt x x.rows i

/-- The block with which an address's read of tier 1 begins. -/
def blockOf (s : State) (n a : Nat) : Option Nat :=
  (localRuns s (partOfCore s n) (imgSlotOf s n) a 1).bind (fun l => l.head?.map (fun z => z.1 / 32 * 32))

/-- A watched read of tier 1 has come back. -/
def readBack (s : State) (n : Nat) (x : Xfer) : State :=
  match (x.piece (x.bytes - x.out)).bind (fun a => blockOf s n a.1) with
  | none => s
  | some b => modMem s (fun m => { m with reads := dropFirst (fun r => r.1 == b && r.2.1 == partOfCore s n) m.reads })

/-- A read of tier 1 is issued: the lines pass through the slices, and the lateness of one that misses is watched (R288). -/
def issueTier1 (s : State) (n ch a k : Nat) : State :=
  let p := partOfCore s n
  let t := ((localRuns s p (imgSlotOf s n) a k).getD []).foldl (fun s r => cacheAccess s false ch r.1 r.2) s
  match blockOf s n a with
  | some b => if (wayOf s.mem b).isSome then t else modMem t (fun m => { m with reads := m.reads ++ [(b, p, s.tick)] })
  | none => t

/-- R163: the next read of a FILL is issued, as far as its row and 16 KiB outstanding for the engine allow; the return buffer has
room for what is outstanding. The engine stops when a peer read ends at once. -/
def issueRead (s : State) (n e id : Nat) : State :=
  match findXfer s n e id with
  | none => s
  | some x => match x.piece x.bytes with
    | none => s
    | some (a, left) =>
      let k := min left (16384 - (getSE s n e).outst)
      if k = 0 then s
      else
        let s := modXfer s n e id (fun x => { x with bytes := x.bytes + k, out := k })
        if tier1 s n x then issueTier1 s n (sCh x.insn) a k
        else
          let y := startRead s (partOfCore s n + 1) a k (.stream n e id)
          if y.2 then y.1 else tier2Fail (dropRead y.1 s.host.nextId) n e 5 0x0408

/-- R163, R172: the oldest FILL that can issue its next read: of tier 2, when its last one has come back. -/
def fillDue (s : State) (n e : Nat) : Option Xfer :=
  if coreHeld s n ∨ !(getSE s n e).state.live ∨ (getSE s n e).state = .aborting then none
  else (getSE s n e).xfers.find? (fun x => x.kind == .fill && (x.piece x.bytes).isSome && (x.out == 0 || tier1 s n x))

/-- R178: lines of the ranges that an access meets with an uncorrectable error: `bad` names them by offset. -/
def meetLines (s : State) (tell : Bool) (bad : List Nat) (runs : List (Nat × Nat)) : State :=
  (bad.filter (fun o => runs.any (fun r => (linesIn r.1 r.2).contains (128 * (o / 128))))).foldl (fun s o => lineMet s tell o) s

/-- The runs of local memory that the rows of a transfer name. -/
def xferRuns (s : State) (n : Nat) (x : Xfer) : List (Nat × Nat) :=
  x.rows.flatMap (fun r => (localRuns s (partOfCore s n) (imgSlotOf s n) (x.rowAddr r) (x.inBytes r)).getD [])

def runsWait (s : State) (rs : List (Nat × Nat)) : Bool := rs.any (fun r => memWaits s r.1 r.2)

/-- FILL: a fill under way issues its next read, its last one of tier 1 having come back, or the instruction starts and issues
its first. `lines` names the near-cache lines met with an uncorrectable error (R178). -/
def execFill (core se : Nat) (lines : List Nat) (s : State) : Host.Outcome State Fault Refusal :=
  onUnit (seOk core se) (match fillDue s core se with
    | some x =>
      if hostStopped s core x then seStop s core se 4
      else if runsWait s (xferRuns s core x) then s
      else
        let t := if x.out = 0 then s else modXfer (readBack s core x) core se x.id (fun x => { x with out := 0 })
        seMoved (issueRead (meetLines t false lines (xferRuns t core x)) core se x.id) core se
    | none => seRun 0x0A core se (fun w s =>
        let x := { newXfer (getSE s core se) s.host.nextId .fill w with rgd := (getCore s core).rgd }
        let t := modHost s (fun h => { h with nextId := h.nextId + 1 })
        if hostStopped s core x then seStop s core se 4
        else if !rowsPermitted s core x false then seFault s core se 6 0x0409
        else if runsWait s (xferRuns s core x) ∨ !layerBegun s core then s
        else seAcc s core se (firstAcc (writeAcc (getCore s core) 37) (x.words (fun _ => ceilDiv x.shape.rowBytes 4)))
          (issueRead (addXfer (meetLines t false lines (xferRuns t core x)) core se x) core se x.id)) s)

/-- R164, R166: the bytes a DRAIN writes of a row: its in-extent elements, a last odd 4-bit element with 0 above it. -/
def drainBytes (c : Core) (x : Xfer) (r : Nat) : List Byte :=
  let f := x.shape.fmt
  let n := x.cols r
  let row := spadBytes c (x.s + r * x.shape.sp) (ceilDiv (x.inBytes r) 4)
  leBytes (x.inBytes r) (fld row 0 (x.inBytes r) % 2 ^ (n * f.width))

/-- A write of one row by an engine; false when a peer write ends at once. -/
def engineWrite (s : State) (n e id ch a : Nat) (bs : List Byte) : State × Bool :=
  let p := partOfCore s n
  match localOf s p (imgSlotOf s n) a with
  | some off => (localWrite s ch off bs, true)
  | none =>
    if gSpace a = 1 then (hostWrite s (p + 1) (gOff a) bs, true)
    else peerWriteAll s p (gChip a) (gOff a) bs (.stream n e id)

def drainRows (s : State) (n e ch : Nat) (x : Xfer) : State × Bool :=
  x.rows.foldl (fun a r => if a.2 then engineWrite a.1 n e x.id ch (x.rowAddr r) (drainBytes (getCore s n) x r) else a) (s, true)

/-- DRAIN: `upset` names the words read that hold bits in error, `lines` the near-cache lines met with an uncorrectable error. -/
def execDrain (core se : Nat) (upset : List (Nat × Nat)) (lines : List Nat) (s : State) : Host.Outcome State Fault Refusal :=
  onUnit (seOk core se) (seRun 0x0B core se (fun w s =>
    let x := newXfer (getSE s core se) s.host.nextId .drain w
    let s1 := meetLines (modHost s (fun h => { h with nextId := h.nextId + 1 })) true lines (xferRuns s core x)
    let as := x.words (fun r => ceilDiv (x.inBytes r) 4)
    if hostStopped s core x then seStop s core se 4
    else if !rowsPermitted s core x true then seFault s core se 6 0x0409
    else if (gSpace x.m = 1 ∧ !s.host.dlActive) ∨ runsWait s (xferRuns s core x) then s
    else
      let u := upsets s1 core upset as
      seAcc s core se (firstAcc (readAcc (getCore s core) 36) as)
        (if u.2 then u.1
         else
          let d := drainRows (addXfer u.1 core se x) core se (sCh w) x
          if d.2 then d.1 else tier2Fail d.1 core se 5 0x0408)) s)

/-- R159: the lane leads to a cell whose PORT serves the direction: bit 0 in, bit 1 out. -/
def laneServes (s : State) (n e i b : Nat) : Bool :=
  let sec := n / 64
  let r0 := 128 * sectorRow sec + 16 * (n % 64 / 8)
  let c0 := 128 * sectorCol sec + 16 * (n % 8)
  let rc := if e = 0 then (r0, c0 + i) else if e = 1 then (r0 + i, c0 + 15) else if e = 2 then (r0 + 15, c0 + i) else (r0 + i, c0)
  bit ((getCell s rc.1 rc.2).port e) b

/-- Beats passed on a lane. -/
def Xfer.beat (x : Xfer) (i : Nat) : Nat := SGet 0 x.beats i

/-- The lanes of a FEED that can send their next beat, with the word each reads. A lane in LMASK that leads to no cell whose PORT
serves the direction never moves, and the FEED or COLLECT that names it never completes. DESIGN CHOICE: log entry 50. -/
def feedLanes (s : State) (n e : Nat) (x : Xfer) : List (Nat × Nat) :=
  ((List.range 16).filter (fun i => bit (sMask x.insn) i && decide (x.beat i < x.shape.nrow) &&
    decide ((SGet [] (getCore s n).fin (16 * e + i)).length < 8) && laneServes s n e i 0)).map
      (fun i => (i, x.s + x.beat i * x.shape.sp + i))

/-- R158: the item a FEED sends of a word in a beat. -/
def feedItem (x : Xfer) (r v : Nat) : Item :=
  let scp := bits x.insn 16 12
  ⟨0, if scp ≠ 0 ∧ r % (scp + 1) = 0 then 2 else bits x.insn 28 2, v⟩

/-- The lanes of a FEED that have room each send one beat. -/
def feedBeat (s : State) (n e : Nat) (x : Xfer) (upset : List (Nat × Nat)) : State :=
  let ls := feedLanes s n e x
  let as := ls.map (·.2)
  let u := upsets s n upset as
  seAcc s n e (firstAcc (readAcc (getCore s n) 36) as)
    (if u.2 then u.1
     else
      let c := getCore s n
      let s := modCore u.1 n (fun k => { k with
        fin := ls.foldl (fun m l => SSet [] m (16 * e + l.1) (SGet [] m (16 * e + l.1) ++
          [feedItem x (x.beat l.1) (spadGet c l.2)])) k.fin })
      seMoved (modXfer s n e x.id (fun x => { x with
        beats := ls.foldl (fun m l => SSet 0 m l.1 (SGet 0 m l.1 + 1)) x.beats })) n e)

/-- The first transfer of a kind in program order that can move a beat. -/
def movable (s : State) (n e : Nat) (k : XKind) (lanes : Xfer → List (Nat × Nat)) : Option Xfer :=
  if coreHeld s n ∨ !(getSE s n e).state.live ∨ (getSE s n e).state = .aborting then none
  else (getSE s n e).xfers.find? (fun x => x.kind == k && !(lanes x).isEmpty)

/-- FEED: a feed under way sends a beat, or the instruction starts. -/
def execFeed (core se : Nat) (upset : List (Nat × Nat)) (s : State) : Host.Outcome State Fault Refusal :=
  onUnit (seOk core se) (match movable s core se .feed (feedLanes s core se) with
    | some x => feedBeat s core se x upset
    | none => seRun 0x0C core se (fun w s =>
        let x := newXfer (getSE s core se) s.host.nextId .feed w
        addXfer (modHost s (fun h => { h with nextId := h.nextId + 1 })) core se x) s)

/-- The lanes of a COLLECT that hold an item for their next beat, with the word each writes. -/
def collectLanes (s : State) (n e : Nat) (x : Xfer) : List (Nat × Nat) :=
  ((List.range 16).filter (fun i => bit (sMask x.insn) i && decide (x.beat i < x.shape.nrow) &&
    !(SGet [] (getCore s n).fout (16 * e + i)).isEmpty && laneServes s n e i 1)).map
      (fun i => (i, x.s + x.beat i * x.shape.sp + i))

/-- R160: the row tag of a beat. -/
def rowTagOf (c : Core) (x : Xfer) (r : Nat) : Nat :=
  SGet 0 c.rowtag (if bit x.insn 31 then (bits x.insn 26 5 + r) % 32 else bits x.insn 26 5)

/-- One lane of a COLLECT takes an item: its word, and its flags when the item lies in the extent. -/
def collectLane (e : Nat) (c : Core) (x : Xfer) (l : Nat × Nat) : Core × Xfer :=
  match SGet [] c.fout (16 * e + l.1) with
  | [] => (c, x)
  | i :: r =>
    let b := x.beat l.1
    let tag := rowTagOf c x b
    let inX := decide (x.y + b < x.ylim ∧ x.x + l.1 < x.xlim)
    ({ spadPut c l.2 i.pay with fout := SSet [] c.fout (16 * e + l.1) r },
     { x with
       beats := SSet 0 x.beats l.1 (b + 1)
       flags := if inX then SSet 0 x.flags tag (SGet 0 x.flags tag ||| i.flg) else x.flags })

def collectBeat (s : State) (n e : Nat) (x : Xfer) : State :=
  let ls := collectLanes s n e x
  seAcc s n e (firstAcc (writeAcc (getCore s n) 37) (ls.map (·.2)))
    (let r := ls.foldl (fun a l => collectLane e a.1 a.2 l) (getCore s n, x)
     seMoved (modXfer (setCore s n r.1) n e x.id (fun _ => r.2)) n e)

/-- COLLECT: a collect under way takes what its lanes offer, or the instruction starts. -/
def execCollect (core se : Nat) (s : State) : Host.Outcome State Fault Refusal :=
  onUnit (seOk core se) (match movable s core se .collect (collectLanes s core se) with
    | some x => collectBeat s core se x
    | none => seRun 0x0D core se (fun w s =>
        let x := newXfer (getSE s core se) s.host.nextId .collect w
        addXfer (modHost s (fun h => { h with nextId := h.nextId + 1 })) core se x) s)

/-! ### Completion -/

/-- Elements of a row of bytes. -/
def elemsOf (f : Fmt) (n : Nat) (bs : List Byte) : List Nat :=
  let v := fld bs 0 bs.length
  (List.range n).map (fun i => bits v (i * f.width) f.width)

/-- R167: the pad element. -/
def padOf (w : Nat) (f : Fmt) : Nat :=
  match bits w 54 2 with | 0 => 0 | 1 => f.smallest | _ => f.largest

/-- R158: the bytes a FILL writes of a row from the in-extent bytes read. -/
def fillRow (x : Xfer) (r : Nat) (bs : List Byte) : List Byte :=
  let f := x.shape.fmt
  let es := elemsOf f (x.cols r) bs ++ List.replicate (x.shape.nel - x.cols r) (padOf x.insn f)
  leBytes x.shape.rowBytes (packElems f.width es)

/-- The in-extent bytes of every row, in row order, as read. -/
def fillData (s : State) (n : Nat) (x : Xfer) : List (Nat × List Byte) :=
  if tier1 s n x then
    (List.range x.shape.nrow).map (fun r =>
      (r, gGet s (partOfCore s n) (imgSlotOf s n) (x.rowAddr r) (x.inBytes r)))
  else
    ((List.range x.shape.nrow).foldl (fun a r => (a.1 ++ [(r, a.2.take (x.inBytes r))], a.2.drop (x.inBytes r)))
      (([] : List (Nat × List Byte)), x.got)).1

/-- The tile's words in scratchpad, and for TAGW its tag entry (R161), under the descriptors in force when the FILL was issued
(R123). -/
def fillPut (s : State) (n : Nat) (x : Xfer) : State :=
  let rows := (fillData s n x).map (fun d => (d.1, fillRow x d.1 d.2))
  let nw := ceilDiv x.shape.rowBytes 4
  let ws := rows.flatMap (fun d => (List.range nw).map (fun i => (x.s + d.1 * x.shape.sp + i, fld d.2 (4 * i) 4)))
  let home := (localOf s (partOfCore s n) (imgSlotOf s n) x.m).getD 0
  modCore s n (fun k =>
    let t := tileAt { k with rgd := x.rgd } x.s
    let c := { spadPuts { k with rgd := x.rgd } ws with rgd := k.rgd }
    match bit x.insn 53, t with
    | true, some t =>
      let ent : TagEnt := { crc := (crc32c (spadBytes c x.s t.2)).toNat, valid := true, checked := false, home := home }
      { c with tags := SSet {} c.tags t.1 ent }
    | _, _ => c)

/-- The bytes of a tier-1 FILL cannot be corrected. -/
def fillLost (s : State) (n : Nat) (x : Xfer) : Option Nat :=
  (xferRuns s n x).findSome? (fun r => if memLost s r.1 r.2 then some r.1 else none)

/-- R162: nothing of the transfer is outstanding. -/
def xferComplete (s : State) (n e : Nat) (x : Xfer) : Bool :=
  let lanes := (List.range 16).filter (bit (sMask x.insn))
  match x.kind with
  | .fill => (x.piece x.bytes).isNone && (if tier1 s n x then (fillLost s n x).isNone else x.out == 0)
  | .drain => true
  | .sig => true
  | .feed => lanes.all (fun i => x.beat i == x.shape.nrow &&
      decide ((SGet [] (getCore s n).fin (16 * e + i)).length ≤
        (((getSE s n e).xfers.filter (fun y => y.kind == .feed && decide (x.id < y.id))).map (fun y => y.beat i)).sum))
  | .collect => lanes.all (fun i => x.beat i == x.shape.nrow)

/-- R160: the FLAG messages of a COLLECT that completes, before its signal takes its turn. -/
def flagMsgs (s : State) (n : Nat) (x : Xfer) : State :=
  x.flags.foldl (fun s f => if f.2 = 0 then s else
    tinSend s { dst := cobEp (n / 64), src := n, typ := 0x05, part := partOfCore s n, arg := f.1 % 65536 + 65536 * f.2.toNat }) s

/-- What a transfer or SIG adds to its event counter. -/
def signalOf (x : Xfer) : BitVec 16 :=
  if x.kind = .sig then BitVec.ofNat 16 (bits x.insn 0 16) else if sSe x.insn then 1 else 0

/-- R162: the signals of complete transfers, in program order. -/
def sendSignals : Nat → Nat → Nat → State → State
  | 0, _, _, s => s
  | fuel + 1, n, e, s =>
    match (getSE s n e).xfers with
    | [] => s
    | x :: r =>
      if x.fin then
        let s := modSE s n e (fun v => { v with xfers := r })
        sendSignals fuel n e (modCore s n (fun c => { c with
          ev := SSet 0#16 c.ev (sEv x.insn) (SGet 0#16 c.ev (sEv x.insn) + signalOf x) }))
      else s

/-- SIG: it takes its turn after the signals of the transfers before it. -/
def execSig (core se : Nat) (s : State) : Host.Outcome State Fault Refusal :=
  onUnit (seOk core se) (seRun 0x0E core se (fun w s =>
    let x := { newXfer (getSE s core se) s.host.nextId .sig w with fin := true }
    let s := addXfer (modHost s (fun h => { h with nextId := h.nextId + 1 })) core se x
    sendSignals (getSE s core se).xfers.length core se s) s)

/-- STREAM_TRANSFER_COMPLETE; of an aborted engine's FILL of tier 1, the outstanding read has come back, its data discarded
(R172). -/
def execStreamTransferComplete (core se id : Nat) (s : State) : Host.Outcome State Fault Refusal :=
  onUnit (seOk core se) (match findXfer s core se id with
    | none => s
    | some x =>
      let v := getSE s core se
      let back := if x.kind = .fill ∧ tier1 s core x ∧ x.out ≠ 0 then
          modXfer (readBack s core x) core se id (fun x => { x with out := 0 }) else s
      if v.state = .aborting then back
      else if !v.state.live ∨ x.fin ∨ !xferComplete s core se x then s
      else
        let s := match x.kind with | .fill => fillPut back core x | .collect => flagMsgs back core x | _ => back
        let s := seMoved (modXfer s core se id (fun x => { x with fin := true })) core se
        sendSignals (getSE s core se).xfers.length core se s)

/-- STREAM_READ_ERROR: a FILL meets an uncorrectable block (R171). DEDUCED: log entry 28. -/
def execStreamReadError (core se id : Nat) (s : State) : Host.Outcome State Fault Refusal :=
  onUnit (seOk core se) (match findXfer s core se id with
    | none => s
    | some x =>
      if x.kind ≠ .fill ∨ x.fin ∨ !tier1 s core x then s
      else match fillLost s core x with
        | none => s
        | some off => lostFor (seStop (readBack s core x) core se 3) core off)

end Sys2Proof.Machine
end

