-- ==== Sys2Proof/Machine/Counters.lean ====
section
/-! DEFINITION. The work counter unit (R201 to R207), and the start and end of a layer (R194, R209). -/

namespace Sys2Proof.Machine

/-- R202: the counter unit's answer. -/
def cntAnswer (s : State) (part dst tag arg : Nat) (data : List Byte) : State :=
  tinSend s { dst := dst, src := 0x1104, typ := 0x07, part := part, tag := tag, arg := arg, data := data }

/-- R203: claims that a core holds across all counters. -/
def coreClaims (s : State) (core : Nat) : Nat :=
  (s.eng.ctrs.map (fun e => match e.2 with | some c => (c.ledger.filter (fun l => l.core == core)).length | none => 0)).sum

/-- R207: the tile has no occupied row. -/
def tileEmpty (c : Ctr) (t : Nat × Nat × Nat) : Bool :=
  match c.probs[t.1]? with
  | some p => p.skip || decide (p.mp ≤ t.2.1 * c.tr)
  | none => false

/-- R203: a value is issued to a core. -/
def issueClaim (s : State) (n : Nat) (c : Ctr) (v : Nat) (again : Bool) (core sender tag : Nat) : State :=
  let t := tileOfVal c.probs 0 v
  let s := setCtr s n (some { c with ledger := c.ledger ++ [{ val := v, core := core }] })
  cntAnswer s c.part sender tag (256 * b2n again + 512 * b2n (tileEmpty c t) + 2 ^ 32 * v)
    (leBytes 4 t.1 ++ leBytes 4 t.2.1 ++ leBytes 4 t.2.2 ++ zeros 4)

/-- The lowest of a list of values. -/
def lowest : List Nat → Nat
  | [] => 0
  | x :: xs => xs.foldl min x

/-- R203: what a CLAIM comes to now: answered, or held; a claim that arrives while others are held waits behind them
(`again` marks a held one whose turn it is). The order of the tests is the model's: STALE, LIMIT, a value, END, held.
DESIGN CHOICE: log entry 46. -/
def tryClaim (s : State) (n : Nat) (c : Ctr) (again : Bool) (core sender tag : Nat) : State :=
  if c.gone.contains core then cntAnswer s c.part sender tag 3 []
  else if 2 ≤ coreClaims s core then cntAnswer s c.part sender tag 2 []
  else if !again && !c.waiting.isEmpty then setCtr s n (some { c with waiting := c.waiting ++ [(core, sender, tag)] })
  else if !c.reissue.isEmpty then
    let v := lowest c.reissue
    issueClaim s n { c with reissue := dropFirst (· == v) c.reissue } v true core sender tag
  else if c.next < tileCount c.probs then issueClaim s n { c with next := c.next + 1 } c.next false core sender tag
  else if c.ledger.isEmpty then cntAnswer s c.part sender tag 1 []
  else setCtr s n (some { c with waiting := c.waiting ++ [(core, sender, tag)] })

/-- R205, R206: a core is withdrawn from a counter; the flags of its claims are discarded with them. -/
def ctrWithdraw (c : Ctr) (core : Nat) : Ctr :=
  { c with
    ledger := c.ledger.filter (fun l => l.core != core)
    reissue := c.reissue ++ (c.ledger.filter (fun l => l.core == core)).map (·.val)
    gone := if c.gone.contains core then c.gone else c.gone ++ [core] }

/-- The oldest CNT_OP under way from `src` with an opcode; the counter it names when it exists in the sender's partition. -/
def cntHead (s : State) (op src : Nat) : Option Tin :=
  (tinFront s false src 0x1104).bind (fun m => if m.typ = 0x06 ∧ m.arg % 256 = op then some m else none)

/-- R201, R203: an operation on a counter of the sender's partition; any other is answered NOCNT. -/
def cntOp (op src : Nat) (crcBad : Bool) (f : Nat → Ctr → Tin → State → State) (s : State) : Host.Outcome State Fault Refusal :=
  onUnit (cobDst src) (match cntHead s op src with
    | none => s
    | some m =>
      if crcBad then tinBad s m
      else
        let t := tinDrop s m
        match getCtr t (bits m.arg 8 12) with
        | some c => if c.part = m.part then f (bits m.arg 8 12) c m t else cntAnswer t m.part src m.tag 4 []
        | none => cntAnswer t m.part src m.tag 4 [])

def argCore (m : Tin) : Nat := bits m.arg 20 12

/-- CNT_CLAIM. -/
def execCntClaim (src : Nat) (crcBad : Bool) (s : State) : Host.Outcome State Fault Refusal :=
  cntOp 2 src crcBad (fun n c m s => tryClaim s n c false (argCore m) src m.tag) s

/-- CLAIM_HELD_ANSWER: the oldest held claim, once a value waits or the last claim is retired. DEDUCED: log entry 34. -/
def execClaimHeldAnswer (cnt : Nat) (s : State) : Host.Outcome State Fault Refusal :=
  .next (match getCtr s cnt with
    | none => s
    | some c => match c.waiting with
      | [] => s
      | w :: r =>
        if c.reissue.isEmpty ∧ !c.ledger.isEmpty ∧ !c.gone.contains w.1 then s
        else tryClaim (setCtr s cnt (some { c with waiting := r })) cnt { c with waiting := r } true w.1 w.2.1 w.2.2)

/-- R193, R198: what the tile of value `v` of a counter writes, with the image of its layer. -/
def tileOfCtr (s : State) (n : Nat) (c : Ctr) (v : Nat) : Option (LayerRun × CfgImg × TileOut) :=
  (layerOfCtr s c.part n).bind (fun lr => (ctxImage s c.part lr.run lr.img).map (fun x =>
    (lr, x.1, layerTile s x.1 lr c.tr c.tc (tileOfVal c.probs 0 v))))

/-- R205: some incomplete DRAIN of the core moves a byte of the tile. -/
def tileDraining (s : State) (core : Nat) (t : Option (LayerRun × CfgImg × TileOut)) : Bool :=
  match t with
  | none => false
  | some (_, _, o) => (getCore s core).se.any (fun e => e.2.xfers.any (fun x => x.kind == .drain && !x.fin &&
      (List.range x.shape.nrow).any (fun r => o.rows.any (fun w =>
        decide (x.rowAddr r < w.1 + w.2.length ∧ w.1 < x.rowAddr r + x.inBytes r)))))

/-- R198, R205: a tile retires: D holds its elements, and its flags and those of its FLAG messages join the uncommitted work. -/
def retireTile (s : State) (t : Option (LayerRun × CfgImg × TileOut)) (flags : SMap Flg) : State :=
  match t with
  | none => s
  | some (lr, ci, o) => joinFlags (writeRows s lr.part ci.slot o.rows) lr.part lr.run (o.flags ++ flags)

/-- CNT_RETIRE: firmware retires a tile once its DRAINs are complete (R205). -/
def execCntRetire (src : Nat) (crcBad : Bool) (s : State) : Host.Outcome State Fault Refusal :=
  onUnit (cobDst src) (match cntHead s 3 src with
    | none => s
    | some m =>
      if crcBad then tinBad s m
      else
        let n := bits m.arg 8 12
        let t := tinDrop s m
        match getCtr t n with
        | none => cntAnswer t m.part src m.tag 4 []
        | some c =>
          if c.part ≠ m.part then cntAnswer t m.part src m.tag 4 []
          else if c.gone.contains (argCore m) then cntAnswer t c.part src m.tag 3 []
          else match c.ledger.find? (fun e => e.val == bits m.arg 32 32 && e.core == argCore m) with
            | none => cntAnswer t c.part src m.tag 3 []
            | some e =>
              let tile := tileOfCtr t n c e.val
              if tileDraining t e.core tile then s
              else cntAnswer (retireTile (setCtr t n (some { c with
                ledger := dropFirst (· == e) c.ledger, retired := c.retired + 1 })) tile e.flags) c.part src m.tag 0 [])

/-- CNT_WITHDRAW. -/
def execCntWithdraw (src : Nat) (crcBad : Bool) (s : State) : Host.Outcome State Fault Refusal :=
  cntOp 4 src crcBad (fun n c m s => cntAnswer (setCtr s n (some (ctrWithdraw c (argCore m)))) c.part src m.tag 0 []) s

/-- R202: the 16-byte QUERY payload. -/
def queryBytes (c : Ctr) : List Byte :=
  leBytes 4 c.next ++ leBytes 4 c.retired ++ leBytes 4 c.ledger.length ++ leBytes 4 c.reissue.length

/-- CNT_QUERY. -/
def execCntQuery (src : Nat) (crcBad : Bool) (s : State) : Host.Outcome State Fault Refusal :=
  cntOp 5 src crcBad (fun _ c m s => cntAnswer s c.part src m.tag 0 (queryBytes c)) s

/-- CNT_DESTROY. -/
def execCntDestroy (src : Nat) (crcBad : Bool) (s : State) : Host.Outcome State Fault Refusal :=
  cntOp 6 src crcBad (fun n c m s => cntAnswer (freeCtr s n) c.part src m.tag 0 []) s

/-- R202: the problems a CREATE names. -/
def createProbs (s : State) (p : Nat) (b : List Byte) : List Prob :=
  let tr := fld b 0x14 2
  let tc := fld b 0x16 2
  if fld b 0 8 = 0 then [⟨fld b 8 4, fld b 12 4, fld b 8 4 * tr, false⟩]
  else ((listEntries s p (getPart s p).sel (fld b 0 8) (fld b 0x10 4)).getD []).map (probOf tr tc)

/-- R202: the problem list of a CREATE is in tier 2 and has not been read. -/
def listUnread (s : State) (p : Nat) (b : List Byte) : Bool :=
  fld b 0 8 != 0 && (listEntries s p (getPart s p).sel (fld b 0 8) (fld b 0x10 4)).isNone

/-- R202: a CREATE; a counter in use, whichever partition's, is EXISTS, and EXISTS, QUOTA and RANGE are tested in that order.
DESIGN CHOICE: log entry 46. -/
def cntCreate (s : State) (n : Nat) (m : Tin) : State :=
  let P := getPart s m.part
  let b := m.data
  let probs := createProbs s m.part b
  let used := (s.eng.ctrs.filter (fun e => match e.2 with | some c => c.part == m.part | none => false)).length
  let run := (s.eng.layers.find? (fun l => l.part == m.part && l.cnt == n)).bind (·.run)
  if (getCtr s n).isSome then cntAnswer s m.part m.src m.tag 5 []
  else if P.cntq ≤ used then cntAnswer s m.part m.src m.tag 6 []
  else if 2 ^ 32 - 1 < tileCount probs ∨ fld b 0x14 2 = 0 ∨ fld b 0x16 2 = 0 then cntAnswer s m.part m.src m.tag 7 []
  else cntAnswer (setCtr s n (some { part := m.part, tr := fld b 0x14 2, tc := fld b 0x16 2, probs := probs, run := run })) m.part m.src m.tag 0 []

/-- CNT_CREATE. -/
def execCntCreate (src : Nat) (crcBad : Bool) (s : State) : Host.Outcome State Fault Refusal :=
  onUnit (cobDst src) (match cntHead s 1 src with
    | none => s
    | some m =>
      if crcBad then tinBad s m
      else if listUnread s m.part m.data then
        let a := fld m.data 0 8
        (if s.host.reads.any (fun r => r.use == .list m.part a) then s
         else (startRead s (m.part + 1) a (64 * fld m.data 0x10 4) (.list m.part a)).1)
      else cntCreate (tinDrop s m) (bits m.arg 8 12) m)

/-- CNT_RSP. -/
def execCntRsp (dst : Nat) (crcBad : Bool) (s : State) : Host.Outcome State Fault Refusal :=
  onUnit (cobDst dst) (deliverCob true 0x07 0x1104 dst crcBad (fun n s m => rxArrive s n m) s)

/-! ### Layers -/

/-- The placement on which a layer of a context runs, once it is loaded. -/
def layerPlace (s : State) (ci : CfgImg) (c : Ctx) (i : Nat) : Option Placement :=
  let a := arrayOff s ci (layerAt s ci i).cfg
  s.eng.places.find? (fun pl => pl.part == ci.part && pl.ctx == c && pl.slot == ci.slot && pl.base == ci.base && pl.sect == a &&
    pl.loading.isEmpty)

/-- R202: the CREATE message of a layer. TC has two bytes: a tile of 65,536 columns or more carries 65,535, which only the
tiles of a list depend on. DESIGN CHOICE: log entry 46. -/
def createMsg (s : State) (p : Nat) (l : Layer) (cnt tag tr tc : Nat) (probs : List Prob) : Tin :=
  { dst := 0x1104, src := cobEp ((leadSector s p).getD 0), typ := 0x06, part := p, tag := tag, arg := 1 + 2 ^ 8 * cnt
    data := (if l.kind = 2 then leBytes 8 l.rtab ++ zeros 8 ++ leBytes 4 l.nprob
      else zeros 8 ++ leBytes 4 ((probs.headD ⟨0, 0, 0, false⟩).tm) ++ leBytes 4 ((probs.headD ⟨0, 0, 0, false⟩).tn) ++ zeros 4) ++
      leBytes 2 tr ++ leBytes 2 (min tc 65535) ++ zeros 8 }

/-- R194: layers of image `img` that a chunk or step in progress has completed. -/
def ranOf (P : Part) (c : Ctx) (img : Nat) : Nat :=
  match c with
  | .chunk => SGet 0 ((P.chunk.map (·.ran)).getD []) img
  | .step => SGet 0 ((P.step.map (·.ran)).getD []) img
  | .run _ => 0

/-- R194: the layer of a serving context's image that comes next. -/
def nextLayer (s : State) (p img : Nat) (c : Ctx) : Nat :=
  match selSlot s p with
  | some sl => skipLayers (expertLayers s sl) 4096 (ranOf (getPart s p) c img)
  | none => 0

/-- R194: the layer is the next of its graph; an AUX image may run again once it has run whole. -/
def layerDue (s : State) (p : Nat) (c : Ctx) (img : Nat) (ci : CfgImg) (i : Nat) : Bool :=
  match c with
  | .run id => (getPart s p).runs.any (fun r => r.cmd == id && r.layer == i && decide (0 < r.left))
  | _ => i == nextLayer s p img c ||
      (i == 0 && decide (nLayers s ci ≤ nextLayer s p img c) && ((selSlot s p).map (fun sl => (cfgEnt s sl img).2.2)) == some 3)

/-- R195, R209, R288: the ranges that a layer or group reads, the operands of a list's problems among them once it is read. -/
def layerReads (s : State) (ci : CfgImg) (i n : Nat) : List (Nat × Nat) :=
  let l := layerAt s ci i
  (List.range n).flatMap (fun j => (layerAt s ci (i + j)).reads) ++
    (if l.kind = 2 then match listEntries s ci.part ci.slot l.rtab l.nprob with
      | some es => (es.filter (fun e => !entSkip e)).flatMap (fun e => (problemOf l e).reads)
      | none => []
    else [])

/-- R194, R206: a layer that was started has no counter, and the CREATE of one is not under way. -/
def layerLapsed (s : State) (l : LayerRun) : Bool :=
  !((getCtr s l.cnt).any (fun c => c.part == l.part)) &&
    !s.eng.tin.any (fun m => m.dst == 0x1104 && m.typ == 0x06 && m.arg % 256 == 1 && bits m.arg 8 12 == l.cnt && m.part == l.part)

/-- R209 RES_SECTORS: no rectangle for the layer's array section among the sectors of the image's role. -/
def noSectors (s : State) (ci : CfgImg) (all : Bool) (i : Nat) : Bool :=
  (findRect s ci (arrayOff s ci (layerAt s ci i).cfg) (roleSector s ci.part all)).isNone

/-- LAYER_START: operands of tier 2 are read, the run checks are made, and the CREATE of the layer's counter is sent to the
counter unit; a layer that Copper units compute has no counter (R222). The layer waits for its placement to be loaded and for
the tests of its partition to end (R364). DEDUCED: log entry 34. -/
def execLayerStart (part : Nat) (run : Option Nat) (img layer cnt tag : Nat) (s : State) : Host.Outcome State Fault Refusal :=
  .next (match ctxImage s part run img with
    | none => s
    | some (ci, c, all) =>
      let old := s.eng.layers.find? (fun l => l.part == part && l.run == run && (run.isSome || l.img == img))
      let l := layerAt s ci layer
      let n := groupLen s ci 8 layer
      if !serving s ∨ !layerDue s part c img ci layer ∨ nLayers s ci ≤ layer ∨ 4096 ≤ cnt ∨ (leadSector s part).isNone ∨
          (getCtr s cnt).isSome ∨ old.any (fun o => !layerLapsed s o) then s
      else
        let s := modEng s (fun e => { e with layers := e.layers.filter (fun l => some l != old) })
        match unread s part ci.slot (layerReads s ci layer n) with
        | r :: _ =>
          if s.host.reads.any (fun x => x.use == .list part r.1) then s
          else
            let x := startRead s (part + 1) r.1 r.2 (.list part r.1)
            if x.2 then x.1 else failRun (dropRead x.1 s.host.nextId) part c { status := 0x0408, layer := layer }
        | [] =>
          let pl := layerPlace s ci c layer
          match runCheck s ci layer n (match pl with | some pl => 64 * pl.sectors.length - pl.withdrawn.length | none => 1) with
          | .wait => s
          | .fail r => failRun s part c r
          | .ok tr tc probs =>
            if noSectors s ci all layer then
              (if s.eng.tests.any (fun t => t.part == some part) then s
               else failRun s part c { status := 0x031B, layer := layer })
            else if copperLayer (all && c == .step) l then
              modEng s (fun e => { e with layers := e.layers ++ [⟨part, run, img, layer, n, cnt⟩] })
            else match pl with
              | none => s
              | some _ => tinSend (modEng s (fun e => { e with layers := e.layers ++ [⟨part, run, img, layer, n, cnt⟩] }))
                  (createMsg s part l cnt (tag % 256) tr tc probs))

/-- R194: no DRAIN of the context's sectors is incomplete. -/
def drainsDone (s : State) (p : Nat) (c : Ctx) : Bool :=
  let secs := ctxSectors s p c
  !s.eng.cores.any (fun k => secs (k.1 / 64) && k.2.se.any (fun e => e.2.xfers.any (fun x => x.kind == .drain && !x.fin)))

/-- R165: the stream and vector programs of a layer have ended: none of its context's sectors runs one. -/
def programsDone (s : State) (p : Nat) (c : Ctx) : Bool :=
  let secs := ctxSectors s p c
  !s.eng.cores.any (fun k => secs (k.1 / 64) && (k.2.busy || k.2.se.any (fun e =>
    e.2.state == .running || e.2.state == .waiting || e.2.state == .aborting)))

/-- R194, R312, R403: a layer of a run has ended; after the last, or at the boundary a thermal stop waits for, the run
completes. A run that ends OK has its report written (R313). -/
def runBoundary (s : State) (p id n : Nat) : State :=
  match (getPart s p).runs.find? (fun r => r.cmd == id) with
  | none => s
  | some r =>
    let sq := match findCmd s id with | some k => k.d.sq | none => 0
    let s := divideEnergy s p [(sq, 1)]
    let stop := s.power.tsRuns.contains id
    if r.left ≤ n ∨ stop then
      let s := clearPlaces (freeCtrs s p (fun x => x == some id)) (fun pl => pl.part == p && pl.ctx == .run id)
      let fl := (((getPart s p).runs.find? (fun r => r.cmd == id)).map (·.flg)).getD 0
      let st := if n < r.left then 0x010A else 0
      let s := match findCmd s id with
        | some k => writeReport s k.d (reportAt k.d) { status := st }
        | none => s
      let s := endCmd s id (fun k => { k with status := st, flg := fl.toNat })
      modPow (modPart s p (fun P => { P with runs := P.runs.filter (fun r => r.cmd != id) }))
        (fun w => { w with tsRuns := w.tsRuns.filter (· != id) })
    else modPart s p (fun P => { P with
      runs := updateWhere (fun r => r.cmd == id) (fun r => { r with layer := r.layer + n, left := r.left - n, kept := r.flg }) P.runs
      discards := 0, failed := [] })

/-- R194: a serving context has completed `n` layers of an image from layer `i` on. -/
def layersRan (s : State) (p img i n : Nat) (c : Ctx) : State :=
  modPart s p (fun P => match c with
    | .chunk => { P with chunk := P.chunk.map (fun k => { k with ran := SSet 0 k.ran img (i + n), ready := s.tick }) }
    | .step => { P with step := P.step.map (fun t => { t with ran := SSet 0 t.ran img (i + n) }) }
    | .run _ => P)

/-- LAYER_COMPLETE: every tile is retired and every DRAIN complete, and the layer's programs have ended; of a layer without a
counter, the Copper units compute D (R222). DEDUCED: log entry 34. -/
def execLayerComplete (part : Nat) (run : Option Nat) (img layer cnt : Nat) (s : State) : Host.Outcome State Fault Refusal :=
  .next (match ctxImage s part run img,
      s.eng.layers.find? (fun l => l.part == part && l.run == run && l.layer == layer && l.cnt == cnt && (run.isSome || l.img == img)) with
    | some (ci, c, all), some lr =>
      let l := layerAt s ci layer
      let copper := copperLayer (all && c == .step) l
      let tiles := match getCtr s cnt with
        | some k => k.part == part && decide (tileCount k.probs ≤ k.retired)
        | none => false
      if (!copper && (!tiles || !drainsDone s part c || !programsDone s part c)) ∨ !noReports s part ∨ !serving s then s
      else
        let t := if copper then copperRun s ci lr l else s
        let t := modEng t (fun e => { e with layers := dropFirst (· == lr) e.layers })
        let rs := layerReads s ci layer lr.count
        let t := modPart t part (fun P => { P with lists := P.lists.filter (fun x => !rs.any (fun r => r.1 == x.1)) })
        match run with
        | some id => runBoundary t part id lr.count
        | none => layersRan (layerOutputs t copper part img (layer + lr.count - 1) ci c) part img layer lr.count c
    | _, _ => s)

end Sys2Proof.Machine
end

