-- ==== Sys2Proof/Machine/Manage.lean ====
section
/-! DEFINITION. Pewter's view of the module (R381, R393, R430, R433–R436), what a report to the rack manager carries, and the
operations that take units or main power away (R367–R374, R404). -/

namespace Sys2Proof.Machine

/-! ### Settings, caps and registers -/

/-- R381: the block that encodes the defaults. -/
def defaultSettings : List Byte :=
  leBytes 4 0x52574F50 ++ leBytes 2 1 ++ leBytes 2 0 ++ leBytes 2 2000 ++ leBytes 2 1200 ++ leBytes 1 4 ++ zeros 19

/-- R381: the block accepted latest. -/
def settingsNow (s : State) : List Byte := s.pew.settings.getD defaultSettings

/-- R381: the block in force: RMCAP and ORPHCAP take effect at once, the rest at the next EN assertion. -/
def settingsForce (s : State) : List Byte :=
  let f := s.pew.inForce.getD defaultSettings
  f.take 8 ++ ((settingsNow s).drop 8).take 4 ++ f.drop 12

/-- R393: the rack cap and the effective cap LIMIT. -/
def rackCap (s : State) : Nat := fld (settingsNow s) (if s.pew.hbLost then 0x0A else 0x08) 2
def limitOf (s : State) : Nat := min s.power.hostCap (rackCap s)

/-- R294: STATUS of a function. -/
def statusReg (s : State) (fn : Nat) : Nat :=
  let run := s.sec.state == 4
  let P := getPart s (fn - 1)
  b2n run + 2 * (if fn = 0 then b2n run else b2n (P.phase != .absent)) + 4 * b2n (fn != 0 && P.phase == .faulted)

def PwrState.code : PwrState → Nat
  | .off => 0 | .starting => 1 | .on => 2 | .floorPace => 3 | .thermalStop => 4 | .tripped => 5 | .railFault => 6 | .pfw => 7

/-- R430: PSTATE. -/
def pstateCode (s : State) : Nat :=
  match s.power.pstate with
  | .on => if s.power.tstop then 4 else if s.power.floor then 3 else 2
  | x => x.code

/-- R430: MSTAT. -/
def mstat (s : State) : Nat :=
  2 ^ 32 * s.sec.state + 2 ^ 24 * (s.pew.ga % 64) + 2 ^ 16 * pstateCode s + 8 * b2n (s.pew.moduleFault || s.power.railFault) +
    4 * b2n s.pew.hbLost + 2 * b2n s.power.pg

/-- R459: what an indicator of the bulkhead shows; the STATUS indicator flashes green at 1 Hz, amber at 2 Hz. -/
inductive Light where
  | off | green | greenFlash | amber | amberFlash | blue
  deriving DecidableEq, Repr

/-- R459: the STATUS indicator: of the rows that apply, the lowest governs. "Standby only" is PSTATE off; in the PFW# sequence,
which no row names, the rows on PG and RDY alone apply. DEDUCED: log entry 51. -/
def statusLight (s : State) : Light :=
  let rdy := bit (statusReg s 0) 0
  let ps := pstateCode s
  if !s.pew.standby ∨ ps = 0 then .off
  else if s.pew.moduleFault ∨ s.power.railFault ∨ ps = 5 ∨ ps = 6 ∨ !s.pew.ageLimit.isEmpty then .amberFlash
  else if ps = 3 ∨ ps = 4 then .amber
  else if ps = 1 ∨ (s.power.pg ∧ !rdy) then .greenFlash
  else if ps = 2 ∧ rdy then .green
  else .off

/-- R459: the LOCATE indicator. -/
def locateLight (s : State) : Light := if s.pew.standby && bit s.pew.tctl.toNat 0 then .blue else .off

/-- R430: a tray register. -/
def trayReg (s : State) (i : Nat) : Dword :=
  let deg := fun (t : Int) => wrapInt 8 (t.fdiv 10)
  if i = 0 then BitVec.ofNat 64 (mstat s)
  else if i = 1 then BitVec.ofNat 64 (2 ^ 32 * (s.power.avg % 65536) + 2 ^ 16 * (s.power.vin % 65536) +
    (if s.power.pg then limitOf s else 0))
  else if i = 2 then BitVec.ofNat 64 (2 ^ 16 * deg s.power.tout + 2 ^ 8 * deg s.power.tin +
    (if s.power.pg then deg s.power.tj else 0))
  else if i = 3 then s.pew.tctl
  else 0

/-- R429: an in-band interrupt follows a change of PSTATE, FAULT or HBLOST. PRESUMED: log entry 39. -/
def ibiCheck (s : State) : State :=
  let key := bits (mstat s) 16 8 * 16 + bits (mstat s) 2 2
  if key = s.pew.mstatSeen ∨ !s.pew.standby ∨ !s.pew.ready ∨ s.pew.dynAddr.isNone then s
  else modPew s (fun w => { w with mstatSeen := key, ibis := w.ibis ++ [BitVec.ofNat 64 (mstat s)] })

/-! ### Telemetry (R436) -/

/-- R398: the shared counter. -/
def sharedEnergy (s : State) : Nat :=
  let parts := if s.power.ecmode = 1 then (partIds.map (fun p => (getPart s p).energy)).sum else 0
  (s.power.energy + 2 ^ 64 - parts % 2 ^ 64) % 2 ^ 64

def int64 (v : Int) : Nat := wrapInt 64 v

/-- The number whose bit i is `f i`, for `n` bits from `lo` on. -/
def maskOf (f : Nat → Bool) (lo n : Nat) : Nat := ((List.range n).map (fun i => if f (lo + i) then 2 ^ i else 0)).sum

def PortState.code : PortState → Nat
  | .dark => 0 | .training => 1 | .check => 2 | .active => 3 | .retrain => 4 | .quarantine => 5 | .down => 6 | .fenced => 7

/-- R350: the ten counters of a port. -/
def portValues (s : State) (n : Nat) : List Nat :=
  let p := getPort s n
  (p.state.code + 256 * p.cause + 65536 * (p.since % 2 ^ 48)) ::
    (List.range 9).map (fun i => SGet 0 s.pew.ports (16 * n + i + 1))

def PState.code : PState → Nat
  | .absent => 0 | .empty => 1 | .selecting => 2 | .idle => 3 | .busy => 4 | .faulted => 5

/-- R371: a unit of the partition is fenced. DEDUCED: log entry 35. -/
def belowSelected (s : State) (p : Nat) : Bool :=
  decide ((getPart s p).lostGroups ≠ 0) || s.pew.fence.any (fun u => partOfUnit s u.1 u.2 == some p)

/-- R369: each sub-channel has 7,936 spare rows. -/
def sparesOf (s : State) (sub : Nat) : Nat := 7936 - SGet 0 s.mem.spares sub

/-- R436: the values of a group. -/
def telemValues (s : State) (group index : Nat) : Option (List Nat) :=
  if group = 1 ∧ index = 0 then some
    [s.sec.state, statusReg s 0, pstateCode s, b2n s.power.paced, s.power.pace, s.power.vset, s.power.avg, limitOf s,
     s.power.hostCap, rackCap s, 10 * s.power.vin, s.power.energy, sharedEnergy s, s.tick, s.pew.ga]
  else if group = 2 ∧ index = 0 then some
    ((List.range 68).map (fun i => int64 (s.power.sensors.getD i 0)) ++ [int64 s.power.tin, int64 s.power.tout])
  else if group = 3 ∧ index ≤ 112 then
    let d := SGet {} s.power.droop index
    some [d.trips, d.total, d.longest]
  else if group = 4 ∧ index < 16 then some (portValues s index)
  else if group = 5 ∧ index < 64 then
    let a := SGet {} s.pew.age index
    some [Config.startOfLife index, a.latest, a.loss, a.tick]
  else if group = 6 ∧ index < 48 then
    let m := SGet {} s.pew.mem index
    some [m.corrected, m.uncorrectable, m.remapped,
      (List.range 8).foldl (fun a k => min a (sparesOf s (8 * index + k))) 7936, m.passes, m.passEnd, b2n m.late]
  else if group = 7 ∧ index = 0 then some
    ((List.range 64).map (fun i => maskOf (fenced s utCore) (64 * i) 64) ++ [maskOf (fenced s utCobalt) 0 64] ++
     (List.range 6).map (fun i => maskOf (fenced s utCopper) (64 * i) 64) ++
     [maskOf (fenced s utSlice) 0 48, maskOf (fenced s utGroup) 0 48, maskOf (fun n => (getPort s n).state == .fenced) 0 16])
  else if group = 8 ∧ index = 0 then some ((List.range 32).map (SGet 0 s.host.mbLoss) ++ [s.pew.sampLost])
  else if group = 9 ∧ index < 16 then
    let P := getPart s index
    some [(pstate s index).code, P.sectors, P.groups, b2n (belowSelected s index), P.cw, P.seqno]
  else none

/-- R433: a message to the rack manager. -/
def pewMsg (type status seq : Nat) (payload : List Byte) : List Byte :=
  leBytes 4 0x53574550 ++ leBytes 1 type ++ leBytes 1 status ++ leBytes 2 payload.length ++ leBytes 4 seq ++ zeros 4 ++
    leBytes 8 Config.serial.toNat ++ payload

def pewSend (s : State) (b : List Byte) : State :=
  if s.pew.standby && s.pew.ready then modPew s (fun w => { w with out := w.out ++ [b] }) else s

/-- R436: a group reported unasked, with SEQ 0. -/
def pewReport (s : State) (group index : Nat) : State :=
  pewSend s (pewMsg 0x84 0 0 (((telemValues s group index).getD []).flatMap (leBytes 8)))

/-- R416: a change of boot state is reported. -/
def bootState (s : State) (st : Nat) : State :=
  pewReport (modSec s (fun e => { e with state := st, tick := s.tick })) 1 0

/-! ### Sample rings (R443) -/

/-- R443: the last eight bytes of an entry, PHASE apart. -/
def sampTail (first sector setid nval : Nat) (lost : Bool) : List Byte :=
  leBytes 8 (first + 2 ^ 16 * sector + 2 ^ 22 * setid + 2 ^ 24 * nval + 2 ^ 27 * b2n lost)

/-- A status entry; false when there is no ring with room. -/
def sampStatus (s : State) (fn setid op status : Nat) : State × Bool :=
  match findRing s .sample fn 0 with
  | none => (s, false)
  | some r =>
    if !r.room then (s, false)
    else
      let key := 4 * fn + setid
      let lost := match SGet none s.pew.sets key with | some t => t.lost | none => false
      let s := modPew s (fun w => { w with sets := SSet none w.sets key ((SGet none w.sets key).map (fun t => { t with lost := false })) })
      (ringWrite s .sample fn 0 (leBytes 2 op ++ leBytes 2 status ++ zeros 12 ++ leBytes 8 s.tick ++ sampTail 0xFFFF 0 setid 1 lost), true)

/-- R443: the sets that name a sector continue without it. -/
def sampSectorLost (s : State) (sector : Nat) : State :=
  (s.pew.sets.filter (fun e => match e.2 with | some t => bit t.sectors sector | none => false)).foldl (fun s e =>
    let s := modPew s (fun w => { w with sets := SSet none w.sets e.1 ((SGet none w.sets e.1).map
      (fun t => { t with sectors := putBits t.sectors sector 1 0 })) })
    let r := sampStatus s (e.1 / 4) (e.1 % 4) 0x02 0x0004
    if r.2 then r.1
    else modPew s (fun w => { w with sets := SSet none w.sets e.1 ((SGet none w.sets e.1).map (fun t => { t with lost := true })) })) s

/-! ### Units taken away -/

/-- R356: registrations of a partition's slots start again. -/
def reregister (s : State) (p : Nat) : State :=
  modPart s p (fun P => { P with
    slots := (P.slots.map (fun e => (e.1, e.2.map (fun sl => { sl with reg := .running s.tick })))).filter
      (fun e => decide (e.2 ≠ none)) })

/-- R108, R206: a core leaves the placements it is in, with its link group, and is withdrawn on their counters. -/
def leavePlaces (s : State) (core : Nat) : State :=
  (s.eng.places.filter (fun pl => pl.sectors.contains (core / 64))).foldl (fun s pl =>
    let w := rectWithdrawn s (placeImg pl) pl.sect pl.variant pl.sectors
    let new := w.filter (fun n => !pl.withdrawn.contains n)
    let s := modEng s (fun e => { e with places := updateWhere (fun x => x.id == pl.id) (fun x => { x with withdrawn := w }) e.places })
    let mine := fun (c : Ctr) => c.part == pl.part && (match pl.ctx with | .run id => c.run == some id | _ => c.run.isNone)
    let ns := s.eng.ctrs.filterMap (fun e => match e.2 with | some c => if mine c then some e.1 else none | none => none)
    new.foldl (fun s k => ns.foldl (fun s n =>
      tinSend s { dst := 0x1104, src := cobEp ((leadSector s pl.part).getD 0), typ := 0x06, part := pl.part
                  arg := 4 + 2 ^ 8 * n + 2 ^ 20 * k }) s) s) s

/-- R367: a unit is fenced. -/
def fenceUnit (s : State) (u n : Nat) : State :=
  let part := partOfUnit s u n
  let s := modPew s (fun w => { w with fence := if w.fence.contains (u, n) then w.fence else w.fence ++ [(u, n)] })
  let s := if u = utCore then leavePlaces (modCore s n coreAbort) n else s
  let s := if u = utCobalt then sampSectorLost (clearPlaces s (fun pl => pl.sectors.contains n)) n else s
  match part with
  | none => s
  | some p =>
    let s := if u = utCopper then modPart s p (fun P => { P with rowMoves := if P.rowMoves.contains n then P.rowMoves else P.rowMoves ++ [n] }) else s
    let s := if u = utCobalt ∨ u = utCore then reregister s p else s
    let tested := s.eng.away.any (fun a => a.1 == utCobalt && bit (getPart s p).sectors a.2 && !fenced s a.1 a.2)
    if (liveSectors s p).isEmpty ∧ !tested then faultPart s p 4 else s

/-- R370: what a group fault takes from the requests, images and sets of a partition. `n` draws decide where occupancy
tables lie (R469). -/
def loseGroup (s : State) (p g : Nat) : State :=
  let nxl := match selSlot s p with | some sl => (hdrOf s sl).expOff | none => 0
  let s := (reqsOf s p).foldl (fun s e =>
    let d := if nxl = 0 then (0, s) else drawFree s
    if e.2.pt.any (fun x => (x.2 - 1) / 2 ^ 20 == g) || d.1 % 2 == 1 then failReq d.2 e.1 7 0x0602 else d.2) s
  let left := ((reqsOf s p).filter (fun e => e.2.err.isNone)).map (fun e => e.2.resv)
  let d := drawFree s
  modPart d.2 p (fun P => { P with
    groups := putBits P.groups g 1 0
    lostGroups := putBits P.lostGroups g 1 1
    kvPages := P.kvPages - d.1 % (P.kvPages - left.sum + 1)
    slots := (P.slots.map (fun e => (e.1, e.2.map (fun sl => { sl with
      damaged := sl.damaged ++ (List.range sl.segs.length).filter (fun i =>
        sl.segs.getD i 0 / 2 ^ 36 == g && !sl.damaged.contains i)
      reg := .running s.tick })))).filter (fun e => decide (e.2 ≠ none))
    steers := (P.steers.map (fun e => (e.1, e.2.map (fun t => { t with
      damaged := t.damaged || t.off / 2 ^ 36 == g || (t.off + t.bytes.length - 1) / 2 ^ 36 == g })))).filter
      (fun e => decide (e.2 ≠ none)) })

/-- R370: a memory group faults. -/
def groupDown (s : State) (g : Nat) : State :=
  if fenced s utGroup g then s
  else
    let part := partOfGroup s g
    let s := modPew s (fun w => { w with fence := w.fence ++ [(utGroup, g)] })
    let s := modMem s (fun m => { m with
      lines := m.lines.filter (fun e => e.1 / 65536 != g)
      reads := m.reads.filter (fun r => r.1 / 2 ^ 36 != g) })
    match part with
    | none => s
    | some p =>
      let gs := groupsOf (getPart s p)
      if gs.head? = some g ∨ gs.length ≤ 1 then faultPart s p 4
      else discardInterval (loseGroup (forgetFaults s p) p g) p

/-- R363, R370: a group fault reported by a detector. -/
def groupFault (s : State) (g src addr : Nat) : State :=
  if fenced s utGroup g then s
  else groupDown (logFault s (faultEnt s utGroup src g (partOfGroup s g) 4 addr)) g

/-- R374: a module fault. -/
def moduleFault (s : State) : State :=
  let s := partIds.foldl (fun s p => faultPart s p 5) s
  ibiCheck (pewReport (modPew s (fun w => { w with moduleFault := true })) 1 0)

/-! ### Main power -/

/-- R404, R427: main power goes: everything but the standby domain, the fuses and what has left the module is lost. The
port counters and ports are those of an unpowered module. DEDUCED: log entry 38. -/
def mainLost (s : State) (ps : PwrState) : State :=
  let r := State.reset
  let t := modRtes (modParts (modEng (modMem s (fun _ => r.mem)) (fun _ => r.eng)) (fun _ => [])) (fun _ => [])
  let t := modHost t (fun h => { r.host with writes := h.writes, nextId := h.nextId })
  let t := modFab t (fun f => { r.fab with out := f.out })
  let t := modSec t (fun e => { r.sec with svnMin := e.svnMin, rootRev := e.rootRev, out := e.out, draws := e.draws })
  let t := modPew t (fun w => { w with ports := [], sets := [], applied := none, mem := [] })
  modPow t (fun w => { r.power with
    pstate := ps
    en := w.en
    pg := false
    perst := w.perst
    needCycle := w.needCycle
    uv := w.uv
    railFault := w.railFault
    vin := w.vin
    tin := w.tin
    tout := w.tout
    enAt := w.enAt })

end Sys2Proof.Machine
end

