-- ==== Sys2Proof/Machine/Power.lean ====
section
/-! DEFINITION. Power, pace, droop and thermal control (R378 to R407). -/

namespace Sys2Proof.Machine

/-! ### Floor pace (R392, R395, R397) -/

/-- Chunks and steps in progress are touched by a departure. -/
def touchAll (s : State) : State :=
  partIds.foldl (fun s p => modPart s p (fun P => { P with
    chunk := P.chunk.map (fun k => { k with departed := true })
    step := P.step.map (fun t => { t with departed := true }) })) s

/-- R395: entry to floor pace; `tj` when Tj calls for it, `cap` the CAUSE of a cap excursion. -/
def enterFloor (s : State) (tj : Bool) (cap : Option Nat) : State :=
  if !s.power.pg then s
  else if s.power.floor then modPow s (fun w => { w with hot := w.hot || tj })
  else
    let dep := s.power.paced && s.power.departed.isNone
    let s := modPow s (fun w => { w with
      floor := true, burst := true, gate := 800, vset := 600, hot := tj, lastClimb := s.tick
      departed := if dep then some s.tick else w.departed
      depCause := if dep then (if tj then 2 else 1) else w.depCause
      refA := if dep then (w.recentA.filter (fun a => decide (s.tick < a.1 + 100000000))).foldl (fun m a => max m a.2) 0 else w.refA })
    let s := if dep then touchAll s else s
    ibiCheck (match cap with
      | some c => modPew s (fun w => { w with
          capLog := SSet none w.capLog w.capNext (some { tstart := s.tick, limit := limitOf s, peak := s.power.avg, cause := c })
          capNext := w.capNext + 1 })
      | none => s)

/-- R395: LIMIT has changed. DEDUCED: log entry 37. -/
def limitChanged (s : State) (cause : Nat) : State :=
  if limitOf s < s.power.avg then enterFloor s false (some cause) else s

/-- R388: three times rate85(V) in M items/s, V in mV. -/
def rate85x3 (v : Nat) : Nat := if v ≤ 750 then 3150 + 11 * (v - 600) else 4800 + 9 * (v - 750)

/-- R389: the paced setpoint of a pace code, in mV. -/
def pacedSet (code : Nat) : Nat :=
  (((List.range 51).map (fun i => 600 + 5 * i)).find? (fun v => decide (300 * (800 + 10 * code) ≤ 89 * rate85x3 v))).getD 850

/-- R388: no lane runs above this rate in M items/s. -/
def topRate (v : Nat) (tj : Int) : Nat := ((rate85x3 v : Int) * (100000 - 17 * (tj - 850)) * 103 / 30000000).toNat

/-! ### Sequences -/

/-- R381, R346: EN is recognised: the settings and the plan come into force. DEDUCED: log entry 36. -/
def recognise (s : State) : State :=
  if !s.power.en ∨ s.power.needCycle ∨ s.power.uv ∨ !s.pew.standby ∨ !s.pew.ready ∨ s.power.pg ∨ s.power.pstate = .starting then s
  else
    let b := settingsNow s
    let s := modPew s (fun w => { w with inForce := some b, applied := w.plan })
    ibiCheck (modPow s (fun w => { w with
      pstate := .starting, enAt := s.sbTick, railFault := false, paced := fld b 6 1 == 1, pace := fld b 7 1, slope := fld b 12 1, ecmode := fld b 13 1 }))

/-- Every rail off before PG. -/
def startAbort (s : State) (ps : PwrState) : State := ibiCheck (modPow s (fun w => { w with pstate := ps }))

/-- R405, R406: completions of a partition's requests and commands as the power-fail sequence makes them due.
DEDUCED: log entry 40. -/
def pfwComps (s : State) (fn : Nat) : List Comp :=
  s.host.comps.filter (fun c => c.fn == fn) ++
  ((if fn = 0 then [] else reqsOf s (fn - 1)).filter (fun e => !e.2.appended)).map (fun e =>
    { fn := e.2.fn, sq := e.2.sq, seq := e.2.seq, cid := e.2.cid, status := 0x0109, stop := 8, req := some e.1 : Comp }) ++
  (s.host.cmds.filter (fun c => c.d.fn == fn)).map (fun c => compOf c.d 0x0109) ++
  (s.host.handed.filter (fun d => d.fn == fn)).map (fun d => compOf d 0x0109)

/-- R408, R426: a boot in progress is abandoned. -/
def bootAbandon (s : State) : State :=
  if s.sec.state = 4 then s
  else modHost (modSec s (fun e => { e with bundle := [], len := 0, state := if 1 ≤ e.state ∧ e.state ≤ 3 then 0 else e.state }))
    (fun h => { h with reads := h.reads.filter (fun r => r.use != .bundle) })

/-- R211, R248: a PFW# hold makes every request FREE; its entry keeps what the completion and stream entries still due take from
it. -/
def holdReqs (s : State) : State :=
  modRtes s (fun m => (m.map (fun e => (e.1, e.2.map (fun q =>
    { q with dyn0 := { q.dyn0 with state := .free }, dyn1 := { q.dyn1 with state := .free } })))).filter (fun e => decide (e.2 ≠ none)))

/-- R405: time 0 of the power-fail sequence. DEDUCED: log entry 36. -/
def pfwStart (s : State) : State :=
  if s.power.pfwAt.isSome then s
  else
    let s := enterFloor (bootAbandon s) false none
    let comps := (0 :: partIds.map (· + 1)).flatMap (pfwComps s)
    let s := holdReqs s
    let s := modHost s (fun h => { h with comps := comps, cmds := [], handed := [], reads := [] })
    let s := partIds.foldl (fun s p => if (getPart s p).phase = .absent then s else endEpoch s p 6) s
    ibiCheck (modPow s (fun w => { w with pfwAt := some s.tick, pstate := .pfw, needCycle := true }))

/-- EN_ASSERT. -/
def execEnAssert (s : State) : Host.Outcome State Fault Refusal :=
  .next (whenB (!s.power.en) s (recognise (modPow s (fun w => { w with en := true }))))

/-- EN_DEASSERT: with main power the module acts as at PFW# (R385). -/
def execEnDeassert (s : State) : Host.Outcome State Fault Refusal :=
  .next (whenB s.power.en s
    (let t := modPow s (fun w => { w with en := false })
     let t := if s.power.pg then pfwStart t else if s.power.pstate = .starting then startAbort t .off else t
     modPow t (fun w => { w with needCycle := false })))

/-- POWER_GOOD: PG is asserted and the tick count starts at 0. -/
def execPowerGood (s : State) : Host.Outcome State Fault Refusal :=
  .next (whenB (s.power.pstate == .starting && s.pew.standby) s
    (ibiCheck (setTick (modPow (modPew s (fun w => { w with moduleFault := false })) (fun w => { w with pg := true, pstate := .on })) 0)))

/-- R466: a rail's entry in the fault log. -/
def logRail (s : State) (rail : Nat) (part : Option Nat) (outcome : Nat) : State := logFault s (faultEnt s utRail 0x10 rail part outcome 0)

/-- RAIL_START_FAIL. -/
def execRailStartFail (rail : Nat) (s : State) : Host.Outcome State Fault Refusal :=
  onUnit (decide (rail < 212)) (whenB (s.power.pstate == .starting) s
    (startAbort (modPow (logRail s rail none 6) (fun w => { w with railFault := true, needCycle := true })) .railFault))

/-- R364, R375: the work in progress of a partition, if it has any, is discarded, with the program faults found in it.
DEDUCED: log entry 35. -/
def discardWork (s : State) (p : Option Nat) : State := match p with
  | some p => if partWorks (getPart s p) then discardInterval (forgetFaults s p) p else s
  | none => s

/-- R383: a rail has left its window. -/
def railOut (s : State) (rail : Nat) : State :=
  let off := fun (s : State) => modPow s (fun w => { w with railsOff := if w.railsOff.contains rail then w.railsOff else w.railsOff ++ [rail] })
  if rail < 64 then
    let p := partOfSector s rail
    discardWork (fenceUnit (off (logRail s rail p 2)) utCobalt rail) p
  else if rail < 112 then
    let p := partOfGroup s (rail - 64)
    discardWork ((List.range 8).foldl (fun s k => fenceUnit s utCopper (8 * (rail - 64) + k)) (off (logRail s rail p 2))) p
  else if 113 ≤ rail ∧ rail < 161 then
    let p := partOfGroup s (rail - 113)
    discardWork (fenceUnit (off (logRail s rail p 2)) utSlice (rail - 113)) p
  else if 161 ≤ rail ∧ rail < 209 then
    groupDown (off (logRail s rail (partOfGroup s (rail - 161)) 4)) (rail - 161)
  else
    let s := mainLost (modPow (logRail s rail none 6) (fun w => { w with railFault := true, needCycle := true })) .railFault
    ibiCheck s

/-- RAIL_OUT_OF_WINDOW. -/
def execRailOutOfWindow (rail : Nat) (s : State) : Host.Outcome State Fault Refusal :=
  onUnit (decide (rail < 212)) (whenB (s.power.pg && !s.power.railsOff.contains rail) s (railOut s rail))

/-- INPUT_UNDERVOLTAGE, `vin` in units of 10 mV. DEDUCED: log entry 36. -/
def execInputUndervoltage (vin : Nat) (s : State) : Host.Outcome State Fault Refusal :=
  .next (whenB (decide (vin < 3850)) s
    (let t := modPow s (fun w => { w with vin := vin, uv := true })
     if s.power.pg then pfwStart t else if s.power.pstate = .starting then startAbort (modPow t (fun w => { w with needCycle := true })) .off else t))

/-- INPUT_COLLAPSE: the sequence ends with every rail off (R406). -/
def execInputCollapse (vin : Nat) (s : State) : Host.Outcome State Fault Refusal :=
  .next (whenB (decide (vin < 3600)) s
    (let t := modPow s (fun w => { w with vin := vin, uv := true })
     if s.power.pg then ibiCheck (mainLost (modPow t (fun w => { w with needCycle := w.needCycle || s.power.pfwAt.isNone })) .off)
     else if s.power.pstate = .starting then startAbort (modPow t (fun w => { w with needCycle := true })) .off else t))

/-- INPUT_RESTART. -/
def execInputRestart (vin : Nat) (s : State) : Host.Outcome State Fault Refusal :=
  .next (whenB (decide (3950 < vin) && s.power.uv) s (recognise (modPow s (fun w => { w with vin := vin, uv := false }))))

/-- INPUT_OVERVOLTAGE. -/
def execInputOvervoltage (vin : Nat) (s : State) : Host.Outcome State Fault Refusal :=
  .next (whenB (decide (6200 < vin)) s
    (let t := modPow s (fun w => { w with vin := vin, needCycle := true })
     if s.power.pg then ibiCheck (mainLost t .off) else if s.power.pstate = .starting then startAbort t .off else t))

/-- PFW_RECOGNISED; before PG, with EN asserted, the module does not assert PG (R454). -/
def execPfwRecognised (s : State) : Host.Outcome State Fault Refusal :=
  .next (if s.power.pg then pfwStart s
    else if s.power.pstate = .starting then startAbort (modPow s (fun w => { w with needCycle := true })) .off
    else if s.power.en && s.pew.standby then modPow s (fun w => { w with needCycle := true }) else s)

/-- PFW_POWER_OFF: 3.0 ms after recognition. -/
def execPfwPowerOff (s : State) : Host.Outcome State Fault Refusal :=
  .next (match s.power.pfwAt with
    | some t => whenB (decide (t + 300000 ≤ s.tick)) s (recognise (ibiCheck (mainLost s .off)))
    | none => s)

/-! ### Droop (R386) -/

/-- DROOP_TRIP: the domain is held; `held` keeps the tick of the trip plus 1. -/
def execDroopTrip (domain : Nat) (s : State) : Host.Outcome State Fault Refusal :=
  onUnit (decide (domain < 113)) (whenB (s.power.pg && SGet 0 s.power.held domain == 0) s
    (modPow s (fun w => { w with
      held := SSet 0 w.held domain (s.tick + 1)
      droop := SSet {} w.droop domain (let d := SGet {} w.droop domain; { d with trips := d.trips + 1 }) })))

/-- R391: pace periods of a hold counted against the partition's chunk and step. -/
def addHeld (s : State) (p : Option Nat) (ns : Nat) : State :=
  let n := ceilDiv (ns * (80 + s.power.pace)) 100
  match p with
  | some p => modPart s p (fun P => { P with
      chunk := P.chunk.map (fun k => { k with held := k.held + n })
      step := P.step.map (fun t => { t with held := if t.tout.isSome then t.held else t.held + n }) })
  | none => s

/-- R172: STARTs held back take effect on every core that is no longer held. -/
def releaseAll (s : State) : State := s.eng.cores.foldl (fun s c => seRelease s c.1) s

/-- DROOP_RELEASE after a hold of `held` ns; more than 10 µs is a rail out of window. -/
def execDroopRelease (domain held : Nat) (s : State) : Host.Outcome State Fault Refusal :=
  onUnit (decide (domain < 113)) (whenB (s.power.pg && SGet 0 s.power.held domain != 0) s
    (let s := modPow s (fun w => { w with
       held := SSet 0 w.held domain 0
       droop := SSet {} w.droop domain (let d := SGet {} w.droop domain
                                        { d with total := d.total + held, longest := max d.longest held }) })
     let s := addHeld s (if domain < 64 then partOfSector s domain else if domain < 112 then partOfGroup s (domain - 64) else none) held
     if 10000 < held then railOut s domain else releaseAll s))

/-! ### The governor (R394 to R397) -/

/-- R397: excursions that still last. -/
def capWatch (s : State) : State :=
  let open' := s.pew.capLog.filter (fun e => match e.2 with | some c => c.tend == 0 | none => false)
  open'.foldl (fun s e => modPew s (fun w => { w with
    capLog := SSet none w.capLog e.1 ((SGet none w.capLog e.1).map (fun c => { c with
      peak := max c.peak s.power.avg, tend := if s.power.avg ≤ limitOf s then s.tick else 0 })) })) s

/-- POWER_SAMPLE: `watts` at the 48 V input, and the energy of partitions since the latest sample. -/
def execPowerSample (watts : Nat) (uj : List (Nat × Nat)) (s : State) : Host.Outcome State Fault Refusal :=
  .next (whenB (s.power.pg && s.tick % 1000 == 0) s
    (let s := modPow s (fun w =>
       let l := (watts :: w.samples).take 100
       let a := l.sum / l.length
       { w with
         samples := l
         avg := a
         recentA := if w.floor then w.recentA else (s.tick, a) :: w.recentA.filter (fun x => decide (s.tick < x.1 + 100000000))
         energy := (w.energy + 10 * watts) % 2 ^ 64 })
     let s := if s.power.ecmode = 1 then (uj.filter (fun e => decide (e.1 < 16))).foldl (fun s e =>
         if (getPart s e.1).phase = .absent then s
         else modPart s e.1 (fun P => { P with energy := (P.energy + e.2) % 2 ^ 64, undivided := P.undivided + e.2 })) s
       else s
     let s := capWatch s
     if 105 * limitOf s < 100 * s.power.avg then enterFloor s false (some 4) else s))

/-- R384: the governor's limit during the start ramp, in W. -/
def rampLimit (s : State) : Nat := match s.power.ramp with
  | some t => if s.tick < t + 2000000 then 400 + (limitOf s - 400) * (s.tick - t) / 2000000 else limitOf s
  | none => limitOf s

/-- GOVERNOR_ACTION. DEDUCED: log entry 37. -/
def execGovernorAction (s : State) : Host.Outcome State Fault Refusal :=
  let L := rampLimit s
  let A := s.power.avg
  .next (whenB (s.power.pg && !s.power.paced && !s.power.floor && s.tick % 10000 == 0) s
    (if 98 * L < 100 * A ∨ 1000 ≤ s.power.tj then
      if s.power.vset ≤ 600 then
        if 98 * L < 100 * A then
          let d := drawFree s
          enterFloor d.2 false (some (1 + d.1 % 4))
        else enterFloor s false none
      else modPow s (fun w => { w with vset := w.vset - 5 })
    else if 100 * A < 93 * L ∧ s.power.tj < 980 ∧ s.power.vset < 850 ∧ s.power.lastRaise + 100000 ≤ s.tick then
      modPow s (fun w => { w with vset := w.vset + 5, lastRaise := s.tick })
    else s))

/-- R402: Tj has stayed below 98 °C for 1 s. -/
def cool (s : State) : Bool := match s.power.below98 with
  | some t => decide (t + 100000000 ≤ s.tick)
  | none => false

/-- R402: the thermal stop and the start ramp after it, both at floor pace, are over. DEDUCED: log entry 37. -/
def stopOver (s : State) : Bool := !s.power.tstop && (match s.power.stopEnd with
  | some t => decide (t + 2000000 ≤ s.tick)
  | none => true)

/-- FLOOR_PACE_CLIMB. DEDUCED: log entry 37. -/
def execFloorPaceClimb (s : State) : Host.Outcome State Fault Refusal :=
  .next (whenB (s.power.pg && s.power.floor && !s.power.paced && s.power.pfwAt.isNone && stopOver s && decide (100 * s.power.avg < 93 * limitOf s) &&
      decide (s.power.tj < 980) && decide (s.power.lastClimb + 100000 ≤ s.tick) && (!s.power.hot || cool s)) s
    (ibiCheck (modPow s (fun w =>
      if w.burst then { w with burst := false, lastClimb := s.tick }
      else if topRate w.vset w.tj ≤ w.gate + 50 then { w with gate := 0, floor := false, hot := false, lastClimb := s.tick }
      else { w with gate := w.gate + 50, lastClimb := s.tick }))))

/-- DEPARTURE_RETURN. -/
def execDepartureReturn (s : State) : Host.Outcome State Fault Refusal :=
  .next (match s.power.departed with
    | none => s
    | some t =>
      whenB (s.power.pg && s.power.paced && cool s && stopOver s && s.power.pfwAt.isNone && decide (105 * s.power.refA ≤ 100 * limitOf s)) s
        (let s := modPew (touchAll s) (fun w => { w with
           depLog := w.depLog.map (fun e => (e.1, e.2.map (fun d => if d.tend = 0 then { d with tend := s.tick } else d))) })
         ibiCheck (modPow s (fun w => { w with
           departed := none, lastDep := (t, s.tick), floor := false, burst := false, gate := 0, hot := false, vset := pacedSet w.pace }))))

/-- START_RAMP_PACE_STEP: step k of the pace code's steps at k / code of the 20 ms. -/
def execStartRampPaceStep (s : State) : Host.Outcome State Fault Refusal :=
  .next (match s.power.ramp with
    | none => s
    | some t =>
      let k := s.power.rampRate - 80 + 1
      whenB (s.power.pg && s.power.paced && decide (k ≤ s.power.pace) && decide (t + ceilDiv (2000000 * k) (max s.power.pace 1) ≤ s.tick)) s
        (modPow s (fun w => { w with rampRate := w.rampRate + 1, ramp := if k = w.pace then none else w.ramp })))

/-! ### Thermal limits (R401 to R404) -/

/-- R403: entry to the thermal stop. A partition without a chunk or step commits at once. DEDUCED: log entry 37. -/
def thermalStop (s : State) : State :=
  let ps := partIds.filter (fun p => (getPart s p).phase != .absent && (getPart s p).phase != .faulted && !(reqsOf s p).isEmpty)
  let runs := partIds.flatMap (fun p => (getPart s p).runs.map (·.cmd))
  let s := modPow s (fun w => { w with tstop := true, tsParts := ps, tsRuns := runs })
  ps.foldl (fun s p => if (getPart s p).chunk.isNone ∧ (getPart s p).step.isNone then commitWord s p else s) s

/-- THERMAL_SAMPLE: the 68 sensors, and the coolant, in units of 0.1 °C. -/
def execThermalSample (sensors : List Int) (inlet outlet : Int) (s : State) : Host.Outcome State Fault Refusal :=
  .next (whenB (s.power.pg && s.tick % 10000 == 0 && sensors.length == 68) s
    (let tj := maxOf sensors
     let s := modPow s (fun w => { w with
       sensors := sensors, tin := inlet, tout := outlet, tj := tj
       below98 := if tj < 980 then some (w.below98.getD s.tick) else none
       below95 := if tj ≤ 950 then some (w.below95.getD s.tick) else none })
     let s := if 1030 ≤ tj then enterFloor s true none else s
     ibiCheck (if 1050 ≤ tj ∧ !s.power.tstop then thermalStop s else s)))

/-- THERMAL_STOP_END. -/
def execThermalStopEnd (s : State) : Host.Outcome State Fault Refusal :=
  .next (match s.power.below95 with
    | some t => whenB (s.power.tstop && decide (t + 1000000000 ≤ s.tick)) s
        (ibiCheck (releaseAll (modPow s (fun w => { w with
           tstop := false, stopEnd := some s.tick, ramp := some s.tick, rampRate := 80 }))))
    | none => s)

/-- HARDWARE_TRIP. -/
def execHardwareTrip (s : State) : Host.Outcome State Fault Refusal :=
  .next (whenB s.power.pg s (ibiCheck (mainLost (modPow s (fun w => { w with needCycle := true })) .tripped)))

/-- HEARTBEAT_LOST: none for 2 s, from the latest or from the moment Pewter became ready. -/
def execHeartbeatLost (s : State) : Host.Outcome State Fault Refusal :=
  .next (whenB (s.pew.standby && s.pew.ready && !s.pew.hbLost && decide (s.pew.beat.getD s.pew.readyAt + 200000000 ≤ s.sbTick)) s
    (ibiCheck (limitChanged (modPew s (fun w => { w with hbLost := true })) 3)))

end Sys2Proof.Machine
end

