-- ==== Sys2Proof/Machine/Pewter.lean ====
section
/-! DEFINITION. Pewter: standby power, the tray's I3C target, the rack manager's messages and queue-depth sampling (R346 to
R348, R427 to R444). -/

namespace Sys2Proof.Machine

/-! ### Standby power (R428, R447, R454) -/

/-- STANDBY_UP: Pewter starts with empty stores; `ga` is GA[5:0] as sampled. -/
def execStandbyUp (ga : Nat) (s : State) : Host.Outcome State Fault Refusal :=
  .next (whenB (!s.pew.standby) s
    (modPow (setStandby (modPew s (fun w => { standby := true, ready := false, fresh := true, ga := ga % 64, out := w.out })) 0)
      (fun w => { w with needCycle := false, railFault := false, pstate := .off })))

/-- PEWTER_READY. -/
def execPewterReady (s : State) : Host.Outcome State Fault Refusal :=
  .next (whenB (s.pew.standby && !s.pew.ready) s (recognise (modPew s (fun w => { w with ready := true, readyAt := s.sbTick }))))

/-- STANDBY_LOSS: with main power up, a hardware trip; every store is lost. DEDUCED: log entry 38. -/
def execStandbyLoss (s : State) : Host.Outcome State Fault Refusal :=
  .next (whenB s.pew.standby s
    (let t := if s.power.pg then mainLost s .tripped else s
     modPow (modPew t (fun w => { standby := false, ready := false, out := w.out }))
       (fun w => { w with needCycle := false, pstate := .off })))

/-! ### The tray and the rack manager's port (R429 to R431) -/

/-- R429: Pewter's static I3C address. -/
def staticAddr (s : State) : Nat := 0x08 + s.pew.ga % 4

/-- R431: the MAC address of the rack manager's port, most significant byte first. -/
def macAddr : List Byte := 0x02#8 :: beBytes 5 (Config.serial.toNat % 2 ^ 40)

/-- R431: the IPv6 link-local address formed from it (the modified EUI-64 of RFC 4291), and the UDP port. -/
def linkLocal : List Byte := [0xFE, 0x80, 0, 0, 0, 0, 0, 0, 0x00] ++ (macAddr.drop 1).take 2 ++ [0xFF, 0xFE] ++ macAddr.drop 3
def rackPort : Nat := 7456

/-- SETDASA: an address is assigned when Pewter has none. PRESUMED: log entry 39. -/
def execSetdasa (addr : Nat) (s : State) : Host.Outcome State Fault Refusal :=
  .next (whenB (s.pew.standby && s.pew.ready && s.pew.dynAddr.isNone && decide (addr < 128)) s
    (ibiCheck (modPew s (fun w => { w with dynAddr := some addr }))))

/-- ENTDAA. PRESUMED: log entry 39. -/
def execEntdaa (addr : Nat) (s : State) : Host.Outcome State Fault Refusal :=
  .next (whenB (s.pew.standby && s.pew.ready && s.pew.dynAddr.isNone && decide (addr < 128)) s
    (ibiCheck (modPew s (fun w => { w with dynAddr := some addr }))))

/-- I3C_INDEX_WRITE. -/
def execI3cIndexWrite (index : Nat) (s : State) : Host.Outcome State Fault Refusal :=
  .next (whenB (s.pew.standby && s.pew.ready && decide (index < 256)) s (ibiCheck (modPew s (fun w => { w with index := index }))))

/-- I3C_REGISTER_WRITE: TCTL.LOCATE alone can be written. -/
def execI3cRegisterWrite (index : Nat) (value : Dword) (s : State) : Host.Outcome State Fault Refusal :=
  .next (whenB (s.pew.standby && s.pew.ready && decide (index < 256)) s
    (ibiCheck (modPew s (fun w => { w with index := index, tctl := if index = 3 then value &&& 1 else w.tctl }))))

/-! ### The rack manager's messages (R433, R434) -/

/-- What becomes of a message. -/
inductive PewIn where
  | drop
  | malformed
  | ok (payload : List Byte)
  deriving DecidableEq, Repr

/-- R434: the length a request type takes; the chunk number decides PLAN_PUT's. -/
def pewLen (type : Nat) (payload : List Byte) : Option Nat :=
  if type = 1 ∨ type = 7 then some 0
  else if type = 2 then some 32
  else if type = 3 then some (if fld payload 0 2 = 16 then 324 else 1028)
  else if type = 4 ∨ type = 6 then some 4
  else if type = 5 then some 16
  else none

/-- R434: reserved payload bytes are 0. -/
def pewZero (type : Nat) (b : List Byte) : Bool :=
  if type = 3 then zeroAt b 2 2 else if type = 4 ∨ type = 6 then zeroAt b 1 1 else if type = 5 then zeroAt b 1 7 else true

def pewParse (msg : List Byte) : PewIn :=
  let b := msg.drop 24
  if msg.length < 24 ∨ fld msg 0 4 ≠ 0x53574550 ∨ 0x80 ≤ fld msg 4 1 ∨ fld msg 0x10 8 ≠ Config.serial.toNat then .drop
  else if pewLen (fld msg 4 1) b ≠ some b.length ∨ fld msg 6 2 ≠ b.length ∨ !zeroAt msg 5 1 ∨ !zeroAt msg 0x0C 4 ∨
      !pewZero (fld msg 4 1) b then .malformed
  else .ok b

def pewAnswer (s : State) (msg : List Byte) (status : Nat) (payload : List Byte) : State :=
  pewSend s (pewMsg (fld msg 4 1 + 0x80) status (fld msg 8 4) payload)

/-- A request of one type taken from the link. -/
def pewRow (type : Nat) (msg : List Byte) (f : List Byte → State → State) (s : State) : Host.Outcome State Fault Refusal :=
  .next (whenB (s.pew.standby && s.pew.ready && fld msg 4 1 == type) s
    (match pewParse msg with
     | .drop => modPew s (fun w => { w with discarded := w.discarded + 1 })
     | .malformed => pewAnswer s msg 1 []
     | .ok b => f b s))

/-- RACK_MANAGER_MALFORMED. -/
def execRackManagerMalformed (msg : List Byte) (s : State) : Host.Outcome State Fault Refusal :=
  .next (whenB (s.pew.standby && s.pew.ready) s
    (match pewParse msg with
     | .drop => modPew s (fun w => { w with discarded := w.discarded + 1 })
     | .malformed => pewAnswer s msg 1 []
     | .ok _ => s))

/-- HEARTBEAT. -/
def execHeartbeat (msg : List Byte) (s : State) : Host.Outcome State Fault Refusal :=
  pewRow 1 msg (fun _ s =>
    pewAnswer (ibiCheck (limitChanged (modPew s (fun w => { w with beat := some s.sbTick, hbLost := false })) 2)) msg 0 []) s

/-- R381: the table of the block. -/
def settingsOk (b : List Byte) : Bool :=
  let cap := fun o => decide (1000 ≤ fld b o 2 ∧ fld b o 2 ≤ 2400)
  fld b 0 4 == 0x52574F50 && fld b 4 2 == 1 && decide (fld b 6 1 ≤ 1) &&
    (if fld b 6 1 = 1 then decide (fld b 7 1 ≤ 70) else fld b 7 1 == 0) && cap 8 && cap 10 &&
    decide (1 ≤ fld b 12 1 ∧ fld b 12 1 ≤ 20) && decide (fld b 13 1 ≤ 1) && zeroAt b 14 18

/-- SETTINGS_PUT. -/
def execSettingsPut (msg : List Byte) (s : State) : Host.Outcome State Fault Refusal :=
  pewRow 2 msg (fun b s =>
    if settingsOk b then
      pewAnswer (limitChanged (modPew s (fun w => { w with settings := some b })) (if s.pew.hbLost then 3 else 2)) msg 0 []
    else pewAnswer s msg 2 []) s

/-! ### The wiring plan (R347, R348, R435) -/

def planExpect (b : List Byte) (n : Nat) : Nat := fld b (0x40 + 16 * n) 1
def planFport (b : List Byte) (n : Nat) : Nat := fld b (0x41 + 16 * n) 1
def planFchip (b : List Byte) (n : Nat) : Nat := fld b (0x42 + 16 * n) 2
def planFserial (b : List Byte) (n : Nat) : Nat := fld b (0x48 + 16 * n) 8

/-- R348 item 1. -/
def planForm (b : List Byte) : Bool :=
  let crc := (crc32c (b.take 0x1C ++ zeros 4 ++ b.drop 0x20)).toNat
  fld b 0 4 == 0x4E414C50 && fld b 4 2 == 1 && fld b 0x1C 4 == crc && fld b 8 8 != 0 && zeroAt b 6 2 && zeroAt b 0x1A 2 &&
    zeroAt b 0x20 32 && decide (fld b 0x18 2 < 2 ^ 14) &&
    (List.range 16).all (fun n =>
      decide (planExpect b n ≤ 3 ∧ planFport b n < 16 ∧ planFchip b n < 2 ^ 14) && zeroAt b (0x44 + 16 * n) 4 &&
      (planExpect b n != 0 || zeroAt b (0x40 + 16 * n) 16)) &&
    (b.drop 0x140).all (fun r => decide (r.toNat ≤ 0x10 ∨ 0xFE ≤ r.toNat))

/-- R348: the number of the first check that fails. -/
def planCheck (b : List Byte) : Option Nat :=
  let routes := numbered 0 (b.drop 0x140)
  let chip := fld b 0x18 2
  let used := fun n => planExpect b n != 0
  let coh := (List.range 11).filter used
  let chips := coh.map (planFchip b)
  if !planForm b then some 1
  else if fld b 0x10 8 ≠ Config.serial.toNat then some 2
  else if !(List.range 16).all (fun n => !used n || planExpect b n == (if n ≤ 10 then 1 else if n ≤ 13 then 2 else 3)) then some 3
  else if !chips.Nodup ∨ chips.contains chip then some 4
  else if !routes.all (fun r => (r.2 == 0xFE#8) == (r.1 == chip)) then some 5
  else if !routes.all (fun r => !decide (r.2.toNat ≤ 10) || (used r.2.toNat && planFchip b r.2.toNat == r.1)) ∨
      !coh.all (fun n => fld b (0x140 + planFchip b n) 1 == n) then some 6
  else if !routes.all (fun r => !decide (11 ≤ r.2.toNat ∧ r.2.toNat ≤ 13) || (used r.2.toNat && !chips.contains r.1)) then some 7
  else if !routes.all (fun r => (!decide (r.2.toNat = 14 ∨ r.2.toNat = 15) || used r.2.toNat) &&
      (r.2 != 0x10#8 || (used 14 && used 15))) then some 8
  else none

/-- PLAN_PUT: one chunk; the last one decides. -/
def execPlanPut (msg : List Byte) (s : State) : Host.Outcome State Fault Refusal :=
  pewRow 3 msg (fun b s =>
    let n := fld b 0 2
    let got := if n = 0 then some [] else match s.pew.xfer with
      | some x => if x.1 = n then some x.2 else none
      | none => none
    match got with
    | none => pewAnswer (modPew s (fun w => { w with xfer := none })) msg 1 []
    | some g =>
      let all := g ++ b.drop 4
      if n < 16 then pewAnswer (modPew s (fun w => { w with xfer := some (n + 1, all) })) msg 0 []
      else
        let s := modPew s (fun w => { w with xfer := none })
        match planCheck all with
        | none => pewAnswer (modPew s (fun w => { w with plan := some all })) msg 0 []
        | some k => pewAnswer s msg 2 (leBytes 1 k)) s

/-! ### Telemetry, logs, returns -/

/-- TELEM_GET. -/
def execTelemGet (msg : List Byte) (s : State) : Host.Outcome State Fault Refusal :=
  pewRow 4 msg (fun b s => match telemValues s (fld b 0 1) (fld b 2 2) with
    | some vs => pewAnswer s msg 0 (vs.flatMap (leBytes 8))
    | none => pewAnswer s msg 1 []) s

def faultBytes (e : FaultEnt) : List Byte :=
  leBytes 8 e.tick ++ leBytes 8 e.csn ++ leBytes 1 e.utype ++ leBytes 1 e.source ++ leBytes 2 e.unit ++ leBytes 1 e.part ++
    leBytes 1 e.outcome ++ leBytes 2 e.count ++ leBytes 8 e.addr

def capBytes (e : CapEnt) : List Byte :=
  leBytes 8 e.tstart ++ leBytes 8 e.tend ++ leBytes 2 e.limit ++ leBytes 2 e.peak ++ leBytes 1 e.cause ++ zeros 11

def depBytes (e : DepEnt) : List Byte :=
  leBytes 8 e.tstart ++ leBytes 8 e.tend ++ leBytes 8 e.csn ++ leBytes 1 e.part ++ leBytes 1 e.cause ++ zeros 6

/-- R434: up to 32 entries of a log from a sequence number on, after the number of the first. -/
def logBytes {E : Type} (log : SMap (Option E)) (next start : Nat) (f : E → List Byte) : List Byte :=
  let es := (log.filter (fun e => decide (start ≤ e.1))).take 32
  leBytes 8 (match es with | e :: _ => e.1 | [] => next) ++
    es.flatMap (fun e => match e.2 with | some x => f x | none => [])

/-- LOG_GET. -/
def execLogGet (msg : List Byte) (s : State) : Host.Outcome State Fault Refusal :=
  pewRow 5 msg (fun b s =>
    let n := fld b 8 8
    if fld b 0 1 = 0 then pewAnswer s msg 0 (logBytes s.pew.faultLog s.pew.faultNext n faultBytes)
    else if fld b 0 1 = 1 then pewAnswer s msg 0 (logBytes s.pew.capLog s.pew.capNext n capBytes)
    else if fld b 0 1 = 2 then pewAnswer s msg 0 (logBytes s.pew.depLog s.pew.depNext n depBytes)
    else pewAnswer s msg 1 []) s

/-- A port changes state. DEDUCED: log entry 29. -/
def portTo (s : State) (n : Nat) (st : PortState) : State := modPort s n (fun p => { p with state := st, since := s.tick })

/-- RETURN of a fenced unit. -/
def execReturnUnit (msg : List Byte) (s : State) : Host.Outcome State Fault Refusal :=
  pewRow 6 msg (fun b s =>
    let u := fld b 0 1
    let n := fld b 2 2
    if !(List.contains [utCore, utCobalt, utCopper, utSlice, utGroup, utPort] u) then pewAnswer s msg 1 []
    else if s.power.tstop ∨ s.power.pfwAt.isSome then pewAnswer s msg 3 []
    else if u = utPort then
      if n < 16 ∧ (getPort s n).state = .fenced then pewAnswer (portTo s n .training) msg 0 [] else pewAnswer s msg 3 []
    else if !s.pew.fence.contains (u, n) then pewAnswer s msg 3 []
    else if !s.power.pg then pewAnswer (modPew s (fun w => { w with
        returns := if w.returns.contains (u, n) then w.returns else w.returns ++ [(u, n)] })) msg 0 []
    else
      let e := ((partOfUnit s u n).getD 16, u, n)
      pewAnswer (modEng s (fun g => { g with returning := if g.returning.contains e then g.returning else g.returning ++ [e] })) msg 0 []) s

/-- SETTINGS_GET. -/
def execSettingsGet (msg : List Byte) (s : State) : Host.Outcome State Fault Refusal :=
  pewRow 7 msg (fun _ s => pewAnswer s msg 0 (settingsForce s ++ settingsNow s)) s

/-! ### Sampling (R441 to R444) -/

/-- The oldest message of a channel leaves its receive queue. -/
def mbTake (s : State) (ch : Nat) : State := modHost s (fun h => { h with mbRx := SSet [] h.mbRx ch ((SGet [] h.mbRx ch).drop 1) })

/-- Discarded sampling messages are counted in the MAILBOX group. -/
def sampDiscard (s : State) : State := modPew s (fun w => { w with sampLost := w.sampLost + 1 })

/-- The oldest message at Pewter on a channel whose sender is a host function, when its OP satisfies `op`. -/
def sampRow (op : Nat → Bool) (ch : Nat) (f : Nat → List Byte → State → State) (s : State) : Host.Outcome State Fault Refusal :=
  onUnit (decide (ch < 32)) (match SGet [] s.host.mbRx ch with
    | [] => s
    | m :: _ =>
      if !(bindValid s ch && bindRcv s ch == 0x80 && op (fld m 0 1) && s.pew.standby && s.sec.state == 4) then s
      else
        let t := mbTake s ch
        if 0x10 < bindSnd s ch then sampDiscard t
        else f (bindSnd s ch) m t)

/-- R299, R311: a doorbell word that a function may give a new ring; `k` is the kind of ring it replaces. -/
def dbFree (s : State) (fn db : Nat) (k : Option RingKind) : Bool :=
  !s.host.rings.any (fun r => r.fn == fn && r.db == db && some r.kind != k)

def dbRange (s : State) (fn db : Nat) : Bool := decide (2 ≤ db ∧ db < 64 * (bits (getFn s fn).dbCfg.toNat 0 8 + 1))

/-- A ring that replaces every other of its kind and function. -/
def putRing (s : State) (r : Ring) : State :=
  modHost s (fun h => { h with rings := h.rings.filter (fun x => !(x.kind == r.kind && x.fn == r.fn && x.id == r.id)) ++ [r] })

/-- SRING. -/
def execSring (ch : Nat) (s : State) : Host.Outcome State Fault Refusal :=
  sampRow (· == 1) ch (fun fn m s =>
    let ok := zeroAt m 1 7 && zeroAt m 0x14 44 && fld m 8 8 % 4096 == 0 && decide (6 ≤ fld m 0x10 1 ∧ fld m 0x10 1 ≤ 16) &&
      decide (fld m 0x11 1 ≤ 63) && dbRange s fn (fld m 0x12 2) && dbFree s fn (fld m 0x12 2) (some .sample)
    if !mayWrite s fn then sampDiscard s
    else if ok then
      (sampStatus (putRing s { kind := .sample, fn := fn, id := 0, base := fld m 8 8, lg := fld m 0x10 1, db := fld m 0x12 2
                               vec := fld m 0x11 1 }) fn 0 1 0).1
    else
      let r := sampStatus s fn 0 1 1
      if r.2 then r.1 else sampDiscard s) s

/-- A message that needs a sample ring: without one it is discarded, and it waits while the ring lacks room. -/
def sampRing (s0 : State) (fn : Nat) (f : State → State) (s : State) : State :=
  match findRing s .sample fn 0 with
  | none => sampDiscard s
  | some r => if r.room && mayWrite s fn then f s else s0

/-- R444: readings per second of sets as a fraction. -/
def sampRate (ts : List SampSet) : Nat × Nat :=
  ts.foldl (fun a t =>
    let n := 100000000 * ones 64 t.sectors * ones 64 t.cores * ones 64 t.kinds
    (a.1 * t.period + n * a.2, a.2 * t.period)) (0, 1)

/-- SSET. DEDUCED: log entry 42. -/
def execSset (ch : Nat) (s : State) : Host.Outcome State Fault Refusal :=
  sampRow (· == 2) ch (fun fn m t => sampRing s fn (fun s =>
    let id := fld m 1 1
    let set : SampSet := { sectors := fld m 8 8, cores := fld m 0x10 8, kinds := fld m 0x18 8, period := fld m 0x20 4
                           count := fld m 0x24 4, last := s.tick }
    let ok := zeroAt m 2 6 && zeroAt m 0x28 24 && decide (id < 4) && decide (100 ≤ set.period ∧ set.period ≤ 100000000)
    let perm := decide (set.kinds < 2 ^ 23) && (fn == 0 ||
      (List.range 64).all (fun n => !bit set.sectors n || bit (getPart s (fn - 1)).sectors n))
    let others := s.pew.sets.filterMap (fun e => if e.1 = 4 * fn + id then none else e.2)
    let rate := sampRate (set :: others)
    let st := if !ok then 1 else if !perm then 2 else if 64000000 * rate.2 < rate.1 then 3 else 0
    if st ≠ 0 then (sampStatus s fn (id % 4) 2 st).1
    else
      let s := modPew s (fun w => { w with sets := SSet none w.sets (4 * fn + id) (some set) })
      let s := (sampStatus s fn id 2 0).1
      ((List.range 64).filter (fun n => bit set.sectors n && fenced s utCobalt n)).foldl sampSectorLost s) t) s

/-- SSTOP; it also takes a message of reserved OP from its channel. -/
def execSstop (ch : Nat) (s : State) : Host.Outcome State Fault Refusal :=
  sampRow (fun o => o != 1 && o != 2) ch (fun fn m t => sampRing s fn (fun s =>
    let id := fld m 1 1
    if fld m 0 1 ≠ 3 then s
    else if 4 ≤ id ∨ !zeroAt m 2 62 then (sampStatus s fn (id % 4) 3 1).1
    else if (SGet none s.pew.sets (4 * fn + id)).isNone then (sampStatus s fn id 3 0).1
    else
      let s := (sampStatus s fn id 3 5).1
      modPew s (fun w => { w with sets := SSet none w.sets (4 * fn + id) none })) t) s

/-- R442: a point of a core; `x` is the crossbar's count of words presented and not granted. -/
def pointOf (s : State) (core kind x : Nat) : Nat :=
  let cs := s.eng.cells.filter (fun e => coreOfCell (e.1 / 1024) (e.1 % 1024) == core)
  let k := getCore s core
  let side := fun (m : SMap (List Item)) d => ((List.range 16).map (fun i => (SGet [] m (16 * d + i)).length)).sum
  let v :=
    if kind = 0 then (cs.map (fun e => cellItems e.2)).sum
    else if kind = 1 then (cs.filter (fun e => waitF e.2)).length
    else if kind = 2 then (cs.filter (fun e => waitS e.2)).length
    else if kind = 3 then (cs.filter (fun e => e.2.op == 3 && decide (e.2.delay.length + b2n e.2.fu.isSome ≥ 32))).length
    else if kind < 8 then side k.fin (kind - 4)
    else if kind < 12 then side k.fout (kind - 8)
    else if kind < 16 then (getSE s core (kind - 12)).incomplete
    else if kind < 20 then
      (getSE s core (kind - 16)).outst / 64
    else if kind = 20 then x
    else if kind = 21 then (s.eng.tin.filter (fun m => m.dst == core)).length
    else coreClaims s core
  min v 65535

/-- The points of one sector of a set, with their values; crossbar counts are taken from `xs` in order. -/
def sectorPoints (s : State) (t : SampSet) (n : Nat) (xs : List Nat) : List (Nat × Nat) × List Nat :=
  ((List.range 64).flatMap (fun c => ((List.range 23).filter (fun k => bit t.cores c && bit t.kinds k)).map (fun k => (c, k)))).foldl
    (fun a p => (a.1 ++ [(64 * p.1 + p.2, pointOf s (64 * n + p.1) p.2 (a.2.headD 0))], if p.2 = 20 then a.2.drop 1 else a.2)) ([], xs)

/-- R443: entries of one sector. -/
def sampEntries (s : State) (n setid : Nat) : Nat → List (Nat × Nat) → Bool → List (List Byte)
  | 0, _, _ => []
  | _, [], _ => []
  | fuel + 1, p :: ps, lost =>
    let now := p :: ps.take 7
    (now.flatMap (fun v => leBytes 2 v.2) ++ zeros (16 - 2 * now.length) ++ leBytes 8 s.tick ++
      sampTail p.1 n setid (now.length - 1) lost) :: sampEntries s n setid fuel (ps.drop 7) false

/-- SAMPLE_TICK: `values` are the crossbar counts of the set's points of kind 0x14, in order. DEDUCED: log entry 42. -/
def execSampleTick (fn set : Nat) (values : List Nat) (s : State) : Host.Outcome State Fault Refusal :=
  onUnit (decide (fn < 17) && decide (set < 4)) (match SGet none s.pew.sets (4 * fn + set), findRing s .sample fn 0 with
    | some t, some r =>
      if !(s.tick % t.period == 0 && decide (t.last < s.tick) && s.power.pg && s.pew.standby) then s
      else
        let sec := (List.range 64).filter (bit t.sectors)
        let es := (sec.foldl (fun (a : List (List Byte) × List Nat) n =>
          let x := sectorPoints s t n a.2
          (a.1 ++ sampEntries s n set (x.1.length + 1) x.1 (t.lost && a.1.isEmpty), x.2)) ([], values)).1
        let fits := mayWrite s fn && decide ((r.cnt - r.idx).toNat + es.length ≤ r.slots)
        let t' := { t with taken := t.taken + 1, last := s.tick, lost := if fits then (t.lost && es.isEmpty) else true }
        let s := if fits then es.foldl (fun s e => ringWrite s .sample fn 0 e) s else s
        let s := modPew s (fun w => { w with sets := SSet none w.sets (4 * fn + set) (some t') })
        if t.count ≠ 0 ∧ t.count ≤ t'.taken then
          let s := (sampStatus s fn set 2 5).1
          modPew s (fun w => { w with sets := SSet none w.sets (4 * fn + set) none })
        else s
    | _, _ => s)

end Sys2Proof.Machine
end

