-- ==== Sys2Proof/Machine/Boot.lean ====
section
/-! DEFINITION. Electrum: boot, the firmware bundle, attestation and epoch seals (R408 to R426). SPDM message layouts are those
of DSP0274 1.3 (PRESUMED). -/

namespace Sys2Proof.Machine

/-! ### Seals (R421 to R424) -/

/-- R411: the TSK of the running bundle. -/
def tskKey (s : State) : Nat := Config.tsk s.sec.bm

/-- R421: bytes 0x000 to 0x0AF of a seal. -/
def sealBody (s : State) (p : Nat) (e : EpochEnd) : List Byte :=
  let total := e.first + e.count
  leBytes 4 0x4C414553 ++ leBytes 2 1 ++ leBytes 1 p ++ leBytes 1 e.reason ++ leBytes 8 Config.serial.toNat ++
    SGet (zeros 16) s.sec.chainIds p ++ leBytes 8 e.epoch ++ leBytes 8 total ++ leBytes 4 e.count ++ leBytes 2 (ownChip s) ++
    zeros 2 ++ leBytes 8 e.tick ++ (if total = 0 then zeros 64 else e.head) ++ s.sec.bm.take 16 ++
    (sha512 (p521PubBytes (tskKey s))).take 16 ++ zeros 16

/-- A signature in two components of 66 bytes. -/
def sigBytes (d : Nat) (digest : List Byte) : List Byte :=
  let x := ecdsaSign d digest
  beBytes 66 x.1 ++ beBytes 66 x.2

def chainKey (c : List Byte) : Nat := beNat c

/-- R423: the seal is not its chain's most recent one. -/
def newerHeld (l : List Seal) (x : Seal) : Bool := l.any (fun y => y.chain == x.chain && decide (x.epoch < y.epoch))

/-- R423: the partition whose oldest seal goes: most held seals, then the earliest made. -/
def fullestPart (l : List Seal) : Nat :=
  let n := fun p => (l.filter (fun x => x.part == p)).length
  let m := (l.map (fun x => n x.part)).foldl max 0
  ((l.find? (fun x => n x.part == m)).map (·.part)).getD 0

/-- R423: a seal enters the store; a full store loses one. DEDUCED: log entry 40. -/
def storeSeal (e : Electrum) (x : Seal) : Electrum :=
  if e.store.length < 1024 then { e with store := e.store ++ [x] }
  else
    let p := fullestPart e.store
    match e.store.find? (fun y => y.part == p && newerHeld (e.store ++ [x]) y) with
    | none => { e with store := e.store ++ [x] }
    | some y => { e with
        store := dropFirst (· == y) e.store ++ [x]
        dropped := SSet 0 e.dropped (chainKey y.chain) (SGet 0 e.dropped (chainKey y.chain) + 1) }

/-- The oldest ended epoch of a partition is sealed. DEDUCED: log entry 40. -/
def makeSeal (s : State) (p : Nat) : State :=
  match (getPart s p).ended with
  | [] => s
  | e :: es =>
    let b := sealBody s p e
    let x : Seal := { part := p, chain := SGet (zeros 16) s.sec.chainIds p, epoch := e.epoch, bytes := b ++ sigBytes (tskKey s) (sha512 b) }
    let s := modPart s p (fun P => { P with ended := es })
    modSec s (fun c => { storeSeal c x with latest := SSet none c.latest p (some x) })

/-- Every ended epoch of a partition is sealed. -/
def sealAll : Nat → Nat → State → State
  | 0, _, s => s
  | n + 1, p, s => sealAll n p (makeSeal s p)

/-- R425: what a verifier accepts of one chain: its seals with their DROPPED, in ring order, and its records by SEQ. `cert` says that
the slot 1 chain of a seal reaches a Dravden root and names SERIAL and FWMEAS; `key` is the TSK public key of a KEYID. -/
def chainOk (cert : List Byte → Bool) (key : List Byte → Nat × Nat) (seals : List (List Byte × Nat)) (recs : List (List Byte)) : Bool :=
  let f := fun (b : List Byte) (o n : Nat) => fld b o n
  let before := fun (i : Nat) => seals.getD (i - 1) ([], 0)
  (numbered 0 seals).all (fun x =>
    let b := x.2.1
    let k := key ((b.drop 0x90).take 16)
    cert b && ecdsaVerify k.1 k.2 (sha512 (b.take 0xB0)) (beNat ((b.drop 0xB0).take 66)) (beNat ((b.drop 0xF2).take 66)) &&
      (x.1 == 0 || f b 0x20 8 == f (before x.1).1 0x20 8 + 1 + x.2.2) && decide (f b 0x28 8 ≤ recs.length) &&
      (f b 0x28 8 == 0 || (b.drop 0x40).take 64 == sha512 (recs.getD (f b 0x28 8 - 1) []))) &&
    (numbered 0 recs).all (fun x =>
      fld x.2 8 8 == x.1 && (x.2.drop 0x70).take 16 == ((seals.headD ([], 0)).1.drop 0x80).take 16 &&
        (x.1 == 0 || (x.2.drop 0x80).take 32 == (sha512 (recs.getD (x.1 - 1) [])).take 32))

/-- EPOCH_TIME_END. -/
def execEpochTimeEnd (part : Nat) (s : State) : Host.Outcome State Fault Refusal :=
  let P := getPart s part
  onUnit (decide (part < 16)) (whenB (s.sec.state == 4 && s.power.pg && !s.power.perst && P.phase != .absent && !P.chainOver &&
    decide (P.epochAt + 100000000 ≤ s.tick)) s (endEpoch s part 1))

/-- EPOCH_SEAL. -/
def execEpochSeal (part : Nat) (s : State) : Host.Outcome State Fault Refusal :=
  onUnit (decide (part < 16)) (whenB (s.sec.state == 4 && s.power.pg) s (makeSeal s part))

/-- SEAL_RING_WRITE. -/
def execSealRingWrite (s : State) : Host.Outcome State Fault Refusal :=
  .next (match s.sec.store, findRing s .seal 0 0 with
    | x :: xs, some r =>
      if !mayWrite s 0 ∨ !r.room then s
      else
        let d := SGet 0 s.sec.dropped (chainKey x.chain)
        let s := modSec s (fun e => { e with store := xs, dropped := SSet 0 e.dropped (chainKey x.chain) 0 })
        ringWrite s .seal 0 0 (x.bytes ++ leBytes 2 d ++ zeros 202)
    | _, _ => s)

/-! ### Boot (R408 to R416) -/

/-- PERST_ASSERT (R410, R13): what PERST# does not reset is kept: the standby domain, LPDDR6 contents, energy and sensor
figures, ports, fuses, held seals. DEDUCED: log entry 38. -/
def execPerstAssert (s : State) : Host.Outcome State Fault Refusal :=
  .next (whenB (s.power.pg && !s.power.perst) s
    (if s.power.pfwAt.isSome then modPow s (fun w => { w with perst := true })
     else
       let s := if s.sec.state = 4 then partIds.foldl (fun s p =>
           if (getPart s p).phase = .absent then s
           else
             let s := endEpoch s p 7
             sealAll (getPart s p).ended.length p s) s
         else s
       let r := State.reset
       let s := modRtes (modParts s (fun _ => [])) (fun _ => [])
       let s := modHost s (fun h => { r.host with writes := h.writes, nextId := h.nextId })
       let s := modEng s (fun e => { r.eng with nextPlace := e.nextPlace })
       let s := modFab s (fun f => { f with accs := [], brassIn := [] })
       let s := modSec s (fun e => { r.sec with
         svnMin := e.svnMin, rootRev := e.rootRev, store := e.store, dropped := e.dropped
         draws := e.draws, out := e.out, tick := s.tick })
       let s := modPow (modPew s (fun w => { w with sets := [] })) (fun w => { w with
         perst := true, hostCap := 2000, tstop := false, stopEnd := none, tsParts := [], tsRuns := [], ramp := none, rampRate := 80 })
       ibiCheck (limitChanged s 1)))

/-- R428, R468: the tests before Electrum starts: after a loss of standby every unit, else the returned ones; `failed` are the
units that fail them. -/
def startTests (s : State) (failed : List (Nat × Nat)) : State :=
  let s := if s.pew.fresh then failed.foldl (fun s u => fenceUnit s u.1 u.2) s else s
  let s := s.pew.returns.foldl (fun s u =>
    if failed.contains u then
      let d := drawFree s
      logFault d.2 (faultEnt d.2 u.1 (d.1 % 256) u.2 none 2 0)
    else modPew s (fun w => { w with
      fence := w.fence.filter (· != u)
      transients := w.transients.filter (fun t => !(t.1 == u.1 && t.2.1 == u.2)) })) s
  modPew s (fun w => { w with fresh := false, returns := [] })

/-- BOOT_START: events 1 and 2 of R408. -/
def execBootStart (failed : List (Nat × Nat)) (s : State) : Host.Outcome State Fault Refusal :=
  .next (whenB (s.power.pg && s.power.pfwAt.isNone && !s.sec.started && !s.pew.moduleFault) s
    (let s := startTests (modPow s (fun w => { w with perst := false })) failed
     bootState (modSec s (fun e => { e with started := true, waiting := true })) 0))

/-- LPDDR6_TRAINING_DONE: event 3. -/
def execLpddr6TrainingDone (s : State) : Host.Outcome State Fault Refusal :=
  .next (whenB (s.power.pg && s.sec.started) s (modSec s (fun e => { e with trained := true })))

/-- R413: a section entry: TYPE, OFF, SIZE. -/
def secEnt (b : List Byte) (i : Nat) : Nat × Nat × Nat :=
  let o := 0x100 + 16 * i
  (fld b o 1, fld b (o + 4) 4, fld b (o + 8) 4)

def secMax (t : Nat) : Nat :=
  if t = 1 then 0x100000 else if t = 2 ∨ t = 3 then 0x40000 else if t = 4 then 0x80000 else 128

/-- The bytes of a bundle's section of a type. -/
def secBytes (b : List Byte) (t : Nat) : List Byte :=
  match ((List.range 16).map (secEnt b)).find? (fun e => e.1 == t) with
  | some e => (b.drop e.2.1).take e.2.2
  | none => []

/-- R321: an identity that names a master. -/
def identOk (x : Nat) : Bool := decide (x ≤ 0x10 ∨ (0x40 ≤ x ∧ x ≤ 0x81))

/-- R415: an entry of the MBBIND section. -/
def mbbindOk (v : Nat) : Bool :=
  if bit v 31 then bits v 16 15 == 0 && identOk (bits v 0 8) && identOk (bits v 8 8) && bits v 0 8 != bits v 8 8 else v == 0

/-- R415 FORMAT. -/
def bundleForm (b : List Byte) : Bool :=
  let n := fld b 6 2
  let len := fld b 8 8
  let used := ((List.range 16).map (secEnt b)).filter (fun e => e.1 != 0)
  let mb := secBytes b 5
  fld b 0 4 == 0x4C444E42 && fld b 4 2 == 1 && decide (1 ≤ n ∧ n ≤ 16) && decide (4096 ≤ len ∧ len ≤ 67108864) && len == b.length &&
    zeroAt b 0x12 2 && decide (fld b 0x1C 1 < 16) && zeroAt b 0x1D 3 && zeroAt b 0x28 24 && zeroAt b 0xC5 59 &&
    (List.range 16).all (fun i =>
      let o := 0x100 + 16 * i
      zeroAt b (o + 1) 3 && zeroAt b (o + 12) 4 && ((decide (i < n) && (secEnt b i).1 != 0) || zeroAt b o 16)) &&
    [1, 2, 3, 4, 5].all (fun t => (used.filter (fun e => e.1 == t)).length == 1) &&
    used.all (fun e => decide (e.1 ≤ 5 ∧ e.2.1 % 64 = 0 ∧ 0x200 ≤ e.2.1 ∧ 1 ≤ e.2.2 ∧ e.2.2 ≤ secMax e.1 ∧ e.2.1 + e.2.2 ≤ len - 132) &&
      (e.1 != 5 || e.2.2 == 128)) &&
    used.all (fun e => used.all (fun f => e.1 == f.1 || decide (e.2.1 + e.2.2 ≤ f.2.1 ∨ f.2.1 + f.2.2 ≤ e.2.1))) &&
    (List.range 32).all (fun i => mbbindOk (fld mb (4 * i) 4))

/-- R414: BM. -/
def bundleBm (b : List Byte) : List Byte := sha512 (b.take (b.length - 132))

/-- R415: the state in which the checks leave boot; VERIFYING when every one holds. -/
def bundleCheck (e : Electrum) : Nat :=
  let b := e.bundle
  let key := (b.drop 0x40).take 133
  let known := (List.range 4).any (fun n =>
    sha512 key == Config.rootHash n && !bit e.rootRev n && !bit (fld b 0x1C 1) n)
  let tail := b.drop (b.length - 132)
  if !bundleForm b then 0x11
  else if !known then 0x12
  else if !ecdsaVerify (beNat ((key.drop 1).take 66)) (beNat (key.drop 67)) (bundleBm b) (beNat (tail.take 66)) (beNat (tail.drop 66)) then 0x13
  else if fld b 0x10 1 ≠ 1 ∨ !bit (fld b 0x11 1) 2 then 0x14
  else if fld b 0x14 4 < e.svnMin then 0x15
  else 2

/-- BUNDLE_FETCHED: the whole bundle has been read. -/
def execBundleFetched (s : State) : Host.Outcome State Fault Refusal :=
  .next (whenB (s.sec.state == 1 && s.power.pg && s.power.pfwAt.isNone && s.sec.bundle.length == s.sec.len) s
    (let r := bundleCheck s.sec
     let s := bootState s 2
     if r = 2 then modSec s (fun e => { e with bm := bundleBm e.bundle }) else bootState s r))

/-- FUSE_PROGRAM_DONE (R412). -/
def execFuseProgramDone (ok : Bool) (s : State) : Host.Outcome State Fault Refusal :=
  .next (whenB (s.sec.state == 2 && !s.sec.bm.isEmpty && s.power.pg && s.power.pfwAt.isNone) s
    (if ok then
      bootState (modSec s (fun e => { e with
        svnMin := max e.svnMin (fld e.bundle 0x18 4)
        rootRev := ((List.range 4).map (fun n => if bit e.rootRev n || bit (fld e.bundle 0x1C 1) n then 2 ^ n else 0)).sum })) 3
     else bootState (modSec s (fun e => { e with bm := [] })) 0x16))

/-- R148: a Cobalt core loaded from the bundle and released. -/
def cobaltStart (b : List Byte) : Cobalt :=
  { run := true, imem := SSetRun 0 [] 0 (secBytes b 2), dmem := SSetRun 0 [] 0 (secBytes b 3) }

/-- BOOT_RUNNING: R409 and event 8. -/
def execBootRunning (s : State) : Host.Outcome State Fault Refusal :=
  .next (whenB (s.sec.state == 3 && s.sec.trained && s.power.pg && s.power.pfwAt.isNone) s
    (let b := s.sec.bundle
     let mb := secBytes b 5
     let c := cobaltStart b
     let s := modHost s (fun h => { h with
       mbbind := (List.range 32).foldl (fun m i => SSet 0 m i (BitVec.ofNat 32 (fld mb (4 * i) 4))) [] })
     let s := modEng s (fun e => { e with
       cobalts := (List.range 64).foldl (fun m n => if fenced s utCobalt n then m else SSet {} m n c) [] })
     let s := modSec s (fun e => { e with bundle := [], spdm := 0, resync := true, vca := [], msgB := [], msgL := [] })
     let s := (List.range 16).foldl (fun s n => match s.pew.applied with
       | some pl => if planExpect pl n ≠ 0 ∧ (getPort s n).state = .dark then portTo s n .training else s
       | none => s) s
     let s := modPow s (fun w => { w with
       ramp := some s.tick, rampRate := 80, vset := if w.paced && !w.floor then pacedSet w.pace else w.vset })
     bootState s 4))

/-! ### SPDM (R417 to R420) -/

/-- A response leaves the DOE mailbox. PRESUMED: log entry 39. -/
def spdmSend (s : State) (b : List Byte) : State := modSec s (fun e => { e with out := e.out ++ [b] })

/-- ERROR with an error code. -/
def spdmErr (s : State) (code : Nat) : State := spdmSend s (leBytes 1 0x13 ++ leBytes 1 0x7F ++ leBytes 1 code ++ leBytes 1 0)

/-- The responder is up. -/
def spdmUp (s : State) : Bool := s.sec.waiting && s.power.pg && !s.power.perst && s.host.dlActive

/-- A request of one code at a stage of negotiation; earlier ones draw ERROR UnexpectedRequest, or RequestResynch after
event 8, and another version VersionMismatch. -/
def spdmRow (code stage : Nat) (req : List Byte) (f : State → State) (s : State) : Host.Outcome State Fault Refusal :=
  .next (whenB (spdmUp s && fld req 1 1 == code) s
    (if fld req 0 1 ≠ 0x13 then spdmErr s 0x41
     else if s.sec.resync then spdmErr s 0x43
     else if s.sec.spdm < stage then spdmErr s 0x04
     else f s))

/-- GET_VERSION: negotiation starts anew. -/
def execGetVersion (req : List Byte) (s : State) : Host.Outcome State Fault Refusal :=
  .next (whenB (spdmUp s && fld req 1 1 == 0x84) s
    (if fld req 0 1 ≠ 0x10 then spdmErr s 0x41
     else
       let r := leBytes 1 0x10 ++ leBytes 1 0x04 ++ zeros 3 ++ leBytes 1 1 ++ leBytes 2 0x1300
       spdmSend (modSec s (fun e => { e with spdm := 1, resync := false, vca := req ++ r, msgB := [], msgL := [] })) r))

/-- GET_CAPABILITIES: CERT_CAP, CHAL_CAP and MEAS_CAP with signature; timing and transfer sizes are free values. -/
def execGetCapabilities (req : List Byte) (s : State) : Host.Outcome State Fault Refusal :=
  spdmRow 0xE1 1 req (fun s =>
    let d := drawFree s
    let x := drawFree d.2
    let r := leBytes 1 0x13 ++ leBytes 1 0x61 ++ zeros 3 ++ leBytes 1 d.1 ++ zeros 2 ++ leBytes 4 0x16 ++ leBytes 8 x.1
    spdmSend (modSec x.2 (fun e => { e with spdm := 2, vca := e.vca ++ req ++ r })) r) s

/-- NEGOTIATE_ALGORITHMS: only ECDSA P-521, SHA-512 and DMTF are selected. -/
def execNegotiateAlgorithms (req : List Byte) (s : State) : Host.Outcome State Fault Refusal :=
  spdmRow 0xE3 2 req (fun s =>
    let spec := fld req 6 1 % 2
    let asym := bits (fld req 8 4) 8 1 * 256
    let hash := bits (fld req 12 4) 2 1 * 4
    let r := leBytes 1 0x13 ++ leBytes 1 0x63 ++ zeros 2 ++ leBytes 2 36 ++ leBytes 1 spec ++ zeros 1 ++ leBytes 4 (8 * spec) ++
      leBytes 4 asym ++ leBytes 4 hash ++ zeros 16
    spdmSend (modSec s (fun e => { e with spdm := 3, vca := e.vca ++ req ++ r })) r) s

/-- R417: the certificate chain of a slot. -/
def slotChain (s : State) (n : Nat) : Option (List Byte) :=
  let wrap := fun (b : List Byte) => leBytes 2 (68 + b.length) ++ zeros 2 ++ Config.dikRoot ++ b
  if n = 0 then some (wrap Config.dikChain)
  else if n = 1 ∧ s.sec.state = 4 then some (wrap (Config.dikChain ++ Config.tskCert s.sec.bm))
  else none

def slotMask (s : State) : Nat := if s.sec.state = 4 then 3 else 1

/-- GET_DIGESTS. -/
def execGetDigests (req : List Byte) (s : State) : Host.Outcome State Fault Refusal :=
  spdmRow 0x81 3 req (fun s =>
    let r := leBytes 1 0x13 ++ leBytes 1 0x01 ++ leBytes 1 (slotMask s) ++ leBytes 1 (slotMask s) ++
      [0, 1].flatMap (fun n => match slotChain s n with | some c => sha512 c | none => [])
    spdmSend (modSec s (fun e => { e with msgB := e.msgB ++ req ++ r })) r) s

/-- GET_CERTIFICATE: a portion of a slot's chain. -/
def execGetCertificate (req : List Byte) (s : State) : Host.Outcome State Fault Refusal :=
  spdmRow 0x82 3 req (fun s =>
    let slot := fld req 2 1 % 16
    let off := fld req 4 2
    match slotChain s slot with
    | none => spdmErr s 0x01
    | some c =>
      if c.length ≤ off then spdmErr s 0x01
      else
        let p := (c.drop off).take (fld req 6 2)
        let r := leBytes 1 0x13 ++ leBytes 1 0x02 ++ leBytes 1 slot ++ zeros 1 ++ leBytes 2 p.length ++
          leBytes 2 (c.length - off - p.length) ++ p
        spdmSend (modSec s (fun e => { e with msgB := e.msgB ++ req ++ r })) r) s

/-- R418: the registers that block 3 measures, of one function. -/
def lockRegs (s : State) (fn : Nat) : List Byte :=
  let r := getFn s fn
  leBytes 8 r.aqBase.toNat ++ leBytes 8 r.aqCfg.toNat ++ leBytes 8 r.dbBase.toNat ++ leBytes 8 r.dbCfg.toNat ++
    leBytes 8 s.host.poll.toNat

/-- R418: the value of a measurement block. -/
def measValue (s : State) (i : Nat) : List Byte :=
  if i = 1 then Config.romDigest
  else if i = 2 then (if s.sec.bm.isEmpty then zeros 64 else s.sec.bm)
  else if i = 3 then (if s.host.lock then s.sec.lockDigest else zeros 64)
  else if i = 4 then (match s.pew.applied with | some p => sha512 p | none => zeros 64)
  else sha512 (settingsForce s)

def measType (i : Nat) : Nat := if i = 1 then 0 else if i = 2 then 1 else if i = 3 then 2 else 3

/-- A DMTF measurement block. -/
def measBlock (s : State) (i : Nat) : List Byte :=
  leBytes 1 i ++ leBytes 1 1 ++ leBytes 2 67 ++ leBytes 1 (measType i) ++ leBytes 2 64 ++ measValue s i

/-- The bytes an SPDM 1.3 signature covers, from the digest of a transcript. -/
def spdmToSign (ctx digest : List Byte) : List Byte :=
  let one : List Byte := [0x64, 0x6D, 0x74, 0x66, 0x2D, 0x73, 0x70, 0x64, 0x6D, 0x2D, 0x76, 0x31, 0x2E, 0x33, 0x2E, 0x2A]
  sha512 (one ++ one ++ one ++ one ++ zeros (36 - ctx.length) ++ ctx ++ digest)

/-- "responder-challenge_auth signing" -/
def ctxChallenge : List Byte :=
  [0x72, 0x65, 0x73, 0x70, 0x6F, 0x6E, 0x64, 0x65, 0x72, 0x2D, 0x63, 0x68, 0x61, 0x6C, 0x6C, 0x65, 0x6E, 0x67, 0x65, 0x5F,
   0x61, 0x75, 0x74, 0x68, 0x20, 0x73, 0x69, 0x67, 0x6E, 0x69, 0x6E, 0x67]

/-- "responder-measurements signing" -/
def ctxMeasure : List Byte :=
  [0x72, 0x65, 0x73, 0x70, 0x6F, 0x6E, 0x64, 0x65, 0x72, 0x2D, 0x6D, 0x65, 0x61, 0x73, 0x75, 0x72, 0x65, 0x6D, 0x65, 0x6E,
   0x74, 0x73, 0x20, 0x73, 0x69, 0x67, 0x6E, 0x69, 0x6E, 0x67]

/-- Nonces are draws of Electrum's generator. -/
def drawNonce (s : State) : List Byte × State := (Config.nonce s.sec.draws, modSec s (fun e => { e with draws := e.draws + 1 }))

/-- CHALLENGE, signed with slot 0. A summary of the TCB alone is a free value. -/
def execChallenge (req : List Byte) (s : State) : Host.Outcome State Fault Refusal :=
  spdmRow 0x83 3 req (fun s =>
    let kind := fld req 3 1
    if fld req 2 1 ≠ 0 ∨ !(List.contains [0, 1, 255] kind) then spdmErr s 0x01
    else
      let d := drawFree s
      let n := drawNonce (if kind = 1 then d.2 else s)
      let sum := if kind = 0 then [] else if kind = 255 then sha512 ((List.range 5).flatMap (fun i => measBlock s (i + 1))) else leBytes 64 d.1
      let r := leBytes 1 0x13 ++ leBytes 1 0x03 ++ leBytes 1 0 ++ leBytes 1 (slotMask s) ++
        sha512 ((slotChain s 0).getD []) ++ n.1 ++ sum ++ zeros 2 ++ (req.drop 36).take 8
      let sig := sigBytes Config.dik (spdmToSign ctxChallenge (sha512 (s.sec.vca ++ s.sec.msgB ++ req ++ r)))
      spdmSend (modSec n.2 (fun e => { e with msgB := [] })) (r ++ sig)) s

/-- GET_MEASUREMENTS: blocks taken at one instant, signed with slot 0 on request. -/
def execGetMeasurements (req : List Byte) (s : State) : Host.Outcome State Fault Refusal :=
  spdmRow 0xE0 3 req (fun s =>
    let sig := bit (fld req 2 1) 0
    let op := fld req 3 1
    if (sig ∧ fld req 36 1 % 16 ≠ 0) ∨ (5 < op ∧ op ≠ 255) then spdmErr s 0x01
    else
      let n := drawNonce s
      let idx := if op = 0 then [] else if op = 255 then [1, 2, 3, 4, 5] else [op]
      let rec' := idx.flatMap (measBlock s)
      let ctx := (req.drop (if sig then 37 else 4)).take 8
      let r := leBytes 1 0x13 ++ leBytes 1 0x60 ++ leBytes 1 (if op = 0 then 5 else 0) ++ zeros 1 ++ leBytes 1 idx.length ++
        leBytes 3 rec'.length ++ rec' ++ n.1 ++ zeros 2 ++ ctx
      let l := n.2.sec.msgL ++ req ++ r
      if sig then
        spdmSend (modSec n.2 (fun e => { e with msgL := [] }))
          (r ++ sigBytes Config.dik (spdmToSign ctxMeasure (sha512 (s.sec.vca ++ l))))
      else spdmSend (modSec n.2 (fun e => { e with msgL := l })) r) s

/-- R419: the payload of a vendor-defined request of PCI-SIG form. -/
def vendorReq (req : List Byte) : Option (List Byte) :=
  if fld req 1 1 = 0xFE ∧ fld req 4 2 = 3 ∧ fld req 6 1 = 2 ∧ fld req 7 2 = Config.vendorId.toNat ∧ 1 ≤ fld req 9 2 then
    some ((req.drop 11).take (fld req 9 2))
  else none

def vendorCode (req : List Byte) : Nat := match vendorReq req with | some b => fld b 0 1 | none => 0

/-- SPDM_UNSUPPORTED_REQUEST: every code but those of R417, and vendor-defined requests that R419 does not give. -/
def execSpdmUnsupportedRequest (req : List Byte) (s : State) : Host.Outcome State Fault Refusal :=
  let c := fld req 1 1
  let known := List.contains [0x84, 0xE1, 0xE3, 0x81, 0x82, 0x83, 0xE0] c ||
    (c == 0xFE && decide (1 ≤ vendorCode req ∧ vendorCode req ≤ 4))
  .next (whenB (spdmUp s && !known) s
    (if s.sec.resync then spdmErr s 0x43 else if c = 0xFE ∧ s.sec.spdm < 3 then spdmErr s 0x04 else spdmErr s 0x07))

/-- A vendor-defined response. -/
def vendorSend (s : State) (b : List Byte) : State :=
  spdmSend s (leBytes 1 0x13 ++ leBytes 1 0x7E ++ zeros 2 ++ leBytes 2 3 ++ leBytes 1 2 ++ leBytes 2 Config.vendorId.toNat ++
    leBytes 2 b.length ++ b)

/-- A vendor-defined request of one code: `ok` permits it in the present state. -/
def vendorRow (code : Nat) (req : List Byte) (ok : State → Bool) (f : List Byte → State → State) (s : State) :
    Host.Outcome State Fault Refusal :=
  match vendorReq req with
  | none => .next s
  | some b =>
    if fld b 0 1 ≠ code then .next s
    else spdmRow 0xFE 3 req (fun s => if ok s then f (b.drop 1) s else vendorSend s [1#8]) s

/-- BUNDLE_REGISTER: Electrum reads the bundle from PF host memory. -/
def execBundleRegister (req : List Byte) (s : State) : Host.Outcome State Fault Refusal :=
  vendorRow 1 req (fun s => s.sec.state == 0 || decide (0x10 ≤ s.sec.state)) (fun b s =>
    let a := fld b 0 8
    let n := fld b 8 8
    if b.length ≠ 16 ∨ a % 4096 ≠ 0 ∨ n < 4096 ∨ 67108864 < n then vendorSend s [2#8]
    else
      let s := bootState (modSec s (fun e => { e with addr := a, len := n, reqAt := s.tick, bundle := [], bm := [] })) 1
      vendorSend (startRead s 0 (2 ^ 64 + a) n .bundle).1 [0#8]) s

/-- BOOT_STATUS. -/
def execBootStatus (req : List Byte) (s : State) : Host.Outcome State Fault Refusal :=
  vendorRow 2 req (fun _ => true) (fun b s =>
    if b.length ≠ 0 then vendorSend s [2#8]
    else vendorSend s ([0#8] ++ leBytes 1 s.sec.state ++ zeros 7 ++ leBytes 8 s.sec.tick ++
      (if s.sec.bm.isEmpty then zeros 64 else s.sec.bm))) s

/-- SEAL_RING_SET. -/
def execSealRingSet (req : List Byte) (s : State) : Host.Outcome State Fault Refusal :=
  vendorRow 3 req (fun s => s.sec.state == 4 && s.host.lock) (fun b s =>
    let db := fld b 10 2
    if b.length ≠ 12 ∨ fld b 0 8 % 4096 ≠ 0 ∨ fld b 8 1 < 4 ∨ 12 < fld b 8 1 ∨ 63 < fld b 9 1 ∨ !dbRange s 0 db ∨
        !dbFree s 0 db (some .seal) then vendorSend s [2#8]
    else vendorSend (putRing s { kind := .seal, fn := 0, id := 0, base := fld b 0 8, lg := fld b 8 1, db := db, vec := fld b 9 1 }) [0#8]) s

/-- SEAL_GET. -/
def execSealGet (req : List Byte) (s : State) : Host.Outcome State Fault Refusal :=
  vendorRow 4 req (fun s => s.sec.state == 4) (fun b s =>
    if b.length ≠ 1 ∨ 16 ≤ fld b 0 1 then vendorSend s [2#8]
    else match SGet none s.sec.latest (fld b 0 1) with
      | some x => vendorSend s ([0#8] ++ x.bytes)
      | none => vendorSend s [3#8]) s

end Sys2Proof.Machine
end

