-- ==== Sys2Proof/Machine/Chain.lean ====
section
/-! DEFINITION. Distribution of model images down a chain (R280 to R283). -/

namespace Sys2Proof.Machine

/-! ### Figures and operations -/

def noChip : Nat := 0xFFFF

def nSegs (c : Chain) : Nat := ceilDiv c.imgLen 0x400000

/-- R281: bytes of segment `i`. -/
def segLen (c : Chain) (i : Nat) : Nat := min 0x400000 (c.imgLen - i * 0x400000)

def findChain (s : State) (p slot : Nat) : Option Chain := (getPart s p).chains.find? (fun c => c.slot == slot)

def modChain (s : State) (p slot : Nat) (f : Chain → Chain) : State :=
  modPart s p (fun P => { P with chains := updateWhere (fun c => c.slot == slot) f P.chains })

def modSeg (s : State) (p slot i : Nat) (f : SegSt → SegSt) : State :=
  modChain s p slot (fun c => { c with st := updateWhere (fun g => g.idx == i) f c.st })

def getSeg (c : Chain) (i : Nat) : SegSt := (c.st.find? (fun g => g.idx == i)).getD { idx := i }

/-- The bytes of a segment as the module sends or has stored them. -/
def segBytes (s : State) (p : Nat) (c : Chain) (i : Nat) : List Byte :=
  match c.res.bind (getSlot s p) with
  | some sl => imgGet s sl (i * 0x400000) (segLen c i)
  | none => memGet s (c.segs.getD i 0) (segLen c i)

/-- R175: a segment is read through the near cache. -/
def segTouch (s : State) (p : Nat) (c : Chain) (i : Nat) : State :=
  match c.res.bind (getSlot s p) with
  | some sl => (imgRuns sl 2 (i * 0x400000) (segLen c i)).foldl (fun s r => memTouch s r.1 r.2) s
  | none => memTouch s (c.segs.getD i 0) (segLen c i)

/-- R282: a notice. -/
def noticeBytes (c : Chain) (own kind seg attempt crc reason : Nat) : List Byte :=
  leBytes 4 0x4E494843 ++ leBytes 1 kind ++ leBytes 1 attempt ++ zeros 2 ++ leBytes 8 c.id ++ leBytes 4 seg ++
    leBytes 4 (segLen c seg) ++ leBytes 4 crc ++ leBytes 4 (nSegs c) ++ leBytes 2 own ++ leBytes 1 reason ++ zeros 29

def sendNotice (s : State) (p : Nat) (c : Chain) (dst kind seg attempt crc reason : Nat) : State × Bool :=
  peerWriteAll s p dst (Config.chainNotice dst c.id) (noticeBytes c (ownChip s) kind seg attempt crc reason) (.notice p c.slot c.cmd)

/-- R282 item 6: the chain ends at this module: the destination is freed and ABORT goes downstream. -/
def dropChain (s : State) (p : Nat) (c : Chain) (reason : Nat) : State :=
  let s := modPart s p (fun P => { P with chains := P.chains.filter (fun x => x.slot != c.slot) })
  let s := modHost s (fun h => { h with reads := h.reads.filter (fun r => r.use != .chainSrc p c.slot) })
  if c.succ = noChip then s else (sendNotice s p c c.succ 4 0 0 0 reason).1

/-- R282 item 6: the command completes with CHAIN_FAILED and the REASON. -/
def failChain (s : State) (p slot reason : Nat) : State :=
  match findChain s p slot with
  | none => s
  | some c => endCmd (dropChain s p c reason) c.cmd (fun k => { k with status := 0x040B, info := reason })

/-- R288: an access of the chain ends it with its own status; the REASON sent downstream is not stated then. -/
def statusChain (s : State) (p slot st : Nat) : State :=
  match findChain s p slot with
  | none => s
  | some c => let d := drawFree s; endCmdSt (dropChain d.2 p c (1 + d.1 % 5)) c.cmd st

/-- R281: the model image digest over the segments as stored. -/
def imageDigest (s : State) (p : Nat) (c : Chain) : List Byte :=
  sha512 (leBytes 8 c.imgLen ++ (List.range (nSegs c)).flatMap (fun i => sha512 (segBytes s p c i)))

/-- R282 item 5: every segment is stored, and acknowledged downstream. -/
def chainDone (c : Chain) : Bool :=
  (List.range (nSegs c)).all (fun i => (c.res.isSome || (getSeg c i).stored) && (c.succ == noChip || (getSeg c i).acked))

/-- R282 item 5, R356: the digests are compared; on a match the image is resident and its registration starts. -/
def finishChain (s : State) (p slot : Nat) : State :=
  match findChain s p slot with
  | none => s
  | some c =>
    if !chainDone c then s
    else if c.res.isNone ∧ imageDigest s p c ≠ c.digest then failChain s p slot 4
    else
      let s := modPart s p (fun P => { P with
        chains := P.chains.filter (fun x => x.slot != slot)
        slots := if c.res.isSome then P.slots else SSet none P.slots slot
          (some { imgLen := c.imgLen, digest := c.digest, segs := c.segs, mirror := c.mirror, reg := .running s.tick }) })
      endCmdSt s c.cmd 0

/-- R282 item 1: SEGMENT goes to the successor once every data write has been acknowledged. -/
def announce (s : State) (p slot i : Nat) : State :=
  match findChain s p slot with
  | none => s
  | some c =>
    let g := getSeg c i
    if c.succ = noChip ∨ g.noticed ∨ g.unacked ≠ 0 ∨ !(g.sent || g.fwd) ∨ !(c.res.isSome || g.stored) then s
    else
      let r := sendNotice s p c c.succ 1 i g.attempt (crc32c (segBytes s p c i)).toNat 0
      if r.2 then modSeg r.1 p slot i (fun g => { g with noticed := true }) else failChain r.1 p slot 2

/-- R282 item 1: segments sent and not yet acknowledged. -/
def inFlight (c : Chain) : Nat := (c.st.filter (fun g => (g.sent || g.fwd) && !g.acked)).length

/-- The data of a segment is written to the successor. -/
def sendSegment (s : State) (p slot i : Nat) : State :=
  match findChain s p slot with
  | none => s
  | some c =>
    let r := peerWriteAll (segTouch s p c i) p c.succ (Config.chainSeg c.succ c.id i) (segBytes s p c i) (.chainData p slot c.cmd i)
    if r.2 then modSeg r.1 p slot i (fun g => { g with
        sent := true, noticed := false, unacked := g.unacked + (r.1.fab.accs.length - s.fab.accs.length) })
    else failChain r.1 p slot 2

/-- R282 item 1: further segments are sent, in order, while fewer than 16 wait for ACK. -/
def pumpChain (p slot : Nat) : Nat → State → State
  | 0, s => s
  | fuel + 1, s =>
    match findChain s p slot with
    | none => s
    | some c =>
      if c.succ = noChip ∨ 16 ≤ inFlight c then s
      else match c.st.find? (fun g => !g.sent && !g.fwd && !g.acked && (c.res.isSome || g.stored)) with
        | none => s
        | some g => pumpChain p slot fuel (sendSegment s p slot g.idx)

def pumped (s : State) (p slot : Nat) : State :=
  match findChain s p slot with
  | none => s
  | some c => finishChain (pumpChain p slot (nSegs c) s) p slot

/-! ### Joining a chain (R280) -/

/-- The head reads its next segment from the source. -/
def readSource (s : State) (p slot : Nat) : State :=
  match findChain s p slot with
  | none => s
  | some c =>
    match c.st.find? (fun g => !g.stored) with
    | none => s
    | some g =>
      if c.pred ≠ noChip ∨ c.res.isSome then s
      else
        let r := startRead s (p + 1) (c.src + g.idx * 0x400000) (segLen c g.idx) (.chainSrc p slot)
        if r.2 then r.1 else failChain (dropRead r.1 s.host.nextId) p slot 2

/-- A segment of the source has been read. -/
def sourceRead (s : State) (p slot : Nat) (bs : List Byte) : State :=
  match findChain s p slot with
  | none => s
  | some c =>
    match c.st.find? (fun g => !g.stored) with
    | none => s
    | some g =>
      readSource (pumped (modSeg (memPut s (c.segs.getD g.idx 0) bs) p slot g.idx (fun g => { g with stored := true })) p slot) p slot

/-- A head whose source is in tier 1 stores the image at once. -/
def sourceLocal (s : State) (p slot off : Nat) : State :=
  match findChain s p slot with
  | none => s
  | some c =>
    let s := (List.range (nSegs c)).foldl (fun s i =>
      modSeg (memPut (memTouch s (off + i * 0x400000) (segLen c i)) (c.segs.getD i 0) (memGet s (off + i * 0x400000) (segLen c i))) p slot i (fun g => { g with stored := true })) s
    pumped s p slot

/-- R315, R358: the serving context ends and the slot is no longer selected. -/
def deselect (s : State) (p : Nat) : State :=
  let s := freeCtrs s p (fun r => r.isNone)
  let s := clearPlaces s (fun pl => pl.part == p && (pl.ctx == .chunk || pl.ctx == .step))
  modPart s p (fun P => { P with phase := .empty, sel := none, serving := none })

/-- R280: the block breaks its table. -/
def blockBad (P : Part) (b : List Byte) : Bool :=
  let pred := fld b 16 2
  let succ := fld b 18 2
  !(decide (1 ≤ fld b 8 8 ∧ fld b 8 8 ≤ 2 ^ 41 ∧ (pred < 2 ^ 14 ∨ pred = noChip) ∧ (succ < 2 ^ 14 ∨ succ = noChip) ∧
      fld b 20 2 < P.nslot ∧ fld b 22 2 ≤ 1 ∧ (pred = noChip ∨ fld b 24 8 = 0)) && zeroAt b 0x20 32)

/-- R280: the slot of an image resident at this module that a head's SRC names: its first byte, its length.
DEDUCED: log entry 26. -/
def residentAt (P : Part) (off imgLen : Nat) : Option Nat :=
  P.slots.findSome? (fun e => match e.2 with
    | some sl => if sl.segs.head? = some off ∧ sl.imgLen = imgLen then some e.1 else none
    | none => none)

/-- The fresh state of the segments. -/
def freshSegs (n : Nat) : List SegSt := (List.range n).map (fun i => { idx := i })

/-- R280: where the segments of a chain's image go; none for an image that is resident. -/
def chainPlaces (s : State) (p : Nat) (resident mirror : Bool) (len : Nat) : Option (List Nat × State) :=
  if resident then some ([], s)
  else if !roomFor s p (roundUp len 0x400000) then none
  else placeSegments p mirror (ceilDiv len 0x400000) s (holdings s p) 0

/-- R280: the chain of a parameter block. -/
def newChain (s : State) (k : Cmd) (b : List Byte) (res : Option Nat) (segs : List Nat) : Chain :=
  { cmd := k.id, id := fld b 0 8, imgLen := fld b 8 8, pred := fld b 16 2, succ := fld b 18 2, slot := fld b 20 2
    mirror := bit (fld b 22 2) 0, src := fld b 24 8, res := res, digest := (b.drop 0x40).take 64, segs := segs
    st := freshSegs (ceilDiv (fld b 8 8) 0x400000), win := (drawFree s).1 % 2 ^ 30 * 4096, heard := s.tick }

/-- R280: the chain starts; the first of a chain reads its source. -/
def startChain (s : State) (p : Nat) (c : Chain) : State :=
  let s := modPart (spend s 1) p (fun P => { P with chains := P.chains ++ [c] })
  if c.pred ≠ noChip then s
  else if c.res.isSome then pumped s p c.slot
  else match localOf s p none c.src with
    | some o => sourceLocal s p c.slot o
    | none => readSource s p c.slot

/-- R280: the image a first chip already holds. -/
def chainHeld (s : State) (p : Nat) (b : List Byte) : Option Nat :=
  if fld b 16 2 = noChip then (localOf s p none (fld b 24 8)).bind (fun o => residentAt (getPart s p) o (fld b 8 8)) else none

/-- R280: the parameter block of a MODEL_CHAIN has been read. -/
def joinChain (s : State) (cmd : Nat) (b : List Byte) : State :=
  match findCmd s cmd with
  | none => s
  | some k =>
    let p := k.d.fn - 1
    let P := getPart s p
    let slot := fld b 20 2
    if blockBad P b then endCmdSt s cmd 1
    else if P.chains.any (fun c => c.slot == slot) ∨ (P.sel = some slot ∧ !(reqsOf s p).isEmpty) then endCmdSt s cmd 3
    else if fld b 16 2 = noChip ∧ !permitted s p none false (fld b 24 8) (fld b 8 8) then endCmdSt s cmd 0x0409
    else
      let res := chainHeld s p b
      let s := if P.sel = some slot then deselect s p else s
      match chainPlaces s p res.isSome (bit (fld b 22 2) 0) (fld b 8 8) with
      | none => endCmdSt s cmd 0x040A
      | some r => startChain r.2 p (newChain r.2 k b res r.1)

/-! ### Writes that arrive (R280, R282) -/

/-- A chain whose destination a write of its predecessor falls into: partition, chain and segment. -/
def chainTarget (s : State) (chip off n : Nat) : Option (Nat × Chain × Nat) :=
  partIds.findSome? (fun p => (getPart s p).chains.findSome? (fun c =>
    if c.pred ≠ chip then none
    else (firstIdx (fun o => decide (o ≤ off ∧ off + n ≤ o + 0x400000)) c.segs).map (fun i => (p, c, i))))

/-- R282 item 2: a data write of the predecessor is stored, and forwarded while the window of item 1 allows. -/
def chainWrite (s : State) (p : Nat) (c : Chain) (i off : Nat) (bs : List Byte) : State :=
  let g := getSeg c i
  let fwd := c.succ != noChip && (g.fwd || (!g.touched && !g.sent && decide (inFlight c < 16)))
  let s := modChain (memPut s off bs) p c.slot (fun c => { c with heard := s.tick })
  let s := modSeg s p c.slot i (fun g => { g with touched := true, fwd := fwd, stored := false, noticed := false })
  if !fwd then s
  else
    let r := peerWriteAll s p c.succ (Config.chainSeg c.succ c.id i + (off - c.segs.getD i 0)) bs (.chainData p c.slot c.cmd i)
    if r.2 then modSeg r.1 p c.slot i (fun g => { g with unacked := g.unacked + (r.1.fab.accs.length - s.fab.accs.length) })
    else failChain r.1 p c.slot 2

/-- R282: a notice that fits its table and the chain, from the neighbour its KIND belongs to. -/
def noticeOk (c : Chain) (chip : Nat) (b : List Byte) : Bool :=
  let kind := fld b 4 1
  decide (b.length = 64) && fld b 0 4 == 0x4E494843 && decide (1 ≤ kind ∧ kind ≤ 4 ∧ fld b 5 1 ≤ 2) && zeroAt b 6 2 && fld b 8 8 == c.id &&
    fld b 32 2 == chip && zeroAt b 35 29 && chip == (if kind = 1 ∨ kind = 4 then c.pred else c.succ) &&
    (if kind = 4 then decide (1 ≤ fld b 34 1 ∧ fld b 34 1 ≤ 5)
     else fld b 34 1 == 0 && fld b 28 4 == nSegs c && decide (fld b 16 4 < nSegs c) && fld b 20 4 == segLen c (fld b 16 4))

/-- A chain whose notice window a write falls into. -/
def noticeTarget (s : State) (chip off : Nat) : Option (Nat × Chain) :=
  partIds.findSome? (fun p => (getPart s p).chains.findSome? (fun c =>
    if (c.pred = chip ∨ c.succ = chip) ∧ c.win ≤ off ∧ off < c.win + 4096 then some (p, c) else none))

/-- A write into a notice window; what is no notice is discarded. -/
def noticeWrite (s : State) (p : Nat) (c : Chain) (chip : Nat) (bs : List Byte) : State :=
  modChain s p c.slot (fun c => { c with
    heard := if chip = c.pred then s.tick else c.heard
    notices := if noticeOk c chip bs then c.notices ++ [bs] else c.notices })

/-! ### Notices acted on -/

/-- The oldest notice of a chain, when it is of the kind. -/
def chainRow (kind part slot : Nat) (s : State) (f : Chain → List Byte → State → State) : Host.Outcome State Fault Refusal :=
  .next (match findChain s part slot with
    | none => s
    | some c => match c.notices with
      | [] => s
      | b :: r =>
        if fld b 4 1 ≠ kind ∨ !serving s then s
        else f { c with notices := r } b (modChain s part slot (fun c => { c with notices := r })))

/-- A notice to the predecessor; the chain ends when its path is lost. -/
def answer (s : State) (p slot : Nat) (c : Chain) (kind i attempt : Nat) : State × Bool :=
  let r := sendNotice s p c c.pred kind i attempt 0 0
  if r.2 then r else (failChain r.1 p slot 2, false)

/-- SEGMENT: the CRC of the segment as stored decides between ACK and NACK; the third mismatch ends the chain.
DEDUCED: log entry 26. -/
def execSegment (part slot : Nat) (s : State) : Host.Outcome State Fault Refusal :=
  chainRow 1 part slot s (fun c b s =>
    let i := fld b 16 4
    let att := fld b 5 1
    let s := memTouch s (c.segs.getD i 0) (segLen c i)
    if fld b 24 4 = (crc32c (memGet s (c.segs.getD i 0) (segLen c i))).toNat then
      let s := modSeg s part slot i (fun g => { g with stored := true, attempt := att })
      let r := answer s part slot c 2 i att
      if r.2 then pumped (announce r.1 part slot i) part slot else r.1
    else if att = 2 then failChain s part slot 1
    else (answer s part slot c 3 i att).1)

/-- ACK: the successor has the segment; the next ones are sent. -/
def execAck (part slot : Nat) (s : State) : Host.Outcome State Fault Refusal :=
  chainRow 2 part slot s (fun _ b s => pumped (modSeg s part slot (fld b 16 4) (fun g => { g with acked := true })) part slot)

/-- NACK: the segment is sent again with ATTEMPT one higher. DEDUCED: log entry 26. -/
def execNack (part slot : Nat) (s : State) : Host.Outcome State Fault Refusal :=
  chainRow 3 part slot s (fun c b s =>
    let i := fld b 16 4
    if 2 ≤ (getSeg c i).attempt ∨ !(c.res.isSome || (getSeg c i).stored) then s
    else sendSegment (modSeg s part slot i (fun g => { g with attempt := g.attempt + 1, fwd := false })) part slot i)

/-- CHAIN_ABORT: it is passed on, and the command completes with its REASON. -/
def execChainAbort (part slot : Nat) (s : State) : Host.Outcome State Fault Refusal :=
  chainRow 4 part slot s (fun _ b s => failChain s part slot (fld b 34 1))

/-- CHAIN_PREDECESSOR_SILENT. DEDUCED: log entry 26. -/
def execChainPredecessorSilent (part slot : Nat) (s : State) : Host.Outcome State Fault Refusal :=
  .next (match findChain s part slot with
    | none => s
    | some c =>
      if !serving s ∨ c.pred = noChip ∨ c.st.all (·.stored) ∨ s.tick < c.heard + (getPart s part).peerlim then s
      else failChain s part slot 3)

/-- A data write to the successor has been accepted. -/
def chainWacked (s : State) (p slot cmd i : Nat) : State :=
  match findChain s p slot with
  | none => s
  | some c =>
    if c.cmd ≠ cmd then s else announce (modSeg s p slot i (fun g => { g with unacked := g.unacked - 1 })) p slot i

end Sys2Proof.Machine
end

