-- ==== Sys2Proof/Machine/Exchange.lean ====
section
/-! DEFINITION. Steering sets bound (R232, R233) and the Brass exchange (chapter 8). -/

namespace Sys2Proof.Machine

/-! ### Steering sets -/

/-- R233: the records of a set as (offset, bytes), layer by layer. -/
def steerRecs (b : List Byte) : List (Nat × Nat) :=
  (List.range (fld b 6 2)).filterMap (fun l =>
    let o := fld b (0x40 + 8 * l) 8
    let lfl := fld b o 1
    if o = 0 then none else some (o, 16 + fld b 8 2 * (bits lfl 0 1 + bits lfl 1 1)))

/-- R233: a record that meets the table. -/
def steerRecOk (b : List Byte) (r : Nat × Nat) : Bool :=
  let lfl := fld b r.1 1
  r.1 % 8 == 0 && decide (0x40 + 8 * fld b 6 2 ≤ r.1 ∧ r.1 + r.2 ≤ b.length ∧ r.2 ≤ 16384 ∧ 1 ≤ lfl ∧ lfl ≤ 3) &&
    zeroAt b (r.1 + 1) 1 && (bit lfl 0 || zeroAt b (r.1 + 2) 2) && (bit lfl 1 || zeroAt b (r.1 + 4) 2) && zeroAt b (r.1 + 6) 10

/-- R233: the set meets its table, and its records lie apart. -/
def steerOk (b : List Byte) : Bool :=
  let rs := steerRecs b
  decide (64 ≤ b.length) && fld b 0 4 == 0x52454554 && fld b 4 2 == 1 && decide (1 ≤ fld b 8 2 ∧ fld b 8 2 ≤ 8184) &&
    decide (5 ≤ fld b 10 1 ∧ fld b 10 1 ≤ 7) && zeroAt b 11 53 && decide (0x40 + 8 * fld b 6 2 ≤ b.length) &&
    rs.all (steerRecOk b) && (numbered 0 rs).all (fun x => (numbered 0 rs).all (fun y =>
      decide (x.1 = y.1) || !meets x.2 y.2))

/-- STEERING_BIND_COMPLETE: the copy of a set ends at the place `off` that firmware chose for it. -/
def execSteeringBindComplete (cmd off : Nat) (s : State) : Host.Outcome State Fault Refusal :=
  match findCmd s cmd with
  | none => .next s
  | some c =>
    let p := c.d.fn - 1
    let len := fld c.d.raw 0x20 4
    if !serving s ∨ fld c.d.raw 0 1 ≠ 0x12 ∨ c.ph ≠ .running ∨ c.buf.length ≠ len then .next s
    else if !steerOk c.buf then .next (settle (endCmdSt s cmd 0x0105) p)
    else if !roomFor s p len then .next (settle (endCmdSt s cmd 0x040A) p)
    else if off % 64 ≠ 0 ∨ !rangeFree s p (holdings s p) off len then .next s
    else
      let t := modPart (memPut s off c.buf) p (fun P => { P with
        steers := SSet none P.steers (fld c.d.raw 0x10 2) (some { bytes := c.buf, digest := sha512 c.buf, off := off }) })
      .next (settle (endCmdSt t cmd 0) p)

/-! ### The expert section (R249) -/

/-- The image offset of an expert layer's record; figures of the section. -/
def xrecOff (h : Hdr) (x : Nat) : Nat := h.expOff + 0x40 + 64 * x
def xNexp (s : State) (sl : Slot) (h : Hdr) : Nat := imgFld s sl (h.expOff + 8) 4

def xpar (s : State) (sl : Slot) (h : Hdr) (x : Nat) : XPar :=
  let o := xrecOff h x
  ⟨xNexp s sl h, imgFld s sl (h.expOff + 12) 2, imgFld s sl (o + 5) 1, imgFld s sl (o + 6) 1, imgFld s sl (o + 7) 1⟩

def xGatec (s : State) (sl : Slot) (h : Hdr) (x : Nat) : Nat := imgFld s sl (xrecOff h x + 8) 4
def xTexch (s : State) (sl : Slot) (h : Hdr) (x : Nat) : Nat := imgFld s sl (xrecOff h x + 12) 4
def xLimit (s : State) (sl : Slot) (h : Hdr) (x : Nat) : Nat := imgFld s sl (xrecOff h x + 16) 4
def xDim (s : State) (sl : Slot) (h : Hdr) (x : Nat) : Nat := imgFld s sl (xrecOff h x + 20) 2
def xFmtIn (s : State) (sl : Slot) (h : Hdr) (x : Nat) : Fmt := Fmt.ofCode (imgFld s sl (xrecOff h x + 22) 1 % 8)
def xFmtOut (s : State) (sl : Slot) (h : Hdr) (x : Nat) : Fmt := Fmt.ofCode (imgFld s sl (xrecOff h x + 22) 1 / 8 % 8)

/-- R249: CHIP, HPART and HSLOT of the holder of an expert. -/
def holderOf (s : State) (sl : Slot) (h : Hdr) (x e : Nat) : Nat × Nat × Nat :=
  let m := imgGet s sl (h.expOff + imgFld s sl (h.expOff + 16) 8 + 8 * (x * xNexp s sl h + e)) 8
  (fld m 0 2 % 2 ^ 14, fld m 2 1 % 16, fld m 4 2)

/-- R257: bytes of a row record for rows of `n` elements of a format. -/
def rowBytes (f : Fmt) (n : Nat) : Nat := roundUp (16 + ceilDiv (n * f.width) 8) 16

/-- R257: a row record: prefix, elements, padding. -/
def rowRecord (rslot hslot flg attempt : Nat) (f : Fmt) (n : Nat) (elems : List Byte) : List Byte :=
  let b := leBytes 16 (rslot + 2 ^ 16 * hslot + 2 ^ 32 * flg + 2 ^ 40 * attempt) ++ elems
  b ++ zeros (rowBytes f n - b.length)

/-- R257: a header. -/
def xHeader (kind half attempt status chip part xl nrow csn mode : Nat) (dig : List Byte) : List Byte :=
  leBytes 4 0x4A585242 ++ leBytes 1 kind ++ leBytes 1 half ++ leBytes 1 attempt ++ leBytes 1 status ++ leBytes 2 chip ++
    leBytes 1 part ++ leBytes 1 0 ++ leBytes 2 xl ++ leBytes 2 nrow ++ leBytes 8 csn ++ leBytes 4 mode ++ zeros 4 ++ dig ++ zeros 16

/-- A write of Brass: within the module for its own chip (R249), else through the fabric; with the pieces issued, and false
when one ends at once. -/
def brassWrite (s : State) (part chip off : Nat) (bs : List Byte) (w : WriteFor) (own : State → State) : State × Nat × Bool :=
  if hasPlan s && chip == ownChip s then (own s, 0, true)
  else
    let r := peerWriteAll s part chip off bs w
    (r.1, r.1.fab.accs.length - s.fab.accs.length, r.2)

/-- R256: bytes reach a holder's receive buffer. -/
def jobBytes (hpart chip spart half off : Nat) (bs : List Byte) (s : State) : State :=
  modFab s (fun f => { f with brassIn := f.brassIn ++ [⟨hpart, chip, spart, half, off, bs⟩] })

def modHalf (s : State) (p : Nat) (ok : XHalf → Bool) (f : XHalf → XHalf) : State :=
  modPart s p (fun P => { P with halves := updateWhere ok f P.halves })

/-- R259: a result write reaches the sender's Brass: accepted only for an outstanding job of the chip, with the job's ATTEMPT,
which the header and the prefix of a row carry; a piece that begins neither carries none. DESIGN CHOICE: log entry 48. -/
def resultBytes (part chip hpart half off : Nat) (bs : List Byte) (s : State) : State :=
  let open' := fun (j : XJob) => j.chip == chip && j.hpart == hpart && j.headed && j.result.isNone && !j.lost
  let rb := fun (h : XHalf) => match selSlot s part with
    | some sl => rowBytes (xFmtOut s sl (hdrOf s sl) h.xl) (xDim s sl (hdrOf s sl) h.xl)
    | none => 16
  let att := fun (h : XHalf) => if off = 0 ∧ 7 ≤ bs.length then some (fld bs 6 1)
    else if 64 ≤ off ∧ (off - 64) % rb h = 0 ∧ 6 ≤ bs.length then some (fld bs 5 1) else none
  let ok := fun (h : XHalf) => h.half == half && h.jobs.any open' && (att h == none || att h == some (h.attempt % 256))
  let s := if off = 0 then modPart s part (fun P => { P with
    owed := P.owed.filter (fun o => !(o.half == half && o.chip == chip && o.hpart == hpart)) }) else s
  if (getPart s part).halves.any ok then
    modHalf s part ok (fun h => { h with jobs := updateWhere open' (fun j => { j with got := j.got ++ [(off, bs)] }) h.jobs })
  else modFab s (fun f => { f with brassErr := f.brassErr + 1 })

/-- The bytes that a list of writes puts at `off` to `off + n - 1`, none where a byte is missing; the latest write of a byte counts. -/
def gather (ws : List (Nat × List Byte)) (off n : Nat) : Option (List Byte) :=
  (List.range n).mapM (fun i => ws.reverse.findSome? (fun w =>
    if w.1 ≤ off + i ∧ off + i < w.1 + w.2.length then some (w.2.getD (off + i - w.1) 0) else none))

/-! ### Combination (R254, R260) -/

/-- R261: a row with a filled choice in a job that was lost or refused. -/
def rowLost (h : XHalf) (r : XRow) : Bool :=
  h.jobs.any (fun j => (j.lost || (j.result.getD 0) != 0) && j.rows.any (fun x => x.1 / 8 == r.row))

/-- The result row of choice `j` of a row. -/
def resultRowOf (h : XHalf) (row j : Nat) : Option (List Byte) :=
  h.jobs.findSome? (fun k => k.res.find? (fun b => fld b 0 2 % 2048 == 8 * row + j))

/-- R254: the output row of one row, with its flags. -/
def combineRow (flush : Bool) (fy : Fmt) (dim : Nat) (h : XHalf) (r : XRow) : List Byte × Flg :=
  let ys := (numbered 0 r.places).map (fun x => match resultRowOf h r.row x.1 with
    | some b => (rowElems fy dim (b.drop 16), BitVec.ofNat 4 (bits (fld b 4 1) 0 4))
    | none => ([], 0#4))
  let outs := (List.range dim).map (fun i =>
    combine flush fy ((r.places.zip (r.gates.zip ys)).map (fun x => (x.1, x.2.1, x.2.2.1.getD i 0))))
  (outs.flatMap (fun o => leBytes 4 o.1), flagsOf outs ||| flagsOf ys)

/-- Flags of a row's tag (R62), for the chunk or step it belongs to. -/
def rowFlags (s : State) (p rte : Nat) (f : Flg) : State :=
  modPart s p (fun P => { P with notices := SSet 0 P.notices rte (SGet 0 P.notices rte ||| f) })

def XHalf.key (h : XHalf) : Nat := halfKey h.chunk h.pos0 h.xl h.half

/-- R254, R261: a half is combined: every row without a lost job is written where its output goes. -/
def combineHalf (s : State) (p : Nat) (h : XHalf) : State :=
  match selSlot s p with
  | none => s
  | some sl =>
    let hd := hdrOf s sl
    let fy := xFmtOut s sl hd h.xl
    let dim := xDim s sl hd h.xl
    let flush := bit ((getPart s p).serving.getD 0) 0
    let t := (h.rows.filter (fun r => !rowLost h r)).foldl (fun s r =>
      let o := combineRow flush fy dim h r
      rowFlags (memPut s r.out o.1) p r.rte o.2) s
    modPart t p (fun P =>
      let P := { P with halves := P.halves.filter (fun x => x.key != h.key) }
      if h.chunk then { P with chunk := P.chunk.map (fun k => { k with joined := k.joined ++ [h.key] }) }
      else { P with step := P.step.map (fun k => { k with joined := k.joined ++ [h.key] }) })

/-- Every job of a half has its result, or is lost. -/
def halfComplete (h : XHalf) : Bool := h.jobs.all (fun j => j.lost || j.result.isSome)

def findHalf (s : State) (p key : Nat) : Option XHalf := (getPart s p).halves.find? (fun h => h.key == key)

/-- R260: the ticks after which the results of a half are late, and at which a paced half is combined. -/
def halfLimit (s : State) (p : Nat) (h : XHalf) : Nat :=
  h.start + (match selSlot s p with | some sl => xLimit s sl (hdrOf s sl) h.xl | none => 0)

def halfDue (s : State) (p : Nat) (h : XHalf) : Nat :=
  h.start + (match selSlot s p with | some sl => xTexch s sl (hdrOf s sl) h.xl | none => 0)

/-- R260: what follows the last result of a half: in free-running mode it is combined; in paced mode it waits for TEXCH, and
a result later than TEXCH is a transient fault of the exchange. A half that lost a job after TEXCH, and had no result later
than TEXCH, is combined when the loss is known. DESIGN CHOICE: log entry 48. -/
def settleHalf (s : State) (p key : Nat) : State :=
  match findHalf s p key with
  | none => s
  | some h =>
    if !(halfComplete h) then s
    else if !s.power.paced then combineHalf s p h
    else if h.late || decide (halfDue s p h < s.tick) then (if h.jobs.any (·.late) then discardInterval s p else combineHalf s p h)
    else s

/-- R261: the requests of a job end with a status. -/
def failJob (s : State) (st : Nat) (h : XHalf) (j : XJob) : State :=
  (h.rows.filter (fun r => j.rows.any (fun x => x.1 / 8 == r.row))).foldl (fun s r => failReq s r.rte (rankOf st) st) s

/-- R261: a job whose path is lost, or whose results are late, ends its requests. -/
def loseJob (s : State) (p key chip hpart st : Nat) : State :=
  match findHalf s p key with
  | none => s
  | some h =>
    let me := fun (j : XJob) => j.chip == chip && j.hpart == hpart && j.result.isNone && !j.lost
    let s := (h.jobs.filter me).foldl (fun s j => failJob s st h j) s
    settleHalf (modHalf s p (fun x => x.key == key)
      (fun x => { x with jobs := updateWhere me (fun j => { j with lost := true }) x.jobs })) p key

/-- R258: the header of a job whose rows have all been accepted. -/
def sendJobHead (s : State) (p : Nat) (h : XHalf) (j : XJob) : State :=
  let P := getPart s p
  let dig := match selSlot s p with | some sl => sl.digest.take 16 | none => zeros 16
  let b := xHeader 1 h.half (h.attempt % 256) 0 (ownChip s) p h.xl j.rows.length (P.cw + 1) (P.serving.getD 0) dig
  let r := brassWrite s p j.chip (Config.jobBuf j.chip j.hpart (ownChip s) p h.half) b .head
    (jobBytes j.hpart (ownChip s) p h.half 0 b)
  let limit := h.start + (match selSlot s p with | some sl => xLimit s sl (hdrOf s sl) h.xl | none => 0)
  let t := modHalf r.1 p (fun x => x.key == h.key)
    (fun x => { x with
      jobs := updateWhere (fun k => k.chip == j.chip && k.hpart == j.hpart) (fun k => { k with headed := true }) x.jobs })
  if r.2.2 then modPart t p (fun P => { P with owed := P.owed ++ [⟨h.half, j.chip, j.hpart, limit⟩] })
  else loseJob t p h.key j.chip j.hpart 0x0408

/-- R258: the rows of a job are written; for the module's own chip the header follows at once. -/
def sendJob (s : State) (p : Nat) (h : XHalf) (f : Fmt) (dim : Nat) (acts : SMap Nat) (j : XJob) : State :=
  let rb := rowBytes f dim
  let at' := Config.jobBuf j.chip j.hpart (ownChip s) p h.half
  let go := (numbered 0 j.rows).foldl (fun (a : State × Nat × Bool) x =>
    if !a.2.2 then a
    else
      let b := rowRecord x.2.1 x.2.2 0 (h.attempt % 256) f dim (memGet a.1 (SGet 0 acts (x.2.1 / 8)) (ceilDiv (dim * f.width) 8))
      let r := brassWrite (memTouch a.1 (SGet 0 acts (x.2.1 / 8)) (ceilDiv (dim * f.width) 8)) p j.chip (at' + 64 + rb * x.1) b (.jobRow p h.key h.attempt j.chip j.hpart)
        (jobBytes j.hpart (ownChip s) p h.half (64 + rb * x.1) b)
      (r.1, a.2.1 + r.2.1, r.2.2)) (s, 0, true)
  let t := modHalf go.1 p (fun x => x.key == h.key)
    (fun x => { x with
      jobs := updateWhere (fun k => k.chip == j.chip && k.hpart == j.hpart) (fun k => { k with unacked := go.2.1 }) x.jobs })
  if !go.2.2 then loseJob t p h.key j.chip j.hpart 0x0408
  else if go.2.1 = 0 then sendJobHead t p h j else t

/-! ### Dispatch (R251 to R256) -/

/-- An insertion into a list of ascending keys, after equal keys. -/
def insAsc {α : Type} (key : α → Nat) (x : α) : List α → List α
  | [] => [x]
  | y :: ys => if key x < key y then x :: y :: ys else y :: insAsc key x ys

def sortAsc {α : Type} (key : α → Nat) (xs : List α) : List α := xs.foldl (fun a x => insAsc key x a) []

/-- R255: the jobs of a half: one for each holder with a filled choice, its rows by HSLOT, then row, then choice. -/
def jobsOf (s : State) (sl : Slot) (h : Hdr) (xl : Nat) (rows : List XRow) : List XJob :=
  let cs := rows.flatMap (fun r => (numbered 0 r.places).filterMap (fun c =>
    if c.2 = RESID then none else some (8 * r.row + c.1, holderOf s sl h xl c.2)))
  let holders := (cs.map (fun c => (c.2.1, c.2.2.1))).dedup
  holders.map (fun k =>
    let rows := sortAsc (fun x => x.2) ((cs.filter (fun c => c.2.1 == k.1 && c.2.2.1 == k.2)).map (fun c => (c.1, c.2.2.2)))
    { chip := k.1, hpart := k.2, rows := rows })

/-- R255: the exchange batch that holds a half: request and position of each of its rows, and whether it is a chunk's. -/
def batchRows (s : State) (p pos0 : Nat) (chunk : Bool) : List (Nat × Nat) :=
  let P := getPart s p
  if chunk then match P.chunk with
    | some k => if k.first ≤ pos0 ∧ (pos0 - k.first) % 256 = 0 then
        (List.range (min 256 (k.first + k.count - pos0))).map (fun i => (k.rte, pos0 + i)) else []
    | none => []
  else match P.step with
    | some t => (sortAsc id (t.rows.map (·.rte))).filterMap (fun r =>
        (getRte s r).map (fun q => (r, q.nprompt - 1 + (dynOf s q).ngen)))
    | none => []

/-- R255: rows of half 0 or 1 of a batch of `n`, from the place of the first. -/
def halfOf (n half : Nat) : Nat × Nat := if half = 0 then (0, (n + 1) / 2) else ((n + 1) / 2, n - (n + 1) / 2)

/-- R250: the working occupancy record of an expert layer for a row. -/
def workOcc (s : State) (p : Nat) (chunk : Bool) (r xl : Nat) : Occ :=
  let P := getPart s p
  if chunk then match P.chunk with | some k => SGet Occ.empty k.occ xl | none => Occ.empty
  else
    let w := match P.step with
      | some t => ((t.rows.find? (fun x => x.rte == r)).map (fun x => SGet Occ.empty x.occ xl)).getD Occ.empty
      | none => Occ.empty
    if w = Occ.empty then match getRte s r with | some q => validOcc P.cw q xl | none => Occ.empty else w

def setOcc (s : State) (p : Nat) (chunk : Bool) (r xl : Nat) (o : Occ) : State :=
  modPart s p (fun P =>
    if chunk then { P with chunk := P.chunk.map (fun k => { k with occ := SSet Occ.empty k.occ xl o }) }
    else { P with step := P.step.map (fun t => { t with
              rows := updateWhere (fun x => x.rte == r) (fun x => { x with occ := SSet Occ.empty x.occ xl o }) t.rows }) })

/-- R251, R253: one row routed: its placements and gates; drops and flags counted. -/
def routeRow (sl : Slot) (h : Hdr) (p xl : Nat) (chunk : Bool) (row r pos zoff out : Nat) (s : State) : State × XRow :=
  let flush := bit ((getPart s p).serving.getD 0) 0
  let L := xpar s sl h xl
  let z := (List.range L.nexp).map (fun i => leNat (memGet s (zoff + 4 * i) 4))
  let w := route flush z pos L (workOcc s p chunk r xl)
  let g := gates flush z L.e (xGatec s sl h xl)
  let add := fun (m : SMap Nat) => SSet 0 m xl (SGet 0 m xl + w.2.2.1)
  let t := modPart (rowFlags (setOcc s p chunk r xl w.2.1) p r (w.2.2.2 ||| g.2)) p (fun P =>
    if chunk then { P with chunk := P.chunk.map (fun k => { k with drops := add k.drops }) }
    else { P with step := P.step.map (fun k => { k with
      rows := updateWhere (fun x => x.rte == r) (fun x => { x with drops := add x.drops }) k.rows }) })
  (t, ⟨row, r, out, w.1, g.1⟩)

/-- R251: the row is the next to route, or a position computed again. -/
def routable (s : State) (p xl : Nat) (chunk : Bool) (r pos : Nat) : Bool :=
  let o := workOcc s p chunk r xl
  decide (pos = o.nextPos) || (!chunk && decide (pos + 1 = o.nextPos))

/-- R256: results of the previous job of the same half are outstanding at a holder. -/
def holderBusy (s : State) (p half chip hpart : Nat) : Bool :=
  (getPart s p).halves.any (fun h => h.half == half &&
    h.jobs.any (fun j => j.chip == chip && j.hpart == hpart && j.result.isNone && !j.lost)) ||
  (getPart s p).owed.any (fun o => o.half == half && o.chip == chip && o.hpart == hpart && decide (s.tick ≤ o.limit))

/-- R257, R262: dispatches of a half in the interval, and whether it is combined since the interval began anew. -/
def halfTries (P : Part) (chunk : Bool) (key : Nat) : Nat :=
  if chunk then SGet 0 ((P.chunk.map (·.tries)).getD []) key else SGet 0 ((P.step.map (·.tries)).getD []) key

def halfJoined (P : Part) (chunk : Bool) (key : Nat) : Bool :=
  if chunk then P.chunk.any (fun k => k.joined.contains key) else P.step.any (fun k => k.joined.contains key)

def halfTried (s : State) (p : Nat) (chunk : Bool) (key : Nat) : State :=
  let up := fun (m : SMap Nat) => SSet 0 m key (SGet 0 m key + 1)
  modPart s p (fun P =>
    if chunk then { P with chunk := P.chunk.map (fun k => { k with tries := up k.tries }) }
    else { P with step := P.step.map (fun k => { k with tries := up k.tries }) })

/-- R471: layers of the model's image for a context that have run, and the place of a row of a layer's D there. -/
def ctxLayerDone (s : State) (p : Nat) (chunk : Bool) (n : Nat) : Bool :=
  let P := getPart s p
  let i := roleImage s p (if chunk then 1 else 2)
  decide (n < SGet 0 ((if chunk then P.chunk.map (·.ran) else P.step.map (·.ran)).getD []) i)

def layerRowAt (s : State) (p : Nat) (chunk : Bool) (n : Nat) (x : Nat × Nat × Nat) : Option Nat :=
  let c : Ctx := if chunk then .chunk else .step
  (cfgImage s p ((getPart s p).sel.getD 0) (roleImage s p (if chunk then 1 else 2))).bind (fun ci =>
    (rowPlace (opGet s p ci.1.slot) (layerAt s ci.1 n) c ((ctxRows s p c).headD x).2.1 x).bind (localOf s p ci.1.slot))

/-- R249, R471: for a row of a half: its router logits, which RLAYER's D holds; its activation row, which the layer that firmware
names holds; and where its output row goes. DESIGN CHOICE: log entry 48. -/
def rowAts (s : State) (p : Nat) (sl : Slot) (h : Hdr) (xl : Nat) (chunk : Bool) (k : Nat) (x : Nat × Nat × Nat) : Option (Nat × Nat × Nat) :=
  (layerRowAt s p chunk (imgFld s sl (xrecOff h xl) 2) x).bind (fun z =>
    (layerRowAt s p chunk (Config.expertIn sl.digest xl) x).map (fun a => (z, a, Config.expertOut p xl chunk k)))

/-- HALF_DISPATCH: the rows of a half of the chunk's batch that begins at position `pos0`, or of the step's.
DEDUCED: log entry 25. -/
def execHalfDispatch (part xl half pos0 : Nat) (chunk : Bool) (s : State) : Host.Outcome State Fault Refusal :=
  match selSlot s part with
  | none => .next s
  | some sl =>
    let h := hdrOf s sl
    let batch := batchRows s part pos0 chunk
    let hf := halfOf batch.length half
    let first := (ctxRows s part (if chunk then .chunk else .step)).drop (if chunk then pos0 - ((getPart s part).chunk.map (·.first)).getD 0 else 0)
    let mine := (first.drop hf.1).take hf.2
    let L := xpar s sl h xl
    let dim := xDim s sl h xl
    let fin := xFmtIn s sl h xl
    let pos0 := if chunk then pos0 else 0
    let key := halfKey chunk pos0 xl half
    let key0 := halfKey chunk pos0 xl 0
    let P := getPart s part
    let ats := (numbered hf.1 mine).mapM (fun e => rowAts s part sl h xl chunk e.1 e.2)
    if !serving s ∨ P.serving.isNone ∨ 1 < half ∨ nxlOf s part ≤ xl ∨ (!chunk ∧ (P.step.bind (·.tout)).isSome) ∨ mine = [] ∨
        (findHalf s part key).isSome ∨ halfJoined P chunk key ∨
        (half = 1 ∧ (findHalf s part key0).isNone ∧ !halfJoined P chunk key0) ∨
        !ctxLayerDone s part chunk (imgFld s sl (xrecOff h xl) 2) ∨ !ctxLayerDone s part chunk (Config.expertIn sl.digest xl) ∨
        !((if chunk then mine.take 1 else mine).all (fun x => routable s part xl chunk x.1 x.2.1)) ∨
        !((ats.getD []).all (fun r => localOk s part r.1 (4 * L.nexp) && localOk s part r.2.1 (max 1 (ceilDiv (dim * fin.width) 8)) &&
          localOk s part r.2.2 (4 * dim))) ∨ ats = none then .next s
    else
      let x := (numbered hf.1 (mine.zip (ats.getD []))).foldl (fun (a : State × List XRow) e =>
        let t := routeRow sl h part xl chunk e.1 e.2.1.1 e.2.1.2.1 e.2.2.1 e.2.2.2.2 a.1
        (t.1, a.2 ++ [t.2])) (s, [])
      let jobs := jobsOf x.1 sl h xl x.2
      if jobs.any (fun j => holderBusy s part half j.chip j.hpart) then .next s
      else
        let hv : XHalf := { xl := xl, half := half, pos0 := pos0, attempt := halfTries P chunk key, start := s.tick, jobs := jobs, rows := x.2, chunk := chunk }
        let acts := (numbered hf.1 (ats.getD [])).foldl (fun m e => SSet 0 m e.1 e.2.2.1) []
        let t := modPart (halfTried x.1 part chunk key) part (fun P => { P with halves := P.halves ++ [hv] })
        .next (settleHalf (jobs.foldl (fun s j => sendJob s part hv fin dim acts j) t) part key)

/-! ### The holder (R256 to R258) -/

/-- The writes in the receive buffer of a sender's half. -/
def bufOf (s : State) (part chip spart half : Nat) : List (Nat × List Byte) :=
  (s.fab.brassIn.filter (fun b => b.hpart == part && b.chip == chip && b.spart == spart && b.half == half)).map (fun b => (b.off, b.data))

/-- The slot of a partition whose image has a digest with these first 16 bytes. -/
def slotOfDigest (s : State) (part : Nat) (dig : List Byte) : Option (Nat × Slot) :=
  (getPart s part).slots.findSome? (fun e => e.2.bind (fun sl => if sl.digest.take 16 = dig then some (e.1, sl) else none))

/-- R257: HSLOT and row of a row record, in the order of R255: a token's filled choices name distinct experts. -/
def rowKey (b : List Byte) : Nat := fld b 2 2 * 256 + fld b 0 2 % 2048 / 8

/-- R255: the row and the choice of a row record. -/
def recRow (b : List Byte) : Nat := fld b 0 2 % 2048 / 8
def recChoice (b : List Byte) : Nat := fld b 0 2 % 8

/-- R255, R257: the rows of a job of a half meet the tables and the order of a job: rows of one half of a batch of up to 256,
choices below E, each row once at an expert that the holder has. -/
def rowsOk (half attempt e nprob dim : Nat) (f : Fmt) (rows : List (List Byte)) : Bool :=
  !rows.isEmpty &&
    rows.all (fun b => bits (fld b 0 2) 11 5 == 0 && zeroAt b 4 1 && fld b 5 1 == attempt && zeroAt b 6 10 &&
      zeroAt b (16 + ceilDiv (dim * f.width) 8) (rowBytes f dim - 16 - ceilDiv (dim * f.width) 8) &&
      decide (recChoice b < e ∧ fld b 2 2 < nprob)) &&
    (rows.zip (rows.drop 1)).all (fun x => decide (rowKey x.1 < rowKey x.2)) &&
    rows.all (fun b => rows.all (fun c => decide (recRow b < recRow c + 128))) && rows.all (fun b => decide (half ≤ recRow b ∧ recRow b < 128 + 128 * half)) &&
    rows.all (fun b => rows.all (fun c => recRow b != recRow c || recChoice b != recChoice c || rowKey b == rowKey c))

/-- R257: the fields of a job header that the tables fix. -/
def jobHeadOk (b : List Byte) (half chip spart : Nat) : Bool :=
  fld b 0 4 == 0x4A585242 && fld b 4 1 == 1 && fld b 5 1 == half && zeroAt b 7 1 && fld b 8 2 == chip && fld b 10 1 == spart &&
    zeroAt b 11 1 && decide (fld b 14 2 ≤ 1024) && zeroAt b 28 4 && zeroAt b 48 16

/-- R249, R471: the PREFILL image of a model, whose LIST layers from XLIST on compute an expert, with their number. -/
def expertImage (s : State) (part k : Nat) (sl : Slot) : CfgImg :=
  ((cfgImage s part k (roleIn s sl 1)).map (·.1)).getD ⟨part, some k, 0, 0⟩

def expertLayer (s : State) (part k : Nat) (sl : Slot) (h : Hdr) (xl j : Nat) : Layer :=
  layerAt s (expertImage s part k sl) (imgFld s sl (xrecOff h xl + 2) 2 + j)

def expertDepth (s : State) (sl : Slot) (h : Hdr) (xl : Nat) : Nat := imgFld s sl (xrecOff h xl + 4) 1

/-- R255: experts that a holder's lists have problems for. -/
def slotsHeld (s : State) (part k : Nat) (sl : Slot) (h : Hdr) (xl : Nat) : Nat := (expertLayer s part k sl h xl 0).nprob

/-- R258: the STATUS of a RESULT that refuses a job, 0 for a job that runs; and its rows. -/
def judgeJob (s : State) (part chip spart half : Nat) (b : List Byte) : Nat × List (List Byte) :=
  let P := getPart s part
  if P.phase = .absent ∨ P.phase = .faulted ∨ !P.xsend.contains (chip, spart) then (4, [])
  else match slotOfDigest s part ((b.drop 32).take 16) with
    | none => (1, [])
    | some (k, sl) =>
      let h := hdrOf s sl
      let xl := fld b 12 2
      if h.mode ≠ fld b 24 4 then (2, [])
      else if !jobHeadOk b half chip spart ∨ h.expOff = 0 ∨ imgFld s sl (h.expOff + 6) 2 ≤ xl then (3, [])
      else
        let f := xFmtIn s sl h xl
        let dim := xDim s sl h xl
        match (List.range (fld b 14 2)).mapM (fun i => gather (bufOf s part chip spart half) (64 + rowBytes f dim * i) (rowBytes f dim)) with
        | none => (3, [])
        | some rows => if rowsOk half (fld b 6 1) (imgFld s sl (xrecOff h xl + 5) 1) (slotsHeld s part k sl h xl) dim f rows
            then (0, rows) else (3, [])

/-- R257, R258: a RESULT header, from the job's own. -/
def resultHead (b : List Byte) (status nrow : Nat) : List Byte :=
  xHeader 2 (fld b 5 1 % 2) (fld b 6 1) status (fld b 8 2) (fld b 10 1) (fld b 12 2) nrow (fld b 16 8) (fld b 24 4) ((b.drop 32).take 16)

/-- A RESULT header is written to the sender. -/
def sendResultHead (s : State) (part chip spart half : Nat) (b : List Byte) : State :=
  (brassWrite s part chip (Config.resultBuf chip spart (ownChip s) part half) b .head
    (resultBytes spart (ownChip s) part half 0 b)).1

/-- JOB_ARRIVAL: the oldest job header in a sender's receive buffers is acted on. -/
def execJobArrival (part chip spart : Nat) (s : State) : Host.Outcome State Fault Refusal :=
  match s.fab.brassIn.find? (fun b => b.hpart == part && b.chip == chip && b.spart == spart && b.off == 0) with
  | none => .next s
  | some x =>
    if !serving s then .next s
    else
      let r := judgeJob s part chip spart x.half x.data
      let t := modFab s (fun f => { f with brassIn := f.brassIn.filter (fun b =>
        !(b.hpart == part && b.chip == chip && b.spart == spart && b.half == x.half)) })
      .next (if r.1 ≠ 0 then sendResultHead t part chip spart x.half (resultHead x.data r.1 0)
        else modPart t part (fun P => { P with hjobs := P.hjobs ++ [⟨chip, spart, x.half, x.data, r.2, none, 0⟩] }))

def modJob (s : State) (part chip spart half : Nat) (f : HJob → HJob) : State :=
  modPart s part (fun P => { P with
    hjobs := updateWhere (fun j => j.chip == chip && j.spart == spart && j.half == half) f P.hjobs })

/-- R258: the RESULT header follows once every row write has been accepted; the job is then over. -/
def endJob (s : State) (part chip spart half : Nat) : State :=
  match (getPart s part).hjobs.find? (fun j => j.chip == chip && j.spart == spart && j.half == half && j.unacked == 0) with
  | none => s
  | some j => match j.reply with
    | none => s
    | some b => sendResultHead (modPart s part (fun P => { P with hjobs := dropFirst (· == j) P.hjobs })) part chip spart half b

/-- R195, R256: the problem of an expert in a LIST layer of its model. -/
def expertProb (s : State) (part k : Nat) (sl : Slot) (h : Hdr) (xl e j : Nat) : Layer :=
  let l := expertLayer s part k sl h xl j
  problemOf l (opGet s part (some k) (l.rtab + 64 * e) 64)

/-- R256: tier-2 ranges that the expert `e` of a job reads: its list entries, and once these are read its operands but A, which
the job's rows are. -/
def expertReads (s : State) (part k : Nat) (sl : Slot) (h : Hdr) (xl e : Nat) : List (Nat × Nat) :=
  (List.range (expertDepth s sl h xl)).flatMap (fun j =>
    let l := expertLayer s part k sl h xl j
    let r := (l.rtab + 64 * e, 64)
    if (unread s part (some k) [r]).isEmpty then r :: (expertProb s part k sl h xl e j).reads.filter (· != (expertProb s part k sl h xl e j).rangeA)
    else [r])

/-- R32, R195, R256: row `r` of an expert's problem down the NXS LIST layers, each layer's row the next one's A. -/
def expertRow (md : Mode) (src : Nat → Nat → List Byte) (r : Nat) : List Layer → List Nat → List Nat × Flg
  | [], xs => (xs, 0)
  | l :: ls, xs =>
    let y := rowOfD md src l xs r 0 l.n
    let z := expertRow md src r ls y.1
    (z.1, y.2 ||| z.2)

/-- R256, R257: the result record of row `i` of a job. -/
def resultRec (s : State) (part k : Nat) (sl : Slot) (j : HJob) (i : Nat) (b : List Byte) : List Byte :=
  let h := hdrOf s sl
  let xl := fld j.header 12 2
  let fi := xFmtIn s sl h xl
  let fo := xFmtOut s sl h xl
  let dim := xDim s sl h xl
  let e := fld b 2 2
  let r := ((j.rows.take i).filter (fun c => fld c 2 2 == e)).length
  let y := expertRow (Mode.ofWord h.mode) (opGet s part (some k)) r
    ((List.range (expertDepth s sl h xl)).map (expertProb s part k sl h xl e)) (rowElems fi dim (b.drop 16))
  rowRecord (fld b 0 2) e y.2.toNat (fld j.header 6 1) fo dim (packRow fo ((List.range dim).map (fun c => y.1.getD c 0)))

/-- JOB_COMPLETE: the oldest running job of a sender is computed as its model's LIST layers over its rows (R195, R256), and its
result rows are written; list entries and operands of tier 2 are read first. DESIGN CHOICE: log entry 48. -/
def execJobComplete (part chip spart : Nat) (s : State) : Host.Outcome State Fault Refusal :=
  match (getPart s part).hjobs.find? (fun j => j.chip == chip && j.spart == spart && j.reply.isNone) with
  | none => .next s
  | some j => match slotOfDigest s part ((j.header.drop 32).take 16) with
    | none => .next s
    | some (k, sl) =>
      let h := hdrOf s sl
      let xl := fld j.header 12 2
      let rb := rowBytes (xFmtOut s sl h xl) (xDim s sl h xl)
      let rs := (j.rows.map (fun b => fld b 2 2)).eraseDups.flatMap (expertReads s part k sl h xl)
      if !serving s ∨ !noReports s part then .next s
      else match unread s part (some k) rs with
        | r :: _ => .next (if s.host.reads.any (fun x => x.use == .list part r.1) then s
            else
              let x := startRead s (part + 1) r.1 r.2 (.list part r.1)
              if x.2 then x.1 else dropRead x.1 s.host.nextId)
        | [] =>
          let at' := Config.resultBuf chip spart (ownChip s) part j.half
          let go := (numbered 0 j.rows).foldl (fun (a : State × Nat) x =>
            let b := resultRec s part k sl j x.1 x.2
            let r := brassWrite a.1 part chip (at' + 64 + rb * x.1) b (.resultRow part chip spart j.half)
              (resultBytes spart (ownChip s) part j.half (64 + rb * x.1) b)
            (r.1, a.2 + r.2.1)) (s, 0)
          let t := modPart go.1 part (fun P => { P with lists := P.lists.filter (fun x => !rs.any (fun r => r.1 == x.1)) })
          let t := modJob t part chip spart j.half (fun j => { j with
            reply := some (resultHead j.header 0 j.rows.length), unacked := go.2 })
          .next (endJob t part chip spart j.half)

/-! ### Results (R259 to R261) -/

/-- R257: a RESULT header that fits the job. -/
def resultFits (h : XHalf) (j : XJob) (b : List Byte) : Bool :=
  fld b 0 4 == 0x4A585242 && fld b 4 1 == 2 && fld b 5 1 == h.half && fld b 12 2 == h.xl &&
    (if fld b 7 1 = 0 then fld b 14 2 == j.rows.length else fld b 14 2 == 0 && decide (fld b 7 1 ≤ 4))

/-- R261: the jobs of a half without results have them late. -/
def expireHalf (s : State) (p : Nat) (h : XHalf) : State :=
  (h.jobs.filter (fun j => !j.lost && j.result.isNone)).foldl (fun s j => loseJob s p h.key j.chip j.hpart 0x0501) s

/-- A job of a half whose RESULT header has been written. -/
def answeredJob (h : XHalf) (chip : Nat) : Option XJob :=
  h.jobs.find? (fun j => j.chip == chip && j.result.isNone && !j.lost && (gather j.got 0 64).isSome)

/-- RESULT_ARRIVAL: the header of a result has reached the sender's Brass; it is accepted, or discarded and counted. After
XLIMIT the half's results are late (R261). -/
def execResultArrival (part xl half chip : Nat) (s : State) : Host.Outcome State Fault Refusal :=
  match (getPart s part).halves.find? (fun h => h.xl == xl && h.half == half && (answeredJob h chip).isSome), selSlot s part with
  | some h, some sl =>
    match answeredJob h chip with
    | none => .next s
    | some j =>
      let hd := hdrOf s sl
      let rb := rowBytes (xFmtOut s sl hd xl) (xDim s sl hd xl)
      let b := (gather j.got 0 64).getD []
      let me := fun (k : XJob) => k.chip == chip && k.hpart == j.hpart
      let put := fun (f : XJob → XJob) => modHalf s part (fun x => x.key == h.key)
        (fun x => { x with jobs := updateWhere me f x.jobs })
      let rows := (List.range j.rows.length).mapM (fun i => gather j.got (64 + rb * i) rb)
      let err := fun (s : State) => modFab s (fun f => { f with brassErr := f.brassErr + 1 })
      if !serving s then .next s
      else if halfLimit s part h < s.tick then .next (err (expireHalf s part h))
      else if resultFits h j b && (fld b 7 1 != 0 || match rows with
          | some rs => rs.map (fun r => fld r 0 2 % 2048) == j.rows.map (·.1) && rs.all (fun r => fld r 5 1 == h.attempt % 256)
          | none => false) then
        let st := fld b 7 1
        let t := put (fun k => { k with result := some st, res := if st = 0 then rows.getD [] else [], late := h.late || decide (halfDue s part h < s.tick) })
        .next (settleHalf (if st = 0 then t else failJob t 0x0502 h j) part h.key)
      else .next (err (put (fun k => { k with got := k.got.filter (fun g => decide (64 ≤ g.1)) })))
  | _, _ => .next s

/-- TEXCH_EXPIRY: in paced mode a half is combined exactly TEXCH ticks after its dispatch began, when its results are
complete; otherwise they are late (R260). DEDUCED: log entry 25. -/
def execTexchExpiry (part xl half : Nat) (s : State) : Host.Outcome State Fault Refusal :=
  match (getPart s part).halves.find? (fun h => h.xl == xl && h.half == half && !h.late && s.tick == halfDue s part h) with
  | some h =>
    if !serving s ∨ !s.power.paced then .next s
    else if halfComplete h then .next (combineHalf s part h)
    else .next (modHalf s part (fun x => x.key == h.key) (fun x => { x with late := true }))
  | none => .next s

/-- XLIMIT_EXPIRY: the jobs of a half without results end their requests with EXCHANGE_TIMEOUT (R261).
DEDUCED: log entry 25. -/
def execXlimitExpiry (part xl half : Nat) (s : State) : Host.Outcome State Fault Refusal :=
  match (getPart s part).halves.find? (fun h => h.xl == xl && h.half == half && !halfComplete h && decide (halfLimit s part h ≤ s.tick)) with
  | some h => if !serving s then .next s else .next (expireHalf s part h)
  | none => .next s

end Sys2Proof.Machine
end

