-- ==== Sys2Proof/Machine/Command.lean ====
section
/-! DEFINITION. Descriptors: the checks of R309 in their order, with the tables of R308, R310, R311 and R316. -/

namespace Sys2Proof.Machine

def Desc.opc (d : Desc) : Nat := fld d.raw 0 1
def Desc.f (d : Desc) (off n : Nat) : Nat := fld d.raw off n

/-- R310: the opcodes. -/
def opcKnown (o : Nat) : Bool :=
  decide (1 ≤ o ∧ o ≤ 7) || decide (0x10 ≤ o ∧ o ≤ 0x15) || decide (0x20 ≤ o ∧ o ≤ 0x24)

/-- R311: every byte of ARGS outside the listed runs is 0. -/
def restZero (d : Desc) (used : List (Nat × Nat)) : Bool :=
  (List.range 48).all (fun i => used.any (fun u => decide (u.1 ≤ 16 + i ∧ 16 + i < u.1 + u.2)) || d.raw.getD (16 + i) 0 == 0)

/-- R308: the header. -/
def headOk (d : Desc) : Bool :=
  zeroAt d.raw 1 1 && zeroAt d.raw 4 4 && (d.opc == 0x10 || d.opc == 0x11 || zeroAt d.raw 8 8)

/-- R311: a doorbell word of a function's area that a ring may take. -/
def dbidxOk (s : State) (fn i : Nat) : Bool := decide (2 ≤ i ∧ i < 64 * (bits (getFn s fn).dbCfg.toNat 0 8 + 1))

def aligned (a n : Nat) : Bool := a % n == 0

/-- R400: the submission rings of a function, ascending. -/
def subRings (s : State) (fn : Nat) : List Ring :=
  (List.range 4096).filterMap (fun q => findRing s .sub fn q)

/-- R314, R400: bytes that a TELEMETRY_READ writes. -/
def telemetryLen (s : State) (d : Desc) : Nat :=
  if d.f 0x10 1 = 1 then 32 + 8 * nxlOf s (d.fn - 1)
  else 32 + 16 * (if s.power.ecmode = 1 then (s.host.rings.filter (fun r => r.kind == .sub && r.fn == d.fn)).length else 0)

/-- R311: source and destination of a COPY share a byte. -/
def copyOverlaps (s : State) (d : Desc) : Bool :=
  overlap s (d.fn - 1) none (d.f 0x18 8, d.f 0x28 8) (d.f 0x20 8, d.f 0x28 8)

/-- R309 item 1, R311: ranges, alignment and reserved bytes of the opcode's arguments. -/
def argsOk (s : State) (d : Desc) : Bool :=
  let f := d.f
  let slotOk := fun (k : Nat) => decide (k < (getPart s (d.fn - 1)).nslot)
  match d.opc with
  | 0x01 =>
    let t := f 0x10 1
    decide (1 ≤ t ∧ t ≤ 3) && decide ((if t = 3 then 6 else 4) ≤ f 0x11 1 ∧ f 0x11 1 ≤ 16) &&
      decide ((if t = 3 then 0 else 1) ≤ f 0x12 2 ∧ f 0x12 2 ≤ 4095) && (t == 1 || f 0x14 2 == 0) && dbidxOk s d.fn (f 0x16 2) &&
      aligned (f 0x18 8) 4096 && decide (f 0x20 1 ≤ 63) && (t != 1 || f 0x20 1 == 0) && restZero d [(0x10, 17)]
  | 0x02 => decide (1 ≤ f 0x10 1 ∧ f 0x10 1 ≤ 3 ∧ 1 ≤ f 0x12 2 ∧ f 0x12 2 ≤ 4095) && restZero d [(0x10, 1), (0x12, 2)]
  | 0x03 =>
    decide (4 ≤ f 0x10 1 ∧ f 0x10 1 ≤ 16) && dbidxOk s d.fn (f 0x12 2) && decide (f 0x14 1 ≤ 63) && aligned (f 0x18 8) 4096 &&
      restZero d [(0x10, 1), (0x12, 3), (0x18, 8)]
  | 0x04 =>
    decide (1 ≤ f 0x10 1 ∧ f 0x10 1 ≤ 2) && aligned (f 0x18 8) 64 && decide (telemetryLen s d ≤ f 0x20 4) &&
      restZero d [(0x10, 1), (0x18, 12)]
  | 0x05 => decide (f 0x10 1 < 16) && aligned (f 0x18 8) 64 && restZero d [(0x10, 1), (0x18, 8)]
  | 0x06 => decide (f 0x10 1 < 16) && restZero d [(0x10, 1)]
  | 0x07 => decide (1000 ≤ f 0x10 4 ∧ f 0x10 4 ≤ 2400) && restZero d [(0x10, 4)]
  | 0x10 =>
    decide (f 0x12 2 ≤ 4095 ∨ f 0x12 2 = 0xFFFF) && aligned (f 0x20 8) 4 && aligned (f 0x30 8) 16 && aligned (f 0x38 8) 16 &&
      restZero d [(0x10, 6), (0x18, 40)]
  | 0x11 => restZero d []
  | 0x12 => decide (f 0x10 2 ≤ 4095) && aligned (f 0x18 8) 64 && restZero d [(0x10, 2), (0x18, 12)]
  | 0x13 => slotOk (f 0x10 2) && aligned (f 0x18 8) 32 && restZero d [(0x10, 2), (0x18, 8)]
  | 0x14 => aligned (f 0x18 8) 64 && restZero d [(0x18, 8)]
  | 0x15 => slotOk (f 0x10 2) && restZero d [(0x10, 2)]
  | 0x20 => aligned (f 0x18 8) 4096 && gSpace (f 0x18 8) == 0 && gChip (f 0x18 8) == 0 && aligned (f 0x28 8) 32 &&
      restZero d [(0x10, 1), (0x18, 24)]
  | 0x21 => decide (1 ≤ f 0x14 2 ∧ f 0x14 2 ≤ 4096) && aligned (f 0x18 8) 32 && restZero d [(0x10, 1), (0x12, 4), (0x18, 8)]
  | 0x22 => decide (1 ≤ f 0x28 8 ∧ f 0x28 8 ≤ 2 ^ 40) && !copyOverlaps s d && restZero d [(0x18, 24)]
  | 0x23 => restZero d []
  | _ =>
    f 0x10 1 == 5 && bits (f 0x10 8) 20 44 == 0 && aligned (f 0x18 8) 16 && restZero d [(0x10, 16)]

/-- R309 item 2, R310: the ring and function may carry the opcode. -/
def queueOk (d : Desc) : Bool :=
  if 5 ≤ d.opc ∧ d.opc ≤ 7 then d.fn == 0 && d.sq == 0
  else if d.opc ≤ 4 then d.fn != 0 && d.sq == 0
  else d.fn != 0 && d.sq != 0

def kindOf (t : Nat) : RingKind := if t = 1 then .sub else if t = 2 then .comp else .stream

/-- R309 item 3: the rings that the descriptor names exist. -/
def ringsOk (s : State) (d : Desc) : Bool :=
  if d.opc = 1 then d.f 0x10 1 != 1 || (findRing s .comp d.fn (d.f 0x14 2)).isSome
  else if d.opc = 2 then (findRing s (kindOf (d.f 0x10 1)) d.fn (d.f 0x12 2)).isSome
  else if d.opc = 0x10 then (findRing s .stream d.fn (d.f 0x14 2)).isSome
  else true

/-- R316: the columns of the table in which a command is legal: EMPTY, SELECTING, IDLE, BUSY, FAULTED. -/
def legalIn (o : Nat) : PState → Bool
  | .absent => false
  | .empty => o != 0x10 && o != 0x11
  | .selecting => o == 0x01 || o == 0x02 || o == 0x03 || o == 0x04 || o == 0x12 || 0x22 ≤ o
  | .idle => o != 0x11
  | .busy => o != 0x03 && o != 0x13 && o != 0x21
  | .faulted => o == 0x02 || o == 0x04 || o == 0x23

/-- R312: a registration of a handle runs. -/
def registering (s : State) (fn h : Nat) : Bool :=
  s.host.cmds.any (fun c => c.d.fn == fn && c.d.opc == 0x20 && c.d.f 0x10 1 == h)

def handleReady (s : State) (p h : Nat) : Bool := match SGet none (getPart s p).images h with
  | some i => i.cur.isSome
  | none => false

/-- R230, R231: the request that a cancellation names, if its stop has not been decided before the fetch. -/
def cancelTarget (s : State) (p : Nat) (d : Desc) : Option Nat :=
  ((reqsOf s p).find? (fun e => e.2.hosttag == d.f 8 8)).bind (fun e =>
    let decided : Bool := match (getPart s p).step with
      | some t => t.rows.any (fun x => x.rte == e.1 && x.stop != 0) && (match t.tout with | some o => decide (o < d.tick) | none => false)
      | none => false
    if (dynOf s e.2).state = .closing ∨ decided then none else some e.1)

/-- R316: the further conditions. -/
def furtherOk (s : State) (d : Desc) : Bool :=
  let p := d.fn - 1
  let P := getPart s p
  let noChain := fun (k : Nat) => !P.chains.any (fun c => c.slot == k)
  match d.opc with
  | 0x02 =>
    if d.f 0x10 1 = 2 then !s.host.rings.any (fun r => r.kind == .sub && r.fn == d.fn && r.cq == d.f 0x12 2)
    else if d.f 0x10 1 = 3 then !(reqsOf s p).any (fun e => e.2.sring == d.f 0x12 2)
    else true
  | 0x10 => (findRing s .record d.fn 0).isSome
  | 0x11 => (cancelTarget s p d).isSome
  | 0x12 => !((reqsOf s p).any (fun e => e.2.steer == d.f 0x10 2) ||
      s.host.cmds.any (fun c => c.d.fn == d.fn && c.d.opc == 0x10 && c.d.f 0x12 2 == d.f 0x10 2))
  | 0x13 => (getSlot s p (d.f 0x10 2)).isSome && noChain (d.f 0x10 2)
  | 0x15 => !(pstate s p == .busy && P.sel == some (d.f 0x10 2)) && noChain (d.f 0x10 2)
  | 0x20 => !(P.runs.any (fun r => r.handle == d.f 0x10 1) ||
      s.host.cmds.any (fun c => c.d.fn == d.fn && c.d.opc == 0x21 && c.d.f 0x10 1 == d.f 0x10 1))
  | 0x21 => registering s d.fn (d.f 0x10 1) || handleReady s p (d.f 0x10 1)
  | _ => true

/-- R309 item 4, R316: the state permits the command. -/
def stateOk (s : State) (d : Desc) : Bool :=
  let P := getPart s (d.f 0x10 1)
  match d.opc with
  | 0x05 => P.phase == .absent && !P.creating
  | 0x06 => let x := pstate s (d.f 0x10 1); x == .empty || x == .idle || x == .faulted
  | 0x07 => true
  | o => legalIn o (pstate s (d.fn - 1)) && furtherOk s d

/-- R403: commands that a thermal stop ends as their own check, without another effect; of MODEL_SELECT see its meaning. -/
def thermalBars (o : Nat) : Bool := o == 0x10 || o == 0x14 || o == 0x20 || o == 0x21 || o == 0x22

/-- R309: items 1 to 4 and the thermal stop: the status of the first check that fails. -/
def judge (s : State) (d : Desc) : Option Nat :=
  if !headOk d ∨ !argsOk s d then some 0x0001
  else if !queueOk d then some 0x0002
  else if !ringsOk s d then some 0x0007
  else if !stateOk s d then some 0x0003
  else if s.power.tstop ∧ thermalBars d.opc then some 0x010A
  else none

/-- R313: a descriptor waits behind a FENCE of its ring that has not completed. -/
def behindFence (s : State) (d : Desc) : Bool :=
  s.host.cmds.any (fun c => c.d.fn == d.fn && c.d.sq == d.sq && c.d.opc == 0x23)

/-- R304: the next descriptor of a function that is handed to firmware. -/
def frontDesc (s : State) (fn : Nat) : Option Desc := s.host.handed.find? (fun d => d.fn == fn && !behindFence s d)

/-- A function whose descriptors are handed over: its partition exists, or it is the PF. -/
def fnServes (s : State) (fn : Nat) : Bool := fn == 0 || (getPart s (fn - 1)).phase != .absent

/-- A command that completes when it is handed over; nothing is written for one that a reset of its function has cut off
(R298). -/
def doneDesc (s : State) (d : Desc) (st : Nat) : State := if d.silent then s else dueComp s (compOf d st)

/-- A descriptor of the opcode is handed over, judged, and acted on by `f`. DEDUCED: log entry 15. -/
def takeDesc (fn opc : Nat) (also : Desc → Bool) (f : Desc → State → State) (s : State) : Host.Outcome State Fault Refusal :=
  onUnit (decide (fn < 17)) (match frontDesc s fn with
    | none => s
    | some d =>
      if d.opc ≠ opc ∨ !also d ∨ !serving s ∨ !fnServes s fn then s
      else
        let t := dropDesc s d
        match judge s d with
        | some st => doneDesc t d st
        | none => f d t)

/-- A command that goes on: the state with it running, and its number. -/
def begun (s : State) (d : Desc) : State := startCmd s d .running

end Sys2Proof.Machine
end

