-- ==== Sys2Proof/Machine/Rings.lean ====
section
/-! DEFINITION. Doorbells, fetching, queues and telemetry (R299 to R307, R312, R314, R400). -/

namespace Sys2Proof.Machine

/-! ### Polling (R299 to R301) -/

/-- A function that the host has enabled. -/
def fnOn (s : State) (fn : Nat) : Bool := fn == 0 || (getFn s fn).enabled

/-- R300: the active lines of the module as (function, line), in the order of a pass. -/
def activeLines (s : State) : List (Nat × Nat) :=
  (List.range 17).flatMap (fun fn =>
    if (getFn s fn).aqen && fnOn s fn then
      ((List.range 256).filter (fun l => s.host.rings.any (fun r => r.fn == fn && r.db / 64 == l))).map (fun l => (fn, l))
    else [])

def isLine : ReadFor → Bool
  | .line _ _ => true
  | _ => false

/-- POLL_PASS: a pass begins: every active line is read. -/
def execPollPass (s : State) : Host.Outcome State Fault Refusal :=
  let ls := activeLines s
  .next (whenB (serving s && s.host.dlActive && !s.host.passing && !ls.isEmpty &&
      decide (s.host.passTick + max s.host.poll.toNat (5 * ls.length) ≤ s.tick)) s
    (ls.foldl (fun s l => (startRead s l.1 (2 ^ 64 + (getFn s l.1).dbBase.toNat + 512 * l.2) 512 (.line l.1 l.2)).1)
      (modHost s (fun h => { h with passing := true, passTick := s.tick }))))

/-- R303: slots of the completion ring not yet reserved. -/
def cqRoom (s : State) (fn cq : Nat) : Nat := match findRing s .comp fn cq with
  | some r => r.slots - ((r.cnt - r.idx).toNat + r.resv)
  | none => 0

/-- R303, R304: up to `n` descriptors of a ring are fetched. -/
def fetchRing (fn sq : Nat) : Nat → State → State
  | 0, s => s
  | n + 1, s =>
    match findRing s .sub fn sq with
    | none => s
    | some r =>
      if r.stopped ∨ r.cnt = r.idx ∨ cqRoom s fn r.cq = 0 then s
      else
        let a := r.base + 64 * (r.cnt.toNat % r.slots)
        let s := modRing s .sub fn sq (fun r => { r with cnt := r.cnt + 1 })
        let s := modRing s .comp fn r.cq (fun c => { c with resv := c.resv + 1 })
        fetchRing fn sq n (startRead s fn (2 ^ 64 + a) 64 (.desc fn sq)).1

/-- R292, R296: the rings of a function may be fetched from. -/
def mayFetch (s : State) (fn sq : Nat) : Bool :=
  serving s && (sq != 0 || (getFn s fn).aqen) && (fn == 0 || s.host.lock && (getPart s (fn - 1)).phase != .absent)

/-- R304: the submission rings of every function in turn. -/
def fetchAll (s : State) : State :=
  (List.range 17).foldl (fun s fn => (subRings s fn).foldl (fun s r => if mayFetch s fn r.id then fetchRing fn r.id 8 s else s) s) s

/-- R300, R304: the pass ends when its last line has been read or skipped, and its fetches follow. -/
def passEnd (s : State) : State :=
  if s.host.passing ∧ !s.host.reads.any (fun r => isLine r.use) then
    modHost (fetchAll s) (fun h => { h with passing := false })
  else s

/-- R301: a ring stops and reports it with one completion of CID 0xFFFF; `held` when the failed fetch reserved its slot. -/
def stopRing (s : State) (fn sq seq st : Nat) (held : Bool) : State :=
  dueComp (modRing s .sub fn sq (fun r => { r with stopped := true }))
    { fn := fn, sq := sq, seq := seq, cid := 0xFFFF, status := st, held := held }

/-- R301: one doorbell word of a ring. -/
def doorbell (s : State) (r : Ring) (idx : Word) : State :=
  if r.kind = .sub then
    if r.stopped then s
    else if (idx - r.cnt).toNat ≤ r.slots then modRing s r.kind r.fn r.id (fun r => { r with idx := idx })
    else stopRing (setErr s r.fn 3) r.fn r.id r.cnt.toNat 4 false
  else if (r.cnt - idx).toNat ≤ r.slots then modRing s r.kind r.fn r.id (fun r => { r with idx := idx })
  else setErr s r.fn 3

/-- DOORBELL_LINE_READ: a piece of a line, of at most Max_Read_Request_Size, has been read (R300); with the last the line's 512
bytes are acted on. DEDUCED: log entry 16. -/
def execDoorbellLineRead (fn line : Nat) (data : List Byte) (s : State) : Host.Outcome State Fault Refusal :=
  onUnit (decide (fn < 17)) (match s.host.reads.find? (fun r => r.use == .line fn line) with
    | none => s
    | some r =>
      if data.length ≠ pieceLen s r ∨ r.tag ≠ 0 ∨ !serving s then s
      else
        let t := dropRead s r.id
        let bs := r.got ++ data
        if bs.length < 512 then (issuePiece t { r with got := bs }).1
        else passEnd ((t.host.rings.filter (fun x => x.fn == fn && x.db / 64 == line)).foldl (fun s x =>
          doorbell s x (BitVec.ofNat 32 (fld bs (8 * (x.db % 64)) 4))) t))

/-! ### Fetching (R303, R304, R309) -/

/-- R309: reserved opcodes at the front of a ring, up to its next FENCE, complete with DESC_INVALID. -/
def flushReserved (fn sq : Nat) : List Desc → State → State
  | [], s => s
  | d :: ds, s =>
    if d.fn ≠ fn ∨ d.sq ≠ sq then flushReserved fn sq ds s
    else if d.opc = 0x23 then s
    else if opcKnown d.opc then flushReserved fn sq ds s
    else flushReserved fn sq ds (doneDesc (dropDesc s d) d 1)

/-- DESCRIPTOR_FETCH: the oldest fetch of a function returns. DEDUCED: log entry 16. -/
def execDescriptorFetch (fn : Nat) (data : List Byte) (s : State) : Host.Outcome State Fault Refusal :=
  onUnit (decide (fn < 17)) (match s.host.reads.find? (fun r => match r.use with | .desc f _ => f == fn | _ => false) with
    | none => s
    | some r => match r.use with
      | .desc f sq =>
        if data.length ≠ 64 ∨ r.tag ≠ 0 ∨ !serving s then s
        else
          let left := (s.host.reads.filter (fun x => x.use == .desc f sq)).length
          let cnt := ((findRing s .sub f sq).map (·.cnt)).getD 0
          let d : Desc := { fn := f, sq := sq, seq := (cnt - BitVec.ofNat 32 left).toNat, tick := s.tick, raw := data }
          let t := dropRead s r.id
          let fence := behindFence t d || t.host.handed.any (fun x => x.fn == f && x.sq == sq && x.opc == 0x23)
          if !opcKnown d.opc && !fence then doneDesc t d 1
          else modHost t (fun h => { h with handed := h.handed ++ [d] })
      | _ => s)

/-! ### Queues (R312) -/

/-- R312: the ring's QID or doorbell word is in use in the function. -/
def ringTaken (s : State) (fn : Nat) (k : RingKind) (id db : Nat) : Bool :=
  s.host.rings.any (fun r => r.fn == fn && (r.db == db || (r.kind == k && r.id == id)))

/-- R312: the I/O rings of a kind that a partition has, and its quota. -/
def ringCount (s : State) (fn : Nat) (k : RingKind) : Nat :=
  (s.host.rings.filter (fun r => r.fn == fn && r.kind == k && (r.id != 0 || k == .stream))).length

def ringQuota (P : Part) : RingKind → Nat
  | .sub => P.sqq
  | .comp => P.cqq
  | _ => P.srq

/-- QUEUE_CREATE. -/
def execQueueCreate (fn : Nat) (s : State) : Host.Outcome State Fault Refusal :=
  takeDesc fn 0x01 (fun _ => true) (fun d s =>
    let k := kindOf (d.f 0x10 1)
    if ringTaken s fn k (d.f 0x12 2) (d.f 0x16 2) then doneDesc s d 5
    else if ringQuota (getPart s (fn - 1)) k ≤ ringCount s fn k then doneDesc s d 6
    else
      let r : Ring := { kind := k, fn := fn, id := d.f 0x12 2, base := d.f 0x18 8, lg := d.f 0x11 1, db := d.f 0x16 2
                        vec := d.f 0x20 1, cq := d.f 0x14 2 }
      doneDesc (modHost s (fun h => { h with rings := h.rings ++ [r] })) d 0) s

/-- QUEUE_DELETE: a submission ring stops at once and is deleted when its descriptors have completed. -/
def execQueueDelete (fn : Nat) (s : State) : Host.Outcome State Fault Refusal :=
  takeDesc fn 0x02 (fun _ => true) (fun d s =>
    let k := kindOf (d.f 0x10 1)
    let id := d.f 0x12 2
    if k = .sub then settleDeletes (begun (modRing s .sub fn id (fun r => { r with stopped := true })) d) fn
    else doneDesc (deleteRing s k fn id) d 0) s

/-- RECORD_RING_SET. -/
def execRecordRingSet (fn : Nat) (s : State) : Host.Outcome State Fault Refusal :=
  takeDesc fn 0x03 (fun _ => true) (fun d s =>
    let db := d.f 0x12 2
    if s.host.rings.any (fun r => r.fn == fn && r.db == db && r.kind != .record) then doneDesc s d 5
    else
      let r : Ring := { kind := .record, fn := fn, id := 0, base := d.f 0x18 8, lg := d.f 0x10 1, db := db, vec := d.f 0x14 1 }
      doneDesc (modHost (deleteRing s .record fn 0) (fun h => { h with rings := h.rings ++ [r] })) d 0) s

/-! ### Telemetry (R314, R400) -/

/-- R314. -/
def dropsBlock (s : State) (p : Nat) : List Byte :=
  let P := getPart s p
  let n := nxlOf s p
  leBytes 8 P.cw ++ leBytes 8 P.ctick ++ leBytes 2 n ++ zeros 14 ++ (List.range n).flatMap (fun x => leBytes 8 (SGet 0 P.drops x))

/-- TELEMETRY_READ_DROPS. -/
def execTelemetryReadDrops (fn : Nat) (s : State) : Host.Outcome State Fault Refusal :=
  takeDesc fn 0x04 (fun d => d.f 0x10 1 != 2) (fun d s =>
    doneDesc (hostWrite s fn (d.f 0x18 8) (dropsBlock s (fn - 1))) d 0) s

/-- R400. -/
def energyBlock (s : State) (fn : Nat) : List Byte :=
  let P := getPart s (fn - 1)
  if s.power.ecmode ≠ 1 then leBytes 8 s.tick ++ leBytes 1 s.power.ecmode ++ zeros 23
  else
    let qs := subRings s fn
    let idle := SGet 0 P.ringEnergy 65536
    let tot := (idle + (qs.map (fun r => SGet 0 P.ringEnergy r.id)).sum) % 2 ^ 64
    leBytes 8 s.tick ++ leBytes 1 1 ++ zeros 1 ++ leBytes 2 qs.length ++ zeros 4 ++ leBytes 8 tot ++ leBytes 8 idle ++
      qs.flatMap (fun r => leBytes 8 r.id ++ leBytes 8 (SGet 0 P.ringEnergy r.id))

/-- TELEMETRY_READ_ENERGY. -/
def execTelemetryReadEnergy (fn : Nat) (s : State) : Host.Outcome State Fault Refusal :=
  takeDesc fn 0x04 (fun d => d.f 0x10 1 == 2) (fun d s =>
    doneDesc (hostWrite s fn (d.f 0x18 8) (energyBlock s fn)) d 0) s

end Sys2Proof.Machine
end

