-- ==== Sys2Proof/Machine/Parts.lean ====
section
/-! DEFINITION. Commands of the rings: partitions (R351 to R355), the host cap (R393), requests (R212, R231), steering sets (R232),
models (R247, R280, R356, R357), registered images and runs (R312), copies and fences (R312, R313), counters (R312). -/

namespace Sys2Proof.Machine

/-! ### Partitions -/

def inRange (lo hi x : Nat) : Bool := decide (lo ≤ x ∧ x ≤ hi)

def pwinOf (b : List Byte) (i : Nat) : PWin :=
  let f := fun o n => fld b (0x40 + 32 * i + o) n
  ⟨f 0 8, f 8 8, f 16 2, f 18 2, f 20 2, f 22 1⟩

/-- R278, R351: a peer window's entry meets its table and, when enabled, lies in the data space. -/
def pwinOk (s : State) (p : Nat) (b : List Byte) (i : Nat) : Bool :=
  let w := pwinOf b i
  aligned w.base 4096 && aligned w.size 4096 && decide (w.base < 2 ^ 42 ∧ w.chipLo < 2 ^ 14 ∧ w.chipHi < 2 ^ 14 ∧ w.acc ≤ 3) &&
    zeroAt b (0x40 + 32 * i + 23) 9 && (w.size == 0 || localOk s p w.base w.size)

/-- R351: the entries of XSEND. -/
def xsendOf (b : List Byte) : List (Nat × Nat) :=
  (List.range (fld b 0x38 2)).map (fun i => (bits (fld b (0x240 + 4 * i) 4) 0 14, bits (fld b (0x240 + 4 * i) 4) 16 4))

/-- The partition that a parameter block describes. -/
def partOf (b : List Byte) : Part :=
  let f := fld b
  { creating := true, sectors := f 8 8, groups := f 16 8, lend := f 0x18 1, nslot := f 0x1A 2, rteq := f 0x1C 4, kvPages := f 0x20 4
    cntq := f 0x24 2, sqq := f 0x26 2, cqq := f 0x28 2, srq := f 0x2A 2
    hostlim := if f 0x2C 4 = 0 then 200000 else f 0x2C 4, peerlim := if f 0x30 4 = 0 then 50000 else f 0x30 4
    peerLo := f 0x34 2, peerHi := f 0x36 2, pwin := (List.range 12).map (pwinOf b), xsend := xsendOf b }

/-- R351: the block meets its table; `s` already names the groups. -/
def partBlockOk (s : State) (p : Nat) (b : List Byte) : Bool :=
  let f := fld b
  let ns := ((List.range 64).filter (bit (f 8 8))).length
  let lim := fun x => x == 0 || inRange 1000 10000000 x
  f 0 4 == 0x54524150 && f 4 2 == 1 && zeroAt b 6 2 && decide (1 ≤ ns ∧ f 16 8 ≠ 0 ∧ f 16 8 < 2 ^ 48 ∧ f 0x18 1 + 1 ≤ ns) &&
    zeroAt b 0x19 1 && inRange 1 256 (f 0x1A 2) && inRange 1 65536 (f 0x1C 4) && decide (1 ≤ f 0x20 4) && inRange 2 4096 (f 0x24 2) &&
    inRange 1 4095 (f 0x26 2) && inRange 1 4095 (f 0x28 2) && inRange 1 4096 (f 0x2A 2) && lim (f 0x2C 4) && lim (f 0x30 4) &&
    decide (f 0x34 2 ≤ f 0x36 2 ∧ f 0x36 2 < 2 ^ 14 ∧ f 0x38 2 ≤ 64) && zeroAt b 0x3A 6 && zeroAt b 0x1C0 128 &&
    (List.range 12).all (pwinOk s p b) && (List.range 64).all (fun i =>
      let e := f (0x240 + 4 * i) 4
      if i < f 0x38 2 then bits e 14 2 == 0 && decide (e < 2 ^ 20) else e == 0)

/-- R352, R470: a sector or group of the block is held by another partition or fenced. -/
def unitsTaken (s : State) (b : List Byte) : Bool :=
  let held := fun (P : Part) => P.phase != .absent || P.creating
  (List.range 64).any (fun n => bit (fld b 8 8) n &&
      (fenced s utCobalt n || partIds.any (fun q => held (getPart s q) && bit (getPart s q).sectors n))) ||
    (List.range 48).any (fun g => bit (fld b 16 8) g &&
      (fenced s utGroup g || partIds.any (fun q => held (getPart s q) && bit (getPart s q).groups g)))

/-- R352: a quota exceeds what other partitions leave. -/
def quotaOver (s : State) (b : List Byte) : Bool :=
  let tot := fun (g : Part → Nat) => (partIds.map (fun q => g (getPart s q))).sum
  decide (65536 < tot (·.rteq) + fld b 0x1C 4 ∨ 4096 < tot (·.cntq) + fld b 0x24 2 ∨ 4096 < tot (·.sqq) + fld b 0x26 2 ∨
    4096 < tot (·.cqq) + fld b 0x28 2 ∨ 4096 < tot (·.srq) + fld b 0x2A 2)

/-- R352: the parameter block of a PART_CREATE has been read. -/
def createPart (s : State) (cmd : Nat) (b : List Byte) : State :=
  match findCmd s cmd with
  | none => s
  | some k =>
    let p := k.d.f 0x10 1
    let P := partOf b
    let t := modMem (modPart s p (fun _ => P)) (fun m => { m with
      classMap := (groupsOf P).foldl (fun c g => SSet 0 c g 0) m.classMap })
    if !partBlockOk t p b then endCmdSt s cmd 1
    else if unitsTaken s b ∨ quotaOver s b then endCmdSt s cmd 3
    else if spaceBytes t P.groups < P.kvPages * 65536 + slotPairBytes P.xsend.length then endCmdSt s cmd 0x040A
    else t

/-- PART_CREATE: the parameter block is read. -/
def execPartCreate (fn : Nat) (s : State) : Host.Outcome State Fault Refusal :=
  takeDesc fn 0x05 (fun _ => true) (fun d s =>
    let id := s.host.nextId
    (startRead (begun s d) 0 (2 ^ 64 + d.f 0x18 8) 832 (.param id)).1) s

/-- R151: the cores of a partition's sectors cleared, with the cells of the sectors. -/
def clearSectors (s : State) (sectors : Nat) : State :=
  modEng s (fun e => { e with
    cores := e.cores.filter (fun c => !bit sectors (c.1 / 64))
    loaded := e.loaded.filter (fun l => !bit sectors l.1)
    cells := e.cells.filter (fun c => !bit sectors (cellSector c.1)) })

/-- PART_CREATE_COMPLETE: groups and cores are cleared, the chain and its first epoch begin, the partition is EMPTY. -/
def execPartCreateComplete (part : Nat) (s : State) : Host.Outcome State Fault Refusal :=
  let P := getPart s part
  onUnit (decide (part < 16)) (whenB (P.creating && serving s) s
    (let t := (groupsOf P).foldl (fun s g =>
        (List.range 8).foldl (fun s k => clearMem s (g * 2 ^ 36 + k * 2 ^ 33) 0x1FF000000) s) (clearSectors s P.sectors)
     let t := modSec t (fun e => { e with
        chainIds := SSet [] e.chainIds part (leBytes 16 (Config.drbg e.draws).toNat), draws := e.draws + 1 })
     let t := modPart t part (fun P => { P with creating := false, phase := .empty, epochAt := s.tick })
     match t.host.cmds.find? (fun c => c.d.fn == 0 && c.d.opc == 5 && c.d.f 0x10 1 == part) with
     | some c => endCmdSt t c.id 0
     | none => t))

/-- R355: the completions of a function that its rings have room for are written; the others are lost. -/
def flushComps (fn : Nat) : List Comp → State → State
  | [], s => s
  | c :: cs, s =>
    let cq := cqOf s fn c.sq
    let s := modHost s (fun h => { h with comps := dropFirst (· == c) h.comps })
    match findRing s .comp fn cq with
    | some r =>
      if mayWrite s fn && compRoom r c then
        let s := if c.held then modRing s .comp fn cq (fun r => { r with resv := r.resv - 1 }) else s
        flushComps fn cs (ringWrite s .comp fn cq (compBytes s c))
      else flushComps fn cs s
    | none => flushComps fn cs s

/-- R355: held records are written while the record ring has room. -/
def flushRecords (p : Nat) : List (List Byte × Option Nat) → State → State
  | [], s => s
  | r :: rs, s =>
    match findRing s .record (p + 1) 0 with
    | some k => if mayWrite s (p + 1) && k.room then flushRecords p rs (ringWrite s .record (p + 1) 0 (r.1 ++ zeros 64)) else s
    | none => s

/-- R444: the sample sets of a function end without status entries. -/
def dropSets (s : State) (fn : Nat) : State := modPew s (fun w => { w with sets := w.sets.filter (fun e => e.1 / 4 != fn) })

/-- R297 item 4, R399: the queues of a function but its admin rings are deleted; the energy of its submission rings joins
IDLE, and a pass that waited only for its lines ends (R300). The admin rings keep their counts (R295).
DEDUCED: log entry 18. -/
def deleteQueues (s : State) (fn : Nat) : State :=
  let qs := s.host.rings.filter (fun r => r.fn == fn && !(r.id == 0 && (r.kind == .sub || r.kind == .comp)))
  let s := qs.foldl (fun s r => deleteRing s r.kind fn r.id) s
  passEnd (modHost s (fun h => { h with
    rings := h.rings.map (fun r => if r.fn = fn then { r with resv := 0, unsig := 0 } else r)
    reads := h.reads.filter (fun r => r.fn != fn), comps := h.comps.filter (fun c => c.fn != fn)
    cmds := h.cmds.filter (fun c => c.d.fn != fn), handed := h.handed.filter (fun d => d.fn != fn) }))

/-- R355: the commands of a function that have not completed end. -/
def abortCmds (s : State) (fn : Nat) : State :=
  let P := getPart s (fn - 1)
  let s := P.chains.foldl (fun s c => failChain s (fn - 1) c.slot 5) s
  let s := (s.host.cmds.filter (fun c => c.d.fn == fn)).foldl (fun s c => endCmdSt s c.id 8) s
  (s.host.handed.filter (fun d => d.fn == fn)).foldl (fun s d => doneDesc (dropDesc s d) d 8) s

/-- PART_DESTROY (R355). -/
def destroyPart (s : State) (p : Nat) : State :=
  let fn := p + 1
  let P := getPart s p
  let s := abortCores (abortCmds s fn) (bit P.sectors)
  let s := clearPlaces s (fun pl => pl.part == p)
  let s := dropLayers (freeCtrs s p (fun _ => true)) p
  let s := flushComps fn (s.host.comps.filter (fun c => c.fn == fn && compReady s c)) s
  let s := flushRecords p (getPart s p).held s
  let s := endEpoch s p 3
  let s := sealAll (getPart s p).ended.length p s
  let s := dropSets (deleteQueues s fn) fn
  let gone := s.eng.rejoin.filter (fun u => u.1 == p)
  let s := modEng s (fun e => { e with
    rejoin := e.rejoin.filter (fun u => u.1 != p)
    away := e.away.filter (fun u => !gone.any (fun b => b.2.1 == u.1 && b.2.2 == u.2)) })
  modRtes (modParts s (fun m => SErase m p))
    (fun m => m.filter (fun e => match e.2 with | some q => q.part != p | none => false))

/-- PART_DESTROY. -/
def execPartDestroy (fn : Nat) (s : State) : Host.Outcome State Fault Refusal :=
  takeDesc fn 0x06 (fun _ => true) (fun d s => doneDesc (destroyPart s (d.f 0x10 1)) d 0) s

/-- CAP_SET. -/
def execCapSet (fn : Nat) (s : State) : Host.Outcome State Fault Refusal :=
  takeDesc fn 0x07 (fun _ => true) (fun d s =>
    doneDesc (limitChanged (modPow s (fun w => { w with hostCap := d.f 0x10 4 })) 1) d 0) s

/-! ### Requests and steering sets -/

/-- A read that a command begins with: `f` takes the bytes when they are in tier 1. -/
def cmdRead (s : State) (id p addr len : Nat) (use : ReadFor) (f : List Byte → State → State) : State :=
  match findCmd s id with
  | none => s
  | some _ =>
    let r := beginRead s p addr len use
    match r.2 with
    | .now bs => f bs r.1
    | .pending => r.1
    | .fail st => endCmdSt r.1 id st

/-- REQUEST_OPEN: its blocks are read, and it waits for its decision (R212, R213). -/
def execRequestOpen (fn : Nat) (s : State) : Host.Outcome State Fault Refusal :=
  takeDesc fn 0x10 (fun _ => true) (fun d s =>
    let p := fn - 1
    let id := s.host.nextId
    let s := startCmd s d .waiting
    let s := cmdRead s id p (d.f 0x30 8) 16 (.samp id) (fun bs s => modCmd s id (fun c => { c with buf := bs }))
    let s := cmdRead s id p (d.f 0x38 8) 272 (.stopset id) (fun bs s => modCmd s id (fun c => { c with buf2 := bs }))
    settle s p) s

/-- REQUEST_CANCEL: t_x is the fetch tick (R230). -/
def execRequestCancel (fn : Nat) (s : State) : Host.Outcome State Fault Refusal :=
  takeDesc fn 0x11 (fun _ => true) (fun d s =>
    match cancelTarget s (fn - 1) d with
    | none => s
    | some r =>
      dueComp (modRte s r (fun q => { q with cxlTick := if q.cxlTick = 0 then max 1 d.tick else q.cxlTick }))
        { compOf d 0 with cancel := some r }) s

/-- STEERING_BIND: the copy begins. -/
def execSteeringBind (fn : Nat) (s : State) : Host.Outcome State Fault Refusal :=
  takeDesc fn 0x12 (fun _ => true) (fun d s =>
    let id := s.host.nextId
    let s := begun s d
    if d.f 0x20 4 = 0 then s
    else cmdRead s id (fn - 1) (d.f 0x18 8) (d.f 0x20 4) (.steering id) (fun bs s => modCmd s id (fun c => { c with buf := bs }))) s

/-! ### Models -/

/-- R315: a MODEL_SELECT has ended with a status other than OK. -/
def endSelect (s : State) (p : Nat) (r : Report) : State :=
  match (getPart s p).selecting with
  | none => s
  | some (id, _) =>
    let s := modPart s p (fun P => { P with phase := .empty, sel := none, selecting := none })
    match findCmd s id with
    | none => s
    | some c =>
      endCmd (writeReport s c.d (reportAt c.d) r) id (fun k => loaderInfo k r)

/-- MODEL_SELECT: the partition is SELECTING; the previous model's placements and counters go (R357). During a thermal stop
it ends at once (R403), and the partition, handed a legal MODEL_SELECT, is EMPTY (R315). DEDUCED: log entry 19. -/
def execModelSelect (fn : Nat) (s : State) : Host.Outcome State Fault Refusal :=
  takeDesc fn 0x13 (fun _ => true) (fun d s =>
    let p := fn - 1
    if s.power.tstop then doneDesc (deselect s p) d 0x010A else
    let k := d.f 0x10 2
    let id := s.host.nextId
    let s := modPart (deselect (begun s d) p) p (fun P => { P with phase := .selecting, selecting := some (id, k), rowMoves := [] })
    match getSlot s p k with
    | some sl => match sl.reg with
      | .refused r => endSelect s p r
      | _ => s
    | none => s) s

/-- R189: the firmware parameter blocks of a model's configuration images, in CFGTAB order. -/
def firmwareParams (s : State) (p k : Nat) (sl : Slot) : List Byte :=
  (List.range (hdrOf s sl).ncfg).flatMap (fun i => match cfgImage s p k i with
    | some x => ciGet s x.1 (ciFld s x.1 0x20 8) (ciFld s x.1 0x28 4)
    | none => [])

/-- R357 events 3 and 4: the new model's firmware parameters go into every Cobalt core of the partition, the step buffers and row
assignments of its Copper units begin anew, and the vector programs are written to every core. -/
def loadModel (s : State) (p k : Nat) (sl : Slot) : State :=
  let b := firmwareParams s p k sl
  let vim := fun n => (numbered 0 ((Config.vecProgram sl.digest n).take 1024)).foldl (fun m (e : Nat × Dword) => SSet 0 m e.1 e.2) []
  let s := (liveSectors s p).foldl (fun s n =>
    (List.range 64).foldl (fun s i => modCore s (64 * n + i) (fun c => if c.busy then c else { c with vim := vim (64 * n + i) }))
      (modCob s n (fun c => { c with dmem := SSetRun 0 c.dmem (Config.paramAt sl.digest) b }))) s
  modEng s (fun e => { e with coppers := e.coppers.filter (fun u => partOfGroup s (u.1 / 8) != some p) })

/-- The PREFILL image of a slot, with the address of the array section that its layer 0 names. -/
def firstSection (s : State) (p k : Nat) (sl : Slot) : Option (CfgImg × Nat) :=
  (cfgImage s p k (roleIn s sl 1)).bind (fun x =>
    if (layerAt s x.1 0).cfg < nArrays s x.1 then some (x.1, arrayOff s x.1 (layerAt s x.1 0).cfg) else none)

/-- R357 event 5: the placement of that section, once firmware has asked for it. -/
def firstPlace (s : State) (p k a : Nat) : Option Placement :=
  (s.eng.places ++ s.eng.waits).find? (fun pl => pl.part == p && pl.ctx == .chunk && pl.slot == some k && pl.sect == a)

/-- R357 event 6, R358, R252: the serving context starts with the model's mode word; the drop counters restart at 0. -/
def selectDone (s : State) (p k : Nat) (sl : Slot) : State :=
  modPart s p (fun P => { P with
    phase := .selected, selecting := none, sel := some k, serving := some (hdrOf s sl).mode, ctxFlg := 0, drops := []
    selOut := (s.pew.fence ++ s.eng.away).filter (fun u => partOfUnit s u.1 u.2 == some p)
    readied := 0, discards := 0, failed := [] })

/-- MODEL_SELECT_COMPLETE: the model is loaded and the first section of its PREFILL image placed; once that is loaded, the
serving context starts and the command completes (R357). DEDUCED: log entry 19. -/
def execModelSelectComplete (part : Nat) (s : State) : Host.Outcome State Fault Refusal :=
  let P := getPart s part
  onUnit (decide (part < 16)) (match P.selecting with
    | none => s
    | some (id, k) => match getSlot s part k with
      | none => s
      | some sl =>
        if sl.reg ≠ .ok ∨ !serving s ∨ !noReports s part then s
        else match firstSection s part k sl with
          | none => endCmdSt (selectDone (loadModel s part k sl) part k sl) id 0
          | some (ci, a) => match firstPlace s part k a with
            | none => newPlace (loadModel s part k sl) ci .chunk false a
            | some pl => if pl.sectors.isEmpty ∨ !pl.loading.isEmpty then s else endCmdSt (selectDone s part k sl) id 0)

/-- MODEL_CHAIN: the parameter block is read. -/
def execModelChain (fn : Nat) (s : State) : Host.Outcome State Fault Refusal :=
  takeDesc fn 0x14 (fun _ => true) (fun d s =>
    let id := s.host.nextId
    cmdRead (begun s d) id (fn - 1) (d.f 0x18 8) 128 (.param id) (fun bs s => joinChain s id bs)) s

/-- MODEL_EVICT: the slot's data space, registration and damage marks are freed. -/
def execModelEvict (fn : Nat) (s : State) : Host.Outcome State Fault Refusal :=
  takeDesc fn 0x15 (fun _ => true) (fun d s =>
    let p := fn - 1
    let k := d.f 0x10 2
    let s := if (getPart s p).sel = some k then deselect s p else s
    doneDesc (modPart s p (fun P => { P with slots := SErase P.slots k })) d 0) s

/-! ### Registered images and runs -/

/-- IMAGE_REGISTER: registration begins; the image registered before stays meanwhile (R312). -/
def execImageRegister (fn : Nat) (s : State) : Host.Outcome State Fault Refusal :=
  takeDesc fn 0x20 (fun _ => true) (fun d s =>
    let h := d.f 0x10 1
    let old := (SGet none (getPart s (fn - 1)).images h).bind (fun i => i.cur)
    let new : Image := { addr := gOff (d.f 0x18 8), len := d.f 0x20 8, reg := .running s.tick, cur := old }
    modPart (begun s d) (fn - 1) (fun P => { P with images := SSet none P.images h (some new) })) s

/-- R312: a GRAPH_RUN whose handle's registration has ended: its own checks, then its run context. -/
def startRun (s : State) (id : Nat) : State :=
  match findCmd s id with
  | none => s
  | some c =>
    let p := c.d.fn - 1
    let first := c.d.f 0x12 2
    let n := c.d.f 0x14 2
    match handleImage s p (c.d.f 0x10 1) with
    | none => endCmdSt s id 3
    | some ci =>
      if nLayers s ci < first + n ∨ (layerAt s ci first).fin ∨ (layerAt s ci (first + n - 1)).fout then endCmdSt s id 1
      else
        let s := modCmd s id (fun c => { c with ph := .running })
        modPart s p (fun P => { P with runs := P.runs ++ [{ cmd := id, handle := c.d.f 0x10 1, layer := first, left := n, mode := ciFld s ci 0x10 4 }], began := s.tick })

/-- GRAPH_RUN: it waits for a registration of its handle that runs. -/
def execGraphRun (fn : Nat) (s : State) : Host.Outcome State Fault Refusal :=
  takeDesc fn 0x21 (fun _ => true) (fun d s =>
    let id := s.host.nextId
    let t := startCmd s d .waiting
    if registering s fn (d.f 0x10 1) then t else startRun t id) s

/-! ### Copies, fences, counters -/

/-- The bytes of a COPY are written to its destination. -/
def copyPut (id : Nat) (bs : List Byte) (s : State) : State :=
  match findCmd s id with
  | none => s
  | some c =>
    let p := c.d.fn - 1
    let dst := c.d.f 0x20 8
    let fin := fun (s : State) => modCmd s id (fun c => { c with b := 1 })
    match localOf s p none dst with
    | some off => fin (memPut s off bs)
    | none =>
      if gSpace dst = 1 then fin (hostWrite s c.d.fn (gOff dst) bs)
      else
        let r := peerWriteAll s p (gChip dst) (gOff dst) bs (.copy id)
        if r.2 then fin r.1 else endCmdSt r.1 id 0x0408

/-- COPY: its source is read and its writes are issued. -/
def execCopy (fn : Nat) (s : State) : Host.Outcome State Fault Refusal :=
  takeDesc fn 0x22 (fun _ => true) (fun d s =>
    let p := fn - 1
    let id := s.host.nextId
    let s := begun s d
    if !permitted s p none true (d.f 0x20 8) (d.f 0x28 8) then endCmdSt s id 0x0409
    else cmdRead s id p (d.f 0x18 8) (d.f 0x28 8) (.copy id) (copyPut id)) s

/-- COPY_COMPLETE: every write is complete (R162). -/
def execCopyComplete (cmd : Nat) (s : State) : Host.Outcome State Fault Refusal :=
  .next (match findCmd s cmd with
    | none => s
    | some c =>
      if c.d.opc ≠ 0x22 ∨ c.b ≠ 1 ∨ !serving s then s
      else endCmdSt (divideEnergy s (c.d.fn - 1) [(c.d.sq, 1)]) cmd 0)

/-- R313: a descriptor of the ring fetched before the count `seq` has not completed. -/
def earlierOpen (s : State) (fn sq seq : Nat) : Bool :=
  let before := fun (x : Nat) => decide (x ≠ seq ∧ (seq + 2 ^ 32 - x) % 2 ^ 32 < 2 ^ 31)
  s.host.cmds.any (fun c => c.d.fn == fn && c.d.sq == sq && before c.d.seq) ||
    s.host.comps.any (fun c => c.fn == fn && c.sq == sq && before c.seq) ||
    s.rtes.any (fun e => match e.2 with | some q => q.fn == fn && q.sq == sq && before q.seq | none => false)

/-- The FENCE of a command number completes, and its ring's later descriptors are handed over. DEDUCED: log entry 17. -/
def releaseFence (s : State) (id : Nat) : State :=
  match findCmd s id with
  | none => s
  | some c =>
    if c.d.opc ≠ 0x23 ∨ earlierOpen s c.d.fn c.d.sq c.d.seq then s
    else
      let t := endCmdSt s id 0
      flushReserved c.d.fn c.d.sq t.host.handed t

/-- FENCE. -/
def execFence (fn : Nat) (s : State) : Host.Outcome State Fault Refusal :=
  takeDesc fn 0x23 (fun _ => true) (fun d s =>
    let id := s.host.nextId
    releaseFence (begun s d) id) s

/-- FENCE_RELEASE. -/
def execFenceRelease (cmd : Nat) (s : State) : Host.Outcome State Fault Refusal :=
  .next (whenB (serving s) s (releaseFence s cmd))

/-- COUNTER_OP: a QUERY of a work counter of the partition. -/
def execCounterOp (fn : Nat) (s : State) : Host.Outcome State Fault Refusal :=
  takeDesc fn 0x24 (fun _ => true) (fun d s =>
    let ans := match getCtr s (bits (d.f 0x10 8) 8 12) with
      | some c => if c.part = fn - 1 then (0, queryBytes c) else (4, zeros 16)
      | none => (4, zeros 16)
    dueComp (hostWrite s fn (d.f 0x18 8) ans.2) { compOf d 0 with info := ans.1 }) s

end Sys2Proof.Machine
end

