-- ==== Sys2Proof/Machine/Setup.lean ====
section
/-! DEFINITION. Set-up registers (R293 to R296), mailboxes (R323, R324), interrupts (R319, R320) and function resets (R297,
R298). -/

namespace Sys2Proof.Machine

/-- A host access to a function's registers reaches the module. -/
def hostReach (s : State) (fn : Nat) : Bool := s.host.dlActive && s.power.pg && !s.power.perst && fnOn s fn

/-! ### Admin rings, lock, poll interval -/

/-- R295: the write is refused. -/
def aqBad (s : State) (fn : Nat) : Bool :=
  let r := getFn s fn
  let a := bits r.aqCfg.toNat 0 4
  let c := bits r.aqCfg.toNat 4 4
  !(inRange 4 12 a && inRange 4 12 c) || decide (63 < bits r.aqCfg.toNat 8 8) || r.aqBase == 0 || r.dbBase == 0 ||
    (fn != 0 && !s.host.lock)

/-- R294, R295: the admin rings of a function; their counts go on from where they stood. -/
def adminRings (s : State) (fn : Nat) : State :=
  let r := getFn s fn
  let base := r.aqBase.toNat
  let a := bits r.aqCfg.toNat 0 4
  let sub := (findRing s .sub fn 0).getD { kind := .sub, fn := fn, id := 0, base := 0, lg := 0, db := 0 }
  let comp := (findRing s .comp fn 0).getD { kind := .comp, fn := fn, id := 0, base := 0, lg := 0, db := 1 }
  modHost s (fun h => { h with
    rings := h.rings.filter (fun x => !(x.fn == fn && x.id == 0 && (x.kind == .sub || x.kind == .comp))) ++
      [{ sub with base := base, lg := a },
       { comp with base := base + roundUp (64 * 2 ^ a) 4096, lg := bits r.aqCfg.toNat 4 4, vec := bits r.aqCfg.toNat 8 8 }] })

/-- R297: once the function is set up again, and no request of before its reset is left, its partition's engines may access HOST
addresses again. -/
def reopenHost (s : State) (p : Nat) : State :=
  if (reqsOf s p).any (fun e => e.2.aborted) then s else modPart s p (fun P => { P with hostCut := false })

/-- AQEN_WRITE. -/
def execAqenWrite (fn : Nat) (on : Bool) (s : State) : Host.Outcome State Fault Refusal :=
  onUnit (decide (fn < 17)) (whenB (hostReach s fn) s
    (if !on then modFn s fn (fun r => { r with aqen := false })
     else if (getFn s fn).aqen then s
     else if aqBad s fn then setErr s fn 1
     else
       let t := adminRings (modFn s fn (fun r => { r with aqen := true })) fn
       if fn = 0 then t else reopenHost t (fn - 1)))

/-- SETUP_LOCK: the lock is set by the PF alone; Electrum measures the registers as they stand (R418). -/
def execSetupLock (fn : Nat) (s : State) : Host.Outcome State Fault Refusal :=
  onUnit (decide (fn < 17)) (whenB (hostReach s fn && fn == 0 && !s.host.lock) s
    (modSec (modHost s (fun h => { h with lock := true })) (fun e => { e with
      lockDigest := sha512 ((List.range 17).flatMap (lockRegs s)) })))

/-- R294, R296: POLL is writable in the PF, until the set-up lock is set. DEDUCED: log entry 41. -/
def pollSet (s : State) (fn : Nat) (ticks : Word) : State :=
  if fn = 0 ∧ !s.host.lock then modHost s (fun h => { h with poll := if ticks < 25 then 25 else ticks }) else s

/-- POLL_WRITE. -/
def execPollWrite (fn : Nat) (ticks : Word) (s : State) : Host.Outcome State Fault Refusal :=
  onUnit (decide (fn < 17)) (whenB (hostReach s fn) s (pollSet s fn ticks))

/-! ### Mailboxes -/

/-- MBPOP. -/
def execMbpop (fn ch : Nat) (s : State) : Host.Outcome State Fault Refusal :=
  onUnit (decide (fn < 17 ∧ ch < 32)) (whenB (hostReach s fn && bindValid s ch && bindRcv s ch == fn) s (mbTake s ch))

/-- R325: a host write to a mailbox is dropped. -/
def mbDropped (s : State) (fn ch : Nat) : Bool := !bindValid s ch || bindSnd s ch != fn || masterDown s (bindRcv s ch)

/-- R323: the transmit buffer of a function's channel. -/
def mbBuf (s : State) (fn ch : Nat) : List Byte :=
  let b := SGet [] s.host.mbTx (32 * fn + ch)
  if b.isEmpty then zeros 64 else b

def mbPut (s : State) (fn ch off : Nat) (v : Dword) : State :=
  let b := mbBuf s fn ch
  modHost s (fun h => { h with
    mbTx := SSet [] h.mbTx (32 * fn + ch) (b.take off ++ leBytes 8 v.toNat ++ b.drop (off + 8)) })

/-- TXSEND: bytes 56 to 63 are written and the message is sent. DEDUCED: log entry 27. -/
def execTxsend (fn ch : Nat) (data : Dword) (s : State) : Host.Outcome State Fault Refusal :=
  onUnit (decide (fn < 17 ∧ ch < 32)) (whenB (hostReach s fn) s
    (if mbDropped s fn ch then setErrCh s fn 4 ch
     else
      let t := mbPut s fn ch 56 data
      let r := bindRcv s ch
      if r ≤ 0x10 then mbHost t r ch (mbBuf t fn ch)
      else tinSend t (mbTin 0x1100 ch (mbEndpoint r) (fn - 1) (mbBuf t fn ch))))

/-- MBOX messages of a channel in RXQ. -/
def mbHeld (s : State) (sector ch : Nat) : Nat :=
  ((getCob s sector).rxq.filter (fun m => m.typ == 0x0C && m.arg == ch)).length

/-- MBOX: the oldest message under way between two endpoints reaches its receiver's queue. -/
def execMbox (src dst : Nat) (crcBad : Bool) (s : State) : Host.Outcome State Fault Refusal :=
  onUnit (cobDst dst) (match winHead s 0x0C src dst with
    | none => s
    | some m =>
      if 0x1000 ≤ dst ∧ dst < 0x1040 then
        deliverCob false 0x0C src dst crcBad (fun n s m =>
          if 4 ≤ mbHeld s n m.arg then modHost s (fun h => { h with mbLoss := SSet 0 h.mbLoss m.arg (SGet 0 h.mbLoss m.arg + 1) })
          else rxArrive s n m) s
      else if crcBad then tinBad s m
      else
        let t := tinDrop s m
        if dst = 0x1100 then (if bindRcv t m.arg ≤ 0x10 then mbHost t (bindRcv t m.arg) m.arg m.data else t)
        else if dst = 0x1102 ∨ dst = 0x1103 then mbInner t m.arg m.data
        else t)

/-! ### Register reads (R12, R13, R291, R293, R294, R323) -/

/-- R1, R294: IDENT, CAPQ and CAPM, with their reset values: interface 0x0001, part 0x0004, class 0x01 (GX4/1), stepping 0x02 (B);
16 VFs, 32 channels, 4,096 stream rings, completion queues and submission queues; MINPOLL 25, 16 partitions, 65,536 RTEs. -/
def identReg : Nat := 0x0001 * 2 ^ 32 + 0x0004 * 2 ^ 16 + 0x01 * 2 ^ 8 + 0x02
def capqReg : Nat := 0x10 * 2 ^ 56 + 0x20 * 2 ^ 48 + 0x1000 * 2 ^ 32 + 0x1000 * 2 ^ 16 + 0x1000
def capmReg : Nat := 0x0019 * 2 ^ 32 + 0x10 * 2 ^ 24 + 0x10000

/-- R291: class code, and the sizes of BAR0 and BAR2, of every function. -/
def classCode : Nat := 0x120000
def bar0Size : Nat := 16384
def bar2Size : Nat := 4096

/-- R294: MBRX.PEND. -/
def mbrxReg (s : State) (fn : Nat) : Nat :=
  ((List.range 32).map (fun c => 2 ^ c * b2n (bindValid s c && bindRcv s c == fn && !(SGet [] s.host.mbRx c).isEmpty))).sum

/-- R12, R293, R294: what a read of the 8 bytes at an offset of BAR0 of a function returns; write-only fields and reserved
offsets read 0, and a VF reads the PF's POLL. -/
def bar0Read (s : State) (fn off : Nat) : Nat :=
  let r := getFn s fn
  if off = 0x00 then identReg
  else if off = 0x08 then Config.serial.toNat
  else if off = 0x10 then capqReg
  else if off = 0x18 then capmReg
  else if off = 0x20 then r.aqBase.toNat
  else if off = 0x28 then r.aqCfg.toNat
  else if off = 0x30 then r.dbBase.toNat
  else if off = 0x38 then r.dbCfg.toNat
  else if off = 0x40 then s.host.poll.toNat
  else if off = 0x48 then r.imod.toNat
  else if off = 0x50 then b2n r.aqen + 4 * b2n s.host.lock + 8 * b2n r.mbien
  else if off = 0x58 then statusReg s fn
  else if off = 0x60 then r.errstat.toNat
  else if off = 0x68 then mbrxReg s fn
  else if 0x100 ≤ off ∧ off < 0x180 then
    let n := (off - 0x100) / 4
    (SGet 0 s.host.mbbind n).toNat + 2 ^ 32 * (SGet 0 s.host.mbbind (n + 1)).toNat
  else if 0x2000 ≤ off ∧ off < 0x2400 then
    let n := (off - 0x2000) / 16
    if off % 16 = 0 then (SGet 0 r.msixAddr n).toNat
    else (SGet 0 r.msixData n).toNat + 2 ^ 32 * b2n (!r.msixOpen.getLsbD n)
  else if off = 0x3000 then r.pba.toNat
  else 0

/-- R323, R325: what a read of BAR2 returns; none is a Completer Abort. -/
def bar2Read (s : State) (fn off : Nat) : Option Nat :=
  let ch := off / 0x80
  if 32 ≤ ch then some 0
  else if off % 0x80 < 0x40 then some (fld (mbBuf s fn ch) (off % 0x80) 8)
  else if !bindValid s ch || bindRcv s ch != fn then some 0
  else if masterDown s (bindSnd s ch) then none
  else some (fld ((SGet [] s.host.mbRx ch).headD (zeros 64)) (off % 0x80 - 0x40) 8)

/-! ### Register writes -/

/-- A register that the set-up lock and AQEN guard (R294, R295). -/
def writeAdmin (s : State) (fn : Nat) (f : FnRegs → FnRegs) : State :=
  if s.host.lock ∨ (getFn s fn).aqen then s else modFn s fn f

/-- R293, R294: a write of 8 bytes at an offset of BAR0 of a function. -/
def bar0Write (s : State) (fn off : Nat) (v : Dword) : State :=
  if off = 0x20 then writeAdmin s fn (fun r => { r with aqBase := v &&& 0xFFFFFFFFFFFFF000#64 })
  else if off = 0x28 then writeAdmin s fn (fun r => { r with aqCfg := v &&& 0xFFFF#64 })
  else if off = 0x30 then writeAdmin s fn (fun r => { r with dbBase := v &&& 0xFFFFFFFFFFFFF000#64 })
  else if off = 0x38 then writeAdmin s fn (fun r => { r with dbCfg := v &&& 0xFF#64 })
  else if off = 0x40 then pollSet s fn (v.setWidth 32)
  else if off = 0x48 then modFn s fn (fun r => { r with imod := v &&& 0xFFFF00FF#64 })
  else if off = 0x50 then modFn s fn (fun r => { r with mbien := v.getLsbD 3 })
  else if off = 0x60 then modFn s fn (fun r => { r with errstat := r.errstat &&& ~~~(v &&& 0x3E#64) })
  else if 0x2000 ≤ off ∧ off < 0x2400 then
    let n := (off - 0x2000) / 16
    if off % 16 = 0 then modFn s fn (fun r => { r with msixAddr := SSet 0 r.msixAddr n v })
    else modFn s fn (fun r => { r with
      msixData := SSet 0 r.msixData n (v.setWidth 32)
      msixOpen := if v.getLsbD 32 then r.msixOpen &&& ~~~(1#64 <<< n) else r.msixOpen })
  else s

/-- R323: a write of 8 bytes at an offset of BAR2 of a function. -/
def bar2Write (s : State) (fn off : Nat) (v : Dword) : State :=
  let ch := off / 0x80
  if 0x38 ≤ off % 0x80 ∨ 32 ≤ ch then s
  else if mbDropped s fn ch then setErrCh s fn 4 ch
  else mbPut s fn ch (off % 0x80) v

/-- R188, R150: a write of 8 bytes at an offset of a Cobalt core's Tin endpoint registers. -/
def cobWrite (s : State) (n off : Nat) (v : Dword) : State :=
  if off < 0x110 then modCob s n (fun c => if c.busy then c else { c with txbuf := SSetRun 0 c.txbuf off (leBytes 8 v.toNat) })
  else if off = 0x208 ∧ v.getLsbD 1 then modCob s n (fun c => { c with denied := false })
  else s

/-- R276, R291: a write of the PF's configuration space: Device Control at 0 (Max_Payload_Size [7:5] of 128, 256 or 512 bytes,
Max_Read_Request_Size [14:12]), the AER uncorrectable and correctable error status at 8 and 16, whose bits a 1 clears.
PRESUMED: log entry 6. -/
def confWrite (s : State) (off : Nat) (v : Dword) : State :=
  if off = 0 then
    if 5 < bits v.toNat 12 3 ∨ 2 < bits v.toNat 5 3 then s
    else modHost s (fun h => { h with mrrs := 128 * 2 ^ bits v.toNat 12 3, mps := 128 * 2 ^ bits v.toNat 5 3 })
  else if off = 8 then modHost s (fun h => { h with aerUncor := h.aerUncor &&& ~~~(v.setWidth 32) })
  else if off = 16 then modHost s (fun h => { h with aerCor := h.aerCor &&& ~~~(v.setWidth 32) })
  else s

/-- REGISTER_WRITE of the 8 bytes at `off`. Space 0 is BAR0 of function `unit`, 1 its BAR2, 2 the PF's configuration space
(R276), 3 the Tin endpoint registers of sector `unit`'s Cobalt core, 4 its timer compare. -/
def execRegisterWrite (space unit off : Nat) (value : Dword) (s : State) : Host.Outcome State Fault Refusal :=
  onUnit (decide ((space < 2 ∧ unit < 17) ∨ (space = 2 ∧ unit = 0) ∨ ((space = 3 ∨ space = 4) ∧ unit < 64)))
    (if off % 8 ≠ 0 then s
     else if space = 0 then whenB (hostReach s unit) s (bar0Write s unit off value)
     else if space = 1 then whenB (hostReach s unit) s (bar2Write s unit off value)
     else if space = 2 then whenB (hostReach s 0) s (confWrite s off value)
     else if space = 3 then whenB (getCob s unit).run s (cobWrite s unit off value)
     else whenB (getCob s unit).run s (modCob s unit (fun c => { c with timecmp := some value.toNat })))

/-! ### Interrupts -/

/-- MSIX_VECTOR_UNMASK: the vector is unmasked, and a message that waits is sent. -/
def execMsixVectorUnmask (fn vec : Nat) (s : State) : Host.Outcome State Fault Refusal :=
  onUnit (decide (fn < 17 ∧ vec < 64)) (whenB (hostReach s fn) s
    (let t := modFn s fn (fun r => { r with msixOpen := r.msixOpen ||| (1#64 <<< vec) })
     if (getFn t fn).pba.getLsbD vec then
       sendVec (modFn t fn (fun r => { r with pba := r.pba &&& ~~~(1#64 <<< vec) })) fn vec
     else t))

/-- IMOD_TIMER_EXPIRY of the ring whose doorbell word is `ring`. DEDUCED: log entry 17. -/
def execImodTimerExpiry (fn ring : Nat) (s : State) : Host.Outcome State Fault Refusal :=
  onUnit (decide (fn < 17)) (match s.host.rings.find? (fun r => r.fn == fn && r.db == ring && r.kind != .sub) with
    | none => s
    | some r =>
      whenB (decide (0 < r.unsig ∧ 0 < r.vec ∧ r.first + bits (getFn s fn).imod.toNat 16 16 ≤ s.tick)) s
        (sendVec (modRing s r.kind fn r.id (fun r => { r with unsig := 0 })) fn r.vec))

/-! ### Function resets (R297, R298) -/

/-- R297 item 1: engines with a read of host memory outstanding stop with cause 4. -/
def stopHostReads (s : State) (fn : Nat) : State :=
  (s.host.reads.filter (fun r => r.fn == fn && r.host)).foldl (fun s r => match r.use with
    | .stream n e _ => seStop s n e 4
    | _ => s) s

/-- The requests of a partition leave the table; their records stay held without them. -/
def freeAll (s : State) (p : Nat) : State :=
  modPart (modRtes s (fun m => m.filter (fun e => match e.2 with | some q => q.part != p | none => false))) p
    (fun P => { P with held := P.held.map (fun h => (h.1, none)) })

/-- R297 items 1 and 2: the partition's engines access HOST addresses no more; its requests end with ABORTED at its next commit,
and are FREE there. The chunk and the step, whose requests they all are, are discarded; a FAULTED partition, which makes no
commit, has its requests FREE at once. -/
def abortReqs (s : State) (p : Nat) : State :=
  let P := getPart s p
  if P.phase = .absent ∨ P.phase = .faulted then freeAll s p
  else
    let s := tearDown (tearDown s p .chunk) p .step
    let s := modPart s p (fun P => { P with chunk := none, step := none, halves := [], notices := [], hostCut := true })
    (reqsOf s p).foldl (fun s e => modRte s e.1 (fun q => { q with aborted := true, ents := [] })) s

/-- R297 item 3: the commands of a function end and nothing is written for them; a chain sends ABORT downstream. -/
def killCmds (s : State) (fn : Nat) : State :=
  let p := fn - 1
  let P := getPart s p
  let s := P.chains.foldl (fun s c => dropChain s p c 5) s
  let s := P.runs.foldl (fun s r => tearDown s p (.run r.cmd)) s
  modPart s p (fun P => { P with
    runs := [], lists := []
    images := P.images.map (fun e => (e.1, e.2.map (fun i => match i.reg with
      | .running _ => { i with reg := if i.cur.isSome then .ok else .none }
      | _ => i))) })

/-- R297 item 4: the function's registers outside RWL take their reset values; its mailbox messages are discarded. -/
def resetRegs (s : State) (fn : Nat) : State :=
  let r := getFn s fn
  let s := modFn s fn (fun _ => { aqBase := r.aqBase, aqCfg := r.aqCfg, dbBase := r.dbBase, dbCfg := r.dbCfg, enabled := r.enabled })
  modHost s (fun h => { h with
    rings := h.rings.filter (fun r => r.fn != fn)
    mbRx := h.mbRx.filter (fun e => !(bindValid s e.1 && bindRcv s e.1 == fn)) })

/-- R297: the reset of a virtual function. DEDUCED: log entry 18. -/
def resetVf (s : State) (fn : Nat) : State :=
  let s := stopHostReads s fn
  let s := abortReqs s (fn - 1)
  resetRegs (dropSets (deleteQueues (killCmds s fn) fn) fn) fn

/-- VF_FLR. PRESUMED: log entry 6. -/
def execVfFlr (fn : Nat) (s : State) : Host.Outcome State Fault Refusal :=
  onUnit (decide (1 ≤ fn ∧ fn < 17)) (whenB (hostReach s fn) s (resetVf s fn))

/-- The virtual functions that are enabled. -/
def vfsOn (s : State) : List Nat := (List.range 17).filter (fun n => n != 0 && (getFn s n).enabled)

/-- VF Enable is cleared: every enabled VF is reset. -/
def vfsOff (s : State) : State :=
  (vfsOn s).foldl (fun s n => modFn (resetVf s n) n (fun r => { r with enabled := false })) s

/-- VF_ENABLE_CLEAR. -/
def execVfEnableClear (s : State) : Host.Outcome State Fault Refusal := .next (whenB (hostReach s 0) s (vfsOff s))

/-- VF_ENABLE_SET. PRESUMED: log entry 6. -/
def execVfEnableSet (s : State) : Host.Outcome State Fault Refusal :=
  .next (whenB (hostReach s 0) s ((List.range 17).foldl (fun s n =>
    if n = 0 then s else modFn s n (fun r => { r with enabled := true })) s))

/-- A PART_CREATE or PART_DESTROY, which a reset of the PF lets run to its end. -/
def partCmd (d : Desc) : Bool := d.fn == 0 && (d.opc == 5 || d.opc == 6)

/-- PF_FLR: the PF is reset, and VF Enable is cleared. DEDUCED: log entry 18. -/
def execPfFlr (s : State) : Host.Outcome State Fault Refusal :=
  .next (whenB (hostReach s 0) s
    (let keep := s.host.cmds.filter (fun c => partCmd c.d)
     let kept := s.host.handed.filter partCmd
     let reads := s.host.reads.filter (fun r => r.fn == 0 && (r.use == .bundle || keep.any (fun c => r.use == .param c.id)))
     let t := resetRegs (dropSets (deleteQueues s 0) 0) 0
     vfsOff (modHost t (fun h => { h with
       cmds := h.cmds ++ keep.map (fun c => { c with d := { c.d with silent := true } })
       handed := h.handed ++ kept.map (fun d => { d with silent := true })
       reads := h.reads ++ reads }))))

end Sys2Proof.Machine
end

