-- ==== Sys2Proof/Machine/Reads.lean ====
section
/-! DEFINITION. Reads of host and peer memory: what their data is for, how they fail, the host link (R171, R276, R277, R288). -/

namespace Sys2Proof.Machine

/-! ### Delivery -/

/-- The data of a parameter block. -/
def deliverParam (s : State) (cmd : Nat) (bs : List Byte) : State :=
  match findCmd s cmd with
  | none => s
  | some c => if c.d.opc = 5 then createPart s cmd bs else if c.d.opc = 0x14 then joinChain s cmd bs else s

/-- The bytes of a read of a FILL: progress of the engine. After an ABORT they are discarded (R172). -/
def deliverRow (s : State) (n e id : Nat) (bs : List Byte) : State :=
  if (getSE s n e).state = .aborting then modXfer s n e id (fun x => { x with out := 0 })
  else if (findXfer s n e id).isNone then s
  else seMoved (modXfer s n e id (fun x => { x with got := x.got ++ bs, out := 0 })) n e

/-- A command's buffer has been read. -/
def deliverBuf (s : State) (cmd : Nat) (f : Cmd → Cmd) : State :=
  match findCmd s cmd with
  | none => s
  | some c => settle (modCmd s cmd f) (c.d.fn - 1)

/-- A read has ended with all its data. -/
def deliver (s : State) (u : ReadFor) (bs : List Byte) : State :=
  match u with
  | .line _ _ => s
  | .desc _ _ => s
  | .param cmd => deliverParam s cmd bs
  | .samp cmd => deliverBuf s cmd (fun c => { c with buf := bs })
  | .stopset cmd => deliverBuf s cmd (fun c => { c with buf2 := bs })
  | .steering cmd => modCmd s cmd (fun c => { c with buf := bs })
  | .copy cmd => copyPut cmd bs s
  | .prompt r => promptDone s r bs
  | .chainSrc p k => sourceRead s p k bs
  | .bundle => modSec s (fun e => { e with bundle := bs })
  | .stream n e id => deliverRow s n e id bs
  | .list p a => modPart s p (fun P => { P with lists := P.lists ++ [(a, bs)] })

/-! ### Failure -/

/-- R304: a descriptor fetch fails: the ring stops, if it has not, and one completion reports the fetch. -/
def failFetch (s : State) (fn sq seq st : Nat) : State := stopRing s fn sq seq st true

/-- A command whose buffer cannot be read ends alone (R212, R288). -/
def failBuf (s : State) (cmd st : Nat) : State :=
  match findCmd s cmd with
  | none => s
  | some c => settle (endCmdSt s cmd st) (c.d.fn - 1)

/-- The context that waits for a problem list: the oldest run, else the interval in progress. -/
def listCtx (P : Part) : Ctx × Nat :=
  match P.runs with
  | r :: _ => (.run r.cmd, r.layer)
  | [] => if P.step.isSome then (.step, 0xFFFFFFFF) else (.chunk, 0xFFFFFFFF)

/-- R288: what a read that ends with a status ends; `seq` is the count of a descriptor's fetch. DEDUCED: log entry 28. -/
def failUse (s : State) (u : ReadFor) (peer : Bool) (seq st : Nat) : State :=
  match u with
  | .line fn _ => passEnd (setErr s fn 2)
  | .desc fn sq => failFetch s fn sq seq st
  | .param cmd => endCmdSt s cmd st
  | .samp cmd => failBuf s cmd st
  | .stopset cmd => failBuf s cmd st
  | .steering cmd => failBuf s cmd st
  | .copy cmd => endCmdSt s cmd st
  | .prompt r => failReq s r (rankOf st) st
  | .chainSrc p k => statusChain s p k st
  | .bundle => bootState s 0x10
  | .stream n e id =>
    if (findXfer s n e id).isNone then s
    else if (getSE s n e).state = .aborting then modXfer s n e id (fun x => { x with out := 0 })
    else tier2Fail s n e (if peer then 5 else 4) st
  | .list p _ =>
    let c := listCtx (getPart s p)
    failRun s p c.1 { status := st, layer := c.2 }

/-- R304: the ring's count of a descriptor under way. -/
def fetchSeq (s : State) (r : ORead) : Nat :=
  match r.use with
  | .desc fn sq =>
    let at' := s.host.reads.filter (fun x => x.use == .desc fn sq)
    let left := at'.length - (at'.takeWhile (fun x => x.id != r.id)).length
    (((findRing s .sub fn sq).map (·.cnt)).getD 0 - BitVec.ofNat 32 left).toNat
  | _ => 0

/-- A read ends with a status; during the PFW# sequence that sequence alone decides what follows (R277). -/
def readFail (s : State) (r : ORead) (st : Nat) : State :=
  let t := dropRead s r.id
  if s.power.pfwAt.isSome then t else failUse t r.use (!r.host) (fetchSeq s r) st

/-! ### Host reads (R276, R277) -/

/-- The read of a number, when it is a host read in flight. -/
def hostRead (s : State) (id : Nat) : Option ORead :=
  if s.power.pg && !s.power.perst then s.host.reads.find? (fun r => r.id == id && r.host && r.tag == 0) else none

/-- The bytes of the piece in flight have arrived: the read is complete, or its next piece is issued. -/
def readMore (s : State) (r : ORead) (bs : List Byte) : State × Bool :=
  let got := r.got ++ bs
  let t := dropRead s r.id
  if r.len ≤ got.length then ((if s.power.pfwAt.isSome then t else deliver t r.use got), true)
  else issuePiece t { r with got := got }

/-- HOST_READ_COMPLETION: the data of a piece of a host read; lines and descriptors have rows of their own. -/
def execHostReadCompletion (read : Nat) (data : List Byte) (s : State) : Host.Outcome State Fault Refusal :=
  .next (match hostRead s read with
    | none => s
    | some r =>
      let own : Bool := match r.use with | .line _ _ => true | .desc _ _ => true | _ => false
      if own ∨ data.length ≠ pieceLen s r then s else (readMore s r data).1)

/-- R277: HOSTLIM of the function whose read it is; the PF's reads take the default. -/
def hostLimOf (s : State) (fn : Nat) : Nat :=
  if fn = 0 ∨ (getPart s (fn - 1)).phase = .absent then 200000 else (getPart s (fn - 1)).hostlim

def readLate (s : State) (r : ORead) : Bool := decide (r.issued + hostLimOf s r.fn ≤ s.tick)

/-- HOSTLIM_EXPIRY. -/
def execHostlimExpiry (read : Nat) (s : State) : Host.Outcome State Fault Refusal :=
  .next (match hostRead s read with
    | none => s
    | some r => whenB (readLate s r) s (readFail s r 0x0403))

/-- PCIE_COMPLETION_TIMEOUT, which AER records as Completion Timeout (R291); at the tick at which the read is late too,
HOST_TIMEOUT decides. PRESUMED: log entry 6. -/
def execPcieCompletionTimeout (read : Nat) (s : State) : Host.Outcome State Fault Refusal :=
  .next (match hostRead s read with
    | none => s
    | some r => readFail (modHost s (fun h => { h with aerUncor := h.aerUncor ||| (1#32 <<< 14) })) r
        (if readLate s r then 0x0403 else 0x0404))

/-- HOST_ERROR_COMPLETION. -/
def execHostErrorCompletion (read : Nat) (s : State) : Host.Outcome State Fault Refusal :=
  .next (match hostRead s read with
    | none => s
    | some r => readFail s r 0x0405)

/-- LINK_LEAVES_DL_ACTIVE: every outstanding host read ends with HOST_READ_ERROR. -/
def execLinkLeavesDlActive (s : State) : Host.Outcome State Fault Refusal :=
  .next (whenB s.host.dlActive s
    ((s.host.reads.filter (fun r => r.host && r.tag == 0)).foldl (fun s r =>
        if s.host.reads.any (fun x => x.id == r.id) then readFail s r 0x0405 else s)
      (modHost s (fun h => { h with dlActive := false }))))

/-- HOST_LINK_DL_ACTIVE: host reads that waited for the link are issued. -/
def execHostLinkDlActive (s : State) : Host.Outcome State Fault Refusal :=
  .next (whenB (s.power.pg && !s.power.perst && s.sec.waiting && !s.host.dlActive) s
    (modHost s (fun h => { h with
      dlActive := true
      reads := h.reads.map (fun r => if r.host && r.tag == 1 then { r with tag := 0, issued := s.tick } else r) })))

end Sys2Proof.Machine
end

