-- ==== Sys2Proof/Machine/Links.lean ====
section
/-! DEFINITION. The link layer of the optical ports: flits received, replay, retraining, identity records (R330 to R345, R349),
and the loss of a path (R342). -/

namespace Sys2Proof.Machine

/-! ### Writes that end, and the loss of a path (R279, R342) -/

/-- The job of a half at a holder, with the half, for one attempt. -/
def jobAt (s : State) (p key attempt chip hpart : Nat) : Option (XHalf × XJob) :=
  (findHalf s p key).bind (fun h =>
    if h.attempt = attempt then (h.jobs.find? (fun j => j.chip == chip && j.hpart == hpart)).map (fun j => (h, j)) else none)

/-- A write of a chain has failed: a lost path ends the chain with REASON 2, anything else with its own status (R282, R288). -/
def failChainWrite (s : State) (p slot cmd st : Nat) : State :=
  match findChain s p slot with
  | none => s
  | some c => if c.cmd ≠ cmd then s else if st = 0x0408 then failChain s p slot 2 else statusChain s p slot st

/-- A peer write has ended with an error (R288). -/
def writeFail (s : State) (w : WriteFor) (st : Nat) : State :=
  match w with
  | .jobRow p key a chip hpart =>
    if st = 0x0408 ∧ (jobAt s p key a chip hpart).isSome then loseJob s p key chip hpart 0x0408 else s
  | .resultRow p chip sp half => modPart s p (fun P => { P with
      hjobs := P.hjobs.filter (fun j => !(j.chip == chip && j.spart == sp && j.half == half)) })
  | .head => s
  | .chainData p k cmd _ => failChainWrite s p k cmd st
  | .notice p k cmd => failChainWrite s p k cmd st
  | .copy cmd => endCmdSt s cmd st
  | .stream n _ _ => match ctxOfCore s n with
    | some (p, c) => failCtxAt s p c (rankOf st) st
    | none => s

/-- A peer write has been acknowledged as accepted. -/
def writeOk (s : State) (w : WriteFor) : State :=
  match w with
  | .jobRow p key a chip hpart => match jobAt s p key a chip hpart with
    | none => s
    | some x =>
      let j := { x.2 with unacked := x.2.unacked - 1 }
      let t := modHalf s p (fun h => h.key == key) (fun h => { h with
        jobs := updateWhere (fun k => k.chip == chip && k.hpart == hpart) (fun k => { k with unacked := k.unacked - 1 }) h.jobs })
      if j.unacked = 0 ∧ !j.headed ∧ !j.lost then sendJobHead t p x.1 j else t
  | .resultRow p chip sp half => endJob (modJob s p chip sp half (fun j => { j with unacked := j.unacked - 1 })) p chip sp half
  | .chainData p k cmd i => chainWacked s p k cmd i
  | .head => s
  | .notice _ _ _ => s
  | .copy _ => s
  | .stream _ _ _ => s

/-- The read of an access. -/
def readOf (s : State) (a : Access) : Option ORead := a.read.bind (fun id => s.host.reads.find? (fun r => r.id == id))

/-- An outstanding access ends with an error. -/
def failAccess (s : State) (a : Access) (dead : Bool) (st : Nat) : State :=
  if !s.fab.accs.contains a then s
  else
    let t := endAccess s a.tag dead
    match readOf t a, a.write with
    | some r, _ => readFail t r st
    | none, some w => writeFail t w st
    | none, none => t

/-- R261: the jobs whose holder's route port is `n` have lost their path. -/
def loseJobs (s : State) (n : Nat) : State :=
  partIds.foldl (fun s p => (getPart s p).halves.foldl (fun s h => h.jobs.foldl (fun s j =>
    if (routePort s j.chip 0).1 = some n ∧ !(hasPlan s && j.chip == ownChip s) then loseJob s p h.key j.chip j.hpart 0x0408
    else s) s) (modPart s p (fun P => { P with owed := P.owed.filter (fun o => (routePort s o.chip 0).1 != some n) }))) s

/-- R342: a port has left ACTIVE or RETRAIN: its accesses end with PEER_LOST. -/
def pathLost (s : State) (n : Nat) : State :=
  loseJobs ((s.fab.accs.filter (fun a => a.port == n)).foldl (fun s a => failAccess s a true 0x0408) s) n

/-! ### Changes of state (R336, R337, R344, R345, R349) -/

/-- The link layer discarded; state and history of the port stay. -/
def Port.fresh (p : Port) : Port := { state := p.state, cause := p.cause, since := p.since, retrains := p.retrains }

/-- DOWN or FENCED: the link layer, its replay buffer and its credits are gone. -/
def portGone (s : State) (n : Nat) (st : PortState) : State := pathLost (modPort (portTo s n st) n Port.fresh) n

/-- R345, R436: a port is quarantined with a CAUSE and reported. -/
def quarantine (s : State) (n cause : Nat) : State :=
  let t := modPort (portTo s n .quarantine) n (fun p => { p with cause := cause })
  pathLost (pewReport t 4 n) n

/-- R337: ticks of the entries to RETRAIN in the 24 h that end now. -/
def retrainsOf (s : State) (p : Port) : List Nat := p.retrains.filter (fun t => decide (s.tick < t + 8640000000000))

/-- R336, R337: an ACTIVE port enters RETRAIN, or FENCED at the third time within 24 h. -/
def enterRetrain (s : State) (n : Nat) : State :=
  let p := getPort s n
  if p.state ≠ .active then s
  else if 2 ≤ (retrainsOf s p).length then portGone s n .fenced
  else portCount (modPort (portTo s n .retrain) n (fun p => { p with retrains := s.tick :: retrainsOf s p })) n 6

/-- The port number is the module's, and main power is up. -/
def portRow (n : Nat) (s t : State) : Host.Outcome State Fault Refusal :=
  onUnit (decide (n < 16)) (whenB s.power.pg s t)

/-- LANE_LOCK_LOSS. -/
def execLaneLockLoss (port : Nat) (s : State) : Host.Outcome State Fault Refusal :=
  portRow port s (match (getPort s port).state with
    | .active => enterRetrain s port
    | .quarantine => portTo s port .training
    | .check => portTo s port .training
    | _ => s)

/-- ACK_STALL_TIMEOUT: 20 µs without an advance of the far ACK. -/
def execAckStallTimeout (port : Nat) (s : State) : Host.Outcome State Fault Refusal :=
  let p := getPort s port
  portRow port s (whenB (!p.replay.isEmpty && decide (p.ackTick + 2000 ≤ s.tick)) s (enterRetrain s port))

/-- RETRAIN_TIMEOUT: 50 ms. -/
def execRetrainTimeout (port : Nat) (s : State) : Host.Outcome State Fault Refusal :=
  let p := getPort s port
  portRow port s (whenB (p.state == .retrain && decide (p.since + 5000000 ≤ s.tick)) s (portGone s port .down))

/-- DOWN_RETRY: 100 ms. -/
def execDownRetry (port : Nat) (s : State) : Host.Outcome State Fault Refusal :=
  let p := getPort s port
  portRow port s (whenB (p.state == .down && decide (p.since + 10000000 ≤ s.tick)) s (portTo s port .training))

/-- PORT_LOCK: the link layer starts with SEQ 0 and credit totals 0. -/
def execPortLock (port : Nat) (s : State) : Host.Outcome State Fault Refusal :=
  portRow port s (whenB ((getPort s port).state == .training) s (modPort (portTo s port .check) port Port.fresh))

/-! ### Replay (R334, R336) -/

/-- R334: every flit after the far ACK is sent again, with present ACK and credit fields; outside ACTIVE only MGMT slots. -/
def replayAll (s : State) (n : Nat) : State :=
  let p := getPort s n
  (p.replay.filter (fun f => p.carries f.vc)).foldl (fun s f =>
    let p := getPort s n
    portOut s n (flitBytes p 1 f.vc f.seq p.ackSeq f.slots)) s

/-- R334: an ACK covers the flits up to the one it names. -/
def ackFlits (s : State) (n ack : Nat) : State :=
  modPort s n (fun p => match firstIdx (fun f => f.seq == ack) p.replay with
    | none => p
    | some i => { p with replay := p.replay.drop (i + 1), ackTick := s.tick, replays := 0 })

/-- A NAK: everything unacknowledged is sent again; the eighth replay without an advance, or more than 4,096 NAKs in 1 s,
end in RETRAIN. -/
def nakTaken (s : State) (n : Nat) : State :=
  let t := modPort s n (fun p => { p with naks := s.tick :: p.naks.filter (fun t => decide (s.tick < t + 100000000)) })
  let p := getPort t n
  let t := if p.replay.isEmpty then t
    else portCount (modPort (replayAll t n) n (fun p => { p with replays := p.replays + 1 })) n 5
  if 8 ≤ (getPort t n).replays ∨ 4096 < p.naks.length then enterRetrain t n else pump t n

/-- The port exchanges flits (R349). -/
def Port.linked (p : Port) : Bool := p.state == .check || p.state == .active || p.state == .quarantine

/-- NAK: `ack` is the SEQ it names, 4,096 when its ACKV is 0. -/
def execNak (port ack : Nat) (s : State) : Host.Outcome State Fault Refusal :=
  portRow port s (whenB (getPort s port).linked s (nakTaken (ackFlits s port ack) port))

/-- ACK_IDLE_TIMER: an IDLE flit carries the ACK that is owed. -/
def execAckIdleTimer (port : Nat) (s : State) : Host.Outcome State Fault Refusal :=
  let p := getPort s port
  portRow port s (whenB (p.linked && p.owed) s (ctlFlit s port 2))

/-! ### Messages from slots (R332) -/

/-- The fields of a command slot. -/
def slotMsg (b : List Byte) : Msg :=
  let v := leNat b
  ⟨bits v 0 4, bits v 4 2, bits v 6 14, bits v 20 14, bits v 34 4, bits v 38 16, bits v 54 13, bits v 67 42, bits v 109 3, []⟩

/-- A code of R332's MTYPE that is not reserved. -/
def mtypeOk (t : Nat) : Bool := t == 0 || t == 1 || t == 2 || t == 4 || t == 5 || t == 8

/-- Data slots that follow a command slot. -/
def dataCount (m : Msg) : Nat :=
  if m.mtype = 2 ∨ m.mtype = 8 ∨ (m.mtype = 4 ∧ m.status = 0) then (if m.len ≤ 4096 then ceilDiv m.len 16 else 0) else 0

/-- A command slot meets R332 on a VC. -/
def msgOk (vc : Nat) (b : List Byte) : Bool :=
  let m := slotMsg b
  bits (leNat b) 112 16 == 0 &&
    (if m.mtype = 1 ∨ m.mtype = 2 then
      vc == 0 && decide (m.cls < 2 ∧ 1 ≤ m.len ∧ m.len ≤ 4096 ∧ m.status = 0 ∧ m.off % 4096 + m.len ≤ 4096)
     else if m.mtype = 4 ∨ m.mtype = 5 then
      vc == 1 && decide (m.cls < 2 ∧ 1 ≤ m.len ∧ m.len ≤ 4096 ∧ m.status ≤ 2 ∧ m.off = 0)
     else vc == 2 && m.mtype == 8 && decide (m.cls = 0 ∧ m.len = 64 ∧ m.spart = 0 ∧ m.tag = 0 ∧ m.off = 0 ∧ m.status = 0))

/-- What the slots received on a VC come to: messages, discarded messages, slots used, slots left, whether slots of reserved
MTYPE are still passed over. -/
structure Parsed where
  msgs : List Msg := []
  bad  : Nat := 0
  freed : Nat := 0
  left : List (List Byte) := []
  skip : Bool := false
  deriving DecidableEq, Repr

/-- R332: the messages of a run of slots. -/
def parseSlots (vc : Nat) : Nat → List (List Byte) → Parsed → Parsed
  | 0, sl, r => { r with left := sl }
  | _, [], r => r
  | fuel + 1, b :: rest, r =>
    let m := slotMsg b
    if leNat b = 0 then parseSlots vc fuel rest { r with skip := false }
    else if !mtypeOk m.mtype ∨ m.mtype = 0 then
      parseSlots vc fuel rest { r with bad := r.bad + (if m.mtype = 0 then 1 else b2n !r.skip), freed := r.freed + 1, skip := !mtypeOk m.mtype }
    else
      let k := dataCount m
      if rest.length < k then { r with left := b :: rest, skip := false }
      else if !msgOk vc b then
        parseSlots vc fuel (rest.drop k) { r with bad := r.bad + 1, freed := r.freed + 1 + k, skip := true }
      else
        parseSlots vc fuel (rest.drop k) { r with
          msgs := r.msgs ++ [{ m with data := ((rest.take k).flatten).take (if k = 0 then 0 else m.len) }], skip := false }

/-- Slots a message takes. -/
def slotsOf (m : Msg) : Nat := 1 + ceilDiv m.data.length 16

def Port.free (p : Port) (vc n : Nat) : Port :=
  if vc = 0 then { p with freed0 := p.freed0 + n, owed := true }
  else if vc = 1 then { p with freed1 := p.freed1 + n, owed := true }
  else { p with freed2 := p.freed2 + n, owed := true }

/-- Slots of a VC added to those not yet complete; the messages they complete. -/
def Port.parse (p : Port) (vc : Nat) (sl : List (List Byte)) : Parsed :=
  let old := if vc = 0 then p.rx0 else if vc = 1 then p.rx1 else p.rx2
  let skip := if vc = 0 then p.skip0 else if vc = 1 then p.skip1 else p.skip2
  parseSlots vc (old.length + sl.length) (old ++ sl) { skip := skip }

def Port.store (p : Port) (vc : Nat) (r : Parsed) (ms : List Msg) : Port :=
  if vc = 0 then { p with rx0 := r.left, skip0 := r.skip, msgs0 := p.msgs0 ++ ms }
  else if vc = 1 then { p with rx1 := r.left, skip1 := r.skip, msgs1 := p.msgs1 ++ ms }
  else { p with rx2 := r.left, skip2 := r.skip, msgs2 := p.msgs2 ++ ms }

/-- A port counter raised `k` times. -/
def portCounts (s : State) (n ctr : Nat) : Nat → State
  | 0 => s
  | k + 1 => portCounts (portCount s n ctr) n ctr k

/-- R327: a message whose class the port does not carry, or a STOR request. -/
def classBad (n vc : Nat) (m : Msg) : Bool := vc != 2 && (m.cls != (if n < 14 then 0 else 1) || (vc == 0 && m.cls == 1))

/-- R340: a request that is discarded. -/
def requestBad (s : State) (n : Nat) (m : Msg) : Bool :=
  match s.pew.applied with
  | none => true
  | some pl => m.dst != ownChip s || (decide (n ≤ 10) && m.src != planFchip pl n) || m.src == ownChip s

/-- The slots of an accepted flit: messages that pass wait for their rows, the others are discarded and counted.
DEDUCED: log entry 29. -/
def deliverSlots (s : State) (n vc : Nat) (sl : List (List Byte)) : State :=
  let p := getPort s n
  let r := p.parse vc sl
  let shut := vc != 2 && p.state != .active
  let wrong := fun (m : Msg) => classBad n vc m
  let lost := fun (m : Msg) => vc == 0 && requestBad s n m
  let keep := r.msgs.filter (fun m => !shut && !wrong m && !lost m)
  let gone := r.msgs.filter (fun m => shut || wrong m || lost m)
  let s := modPort s n (fun p => (p.store vc r keep).free vc (r.freed + (gone.map slotsOf).sum))
  let s := portCounts s n 7 (if shut then (gone.map slotsOf).sum else (gone.filter wrong).length)
  portCounts s n 8 (r.bad + (if shut then 0 else (gone.filter (fun m => !wrong m)).length))

/-! ### Flits received (R330, R331, R333, R334) -/

/-- R331: the flit passes its CRC and holds no reserved code or bit. -/
def flitOk (b : List Byte) : Bool :=
  let d := fld b 0 8
  let t := bits d 0 4
  fld b 12 4 == (crc32c (b.take 12 ++ zeros 4 ++ b.drop 16)).toNat && decide (1 ≤ t ∧ t ≤ 3) && bits d 6 2 == 0 && bits d 33 3 == 0 &&
    bits d 60 4 == 0 && bits (fld b 8 4) 12 20 == 0 &&
    (if t = 1 then decide (bits d 4 2 < 3) else bits d 4 2 == 0 && bits d 8 12 == 0 && zeroAt b 16 240)

/-- R333: a running total of 12 bits read against the total known before. -/
def creditUp (far size unit f : Nat) : Nat := far + unit * ((f + 4096 - (far - size) / unit % 4096) % 4096)

def takeCredit (p : Port) (b : List Byte) : Port :=
  let d := fld b 0 8
  { p with
    far0 := creditUp p.far0 16384 8 (bits d 36 12)
    far1 := creditUp p.far1 16384 8 (bits d 48 12)
    far2 := creditUp p.far2 64 1 (bits (fld b 8 4) 0 12) }

/-- R334: one NAK until a flit is accepted again. -/
def nakOnce (s : State) (n : Nat) : State :=
  if (getPort s n).nakSent then s else modPort (ctlFlit s n 3) n (fun p => { p with nakSent := true })

/-- A SLOTS flit in order is accepted. -/
def acceptFlit (s : State) (n vc : Nat) (sl : List (List Byte)) : State :=
  let t := modPort s n (fun p => { p with rxSeq := (p.rxSeq + 1) % 4096, ackv := true, nakSent := false, owed := true })
  deliverSlots (portCount t n 2) n vc sl

/-- The 15 slots of a flit. -/
def flitSlots (b : List Byte) : List (List Byte) := (List.range 15).map (fun i => (b.drop (16 + 16 * i)).take 16)

/-- FLIT_RECEIVE; `fecBad`: it overlaps an uncorrectable codeword. -/
def execFlitReceive (port : Nat) (flit : List Byte) (fecBad : Bool) (s : State) : Host.Outcome State Fault Refusal :=
  portRow port s
    (let d := fld flit 0 8
     let t := bits d 0 4
     if !(getPort s port).linked ∨ flit.length ≠ 256 then s
     else if fecBad ∨ !flitOk flit then
      let s := portCount s port 3
      let s := if fecBad then portCount s port 4 else s
      if t = 1 then nakOnce s port else s
     else
      let s := modPort (ackFlits s port (if bit d 32 then bits d 20 12 else 4096)) port (fun p => takeCredit p flit)
      if t = 1 then
        if bits d 8 12 = (getPort s port).rxSeq then pump (acceptFlit s port (bits d 4 2) (flitSlots flit)) port
        else nakOnce s port
      else if t = 3 then nakTaken s port
      else pump s port)

/-! ### Identity records (R343, R344) -/

/-- R343: the module's own record for a port. -/
def ownRecord (s : State) (n : Nat) : List Byte :=
  let id := match s.pew.applied with | some pl => fld pl 8 8 | none => 0
  [8#8, 1#8] ++ leBytes 1 n ++ [1#8] ++ leBytes 2 (ownChip s) ++ zeros 2 ++ leBytes 8 Config.serial.toNat ++ leBytes 8 id ++ zeros 40

/-- A record whose reserved fields are 0. -/
def recordOk (b : List Byte) : Bool :=
  decide (b.length = 64) && fld b 0 1 == 8 && decide (fld b 2 1 < 16 ∧ fld b 4 2 < 2 ^ 14) && zeroAt b 6 2 && zeroAt b 24 40

/-- R344: the CAUSE of the first difference from the plan, 0 for none. -/
def recordCause (pl : List Byte) (n : Nat) (b : List Byte) : Nat :=
  if fld b 1 1 ≠ planExpect pl n then 2
  else if fld b 0x10 8 ≠ fld pl 8 8 then 3
  else if fld b 8 8 ≠ planFserial pl n then 4
  else if fld b 4 2 ≠ planFchip pl n then 5
  else if fld b 2 1 ≠ planFport pl n then 6
  else if fld b 1 1 = 1 ∧ fld b 3 1 ≠ 1 then 7
  else 0

/-- R344: the CAUSE of the first difference from the recorded record, 0 for none. -/
def recordDiff (a b : List Byte) : Nat :=
  if a = b then 0
  else if fld a 1 1 ≠ fld b 1 1 then 2
  else if fld a 0x10 8 ≠ fld b 0x10 8 then 3
  else if fld a 8 8 ≠ fld b 8 8 then 4
  else if fld a 4 2 ≠ fld b 4 2 then 5
  else if fld a 2 1 ≠ fld b 2 1 then 6
  else 7

/-- A port becomes ACTIVE. -/
def portUp (s : State) (n : Nat) : State := modPort (portTo s n .active) n (fun p => { p with cause := 0 })

/-- IDENT_SEND: at once and every 10 µs in CHECK, every 100 ms in ACTIVE. -/
def execIdentSend (port : Nat) (s : State) : Host.Outcome State Fault Refusal :=
  let p := getPort s port
  let due : Bool := (p.state == .check && (!p.identSent || decide (p.identAt + 1000 ≤ s.tick))) ||
    (p.state == .active && decide (p.identAt + 10000000 ≤ s.tick))
  let dst := match s.pew.applied with | some pl => planFchip pl port | none => 0
  portRow port s (whenB due s
    (sendMsg (modPort s port (fun p => { p with identAt := s.tick, identSent := true })) port 2
      ⟨8, 0, dst, ownChip s, 0, 0, 64, 0, 0, ownRecord s port⟩))

/-- A record received on a port. -/
def takeRecord (s : State) (n : Nat) (b : List Byte) : State :=
  let p := getPort s n
  match s.pew.applied with
  | none => s
  | some pl =>
    if !recordOk b then s
    else if p.state = .check then
      let t := modPort s n (fun p => { p with record := b })
      if recordCause pl n b = 0 then pump (portUp t n) n else quarantine t n (recordCause pl n b)
    else if p.state = .active ∧ recordDiff p.record b ≠ 0 then
      quarantine (modPort s n (fun p => { p with record := b })) n (recordDiff p.record b)
    else s

/-- IDENT: the oldest record received is compared. -/
def execIdent (port : Nat) (s : State) : Host.Outcome State Fault Refusal :=
  portRow port s (match (getPort s port).msgs2 with
    | [] => s
    | m :: r => takeRecord (modPort s port (fun p => { p with msgs2 := r }.free 2 (slotsOf m))) port m.data)

/-- NO_RECORD: 10 ms in CHECK. -/
def execNoRecord (port : Nat) (s : State) : Host.Outcome State Fault Refusal :=
  let p := getPort s port
  portRow port s (whenB (p.state == .check && decide (p.since + 1000000 ≤ s.tick)) s (quarantine s port 1))

/-- PORT_RELOCK: lock and alignment are back and the record was exchanged again. -/
def execPortRelock (port : Nat) (record : List Byte) (s : State) : Host.Outcome State Fault Refusal :=
  let p := getPort s port
  portRow port s (whenB (p.state == .retrain && recordOk record && decide (s.tick ≤ p.since + 5000000)) s
    (if recordDiff p.record record = 0 then
      pump (replayAll (modPort (portUp s port) port (fun p => { p with ackTick := s.tick, replays := 0, naks := [] })) port) port
     else quarantine (modPort s port (fun p => { p with record := record })) port (recordDiff p.record record)))

end Sys2Proof.Machine
end

