-- ==== Sys2Proof/Machine/Slack.lean ====
section
/-! DEFINITION. The loader's checks of an array section (R96 to R102, R106). -/

namespace Sys2Proof.Machine

/-- The cells of a variant's footprint, as a function of row and column, with its size in cells. -/
structure Grid where
  rows : Nat
  cols : Nat
  cell : Nat → Nat → Cell

/-- Rows and columns of the cells, row-major. -/
def Grid.all (g : Grid) : List (Nat × Nat) :=
  (List.range g.rows).flatMap (fun r => (List.range g.cols).map (fun c => (r, c)))

/-- A report of a stage-3 status, at a cell of a variant. -/
def cellReport (st v : Nat) (rc : Nat × Nat) : Report := { status := st, variant := v, cell := rc.1 % 65536 * 65536 + rc.2 % 65536 }

def Cell.fmt (c : Cell) : Fmt := Fmt.ofCode (bits c.w1 3 3)
def Cell.kcnt (c : Cell) : Nat := bits c.w2 0 20
def Cell.ncnt (c : Cell) : Nat := bits c.w4 16 16
def Cell.scaled (c : Cell) : Bool := c.fmt == .g4 || c.fmt == .g8
def Cell.isMac (c : Cell) : Bool := c.op == 1 || c.op == 2

/-! ### One cell (R96 to R98) -/

/-- CFG_RESERVED_FIELD: reserved fields and codes of a record. -/
def cellReserved (b : List Byte) (col : Nat) : Bool :=
  let c := cellOfRecord b
  bits c.w0 20 12 != 0 || bits c.w1 21 11 != 0 || bits c.w2 28 4 != 0 || !zeroAt b 20 12 || bits c.w4 13 3 != 0 ||
    (col % 4 != 0 && c.w4 != 0) || decide (5 ≤ c.op ∨ 6 ≤ c.skind ∨ bits c.w1 19 2 = 3 ∨ bits c.w1 15 2 = 3)

/-- CFG_FIELD_RANGE: KCNT, NCNT, TCOND, OVM, LATCH, POL. -/
def cellRange (c : Cell) : Bool :=
  (c.isMac != (c.kcnt != 0)) ||
    ((c.skind == 5 || (c.skind == 4 && c.sel 9 == 0)) != (c.ncnt != 0)) ||
    (bits c.w1 19 2 != 0 && c.op != 4) ||
    (bits c.w1 15 2 != 0 && !(c.isMac && (c.fmt == .i4 || c.fmt == .i8 || c.fmt == .i16))) ||
    (c.w3 != 0 && c.op != 2) || (bit c.w4 12 && c.skind != 3)

/-- CFG_FORMAT_INVALID: FMT, SCA, SCB, LSCL. -/
def cellFormat (c : Cell) : Bool :=
  (c.isMac && (c.fmt == .i32 || c.fmt == .f32)) || (!c.isMac && c.op != 4 && bits c.w1 3 3 != 0) ||
    (bit c.w1 17 && !(c.isMac && c.scaled)) || (bit c.w1 18 && !(c.op == 1 && c.scaled)) ||
    (bits c.w2 20 8 != 0 && !(c.op == 2 && c.scaled))

/-- A selector that a function-unit input may hold. -/
def Cell.fuSrc (c : Cell) (k : Nat) : Bool := decide (1 ≤ k ∧ k ≤ 4) || (k == 6 && c.skind != 0) || (k == 7 && c.skind == 1)
def Cell.suSrc (c : Cell) (k : Nat) : Bool := decide (1 ≤ k ∧ k ≤ 4) || (k == 5 && c.op != 0)

/-- CFG_SELECTOR_INVALID. -/
def cellSelector (c : Cell) : Bool :=
  let out := fun d => let k := c.sel d
    k == 0 || (decide (1 ≤ k ∧ k ≤ 4) && k != d + 1) || (k == 5 && c.op != 0) || (k == 6 && c.skind != 0) || (k == 7 && c.skind == 1)
  let a := if c.op = 0 then c.sel 4 == 0 else c.fuSrc (c.sel 4)
  let b := if c.op = 1 then c.fuSrc (c.sel 5) else c.sel 5 == 0
  let cc := c.sel 6 == 0 || (c.isMac && c.fuSrc (c.sel 6))
  let d := if c.skind = 0 then c.sel 7 == 0 else c.suSrc (c.sel 7)
  let d2 := if c.skind = 2 then c.suSrc (c.sel 8) else c.sel 8 == 0
  let k := if c.skind = 1 ∨ c.skind = 2 ∨ c.skind = 3 then c.suSrc (c.sel 9)
    else if c.skind = 4 then c.sel 9 == 0 || c.suSrc (c.sel 9) else c.sel 9 == 0
  !([0, 1, 2, 3].all out && a && b && cc && d && d2 && k)

/-- R86: a side on a core boundary. -/
def onEdge (rc : Nat × Nat) (d : Nat) : Bool :=
  if d = 0 then rc.1 % 16 == 0 else if d = 1 then rc.2 % 16 == 15 else if d = 2 then rc.1 % 16 == 15 else rc.2 % 16 == 0

/-- CFG_PORT_INVALID. -/
def cellPort (c : Cell) (rc : Nat × Nat) : Bool := [0, 1, 2, 3].any (fun d => c.port d != 0 && !onEdge rc d)

/-! ### Lanes -/

/-- The cell of the footprint across a side. -/
def Grid.next (g : Grid) (rc : Nat × Nat) (d : Nat) : Option (Nat × Nat) :=
  if d = 0 then (if rc.1 = 0 then none else some (rc.1 - 1, rc.2))
  else if d = 1 then (if rc.2 + 1 < g.cols then some (rc.1, rc.2 + 1) else none)
  else if d = 2 then (if rc.1 + 1 < g.rows then some (rc.1 + 1, rc.2) else none)
  else (if rc.2 = 0 then none else some (rc.1, rc.2 - 1))

/-- The side of a neighbour that faces a side. -/
def facing (d : Nat) : Nat := (d + 2) % 4

/-- The cell's outbound lane of a side is used and leads to the neighbour. -/
def Grid.sends (g : Grid) (rc : Nat × Nat) (d : Nat) : Bool :=
  let c := g.cell rc.1 rc.2
  c.sel d != 0 && decide (c.port d < 2)

/-- A neighbour of the footprint drives the cell's inbound lane of a side. -/
def Grid.driven (g : Grid) (rc : Nat × Nat) (d : Nat) : Bool := match g.next rc d with
  | some n => g.sends n (facing d)
  | none => false

/-- CFG_LANE_CONFLICT at a cell. -/
def Grid.conflict (g : Grid) (rc : Nat × Nat) : Bool :=
  let c := g.cell rc.1 rc.2
  [0, 1, 2, 3].any (fun d =>
    (c.port d % 2 == 1 && g.driven rc d) ||
      ((g.next rc d).isNone && (g.sends rc d || (c.port d % 2 == 0 && !(c.consumers (d + 1)).isEmpty))))

/-- CFG_OUTPUT_UNUSED at a cell. -/
def Grid.unused (g : Grid) (rc : Nat × Nat) : Bool :=
  let c := g.cell rc.1 rc.2
  (c.op != 0 && (c.consumers 5).isEmpty) || (c.skind != 0 && (c.consumers 6).isEmpty) ||
    (c.skind == 1 && (c.consumers 7).isEmpty) ||
    [0, 1, 2, 3].any (fun d => (c.port d % 2 == 1 || g.driven rc d) && (c.consumers (d + 1)).isEmpty)

/-- The core of a cell in footprint core order (R106), for a footprint `fw` sectors wide. -/
def gridCore (fw : Nat) (rc : Nat × Nat) : Nat :=
  64 * (rc.1 / 128 * fw + rc.2 / 128) + 8 * (rc.1 % 128 / 16) + rc.2 % 128 / 16

/-- CFG_LINK_GROUP at a cell; `grp` is the link-group table. -/
def Grid.groupBad (g : Grid) (fw : Nat) (grp : Nat → Nat) (rc : Nat × Nat) : Bool :=
  [0, 1, 2, 3].any (fun d => match g.next rc d with
    | none => false
    | some n =>
      let a := gridCore fw rc
      let b := gridCore fw n
      g.sends rc d && a != b && (grp a != grp b || grp a == 0xFFFF || grp b == 0xFFFF))

/-! ### Reconvergent paths (R100 to R102) -/

/-- R101: an element of a path, with the cell it lies in; `steer` needs a bound record, `free` is a REPEAT with a K input. -/
structure Elem where
  cap : Nat
  holdL : Nat
  holdS : Nat
  mult : Nat
  at' : Nat × Nat
  steer : Bool := false
  free : Bool := false
  deriving DecidableEq, Repr

/-- A path: its join cell and input (4 A to 9 K), and its elements. -/
structure Path where
  join : Nat × Nat
  input : Nat
  elems : List Elem
  deriving DecidableEq, Repr

/-- R101: items that one output of a MAC takes on input A (4) or B (5). -/
def macItems (c : Cell) (k : Nat) : Nat :=
  let e := if c.fmt = .i4 ∨ c.fmt = .g4 then 2 else 1
  let sc := if k = 4 then bit c.w1 17 else bit c.w1 18
  ceilDiv c.kcnt e + (if sc then ceilDiv c.kcnt 32 else 0)

/-- R101: the unit reached at an input; `run` gives RUN of its bound record. -/
def unitElem (c : Cell) (rc : Nat × Nat) (k : Nat) (run : Nat) : Elem :=
  if k ≤ 6 then
    (if c.op = 3 then ⟨32, 1, 1, 1, rc, false, false⟩
     else if c.op = 4 ∨ k = 6 then ⟨1, 1, 1, 1, rc, false, false⟩
     else ⟨1, macItems c k, macItems c k, 1, rc, false, false⟩)
  else if c.skind = 4 then (if c.sel 9 = 0 then ⟨1, 1, 1, c.ncnt, rc, false, false⟩ else ⟨1, 1, 1, 1, rc, false, true⟩)
  else if c.skind = 5 then ⟨1, 1, 1, c.ncnt, rc, false, false⟩
  else ⟨1, if k = 9 then 1 else run + 1, 1, 1, rc, true, false⟩

/-- The sources of a unit: its function-unit output, or its steering outputs. -/
def unitOuts (c : Cell) (k : Nat) : List Nat := if k ≤ 6 then [5] else if c.skind = 1 then [6, 7] else [6]

/-- R100: the simple paths on from a stage (cell and consumer number): those that end at the latch the stage is, and those
that go on. `seen` holds stages, latches and units already passed; units are stages 10 and 11. No path comes back through
`fork`, the source it starts from (DEDUCED from the sentence of R100 on loops). DEDUCED: log entry 22. -/
def pathsFrom (g : Grid) (run : Nat × Nat → Nat) (fork : Nat × Nat × Nat) :
    Nat → Nat × Nat → Nat → List (Nat × Nat × Nat) → List Elem → List Path
  | 0, _, _, _, _ => []
  | fuel + 1, rc, k, seen, es =>
    if seen.contains (rc.1, rc.2, k) then []
    else
      let c := g.cell rc.1 rc.2
      let seen := (rc.1, rc.2, k) :: seen
      if k < 4 then
        let es := if c.sel k ≤ 4 then es ++ [⟨2, 1, 1, 1, rc, false, false⟩] else es
        match g.next rc k with
        | none => []
        | some n =>
          let d := g.cell n.1 n.2
          if !g.sends rc k ∨ d.port (facing k) % 2 = 1 ∨ fork = (n.1, n.2, facing k + 1) then []
          else (d.consumers (facing k + 1)).flatMap (fun j => pathsFrom g run fork fuel n j seen es)
      else
        let es := es ++ [⟨1, 1, 1, 1, rc, false, false⟩]
        let here := if 7 ≤ k ∨ c.isMac then [⟨rc, k, es⟩] else []
        let u := if k ≤ 6 then 10 else 11
        if seen.contains (rc.1, rc.2, u) then here
        else
          let es := es ++ [unitElem c rc k (run rc)]
          here ++ ((unitOuts c k).filter (fun o => fork != (rc.1, rc.2, o))).flatMap (fun o =>
            (c.consumers o).flatMap (fun j => pathsFrom g run fork fuel rc j ((rc.1, rc.2, u) :: seen) es))

/-- R102 `need`. -/
def pathNeed (p : Path) : Nat := p.elems.reverse.foldl (fun n e => ceilDiv (n * e.holdL) e.mult) 1

/-- R102: room as (num, den, rn, rd) along a path. -/
def roomStep (x : Nat × Nat × Nat × Nat) (e : Elem) : Nat × Nat × Nat × Nat :=
  (x.1 * x.2.2.1 + e.cap * x.2.2.2 * x.2.1, x.2.1 * x.2.2.1, x.2.2.1 * e.mult, x.2.2.2 * e.holdS)

def pathRoom (p : Path) : Nat × Nat :=
  let r := p.elems.foldl roomStep (0, 1, 1, 1)
  (r.1, r.2.1)

/-- R102 `fits`. -/
def pathFits (p : Path) (w : Nat) : Bool := let r := pathRoom p; decide (w * r.2 ≤ r.1)

/-- R100: a reconvergent pair: fork cell and source, join cell, two inputs of one unit, and the paths to each. -/
structure Pair where
  fork : Nat × Nat
  src : Nat
  join : Nat × Nat
  in1 : Nat
  in2 : Nat
  p1 : List Path
  p2 : List Path
  deriving DecidableEq, Repr

/-- The pairs of one fork: two of their paths begin at different consumers; every path to an input counts (R100). -/
def pairsOf (g : Grid) (run : Nat × Nat → Nat) (rc : Nat × Nat) (src : Nat) : List Pair :=
  let cs := (g.cell rc.1 rc.2).consumers src
  let fuel := 12 * g.rows * g.cols + 1
  let ps := cs.flatMap (fun k => (pathsFrom g run (rc.1, rc.2, src) fuel rc k [] []).map (fun p => (k, p)))
  let joins := (ps.map (fun p => (p.2.join, p.2.input))).dedup
  joins.flatMap (fun a => joins.filterMap (fun b =>
    if a.1 = b.1 ∧ a.2 < b.2 ∧ (decide (a.2 ≤ 6) == decide (b.2 ≤ 6)) then
      let xs := ps.filter (fun p => p.2.join == a.1 && p.2.input == a.2)
      let ys := ps.filter (fun p => p.2.join == b.1 && p.2.input == b.2)
      if xs.any (fun x => ys.any (fun y => x.1 != y.1)) then some ⟨rc, src, a.1, a.2, b.2, xs.map (·.2), ys.map (·.2)⟩ else none
    else none))

/-- Every pair of a footprint, forks in row-major order. -/
def Grid.pairs (g : Grid) (run : Nat × Nat → Nat) : List Pair :=
  g.all.flatMap (fun rc => [1, 2, 3, 4, 5, 6, 7].flatMap (fun k =>
    if 2 ≤ ((g.cell rc.1 rc.2).consumers k).length then pairsOf g run rc k else []))

/-! ### Records of the section (R106) -/

/-- A pair record. -/
structure PairRec where
  var : Nat
  fork : Nat × Nat
  src : Nat
  join : Nat × Nat
  in1 : Nat
  in2 : Nat
  need1 : Nat
  need2 : Nat
  deriving DecidableEq, Repr

def pairRec (b : List Byte) : PairRec :=
  { var := fld b 6 1, fork := (fld b 2 2, fld b 0 2), src := fld b 4 1 % 8, join := (fld b 10 2, fld b 8 2)
    in1 := 4 + fld b 5 1 % 8, in2 := 4 + fld b 5 1 / 8 % 8, need1 := fld b 12 4, need2 := fld b 16 4 }

def pairReserved (b : List Byte) : Bool :=
  decide (8 ≤ fld b 4 1 ∨ 64 ≤ fld b 5 1 ∨ 6 ≤ fld b 5 1 % 8 ∨ 6 ≤ fld b 5 1 / 8 % 8) || !zeroAt b 7 1 || !zeroAt b 20 4

/-- A record that declares a pair. -/
def PairRec.names (r : PairRec) (v : Nat) (p : Pair) : Bool :=
  r.var == v && r.fork == p.fork && r.src == p.src && r.join == p.join &&
    ((r.in1 == p.in1 && r.in2 == p.in2) || (r.in1 == p.in2 && r.in2 == p.in1))

/-- The greatest need of the paths to an input. -/
def needMax (ps : List Path) : Nat := (ps.map pathNeed).foldl max 0

/-- R100: the path with the least room. -/
def leastRoom : List Path → Option Path
  | [] => none
  | p :: ps => match leastRoom ps with
    | none => some p
    | some q => if (pathRoom q).1 * (pathRoom p).2 < (pathRoom p).1 * (pathRoom q).2 then some q else some p

/-- The path of least room, when it does not hold `w` items. -/
def shortPath (ps : List Path) (w : Nat) : Option Path := (leastRoom ps).filter (fun p => !pathFits p w)

/-- R102, R313: the outcome of one declared pair: a mismatch, or a path that falls short. -/
def pairReport (v i : Nat) (r : PairRec) (p : Pair) (short : Bool) : Option Report :=
  let n1 := needMax p.p1
  let n2 := needMax p.p2
  let d := if r.in1 = p.in1 then (r.need1, r.need2) else (r.need2, r.need1)
  let rep := fun (st need room : Nat) => { status := st, variant := v, pair := i, need := need, room := room : Report }
  if !short then
    (if d.1 ≠ n1 then some (rep 0x030B n1 d.1) else if d.2 ≠ n2 then some (rep 0x030B n2 d.2) else none)
  else match shortPath p.p2 n1, shortPath p.p1 n2 with
    | some q, _ => some (rep 0x030C n1 ((pathRoom q).1 / (pathRoom q).2))
    | none, some q => some (rep 0x030C n2 ((pathRoom q).1 / (pathRoom q).2))
    | none, none => none

/-- R99: the slack rows of the table for one variant. `row` is 9 to 12 for the four statuses. DEDUCED: log entry 22. -/
def slackCheck (g : Grid) (v : Nat) (recs : List PairRec) (bounds : List (Nat × (Nat × Nat) × Nat)) (row : Nat) : Option Report :=
  let mine := bounds.filter (fun b => b.1 == v)
  let run := fun rc => ((mine.find? (fun b => b.2.1 == rc)).map (·.2.2)).getD 0
  let ps := g.pairs run
  let on := fun (p : Pair) => (p.p1 ++ p.p2).flatMap (fun q => q.elems)
  if row = 9 then
    ps.findSome? (fun p =>
      if !recs.any (fun r => r.names v p) then some (cellReport 0x0309 v p.fork)
      else ((on p).find? (fun e => e.steer && !mine.any (fun b => b.2.1 == e.at'))).map (fun e => cellReport 0x0309 v e.at'))
  else if row = 10 then
    ps.findSome? (fun p => ((on p).find? (fun e => e.free)).map (fun e => cellReport 0x030A v e.at'))
  else ps.findSome? (fun p => (numbered 0 recs).findSome? (fun r =>
      if r.2.names v p then pairReport v r.1 r.2 p (row == 12) else none))

/-! ### An array section -/

/-- A range lies within bytes 0x40 to LEN − 1 of an image. -/
def inside (len : Nat) (x : Nat × Nat) : Bool := x.2 == 0 || decide (0x40 ≤ x.1 ∧ x.1 + x.2 ≤ len)

/-- No two ranges share a byte. -/
def apart : List (Nat × Nat) → Bool
  | [] => true
  | x :: xs => xs.all (fun y => x.2 == 0 || y.2 == 0 || !meets x y) && apart xs

/-- Ranges lie within the image and apart. -/
def rangesOk (len : Nat) (rs : List (Nat × Nat)) : Bool := rs.all (inside len) && apart rs

/-- R106: a variant's footprint is in range. -/
def footOk (d : List Byte) : Bool := decide (1 ≤ fld d 0 1 ∧ fld d 0 1 ≤ 8 ∧ 1 ≤ fld d 1 1 ∧ fld d 1 1 ≤ 8)

/-- The tables and cell records of a section at `a`, as ranges of the image. -/
def sectRanges (s : State) (ci : CfgImg) (a : Nat) : List (Nat × Nat) :=
  let f := fun o n => ciFld s ci (a + o) n
  (a + f 0x10 8, 24 * f 0x0C 4) :: (a + f 0x20 8, 8 * f 0x18 4) :: (List.range (f 6 2)).flatMap (fun v =>
    let d := varDesc s ci a v
    let n := if footOk d then fld d 0 1 * fld d 1 1 else 0
    [(a + fld d 8 8, n * 0x80000), (a + fld d 16 8, 128 * n), (a + fld d 24 8, 4 * n)])

/-- The record of a cell of a variant. -/
def cellRec (s : State) (ci : CfgImg) (a v : Nat) (rc : Nat × Nat) : List Byte :=
  let d := varDesc s ci a v
  ciGet s ci (a + fld d 8 8 + 0x80000 * (rc.1 / 128 * fld d 1 1 + rc.2 / 128) + 32 * (rc.1 % 128 * 128 + rc.2 % 128)) 32

def gridOf (s : State) (ci : CfgImg) (a v : Nat) : Grid :=
  let d := varDesc s ci a v
  let n := if footOk d then 128 else 0
  { rows := n * fld d 0 1, cols := n * fld d 1 1, cell := fun r c => cellOfRecord (cellRec s ci a v (r, c)) }

/-- The first cell of a variant that a check refuses. -/
def firstCell (g : Grid) (st v : Nat) (bad : Nat × Nat → Bool) : Option Report := (g.all.find? bad).map (cellReport st v)

/-- R99, second step: one row of the table for one variant. -/
def variantCheck (s : State) (ci : CfgImg) (a : Nat) (recs : List (List Byte)) (bounds : List (List Byte)) (row v : Nat) : Option Report :=
  let d := varDesc s ci a v
  let g := gridOf s ci a v
  let at1 := fun (st : Nat) (bad : Cell → Nat × Nat → Bool) => firstCell g st v (fun rc => bad (g.cell rc.1 rc.2) rc)
  let vr := fun (st : Nat) (c : Bool) => if c then some { status := st, variant := v : Report } else none
  let bnd := fun (b : List Byte) => (fld b 6 1, (fld b 2 2, fld b 0 2), fld b 4 2)
  let out := fun (rc : Nat × Nat) => decide (g.rows ≤ rc.1 ∨ g.cols ≤ rc.2)
  if row = 1 then
    (vr 0x0301 (!zeroAt d 4 4 || fld d 8 8 % 4096 != 0)).or (firstCell g 0x0301 v (fun rc => cellReserved (cellRec s ci a v rc) rc.2))
  else if row = 2 then
    ((vr 0x0302 (!footOk d || decide (fld d 2 2 = 0 ∨ fld d 0 1 * fld d 1 1 * 64 < fld d 2 2))).or (at1 0x0302 (fun c _ => cellRange c))).or
      (((numbered 0 recs).findSome? (fun r =>
          let x := pairRec r.2
          if x.var = v ∧ (out x.fork ∨ out x.join) then some { status := 0x0302, variant := v, pair := r.1 : Report } else none)).or
        (bounds.findSome? (fun b => if (bnd b).1 = v ∧ out (bnd b).2.1 then some (cellReport 0x0302 v (bnd b).2.1) else none)))
  else if row = 3 then at1 0x0303 (fun c _ => cellFormat c)
  else if row = 4 then at1 0x0304 (fun c _ => cellSelector c)
  else if row = 5 then at1 0x0305 cellPort
  else if row = 6 then firstCell g 0x0306 v g.conflict
  else if row = 7 then firstCell g 0x0307 v g.unused
  else if row = 8 then firstCell g 0x0308 v (g.groupBad (fld d 1 1) (fun n => ciFld s ci (a + fld d 16 8 + 2 * n) 2))
  else slackCheck g v (recs.map pairRec) (bounds.map bnd) row

/-- R99: one row of the table for a whole section. -/
def sectRow (s : State) (ci : CfgImg) (a : Nat) (used : List (Nat × Nat)) (row : Nat) : Option Report :=
  let f := fun o n => ciFld s ci (a + o) n
  let tab := fun (o sz n : Nat) => (List.range n).map (fun i => ciGet s ci (a + o + sz * i) sz)
  let ok := rangesOk ci.len (used ++ sectRanges s ci a)
  let recs := if ok then tab (f 0x10 8) 24 (f 0x0C 4) else []
  let bounds := if ok then tab (f 0x20 8) 8 (f 0x18 4) else []
  let pre : Option Report :=
    if row = 1 then
      (if !ok then some { status := 0x0301 }
       else ((numbered 0 recs).findSome? (fun r => if pairReserved r.2 then some { status := 0x0301, pair := r.1 : Report } else none)).or
        (if bounds.any (fun b => !zeroAt b 7 1) then some { status := 0x0301 } else none))
    else if row = 2 then
      ((numbered 0 recs).findSome? (fun r => if f 6 2 ≤ fld r.2 6 1 then some { status := 0x0302, pair := r.1 : Report } else none)).or
        (if bounds.any (fun b => decide (f 6 2 ≤ fld b 6 1)) then some { status := 0x0302 } else none)
    else none
  pre.or ((List.range (f 6 2)).findSome? (variantCheck s ci a recs bounds row))

/-- R99: an array section at `a`; `used` are the ranges of the image located before. -/
def sectCheck (s : State) (ci : CfgImg) (a : Nat) (used : List (Nat × Nat)) : Option Report :=
  let b := ciGet s ci a 0x40
  let st := fld b 8 4
  if fld b 0 4 ≠ 0x54415247 ∨ fld b 4 2 ≠ 1 ∨ !zeroAt b 0x1C 4 ∨ !zeroAt b 0x28 24 then some { status := 0x0301 }
  else if fld b 6 2 = 0 ∨ 4 < fld b 6 2 ∨ (st ≠ 0 ∧ (st < 1000 ∨ 100000000 < st)) then some { status := 0x0302 }
  else [1, 2, 3, 4, 5, 6, 7, 8, 9, 10, 11, 12].findSome? (sectRow s ci a used)

end Sys2Proof.Machine
end

