-- ==== Sys2Proof/Machine/Loader.lean ====
section
/-! DEFINITION. The loader: configuration images (R189 to R191, R208, R209), model images (R249, R284, R285, R287, R471) and the end
of a registration (R356). -/

namespace Sys2Proof.Machine

/-! ### Stages 1 to 3 of R209 -/

/-- R57: a numeric mode word without reserved bits and codes. -/
def modeWordOk (w : Nat) : Bool := bits w 16 16 == 0 && decide (bits w 8 8 ≤ 1) && bits w 2 6 == 0

/-- The firmware parameter block and the layer section; of a section whose NLAYER is out of range, its header alone
(DEDUCED: stage 2 of R209 judges NLAYER). -/
def baseRanges (s : State) (ci : CfgImg) : List (Nat × Nat) :=
  [(ciFld s ci 0x20 8, ciFld s ci 0x28 4), (layerOff s ci, 0x40 + 128 * (if nLayers s ci ≤ 4096 then nLayers s ci else 0))]

/-- R209 stage 1. -/
def imageHeadOk (s : State) (ci : CfgImg) : Bool :=
  let b := ciGet s ci 0 0x40
  fld b 0 4 == 0x47464E43 && fld b 4 2 == 1 && zeroAt b 6 2 && fld b 8 8 == ci.len && decide (4096 ≤ ci.len ∧ ci.len ≤ 2 ^ 36) &&
    modeWordOk (fld b 0x10 4) && zeroAt b 0x14 4 && aligned (fld b 0x18 8) 4096 && aligned (fld b 0x20 8) 64 &&
    decide (fld b 0x28 4 ≤ 0x100000) && (fld b 0x28 4 != 0 || fld b 0x20 8 == 0) && zeroAt b 0x2C 20 &&
    rangesOk ci.len (baseRanges s ci)

/-- The offset table, and the headers of the array sections. -/
def arrayRanges (s : State) (ci : CfgImg) : List (Nat × Nat) :=
  (ciFld s ci (layerOff s ci + 0x10) 8, 8 * nArrays s ci) :: (List.range (nArrays s ci)).map (fun i =>
    let a := arrayOff s ci i
    (a, 0x40 + 32 * min 4 (ciFld s ci (a + 6) 2)))

/-- R209 stage 2. -/
def layerHeadCheck (s : State) (ci : CfgImg) : Option Report :=
  let b := ciGet s ci (layerOff s ci) 0x40
  if fld b 0 4 ≠ 0x5259414C ∨ fld b 4 2 ≠ 1 ∨ !zeroAt b 0x0C 4 ∨ !zeroAt b 0x18 40 then some { status := 0x0310 }
  else if fld b 6 2 = 0 ∨ 4096 < fld b 6 2 ∨ fld b 8 4 = 0 ∨ 16 < fld b 8 4 then some { status := 0x0311 }
  else if !rangesOk ci.len (baseRanges s ci ++ arrayRanges s ci) ∨
      (List.range (nArrays s ci)).any (fun i => !aligned (arrayOff s ci i) 4096) then some { status := 0x0301 }
  else none

/-- R209 stage 3: the array sections, in the order of the table. -/
def arraysCheck (s : State) (ci : CfgImg) : List Nat → List (Nat × Nat) → Option Report
  | [], _ => none
  | i :: is, used =>
    let a := arrayOff s ci i
    (sectCheck s ci a used).or (arraysCheck s ci is (used ++ sectRanges s ci a))

/-! ### Stage 4 of R209: the layer descriptors -/

def isFloatOut (f : Fmt) : Bool := f == .g8 || f == .f16 || f == .f32
def isInt (f : Fmt) : Bool := f == .i4 || f == .i8 || f == .i16 || f == .i32

/-- LAYER_RESERVED_FIELD. -/
def layerReserved (b : List Byte) : Bool :=
  let l := layerOf b
  let list := l.kind == 2
  decide (l.kind = 0 ∨ 5 ≤ l.kind ∨ l.ovm = 3) || (list && l.rtconst) || (l.seq == 0 && l.seqp != 0) ||
    (list && (l.m != 0 || l.n != 0)) || (l.kind != 1 && l.k != 0) || (!l.cin && (l.c != 0 || l.cp != 0)) ||
    (l.fout && (l.d != 0 || l.dp != 0)) || (!l.sca && l.sa != 0) || (!l.scb && l.sb != 0) || (l.seq != 3 && l.g != 0) ||
    (!list && l.rtconst && l.rtab != 0) || ((list || !l.rtconst) && l.rtag != 0) || (!list && l.nprob != 0) || !zeroAt b 0x72 14

/-- Tile counts of the candidates that fit (R197). -/
def tileTotals (l : Layer) : List Nat :=
  if l.kind = 4 then (([32, 16, 8, 4, 2, 1].filter (fun tr => decide (needOf l tr (r32 l.n) ≤ l.budget))).map (fun tr => ceilDiv l.m tr))
  else ((candidates l l.m l.n).filter (fun c => decide (needOf l c.1 c.2 ≤ l.budget))).map (fun c => ceilDiv l.m c.1 * ceilDiv l.n c.2)

/-- LAYER_SHAPE_RANGE. A layer of a fused group has no T of its own (R208), and the group's is at most M.
DEDUCED: log entry 21. -/
def layerShape (l : Layer) (narray : Nat) : Bool :=
  let bound := fun x => x == 0 || (inRange 32 256 x && x % 32 == 0)
  !((l.kind == 2 || (inRange 1 16777215 l.m && inRange 1 16777215 l.n)) && (l.kind != 1 || inRange 1 1048575 l.k) &&
      (l.kind != 2 || inRange 1 65536 l.nprob) && decide (l.cfg < narray) && bound l.trmax && bound l.tcmax &&
      (l.spad == 0 || inRange 64 368 l.spad)) ||
    (l.kind != 2 && !l.fin && !l.fout && (tileTotals l).any (fun t => decide (2 ^ 32 - 1 < t)))

/-- LAYER_FORMAT_INVALID. -/
def layerFormat (l : Layer) : Bool :=
  let mm := l.kind == 1 || l.kind == 2
  (mm && (l.fmt == .i32 || l.fmt == .f32)) || ((l.sca || l.scb) && !(l.fmt == .g4 || l.fmt == .g8)) ||
    (mm && l.seq != 0 && isInt l.fmt) || (l.seq != 0 && !isFloatOut l.fmtd) || (!mm && l.seq != 0 && !isFloatOut l.fmt)

/-- LAYER_SEQ_INVALID. -/
def layerSeq (l : Layer) : Bool :=
  decide (4 ≤ l.seq) || ((l.seq == 1 || l.seq == 2) && !inRange 1 (2 ^ 31 - 1) l.seqp) || (l.seq == 3 && l.seqp == 0) ||
    ((l.seq == 1 || l.seq == 3) && l.kind != 4) || (l.kind == 4 && (l.seq == 0 || l.seq == 2 || decide (65536 < l.n)))

/-- R208: a consumer may follow a producer. -/
def fusePair (a b : Layer) : Bool :=
  a.m == b.m && a.fmtd == b.fmt && a.cfg == b.cfg && b.a == 0 && b.ap == 0 && a.kind != 2 && b.kind != 2 &&
    (if b.kind = 4 then a.kind != 4 && a.n == b.n else if b.kind = 1 then b.k == a.n else a.n == b.n)

/-- The number of layers of the group that begins at `i`, at most `fuel` more. -/
def groupFrom (ls : Nat → Layer) (n : Nat) : Nat → Nat → Nat
  | 0, _ => 1
  | fuel + 1, i => if (ls i).fout ∧ i + 1 < n then 1 + groupFrom ls n fuel (i + 1) else 1

/-- LAYER_FUSION_INVALID at layer `i` of `n`. DEDUCED: log entry 21. -/
def layerFusion (ls : Nat → Layer) (n i : Nat) : Bool :=
  let l := ls i
  (l.fin && (i == 0 || !(ls (i - 1)).fout)) || (l.fout && (decide (n ≤ i + 1) || !(ls (i + 1)).fin)) ||
    (l.kind == 2 && (l.fin || l.fout)) || (l.fout && !l.fin && decide (8 < groupFrom ls n n i)) ||
    (l.fin && i != 0 && !fusePair (ls (i - 1)) l)

/-- LAYER_ALIGN. -/
def layerAlign (l : Layer) : Bool :=
  if l.kind = 2 then
    !(layerBases l && pitchOk l.ap 0 && pitchOk l.bp 0 && pitchOk l.dp 0 && (!l.cin || pitchOk l.cp 0))
  else !layerAligned l

/-- RES_SPAD at layer `i`: of a group, its first layer stands for all. -/
def layerSpad (ls : Nat → Layer) (n i : Nat) : Bool :=
  let l := ls i
  if l.fin then false
  else if l.fout then (chooseGroup ((List.range (groupFrom ls n 8 i)).map (fun j => ls (i + j))) 1).isNone
  else if l.kind = 4 then decide (l.budget < needOf l 1 (r32 l.n))
  else decide (l.budget < needOf l 32 32)

/-- R209 stage 4: the rows of its table in order; `all`: the image's role takes lent sectors too. -/
def layersCheck (s : State) (ci : CfgImg) (all : Bool) : Option Report :=
  let n := nLayers s ci
  let ls := fun i => layerAt s ci i
  let row := fun (st : Nat) (bad : Nat → Bool) =>
    ((List.range n).find? bad).map (fun i => { status := st, layer := i : Report })
  let p := ci.part
  [row 0x0310 (fun i => layerReserved (layerDesc s ci i)), row 0x0311 (fun i => layerShape (ls i) (nArrays s ci)),
   row 0x0312 (fun i => layerFormat (ls i)), row 0x0313 (fun i => layerSeq (ls i)), row 0x0314 (layerFusion ls n),
   row 0x0315 (fun i => layerAlign (ls i)), row 0x0316 (fun i => !layerAddrOk s p ci.slot (ls i)),
   row 0x0317 (fun i => layerOverlaps s p ci.slot (ls i)), row 0x0319 (layerSpad ls n),
   (if (getPart s p).cntq < 2 then some { status := 0x031A } else none),
   row 0x031B (fun i => (findRect s ci (arrayOff s ci (ls i).cfg) (roleSector s p all)).isNone)].findSome? id

/-- R209: a configuration image. DEDUCED: log entry 21. -/
def imageCheck (s : State) (ci : CfgImg) (all : Bool) : Option Report :=
  if !imageHeadOk s ci then some { status := 0x0301 }
  else (layerHeadCheck s ci).or
    ((arraysCheck s ci (List.range (nArrays s ci)) (baseRanges s ci ++ arrayRanges s ci)).or (layersCheck s ci all))

/-! ### Model images (R284, R285) -/

/-- The configuration images of the model in a slot, with their roles. -/
def modelImages (s : State) (p k : Nat) (sl : Slot) : List (CfgImg × Nat) :=
  (List.range (hdrOf s sl).ncfg).filterMap (cfgImage s p k)

/-- R249: the expert section and its map, as ranges of the image. -/
def expertRanges (s : State) (sl : Slot) (h : Hdr) : List (Nat × Nat) :=
  if h.expOff = 0 then []
  else
    let n := imgFld s sl (h.expOff + 6) 2
    [(h.expOff, 0x40 + 64 * n), (h.expOff + imgFld s sl (h.expOff + 16) 8, 8 * n * xNexp s sl h)]

/-- R284: a format code of the header. -/
def hdrFmtOk (x : Nat) : Bool := decide (x < 8) && isFloatOut (Fmt.ofCode x)

/-- R284: a configuration image entry. -/
def cfgEntOk (b : List Byte) : Bool := aligned (fld b 0 8) 4096 && inRange 1 3 (fld b 16 1) && zeroAt b 17 15

/-- R285 stage 1. -/
def modelHeadOk (s : State) (p k : Nat) (sl : Slot) : Bool :=
  let b := imgGet s sl 0 0x1000
  let h := hdrOf s sl
  let es := (List.range h.ncfg).map (fun i => (b.drop (0x80 + 32 * i)).take 32)
  let role := fun (r : Nat) => (es.filter (fun e => fld e 16 1 == r)).length == 1
  let within := fun (x : Nat × Nat) => decide (x.1 + x.2 ≤ sl.imgLen)
  let rs := es.map (fun e => (fld e 0 8, fld e 8 8)) ++ expertRanges s sl h
  decide (4096 ≤ sl.imgLen) && fld b 0 4 == 0x4C45444D && fld b 4 2 == 1 && inRange 1 32 h.ncfg && fld b 8 8 == sl.imgLen &&
    modeWordOk h.mode && inRange 1 4096 h.nlayer && inRange 1 8184 h.dim && hdrFmtOk h.rfmt && hdrFmtOk h.hfmt && isPow2 h.kvtok &&
    decide (h.kvtok ≤ 1024) && inRange 2 1048576 h.v && inRange 1 1048576 h.ctxmax && inRange 1 1024 h.nplane && zeroAt b 0x26 10 &&
    aligned h.expOff 4096 && zeroAt b 0x38 72 && es.all cfgEntOk && zeroAt b (0x80 + 32 * h.ncfg) 0xF80 && role 1 && role 2 &&
    rs.all within && apart rs &&
    (modelImages s p k sl).all (fun c => ciFld s c.1 0x10 4 == h.mode)

/-- R285 stage 2. -/
def modelImagesCheck (s : State) (p k : Nat) (sl : Slot) : Option Report :=
  (modelImages s p k sl).findSome? (fun c => imageCheck s c.1 (c.2 == 2))

/-- R287: a row of B that crosses a segment boundary. -/
def rowSplit (l : Layer) : Bool :=
  l.kind == 1 && gSpace l.b == 3 && (List.range l.n).any (fun n =>
    let a := gOff l.b + n * l.bp
    a / 0x400000 != (a + ceilDiv (l.k * l.fmt.width) 8 - 1) / 0x400000)

/-- R249: reserved bits of the expert section. -/
def expertReserved (s : State) (sl : Slot) (h : Hdr) : Bool :=
  let b := imgGet s sl h.expOff 0x40
  let recs := (List.range (fld b 6 2)).map (fun x => imgGet s sl (xrecOff h x) 64)
  let map := imgGet s sl (h.expOff + fld b 16 8) (8 * fld b 6 2 * fld b 8 4)
  fld b 0 4 != 0x50584552 || fld b 4 2 != 1 || !zeroAt b 14 2 || !zeroAt b 24 40 || !aligned (fld b 16 8) 8 ||
    recs.any (fun r => !zeroAt r 23 41 || decide (64 ≤ fld r 22 1)) ||
    (List.range (map.length / 8)).any (fun i =>
      let e := map.drop (8 * i)
      decide (2 ^ 14 ≤ fld e 0 2 ∨ 16 ≤ fld e 2 1) || !zeroAt e 3 1 || !zeroAt e 6 2)

/-- R249: values of the expert section outside their ranges. -/
def expertShape (s : State) (sl : Slot) (h : Hdr) : Bool :=
  let b := imgGet s sl h.expOff 0x40
  let recs := (List.range (fld b 6 2)).map (fun x => imgGet s sl (xrecOff h x) 64)
  !(inRange 1 256 (fld b 6 2) && inRange 2 8192 (fld b 8 4) && isPow2 (fld b 12 2) && inRange 64 4096 (fld b 12 2)) ||
    recs.any (fun r =>
      let f := fld r
      let out := Fmt.ofCode (f 22 1 / 8 % 8)
      !(inRange 1 4 (f 4 1) && inRange 1 8 (f 5 1) && decide (f 6 1 ≤ 7) && decide (1 ≤ f 7 1) && inRange 1 (2 ^ 31 - 1) (f 8 4) &&
        inRange 100 1000000 (f 12 4) && inRange 1000 10000000 (f 16 4) && inRange 1 8184 (f 20 2) && (out == .f16 || out == .f32)))

/-- R471: the layers that an expert record names in one image. -/
def expertLayersOk (s : State) (ci : CfgImg) (nexp : Nat) (r : List Byte) : Bool :=
  let l := layerAt s ci (fld r 0 2)
  decide (fld r 0 2 < nLayers s ci) && l.kind != 2 && l.n == nexp && l.fmtd == .f32 &&
    (List.range (fld r 4 1)).all (fun i =>
      decide (fld r 2 2 + i < nLayers s ci) && (layerAt s ci (fld r 2 2 + i)).kind == 2)

/-- R285 stage 3. -/
def modelWholeCheck (s : State) (p k : Nat) (sl : Slot) : Option Report :=
  let h := hdrOf s sl
  let cs := modelImages s p k sl
  let split := (cs.filter (fun c => c.2 == 2)).findSome? (fun c =>
    ((List.range (nLayers s c.1)).find? (fun i => rowSplit (layerAt s c.1 i))).map (fun i => { status := 0x031C, layer := i : Report }))
  let recs := (List.range (imgFld s sl (h.expOff + 6) 2)).map (fun x => imgGet s sl (xrecOff h x) 64)
  split.or (
    if h.expOff = 0 then none
    else if expertReserved s sl h then some { status := 0x0310 }
    else if expertShape s sl h then some { status := 0x0311 }
    else if recs.all (fun r => (cs.filter (fun c => c.2 != 3)).all (fun c => expertLayersOk s c.1 (xNexp s sl h) r)) then none
    else some { status := 0x031C })

/-- R285: the model image in a slot. -/
def modelCheck (s : State) (p k : Nat) (sl : Slot) : Option Report :=
  if !modelHeadOk s p k sl then some { status := 0x031C }
  else (modelImagesCheck s p k sl).or (modelWholeCheck s p k sl)

/-! ### The end of a registration (R356) -/

/-- The registration of a slot ends; a MODEL_SELECT that waits for it fails with its outcome. -/
def slotDone (s : State) (p k : Nat) (sl : Slot) : State :=
  let r := modelCheck s p k sl
  let reg := match r with | some x => Reg.refused x | none => .ok
  let t := modPart s p (fun P => { P with slots := SSet none P.slots k (some { sl with reg := reg }) })
  match r, (getPart s p).selecting with
  | some x, some (_, n) => if n = k then endSelect t p x else t
  | _, _ => t

/-- The GRAPH_RUNs that wait for a handle, in order. -/
def releaseRuns (s : State) (p h : Nat) : State :=
  if registering s (p + 1) h then s
  else (s.host.cmds.filter (fun c => c.d.fn == p + 1 && c.d.opc == 0x21 && c.ph == .waiting && c.d.f 0x10 1 == h)).foldl
    (fun s c => startRun s c.id) s

/-- The registration of a handle ends: its command completes with the outcome, and the runs that wait for it go on. An image
at addresses that the partition may not access is refused (R269). -/
def handleDone (s : State) (p h : Nat) : State :=
  match s.host.cmds.find? (fun c => c.d.fn == p + 1 && c.d.opc == 0x20 && c.d.f 0x10 1 == h) with
  | none => s
  | some c =>
    let a := gOff (c.d.f 0x18 8)
    let n := c.d.f 0x20 8
    let x := if permitted s p none false (c.d.f 0x18 8) (max 1 n) then imageCheck s ⟨p, none, a, n⟩ true else some { status := 0x0316 }
    let rep := x.getD { status := 0 }
    let t := modPart s p (fun P => { P with images := SSet none P.images h ((SGet none P.images h).map (fun i => { i with
      reg := match x with | some r => .refused r | none => .ok
      cur := if x.isNone then some (a, n) else i.cur })) })
    let t := endCmd (writeReport t c.d (reportAt c.d) rep) c.id (fun k => loaderInfo k rep)
    releaseRuns t p h

/-- REGISTRATION_DONE: of the slot `key`, or with `image` of the handle `key`. -/
def execRegistrationDone (part : Nat) (image : Bool) (key : Nat) (s : State) : Host.Outcome State Fault Refusal :=
  onUnit (decide (part < 16)) (if !serving s then s
    else if image then handleDone s part key
    else match getSlot s part key with
      | none => s
      | some sl => match sl.reg with
        | .running _ => slotDone s part key sl
        | _ => s)

end Sys2Proof.Machine
end

