-- ==== Sys2Proof/Machine/Memory.lean ====
section
/-! DEFINITION. LPDDR6 (R263 to R275): the code of a block, row activations and their refresh, maintenance slots, row remapping
(R369), and the background work of R438 to R440. -/

namespace Sys2Proof.Machine

/-! ### Blocks and rows -/

/-- Symbols `es` of a code word XORed in, from symbol `lo` on. -/
def flipSyms (lo : Nat) (es : List (Nat × Byte)) (xs : List Byte) : List Byte :=
  (numbered lo xs).map (fun x => es.foldl (fun b e => if e.1 = x.1 then b ^^^ e.2 else b) x.2)

/-- R270: what the decoder makes of a block read with the symbol errors `errs`: symbols 0 to 31 the data, 32 to 35 the
address at which the device read, 36 to 39 the check symbols. The second copy of mirrored data holds what the primary holds. -/
def readBlock (s : State) (off : Nat) (errs : List (Nat × Byte)) : RsOut :=
  if blockLost s off then .uncorrectable
  else
    let d := memGet s (primaryOf s off) 32
    let addr := rsAddr (off % 2 ^ 36)
    let chk := rsCheck (d ++ flipSyms 32 errs addr)
    rsDecode (flipSyms 0 errs d) (off % 2 ^ 36) (flipSyms 36 errs chk)

/-! ### Rows that fail (R369) -/

def memCtr (s : State) (g : Nat) (f : MemCtr → MemCtr) : State :=
  modPew s (fun w => { w with mem := SSet {} w.mem g (f (SGet {} w.mem g)) })

/-- A row is remapped to a spare row, or its group faults. -/
def remapRow (s : State) (off src : Nat) : State :=
  let sub := subOf off
  let g := off / 2 ^ 36
  if sparesOf s sub = 0 then groupFault s g src off
  else
    let s := logFault s (faultEnt s utRow src sub (partOfGroup s g) 3 off)
    let s := modMem s (fun m => { m with
      spares := SSet 0 m.spares sub (SGet 0 m.spares sub + 1)
      remaps := if m.remaps.contains (rowOf off) then m.remaps else m.remaps ++ [rowOf off]
      corrected := m.corrected.filter (fun c => c.1 != rowOf off) })
    memCtr s g (fun c => { c with remapped := c.remapped + 1 })

/-- A corrected block is written back and counted against its row; 16 in 24 h remap it. DEDUCED: log entry 31. -/
def correctRow (s : State) (off : Nat) : State :=
  let s := memCtr s (off / 2 ^ 36) (fun c => { c with corrected := c.corrected + 1 })
  let s := modMem s (fun m => { m with
    corrected := (rowOf off, s.tick) :: m.corrected.filter (fun c => decide (s.tick < c.2 + 8640000000000)) })
  if 16 ≤ (s.mem.corrected.filter (fun c => c.1 == rowOf off)).length then remapRow s off 0x0B else s

/-- An uncorrectable block: counted, and its row remapped unless the remap itself marked the block. -/
def lostRow (s : State) (off : Nat) : State :=
  let s := memCtr s (off / 2 ^ 36) (fun c => { c with uncorrectable := c.uncorrectable + 1 })
  if blockLost s off ∧ s.mem.remaps.contains (rowOf off) then s else remapRow (markLost s off true) off 0x0A

/-- R271: the block of the other copy. -/
def otherCopy (s : State) (off : Nat) : Option Nat :=
  if mirrored s off then some (copyOf off) else if primaryOf s off = off then none else some (primaryOf s off)

/-- R270, R271, R369: a block comes back, read with symbol errors `errs`; an uncorrectable one of mirrored data is served and
repaired from its other copy, read with `errs2`. `data` is true when the read serves work, and its loss has the consequences of
R288. -/
def blockBack (s : State) (off : Nat) (errs errs2 : List (Nat × Byte)) (data : Bool) : State :=
  let lose := fun (t : State) => if data then lostData t (primaryOf s off) else t
  match readBlock s off errs with
  | .clean => s
  | .corrected d => correctRow (memStore s (primaryOf s off) d) off
  | .uncorrectable => match otherCopy s off with
    | none => lose (lostRow s off)
    | some o => match readBlock (activate s o) o errs2 with
      | .uncorrectable => lose (lostRow (lostRow (activate s o) off) o)
      | .clean => markLost (lostRow (activate s o) off) off false
      | .corrected _ => markLost (lostRow (correctRow (activate s o) o) off) off false

/-- A local offset within the module's memory. -/
def inMemory (off : Nat) : Bool := decide (off < 48 * 2 ^ 36)

def blockAt (off : Nat) : Nat := off / 32 * 32

/-- R264: the self-timed side of a group takes no block: every sector of its partition is held. -/
def takerHeld (s : State) (g : Nat) : Bool :=
  match partOfGroup s g with
  | none => false
  | some p => (List.range 64).all (fun n => !bit (getPart s p).sectors n || sectorHeld s n)

/-- MEMORY_READ_RETURN: with the other copy's symbol errors, for mirrored data. A burst is issued only when the read FIFO of its
sub-channel has room for the block; the FIFO empties unless the self-timed side is held (R264). -/
def execMemoryReadReturn (off : Nat) (errs errs2 : List (Nat × Byte)) (tier1 : Bool) (s : State) :
    Host.Outcome State Fault Refusal :=
  let o := blockAt off
  let n := if takerHeld s (o / 2 ^ 36) then SGet 0 s.mem.fifo (subOf o) + 1 else 0
  onUnit (inMemory off) (whenB (s.power.pg && !blocked s o && !fenced s utGroup (o / 2 ^ 36) && decide (n ≤ 32)) s
    (blockBack (activate (modMem s (fun m => { m with
        fifo := SSet 0 m.fifo (subOf o) n
        reads := m.reads.filter (fun r => r.1 != o) })) o) o errs errs2 tier1))

/-- TIER1_READ_LATE. -/
def execTier1ReadLate (off : Nat) (s : State) : Host.Outcome State Fault Refusal :=
  onUnit (inMemory off) (match s.mem.reads.find? (fun r => r.1 == off && decide (r.2.2 + 10000 ≤ s.tick)) with
    | none => s
    | some r => groupFault s (r.1 / 2 ^ 36) 0x0C r.1)

/-! ### Maintenance -/

/-- R273: the refresh-management requests that wait for a slot of a sub-channel are served, and the pending targeted refreshes
of the banks for which `p` holds issued, as far as the slot allows. -/
def serveSlot (s : State) (sub : Nat) (p : Nat → Bool) : State :=
  if !slotOpen s (sub / 8) then s
  else
    let bs := ((List.range 32).map (32 * sub + ·)).filter (fun b => p b || s.mem.rfm.contains b)
    bs.foldl issueDue (modMem s (fun m => { m with rfm := m.rfm.filter (fun b => b / 32 != sub) }))

/-- PERIODIC_REFRESH: the refresh of one row of a sub-channel, by its 2 KiB run, with the bank's targeted refreshes. -/
def execPeriodicRefresh (sub row : Nat) (s : State) : Host.Outcome State Fault Refusal :=
  let off := sub * 2 ^ 33 + row % 2 ^ 22 * 2048
  onUnit (decide (sub < 384)) (whenB (s.power.pg && slotOpen s (sub / 8)) s
    (serveSlot (modMem s (fun m => { m with
        rows := SSet [] m.rows (bankOf off) ((SGet [] m.rows (bankOf off)).filter (fun c => c.1 != rowIn off))
        refreshAt := SSet 0 m.refreshAt sub s.tick })) sub (fun b => b == bankOf off)))

/-- RFM_REQUEST: served in the next slot, at once when one is open: the bank's pending targeted refreshes are issued. -/
def execRfmRequest (sub bank : Nat) (s : State) : Host.Outcome State Fault Refusal :=
  onUnit (decide (sub < 384) && decide (bank < 32)) (whenB s.power.pg s
    (serveSlot (modMem s (fun m => { m with
        rfm := if m.rfm.contains (sub * 32 + bank) then m.rfm else m.rfm ++ [sub * 32 + bank] })) sub (fun _ => false)))

/-- MAINTENANCE_WINDOW: each sub-channel of the group serves its requests and issues up to 8 targeted refreshes. -/
def execMaintenanceWindow (group : Nat) (s : State) : Host.Outcome State Fault Refusal :=
  onUnit (decide (group < 48)) (whenB (s.power.pg && s.power.paced && slotOpen s group) s
    ((List.range 8).foldl (fun s k => serveSlot s (8 * group + k) (fun _ => true)) s))

/-- PERIODIC_CALIBRATION: three fails in a row are a group fault, whose SOURCE R363 does not give: a free value. -/
def execPeriodicCalibration (sub : Nat) (ok : Bool) (s : State) : Host.Outcome State Fault Refusal :=
  let open' := !s.power.paced || match partOfGroup s (sub / 8) with
    | none => true
    | some p => decide (s.tick < (getPart s p).ctick + 200)
  onUnit (decide (sub < 384)) (whenB (s.power.pg && open' && !fenced s utGroup (sub / 8)) s
    (let n := if ok then 0 else SGet 0 s.mem.calFails sub + 1
     let s := modMem s (fun m => { m with calFails := SSet 0 m.calFails sub n, calAt := SSet 0 m.calAt sub s.tick })
     let d := drawFree s
     if 3 ≤ n then groupFault d.2 (sub / 8) (d.1 % 256) (sub * 2 ^ 33) else s))

/-- R438: patrol passes that every sub-channel of a group has completed. -/
def patrolPasses (s : State) (g : Nat) : Nat :=
  (List.range 8).foldl (fun a k => min a (SGet 0 s.mem.patrol (8 * g + k) / 2 ^ 28)) (SGet 0 s.mem.patrol (8 * g) / 2 ^ 28)

/-- PATROL_SCRUB: the next block of a sub-channel; scrub ends no request (R439). -/
def execPatrolScrub (sub : Nat) (errs errs2 : List (Nat × Byte)) (s : State) : Host.Outcome State Fault Refusal :=
  let n := SGet 0 s.mem.patrol sub
  let off := sub * 2 ^ 33 + n % 2 ^ 28 * 32
  let g := sub / 8
  onUnit (decide (sub < 384)) (whenB (s.power.pg && slotOpen s g && !blocked s off && !fenced s utGroup g) s
    (let s := blockBack (activate s off) off errs errs2 false
     let before := patrolPasses s g
     let s := modMem s (fun m => { m with patrol := SSet 0 m.patrol sub (n + 1) })
     if patrolPasses s g = before then s
     else memCtr s g (fun c => { c with passes := c.passes + 1, passEnd := s.tick, late := decide (c.passEnd + 9504000000000 < s.tick) })))

/-- R439: a double-bit error found by scrub, as though the word's owner had read it. Words of a core from 98,304 on are its
tag store entries; words of a slice are its 65,536 lines. -/
def sramError (s : State) (u n word : Nat) : State :=
  if u = utCore then
    if word < 98304 then upsetWord s n word 2 else tileMismatch s n (word - 98304)
  else if u = utCobalt then reportError s utCobalt 0x07 n 0
  else if u = utCopper then reportError s utCopper 0x08 n 0
  else match SGet none s.mem.lines (65536 * n + word % 65536) with
    | some l => lineMet s true (n * 2 ^ 36 + 128 * l.tag)
    | none => s

def sramUnit (u n : Nat) : Bool :=
  decide ((u = utCore ∧ n < 4096) ∨ (u = utCobalt ∧ n < 64) ∨ (u = utCopper ∧ n < 384) ∨ (u = utSlice ∧ n < 48))

/-- SRAM_SCRUB: `bits` of the word are in error; in paced mode only in the gap after a commit, or with no chunk or step.
DEDUCED: log entry 31. -/
def execSramScrub (utype unit word bits : Nat) (s : State) : Host.Outcome State Fault Refusal :=
  let gap := !s.power.paced || match partOfUnit s utype unit with
    | none => true
    | some p => decide (s.tick < (getPart s p).ctick + 200) || ((getPart s p).chunk.isNone && (getPart s p).step.isNone)
  onUnit (sramUnit utype unit) (whenB (s.power.pg && gap && !outOfService s utype unit) s
    (if bits = 0 then s
     else if bits = 1 then (if utype = utCore ∧ word < 98304 then upsetWord s unit word 1 else s)
     else sramError s utype unit word))

/-- The lines of a slice that hold data not yet in LPDDR6, by offset. -/
def dirtyLines (s : State) (g : Nat) : List Nat :=
  s.mem.lines.filterMap (fun e => if e.1 / 65536 = g then e.2.bind (fun l => if l.dirty then some (g * 2 ^ 36 + 128 * l.tag) else none) else none)

/-- SLICE_WRITEBACK_DONE: a slice that leaves service has written its dirty lines back, `bad` naming those whose arrays gave an
uncorrectable error (R178), and has no line left; the group passes to uncached service (R179). -/
def execSliceWritebackDone (group : Nat) (bad : List Nat) (s : State) : Host.Outcome State Fault Refusal :=
  onUnit (decide (group < 48)) (whenB (!sliceServes s group) s
    (let s := (bad.filter (fun o => o / 2 ^ 36 == group)).foldl (lineMet · true) s
     clearSlice ((dirtyLines s group).foldl activate s) group))

/-- OPTICAL_BIAS_CALIBRATION: inside the optical engine; no state of the module changes (R438). -/
def execOpticalBiasCalibration (port lane : Nat) (s : State) : Host.Outcome State Fault Refusal :=
  onUnit (decide (port < 16) && decide (lane < 8)) s

/-- R440: loss in ppm. -/
def lossPpm (start latest : Nat) : Nat := if start ≤ latest then 0 else 1000000 * (start - latest) / start

/-- AGEING_MEASUREMENT: `count` is the normalised count. -/
def execAgeingMeasurement (sector count : Nat) (s : State) : Host.Outcome State Fault Refusal :=
  let loss := lossPpm (Config.startOfLife sector) count
  let add := fun (l : List Nat) (c : Bool) => if c && !l.contains sector then l ++ [sector] else l
  onUnit (decide (sector < 64)) (whenB s.power.pg s (modPew s (fun w => { w with
    age := SSet {} w.age sector ⟨Config.startOfLife sector, count, loss, s.tick⟩
    ageWarn := add w.ageWarn (decide (40000 < loss))
    ageLimit := add w.ageLimit (decide (50000 < loss)) })))

end Sys2Proof.Machine
end

