-- ==== Sys2Proof/Machine/Peers.lean ====
section
/-! DEFINITION. Peer accesses at their target and their answers at the requester (R278, R279, R340, R341). -/

namespace Sys2Proof.Machine

/-! ### The target (R278) -/

/-- R278: a window permits an access of `len` bytes at `off` by a partition of a chip. -/
def windowOk (w : PWin) (write : Bool) (chip spart off len : Nat) : Bool :=
  decide (w.size ≠ 0 ∧ w.base ≤ off ∧ off + len ≤ w.base + w.size ∧ w.chipLo ≤ chip ∧ chip ≤ w.chipHi) &&
    bit w.parts spart && bit w.acc (b2n write)

/-- Some window of some partition permits the access. -/
def windowOpen (s : State) (write : Bool) (chip spart off len : Nat) : Bool :=
  partIds.any (fun p => (getPart s p).phase != .absent && (getPart s p).pwin.any (fun w => windowOk w write chip spart off len))

/-- R256: bytes of a receive buffer: a header and 1,024 rows of the widest record. -/
def brassBuf : Nat := 64 + 1024 * 32768

/-- R256: the receive buffer that a write of a partition of a chip falls into: holding partition, half, offset. Firmware's
windows take in the buffers of every partition number, so that the job of a sender without a slot pair, or for a partition
that does not exist, is answered NOSLOT (R258). DESIGN CHOICE: log entry 48. -/
def jobBufAt (s : State) (chip spart off len : Nat) : Option (Nat × Nat × Nat) :=
  partIds.findSome? (fun p => [0, 1].findSome? (fun h =>
    let b := Config.jobBuf (ownChip s) p chip spart h
    if b ≤ off ∧ off + len ≤ b + brassBuf then some (p, h, off - b) else none))

/-- R256, R259: the result buffer of a sending partition that a write of a holder falls into. -/
def resultBufAt (s : State) (chip hpart off len : Nat) : Option (Nat × Nat × Nat) :=
  partIds.findSome? (fun p => [0, 1].findSome? (fun h =>
    let b := Config.resultBuf (ownChip s) p chip hpart h
    if (getPart s p).phase ≠ .absent ∧ b ≤ off ∧ off + len ≤ b + brassBuf then some (p, h, off - b) else none))

/-- R278: a write that a window permits takes effect: chain data, memory, a notice, a job or a result. None refuses it. -/
def serveWrite (s : State) (m : Msg) : Option State :=
  match chainTarget s m.src m.off m.len with
  | some (p, c, i) => some (chainWrite s p c i m.off m.data)
  | none =>
    if windowOpen s true m.src m.spart m.off m.len then some (memPut s m.off m.data)
    else match noticeTarget s m.src m.off with
      | some (p, c) => some (noticeWrite s p c m.src m.data)
      | none => match jobBufAt s m.src m.spart m.off m.len with
        | some (p, h, o) => some (jobBytes p m.src m.spart h o m.data s)
        | none => (resultBufAt s m.src m.spart m.off m.len).map (fun r => resultBytes r.1 m.src m.spart r.2.1 r.2.2 m.data s)

/-- A response travels by the route to the requester (R338). -/
def respond (s : State) (m : Msg) (mtype status : Nat) (data : List Byte) : State :=
  match (routePort s m.src 0).1 with
  | none => s
  | some n =>
    if (getPort s n).state = .active ∨ (getPort s n).state = .retrain then
      sendMsg s n 1 ⟨mtype, m.cls, m.src, ownChip s, m.spart, m.tag, m.len, 0, status, data⟩
    else s

/-- The oldest message of a VC when it is of a type, taken from a port that carries data. -/
def takeMsg (n vc mtype : Nat) (s : State) (f : Msg → State → State) : Host.Outcome State Fault Refusal :=
  let p := getPort s n
  portRow n s (if p.state ≠ .active ∧ p.state ≠ .retrain then s
    else match (if vc = 0 then p.msgs0 else p.msgs1) with
      | [] => s
      | m :: r =>
        if m.mtype ≠ mtype then s
        else f m (modPort s n (fun p => (if vc = 0 then { p with msgs0 := r } else { p with msgs1 := r }).free vc (slotsOf m))))

/-- RD: a served access passes through the near cache (R278), and waits while its slice leaves service (R179).
DEDUCED: log entry 29. -/
def execRd (port : Nat) (s : State) : Host.Outcome State Fault Refusal :=
  takeMsg port 0 1 s (fun m t =>
    if !windowOpen t false m.src m.spart m.off m.len then respond (portCount t port 9) m 4 1 []
    else if memWaits t m.off m.len then s
    else if memLost t m.off m.len then respond t m 4 2 []
    else respond (memTouch t m.off m.len) m 4 0 (memGet t m.off m.len))

/-- R278, R280: a write goes to local memory: a chain's destination or an open window. -/
def writeToMem (s : State) (m : Msg) : Bool :=
  (chainTarget s m.src m.off m.len).isSome || windowOpen s true m.src m.spart m.off m.len

/-- WR; a write to local memory waits while its slice leaves service (R179). DEDUCED: log entry 29. -/
def execWr (port : Nat) (s : State) : Host.Outcome State Fault Refusal :=
  takeMsg port 0 2 s (fun m t =>
    if writeToMem t m && memWaits t m.off m.len then s
    else match serveWrite t m with
      | some t => respond t m 5 0 []
      | none => respond (portCount t port 9) m 5 1 [])

/-! ### The requester (R279, R340) -/

/-- R340: the access that a response answers. -/
def answered (s : State) (m : Msg) : Option Access :=
  s.fab.accs.find? (fun a => a.tag == m.tag && a.chip == m.src && b2n a.stor == m.cls && a.len == m.len &&
    (if m.mtype = 4 then a.read.isSome else a.write.isSome))

/-- A response that names no outstanding access is discarded and counted. -/
def takeResponse (n mtype : Nat) (s : State) (f : Access → Msg → State → State) : Host.Outcome State Fault Refusal :=
  takeMsg n 1 mtype s (fun m s => match answered s m with
    | none => portCount s n 8
    | some a => if m.status = 0 then f a m s else failAccess s a false 0x0407)

/-- RDATA. -/
def execRdata (port : Nat) (s : State) : Host.Outcome State Fault Refusal :=
  takeResponse port 4 s (fun a m s =>
    let t := endAccess s a.tag false
    match readOf t a with
    | none => t
    | some r =>
      let x := readMore t r m.data
      if x.2 then x.1 else readFail x.1 { r with got := r.got ++ m.data } 0x0408)

/-- WACK. -/
def execWack (port : Nat) (s : State) : Host.Outcome State Fault Refusal :=
  takeResponse port 5 s (fun a _ s => match a.write with
    | some w => writeOk (endAccess s a.tag false) w
    | none => s)

/-- A write of Brass, which keeps its own limit (R279). -/
def WriteFor.brass : WriteFor → Bool
  | .jobRow _ _ _ _ _ => true
  | .resultRow _ _ _ _ => true
  | .head => true
  | _ => false

/-- R279: PEERLIM of the partition whose access it is. -/
def peerLimOf (s : State) (p : Nat) : Nat := if (getPart s p).phase = .absent then 50000 else (getPart s p).peerlim

/-- PEERLIM_EXPIRY. -/
def execPeerlimExpiry (tag : Nat) (s : State) : Host.Outcome State Fault Refusal :=
  .next (match s.fab.accs.find? (fun a => a.tag == tag) with
    | none => s
    | some a =>
      let own : Bool := match a.write with | some w => w.brass | none => false
      whenB (!own && decide (a.issued + peerLimOf s a.part ≤ s.tick)) s (failAccess s a true 0x0406))

end Sys2Proof.Machine
end

