-- ==== Sys2Proof/Machine/Recovery.lean ====
section
/-! DEFINITION. From an error to its outcome (R364 to R368, R374, R437). -/

namespace Sys2Proof.Machine

/-- R365: the units of a unit's margin domain, as they are withdrawn. -/
def domainOf (u n : Nat) : List (Nat × Nat) :=
  if u = utCore then [(utCobalt, n / 64)]
  else if u = utCopper then (List.range 8).map (fun k => (utCopper, 8 * (n / 8) + k))
  else [(u, n)]

/-- The partition of a unit, a lost memory group's included. -/
def homeOf (s : State) (u n : Nat) : Option Nat :=
  if u = utGroup then partIds.find? (fun p => bit (getPart s p).groups n || bit (getPart s p).lostGroups n)
  else partOfUnit s u n

/-- R363: a fault log entry rewritten with its outcome. -/
def setOutcome (s : State) (log v : Nat) : State :=
  modPew s (fun w => { w with faultLog := SSet none w.faultLog log ((SGet none w.faultLog log).map (fun e => { e with outcome := v })) })

/-- R151, R179, R365: a unit cleared; what a slice held is in LPDDR6 by then. -/
def clearUnit (s : State) (u n : Nat) : State :=
  if u = utCore then setCore s n {}
  else if u = utCobalt then modCob s n (fun c => { run := c.run, imem := c.imem, dmem := c.dmem })
  else if u = utCopper then modEng s (fun e => { e with coppers := SSet {} e.coppers n {} })
  else if u = utSlice then clearSlice s n
  else if u = utGroup then modMem (clearSlice s n) (fun m => { m with
    bytes := m.bytes.filter (fun e => e.1 / 2 ^ 36 != n), lost := m.lost.filter (fun e => e.1 / 2 ^ 31 != n) })
  else s

/-- R364, R365: a unit's domain is withdrawn, with the placements on it, and its test begins; a slice first writes its lines
back (R179). DEDUCED: log entry 35. -/
def startTest (s : State) (u n : Nat) (why : TestWhy) (log : Nat) (part : Option Nat) : State :=
  let new := (domainOf u n).filter (fun d => !s.eng.away.contains d)
  let s := modEng s (fun e => { e with
    away := e.away ++ new
    rejoin := e.rejoin.filter (fun r => !(domainOf u n).contains r.2)
    tests := e.tests ++ [⟨u, n, why, s.tick, log, part⟩] })
  let s := if u = utCopper then match part with
    | some p => modPart s p (fun P => { P with rowMoves := P.rowMoves ++ (new.map (·.2)).filter (fun k => !P.rowMoves.contains k) })
    | none => s
    else s
  let s := if u = utCore ∨ u = utCobalt then clearPlaces s (fun pl => pl.sectors.contains (if u = utCore then n / 64 else n)) else s
  if u = utSlice then s else clearUnit s u n

/-- R374: an error of a hub unit or UCIe link. DEDUCED: log entry 35. -/
def hubError (s : State) (r : Report1) : State :=
  let s := modPew s (fun w => { w with
    hubReports := (r.unit, s.sbTick) :: w.hubReports.filter (fun h => decide (s.sbTick < h.2 + 8640000000000)) })
  let s := partIds.foldl (fun s p => discardWork s (some p)) s
  if 3 ≤ (s.pew.hubReports.filter (fun h => h.1 == r.unit)).length then moduleFault (setOutcome s r.log 6)
  else setOutcome s r.log 1

/-- R375: registrations that run start again. -/
def restartRegs (s : State) (p : Nat) : State :=
  let again := fun (x : Reg) => match x with | .running _ => Reg.running s.tick | y => y
  modPart s p (fun P => { P with
    slots := (P.slots.map (fun e => (e.1, e.2.map (fun sl => { sl with reg := again sl.reg })))).filter (fun e => decide (e.2 ≠ none))
    images := (P.images.map (fun e => (e.1, e.2.map (fun i => { i with reg := again i.reg })))).filter (fun e => decide (e.2 ≠ none)) })

/-- A reported unit is withdrawn and tested, unless its test already runs or it is fenced. -/
def withdrawFor (s : State) (r : Report1) : State :=
  if fenced s r.utype r.unit ∨ s.eng.tests.any (fun t => t.utype == r.utype && t.unit == r.unit) then s
  else startTest s r.utype r.unit .error r.log r.part

/-- UNIT_ERROR_RECOVERY: the oldest report, with every other one that waits for the same partition: one discard (R375).
DEDUCED: log entry 35. -/
def execUnitErrorRecovery (s : State) : Host.Outcome State Fault Refusal :=
  .next (match s.eng.reports with
    | [] => s
    | r :: rs =>
      if r.utype = utHub then hubError (modEng s (fun e => { e with reports := rs })) r
      else
        let same := fun (x : Report1) => x.part == r.part && r.part.isSome && x.utype != utHub
        let now := r :: rs.filter same
        let s := modEng s (fun e => { e with reports := rs.filter (fun x => !same x) })
        let s := discardWork s r.part
        let s := match r.part with | some p => restartRegs s p | none => s
        now.foldl withdrawFor s)

/-- R366: the domain of a test comes back once no test of it runs: at the partition's next commit, at once without one. -/
def endTest (s : State) (t : SelfTest) : State :=
  let s := modEng s (fun e => { e with tests := dropFirst (· == t) e.tests })
  let d := domainOf t.utype t.unit
  if s.eng.tests.any (fun x => (domainOf x.utype x.unit).any d.contains) then s
  else match homeOf s t.utype t.unit with
    | some p => modEng s (fun e => { e with rejoin := e.rejoin ++ d.map (fun x => (p, x.1, x.2)) })
    | none => modEng s (fun e => { e with away := e.away.filter (fun x => !d.contains x) })

/-- SELF_TEST_DONE: the verdict. -/
def execSelfTestDone (utype unit : Nat) (pass : Bool) (s : State) : Host.Outcome State Fault Refusal :=
  .next (match s.eng.tests.find? (fun t => t.utype == utype && t.unit == unit) with
    | none => s
    | some t =>
      if utype = utSlice ∧ sliceLeaving s unit then s
      else
      let s := clearUnit s utype unit
      match t.why with
      | .error =>
        if pass ∧ transientsOf s utype unit < 2 then
          let s := modPew s (fun w => { w with transients := (utype, unit, s.sbTick) :: w.transients })
          endTest (setOutcome s t.log 1) t
        else
          let s := endTest (setOutcome s t.log 2) t
          fenceUnit s utype unit
      | _ =>
        if pass then
          endTest (modPew s (fun w => { w with
            fence := w.fence.filter (· != (utype, unit))
            transients := w.transients.filter (fun x => !(x.1 == utype && x.2.1 == unit)) })) t
        else
          let d := drawFree s
          endTest (logFault d.2 (faultEnt d.2 utype (d.1 % 256) unit t.part 2 0)) t)

/-- RETURN_TEST_START: at a commit boundary of the partition, or with no work in progress. -/
def execReturnTestStart (utype unit : Nat) (s : State) : Host.Outcome State Fault Refusal :=
  .next (match s.eng.returning.find? (fun r => r.2 == (utype, unit)) with
    | none => s
    | some r =>
      let p := homeOf s utype unit
      let busy : Bool := match p with | some p => partWorks (getPart s p) | none => false
      if busy ∨ !s.power.pg then s
      else
        let s := modEng s (fun e => { e with returning := e.returning.filter (· != r) })
        startTest s utype unit .returned 0 p)

end Sys2Proof.Machine
end

