-- ==== Sys2Proof/Machine/Dispatch.lean ====
section
/-! DEFINITION. The meaning of every command: one arm for each constructor, each a direct call of its meaning. -/

namespace Sys2Proof.Machine

/-- The effect of one command on everything but the queue. -/
def exec (i : Instr) (s : State) : Host.Outcome State Fault Refusal :=
  match i with
  | .itemTransfer row col src cons noise => Sys2Proof.Machine.execItemTransfer row col src cons noise s
  | .handshakeAnomaly row col side => Sys2Proof.Machine.execHandshakeAnomaly row col side s
  | .macFiring row col bad => Sys2Proof.Machine.execMacFiring row col bad s
  | .maclFiring row col bad => Sys2Proof.Machine.execMaclFiring row col bad s
  | .delayFiring row col => Sys2Proof.Machine.execDelayFiring row col s
  | .testFiring row col => Sys2Proof.Machine.execTestFiring row col s
  | .steerFiring row col => Sys2Proof.Machine.execSteerFiring row col s
  | .mergeFiring row col => Sys2Proof.Machine.execMergeFiring row col s
  | .gateFiring row col => Sys2Proof.Machine.execGateFiring row col s
  | .repeatFiring row col => Sys2Proof.Machine.execRepeatFiring row col s
  | .countFiring row col => Sys2Proof.Machine.execCountFiring row col s
  | .stallTimeout place => Sys2Proof.Machine.execStallTimeout place s
  | .variantPlace part run img sect => Sys2Proof.Machine.execVariantPlace part run img sect s
  | .placementResume wait => Sys2Proof.Machine.execPlacementResume wait s
  | .sectorLoad sector => Sys2Proof.Machine.execSectorLoad sector s
  | .sectorLoadDone sector => Sys2Proof.Machine.execSectorLoadDone sector s
  | .sectorClear sector => Sys2Proof.Machine.execSectorClear sector s
  | .winWr src dst crcBad => Sys2Proof.Machine.execWinWr src dst crcBad s
  | .winRd src dst crcBad => Sys2Proof.Machine.execWinRd src dst crcBad s
  | .winRsp src dst crcBad => Sys2Proof.Machine.execWinRsp src dst crcBad s
  | .rgdWrite src dst crcBad => Sys2Proof.Machine.execRgdWrite src dst crcBad s
  | .evWrite src dst crcBad => Sys2Proof.Machine.execEvWrite src dst crcBad s
  | .tagEntryWrite src dst crcBad => Sys2Proof.Machine.execTagEntryWrite src dst crcBad s
  | .tileCheckDone core entry upset => Sys2Proof.Machine.execTileCheckDone core entry upset s
  | .tileRefetchDone core entry => Sys2Proof.Machine.execTileRefetchDone core entry s
  | .vctlGo src dst crcBad => Sys2Proof.Machine.execVctlGo src dst crcBad s
  | .vctlAbort src dst crcBad => Sys2Proof.Machine.execVctlAbort src dst crcBad s
  | .vnop core => Sys2Proof.Machine.execVnop core s
  | .vld core upset => Sys2Proof.Machine.execVld core upset s
  | .vst core => Sys2Proof.Machine.execVst core s
  | .vmov core => Sys2Proof.Machine.execVmov core s
  | .vsetx core => Sys2Proof.Machine.execVsetx core s
  | .vseta core => Sys2Proof.Machine.execVseta core s
  | .vadda core => Sys2Proof.Machine.execVadda core s
  | .vsplat core => Sys2Proof.Machine.execVsplat core s
  | .vand core => Sys2Proof.Machine.execVand core s
  | .vor core => Sys2Proof.Machine.execVor core s
  | .vxor core => Sys2Proof.Machine.execVxor core s
  | .vnot core => Sys2Proof.Machine.execVnot core s
  | .vshl core => Sys2Proof.Machine.execVshl core s
  | .vshr core => Sys2Proof.Machine.execVshr core s
  | .vsra core => Sys2Proof.Machine.execVsra core s
  | .vadd core bad => Sys2Proof.Machine.execVadd core bad s
  | .vsub core bad => Sys2Proof.Machine.execVsub core bad s
  | .vmul core bad => Sys2Proof.Machine.execVmul core bad s
  | .vmulq core bad => Sys2Proof.Machine.execVmulq core bad s
  | .vmin core => Sys2Proof.Machine.execVmin core s
  | .vmax core => Sys2Proof.Machine.execVmax core s
  | .vcmp core => Sys2Proof.Machine.execVcmp core s
  | .vsel core => Sys2Proof.Machine.execVsel core s
  | .vcvt core bad => Sys2Proof.Machine.execVcvt core bad s
  | .vlut core => Sys2Proof.Machine.execVlut core s
  | .vclz core => Sys2Proof.Machine.execVclz core s
  | .vred core bad => Sys2Proof.Machine.execVred core bad s
  | .vspls core => Sys2Proof.Machine.execVspls core s
  | .vcap core => Sys2Proof.Machine.execVcap core s
  | .vsig core => Sys2Proof.Machine.execVsig core s
  | .vwait core => Sys2Proof.Machine.execVwait core s
  | .vwaitEnd core => Sys2Proof.Machine.execVwaitEnd core s
  | .vwaitlong core => Sys2Proof.Machine.execVwaitlong core s
  | .vsetl core => Sys2Proof.Machine.execVsetl core s
  | .vloop core => Sys2Proof.Machine.execVloop core s
  | .vend core => Sys2Proof.Machine.execVend core s
  | .seLoad src dst crcBad => Sys2Proof.Machine.execSeLoad src dst crcBad s
  | .seSetwd src dst crcBad => Sys2Proof.Machine.execSeSetwd src dst crcBad s
  | .seSetp src dst crcBad => Sys2Proof.Machine.execSeSetp src dst crcBad s
  | .seAbort src dst crcBad => Sys2Proof.Machine.execSeAbort src dst crcBad s
  | .seAborted core se => Sys2Proof.Machine.execSeAborted core se s
  | .seStart src dst crcBad => Sys2Proof.Machine.execSeStart src dst crcBad s
  | .seQuery src dst crcBad => Sys2Proof.Machine.execSeQuery src dst crcBad s
  | .seStat src dst crcBad => Sys2Proof.Machine.execSeStat src dst crcBad s
  | .snop core se => Sys2Proof.Machine.execSnop core se s
  | .setm core se => Sys2Proof.Machine.execSetm core se s
  | .sets core se => Sys2Proof.Machine.execSets core se s
  | .setc core se => Sys2Proof.Machine.execSetc core se s
  | .limit core se => Sys2Proof.Machine.execLimit core se s
  | .strm core se => Sys2Proof.Machine.execStrm core se s
  | .strc core se => Sys2Proof.Machine.execStrc core se s
  | .loop core se => Sys2Proof.Machine.execLoop core se s
  | .endl core se => Sys2Proof.Machine.execEndl core se s
  | .shape core se => Sys2Proof.Machine.execShape core se s
  | .fill core se lines => Sys2Proof.Machine.execFill core se lines s
  | .drain core se upset lines => Sys2Proof.Machine.execDrain core se upset lines s
  | .feed core se upset => Sys2Proof.Machine.execFeed core se upset s
  | .collect core se => Sys2Proof.Machine.execCollect core se s
  | .streamTransferComplete core se id => Sys2Proof.Machine.execStreamTransferComplete core se id s
  | .sig core se => Sys2Proof.Machine.execSig core se s
  | .wait core se => Sys2Proof.Machine.execWait core se s
  | .streamWaitEnd core se => Sys2Proof.Machine.execStreamWaitEnd core se s
  | .cfg core se => Sys2Proof.Machine.execCfg core se s
  | .endProg core se => Sys2Proof.Machine.execEndProg core se s
  | .sdone core se => Sys2Proof.Machine.execSdone core se s
  | .swatch core se => Sys2Proof.Machine.execSwatch core se s
  | .streamReadError core se id => Sys2Proof.Machine.execStreamReadError core se id s
  | .sliceWritebackDone group bad => Sys2Proof.Machine.execSliceWritebackDone group bad s
  | .notice src dst crcBad => Sys2Proof.Machine.execNotice src dst crcBad s
  | .flag src dst crcBad => Sys2Proof.Machine.execFlag src dst crcBad s
  | .fwMsg src dst crcBad => Sys2Proof.Machine.execFwMsg src dst crcBad s
  | .txGo sector => Sys2Proof.Machine.execTxGo sector s
  | .rxPop sector => Sys2Proof.Machine.execRxPop sector s
  | .cntCreate src crcBad => Sys2Proof.Machine.execCntCreate src crcBad s
  | .cntClaim src crcBad => Sys2Proof.Machine.execCntClaim src crcBad s
  | .claimHeldAnswer cnt => Sys2Proof.Machine.execClaimHeldAnswer cnt s
  | .cntRetire src crcBad => Sys2Proof.Machine.execCntRetire src crcBad s
  | .cntWithdraw src crcBad => Sys2Proof.Machine.execCntWithdraw src crcBad s
  | .cntQuery src crcBad => Sys2Proof.Machine.execCntQuery src crcBad s
  | .cntDestroy src crcBad => Sys2Proof.Machine.execCntDestroy src crcBad s
  | .cntRsp dst crcBad => Sys2Proof.Machine.execCntRsp dst crcBad s
  | .layerStart part run img layer cnt tag => Sys2Proof.Machine.execLayerStart part run img layer cnt tag s
  | .layerComplete part run img layer cnt => Sys2Proof.Machine.execLayerComplete part run img layer cnt s
  | .promptCheck rte => Sys2Proof.Machine.execPromptCheck rte s
  | .prefillChunkStart rte count pages => Sys2Proof.Machine.execPrefillChunkStart rte count pages s
  | .prefillChunkCommit part => Sys2Proof.Machine.execPrefillChunkCommit part s
  | .decodeStepStart part pages bad => Sys2Proof.Machine.execDecodeStepStart part pages bad s
  | .decodeStepOutput part => Sys2Proof.Machine.execDecodeStepOutput part s
  | .decodeStepCommit part => Sys2Proof.Machine.execDecodeStepCommit part s
  | .streamEntryWrite rte => Sys2Proof.Machine.execStreamEntryWrite rte s
  | .completionWrite fn cq => Sys2Proof.Machine.execCompletionWrite fn cq s
  | .recordRingWrite part => Sys2Proof.Machine.execRecordRingWrite part s
  | .steeringBindComplete cmd off => Sys2Proof.Machine.execSteeringBindComplete cmd off s
  | .halfDispatch part xl half pos0 chunk => Sys2Proof.Machine.execHalfDispatch part xl half pos0 chunk s
  | .jobArrival part chip spart => Sys2Proof.Machine.execJobArrival part chip spart s
  | .jobComplete part chip spart => Sys2Proof.Machine.execJobComplete part chip spart s
  | .resultArrival part xl half chip => Sys2Proof.Machine.execResultArrival part xl half chip s
  | .texchExpiry part xl half => Sys2Proof.Machine.execTexchExpiry part xl half s
  | .xlimitExpiry part xl half => Sys2Proof.Machine.execXlimitExpiry part xl half s
  | .memoryReadReturn off errs errs2 tier1 => Sys2Proof.Machine.execMemoryReadReturn off errs errs2 tier1 s
  | .tier1ReadLate off => Sys2Proof.Machine.execTier1ReadLate off s
  | .periodicRefresh sub row => Sys2Proof.Machine.execPeriodicRefresh sub row s
  | .rfmRequest sub bank => Sys2Proof.Machine.execRfmRequest sub bank s
  | .maintenanceWindow group => Sys2Proof.Machine.execMaintenanceWindow group s
  | .periodicCalibration sub ok => Sys2Proof.Machine.execPeriodicCalibration sub ok s
  | .patrolScrub sub errs errs2 => Sys2Proof.Machine.execPatrolScrub sub errs errs2 s
  | .sramScrub utype unit word bits => Sys2Proof.Machine.execSramScrub utype unit word bits s
  | .opticalBiasCalibration port lane => Sys2Proof.Machine.execOpticalBiasCalibration port lane s
  | .ageingMeasurement sector count => Sys2Proof.Machine.execAgeingMeasurement sector count s
  | .hostlimExpiry read => Sys2Proof.Machine.execHostlimExpiry read s
  | .pcieCompletionTimeout read => Sys2Proof.Machine.execPcieCompletionTimeout read s
  | .hostErrorCompletion read => Sys2Proof.Machine.execHostErrorCompletion read s
  | .linkLeavesDlActive => Sys2Proof.Machine.execLinkLeavesDlActive s
  | .rd port => Sys2Proof.Machine.execRd port s
  | .wr port => Sys2Proof.Machine.execWr port s
  | .rdata port => Sys2Proof.Machine.execRdata port s
  | .wack port => Sys2Proof.Machine.execWack port s
  | .peerlimExpiry tag => Sys2Proof.Machine.execPeerlimExpiry tag s
  | .segment part slot => Sys2Proof.Machine.execSegment part slot s
  | .ack part slot => Sys2Proof.Machine.execAck part slot s
  | .nack part slot => Sys2Proof.Machine.execNack part slot s
  | .chainAbort part slot => Sys2Proof.Machine.execChainAbort part slot s
  | .chainPredecessorSilent part slot => Sys2Proof.Machine.execChainPredecessorSilent part slot s
  | .pollPass => Sys2Proof.Machine.execPollPass s
  | .doorbellLineRead fn line data => Sys2Proof.Machine.execDoorbellLineRead fn line data s
  | .descriptorFetch fn data => Sys2Proof.Machine.execDescriptorFetch fn data s
  | .queueCreate fn => Sys2Proof.Machine.execQueueCreate fn s
  | .queueDelete fn => Sys2Proof.Machine.execQueueDelete fn s
  | .recordRingSet fn => Sys2Proof.Machine.execRecordRingSet fn s
  | .telemetryReadDrops fn => Sys2Proof.Machine.execTelemetryReadDrops fn s
  | .telemetryReadEnergy fn => Sys2Proof.Machine.execTelemetryReadEnergy fn s
  | .partCreate fn => Sys2Proof.Machine.execPartCreate fn s
  | .partDestroy fn => Sys2Proof.Machine.execPartDestroy fn s
  | .capSet fn => Sys2Proof.Machine.execCapSet fn s
  | .requestOpen fn => Sys2Proof.Machine.execRequestOpen fn s
  | .requestCancel fn => Sys2Proof.Machine.execRequestCancel fn s
  | .steeringBind fn => Sys2Proof.Machine.execSteeringBind fn s
  | .modelSelect fn => Sys2Proof.Machine.execModelSelect fn s
  | .modelSelectComplete part => Sys2Proof.Machine.execModelSelectComplete part s
  | .modelChain fn => Sys2Proof.Machine.execModelChain fn s
  | .modelEvict fn => Sys2Proof.Machine.execModelEvict fn s
  | .imageRegister fn => Sys2Proof.Machine.execImageRegister fn s
  | .registrationDone part image key => Sys2Proof.Machine.execRegistrationDone part image key s
  | .graphRun fn => Sys2Proof.Machine.execGraphRun fn s
  | .copy fn => Sys2Proof.Machine.execCopy fn s
  | .copyComplete cmd => Sys2Proof.Machine.execCopyComplete cmd s
  | .fence fn => Sys2Proof.Machine.execFence fn s
  | .fenceRelease cmd => Sys2Proof.Machine.execFenceRelease cmd s
  | .counterOp fn => Sys2Proof.Machine.execCounterOp fn s
  | .aqenWrite fn on => Sys2Proof.Machine.execAqenWrite fn on s
  | .setupLock fn => Sys2Proof.Machine.execSetupLock fn s
  | .pollWrite fn ticks => Sys2Proof.Machine.execPollWrite fn ticks s
  | .mbpop fn ch => Sys2Proof.Machine.execMbpop fn ch s
  | .txsend fn ch data => Sys2Proof.Machine.execTxsend fn ch data s
  | .mbox src dst crcBad => Sys2Proof.Machine.execMbox src dst crcBad s
  | .registerWrite space unit off value => Sys2Proof.Machine.execRegisterWrite space unit off value s
  | .msixVectorUnmask fn vec => Sys2Proof.Machine.execMsixVectorUnmask fn vec s
  | .imodTimerExpiry fn ring => Sys2Proof.Machine.execImodTimerExpiry fn ring s
  | .vfFlr fn => Sys2Proof.Machine.execVfFlr fn s
  | .vfEnableClear => Sys2Proof.Machine.execVfEnableClear s
  | .pfFlr => Sys2Proof.Machine.execPfFlr s
  | .flitReceive port flit fecBad => Sys2Proof.Machine.execFlitReceive port flit fecBad s
  | .nak port ack => Sys2Proof.Machine.execNak port ack s
  | .ackIdleTimer port => Sys2Proof.Machine.execAckIdleTimer port s
  | .ackStallTimeout port => Sys2Proof.Machine.execAckStallTimeout port s
  | .laneLockLoss port => Sys2Proof.Machine.execLaneLockLoss port s
  | .portRelock port record => Sys2Proof.Machine.execPortRelock port record s
  | .retrainTimeout port => Sys2Proof.Machine.execRetrainTimeout port s
  | .downRetry port => Sys2Proof.Machine.execDownRetry port s
  | .portLock port => Sys2Proof.Machine.execPortLock port s
  | .identSend port => Sys2Proof.Machine.execIdentSend port s
  | .ident port => Sys2Proof.Machine.execIdent port s
  | .noRecord port => Sys2Proof.Machine.execNoRecord port s
  | .unitErrorRecovery => Sys2Proof.Machine.execUnitErrorRecovery s
  | .selfTestDone utype unit pass => Sys2Proof.Machine.execSelfTestDone utype unit pass s
  | .returnTestStart utype unit => Sys2Proof.Machine.execReturnTestStart utype unit s
  | .enAssert => Sys2Proof.Machine.execEnAssert s
  | .enDeassert => Sys2Proof.Machine.execEnDeassert s
  | .powerGood => Sys2Proof.Machine.execPowerGood s
  | .railStartFail rail => Sys2Proof.Machine.execRailStartFail rail s
  | .railOutOfWindow rail => Sys2Proof.Machine.execRailOutOfWindow rail s
  | .inputUndervoltage vin => Sys2Proof.Machine.execInputUndervoltage vin s
  | .inputCollapse vin => Sys2Proof.Machine.execInputCollapse vin s
  | .inputRestart vin => Sys2Proof.Machine.execInputRestart vin s
  | .inputOvervoltage vin => Sys2Proof.Machine.execInputOvervoltage vin s
  | .pfwRecognised => Sys2Proof.Machine.execPfwRecognised s
  | .pfwPowerOff => Sys2Proof.Machine.execPfwPowerOff s
  | .droopTrip domain => Sys2Proof.Machine.execDroopTrip domain s
  | .droopRelease domain held => Sys2Proof.Machine.execDroopRelease domain held s
  | .powerSample watts uj => Sys2Proof.Machine.execPowerSample watts uj s
  | .governorAction => Sys2Proof.Machine.execGovernorAction s
  | .floorPaceClimb => Sys2Proof.Machine.execFloorPaceClimb s
  | .departureReturn => Sys2Proof.Machine.execDepartureReturn s
  | .thermalSample sensors inlet outlet => Sys2Proof.Machine.execThermalSample sensors inlet outlet s
  | .thermalStopEnd => Sys2Proof.Machine.execThermalStopEnd s
  | .hardwareTrip => Sys2Proof.Machine.execHardwareTrip s
  | .heartbeatLost => Sys2Proof.Machine.execHeartbeatLost s
  | .perstAssert => Sys2Proof.Machine.execPerstAssert s
  | .bootStart failed => Sys2Proof.Machine.execBootStart failed s
  | .lpddr6TrainingDone => Sys2Proof.Machine.execLpddr6TrainingDone s
  | .bundleRegister req => Sys2Proof.Machine.execBundleRegister req s
  | .bundleFetched => Sys2Proof.Machine.execBundleFetched s
  | .fuseProgramDone ok => Sys2Proof.Machine.execFuseProgramDone ok s
  | .bootRunning => Sys2Proof.Machine.execBootRunning s
  | .getVersion req => Sys2Proof.Machine.execGetVersion req s
  | .getCapabilities req => Sys2Proof.Machine.execGetCapabilities req s
  | .negotiateAlgorithms req => Sys2Proof.Machine.execNegotiateAlgorithms req s
  | .getDigests req => Sys2Proof.Machine.execGetDigests req s
  | .getCertificate req => Sys2Proof.Machine.execGetCertificate req s
  | .challenge req => Sys2Proof.Machine.execChallenge req s
  | .getMeasurements req => Sys2Proof.Machine.execGetMeasurements req s
  | .spdmUnsupportedRequest req => Sys2Proof.Machine.execSpdmUnsupportedRequest req s
  | .bootStatus req => Sys2Proof.Machine.execBootStatus req s
  | .sealRingSet req => Sys2Proof.Machine.execSealRingSet req s
  | .sealGet req => Sys2Proof.Machine.execSealGet req s
  | .epochTimeEnd part => Sys2Proof.Machine.execEpochTimeEnd part s
  | .epochSeal part => Sys2Proof.Machine.execEpochSeal part s
  | .sealRingWrite => Sys2Proof.Machine.execSealRingWrite s
  | .standbyUp ga => Sys2Proof.Machine.execStandbyUp ga s
  | .pewterReady => Sys2Proof.Machine.execPewterReady s
  | .standbyLoss => Sys2Proof.Machine.execStandbyLoss s
  | .setdasa addr => Sys2Proof.Machine.execSetdasa addr s
  | .entdaa addr => Sys2Proof.Machine.execEntdaa addr s
  | .i3cIndexWrite index => Sys2Proof.Machine.execI3cIndexWrite index s
  | .i3cRegisterWrite index value => Sys2Proof.Machine.execI3cRegisterWrite index value s
  | .heartbeat msg => Sys2Proof.Machine.execHeartbeat msg s
  | .settingsPut msg => Sys2Proof.Machine.execSettingsPut msg s
  | .planPut msg => Sys2Proof.Machine.execPlanPut msg s
  | .telemGet msg => Sys2Proof.Machine.execTelemGet msg s
  | .logGet msg => Sys2Proof.Machine.execLogGet msg s
  | .returnUnit msg => Sys2Proof.Machine.execReturnUnit msg s
  | .settingsGet msg => Sys2Proof.Machine.execSettingsGet msg s
  | .sring ch => Sys2Proof.Machine.execSring ch s
  | .sset ch => Sys2Proof.Machine.execSset ch s
  | .sstop ch => Sys2Proof.Machine.execSstop ch s
  | .sampleTick fn set values => Sys2Proof.Machine.execSampleTick fn set values s
  | .hostReadCompletion read data => Sys2Proof.Machine.execHostReadCompletion read data s
  | .hostLinkDlActive => Sys2Proof.Machine.execHostLinkDlActive s
  | .vfEnableSet => Sys2Proof.Machine.execVfEnableSet s
  | .partCreateComplete part => Sys2Proof.Machine.execPartCreateComplete part s
  | .cobaltTimerCompare sector => Sys2Proof.Machine.execCobaltTimerCompare sector s
  | .startRampPaceStep => Sys2Proof.Machine.execStartRampPaceStep s
  | .rackManagerMalformed msg => Sys2Proof.Machine.execRackManagerMalformed msg s

end Sys2Proof.Machine
end

