-- ==== Sys2Proof/Machine/SoftFloat.lean ====
section
/-! DEFINITION. IEEE 754 binary32 and binary64 as RISC-V's F and D extensions use them (R75): the five rounding modes and the
accrued exception flags. PRESUMED: log entry 14. -/

namespace Sys2Proof.Machine

/-- A binary format: stored significand bits and exponent bits. -/
structure FSpec where
  m : Nat
  e : Nat
  deriving DecidableEq, Repr

def fSingle : FSpec := ⟨23, 8⟩
def fDouble : FSpec := ⟨52, 11⟩

namespace FSpec
def width (f : FSpec) : Nat := f.m + f.e + 1
def bias (f : FSpec) : Nat := 2 ^ (f.e - 1) - 1
/-- Exponent of the least normal number. -/
def emin (f : FSpec) : Int := 1 - (f.bias : Int)
def inf (f : FSpec) (s : Bool) : Nat := b2n s * 2 ^ (f.m + f.e) + (2 ^ f.e - 1) * 2 ^ f.m
def zero (f : FSpec) (s : Bool) : Nat := b2n s * 2 ^ (f.m + f.e)
def big (f : FSpec) (s : Bool) : Nat := f.inf s - 1
def qnan (f : FSpec) : Nat := f.inf false + 2 ^ (f.m - 1)
end FSpec

/-- A datum: a NaN, an infinity, or `(-1)^s * sig * 2^e`. -/
inductive FV where
  | nan (signalling : Bool)
  | inf (s : Bool)
  | num (s : Bool) (sig : Nat) (e : Int)
  deriving DecidableEq, Repr

def FV.isNan : FV → Bool | .nan _ => true | _ => false
def FV.isSnan : FV → Bool | .nan q => q | _ => false
def FV.sign : FV → Bool | .nan _ => false | .inf s => s | .num s _ _ => s
def FV.neg : FV → FV | .nan q => .nan q | .inf s => .inf (!s) | .num s g e => .num (!s) g e

def fvOf (f : FSpec) (x : Nat) : FV :=
  let s := bit x (f.m + f.e)
  let ef := bits x f.m f.e
  let mf := bits x 0 f.m
  if ef = 2 ^ f.e - 1 then (if mf = 0 then .inf s else .nan (!bit mf (f.m - 1)))
  else if ef = 0 then .num s mf (f.emin - f.m)
  else .num s (2 ^ f.m + mf) ((ef : Int) - f.bias - f.m)

/-- Exception flags: NX, UF, OF, DZ, NV. -/
def fNX : Nat := 1
def fUF : Nat := 2
def fOF : Nat := 4
def fDZ : Nat := 8
def fNV : Nat := 16

/-- A result with the flags it raises. -/
abbrev FRes := Nat × Nat

/-- `sig * 2^e`, and a little more when `sticky`, cut at weight `2^q`: the rounded multiple, and whether it is inexact. Rounding
modes: 0 RNE, 1 RTZ, 2 RDN, 3 RUP, 4 RMM. -/
def cutAt (rm : Nat) (s : Bool) (sig : Nat) (e : Int) (sticky : Bool) (q : Int) : Nat × Bool :=
  if q ≤ e then (sig * 2 ^ (e - q).toNat + b2n (sticky && ((rm == 2 && s) || (rm == 3 && !s))), sticky)
  else
    let d := 2 ^ (q - e).toNat
    let k := sig / d
    let r := sig % d
    let inexact := r != 0 || sticky
    let gt := decide (d < 2 * r) || (2 * r == d && sticky)
    let tie := 2 * r == d && !sticky
    let up := match rm with
      | 0 => gt || (tie && k % 2 == 1)
      | 2 => inexact && s
      | 3 => inexact && !s
      | 4 => gt || tie
      | _ => false
    (k + b2n up, inexact)

/-- The rounded value of `(-1)^s * sig * 2^e`, `sig > 0`; `sticky` says that a little more was cut off. -/
def roundTo (f : FSpec) (rm : Nat) (s : Bool) (sig : Nat) (e : Int) (sticky : Bool) : FRes :=
  let t := (Nat.log2 sig : Int) + e
  let q := max t f.emin - f.m
  let r := cutAt rm s sig e sticky q
  let free := cutAt rm s sig e sticky (t - f.m)
  let tiny := decide ((Nat.log2 free.1 : Int) + (t - f.m) < f.emin)
  if r.1 = 0 then (f.zero s, if r.2 then fNX + fUF else 0)
  else if (f.bias : Int) < (Nat.log2 r.1 : Int) + q then
    (if rm = 1 ∨ (rm = 2 ∧ !s) ∨ (rm = 3 ∧ s) then f.big s else f.inf s, fOF + fNX)
  else (f.zero s + ((q + f.m + f.bias - 1).toNat * 2 ^ f.m + r.1), (if r.2 then fNX else 0) + (if r.2 && tiny then fUF else 0))

def roundFV (f : FSpec) (rm : Nat) : FV → FRes
  | .nan q => (f.qnan, if q then fNV else 0)
  | .inf s => (f.inf s, 0)
  | .num s sig e => if sig = 0 then (f.zero s, 0) else roundTo f rm s sig e false

/-- The exact value of a number as a multiple of `2^lo`. -/
def scaled (s : Bool) (sig : Nat) (e lo : Int) : Int :=
  let v : Int := (sig * 2 ^ (e - lo).toNat : Nat)
  if s then -v else v

/-- An exact product. -/
def mulFV : FV → FV → FV
  | .nan a, y => .nan (a || y.isSnan)
  | x, .nan b => .nan (x.isSnan || b)
  | .inf s, .inf t => .inf (s ^^ t)
  | .inf s, .num t g _ => if g = 0 then .nan true else .inf (s ^^ t)
  | .num t g _, .inf s => if g = 0 then .nan true else .inf (s ^^ t)
  | .num s a e, .num t b k => .num (s ^^ t) (a * b) (e + k)

/-- An exact sum; of an exact zero the sign follows the rounding mode. -/
def addFV (rm : Nat) : FV → FV → FV
  | .nan a, y => .nan (a || y.isSnan)
  | x, .nan b => .nan (x.isSnan || b)
  | .inf s, .inf t => if s = t then .inf s else .nan true
  | .inf s, .num _ _ _ => .inf s
  | .num _ _ _, .inf s => .inf s
  | .num s a e, .num t b k =>
    let lo := min e k
    let v := scaled s a e lo + scaled t b k lo
    if v = 0 then .num (if s = t then s else rm == 2) 0 0 else .num (decide (v < 0)) v.natAbs lo

def fAdd (f : FSpec) (rm a b : Nat) : FRes := roundFV f rm (addFV rm (fvOf f a) (fvOf f b))
def fSub (f : FSpec) (rm a b : Nat) : FRes := roundFV f rm (addFV rm (fvOf f a) (fvOf f b).neg)
def fMul (f : FSpec) (rm a b : Nat) : FRes := roundFV f rm (mulFV (fvOf f a) (fvOf f b))

/-- `(±a) * b + (±c)`, rounded once; infinity times zero is invalid even beside a quiet NaN. -/
def fFma (f : FSpec) (rm : Nat) (np nc : Bool) (a b c : Nat) : FRes :=
  let p := mulFV (fvOf f a) (fvOf f b)
  let z := fvOf f c
  let bad := p.isSnan || z.isSnan
  let r := roundFV f rm (addFV rm (if np then p.neg else p) (if nc then z.neg else z))
  (r.1, if bad then fNV else r.2)

def fDiv (f : FSpec) (rm a b : Nat) : FRes :=
  match fvOf f a, fvOf f b with
  | .nan p, y => (f.qnan, if p || y.isSnan then fNV else 0)
  | x, .nan q => (f.qnan, if x.isSnan || q then fNV else 0)
  | .inf _, .inf _ => (f.qnan, fNV)
  | .inf s, .num t _ _ => (f.inf (s ^^ t), 0)
  | .num s _ _, .inf t => (f.zero (s ^^ t), 0)
  | .num s x e, .num t y k =>
    if y = 0 then (if x = 0 then (f.qnan, fNV) else (f.inf (s ^^ t), fDZ))
    else if x = 0 then (f.zero (s ^^ t), 0)
    else
      let n := f.m + 3 + Nat.log2 y + 1
      let z := x * 2 ^ n
      roundTo f rm (s ^^ t) (z / y) (e - k - n) (z % y != 0)

/-- The integer square root, by its bits from `n` down. -/
def isqrt (x : Nat) : Nat → Nat → Nat
  | 0, r => r
  | n + 1, r => if (r + 2 ^ n) * (r + 2 ^ n) ≤ x then isqrt x n (r + 2 ^ n) else isqrt x n r

def fSqrt (f : FSpec) (rm a : Nat) : FRes :=
  match fvOf f a with
  | .nan q => (f.qnan, if q then fNV else 0)
  | .inf s => if s then (f.qnan, fNV) else (f.inf false, 0)
  | .num s x e =>
    if x = 0 then (f.zero s, 0)
    else if s then (f.qnan, fNV)
    else
      let n := 2 * (f.m + 3) + (e % 2).toNat
      let z := x * 2 ^ n
      let r := isqrt z (Nat.log2 z / 2 + 1) 0
      roundTo f rm false r ((e - n) / 2) (r * r != z)

/-- A total order of numbers as integers scaled alike; zeros equal. -/
def fvLt : FV → FV → Bool
  | .inf s, .inf t => s && !t
  | .inf s, .num _ _ _ => s
  | .num _ _ _, .inf t => !t
  | .num s a e, .num t b k => decide (scaled s a e (min e k) < scaled t b k (min e k))
  | _, _ => false
def fvEq : FV → FV → Bool
  | .inf s, .inf t => s == t
  | .num s a e, .num t b k => decide (scaled s a e (min e k) = scaled t b k (min e k))
  | _, _ => false

/-- FEQ, FLT, FLE: FEQ is quiet, the others signal on any NaN. -/
def fCmp (f : FSpec) (op a b : Nat) : FRes :=
  let x := fvOf f a
  let y := fvOf f b
  if x.isNan || y.isNan then (0, if op ≠ 2 ∨ x.isSnan ∨ y.isSnan then fNV else 0)
  else (b2n (if op = 2 then fvEq x y else if op = 1 then fvLt x y else fvLt x y || fvEq x y), 0)

/-- FMIN and FMAX: of a number and a NaN the number, and -0 below +0. -/
def fMinMax (f : FSpec) (mx : Bool) (a b : Nat) : FRes :=
  let x := fvOf f a
  let y := fvOf f b
  let fl := if x.isSnan || y.isSnan then fNV else 0
  if x.isNan then (if y.isNan then f.qnan else b, fl)
  else if y.isNan then (a, fl)
  else
    let less := fvLt x y || (fvEq x y && x.sign && !y.sign)
    (if less == mx then b else a, fl)

/-- FCLASS. -/
def fClass (f : FSpec) (a : Nat) : Nat :=
  let sub := bits a f.m f.e == 0
  match fvOf f a with
  | .nan q => if q then 2 ^ 8 else 2 ^ 9
  | .inf s => if s then 1 else 2 ^ 7
  | .num s g _ =>
    if g = 0 then (if s then 2 ^ 3 else 2 ^ 4)
    else if sub then (if s then 2 ^ 2 else 2 ^ 5)
    else (if s then 2 else 2 ^ 6)

/-- A conversion to an integer of `w` bits: out of range and NaN give the limit, with NV. -/
def fToInt (f : FSpec) (rm w : Nat) (signed : Bool) (a : Nat) : Nat × Nat :=
  let lo : Int := if signed then -(2 ^ (w - 1) : Nat) else 0
  let hi : Int := if signed then (2 ^ (w - 1) : Nat) - 1 else (2 ^ w : Nat) - 1
  match fvOf f a with
  | .nan _ => (wrapInt w hi, fNV)
  | .inf s => (wrapInt w (if s then lo else hi), fNV)
  | .num s g e =>
    let r := if g = 0 then (0, false) else cutAt rm s g e false 0
    let v : Int := if s then -(r.1 : Int) else r.1
    if v < lo then (wrapInt w lo, fNV) else if hi < v then (wrapInt w hi, fNV) else (wrapInt w v, if r.2 then fNX else 0)

/-- A conversion from an integer. -/
def fOfInt (f : FSpec) (rm : Nat) (v : Int) : FRes :=
  if v = 0 then (f.zero false, 0) else roundTo f rm (decide (v < 0)) v.natAbs 0 false

/-- A conversion between the two formats. -/
def fConv (src dst : FSpec) (rm a : Nat) : FRes := roundFV dst rm (fvOf src a)

end Sys2Proof.Machine
end

