-- ==== Sys2Proof/Machine/Riscv.lean ====
section
/-! DEFINITION. RV64GC (R148), the parts without memory: fields, compressed instructions, integer and floating-point results.
PRESUMED: log entry 14. -/

namespace Sys2Proof.Machine

/-! ### Fields and immediates of a 32-bit instruction -/

def rvOp (w : Nat) : Nat := bits w 0 7
def rvRd (w : Nat) : Nat := bits w 7 5
def rvF3 (w : Nat) : Nat := bits w 12 3
def rvRs1 (w : Nat) : Nat := bits w 15 5
def rvRs2 (w : Nat) : Nat := bits w 20 5
def rvF7 (w : Nat) : Nat := bits w 25 7
def immI (w : Nat) : Int := sext 12 (bits w 20 12)
def immS (w : Nat) : Int := sext 12 (32 * bits w 25 7 + bits w 7 5)
def immB (w : Nat) : Int := sext 13 (4096 * bits w 31 1 + 2048 * bits w 7 1 + 32 * bits w 25 6 + 2 * bits w 8 4)
def immU (w : Nat) : Int := sext 32 (4096 * bits w 12 20)
def immJ (w : Nat) : Int := sext 21 (2 ^ 20 * bits w 31 1 + 4096 * bits w 12 8 + 2048 * bits w 20 1 + 2 * bits w 21 10)

/-! ### Instructions put together, for the compressed forms -/

def mkI (op f3 rd rs1 imm : Nat) : Nat := op + 128 * rd + 4096 * f3 + 32768 * rs1 + 2 ^ 20 * (imm % 4096)
def mkR (op f3 f7 rd rs1 rs2 : Nat) : Nat := op + 128 * rd + 4096 * f3 + 32768 * rs1 + 2 ^ 20 * rs2 + 2 ^ 25 * f7
def mkS (op f3 rs1 rs2 imm : Nat) : Nat :=
  op + 128 * (imm % 32) + 4096 * f3 + 32768 * rs1 + 2 ^ 20 * rs2 + 2 ^ 25 * (imm / 32 % 128)
def mkU (op rd imm20 : Nat) : Nat := op + 128 * rd + 4096 * (imm20 % 2 ^ 20)
def mkJ (rd imm : Nat) : Nat :=
  0x6F + 128 * rd + 4096 * bits imm 12 8 + 2 ^ 20 * bits imm 11 1 + 2 ^ 21 * bits imm 1 10 + 2 ^ 31 * bits imm 20 1
def mkB (f3 rs1 rs2 imm : Nat) : Nat :=
  0x63 + 128 * bits imm 11 1 + 256 * bits imm 1 4 + 4096 * f3 + 32768 * rs1 + 2 ^ 20 * rs2 + 2 ^ 25 * bits imm 5 6 +
    2 ^ 31 * bits imm 12 1

/-- A two's complement code of `n` bits as one of `m` bits. -/
def widen (n m c : Nat) : Nat := wrapInt m (sext n c)

/-- Quadrant 0: stack-pointer and register-based accesses. -/
def rvc0 (h : Nat) : Option Nat :=
  let rd := 8 + bits h 2 3
  let rs := 8 + bits h 7 3
  let u8 := 8 * bits h 10 3 + 64 * bits h 5 2
  let u4 := 8 * bits h 10 3 + 4 * bits h 6 1 + 64 * bits h 5 1
  match bits h 13 3 with
  | 0 =>
    let i := 16 * bits h 11 2 + 64 * bits h 7 4 + 4 * bits h 6 1 + 8 * bits h 5 1
    if i = 0 then none else some (mkI 0x13 0 rd 2 i)
  | 1 => some (mkI 0x07 3 rd rs u8)
  | 2 => some (mkI 0x03 2 rd rs u4)
  | 3 => some (mkI 0x03 3 rd rs u8)
  | 5 => some (mkS 0x27 3 rs rd u8)
  | 6 => some (mkS 0x23 2 rs rd u4)
  | 7 => some (mkS 0x23 3 rs rd u8)
  | _ => none

/-- Quadrant 1: immediates, register arithmetic, jumps and branches. -/
def rvc1 (h : Nat) : Option Nat :=
  let rd := bits h 7 5
  let i6 := 32 * bits h 12 1 + bits h 2 5
  let i := widen 6 12 i6
  let r := 8 + bits h 7 3
  let r2 := 8 + bits h 2 3
  let j := widen 12 21 (2048 * bits h 12 1 + 16 * bits h 11 1 + 256 * bits h 9 2 + 1024 * bits h 8 1 + 64 * bits h 7 1 +
    128 * bits h 6 1 + 2 * bits h 3 3 + 32 * bits h 2 1)
  let b := widen 9 13 (256 * bits h 12 1 + 8 * bits h 10 2 + 64 * bits h 5 2 + 2 * bits h 3 2 + 32 * bits h 2 1)
  match bits h 13 3 with
  | 0 => some (mkI 0x13 0 rd rd i)
  | 1 => if rd = 0 then none else some (mkI 0x1B 0 rd rd i)
  | 2 => some (mkI 0x13 0 rd 0 i)
  | 3 =>
    if i6 = 0 then none
    else if rd = 2 then
      some (mkI 0x13 0 2 2 (widen 10 12 (512 * bits h 12 1 + 16 * bits h 6 1 + 64 * bits h 5 1 + 128 * bits h 3 2 + 32 * bits h 2 1)))
    else some (mkU 0x37 rd (widen 6 20 i6))
  | 4 => match bits h 10 2 with
    | 0 => some (mkI 0x13 5 r r i6)
    | 1 => some (mkI 0x13 5 r r (1024 + i6))
    | 2 => some (mkI 0x13 7 r r i)
    | _ => match bits h 12 1, bits h 5 2 with
      | 0, 0 => some (mkR 0x33 0 0x20 r r r2)
      | 0, 1 => some (mkR 0x33 4 0 r r r2)
      | 0, 2 => some (mkR 0x33 6 0 r r r2)
      | 0, 3 => some (mkR 0x33 7 0 r r r2)
      | 1, 0 => some (mkR 0x3B 0 0x20 r r r2)
      | 1, 1 => some (mkR 0x3B 0 0 r r r2)
      | _, _ => none
  | 5 => some (mkJ 0 j)
  | 6 => some (mkB 0 r 0 b)
  | _ => some (mkB 1 r 0 b)

/-- Quadrant 2: shifts, stack accesses, moves and register jumps. -/
def rvc2 (h : Nat) : Option Nat :=
  let rd := bits h 7 5
  let rs2 := bits h 2 5
  let l8 := 32 * bits h 12 1 + 8 * bits h 5 2 + 64 * bits h 2 3
  let l4 := 32 * bits h 12 1 + 4 * bits h 4 3 + 64 * bits h 2 2
  let s8 := 8 * bits h 10 3 + 64 * bits h 7 3
  let s4 := 4 * bits h 9 4 + 64 * bits h 7 2
  match bits h 13 3 with
  | 0 => some (mkI 0x13 1 rd rd (32 * bits h 12 1 + rs2))
  | 1 => some (mkI 0x07 3 rd 2 l8)
  | 2 => if rd = 0 then none else some (mkI 0x03 2 rd 2 l4)
  | 3 => if rd = 0 then none else some (mkI 0x03 3 rd 2 l8)
  | 4 =>
    if bits h 12 1 = 0 then
      (if rs2 = 0 then (if rd = 0 then none else some (mkI 0x67 0 0 rd 0)) else some (mkR 0x33 0 0 rd 0 rs2))
    else if rs2 = 0 then (if rd = 0 then some 0x00100073 else some (mkI 0x67 0 1 rd 0))
    else some (mkR 0x33 0 0 rd rd rs2)
  | 5 => some (mkS 0x27 3 2 rs2 s8)
  | 6 => some (mkS 0x23 2 2 rs2 s4)
  | _ => some (mkS 0x23 3 2 rs2 s8)

/-- The 32-bit instruction that a 16-bit one stands for; none for an illegal or reserved one. -/
def rvExpand (h : Nat) : Option Nat :=
  match h % 4 with
  | 0 => rvc0 h
  | 1 => rvc1 h
  | _ => rvc2 h

/-! ### Integer results -/

def sgn64 (n v : Nat) : Nat := widen n 64 v

/-- OP and OP-IMM: `alt` selects SUB and SRA. -/
def rvAlu (f3 : Nat) (alt : Bool) (a b : Nat) : Nat :=
  match f3 with
  | 0 => if alt then (a + 2 ^ 64 - b) % 2 ^ 64 else (a + b) % 2 ^ 64
  | 1 => a * 2 ^ (b % 64) % 2 ^ 64
  | 2 => b2n (decide (sext 64 a < sext 64 b))
  | 3 => b2n (decide (a < b))
  | 4 => (BitVec.ofNat 64 a ^^^ BitVec.ofNat 64 b).toNat
  | 5 => if alt then wrapInt 64 ((sext 64 a).fdiv ((2 ^ (b % 64) : Nat) : Int)) else a / 2 ^ (b % 64)
  | 6 => (BitVec.ofNat 64 a ||| BitVec.ofNat 64 b).toNat
  | _ => (BitVec.ofNat 64 a &&& BitVec.ofNat 64 b).toNat

/-- OP-32 and OP-IMM-32: ADDW, SUBW and the shifts of words. -/
def rvAluW (f3 : Nat) (alt : Bool) (a b : Nat) : Option Nat :=
  let x := a % 2 ^ 32
  let k := b % 32
  match f3 with
  | 0 => some (sgn64 32 (if alt then x + 2 ^ 32 - b % 2 ^ 32 else x + b))
  | 1 => some (sgn64 32 (x * 2 ^ k))
  | 5 => some (if alt then wrapInt 64 ((sext 32 x).fdiv ((2 ^ k : Nat) : Int)) else sgn64 32 (x / 2 ^ k))
  | _ => none

/-- Division and remainder of the M extension on `n`-bit operands; by zero the quotient is all ones and the remainder the dividend. -/
def rvDiv (n f3 a b : Nat) : Nat :=
  let sa := sext n a
  let sb := sext n b
  let x := a % 2 ^ n
  let y := b % 2 ^ n
  match f3 with
  | 4 => if y = 0 then 2 ^ n - 1 else wrapInt n (sa.tdiv sb)
  | 5 => if y = 0 then 2 ^ n - 1 else x / y
  | 6 => if y = 0 then x else wrapInt n (sa.tmod sb)
  | _ => if y = 0 then x else x % y

/-- The M extension. -/
def rvMul (f3 a b : Nat) : Nat :=
  match f3 with
  | 0 => a * b % 2 ^ 64
  | 1 => wrapInt 64 ((sext 64 a * sext 64 b).fdiv ((2 ^ 64 : Nat) : Int))
  | 2 => wrapInt 64 ((sext 64 a * (b : Int)).fdiv ((2 ^ 64 : Nat) : Int))
  | 3 => a * b / 2 ^ 64
  | _ => rvDiv 64 f3 a b

/-- The value that an AMO of `n` bits writes, from the old value and the operand. -/
def rvAmo (n f5 old v : Nat) : Option Nat :=
  let lt := decide (sext n old < sext n v)
  match f5 with
  | 0x01 => some v
  | 0x00 => some ((old + v) % 2 ^ n)
  | 0x04 => some (BitVec.ofNat 64 old ^^^ BitVec.ofNat 64 v).toNat
  | 0x0C => some (BitVec.ofNat 64 old &&& BitVec.ofNat 64 v).toNat
  | 0x08 => some (BitVec.ofNat 64 old ||| BitVec.ofNat 64 v).toNat
  | 0x10 => some (if lt then old else v)
  | 0x14 => some (if lt then v else old)
  | 0x18 => some (min old v)
  | 0x1C => some (max old v)
  | _ => none

/-- The condition of a branch. -/
def rvBranch (f3 a b : Nat) : Option Bool :=
  match f3 with
  | 0 => some (a == b)
  | 1 => some (a != b)
  | 4 => some (decide (sext 64 a < sext 64 b))
  | 5 => some (!decide (sext 64 a < sext 64 b))
  | 6 => some (decide (a < b))
  | 7 => some (!decide (a < b))
  | _ => none

/-! ### Floating-point results (F, D) -/

/-- What a floating-point instruction writes: an f or an x register, and flags. -/
inductive FOut where
  | toF (v : Nat)
  | toX (v : Nat)
  deriving DecidableEq, Repr

/-- A single in an f register is boxed in ones; a register not so boxed reads as the canonical NaN. -/
def unbox (f : FSpec) (v : Nat) : Nat := if f.width = 64 then v else if v / 2 ^ 32 = 2 ^ 32 - 1 then v % 2 ^ 32 else f.qnan
def box (f : FSpec) (v : Nat) : Nat := if f.width = 64 then v else 2 ^ 64 - 2 ^ 32 + v

/-- The format a two-bit field names. -/
def fspecOf (n : Nat) : Option FSpec := if n = 0 then some fSingle else if n = 1 then some fDouble else none

def resF (f : FSpec) (r : FRes) : Option (FOut × Nat) := some (.toF (box f r.1), r.2)
def resX (r : FRes) : Option (FOut × Nat) := some (.toX r.1, r.2)

/-- FSGNJ, FSGNJN, FSGNJX. -/
def fSgnj (f : FSpec) (f3 a b : Nat) : Option Nat :=
  let sb := bit b (f.width - 1)
  let sa := bit a (f.width - 1)
  let put := fun (s : Bool) => putBits a (f.width - 1) 1 (b2n s)
  match f3 with | 0 => some (put sb) | 1 => some (put (!sb)) | 2 => some (put (sa ^^ sb)) | _ => none

/-- OP-FP: `a` and `b` are the raw f registers, `x` the x register rs1, `rm` the rounding mode in force. None is illegal.
PRESUMED: log entry 14. -/
def rvFp (w rm a b x : Nat) : Option (FOut × Nat) :=
  (fspecOf (bits w 25 2)).bind (fun f =>
    let f3 := rvF3 w
    let rs2 := rvRs2 w
    let p := unbox f a
    let q := unbox f b
    let ok := decide (rm ≤ 4)
    match bits w 27 5 with
    | 0x00 => if ok then resF f (fAdd f rm p q) else none
    | 0x01 => if ok then resF f (fSub f rm p q) else none
    | 0x02 => if ok then resF f (fMul f rm p q) else none
    | 0x03 => if ok then resF f (fDiv f rm p q) else none
    | 0x0B => if ok && rs2 == 0 then resF f (fSqrt f rm p) else none
    | 0x04 => (fSgnj f f3 p q).map (fun v => (.toF (box f v), 0))
    | 0x05 => if f3 ≤ 1 then resF f (fMinMax f (f3 == 1) p q) else none
    | 0x08 => if ok && rs2 != bits w 25 2 then (fspecOf rs2).bind (fun g => resF f (fConv g f rm (unbox g a))) else none
    | 0x14 => if f3 ≤ 2 then resX (fCmp f f3 p q) else none
    | 0x18 =>
      if ok && decide (rs2 ≤ 3) then
        let n := if rs2 < 2 then 32 else 64
        let r := fToInt f rm n (rs2 % 2 == 0) p
        resX (sgn64 n r.1, r.2)
      else none
    | 0x1A =>
      if ok && decide (rs2 ≤ 3) then
        let n := if rs2 < 2 then 32 else 64
        resF f (fOfInt f rm (if rs2 % 2 = 0 then sext n x else ((x % 2 ^ n : Nat) : Int)))
      else none
    | 0x1C => if rs2 ≠ 0 then none else if f3 = 0 then resX (sgn64 f.width (a % 2 ^ f.width), 0) else if f3 = 1 then resX (fClass f p, 0) else none
    | 0x1E => if rs2 = 0 ∧ f3 = 0 then resF f (x % 2 ^ f.width, 0) else none
    | _ => none)

/-- FMADD, FMSUB, FNMSUB, FNMADD. -/
def rvFma (w rm a b c : Nat) : Option (FOut × Nat) :=
  (fspecOf (bits w 25 2)).bind (fun f =>
    let k := bits w 2 2
    if rm ≤ 4 then resF f (fFma f rm (decide (2 ≤ k)) (k == 1 || k == 3) (unbox f a) (unbox f b) (unbox f c)) else none)

end Sys2Proof.Machine
end

