-- ==== Sys2Proof/Machine/Cobalt.lean ====
section
/-! DEFINITION. A Cobalt core runs its program (R75, R148, R149): its address map, machine and user mode, traps, PMP, and one
instruction. The spec names RV64GC and gives the address map, the `time` CSR and the access faults; the instruction set itself is
RISC-V's. PRESUMED: log entry 14. -/

namespace Sys2Proof.Machine

/-! ### Registers -/

def rx (c : Cobalt) (i : Nat) : Nat := if i = 0 then 0 else (SGet 0#64 c.x i).toNat
def wx (c : Cobalt) (i v : Nat) : Cobalt := if i = 0 then c else { c with x := SSet 0#64 c.x i (BitVec.ofNat 64 v) }
def rf (c : Cobalt) (i : Nat) : Nat := (SGet 0#64 c.f i).toNat
def csrRaw (c : Cobalt) (n : Nat) : Nat := (SGet 0#64 c.csrs n).toNat
def csrSet (c : Cobalt) (n v : Nat) : Cobalt := { c with csrs := SSet 0#64 c.csrs n (BitVec.ofNat 64 v) }

/-- Numbers of CSRs that the core itself acts on. -/
def csrStatus : Nat := 0x300
def csrIe : Nat := 0x304
def csrTvec : Nat := 0x305
def csrEpc : Nat := 0x341
def csrCause : Nat := 0x342
def csrTval : Nat := 0x343

/-- FS of mstatus: 0 off, 3 dirty. -/
def rvFs (c : Cobalt) : Nat := bits (csrRaw c csrStatus) 13 2
def fsDirty (c : Cobalt) : Cobalt := csrSet c csrStatus (putBits (csrRaw c csrStatus) 13 2 3)

/-- Flags accrue in fflags. -/
def accrue (c : Cobalt) (fl : Nat) : Cobalt :=
  if fl = 0 then c else fsDirty (csrSet c 1 ((BitVec.ofNat 64 (csrRaw c 1) ||| BitVec.ofNat 64 fl).toNat))
def wf (c : Cobalt) (i v : Nat) : Cobalt := fsDirty { c with f := SSet 0#64 c.f i (BitVec.ofNat 64 v) }

/-! ### Physical memory protection -/

/-- The range of PMP entry `i`, none when it is off. -/
def pmpRange (c : Cobalt) (i : Nat) : Option (Nat × Nat) :=
  let cfg := bits (csrRaw c (0x3A0 + i / 8 * 2)) (8 * (i % 8)) 8
  let a := csrRaw c (0x3B0 + i)
  let k := ((List.range 54).find? (fun j => !bit a j)).getD 54
  match bits cfg 3 2 with
  | 0 => none
  | 1 => some (if i = 0 then 0 else 4 * csrRaw c (0x3AF + i), 4 * a)
  | 2 => some (4 * a, 4 * a + 4)
  | _ => some (4 * (a - a % 2 ^ (k + 1)), 4 * (a - a % 2 ^ (k + 1)) + 2 ^ (k + 3))

/-- An access of kind 0 read, 1 write, 2 execute of `n` bytes is permitted: the lowest entry that matches a byte must match all of
them, and binds machine mode only when locked; with no match only machine mode may access. -/
def pmpOk (c : Cobalt) (user : Bool) (kind a n : Nat) : Bool :=
  match (List.range 16).findSome? (fun i => (pmpRange c i).bind (fun r =>
      if a < r.2 ∧ r.1 < a + n then some (i, decide (r.1 ≤ a ∧ a + n ≤ r.2)) else none)) with
  | none => !user
  | some (i, whole) =>
    let cfg := bits (csrRaw c (0x3A0 + i / 8 * 2)) (8 * (i % 8)) 8
    whole && ((!user && !bit cfg 7) || bit cfg kind)

/-- The mode in which a load or store is checked: MPRV takes that of MPP. -/
def dataUser (c : Cobalt) : Bool :=
  if !c.user && bit (csrRaw c csrStatus) 17 then bits (csrRaw c csrStatus) 11 2 == 0 else c.user

/-! ### The address map (R148) -/

/-- Where an access of `n` bytes lies. -/
inductive CobRegion where
  | imem (o : Nat)
  | dmem (o : Nat)
  /-- The control window of a core of the sector, and an offset in it (R113). -/
  | window (core o : Nat)
  | tin (o : Nat)
  | tick (o : Nat)
  | none
  deriving DecidableEq, Repr

def cobRegion (sector a n : Nat) : CobRegion :=
  if a + n ≤ 0x40000 then .imem a
  else if 0x100000 ≤ a ∧ a + n ≤ 0x140000 then .dmem (a - 0x100000)
  else if 0x10000000 ≤ a ∧ a + n ≤ 0x10200000 ∧ a / 0x8000 = (a + n - 1) / 0x8000 then
    .window (64 * sector + (a - 0x10000000) / 0x8000) (a % 0x8000)
  else if 0x20000000 ≤ a ∧ a + n ≤ 0x20010000 then .tin (a - 0x20000000)
  else if 0x20010000 ≤ a ∧ a + n ≤ 0x20010008 then .tick (a - 0x20010000)
  else .none

/-- R149: a control window that the sector's Cobalt core may access. -/
def windowOpenTo (s : State) (core : Nat) : Bool := !outOfService s utCore core && (partOfSector s (core / 64)).isSome

/-- R149: writes of the Cobalt core to a window that are still under way as messages. -/
def windowBusy (s : State) (core : Nat) : Bool :=
  s.eng.tin.any (fun m => m.src == cobEp (core / 64) && m.dst == core && m.typ == 0x01)

/-- R188: the endpoint registers as read, by byte. -/
def tinByte (c : Cobalt) (o : Nat) : Byte :=
  let reg := fun (v : Nat) => BitVec.ofNat 8 (bits v (8 * (o % 8)) 8)
  if o < 0x110 then SGet 0 c.txbuf o
  else if 0x208 ≤ o ∧ o < 0x210 then reg (b2n c.busy + 2 * b2n c.denied)
  else if 0x210 ≤ o ∧ o < 0x218 then reg (c.rxq.length + 2 ^ 8 * c.head)
  else if 0x8000 ≤ o then
    match c.rxq[((o - 0x8000) / 512 + 64 - c.head) % 64]? with
    | none => 0
    | some m => ((leBytes 2 m.dst ++ leBytes 2 m.src ++ leBytes 1 m.typ ++ leBytes 2 (m.data.length + 2 ^ 12 * m.part) ++ leBytes 1 m.tag ++
        leBytes 8 m.arg ++ m.data).getD (o % 512) 0)
  else 0

/-- R188: a store to the endpoint registers. -/
def tinStore (s : State) (n o : Nat) (bs : List Byte) : State :=
  if o < 0x110 then modCob s n (fun c => if c.busy then c else { c with txbuf := SSetRun 0 c.txbuf o (bs.take (0x110 - o)) })
  else
    let low := (bs.headD 0).toNat
    if o = 0x200 then (if bit low 0 then txGo s n else s)
    else if o = 0x208 then (if bit low 1 then modCob s n (fun c => { c with denied := false }) else s)
    else if o = 0x218 then (if bit low 0 then rxPop s n else s)
    else s

/-- What an access comes to: its value, a trap with its cause, or a wait for earlier writes of a window (R149). -/
inductive RvRes (α : Type) where
  | ok (v : α)
  | trap (cause : Nat)
  | wait
  deriving DecidableEq, Repr

/-- A load of `n` bytes. -/
def rvLoad (s : State) (sector : Nat) (c : Cobalt) (a n : Nat) : RvRes Nat :=
  if !pmpOk c (dataUser c) 0 a n then .trap 5
  else match cobRegion sector a n with
    | .imem o => .ok (leNat (SGetRun 0 c.imem o n))
    | .dmem o => .ok (leNat (SGetRun 0 c.dmem o n))
    | .window k o => if !windowOpenTo s k then .trap 5 else if windowBusy s k then .wait else .ok (leNat (winRead (getCore s k) o n))
    | .tin o => .ok (leNat ((List.range n).map (fun i => tinByte c (o + i))))
    | .tick o => .ok (bits s.tick (8 * o) (8 * n))
    | .none => .trap 5

/-- A store of `n` bytes. -/
def rvStore (s : State) (sector a n v : Nat) : RvRes State :=
  let c := getCob s sector
  let bs := leBytes n v
  if !pmpOk c (dataUser c) 1 a n then .trap 7
  else match cobRegion sector a n with
    | .imem o => .ok (modCob s sector (fun c => { c with imem := SSetRun 0 c.imem o bs }))
    | .dmem o => .ok (modCob s sector (fun c => { c with dmem := SSetRun 0 c.dmem o bs }))
    | .window k o => if !windowOpenTo s k then .trap 7 else if windowBusy s k then .wait else .ok (modCore s k (fun k => winPut k o bs))
    | .tin o => .ok (tinStore s sector o bs)
    | .tick _ => .ok s
    | .none => .trap 7

/-! ### Control and status registers -/

/-- misa: RV64 with A, C, D, F, I, M and U. -/
def rvMisa : Nat := 2 ^ 63 + 0x10112D

/-- CSRs that hold what is written, under a mask. -/
def csrMask (n : Nat) : Option Nat :=
  if n = 1 then some 0x1F
  else if n = 2 then some 7
  else if n = csrStatus then some 0x227888
  else if n = csrIe then some 0x800
  else if n = csrTvec then some (2 ^ 64 - 3)
  else if n = 0x306 then some 7
  else if n = csrEpc then some (2 ^ 64 - 2)
  else if n = 0x340 ∨ n = csrCause ∨ n = csrTval ∨ n = 0xB00 ∨ n = 0xB02 then some (2 ^ 64 - 1)
  else if n = 0x3A0 ∨ n = 0x3A2 then some 0x9F9F9F9F9F9F9F9F
  else if 0x3B0 ≤ n ∧ n < 0x3C0 then some (2 ^ 54 - 1)
  else none

/-- A CSR as read; none where there is none. The `time` CSR reads the tick count (R148). -/
def csrRead (s : State) (sector : Nat) (c : Cobalt) (n : Nat) : Option Nat :=
  let fs := rvFs c != 0
  if n = 1 ∨ n = 2 then (if fs then some (csrRaw c n) else none)
  else if n = 3 then (if fs then some (csrRaw c 1 + 32 * csrRaw c 2) else none)
  else if n = 0xC01 then some s.tick
  else if n = 0xC00 ∨ n = 0xC02 then some (csrRaw c (n - 0x100))
  else if n = csrStatus then some (csrRaw c n + 2 ^ 33 + (if rvFs c = 3 then 2 ^ 63 else 0))
  else if n = 0x301 then some rvMisa
  else if n = 0x344 then some (if c.pend = 0 then 0 else 0x800)
  else if n = 0xF11 ∨ n = 0xF12 ∨ n = 0xF13 then some 0
  else if n = 0xF14 then some sector
  else (csrMask n).map (fun _ => csrRaw c n)

/-- A write of a CSR; locked PMP entries, and the address below a locked range, keep their values. -/
def csrWrite (c : Cobalt) (n v : Nat) : Cobalt :=
  let locked := fun (i : Nat) => bit (csrRaw c (0x3A0 + i / 8 * 2)) (8 * (i % 8) + 7)
  let tor := fun (i : Nat) => locked i && bits (csrRaw c (0x3A0 + i / 8 * 2)) (8 * (i % 8) + 3) 2 == 1
  if n = 3 then fsDirty (csrSet (csrSet c 1 (v % 32)) 2 (bits v 5 3))
  else match csrMask n with
    | none => c
    | some m =>
      let w := (BitVec.ofNat 64 v &&& BitVec.ofNat 64 m).toNat
      if n = 1 ∨ n = 2 then fsDirty (csrSet c n w)
      else if n = csrStatus then csrSet c n (if bits w 11 2 = 3 then w else putBits w 11 2 0)
      else if n = 0x3A0 ∨ n = 0x3A2 then
        csrSet c n ((List.range 8).map (fun j =>
          2 ^ (8 * j) * bits (if locked (4 * (n - 0x3A0) + j) then csrRaw c n else w) (8 * j) 8)).sum
      else if 0x3B0 ≤ n ∧ n < 0x3C0 ∧ (locked (n - 0x3B0) ∨ (n < 0x3BF ∧ tor (n - 0x3AF))) then c
      else csrSet c n w

/-- A CSR that the present mode may reach. -/
def csrReach (c : Cobalt) (n : Nat) (write : Bool) : Bool :=
  (!c.user || (bits n 8 2 == 0 && (n < 0xC00 || bit (csrRaw c 0x306) (n % 32)))) && !(write && bits n 10 2 == 3)

/-! ### Traps -/

/-- A trap into machine mode; an interrupt enters at its own vector when mtvec says so. PRESUMED: log entry 14. -/
def rvTrap (c : Cobalt) (interrupt : Bool) (cause tval : Nat) : Cobalt :=
  let st := csrRaw c csrStatus
  let st' := putBits (putBits (putBits st 7 1 (bits st 3 1)) 3 1 0) 11 2 (if c.user then 0 else 3)
  let tv := csrRaw c csrTvec
  let base := tv - tv % 4
  let d := csrSet (csrSet (csrSet (csrSet c csrStatus st') csrEpc c.pc.toNat) csrCause (cause + if interrupt then 2 ^ 63 else 0)) csrTval tval
  { d with user := false, resv := none, pc := BitVec.ofNat 64 (if interrupt && tv % 4 == 1 then base + 4 * cause else base) }

/-- MRET. -/
def rvMret (c : Cobalt) : Cobalt :=
  let st := csrRaw c csrStatus
  let mpp := bits st 11 2
  let st := putBits (putBits (putBits st 3 1 (bits st 7 1)) 7 1 1) 11 2 0
  let st := if mpp = 3 then st else putBits st 17 1 0
  { csrSet c csrStatus st with user := mpp == 0, pc := BitVec.ofNat 64 (csrRaw c csrEpc) }

/-- R150: the machine external interrupt is taken. Taking it claims the lowest pending source of the local controller: mtval holds
its number and its bit falls. DESIGN CHOICE: log entry 52. -/
def rvInterrupt (c : Cobalt) : Option Cobalt :=
  if c.pend ≠ 0 ∧ bit (csrRaw c csrIe) 11 ∧ (c.user ∨ bit (csrRaw c csrStatus) 3) then
    let src := ((List.range 4).find? (fun i => c.pend.getLsbD i)).getD 0
    some (rvTrap { c with pend := c.pend &&& ~~~(1#4 <<< src) } true 11 src)
  else none

/-! ### One instruction -/

/-- What an instruction comes to: the state without the pc's advance (or with the pc set), a trap, or a wait. -/
inductive RvOut where
  | next (s : State)
  | jump (s : State) (pc : Nat)
  | trap (cause tval : Nat)
  | wait
  deriving DecidableEq, Repr

def rvOk (s : State) (n : Nat) (f : Cobalt → Cobalt) : RvOut := .next (modCob s n f)
def rvIll (w : Nat) : RvOut := .trap 2 w

/-- A result of `o` written to register `rd`, an absent one being illegal. -/
def rvPut (s : State) (n w : Nat) (o : Option Nat) : RvOut :=
  match o with | some v => rvOk s n (fun c => wx c (rvRd w) v) | none => rvIll w

/-- Loads: the width and sign of F3. -/
def rvLoadOp (s : State) (n w : Nat) (c : Cobalt) : RvOut :=
  let f3 := rvF3 w
  let a := wrapInt 64 ((rx c (rvRs1 w) : Int) + immI w)
  let k := 2 ^ (f3 % 4)
  if f3 = 7 then rvIll w
  else match rvLoad s n c a k with
    | .ok v => rvOk s n (fun c => wx c (rvRd w) (if f3 < 4 then sgn64 (8 * k) v else v))
    | .trap x => .trap x a
    | .wait => .wait

/-- Stores: `v` is the value of the source register. -/
def rvStoreOp (s : State) (n w : Nat) (c : Cobalt) (k v : Nat) : RvOut :=
  let a := wrapInt 64 ((rx c (rvRs1 w) : Int) + immS w)
  match rvStore s n a k v with
  | .ok t => .next t
  | .trap x => .trap x a
  | .wait => .wait

/-- FLW and FLD. -/
def rvLoadF (s : State) (n w : Nat) (c : Cobalt) : RvOut :=
  let f3 := rvF3 w
  let a := wrapInt 64 ((rx c (rvRs1 w) : Int) + immI w)
  if (f3 ≠ 2 ∧ f3 ≠ 3) ∨ rvFs c = 0 then rvIll w
  else match rvLoad s n c a (2 ^ f3) with
    | .ok v => rvOk s n (fun c => wf c (rvRd w) (if f3 = 2 then box fSingle v else v))
    | .trap x => .trap x a
    | .wait => .wait

/-- The A extension, on the two memories alone: LR, SC and the AMOs. -/
def rvAtomic (s : State) (n w : Nat) (c : Cobalt) : RvOut :=
  let k := 2 ^ rvF3 w
  let a := rx c (rvRs1 w)
  let v := rx c (rvRs2 w) % 2 ^ (8 * k)
  let f5 := bits w 27 5
  let ram := match cobRegion n a k with | .imem _ => true | .dmem _ => true | _ => false
  if (rvF3 w ≠ 2 ∧ rvF3 w ≠ 3) ∨ (f5 = 2 ∧ rvRs2 w ≠ 0) ∨ (f5 ≠ 2 ∧ f5 ≠ 3 ∧ (rvAmo (8 * k) f5 0 0).isNone) then rvIll w
  else if a % k ≠ 0 then .trap (if f5 = 2 then 4 else 6) a
  else if !ram then .trap (if f5 = 2 then 5 else 7) a
  else if f5 = 3 then
    (if c.resv ≠ some a then rvOk s n (fun c => { wx c (rvRd w) 1 with resv := none })
     else match rvStore s n a k v with
       | .ok t => rvOk t n (fun c => { wx c (rvRd w) 0 with resv := none })
       | .trap x => .trap x a
       | .wait => .wait)
  else match rvLoad s n c a k with
    | .trap x => .trap (if f5 = 2 then x else 7) a
    | .wait => .wait
    | .ok old =>
      if f5 = 2 then rvOk s n (fun c => { wx c (rvRd w) (sgn64 (8 * k) old) with resv := some a })
      else match rvStore s n a k ((rvAmo (8 * k) f5 old v).getD 0) with
        | .ok t => rvOk t n (fun c => wx c (rvRd w) (sgn64 (8 * k) old))
        | .trap x => .trap x a
        | .wait => .wait

/-- The rounding mode in force: frm for mode 7. -/
def rvRm (c : Cobalt) (w : Nat) : Nat := if rvF3 w = 7 then csrRaw c 2 else rvF3 w

/-- A floating-point result written. -/
def rvFpPut (s : State) (n w : Nat) (c : Cobalt) (o : Option (FOut × Nat)) : RvOut :=
  match (if rvFs c = 0 then none else o) with
  | some (.toF v, fl) => rvOk s n (fun c => accrue (wf c (rvRd w) v) fl)
  | some (.toX v, fl) => rvOk s n (fun c => accrue (wx c (rvRd w) v) fl)
  | none => rvIll w

/-- The Zicsr instructions: a write happens unless the set or clear form names x0 or the immediate 0. -/
def rvCsr (s : State) (n w : Nat) (c : Cobalt) : RvOut :=
  let k := bits w 20 12
  let f3 := rvF3 w
  let v := if 4 ≤ f3 then rvRs1 w else rx c (rvRs1 w)
  let write := f3 % 4 == 1 || rvRs1 w != 0
  match csrRead s n c k with
  | none => rvIll w
  | some old =>
    if f3 % 4 = 0 ∨ !csrReach c k write then rvIll w
    else
      let nv := match f3 % 4 with
        | 1 => v
        | 2 => (BitVec.ofNat 64 old ||| BitVec.ofNat 64 v).toNat
        | _ => (BitVec.ofNat 64 old &&& ~~~(BitVec.ofNat 64 v)).toNat
      rvOk s n (fun c => wx (if write then csrWrite c k nv else c) (rvRd w) old)

/-- ECALL, EBREAK, MRET, WFI and Zicsr. WFI may end at once. -/
def rvSystem (s : State) (n w : Nat) (c : Cobalt) : RvOut :=
  if rvF3 w ≠ 0 then rvCsr s n w c
  else if w = 0x73 then .trap (if c.user then 8 else 11) 0
  else if w = 0x100073 then .trap 3 c.pc.toNat
  else if w = 0x30200073 ∧ !c.user then .jump (modCob s n rvMret) (csrRaw c csrEpc)
  else if w = 0x10500073 ∧ !(c.user && bit (csrRaw c csrStatus) 21) then .next s
  else rvIll w

/-- One 32-bit instruction; `len` is the length of its encoding. PRESUMED: log entry 14. -/
def rvExec (s : State) (n : Nat) (c : Cobalt) (w len : Nat) : RvOut :=
  let a := rx c (rvRs1 w)
  let b := rx c (rvRs2 w)
  let f3 := rvF3 w
  let f7 := rvF7 w
  let pc := c.pc.toNat
  let imm := wrapInt 64 (immI w)
  match rvOp w with
  | 0x37 => rvPut s n w (some (wrapInt 64 (immU w)))
  | 0x17 => rvPut s n w (some (wrapInt 64 ((pc : Int) + immU w)))
  | 0x6F => .jump (modCob s n (fun c => wx c (rvRd w) ((pc + len) % 2 ^ 64))) (wrapInt 64 ((pc : Int) + immJ w))
  | 0x67 => if f3 ≠ 0 then rvIll w
      else
        let t := wrapInt 64 ((a : Int) + immI w)
        .jump (modCob s n (fun c => wx c (rvRd w) ((pc + len) % 2 ^ 64))) (t - t % 2)
  | 0x63 => match rvBranch f3 a b with
      | none => rvIll w
      | some t => if t then .jump s (wrapInt 64 ((pc : Int) + immB w)) else .next s
  | 0x03 => rvLoadOp s n w c
  | 0x23 => if 4 ≤ f3 then rvIll w else rvStoreOp s n w c (2 ^ f3) b
  | 0x13 =>
    let h := bits w 26 6
    if f3 = 1 ∧ h ≠ 0 ∨ f3 = 5 ∧ h ≠ 0 ∧ h ≠ 0x10 then rvIll w
    else rvPut s n w (some (rvAlu f3 (f3 == 5 && h == 0x10) a (if f3 = 1 ∨ f3 = 5 then bits w 20 6 else imm)))
  | 0x1B =>
    if f3 = 1 ∧ f7 ≠ 0 ∨ f3 = 5 ∧ f7 ≠ 0 ∧ f7 ≠ 0x20 then rvIll w
    else rvPut s n w (rvAluW f3 (f3 == 5 && f7 == 0x20) a (if f3 = 0 then imm else rvRs2 w))
  | 0x33 =>
    if f7 = 1 then rvPut s n w (some (rvMul f3 a b))
    else if f7 = 0 ∨ (f7 = 0x20 ∧ (f3 = 0 ∨ f3 = 5)) then rvPut s n w (some (rvAlu f3 (f7 == 0x20) a b))
    else rvIll w
  | 0x3B =>
    if f7 = 1 then (if f3 = 0 then rvPut s n w (some (sgn64 32 (a * b)))
      else if 4 ≤ f3 then rvPut s n w (some (sgn64 32 (rvDiv 32 f3 a b))) else rvIll w)
    else if f7 = 0 ∨ (f7 = 0x20 ∧ (f3 = 0 ∨ f3 = 5)) then rvPut s n w (rvAluW f3 (f7 == 0x20) a b)
    else rvIll w
  | 0x0F => if f3 ≤ 1 then .next s else rvIll w
  | 0x2F => rvAtomic s n w c
  | 0x73 => rvSystem s n w c
  | 0x07 => rvLoadF s n w c
  | 0x27 => if (f3 = 2 ∨ f3 = 3) ∧ rvFs c ≠ 0 then rvStoreOp s n w c (2 ^ f3) (rf c (rvRs2 w) % 2 ^ (8 * 2 ^ f3)) else rvIll w
  | 0x53 => rvFpPut s n w c (rvFp w (rvRm c w) (rf c (rvRs1 w)) (rf c (rvRs2 w)) a)
  | 0x43 | 0x47 | 0x4B | 0x4F => rvFpPut s n w c (rvFma w (rvRm c w) (rf c (rvRs1 w)) (rf c (rvRs2 w)) (rf c (bits w 27 5)))
  | _ => rvIll w

/-- A 16-bit parcel of the program; the two memories hold programs. -/
def rvParcel (c : Cobalt) (n a : Nat) : Option Nat :=
  if !pmpOk c c.user 2 a 2 then none
  else match cobRegion n a 2 with
    | .imem o => some (leNat (SGetRun 0 c.imem o 2))
    | .dmem o => some (leNat (SGetRun 0 c.dmem o 2))
    | _ => none

/-- The instruction at the pc: its bits, its length, and the 32-bit instruction it stands for; or the address that cannot be
fetched. -/
def rvFetch (c : Cobalt) (n : Nat) : Except Nat (Nat × Nat × Option Nat) :=
  let a := c.pc.toNat
  match rvParcel c n a with
  | none => .error a
  | some h =>
    if h % 4 ≠ 3 then .ok (h, 2, rvExpand h)
    else match rvParcel c n (a + 2) with
      | none => .error (a + 2)
      | some k => .ok (h + 65536 * k, 4, some (h + 65536 * k))

/-- Counters of a tick: mcycle, and minstret for an instruction that retires. -/
def rvCount (c : Cobalt) (retired : Bool) : Cobalt :=
  let c := csrSet c 0xB00 ((csrRaw c 0xB00 + 1) % 2 ^ 64)
  if retired then csrSet c 0xB02 ((csrRaw c 0xB02 + 1) % 2 ^ 64) else c

/-- A Cobalt core takes an interrupt, a trap, or executes one instruction. PRESUMED: log entry 14. -/
def cobStep (s : State) (n : Nat) : State :=
  let c := getCob s n
  let trap := fun (cause tval : Nat) => modCob s n (fun c => rvCount (rvTrap c false cause tval) false)
  match rvInterrupt c with
  | some d => modCob s n (fun _ => rvCount d false)
  | none => match rvFetch c n with
    | .error a => trap 1 a
    | .ok (raw, len, none) => trap 2 (raw % 2 ^ (8 * len))
    | .ok (_, len, some w) => match rvExec s n c w len with
      | .next t => modCob t n (fun d => rvCount { d with pc := d.pc + BitVec.ofNat 64 len } true)
      | .jump t pc => modCob t n (fun d => rvCount { d with pc := BitVec.ofNat 64 pc } true)
      | .trap cause tval => trap cause tval
      | .wait => modCob s n (fun c => rvCount c false)

/-- R82, R148, R405: the core is released and neither out of service nor held with its sector's supply. -/
def cobRuns (s : State) (n : Nat) : Bool :=
  (getCob s n).run && !outOfService s utCobalt n && s.power.pg && !s.power.perst && s.power.pfwAt.isNone &&
    !s.power.railsOff.contains n && SGet 0 s.power.held n == 0

/-- Every Cobalt core that runs executes one instruction. DESIGN CHOICE: log entry 52. -/
def cobaltTick (s : State) : State := (List.range 64).foldl (fun s n => if cobRuns s n then cobStep s n else s) s

end Sys2Proof.Machine
end

