-- ==== Sys2Proof/Machine/Tick.lean ====
section
/-! DEFINITION. Time: one tick of the time bases, what counts ticks (R30, R84, R103), and the Cobalt cores (R148). -/

namespace Sys2Proof.Machine

/-- R103: a tick of a placement's progress monitor: it counts while an item is pending and none completes on a lane; it does not
count while a sector is held or a stream engine of the configuration has a memory read outstanding. -/
def stallTick (s : State) (pl : Placement) : Placement :=
  let reading := pl.sectors.any (fun n => s.eng.cores.any (fun c => c.1 / 64 == n &&
    c.2.se.any (fun e => e.2.xfers.any (fun x => x.out != 0))))
  if pl.moved || !itemsPending s pl then { pl with idle := 0, moved := false }
  else if pl.sectors.any (sectorHeld s) || reading then pl
  else { pl with idle := pl.idle + 1 }

/-- R30: one tick of the reference time base while main power is good; the standby time base counts while standby
power is present, and every Cobalt core that runs executes an instruction. DESIGN CHOICE: log entry 2. -/
def tickOnce (s : State) : State :=
  let t := if s.power.pg then setTick s (s.tick + 1) else s
  let t := if s.pew.standby then setStandby t (s.sbTick + 1) else t
  cobaltTick (modEng t (fun e => { e with places := e.places.map (stallTick s), laneWait := laneTick s }))

end Sys2Proof.Machine
end

