-- ==== Sys2Proof/Machine/Step.lean ====
section
/-! DEFINITION. One step: the command at the front of the queue, or a tick of the reference time base. -/

namespace Sys2Proof.Machine

/-- The commands are taken first in, first out; on an empty queue the reference time base counts one tick (R30).
DESIGN CHOICE: log entry 1. DESIGN CHOICE: log entry 2. DESIGN CHOICE: log entry 13. -/
def step (s : State) : Host.Outcome State Fault Refusal :=
  match s.pending with
  | [] => .next (tickOnce s)
  | c :: rest => exec c { s with pending := rest }

/-- The opcode table gives its rows no bits, so no word spells a command and the queue stays as it is.
DESIGN CHOICE: log entry 5. -/
def State.withFetchWord (s : State) (nbits w : Nat) : State :=
  match decodeTableWord nbits w with
  | none => s
  | some i => { s with pending := i :: s.pending }

end Sys2Proof.Machine
end

