-- ==== Sys2Proof/WellFormed.lean ====
section
/-! DEFINITION. Well-formed commands: every unit a command names is a unit of the module (R27, R36, R148, R180, R291). -/

namespace Sys2Proof

/-- R27: 1,024 × 1,024 cells. -/
def isCell (row col : Nat) : Bool := decide (row < 1024 ∧ col < 1024)
/-- R27: 4,096 cores, four stream engines each. -/
def isCore (n : Nat) : Bool := decide (n < 4096)
def isSE (e : Nat) : Bool := decide (e < 4)
/-- R27: 64 sectors, each with a Cobalt core. -/
def isSector (n : Nat) : Bool := decide (n < 64)
/-- R27: 48 memory groups of 8 sub-channels. -/
def isGroup (n : Nat) : Bool := decide (n < 48)
def isSub (n : Nat) : Bool := decide (n < 384)
/-- R268: a local offset. -/
def isLocal (off : Nat) : Bool := decide (off < 48 * 2 ^ 36)
/-- R27: 16 ports. -/
def isPort (n : Nat) : Bool := decide (n < 16)
/-- R291: 17 functions, and R315's 16 partitions. -/
def isFn (n : Nat) : Bool := decide (n < 17)
def isPart (n : Nat) : Bool := decide (n < 16)
/-- R294: 32 mailbox channels. -/
def isChannel (n : Nat) : Bool := decide (n < 32)
/-- R180: endpoints of the Tin network. -/
def isEndpoint (n : Nat) : Bool := decide (n < 0x1105)
/-- R363, R369: a unit whose memories are scrubbed: core 1, Cobalt 2, Copper 3, near-cache slice 4. -/
def isSram (u n : Nat) : Bool :=
  decide ((u = 1 ∧ n < 4096) ∨ (u = 2 ∧ n < 64) ∨ (u = 3 ∧ n < 384) ∨ (u = 4 ∧ n < 48))
/-- R12: a register space: BAR0 (0) and BAR2 (1) of a function, the PF Device Control register (2), the Tin endpoint registers (3) and
the timer compare (4) of a Cobalt core. -/
def isRegisterSpace (space unit : Nat) : Bool :=
  decide ((space < 2 ∧ unit < 17) ∨ (space = 2 ∧ unit = 0) ∨ ((space = 3 ∨ space = 4) ∧ unit < 64))

/-- A command names units of the module only. -/
def Instr.wf : Instr → Bool
  | .itemTransfer row col _ _ _ => isCell row col
  | .handshakeAnomaly row col side => isCell row col && decide (side < 4)
  | .macFiring row col _ => isCell row col
  | .maclFiring row col _ => isCell row col
  | .delayFiring row col => isCell row col
  | .testFiring row col => isCell row col
  | .steerFiring row col => isCell row col
  | .mergeFiring row col => isCell row col
  | .gateFiring row col => isCell row col
  | .repeatFiring row col => isCell row col
  | .countFiring row col => isCell row col
  | .stallTimeout _ => true
  | .variantPlace _ _ _ _ => true
  | .placementResume _ => true
  | .sectorLoad sector => isSector sector
  | .sectorLoadDone sector => isSector sector
  | .sectorClear sector => isSector sector
  | .winWr _ dst _ => isCore dst
  | .winRd _ dst _ => isCore dst
  | .winRsp _ dst _ => isEndpoint dst
  | .rgdWrite _ dst _ => isCore dst
  | .evWrite _ dst _ => isCore dst
  | .tagEntryWrite _ dst _ => isCore dst
  | .tileCheckDone core _ _ => isCore core
  | .tileRefetchDone core _ => isCore core
  | .vctlGo _ dst _ => isCore dst
  | .vctlAbort _ dst _ => isCore dst
  | .vnop core => isCore core
  | .vld core _ => isCore core
  | .vst core => isCore core
  | .vmov core => isCore core
  | .vsetx core => isCore core
  | .vseta core => isCore core
  | .vadda core => isCore core
  | .vsplat core => isCore core
  | .vand core => isCore core
  | .vor core => isCore core
  | .vxor core => isCore core
  | .vnot core => isCore core
  | .vshl core => isCore core
  | .vshr core => isCore core
  | .vsra core => isCore core
  | .vadd core _ => isCore core
  | .vsub core _ => isCore core
  | .vmul core _ => isCore core
  | .vmulq core _ => isCore core
  | .vmin core => isCore core
  | .vmax core => isCore core
  | .vcmp core => isCore core
  | .vsel core => isCore core
  | .vcvt core _ => isCore core
  | .vlut core => isCore core
  | .vclz core => isCore core
  | .vred core _ => isCore core
  | .vspls core => isCore core
  | .vcap core => isCore core
  | .vsig core => isCore core
  | .vwait core => isCore core
  | .vwaitEnd core => isCore core
  | .vwaitlong core => isCore core
  | .vsetl core => isCore core
  | .vloop core => isCore core
  | .vend core => isCore core
  | .seLoad _ dst _ => isCore dst
  | .seSetwd _ dst _ => isCore dst
  | .seSetp _ dst _ => isCore dst
  | .seAbort _ dst _ => isCore dst
  | .seAborted core se => isCore core && isSE se
  | .seStart _ dst _ => isCore dst
  | .seQuery _ dst _ => isCore dst
  | .seStat _ dst _ => isEndpoint dst
  | .snop core se => isCore core && isSE se
  | .setm core se => isCore core && isSE se
  | .sets core se => isCore core && isSE se
  | .setc core se => isCore core && isSE se
  | .limit core se => isCore core && isSE se
  | .strm core se => isCore core && isSE se
  | .strc core se => isCore core && isSE se
  | .loop core se => isCore core && isSE se
  | .endl core se => isCore core && isSE se
  | .shape core se => isCore core && isSE se
  | .fill core se _ => isCore core && isSE se
  | .drain core se _ _ => isCore core && isSE se
  | .feed core se _ => isCore core && isSE se
  | .collect core se => isCore core && isSE se
  | .streamTransferComplete core se _ => isCore core && isSE se
  | .sig core se => isCore core && isSE se
  | .wait core se => isCore core && isSE se
  | .streamWaitEnd core se => isCore core && isSE se
  | .cfg core se => isCore core && isSE se
  | .endProg core se => isCore core && isSE se
  | .sdone core se => isCore core && isSE se
  | .swatch core se => isCore core && isSE se
  | .streamReadError core se _ => isCore core && isSE se
  | .sliceWritebackDone group _ => isGroup group
  | .notice _ dst _ => isEndpoint dst
  | .flag _ dst _ => isEndpoint dst
  | .fwMsg _ dst _ => isEndpoint dst
  | .txGo sector => isSector sector
  | .rxPop sector => isSector sector
  | .cntCreate src _ => isEndpoint src
  | .cntClaim src _ => isEndpoint src
  | .claimHeldAnswer _ => true
  | .cntRetire src _ => isEndpoint src
  | .cntWithdraw src _ => isEndpoint src
  | .cntQuery src _ => isEndpoint src
  | .cntDestroy src _ => isEndpoint src
  | .cntRsp dst _ => isEndpoint dst
  | .layerStart _ _ _ _ _ _ => true
  | .layerComplete _ _ _ _ _ => true
  | .promptCheck _ => true
  | .prefillChunkStart _ _ _ => true
  | .prefillChunkCommit _ => true
  | .decodeStepStart _ _ _ => true
  | .decodeStepOutput _ => true
  | .decodeStepCommit _ => true
  | .streamEntryWrite _ => true
  | .completionWrite _ _ => true
  | .recordRingWrite _ => true
  | .steeringBindComplete _ _ => true
  | .halfDispatch _ _ _ _ _ => true
  | .jobArrival _ _ _ => true
  | .jobComplete _ _ _ => true
  | .resultArrival _ _ _ _ => true
  | .texchExpiry _ _ _ => true
  | .xlimitExpiry _ _ _ => true
  | .memoryReadReturn off _ _ _ => isLocal off
  | .tier1ReadLate off => isLocal off
  | .periodicRefresh sub _ => isSub sub
  | .rfmRequest sub bank => isSub sub && decide (bank < 32)
  | .maintenanceWindow group => isGroup group
  | .periodicCalibration sub _ => isSub sub
  | .patrolScrub sub _ _ => isSub sub
  | .sramScrub utype unit _ _ => isSram utype unit
  | .opticalBiasCalibration port lane => isPort port && decide (lane < 8)
  | .ageingMeasurement sector _ => isSector sector
  | .hostlimExpiry _ => true
  | .pcieCompletionTimeout _ => true
  | .hostErrorCompletion _ => true
  | .linkLeavesDlActive => true
  | .rd port => isPort port
  | .wr port => isPort port
  | .rdata port => isPort port
  | .wack port => isPort port
  | .peerlimExpiry _ => true
  | .segment _ _ => true
  | .ack _ _ => true
  | .nack _ _ => true
  | .chainAbort _ _ => true
  | .chainPredecessorSilent _ _ => true
  | .pollPass => true
  | .doorbellLineRead fn _ _ => isFn fn
  | .descriptorFetch fn _ => isFn fn
  | .queueCreate fn => isFn fn
  | .queueDelete fn => isFn fn
  | .recordRingSet fn => isFn fn
  | .telemetryReadDrops fn => isFn fn
  | .telemetryReadEnergy fn => isFn fn
  | .partCreate fn => isFn fn
  | .partDestroy fn => isFn fn
  | .capSet fn => isFn fn
  | .requestOpen fn => isFn fn
  | .requestCancel fn => isFn fn
  | .steeringBind fn => isFn fn
  | .modelSelect fn => isFn fn
  | .modelSelectComplete part => isPart part
  | .modelChain fn => isFn fn
  | .modelEvict fn => isFn fn
  | .imageRegister fn => isFn fn
  | .registrationDone part _ _ => isPart part
  | .graphRun fn => isFn fn
  | .copy fn => isFn fn
  | .copyComplete _ => true
  | .fence fn => isFn fn
  | .fenceRelease _ => true
  | .counterOp fn => isFn fn
  | .aqenWrite fn _ => isFn fn
  | .setupLock fn => isFn fn
  | .pollWrite fn _ => isFn fn
  | .mbpop fn ch => isFn fn && isChannel ch
  | .txsend fn ch _ => isFn fn && isChannel ch
  | .mbox _ dst _ => isEndpoint dst
  | .registerWrite space unit _ _ => isRegisterSpace space unit
  | .msixVectorUnmask fn vec => isFn fn && decide (vec < 64)
  | .imodTimerExpiry fn _ => isFn fn
  | .vfFlr fn => isFn fn && decide (1 ≤ fn)
  | .vfEnableClear => true
  | .pfFlr => true
  | .flitReceive port _ _ => isPort port
  | .nak port _ => isPort port
  | .ackIdleTimer port => isPort port
  | .ackStallTimeout port => isPort port
  | .laneLockLoss port => isPort port
  | .portRelock port _ => isPort port
  | .retrainTimeout port => isPort port
  | .downRetry port => isPort port
  | .portLock port => isPort port
  | .identSend port => isPort port
  | .ident port => isPort port
  | .noRecord port => isPort port
  | .unitErrorRecovery => true
  | .selfTestDone _ _ _ => true
  | .returnTestStart _ _ => true
  | .enAssert => true
  | .enDeassert => true
  | .powerGood => true
  | .railStartFail rail => decide (rail < 212)
  | .railOutOfWindow rail => decide (rail < 212)
  | .inputUndervoltage _ => true
  | .inputCollapse _ => true
  | .inputRestart _ => true
  | .inputOvervoltage _ => true
  | .pfwRecognised => true
  | .pfwPowerOff => true
  | .droopTrip domain => decide (domain < 113)
  | .droopRelease domain _ => decide (domain < 113)
  | .powerSample _ _ => true
  | .governorAction => true
  | .floorPaceClimb => true
  | .departureReturn => true
  | .thermalSample _ _ _ => true
  | .thermalStopEnd => true
  | .hardwareTrip => true
  | .heartbeatLost => true
  | .perstAssert => true
  | .bootStart _ => true
  | .lpddr6TrainingDone => true
  | .bundleRegister _ => true
  | .bundleFetched => true
  | .fuseProgramDone _ => true
  | .bootRunning => true
  | .getVersion _ => true
  | .getCapabilities _ => true
  | .negotiateAlgorithms _ => true
  | .getDigests _ => true
  | .getCertificate _ => true
  | .challenge _ => true
  | .getMeasurements _ => true
  | .spdmUnsupportedRequest _ => true
  | .bootStatus _ => true
  | .sealRingSet _ => true
  | .sealGet _ => true
  | .epochTimeEnd part => isPart part
  | .epochSeal part => isPart part
  | .sealRingWrite => true
  | .standbyUp _ => true
  | .pewterReady => true
  | .standbyLoss => true
  | .setdasa _ => true
  | .entdaa _ => true
  | .i3cIndexWrite _ => true
  | .i3cRegisterWrite _ _ => true
  | .heartbeat _ => true
  | .settingsPut _ => true
  | .planPut _ => true
  | .telemGet _ => true
  | .logGet _ => true
  | .returnUnit _ => true
  | .settingsGet _ => true
  | .sring ch => isChannel ch
  | .sset ch => isChannel ch
  | .sstop ch => isChannel ch
  | .sampleTick fn set _ => isFn fn && decide (set < 4)
  | .hostReadCompletion _ _ => true
  | .hostLinkDlActive => true
  | .vfEnableSet => true
  | .partCreateComplete part => isPart part
  | .cobaltTimerCompare sector => isSector sector
  | .startRampPaceStep => true
  | .rackManagerMalformed _ => true

end Sys2Proof
end

