-- ==== Sys2Proof/Safety.lean ====
section
/-! DEFINITION. What claims are stated in: the canonical form of local memory, the invariant of every step, and the part of
the state that a step leaves as it was. -/

namespace Sys2Proof.Machine

/-- The canonical form of local memory: addresses strictly rising, no entry equal to what an unlisted address reads as. -/
def Memory.wf (m : Mem) : Bool := SWf 0 m.bytes

/-- One byte of local memory, by local offset (R268). -/
def Memory.byte (m : Mem) (off : Nat) : Byte := SGet 0 m.bytes off

/-- The invariant of a run: every command that waits names units of the module, the tick count fits its 64 bits (R30), and
local memory is in its canonical form. -/
structure Inv (s : State) : Prop where
  commands : ∀ c ∈ s.pending, c.wf = true
  tick : s.tick < 2 ^ 64
  memory : Memory.wf s.mem = true

/-- The parts of the state that a step may touch, the queue of commands apart; `setup` is what only boot, PERST# and the loss of
main power may touch of the host interface: the set-up lock (R15) and the mailbox binding table (R322). -/
inductive Field where
  | tick | sbTick | freeCtr | host | parts | rtes | fab | power | sec | pew | eng | mem | setup
  deriving DecidableEq, Repr

/-- The frame of a step from `s` to `t`: nothing outside the parts `fs` changes, the queue included; and whatever changes, the
tick count keeps to its width and memory its canonical form. -/
structure Within (fs : List Field) (s t : State) : Prop where
  pending : t.pending = s.pending
  width : s.tick < 2 ^ 64 → t.tick < 2 ^ 64
  canon : Memory.wf s.mem = true → Memory.wf t.mem = true
  tick : .tick ∈ fs ∨ t.tick = s.tick
  sbTick : .sbTick ∈ fs ∨ t.sbTick = s.sbTick
  freeCtr : .freeCtr ∈ fs ∨ t.freeCtr = s.freeCtr
  host : .host ∈ fs ∨ t.host = s.host
  parts : .parts ∈ fs ∨ t.parts = s.parts
  rtes : .rtes ∈ fs ∨ t.rtes = s.rtes
  fab : .fab ∈ fs ∨ t.fab = s.fab
  power : .power ∈ fs ∨ t.power = s.power
  sec : .sec ∈ fs ∨ t.sec = s.sec
  pew : .pew ∈ fs ∨ t.pew = s.pew
  eng : .eng ∈ fs ∨ t.eng = s.eng
  mem : .mem ∈ fs ∨ t.mem = s.mem
  setup : .setup ∈ fs ∨ ((s.host.lock = true → t.host.lock = true) ∧ t.host.mbbind = s.host.mbbind)

/-- A command's outcome keeps to a frame when its next state, if it answers one, does. -/
def Keeps (fs : List Field) (s : State) (o : Host.Outcome State Fault Refusal) : Prop := ∀ t, o = .next t → Within fs s t

/-! ### Cells -/

/-- R90: what a MAC or MACL unit that has begun an output makes of the data items `a` and `b`: the pairs joined to the output, the
latches emptied, and the output offered when KCNT elements are in it. -/
def MacFires (md : Mode) (c c' : Cell) (ps : List (Nat × Nat)) (lscl : Option Int) (l : SMap (Option Item)) (fl : Flg) : Prop :=
  let m := macPairs md (ovmWraps md (bits c.w1 15 2)) (Fmt.ofCode (bits c.w1 3 3)) (bits c.w2 0 20) lscl ps { c.mac with flg := c.mac.flg ||| fl }
  (m.k ≠ bits c.w2 0 20 → c' = { c with mac := m, latch := l }) ∧
  (m.k = bits c.w2 0 20 → c.fu = none →
    c' = { c with mac := {}, latch := l, owed := 0, fu := some ⟨m.flg ||| c.owed, 0, m.acc⟩ }) ∧
  (m.k = bits c.w2 0 20 → c.fu ≠ none →
    c' = { c with mac := {}, latch := l, owed := 0, macWait := some ⟨m.flg ||| c.owed, 0, m.acc⟩ })

/-! ### Frames of the cores -/

/-- Nothing but core `n` differs. -/
def CoreOnly (s t : State) (n : Nat) : Prop :=
  t = { s with eng := { s.eng with cores := t.eng.cores } } ∧ ∀ m, m ≠ n → getCore t m = getCore s m

/-- R136: the next instruction of the vector engine of core `n`, which may run it, is the legal word `w` of the opcode. -/
def VecAt (s : State) (n opc w : Nat) : Prop :=
  n < 4096 ∧ vecReady s n = true ∧ w = (SGet 0#64 (getCore s n).vim (getCore s n).vpc).toNat ∧
    vLegal (getCore s n) w = true ∧ vOpc w = opc

/-- A core that has moved past a vector instruction. -/
def Core.past (c : Core) : Core := { c with vlast := c.vpc, vpc := (c.vpc + 1) % 1024 }

/-- The frame of a vector instruction with target register `d`: of the module only core `n` changes, of the core only the
register, its flags and the program counter. -/
def VecFrame (s t : State) (n d : Nat) : Prop :=
  CoreOnly s t n ∧
    getCore t n = { (getCore s n).past with tregs := (getCore t n).tregs, rowFlg := (getCore t n).rowFlg } ∧
    (∀ m, m ≠ d → (getCore t n).t m = (getCore s n).t m) ∧
    ∀ m r, m ≠ d → r < 32 → (getCore t n).rowF m r = (getCore s n).rowF m r

/-! ### Frames of the stream engines -/

/-- R154: the next instruction of stream engine `e` of core `n`, which may run it, is the legal word `w` of the opcode. -/
def SeAt (s : State) (n e opc w : Nat) : Prop :=
  n < 4096 ∧ e < 4 ∧ seReady s n e = true ∧ w = (SGet 0#64 (getSE s n e).prog (getSE s n e).pc).toNat ∧
    sLegal s n (getSE s n e) w = true ∧ sOpc w = opc

/-- A stream engine that has moved past an instruction at tick `now`: it has made progress (R170). -/
def SE.past (v : SE) (now : Nat) : SE := { v with pc := v.pc + 1, lastProg := now, watched := false }

/-- The frame of an instruction on the registers of stream engine `e` of core `n`: of the module nothing else changes. -/
def SeFrame (s t : State) (n e : Nat) : Prop :=
  CoreOnly s t n ∧ getCore t n = { getCore s n with se := (getCore t n).se } ∧ ∀ k, k ≠ e → getSE t n k = getSE s n k

/-! ### Descriptors -/

/-- R309: the next descriptor that function `fn` hands over is `d`, of the opcode, and firmware takes it now. -/
def DescHere (s : State) (fn opc : Nat) (d : Desc) : Prop :=
  fn < 17 ∧ frontDesc s fn = some d ∧ d.opc = opc ∧ serving s = true ∧ fnServes s fn = true

/-- R309: such a descriptor that every check passes. -/
def DescAt (s : State) (fn opc : Nat) (d : Desc) : Prop := DescHere s fn opc d ∧ judge s d = none

/-- R312: a descriptor that has been taken becomes a running command. -/
def beginAt (s : State) (d : Desc) : State := startCmd (dropDesc s d) d .running

end Sys2Proof.Machine

namespace Sys2Proof

/-- The parts of the state that a command may touch. -/
def Instr.frame : Instr → List Machine.Field
  | .itemTransfer _ _ _ _ _ => [.host, .parts, .rtes, .pew, .eng]
  | .handshakeAnomaly _ _ _ => [.pew, .eng]
  | .macFiring _ _ _ => [.pew, .eng]
  | .maclFiring _ _ _ => [.pew, .eng]
  | .delayFiring _ _ => [.eng]
  | .testFiring _ _ => [.eng]
  | .steerFiring _ _ => [.eng]
  | .mergeFiring _ _ => [.eng]
  | .gateFiring _ _ => [.eng]
  | .repeatFiring _ _ => [.eng]
  | .countFiring _ _ => [.eng]
  | .stallTimeout _ => [.host, .parts, .rtes, .pew, .eng]
  | .variantPlace _ _ _ _ => [.eng]
  | .placementResume _ => [.eng]
  | .sectorLoad _ => [.parts, .eng]
  | .sectorLoadDone _ => [.host, .parts, .rtes, .pew, .eng]
  | .sectorClear _ => [.parts, .eng]
  | .winWr _ _ _ => [.pew, .eng]
  | .winRd _ _ _ => [.pew, .eng]
  | .winRsp _ _ _ => [.pew, .eng]
  | .rgdWrite _ _ _ => [.pew, .eng]
  | .evWrite _ _ _ => [.pew, .eng]
  | .tagEntryWrite _ _ _ => [.pew, .eng]
  | .tileCheckDone _ _ _ => [.pew, .eng]
  | .tileRefetchDone _ _ => [.host, .parts, .rtes, .pew, .eng, .mem]
  | .vctlGo _ _ _ => [.pew, .eng]
  | .vctlAbort _ _ _ => [.pew, .eng]
  | .vnop _ => [.host, .parts, .rtes, .pew, .eng]
  | .vld _ _ => [.host, .parts, .rtes, .pew, .eng]
  | .vst _ => [.host, .parts, .rtes, .pew, .eng]
  | .vmov _ => [.host, .parts, .rtes, .pew, .eng]
  | .vsetx _ => [.host, .parts, .rtes, .pew, .eng]
  | .vseta _ => [.host, .parts, .rtes, .pew, .eng]
  | .vadda _ => [.host, .parts, .rtes, .pew, .eng]
  | .vsplat _ => [.host, .parts, .rtes, .pew, .eng]
  | .vand _ => [.host, .parts, .rtes, .pew, .eng]
  | .vor _ => [.host, .parts, .rtes, .pew, .eng]
  | .vxor _ => [.host, .parts, .rtes, .pew, .eng]
  | .vnot _ => [.host, .parts, .rtes, .pew, .eng]
  | .vshl _ => [.host, .parts, .rtes, .pew, .eng]
  | .vshr _ => [.host, .parts, .rtes, .pew, .eng]
  | .vsra _ => [.host, .parts, .rtes, .pew, .eng]
  | .vadd _ _ => [.host, .parts, .rtes, .pew, .eng]
  | .vsub _ _ => [.host, .parts, .rtes, .pew, .eng]
  | .vmul _ _ => [.host, .parts, .rtes, .pew, .eng]
  | .vmulq _ _ => [.host, .parts, .rtes, .pew, .eng]
  | .vmin _ => [.host, .parts, .rtes, .pew, .eng]
  | .vmax _ => [.host, .parts, .rtes, .pew, .eng]
  | .vcmp _ => [.host, .parts, .rtes, .pew, .eng]
  | .vsel _ => [.host, .parts, .rtes, .pew, .eng]
  | .vcvt _ _ => [.host, .parts, .rtes, .pew, .eng]
  | .vlut _ => [.host, .parts, .rtes, .pew, .eng]
  | .vclz _ => [.host, .parts, .rtes, .pew, .eng]
  | .vred _ _ => [.host, .parts, .rtes, .pew, .eng]
  | .vspls _ => [.host, .parts, .rtes, .pew, .eng]
  | .vcap _ => [.host, .parts, .rtes, .pew, .eng]
  | .vsig _ => [.host, .parts, .rtes, .pew, .eng]
  | .vwait _ => [.host, .parts, .rtes, .pew, .eng]
  | .vwaitEnd _ => [.eng]
  | .vwaitlong _ => [.eng]
  | .vsetl _ => [.host, .parts, .rtes, .pew, .eng]
  | .vloop _ => [.host, .parts, .rtes, .pew, .eng]
  | .vend _ => [.host, .parts, .rtes, .pew, .eng]
  | .seLoad _ _ _ => [.pew, .eng]
  | .seSetwd _ _ _ => [.pew, .eng]
  | .seSetp _ _ _ => [.pew, .eng]
  | .seAbort _ _ _ => [.pew, .eng]
  | .seAborted _ _ => [.eng]
  | .seStart _ _ _ => [.pew, .eng]
  | .seQuery _ _ _ => [.pew, .eng]
  | .seStat _ _ _ => [.pew, .eng]
  | .snop _ _ => [.host, .parts, .rtes, .pew, .eng]
  | .setm _ _ => [.host, .parts, .rtes, .pew, .eng]
  | .sets _ _ => [.host, .parts, .rtes, .pew, .eng]
  | .setc _ _ => [.host, .parts, .rtes, .pew, .eng]
  | .limit _ _ => [.host, .parts, .rtes, .pew, .eng]
  | .strm _ _ => [.host, .parts, .rtes, .pew, .eng]
  | .strc _ _ => [.host, .parts, .rtes, .pew, .eng]
  | .loop _ _ => [.host, .parts, .rtes, .pew, .eng]
  | .endl _ _ => [.host, .parts, .rtes, .pew, .eng]
  | .shape _ _ => [.host, .parts, .rtes, .pew, .eng]
  | .fill _ _ _ => [.host, .parts, .rtes, .fab, .pew, .eng, .mem]
  | .drain _ _ _ _ => [.host, .parts, .rtes, .fab, .pew, .eng, .mem]
  | .feed _ _ _ => [.host, .parts, .rtes, .pew, .eng]
  | .collect _ _ => [.host, .parts, .rtes, .pew, .eng]
  | .streamTransferComplete _ _ _ => [.eng, .mem]
  | .sig _ _ => [.host, .parts, .rtes, .pew, .eng]
  | .wait _ _ => [.host, .parts, .rtes, .pew, .eng]
  | .streamWaitEnd _ _ => [.eng]
  | .cfg _ _ => [.host, .parts, .rtes, .pew, .eng]
  | .endProg _ _ => [.host, .parts, .rtes, .pew, .eng]
  | .sdone _ _ => [.eng]
  | .swatch _ _ => [.eng]
  | .streamReadError _ _ _ => [.host, .parts, .rtes, .pew, .eng, .mem]
  | .sliceWritebackDone _ _ => [.host, .parts, .rtes, .pew, .eng, .mem]
  | .notice _ _ _ => [.pew, .eng]
  | .flag _ _ _ => [.parts, .pew, .eng]
  | .fwMsg _ _ _ => [.pew, .eng]
  | .txGo _ => [.eng]
  | .rxPop _ => [.eng]
  | .cntCreate _ _ => [.host, .fab, .pew, .eng]
  | .cntClaim _ _ => [.pew, .eng]
  | .claimHeldAnswer _ => [.eng]
  | .cntRetire _ _ => [.parts, .pew, .eng, .mem]
  | .cntWithdraw _ _ => [.pew, .eng]
  | .cntQuery _ _ => [.pew, .eng]
  | .cntDestroy _ _ => [.pew, .eng]
  | .cntRsp _ _ => [.pew, .eng]
  | .layerStart _ _ _ _ _ _ => [.host, .parts, .rtes, .fab, .pew, .eng]
  | .layerComplete _ _ _ _ _ => [.freeCtr, .host, .parts, .rtes, .power, .pew, .eng, .mem]
  | .promptCheck _ => [.host, .rtes, .fab, .pew, .mem]
  | .prefillChunkStart _ _ _ => [.parts, .rtes, .mem]
  | .prefillChunkCommit _ => [.host, .parts, .rtes, .power, .pew, .eng]
  | .decodeStepStart _ _ _ => [.freeCtr, .parts, .rtes, .pew, .eng, .mem]
  | .decodeStepOutput _ => [.parts]
  | .decodeStepCommit _ => [.host, .parts, .rtes, .power, .pew, .eng]
  | .streamEntryWrite _ => [.host, .rtes]
  | .completionWrite _ _ => [.host, .parts, .rtes]
  | .recordRingWrite _ => [.host, .parts, .rtes]
  | .steeringBindComplete _ _ => [.host, .parts, .rtes, .mem]
  | .halfDispatch _ _ _ _ _ => [.host, .parts, .rtes, .fab, .pew, .eng, .mem]
  | .jobArrival _ _ _ => [.parts, .fab, .pew]
  | .jobComplete _ _ _ => [.host, .parts, .fab, .pew]
  | .resultArrival _ _ _ _ => [.host, .parts, .rtes, .fab, .eng, .mem]
  | .texchExpiry _ _ _ => [.parts, .mem]
  | .xlimitExpiry _ _ _ => [.host, .parts, .rtes, .eng, .mem]
  | .memoryReadReturn _ _ _ _ => [.freeCtr, .host, .parts, .rtes, .pew, .eng, .mem]
  | .tier1ReadLate _ => [.freeCtr, .host, .parts, .rtes, .pew, .eng, .mem]
  | .periodicRefresh _ _ => [.mem]
  | .rfmRequest _ _ => [.mem]
  | .maintenanceWindow _ => [.mem]
  | .periodicCalibration _ _ => [.freeCtr, .host, .parts, .rtes, .pew, .eng, .mem]
  | .patrolScrub _ _ _ => [.freeCtr, .host, .parts, .rtes, .pew, .eng, .mem]
  | .sramScrub _ _ _ _ => [.host, .parts, .rtes, .pew, .eng, .mem]
  | .opticalBiasCalibration _ _ => []
  | .ageingMeasurement _ _ => [.pew]
  | .hostlimExpiry _ => [.freeCtr, .host, .parts, .rtes, .fab, .sec, .pew, .eng]
  | .pcieCompletionTimeout _ => [.freeCtr, .host, .parts, .rtes, .fab, .sec, .pew, .eng]
  | .hostErrorCompletion _ => [.freeCtr, .host, .parts, .rtes, .fab, .sec, .pew, .eng]
  | .linkLeavesDlActive => [.freeCtr, .host, .parts, .rtes, .fab, .sec, .pew, .eng]
  | .rd _ => [.fab, .pew, .mem]
  | .wr _ => [.host, .parts, .fab, .pew, .mem]
  | .rdata _ => [.freeCtr, .host, .parts, .rtes, .fab, .sec, .pew, .eng, .mem]
  | .wack _ => [.freeCtr, .host, .parts, .rtes, .fab, .sec, .pew, .eng, .mem]
  | .peerlimExpiry _ => [.freeCtr, .host, .parts, .rtes, .fab, .sec, .pew, .eng, .mem]
  | .segment _ _ => [.host, .parts, .fab, .pew, .mem]
  | .ack _ _ => [.host, .parts, .fab, .pew, .mem]
  | .nack _ _ => [.host, .parts, .fab, .pew, .mem]
  | .chainAbort _ _ => [.host, .parts, .fab, .pew]
  | .chainPredecessorSilent _ _ => [.host, .parts, .fab, .pew]
  | .pollPass => [.host, .fab, .pew]
  | .doorbellLineRead _ _ _ => [.host, .fab, .pew]
  | .descriptorFetch _ _ => [.host]
  | .queueCreate _ => [.host]
  | .queueDelete _ => [.host, .parts]
  | .recordRingSet _ => [.host, .parts]
  | .telemetryReadDrops _ => [.host]
  | .telemetryReadEnergy _ => [.host]
  | .partCreate _ => [.host, .fab, .pew]
  | .partDestroy _ => [.host, .parts, .rtes, .fab, .sec, .pew, .eng]
  | .capSet _ => [.host, .parts, .power, .pew]
  | .requestOpen _ => [.host, .parts, .rtes, .fab, .pew, .mem]
  | .requestCancel _ => [.host, .rtes]
  | .steeringBind _ => [.host, .fab, .pew, .mem]
  | .modelSelect _ => [.host, .parts, .eng]
  | .modelSelectComplete _ => [.host, .parts, .eng]
  | .modelChain _ => [.freeCtr, .host, .parts, .fab, .pew, .eng, .mem]
  | .modelEvict _ => [.host, .parts, .eng]
  | .imageRegister _ => [.host, .parts]
  | .registrationDone _ _ _ => [.host, .parts]
  | .graphRun _ => [.host, .parts]
  | .copy _ => [.host, .fab, .pew, .mem]
  | .copyComplete _ => [.host, .parts]
  | .fence _ => [.host]
  | .fenceRelease _ => [.host]
  | .counterOp _ => [.host]
  | .aqenWrite _ _ => [.host, .parts]
  | .setupLock _ => [.host, .sec]
  | .pollWrite _ _ => [.host]
  | .mbpop _ _ => [.host]
  | .txsend _ _ _ => [.host, .eng]
  | .mbox _ _ _ => [.host, .pew, .eng]
  | .registerWrite _ _ _ _ => [.host, .eng]
  | .msixVectorUnmask _ _ => [.host]
  | .imodTimerExpiry _ _ => [.host]
  | .vfFlr _ => [.host, .parts, .rtes, .fab, .pew, .eng]
  | .vfEnableClear => [.host, .parts, .rtes, .fab, .pew, .eng]
  | .pfFlr => [.host, .parts, .rtes, .fab, .pew, .eng]
  | .flitReceive _ _ _ => [.freeCtr, .host, .parts, .rtes, .fab, .sec, .pew, .eng, .mem]
  | .nak _ _ => [.freeCtr, .host, .parts, .rtes, .fab, .sec, .pew, .eng, .mem]
  | .ackIdleTimer _ => [.fab]
  | .ackStallTimeout _ => [.freeCtr, .host, .parts, .rtes, .fab, .sec, .pew, .eng, .mem]
  | .laneLockLoss _ => [.freeCtr, .host, .parts, .rtes, .fab, .sec, .pew, .eng, .mem]
  | .portRelock _ _ => [.freeCtr, .host, .parts, .rtes, .fab, .sec, .pew, .eng, .mem]
  | .retrainTimeout _ => [.freeCtr, .host, .parts, .rtes, .fab, .sec, .pew, .eng, .mem]
  | .downRetry _ => [.fab]
  | .portLock _ => [.fab]
  | .identSend _ => [.fab, .pew]
  | .ident _ => [.freeCtr, .host, .parts, .rtes, .fab, .sec, .pew, .eng, .mem]
  | .noRecord _ => [.freeCtr, .host, .parts, .rtes, .fab, .sec, .pew, .eng, .mem]
  | .unitErrorRecovery => [.host, .parts, .rtes, .pew, .eng, .mem]
  | .selfTestDone _ _ _ => [.freeCtr, .host, .parts, .rtes, .pew, .eng, .mem]
  | .returnTestStart _ _ => [.parts, .eng, .mem]
  | .enAssert => [.power, .pew]
  | .enDeassert => [.host, .parts, .rtes, .power, .sec, .pew]
  | .powerGood => [.tick, .power, .pew]
  | .railStartFail _ => [.power, .pew]
  | .railOutOfWindow _ => [.freeCtr, .host, .parts, .rtes, .fab, .power, .sec, .pew, .eng, .mem, .setup]
  | .inputUndervoltage _ => [.host, .parts, .rtes, .power, .sec, .pew]
  | .inputCollapse _ => [.host, .parts, .rtes, .fab, .power, .sec, .pew, .eng, .mem, .setup]
  | .inputRestart _ => [.power, .pew]
  | .inputOvervoltage _ => [.host, .parts, .rtes, .fab, .power, .sec, .pew, .eng, .mem, .setup]
  | .pfwRecognised => [.host, .parts, .rtes, .power, .sec, .pew]
  | .pfwPowerOff => [.host, .parts, .rtes, .fab, .power, .sec, .pew, .eng, .mem, .setup]
  | .droopTrip _ => [.power]
  | .droopRelease _ _ => [.freeCtr, .host, .parts, .rtes, .fab, .power, .sec, .pew, .eng, .mem, .setup]
  | .powerSample _ _ => [.parts, .power, .pew]
  | .governorAction => [.freeCtr, .parts, .power, .pew]
  | .floorPaceClimb => [.power, .pew]
  | .departureReturn => [.parts, .power, .pew]
  | .thermalSample _ _ _ => [.host, .parts, .rtes, .power, .pew, .eng]
  | .thermalStopEnd => [.power, .pew, .eng]
  | .hardwareTrip => [.host, .parts, .rtes, .fab, .power, .sec, .pew, .eng, .mem, .setup]
  | .heartbeatLost => [.parts, .power, .pew]
  | .perstAssert => [.host, .parts, .rtes, .fab, .power, .sec, .pew, .eng, .setup]
  | .bootStart _ => [.freeCtr, .host, .parts, .rtes, .power, .sec, .pew, .eng]
  | .lpddr6TrainingDone => [.sec]
  | .bundleRegister _ => [.host, .fab, .sec, .pew]
  | .bundleFetched => [.sec, .pew]
  | .fuseProgramDone _ => [.sec, .pew]
  | .bootRunning => [.host, .fab, .power, .sec, .pew, .eng, .setup]
  | .getVersion _ => [.sec]
  | .getCapabilities _ => [.freeCtr, .sec]
  | .negotiateAlgorithms _ => [.sec]
  | .getDigests _ => [.sec]
  | .getCertificate _ => [.sec]
  | .challenge _ => [.freeCtr, .sec]
  | .getMeasurements _ => [.sec]
  | .spdmUnsupportedRequest _ => [.sec]
  | .bootStatus _ => [.sec]
  | .sealRingSet _ => [.host, .sec]
  | .sealGet _ => [.sec]
  | .epochTimeEnd _ => [.parts]
  | .epochSeal _ => [.parts, .sec]
  | .sealRingWrite => [.host, .sec]
  | .standbyUp _ => [.sbTick, .power, .pew]
  | .pewterReady => [.power, .pew]
  | .standbyLoss => [.host, .parts, .rtes, .fab, .power, .sec, .pew, .eng, .mem, .setup]
  | .setdasa _ => [.pew]
  | .entdaa _ => [.pew]
  | .i3cIndexWrite _ => [.pew]
  | .i3cRegisterWrite _ _ => [.pew]
  | .heartbeat _ => [.parts, .power, .pew]
  | .settingsPut _ => [.parts, .power, .pew]
  | .planPut _ => [.pew]
  | .telemGet _ => [.pew]
  | .logGet _ => [.pew]
  | .returnUnit _ => [.fab, .pew, .eng]
  | .settingsGet _ => [.pew]
  | .sring _ => [.host, .pew]
  | .sset _ => [.host, .pew]
  | .sstop _ => [.host, .pew]
  | .sampleTick _ _ _ => [.host, .pew]
  | .hostReadCompletion _ _ => [.freeCtr, .host, .parts, .rtes, .fab, .sec, .pew, .eng, .mem]
  | .hostLinkDlActive => [.host]
  | .vfEnableSet => [.host]
  | .partCreateComplete _ => [.host, .parts, .sec, .eng, .mem]
  | .cobaltTimerCompare _ => [.eng]
  | .startRampPaceStep => [.power]
  | .rackManagerMalformed _ => [.pew]

end Sys2Proof
end

