-- ==== Sys2Proof/Certificates/Slice0/Obligations.lean ====
section
/-! DEFINITION. The statements for the provers. A statement that gives the next state in full is its command's frame too. -/

open Sys2Proof Sys2Proof.Machine

/-- R90, R92, R95: the firings of a cell, each with the whole next state. -/
def Obligations.CellFirings : Prop :=
  ((∀ (s : State) (row col : Nat) (c : Cell) (a b : Item), isCell row col → ¬ coreHeld s (coreOfCell row col) →
    getCell s row col = c → c.op = 1 → c.macWait = none → c.mac.begun = true →
    SGet none c.latch 4 = some a → a.kind = 0 → SGet none c.latch 5 = some b → b.kind = 0 →
    (bit c.w1 17 → c.mac.sa.isSome) → (bit c.w1 18 → c.mac.sb.isSome) →
    ∃ c', MacFires (cellMode s row col) c c'
        ((itemElems (Fmt.ofCode (bits c.w1 3 3)) a.pay).zip (itemElems (Fmt.ofCode (bits c.w1 3 3)) b.pay)) none
        (SSet none (SSet none c.latch 5 none) 4 none) (a.flg ||| b.flg) ∧
      exec (.macFiring row col false) s = .next (setCell s row col c') ∧
      exec (.macFiring row col true) s = .next (reportError (setCell s row col c') utCore 0x01 (coreOfCell row col) 0)) ∧
  (∀ (s : State) (row col : Nat) (c : Cell) (a : Item), isCell row col → ¬ coreHeld s (coreOfCell row col) →
    getCell s row col = c → c.op = 2 → c.macWait = none → c.mac.begun = true →
    SGet none c.latch 4 = some a → a.kind = 0 → (∀ b, SGet none c.latch 5 = some b → b.kind = 0) → (bit c.w1 17 → c.mac.sa.isSome) →
    ∃ c', MacFires (cellMode s row col) c c'
        ((itemElems (Fmt.ofCode (bits c.w1 3 3)) a.pay).map (fun x => (x, bits c.w3 0 (Fmt.ofCode (bits c.w1 3 3)).width)))
        (some (sext 8 (bits c.w2 20 8))) (SSet none c.latch 4 none) a.flg ∧
      exec (.maclFiring row col false) s = .next (setCell s row col c') ∧
      exec (.maclFiring row col true) s = .next (reportError (setCell s row col c') utCore 0x01 (coreOfCell row col) 0)) ∧
  (∀ (s : State) (row col : Nat) (bad : Bool) (c : Cell), isCell row col → ¬ coreHeld s (coreOfCell row col) →
    getCell s row col = c → c.macWait = none → c.mac.begun = false → SGet none c.latch 4 = none → SGet none c.latch 5 = none →
    (∀ c', (c.sel 6 = 0 ∧ c' = { c with mac := { c.mac with begun := true } }) ∨
        (c.sel 6 ≠ 0 ∧ ∃ i, SGet none c.latch 6 = some i ∧ c' = { c with
          mac := { c.mac with begun := true, acc := i.pay % 2 ^ 32, flg := c.mac.flg ||| i.flg }, latch := SSet none c.latch 6 none }) →
      (c.op = 1 → exec (.macFiring row col bad) s = .next (setCell s row col c')) ∧
      (c.op = 2 → exec (.maclFiring row col bad) s = .next (setCell s row col c')))) ∧
  (∀ (s : State) (row col : Nat) (bad : Bool) (c : Cell) (i : Item), isCell row col → ¬ coreHeld s (coreOfCell row col) →
    getCell s row col = c → c.macWait = none → c.mac.begun = true → SGet none c.latch 5 = none →
    SGet none c.latch 4 = some i → i.kind = 2 → c.mac.sa = none → ∀ c', c' = { c with
      mac := { c.mac with sa := some (sext 8 i.pay), flg := c.mac.flg ||| i.flg }, latch := SSet none c.latch 4 none } →
    (c.op = 1 → exec (.macFiring row col bad) s = .next (setCell s row col c')) ∧
    (c.op = 2 → exec (.maclFiring row col bad) s = .next (setCell s row col c'))) ∧
  (∀ (md : Mode) (wraps : Bool) (f : Fmt) (n : Nat) (lscl : Option Int) (ps qs : List (Nat × Nat)) (m : MacSt),
    macPairs md wraps f n lscl (ps ++ qs) m = macPairs md wraps f n lscl qs (macPairs md wraps f n lscl ps m)) ∧
  (∀ (md : Mode) (wraps : Bool) (f : Fmt) (l : Int) (ps : List (Nat × Nat)) (acc : Nat),
    (let m := macPairs md wraps f ps.length none ps { begun := true, acc := acc }
     (m.acc, m.flg) = dot md wraps f ps [] [] acc ∧ m.k = ps.length) ∧
    (let m := macPairs md wraps f ps.length (some l) ps { begun := true, acc := acc }
     (m.acc, m.flg) = dot md wraps f ps [] (List.replicate (ceilDiv ps.length 32) l) acc))) ∧
  (∀ (s : State) (row col : Nat) (c : Cell), isCell row col → ¬ coreHeld s (coreOfCell row col) → getCell s row col = c → c.op = 3 →
    (∀ i x r, SGet none c.latch 4 = some i → c.fu = none → c.delay.length < 32 → c.delay ++ [i] = x :: r →
      exec (.delayFiring row col) s = .next (setCell s row col { c with fu := some x, delay := r, latch := SSet none c.latch 4 none })) ∧
    (∀ i y, SGet none c.latch 4 = some i → c.fu = some y → c.delay.length < 31 →
      exec (.delayFiring row col) s = .next (setCell s row col { c with delay := c.delay ++ [i], latch := SSet none c.latch 4 none })) ∧
    (∀ x r, SGet none c.latch 4 = none → c.fu = none → c.delay = x :: r →
      exec (.delayFiring row col) s = .next (setCell s row col { c with fu := some x, delay := r }))) ∧
  (∀ (s : State) (row col : Nat) (c : Cell) (i : Item) (b : Bool) (f : Flg), isCell row col →
    ¬ coreHeld s (coreOfCell row col) → getCell s row col = c → c.op = 4 → c.fu = none → SGet none c.latch 4 = some i →
    i.kind = 0 →
    testCond (cellMode s row col).flush (Fmt.ofCode (bits c.w1 3 3)) (bits c.w1 19 2)
      (bits i.pay 0 (Fmt.ofCode (bits c.w1 3 3)).width) = (b, f) →
    exec (.testFiring row col) s =
      .next (setCell s row col { c with
        fu := some ⟨i.flg ||| f ||| c.owed, 1, b2n b⟩, owed := 0, latch := SSet none c.latch 4 none })) ∧
  ((∀ (s : State) (row col : Nat) (c : Cell) (d k : Item), isCell row col → ¬ coreHeld s (coreOfCell row col) →
    getCell s row col = c → c.skind = 1 → SGet none c.latch 7 = some d → SGet none c.latch 9 = some k →
    (bit k.pay 0 = true → c.st1 = none →
      exec (.steerFiring row col) s = .next (setCell s row col { c with
        latch := SSet none (SSet none c.latch 7 none) 9 none, owed := 0, st1 := some { d with flg := d.flg ||| k.flg ||| c.owed } })) ∧
    (bit k.pay 0 = false → c.st0 = none →
      exec (.steerFiring row col) s = .next (setCell s row col { c with
        latch := SSet none (SSet none c.latch 7 none) 9 none, owed := 0, st0 := some { d with flg := d.flg ||| k.flg ||| c.owed } }))) ∧
  (∀ (s : State) (row col n : Nat) (c : Cell) (d k : Item), isCell row col → ¬ coreHeld s (coreOfCell row col) →
    getCell s row col = c → c.skind = 2 → SGet none c.latch 9 = some k → n = (if bit k.pay 0 then 8 else 7) →
    SGet none c.latch n = some d → c.st0 = none →
    exec (.mergeFiring row col) s = .next (setCell s row col { c with
      latch := SSet none (SSet none c.latch n none) 9 none, owed := 0, st0 := some { d with flg := d.flg ||| k.flg ||| c.owed } })) ∧
  (∀ (s : State) (row col : Nat) (c : Cell) (d k : Item), isCell row col → ¬ coreHeld s (coreOfCell row col) →
    getCell s row col = c → c.skind = 3 → SGet none c.latch 7 = some d → SGet none c.latch 9 = some k →
    (bit k.pay 0 = bit c.w4 12 → c.st0 = none →
      exec (.gateFiring row col) s = .next (setCell s row col { c with
        latch := SSet none (SSet none c.latch 7 none) 9 none, owed := 0, st0 := some { d with flg := d.flg ||| k.flg ||| c.owed } })) ∧
    (bit k.pay 0 ≠ bit c.w4 12 →
      exec (.gateFiring row col) s = .next (setCell s row col { c with
        latch := SSet none (SSet none c.latch 7 none) 9 none, owed := c.owed ||| d.flg ||| k.flg }))) ∧
  (∀ (s : State) (row col n : Nat) (c : Cell) (d : Item) (kf : Flg), isCell row col → ¬ coreHeld s (coreOfCell row col) →
    getCell s row col = c → c.skind = 4 → SGet none c.latch 7 = some d →
    (c.sel 9 = 0 ∧ SGet none c.latch 9 = none ∧ kf = 0 ∧ n = c.reps.getD (bits c.w4 16 16) ∨
      c.sel 9 ≠ 0 ∧ ∃ k, SGet none c.latch 9 = some k ∧ kf = k.flg ∧ n = c.reps.getD (bits k.pay 0 16)) →
    (n = 0 → exec (.repeatFiring row col) s = .next (setCell s row col { c with
        latch := SSet none (SSet none c.latch 7 none) 9 none, reps := none, owed := c.owed ||| d.flg ||| kf })) ∧
    (n = 1 → c.st0 = none → exec (.repeatFiring row col) s = .next (setCell s row col { c with
        latch := SSet none (SSet none c.latch 7 none) 9 none, reps := none, st0 := some d, owed := c.owed ||| kf })) ∧
    (1 < n → c.st0 = none → exec (.repeatFiring row col) s = .next (setCell s row col { c with st0 := some d, reps := some (n - 1) }))) ∧
  (∀ (s : State) (row col n : Nat) (c : Cell) (d : Item) (fl : Flg), isCell row col → ¬ coreHeld s (coreOfCell row col) →
    getCell s row col = c → c.skind = 5 → SGet none c.latch 7 = some d → c.st0 = none → n = c.reps.getD (bits c.w4 16 16) →
    fl = (if c.reps.isNone then d.flg ||| c.owed else d.flg) →
    (n ≤ 1 → exec (.countFiring row col) s = .next (setCell s row col { c with
        owed := if c.reps.isNone then 0 else c.owed
        st0 := some ⟨fl, 1, 0⟩, reps := none, latch := SSet none c.latch 7 none })) ∧
    (1 < n → exec (.countFiring row col) s = .next (setCell s row col { c with
        owed := if c.reps.isNone then 0 else c.owed
        st0 := some ⟨fl, 1, 1⟩, reps := some (n - 1) }))))

/-- R80, R81, R84: transfers on lanes. -/
def Obligations.LaneEvents : Prop :=
  (∀ (s : State) (row col src cons : Nat) (i : Item), isCell row col → offered s row col src = some i →
    ¬ coreHeld s (coreOfCell row col) → src < 8 → (getCell s row col).sel cons = src →
    bit (SGet 0 (getCell s row col).taken src) cons = false → i.kind < 4 → i.pay < 2 ^ 32 →
    (4 ≤ cons → cons < 10 → SGet none (getCell s row col).latch cons = none → kindTaken (getCell s row col) cons i.kind →
      ∃ t, exec (.itemTransfer row col src cons 0) s = .next t ∧ SGet none (getCell t row col).latch cons = some i ∧
        t.mem = s.mem ∧ t.parts = s.parts ∧ t.host = s.host ∧ t.pew = s.pew) ∧
    (cons < 4 → (SGet [] (getCell s row col).outs cons).length < laneCap row col (getCell s row col) cons →
      ∃ t, exec (.itemTransfer row col src cons 0) s = .next t ∧
        SGet [] (getCell t row col).outs cons = SGet [] (getCell s row col).outs cons ++ [i] ∧
        t.mem = s.mem ∧ t.parts = s.parts ∧ t.host = s.host ∧ t.pew = s.pew)) ∧
  (∀ (s : State) (row col d : Nat) (i : Item), isCell row col → d < 4 → offered s row col (d + 8) = some i →
    ¬ coreHeld s (coreOfCell row col) → i.kind < 4 → i.pay < 2 ^ 32 →
    (SGet [] (getCore s (coreOfCell row col)).fout (portLane row col d)).length < 8 →
    ∃ t, exec (.itemTransfer row col (d + 8) 10 0) s = .next t ∧
      SGet [] (getCore t (coreOfCell row col)).fout (portLane row col d) =
        SGet [] (getCore s (coreOfCell row col)).fout (portLane row col d) ++ [i] ∧
      t.mem = s.mem ∧ t.parts = s.parts ∧ t.host = s.host ∧ t.pew = s.pew) ∧
  (∀ (s : State) (row col side k : Nat), isCell row col → 64 ≤ SGet 0 s.eng.laneWait (8 * (1024 * row + col) + side) →
    ¬ coreHeld s (coreOfCell row col) →
    (side < 4 ∧ (offered s row col (side + 1)).isSome ∧ k ∈ (getCell s row col).consumers (side + 1) ∧
        bit (SGet 0 (getCell s row col).taken (side + 1)) k = false ∧ hasRoom row col (getCell s row col) k ∨
      4 ≤ side ∧ side < 8 ∧ (offered s row col (side + 4)).isSome ∧
        (SGet [] (getCore s (coreOfCell row col)).fout (portLane row col (side - 4))).length < 8) →
    exec (.handshakeAnomaly row col side) s = .next (reportError s utCore 0x04 (coreOfCell row col) 0))

/-- R103, R107, R109, R112: the life of a placement. -/
def Obligations.PlacementsOfConfigurations : Prop :=
  (∀ (s : State) (place : Nat) (pl : Placement), s.eng.places.find? (fun p => p.id == place) = some pl →
    pl.stallTicks ≤ pl.idle → itemsPending s pl → exec (.stallTimeout place) s = .next (arrayFault s pl 1)) ∧
  (∀ (s u : State) (part img sect v r c : Nat) (run : Option Nat) (ci : CfgImg) (ctx : Ctx) (all : Bool) (secs : List Nat),
    ctxImage s part run img = some (ci, ctx, all) → s.sec.state = 4 → sect < nArrays s ci →
    u = modEng s (fun e => { e with nextPlace := e.nextPlace + 1 }) →
    findRect u ci (arrayOff s ci sect) (fun n => roleSector u part all n && sectorFree u n) = some (v, r, c, secs) →
    ∃ t pl, exec (.variantPlace part run img sect) s = .next t ∧ t.eng.places = s.eng.places ++ [pl] ∧
      pl.id = s.eng.nextPlace ∧ t.eng.nextPlace = s.eng.nextPlace + 1 ∧ pl.part = part ∧ pl.ctx = ctx ∧ pl.variant = v ∧
      pl.row = r ∧ pl.col = c ∧ pl.sectors = secs ∧ pl.begun = [] ∧
      pl.loading = ((numbered 0 secs).filter (fun x =>
        SGet none s.eng.loaded x.2 != some (recordsOf s ci (arrayOff s ci sect) v x.1))).map (·.2) ∧
      t.mem = s.mem ∧ t.parts = s.parts ∧ t.rtes = s.rtes ∧ t.host = s.host ∧ t.eng.cells = s.eng.cells) ∧
  (∀ (s u : State) (part img sect : Nat) (run : Option Nat) (ci : CfgImg) (ctx : Ctx) (all : Bool),
    ctxImage s part run img = some (ci, ctx, all) → s.sec.state = 4 → sect < nArrays s ci →
    u = modEng s (fun e => { e with nextPlace := e.nextPlace + 1 }) →
    findRect u ci (arrayOff s ci sect) (fun n => roleSector u part all n && sectorFree u n) = none →
    s.eng.waits.any (fun x => x.id == s.eng.nextPlace) = false →
    ∃ t w, exec (.variantPlace part run img sect) s = .next t ∧ t.eng.waits = s.eng.waits ++ [w] ∧ w.id = s.eng.nextPlace ∧
      w.part = part ∧ w.ctx = ctx ∧ w.sect = arrayOff s ci sect ∧ t.eng.places = s.eng.places ∧ t.mem = s.mem ∧ t.parts = s.parts) ∧
  (∀ (s : State) (wait v r c : Nat) (w : Placement) (secs : List Nat), s.eng.waits.find? (fun x => x.id == wait) = some w →
    findRect s (placeImg w) w.sect (fun n => roleSector s w.part w.all n && sectorFree s n) = some (v, r, c, secs) →
    ∃ t pl, exec (.placementResume wait) s = .next t ∧ t.eng.places = s.eng.places ++ [pl] ∧ pl.id = w.id ∧ pl.variant = v ∧
      pl.sectors = secs ∧ pl.loading = ((numbered 0 secs).filter (fun x =>
        SGet none s.eng.loaded x.2 != some (recordsOf s (placeImg w) w.sect v x.1))).map (·.2) ∧
      t.eng.waits = s.eng.waits.filter (fun x => x.id != w.id) ∧ t.mem = s.mem ∧ t.parts = s.parts ∧ t.eng.cells = s.eng.cells) ∧
  (∀ (s : State) (sector : Nat) (pl : Placement), isSector sector →
    s.eng.places.find? (fun p => p.loading.contains sector && !p.begun.contains sector) = some pl →
    exec (.sectorLoad sector) s = .next (modEng (clearSector s sector) (fun e => { e with
      loaded := SSet none e.loaded sector none
      places := updateWhere (fun x => x.id == pl.id) (fun x => { x with begun := x.begun ++ [sector] }) e.places }))) ∧
  (∀ (s : State) (sector i o crc : Nat) (pl : Placement) (rec' : List Byte), isSector sector →
    s.eng.places.find? (fun p => p.loading.contains sector && p.begun.contains sector) = some pl →
    i = (firstIdx (· == sector) pl.sectors).getD 0 →
    o = pl.sect + fld (varDesc s (placeImg pl) pl.sect pl.variant) 8 8 + 524288 * i →
    crc = ciFld s (placeImg pl) (pl.sect + fld (varDesc s (placeImg pl) pl.sect pl.variant) 0x18 8 + 4 * i) 4 →
    rec' = ciGet s (placeImg pl) o 524288 → (crc32c rec').toNat = crc → memLost s (ciLocal s (placeImg pl) o) 524288 = false →
    exec (.sectorLoadDone sector) s = .next (releaseSector (modEng (loadCells s sector rec') (fun e => { e with
      loaded := SSet none e.loaded sector (some (recordsOf s (placeImg pl) pl.sect pl.variant i))
      places := updateWhere (fun x => x.id == pl.id)
        (fun x => { x with loading := x.loading.filter (· != sector), begun := x.begun.filter (· != sector) }) e.places })) sector)) ∧
  (∀ (s : State) (sector : Nat), isSector sector →
    (s.eng.places.find? (fun p => p.sectors.contains sector) = none →
      exec (.sectorClear sector) s = .next (clearSector s sector)) ∧
    (∀ pl, s.eng.places.find? (fun p => p.sectors.contains sector) = some pl → atBoundary s pl → ¬ pl.loading.contains sector →
      exec (.sectorClear sector) s = .next (modEng (clearSector s sector) (fun e => { e with
        places := (updateWhere (fun x => x.id == pl.id)
          (fun x => { x with sectors := x.sectors.filter (· != sector) }) e.places).filter (fun x => !x.sectors.isEmpty) }))))

/-- R149: the messages of a core's control window. -/
def Obligations.WindowDeliveries : Prop :=
  (∀ (s : State) (src dst : Nat) (m : Tin), isCore dst → winHead s 0x01 src dst = some m → ¬ outOfService s utCore dst →
    (winKind m = 0 → exec (.winWr src dst false) s =
      .next (modCore (tinDrop s m) dst (fun c => winPut c (m.arg % 2 ^ 32) m.data))) ∧
    (winKind m = 0 → exec (.winWr src dst true) s = .next (tinBad s m)) ∧
    (winKind m = 1 → exec (.rgdWrite src dst true) s = .next (tinBad s m)) ∧
    (winKind m = 2 → exec (.evWrite src dst true) s = .next (tinBad s m)) ∧
    (winKind m = 3 → exec (.tagEntryWrite src dst true) s = .next (tinBad s m)) ∧
    (winKind m = 4 → exec (.vctlAbort src dst true) s = .next (tinBad s m)) ∧
    (winKind m = 5 → exec (.vctlGo src dst true) s = .next (tinBad s m)) ∧
    (winKind m = 1 → exec (.rgdWrite src dst false) s =
      .next (modCore (tinDrop s m) dst (fun c => winPut c (m.arg % 2 ^ 32) m.data))) ∧
    (winKind m = 2 → exec (.evWrite src dst false) s =
      .next (modCore (tinDrop s m) dst (fun c => winPut c (m.arg % 2 ^ 32) m.data))) ∧
    (winKind m = 3 → exec (.tagEntryWrite src dst false) s =
      .next (modCore (tinDrop s m) dst (fun c => winPut c (m.arg % 2 ^ 32) m.data))) ∧
    (winKind m = 4 → exec (.vctlAbort src dst false) s =
      .next (modCore (tinDrop s m) dst (fun c => winPut c (m.arg % 2 ^ 32) m.data))) ∧
    (winKind m = 5 → exec (.vctlGo src dst false) s =
      .next (modCore (tinDrop s m) dst (fun c => winPut c (m.arg % 2 ^ 32) m.data)))) ∧
  (∀ (s : State) (src dst : Nat) (m : Tin), isCore dst → winHead s 0x02 src dst = some m →
    ¬ outOfService s utCore dst → exec (.winRd src dst false) s = .next (tinSend (tinDrop s m) {
      dst := src, src := dst, typ := 0x03, part := (partOfSector (tinDrop s m) (dst / 64)).getD 0, tag := m.tag
      data := winRead (getCore (tinDrop s m) dst) (m.arg % 2 ^ 32) (bits m.arg 40 8) })) ∧
  (∀ (s : State) (src dst : Nat) (m : Tin), 0x1000 ≤ dst → dst < 0x1040 → tinFront s true src dst = some m →
    (getCob s (dst - 0x1000)).rxq.length < 64 →
    (m.typ = 0x03 → exec (.winRsp src dst false) s = .next (rxArrive (tinDrop s m) (dst - 0x1000) m)) ∧
    (m.typ = 0x0A → exec (.seStat src dst false) s = .next (rxArrive (tinDrop s m) (dst - 0x1000) m)))

/-- R122, R143, R144: window writes of VCTL and of region descriptors. -/
def Obligations.ControlAndDescriptorWrites : Prop :=
  (∀ (c : Core) (v : Nat),
    (bit v 30 = false → bit v 31 = true → c.busy = false → (vctlWrite c v).busy = true ∧ (vctlWrite c v).vpc = v % 1024 ∧
      (vctlWrite c v).a = [] ∧ (vctlWrite c v).l = [] ∧ (vctlWrite c v).nr = 32 ∧ (vctlWrite c v).nb = 32 ∧
      (vctlWrite c v).fault = false) ∧
    (bit v 30 = false → c.busy = true → vctlWrite c v = { c with entry := v % 1024 }) ∧
    (bit v 30 = true → (vctlWrite c v).busy = false) ∧
    (vctlWrite c v).spad = c.spad ∧ (vctlWrite c v).tregs = c.tregs ∧ (vctlWrite c v).rowFlg = c.rowFlg ∧
    (vctlWrite c v).ev = c.ev ∧ (vctlWrite c v).vim = c.vim ∧ (vctlWrite c v).rgd = c.rgd ∧ (vctlWrite c v).entry = v % 1024) ∧
  (∀ (c : Core) (n v k : Nat),
    (rgdCause c n (putBits (v % 2 ^ 58) 42 3 0) = none →
      (rgdWrite c n v).rg n = (BitVec.ofNat 64 (putBits (v % 2 ^ 58) 42 3 0)).toNat ∧
      (rgdWrite c n v).rgerr = c.rgerr ∧ (∀ i, i ≠ n → (rgdWrite c n v).rg i = c.rg i)) ∧
    (rgdCause c n (putBits (v % 2 ^ 58) 42 3 0) = some k →
      (rgdWrite c n v).rgd = c.rgd ∧ (rgdWrite c n v).rgerr = BitVec.ofNat 64 (k + 2 ^ 16 * n + 2 ^ 31))) ∧
  (∀ (c : Core) (v : Nat), v < 2 ^ 64 → winPut c 0x08 (leBytes 8 v) = vctlWrite c v) ∧
  (∀ (c : Core) (n v : Nat), n < 16 → v < 2 ^ 64 → winPut c (0x40 + 8 * n) (leBytes 8 v) = rgdWrite c n v) ∧
  (∀ (c : Core) (n v j : Nat), n < 4 → v < 2 ^ 64 →
    SGet 0#16 (winPut c (0xC0 + 8 * n) (leBytes 8 v)).ev j =
      if j / 4 = n then BitVec.ofNat 16 (bits v (16 * (j % 4)) 16) else SGet 0#16 c.ev j) ∧
  (∀ (c : Core) (i v : Nat), i < 1024 → v < 2 ^ 64 →
    winPut c (0x4000 + 16 * i) (leBytes 8 v) = { c with tags := SSet {} c.tags i { SGet {} c.tags i with
      crc := v % 2 ^ 32, valid := bit v 32, checked := bit v 33 && !bit v 32 } } ∧
    winPut c (0x4008 + 16 * i) (leBytes 8 v) = { c with tags := SSet {} c.tags i { SGet {} c.tags i with home := v % 2 ^ 42 } })

/-- R127, R128: the tile checker. -/
def Obligations.TileChecks : Prop :=
  (∀ (s : State) (core entry a n : Nat) (upset : List (Nat × Nat)), isCore core → (getCore s core).checking.contains entry →
    tileOf (getCore s core) entry = some (a, n) →
    (crc32c (spadBytes (getCore s core) a n)).toNat = (SGet {} (getCore s core).tags entry).crc →
    (∀ u ∈ upset, u.2 < 2) →
    ∃ t, exec (.tileCheckDone core entry upset) s = .next t ∧ (SGet {} (getCore t core).tags entry).checked = true ∧
      entry ∉ (getCore t core).checking ∧ (getCore t core).spad = (getCore s core).spad ∧
      (∀ n', n' ≠ core → getCore t n' = getCore s n') ∧ t.mem = s.mem ∧ t.parts = s.parts) ∧
  (∀ (s : State) (core entry a n : Nat), isCore core → (getCore s core).checking.contains entry →
    tileOf (getCore s core) entry = some (a, n) →
    (crc32c (spadBytes (getCore s core) a n)).toNat ≠ (SGet {} (getCore s core).tags entry).crc →
    ∃ t, exec (.tileCheckDone core entry []) s = .next t ∧ (SGet {} (getCore t core).tags entry).checked = false ∧
      entry ∉ (getCore t core).checking ∧ entry ∈ (getCore t core).refetch ∧ (getCore t core).spad = (getCore s core).spad ∧
      (∃ r, t.eng.reports = s.eng.reports ++ [r]) ∧ (∀ n', n' ≠ core → getCore t n' = getCore s n') ∧ t.mem = s.mem) ∧
  (∀ (s : State) (core entry a n : Nat), isCore core → (getCore s core).refetch.contains entry →
    tileOf (getCore s core) entry = some (a, n) → memLost s (SGet {} (getCore s core).tags entry).home (4 * n) = false →
    memWaits s (SGet {} (getCore s core).tags entry).home (4 * n) = false →
    (crc32c (memGet s (SGet {} (getCore s core).tags entry).home (4 * n))).toNat = (SGet {} (getCore s core).tags entry).crc →
    ∃ t, exec (.tileRefetchDone core entry) s = .next t ∧ (SGet {} (getCore t core).tags entry).checked = true ∧
      entry ∉ (getCore t core).refetch ∧
      (getCore t core).spad = (List.range n).foldl (fun m i => SSet 0#32 m (a + i) (BitVec.ofNat 32
        (fld (memGet s (SGet {} (getCore s core).tags entry).home (4 * n)) (4 * i) 4))) (getCore s core).spad ∧
      (∀ n', n' ≠ core → getCore t n' = getCore s n') ∧ t.mem.bytes = s.mem.bytes ∧ t.parts = s.parts)

/-- R150, R188: the endpoint registers and interrupts of a Cobalt core. -/
def Obligations.CobaltEndpoint : Prop :=
  (∀ (s : State) (src dst : Nat) (m : Tin), 0x1000 ≤ dst → dst < 0x1040 → tinFront s false src dst = some m →
    (getCob s (dst - 0x1000)).rxq.length < 64 →
    (m.typ = 0x04 → exec (.notice src dst false) s = .next (match noticeInt (m.arg % 256) with
      | some i => raiseInt (rxArrive (tinDrop s m) (dst - 0x1000) m) (dst - 0x1000) i
      | none => rxArrive (tinDrop s m) (dst - 0x1000) m)) ∧
    (m.typ = 0x05 → exec (.flag src dst false) s = .next (holdFlag (rxArrive (tinDrop s m) (dst - 0x1000) m) m.src
      (m.arg % 65536) (BitVec.ofNat 4 (bits m.arg 16 4)))) ∧
    (m.typ = 0x0B → exec (.fwMsg src dst false) s = .next (rxArrive (tinDrop s m) (dst - 0x1000) m)) ∧
    (m.typ = 0x04 → exec (.notice src dst true) s = .next (tinBad s m)) ∧
    (m.typ = 0x05 → exec (.flag src dst true) s = .next (tinBad s m)) ∧
    (m.typ = 0x0B → exec (.fwMsg src dst true) s = .next (tinBad s m))) ∧
  (∀ (s : State) (sector : Nat) (h : List Byte), isSector sector → (getCob s sector).busy = false →
    (getCob s sector).run = true → h = SGetRun 0 (getCob s sector).txbuf 0 272 →
    (txAllowed s sector h = true → ∃ t m, exec (.txGo sector) s = .next t ∧ t.eng.tin = s.eng.tin ++ [m] ∧
      m.dst = fld h 0 2 ∧ m.src = cobEp sector ∧ m.typ = fld h 4 1 ∧ m.arg = fld h 8 8 ∧
      m.data = (h.drop 16).take (bits (fld h 0 8) 40 9) ∧ (getCob t sector).busy = true) ∧
    (txAllowed s sector h = false → exec (.txGo sector) s = .next (modCob s sector (fun c => { c with denied := true })))) ∧
  (∀ (s : State) (sector : Nat), isSector sector → (getCob s sector).rxq ≠ [] →
    exec (.rxPop sector) s = .next (modCob s sector (fun c => { c with rxq := c.rxq.drop 1, head := (c.head + 1) % 64 }))) ∧
  (∀ (s : State) (sector n : Nat), isSector sector → (getCob s sector).timecmp = some n → n ≤ s.tick →
    ∃ t, exec (.cobaltTimerCompare sector) s = .next t ∧ (getCob t sector).timecmp = none ∧
      (getCob t sector).pend = (getCob s sector).pend ||| 8#4 ∧ t.mem = s.mem ∧ t.parts = s.parts ∧ t.host = s.host)

/-- R137: bitwise instructions and shifts. -/
def Obligations.VectorMovesAndLogic : Prop :=
  ∀ (s : State) (n w : Nat) (c : Core), c = getCore s n →
    (VecAt s n 0x03 w → ∃ t, exec (.vmov n) s = .next t ∧ VecFrame s t n (vTD w) ∧
      (∀ k < 256, (getCore t n).el (vTD w) 32 k = c.el (vTA w) 32 k) ∧
      ∀ r < 32, (getCore t n).rowF (vTD w) r = c.rowF (vTA w) r) ∧
    (VecAt s n 0x08 w → ∃ t, exec (.vand n) s = .next t ∧ VecFrame s t n (vTD w) ∧
      (∀ k < 256, (getCore t n).el (vTD w) 32 k = c.el (vTA w) 32 k &&& c.el (vTB w) 32 k) ∧
      ∀ r < 32, (getCore t n).rowF (vTD w) r = c.rowF (vTA w) r ||| c.rowF (vTB w) r) ∧
    (VecAt s n 0x09 w → ∃ t, exec (.vor n) s = .next t ∧ VecFrame s t n (vTD w) ∧
      (∀ k < 256, (getCore t n).el (vTD w) 32 k = c.el (vTA w) 32 k ||| c.el (vTB w) 32 k) ∧
      ∀ r < 32, (getCore t n).rowF (vTD w) r = c.rowF (vTA w) r ||| c.rowF (vTB w) r) ∧
    (VecAt s n 0x0A w → ∃ t, exec (.vxor n) s = .next t ∧ VecFrame s t n (vTD w) ∧
      (∀ k < 256, (getCore t n).el (vTD w) 32 k = c.el (vTA w) 32 k ^^^ c.el (vTB w) 32 k) ∧
      ∀ r < 32, (getCore t n).rowF (vTD w) r = c.rowF (vTA w) r ||| c.rowF (vTB w) r) ∧
    (VecAt s n 0x0B w → ∃ t, exec (.vnot n) s = .next t ∧ VecFrame s t n (vTD w) ∧
      (∀ k < 256, (getCore t n).el (vTD w) 32 k = 2 ^ 32 - 1 - c.el (vTA w) 32 k) ∧
      ∀ r < 32, (getCore t n).rowF (vTD w) r = c.rowF (vTA w) r) ∧
    (∀ b, b = (vFmt w).width →
      (VecAt s n 0x0C w → ∃ t, exec (.vshl n) s = .next t ∧ VecFrame s t n (vTD w) ∧ ∀ k < 8192 / b, ∀ a,
        a = (if bit w 5 then c.el (vTB w) b k else bits w 0 5) →
        (getCore t n).el (vTD w) b k = if b ≤ a then 0 else c.el (vTA w) b k * 2 ^ a % 2 ^ b) ∧
      (VecAt s n 0x0D w → ∃ t, exec (.vshr n) s = .next t ∧ VecFrame s t n (vTD w) ∧ ∀ k < 8192 / b, ∀ a,
        a = (if bit w 5 then c.el (vTB w) b k else bits w 0 5) →
        (getCore t n).el (vTD w) b k = if b ≤ a then 0 else c.el (vTA w) b k / 2 ^ a) ∧
      (VecAt s n 0x0E w → ∃ t, exec (.vsra n) s = .next t ∧ VecFrame s t n (vTD w) ∧ ∀ k < 8192 / b, ∀ a,
        a = (if bit w 5 then c.el (vTB w) b k else bits w 0 5) →
        (getCore t n).el (vTD w) b k = wrapInt b (sext b (c.el (vTA w) b k) / ((2 ^ min a b : Nat) : Int))))

/-- R137: element-wise instructions on formats. -/
def Obligations.VectorArithmetic : Prop :=
  ∀ (s : State) (n w b : Nat) (c : Core) (md : Mode), c = getCore s n → b = (vFmt w).width → md = coreMode s n →
    (VecAt s n 0x10 w → ∃ t, exec (.vadd n false) s = .next t ∧ exec (.vadd n true) s = .next (reportError t utCore 0x01 n 0) ∧
      VecFrame s t n (vTD w) ∧ ∀ k < 8192 / b, (getCore t n).el (vTD w) b k =
        (intFit b (ovmWraps md (vOvm w)) (sext b (c.el (vTA w) b k) + sext b (c.el (vTB w) b k))).1 % 2 ^ b) ∧
    (VecAt s n 0x11 w → ∃ t, exec (.vsub n false) s = .next t ∧ exec (.vsub n true) s = .next (reportError t utCore 0x01 n 0) ∧
      VecFrame s t n (vTD w) ∧ ∀ k < 8192 / b, (getCore t n).el (vTD w) b k =
        (intFit b (ovmWraps md (vOvm w)) (sext b (c.el (vTA w) b k) - sext b (c.el (vTB w) b k))).1 % 2 ^ b) ∧
    (VecAt s n 0x12 w → ∃ t, exec (.vmul n false) s = .next t ∧ exec (.vmul n true) s = .next (reportError t utCore 0x01 n 0) ∧
      VecFrame s t n (vTD w) ∧ ∀ k < 8192 / b, (getCore t n).el (vTD w) b k =
        (intFit b (ovmWraps md (vOvm w)) (sext b (c.el (vTA w) b k) * sext b (c.el (vTB w) b k))).1 % 2 ^ b) ∧
    (VecAt s n 0x13 w → ∃ t, exec (.vmulq n false) s = .next t ∧ exec (.vmulq n true) s = .next (reportError t utCore 0x01 n 0) ∧
      VecFrame s t n (vTD w) ∧ ∀ k < 8192 / b, (getCore t n).el (vTD w) b k = (intFit b (ovmWraps md (vOvm w))
        (rneShift (sext b (c.el (vTA w) b k) * sext b (c.el (vTB w) b k)) (bits w 0 6))).1 % 2 ^ b) ∧
    (VecAt s n 0x14 w → ∃ t, exec (.vmin n) s = .next t ∧ VecFrame s t n (vTD w) ∧ ∀ k < 8192 / b,
      (getCore t n).el (vTD w) b k = (minMax md.flush (vFmt w) false (c.el (vTA w) b k) (c.el (vTB w) b k)).1 % 2 ^ b) ∧
    (VecAt s n 0x15 w → ∃ t, exec (.vmax n) s = .next t ∧ VecFrame s t n (vTD w) ∧ ∀ k < 8192 / b,
      (getCore t n).el (vTD w) b k = (minMax md.flush (vFmt w) true (c.el (vTA w) b k) (c.el (vTB w) b k)).1 % 2 ^ b) ∧
    (VecAt s n 0x16 w → ∃ t, exec (.vcmp n) s = .next t ∧ VecFrame s t n (vTD w) ∧ ∀ k < 8192 / b,
      (getCore t n).el (vTD w) b k =
        if (compareF md.flush (vFmt w) (bits w 0 3) (c.el (vTA w) b k) (c.el (vTB w) b k)).1 then 2 ^ b - 1 else 0) ∧
    (VecAt s n 0x17 w → ∃ t, exec (.vsel n) s = .next t ∧ VecFrame s t n (vTD w) ∧ ∀ k < 8192 / b,
      (getCore t n).el (vTD w) b k = if c.el (vTC w) b k ≠ 0 then c.el (vTA w) b k else c.el (vTB w) b k) ∧
    (VecAt s n 0x1A w → ∃ t, exec (.vclz n) s = .next t ∧ VecFrame s t n (vTD w) ∧ ∀ k < 8192 / b,
      (getCore t n).el (vTD w) b k =
        (if c.el (vTA w) b k = 0 then b else b - 1 - Nat.log2 (c.el (vTA w) b k)) % 2 ^ b) ∧
    (VecAt s n 0x07 w → ∃ t, exec (.vsplat n) s = .next t ∧ VecFrame s t n (vTD w) ∧ ∀ k < 8192 / b,
      (getCore t n).el (vTD w) b k = bits w 0 b) ∧
    (VecAt s n 0x1D w → ∃ t, exec (.vcap n) s = .next t ∧ VecFrame s t n (vTD w) ∧ ∀ k < 256,
      (getCore t n).el (vTD w) 32 k = 0x44101040)

/-- R138: width-changing instructions. -/
def Obligations.VectorConversions : Prop :=
  ∀ (s : State) (n w a d N so dst : Nat) (c : Core), c = getCore s n → a = (vFmt w).width → d = (vFmtD w).width →
    N = 8192 / max a d → so = (if a < d then bits w 0 3 * N else 0) → dst = (if d < a then bits w 0 3 * N else 0) →
    (VecAt s n 0x18 w → ∃ t, exec (.vcvt n false) s = .next t ∧
      exec (.vcvt n true) s = .next (reportError t utCore 0x01 n 0) ∧ VecFrame s t n (vTD w) ∧
      (∀ i < N, (getCore t n).el (vTD w) d (dst + i) =
        (convert (coreMode s n) (vOvm w) (vRnd w) (vFmt w) (vFmtD w) (c.el (vTA w) a (so + i))).1 % 2 ^ d) ∧
      ∀ k, k < dst ∨ dst + N ≤ k → (getCore t n).el (vTD w) d k = c.el (vTD w) d k) ∧
    (VecAt s n 0x19 w → ∃ t, exec (.vlut n) s = .next t ∧ VecFrame s t n (vTD w) ∧
      (∀ i < N, (getCore t n).el (vTD w) d (dst + i) = c.el (vTB w) d (c.el (vTA w) a (so + i) % 256)) ∧
      ∀ k, k < dst ∨ dst + N ≤ k → (getCore t n).el (vTD w) d k = c.el (vTD w) d k)

/-- R140: summary sets. -/
def Obligations.VectorSummaries : Prop :=
  ∀ (s : State) (n w : Nat) (c : Core), c = getCore s n →
    (VecAt s n 0x1B w → ∃ t, exec (.vred n false) s = .next t ∧
      exec (.vred n true) s = .next (reportError t utCore 0x01 n 0) ∧ CoreOnly s t n ∧
      getCore t n = { c.past with sums := (getCore t n).sums } ∧
      SGet {} (getCore t n).sums (vSset w) = SGet {} (vRed (coreMode s n) w c).sums (vSset w) ∧
      (∀ k, k ≠ vSset w → SGet {} (getCore t n).sums k = SGet {} c.sums k) ∧
      ∀ b, b = (vFmt w).width → (vFmt w).isInt → bit w 2 = false → redElems c w ≠ [] →
        (SGet {} (getCore t n).sums (vSset w)).valid = true ∧ (SGet {} (getCore t n).sums (vSset w)).fmt = vFmt w ∧
        (SGet {} (getCore t n).sums (vSset w)).smax ∈ redElems c w ∧
        (∀ x ∈ redElems c w, sext b x ≤ sext b (SGet {} (getCore t n).sums (vSset w)).smax) ∧
        (SGet {} (getCore t n).sums (vSset w)).scnt = ((redElems c w).filter (· != 0)).length % 2 ^ 32 ∧
        (SGet {} (getCore t n).sums (vSset w)).ssum = ((redElems c w).foldl (fun v x =>
          min (2 ^ 63 - 1) (max (-(2 ^ 63)) (v + sext b x))) (0 : Int)) % 2 ^ 64) ∧
    (VecAt s n 0x1C w → ∃ t, exec (.vspls n) s = .next t ∧ VecFrame s t n (vTD w) ∧
      ∀ x, x = SGet {} c.sums (vSset w) →
      (∀ k < 8192 / (vFmt w).width, (getCore t n).el (vTD w) (vFmt w).width k =
        (match bits w 2 2 with | 0 => x.smax | 1 => bits x.ssum 0 32 | 2 => bits x.ssum 32 32 | _ => x.scnt) %
          2 ^ (vFmt w).width) ∧
      ∀ r < 32, (getCore t n).rowF (vTD w) r = x.flg)

/-- R119, R139, R144: the rest of the vector instructions. -/
def Obligations.VectorRegistersAndControl : Prop :=
  ∀ (s : State) (n w : Nat) (c : Core), c = getCore s n →
    (VecAt s n 0x00 w → ∃ t, exec (.vnop n) s = .next t ∧ CoreOnly s t n ∧ getCore t n = c.past) ∧
    (VecAt s n 0x04 w → ∃ t, exec (.vsetx n) s = .next t ∧ CoreOnly s t n ∧
      getCore t n = { c.past with nr := bits w 0 6, nb := bits w 8 6 }) ∧
    (VecAt s n 0x05 w → ∃ t, exec (.vseta n) s = .next t ∧ CoreOnly s t n ∧
      getCore t n = { c.past with a := SSet 0#17 c.a (bits w 29 3) (BitVec.ofNat 17 (bits w 0 17)) }) ∧
    (VecAt s n 0x06 w → ∃ t, exec (.vadda n) s = .next t ∧ CoreOnly s t n ∧ getCore t n = { c.past with
      a := SSet 0#17 c.a (bits w 29 3) (SGet 0#17 c.a (bits w 29 3) + BitVec.ofInt 17 (sext 18 (bits w 0 18))) }) ∧
    (VecAt s n 0x22 w → ∃ t, exec (.vsetl n) s = .next t ∧ CoreOnly s t n ∧
      getCore t n = { c.past with l := SSet 0#16 c.l (bits w 0 2) (BitVec.ofNat 16 (bits w 16 16)) }) ∧
    (VecAt s n 0x20 w → ∃ t, exec (.vsig n) s = .next t ∧ CoreOnly s t n ∧ getCore t n = { c.past with
      ev := SSet 0#16 c.ev (bits w 0 4) (SGet 0#16 c.ev (bits w 0 4) + BitVec.ofNat 16 (bits w 16 16)) }) ∧
    (∀ v, v = SGet 0#16 c.l (bits w 0 2) - 1 → VecAt s n 0x23 w → ∃ t, exec (.vloop n) s = .next t ∧ CoreOnly s t n ∧
      getCore t n = { c.past with
        l := SSet 0#16 c.l (bits w 0 2) v, vpc := if v ≠ 0 then bits w 16 10 else (c.vpc + 1) % 1024 }) ∧
    (∀ v, v = BitVec.ofNat 16 (bits w 16 16) → VecAt s n 0x21 w → ∃ t, exec (.vwait n) s = .next t ∧ CoreOnly s t n ∧
      getCore t n = if (SGet 0#16 c.ev (bits w 0 4) - v).toNat < 2 ^ 15 then c.past
        else { c.past with vwait := some (bits w 0 4, v, s.tick, false) }) ∧
    (VecAt s n 0x24 w → ∃ t, exec (.vend n) s = .next t ∧ (∀ m, m ≠ n → getCore t m = getCore s m) ∧
      getCore t n = { c.past with busy := false, done := true } ∧
      (∃ m, t.eng.tin = s.eng.tin ++ [m] ∧ m.dst = cobEp (n / 64) ∧ m.src = n ∧ m.typ = 0x04 ∧ m.arg % 256 = 1) ∧
      t.mem = s.mem ∧ t.parts = s.parts ∧ t.host = s.host) ∧
    (∀ e v b long, n < 4096 → c.vwait = some (e, v, b, long) →
      (¬ coreHeld s n → (SGet 0#16 c.ev e - v).toNat < 2 ^ 15 →
        ∃ t, exec (.vwaitEnd n) s = .next t ∧ CoreOnly s t n ∧ getCore t n = { c with vwait := none }) ∧
      (long = false → b + 100000 ≤ s.tick → ∃ t, exec (.vwaitlong n) s = .next t ∧
        getCore t n = { c with waitlong := true, vwait := some (e, v, b, true) } ∧ (∀ m, m ≠ n → getCore t m = getCore s m) ∧
        (∃ m, t.eng.tin = s.eng.tin ++ [m] ∧ m.dst = cobEp (n / 64) ∧ m.arg % 256 = 2) ∧ t.mem = s.mem))

/-- R137: vector loads and stores. -/
def Obligations.VectorLoadsAndStores : Prop :=
  (∀ (s : State) (n w : Nat) (c : Core), c = getCore s n → VecAt s n 0x01 w →
    firstAcc (readAcc c.past 38) (vldWords c.past w) = .ok → ∀ upset : List (Nat × Nat), (∀ u ∈ upset, u.2 < 2) →
    ∃ t, exec (.vld n upset) s = .next t ∧ CoreOnly s t n ∧ (getCore t n).spad = c.spad ∧ (getCore t n).ev = c.ev ∧
      (∀ r < 32, ∀ i < 8, (getCore t n).el (vTD w) 32 (8 * r + i) = spadGet c (vAddr c w r i)) ∧
      (∀ r < 32, (getCore t n).rowF (vTD w) r = 0) ∧
      (∀ m, m ≠ vTD w → (getCore t n).t m = c.t m) ∧ (getCore t n).a = (vInc c w).a) ∧
  (∀ (s : State) (n w : Nat) (c : Core), c = getCore s n → VecAt s n 0x02 w →
    firstAcc (writeAcc c.past 39) ((vstWords c.past w).map (·.1)) = .ok →
    ∃ t, exec (.vst n) s = .next t ∧ (∀ m, m ≠ n → getCore t m = getCore s m) ∧ (getCore t n).tregs = c.tregs ∧
      (getCore t n).rowFlg = c.rowFlg ∧ (getCore t n).ev = c.ev ∧ (getCore t n).a = (vInc c w).a ∧
      (∀ a, a ∉ (vstWords c w).map (·.1) → spadGet (getCore t n) a = spadGet c a) ∧
      (∀ r i, r < c.nr → 4 * i < c.nb → (∀ r' i', r' < c.nr → 4 * i' < c.nb → vAddr c w r' i' = vAddr c w r i → r' = r ∧ i' = i) →
        spadGet (getCore t n) (vAddr c w r i) =
          putBits (spadGet c (vAddr c w r i)) 0 (8 * min 4 (c.nb - 4 * i)) (c.el (vTA w) 32 (8 * r + i))) ∧ t.mem = s.mem ∧ t.parts = s.parts ∧
      t.host = s.host)

/-- R154, R172, R183: control of a stream engine. -/
def Obligations.StreamControl : Prop :=
  (∀ (s : State) (src dst e : Nat) (m : Tin), isCore dst → e = m.arg % 4 → winHead s 0x08 src dst = some m →
    outOfService (tinDrop s m) utCore dst = false → (getSE s dst e).state.live = false →
    exec (.seLoad src dst true) s = .next (tinBad s m) ∧
    ∃ t, exec (.seLoad src dst false) s = .next t ∧ SeFrame (tinDrop s m) t dst e ∧
      getSE t dst e = { getSE s dst e with prog := (getSE t dst e).prog } ∧
      (∀ i < m.data.length / 8, SGet 0#64 (getSE t dst e).prog (bits m.arg 8 5 + i) = BitVec.ofNat 64 (fld m.data (8 * i) 8)) ∧
      ∀ j, j < bits m.arg 8 5 ∨ bits m.arg 8 5 + m.data.length / 8 ≤ j →
        SGet 0#64 (getSE t dst e).prog j = SGet 0#64 (getSE s dst e).prog j) ∧
  (∀ (s : State) (src dst : Nat) (m : Tin), isCore dst → seCtl s src dst = some m →
    ∀ c ∈ [Instr.seSetwd src dst true, .seSetp src dst true, .seAbort src dst true, .seStart src dst true, .seQuery src dst true],
    exec c s = .next (tinBad s m)) ∧
  (∀ (v : SE), v.state = .running ∨ v.state = .waiting →
    (v.outst = 0 → seAbort v = { v with xfers := [], state := .aborted, pendingStart := false }) ∧
    (v.outst ≠ 0 → (seAbort v).state = .aborting ∧ (seAbort v).outst = v.outst)) ∧
  (∀ (s u : State) (src dst e : Nat) (m : Tin), isCore dst → e = m.arg % 4 → seCtl s src dst = some m →
    (seNext m.arg = some 12 → u = seApplied s m [12] → outOfService u utCore dst = false →
      exec (.seSetwd src dst false) s = .next (modSE u dst e (fun v => { v with
        wdt := if bits m.arg 32 32 = 0 then 100000 else bits m.arg 32 32 }))) ∧
    (seNext m.arg = some 10 → u = seApplied s m [10] → outOfService u utCore dst = false →
      ∃ t, exec (.seSetp src dst false) s = .next t ∧ SeFrame u t dst e ∧ getSE t dst e = { getSE u dst e with p := (getSE t dst e).p } ∧
        ∀ i < 8, SGet 0#64 (getSE t dst e).p i = BitVec.ofNat 64 (fld m.data (8 * i) 8)) ∧
    (seNext m.arg = some 9 → u = seApplied s m [9, 8] → outOfService u utCore dst = false →
      exec (.seAbort src dst false) s = .next (modSE u dst e seAbort)) ∧
    (seNext m.arg = some 8 → u = seApplied s m [8] → outOfService u utCore dst = false →
      (coreHeld u dst = false → (getSE u dst e).state.live = false → ∃ t, exec (.seStart src dst false) s = .next t ∧ SeFrame u t dst e ∧
        getSE t dst e = { getSE u dst e with
          pc := 0, m := 0, s := 0, y := 0, x := 0, ylim := 0, xlim := 0, levels := [], opens := [], g := (getCore u dst).ev
          state := .running, cause := 0, xfers := [], lastProg := u.tick, watched := false, atEnd := false, pendingStart := false }) ∧
      (coreHeld u dst = false → (getSE u dst e).state.live = true → exec (.seStart src dst false) s = .next (setSE u dst e (getSE u dst e))) ∧
      (coreHeld u dst = true → (getSE u dst e).state.live = false → ∃ t, exec (.seStart src dst false) s = .next t ∧ SeFrame u t dst e ∧
        getSE t dst e = { getSE u dst e with pendingStart := true })) ∧
    (seNext m.arg = some 11 → u = seApplied s m [11] → outOfService u utCore dst = false →
      exec (.seQuery src dst false) s = .next (tinSend u {
        dst := src, src := dst, typ := 0x0A, part := (partOfSector u (dst / 64)).getD 0, tag := m.tag, data := seStat (getSE u dst e) }))) ∧
  ∀ (s : State) (n e : Nat), isCore n → e < 4 → (getSE s n e).state = .aborting → (getSE s n e).outst = 0 →
    exec (.seAborted n e) s = .next (modSE s n e (fun v => { v with state := .aborted, xfers := [] }))

/-- R155, R156: control instructions. -/
def Obligations.StreamRegisterInstructions : Prop :=
  ∀ (s : State) (n e w : Nat) (v : SE), v = (getSE s n e).past s.tick →
    (SeAt s n e 0x00 w → ∃ t, exec (.snop n e) s = .next t ∧ SeFrame s t n e ∧ getSE t n e = v) ∧
    (SeAt s n e 0x01 w → ∃ t, exec (.setm n e) s = .next t ∧ SeFrame s t n e ∧
      getSE t n e = { v with m := wrapInt 64 ((v.par (sPidx w) : Nat) + sext 32 (bits w 0 32)) }) ∧
    (SeAt s n e 0x02 w → ∃ t, exec (.sets n e) s = .next t ∧ SeFrame s t n e ∧ getSE t n e = { v with s := bits w 0 17 }) ∧
    (SeAt s n e 0x03 w → ∃ t, exec (.setc n e) s = .next t ∧ SeFrame s t n e ∧
      getSE t n e = { v with y := bits w 24 24, x := bits w 0 24 }) ∧
    (SeAt s n e 0x04 w → ∃ t, exec (.limit n e) s = .next t ∧ SeFrame s t n e ∧
      getSE t n e = if bit w 57 then { v with ylim := bits (v.par (bits w 54 3)) 24 24, xlim := bits (v.par (bits w 54 3)) 0 24 }
        else { v with ylim := bits w 24 24, xlim := bits w 0 24 }) ∧
    (SeAt s n e 0x05 w → ∃ t, exec (.strm n e) s = .next t ∧ SeFrame s t n e ∧ getSE t n e =
      { v with levels := SSet {} v.levels (sLvl w)
                { SGet {} v.levels (sLvl w) with ds := sext 18 (bits w 32 18), dm := sext 32 (bits w 0 32) } }) ∧
    (SeAt s n e 0x06 w → ∃ t, exec (.strc n e) s = .next t ∧ SeFrame s t n e ∧ getSE t n e =
      { v with levels := SSet {} v.levels (sLvl w)
                { SGet {} v.levels (sLvl w) with dy := sext 24 (bits w 24 24), dx := sext 24 (bits w 0 24) } }) ∧
    (SeAt s n e 0x07 w → ∀ k, k = (if bit w 24 then v.par (bits w 25 3) % 2 ^ 20 else bits w 0 20) →
      ∃ t, exec (.loop n e) s = .next t ∧ SeFrame s t n e ∧
        (k = 0 → getSE t n e = { v with pc := afterEndl v (sLvl w) v.pc }) ∧
        (k ≠ 0 → getSE t n e = { v with
          opens := sLvl w :: v.opens
          levels := SSet {} v.levels (sLvl w) { SGet {} v.levels (sLvl w) with
            opn := true, cnt := k, iter := 0, m := v.m, s := v.s, y := v.y, x := v.x, top := v.pc } })) ∧
    (SeAt s n e 0x08 w → ∀ l, l = SGet {} v.levels (sLvl w) → ∃ t, exec (.endl n e) s = .next t ∧ SeFrame s t n e ∧
      (l.iter + 1 < l.cnt → getSE t n e = { v with
        levels := SSet {} v.levels (sLvl w) { l with iter := l.iter + 1 }
        m := wrapInt 64 ((v.m : Int) + l.dm), s := wrapInt 17 ((v.s : Int) + l.ds)
        y := wrapInt 24 ((v.y : Int) + l.dy), x := wrapInt 24 ((v.x : Int) + l.dx), pc := l.top }) ∧
      (l.cnt ≤ l.iter + 1 → getSE t n e = { v with
        levels := SSet {} v.levels (sLvl w) { l with iter := l.iter + 1, opn := false }
        m := l.m, s := l.s, y := l.y, x := l.x, opens := v.opens.drop 1 })) ∧
    (SeAt s n e 0x09 w → ∃ t, exec (.shape n e) s = .next t ∧ SeFrame s t n e ∧ getSE t n e =
      { v with shape := ⟨bits w 46 12 + 1, bits w 30 16 + 1, bits w 27 3, bits w 9 17, Fmt.ofCode (bits w 6 3)⟩ }) ∧
    (SeAt s n e 0x10 w → ∃ t, exec (.cfg n e) s = .next t ∧ SeFrame s t n e ∧ getSE t n e = { v with pfd := w % 16 }) ∧
    (n < 4096 → e < 4 → seReady s n e = true →
      sLegal s n (getSE s n e) (SGet 0#64 (getSE s n e).prog (getSE s n e).pc).toNat = false →
      ∀ c ∈ [Instr.snop n e, .setm n e, .sets n e, .setc n e, .limit n e, .strm n e, .strc n e, .loop n e, .endl n e, .shape n e,
        .cfg n e, .wait n e, .endProg n e, .drain n e [] [], .sig n e],
      exec c s = .next (coreFault (modSE s n e (fun v => { v with state := .fault, cause := 1, xfers := [] })) n 0x0205)) ∧
    (n < 4096 → e < 4 → seReady s n e = true →
      sLegal s n (getSE s n e) (SGet 0#64 (getSE s n e).prog (getSE s n e).pc).toNat = false → fillDue s n e = none → ∀ lines,
      exec (.fill n e lines) s = .next (coreFault (modSE s n e (fun v => { v with state := .fault, cause := 1, xfers := [] })) n 0x0205))

/-- R156, R162, R170: waits, ends and signals of a stream engine. -/
def Obligations.StreamWaitsAndEnds : Prop :=
  ∀ (s : State) (n e w : Nat),
    (SeAt s n e 0x0F w → ∃ t, exec (.wait n e) s = .next t ∧ SeFrame s t n e ∧ getSE t n e = { getSE s n e with
      state := .waiting
      g := SSet 0#16 (getSE s n e).g (sEv w) (SGet 0#16 (getSE s n e).g (sEv w) + BitVec.ofNat 16 (bits w 0 16)) }) ∧
    (n < 4096 → e < 4 → (getSE s n e).state = .waiting → coreHeld s n = false →
      w = (SGet 0#64 (getSE s n e).prog (getSE s n e).pc).toNat →
      waitOver (getCore s n) (sEv w) (SGet 0#16 (getSE s n e).g (sEv w)) = true →
      ∃ t, exec (.streamWaitEnd n e) s = .next t ∧ SeFrame s t n e ∧
        getSE t n e = { (getSE s n e).past s.tick with state := .running }) ∧
    (SeAt s n e 0x11 w → exec (.endProg n e) s = .next (modSE s n e (fun v => { v with atEnd := true }))) ∧
    (n < 4096 → e < 4 → (getSE s n e).state = .running → (getSE s n e).atEnd = true → (getSE s n e).xfers = [] →
      ∃ u, exec (.sdone n e) s = .next (notice u n 0x04 e) ∧ SeFrame s u n e ∧
        getSE u n e = { getSE s n e with state := .done, atEnd := false, lastProg := s.tick, watched := false }) ∧
    (n < 4096 → e < 4 → (getSE s n e).state = .running ∨ (getSE s n e).state = .waiting →
      (getSE s n e).lastProg + (getSE s n e).wdt ≤ s.tick → (getSE s n e).watched = false →
      exec (.swatch n e) s = .next (notice (modSE s n e (fun v => { v with watched := true })) n 0x05 e)) ∧
    (SeAt s n e 0x0E w → (getSE s n e).xfers = [] → ∃ t, exec (.sig n e) s = .next t ∧
      SGet 0#16 (getCore t n).ev (sEv w) = SGet 0#16 (getCore s n).ev (sEv w) + BitVec.ofNat 16 (bits w 0 16) ∧
      (∀ k, k ≠ sEv w → SGet 0#16 (getCore t n).ev k = SGet 0#16 (getCore s n).ev k) ∧
      getSE t n e = (getSE s n e).past s.tick ∧ CoreOnly { s with host := t.host } t n)

/-- R157, R158: the transfers that touch memory. -/
def Obligations.StreamTransfersStart : Prop :=
  (∀ (s : State) (n e w : Nat) (lines : List Nat) (x : Xfer), SeAt s n e 0x0A w → fillDue s n e = none →
    x = { newXfer (getSE s n e) s.host.nextId .fill w with rgd := (getCore s n).rgd } → hostStopped s n x = false →
    (rowsPermitted s n x false = false → exec (.fill n e lines) s = .next (seFault s n e 6 0x0409)) ∧
    (rowsPermitted s n x false = true → runsWait s (xferRuns s n x) = false → layerBegun s n = true →
      firstAcc (writeAcc (getCore s n) 37) (x.words (fun _ => ceilDiv x.shape.rowBytes 4)) = .ok →
      ∃ t u, exec (.fill n e lines) s = .next t ∧ t = issueRead (addXfer u n e x) n e x.id ∧
        u = meetLines { s with host := { s.host with nextId := s.host.nextId + 1 } } false lines (xferRuns s n x) ∧
        (lines = [] → tier1 s n x = true → (∀ y ∈ (getSE s n e).xfers, y.id ≠ x.id) →
          (∀ a left k, x.piece 0 = some (a, left) → k = min left (16384 - (getSE s n e).outst) →
            getSE t n e = { (getSE s n e).past s.tick with xfers := (getSE s n e).xfers ++ [{ x with bytes := k, out := k }] }) ∧
          (x.piece 0 = none → getSE t n e = { (getSE s n e).past s.tick with xfers := (getSE s n e).xfers ++ [x] }) ∧
          (getCore t n).spad = (getCore s n).spad ∧ t.mem.bytes = s.mem.bytes ∧ t.parts = s.parts ∧ t.fab = s.fab))) ∧
  (∀ (s : State) (n e a left k : Nat) (x : Xfer), n < 4096 → e < 4 → fillDue s n e = some x → hostStopped s n x = false →
    runsWait s (xferRuns s n x) = false → tier1 s n x = true → x.out = 0 → findXfer s n e x.id = some x →
    (∀ y ∈ (getSE s n e).xfers, y.id = x.id → y = x) → x.piece x.bytes = some (a, left) →
    k = min left (16384 - (getSE s n e).outst) → 0 < k →
    ∃ t, exec (.fill n e []) s = .next t ∧ t.mem.bytes = s.mem.bytes ∧ t.parts = s.parts ∧ (getCore t n).spad = (getCore s n).spad ∧
      findXfer t n e x.id = some { x with bytes := x.bytes + k, out := k } ∧
      (getSE t n e).lastProg = s.tick ∧ (getSE t n e).pc = (getSE s n e).pc) ∧
  ∀ (s : State) (n e w : Nat) (x : Xfer),
    (SeAt s n e 0x0B w → x = newXfer (getSE s n e) s.host.nextId .drain w → hostStopped s n x = false →
      (∀ lines upset, rowsPermitted s n x true = false → exec (.drain n e upset lines) s = .next (seFault s n e 6 0x0409)) ∧
      (rowsPermitted s n x true = true → gSpace x.m ≠ 1 → runsWait s (xferRuns s n x) = false →
        (∀ r ∈ x.rows, (localOf s (partOfCore s n) (imgSlotOf s n) (x.rowAddr r)).isSome) →
        firstAcc (readAcc (getCore s n) 36) (x.words (fun r => ceilDiv (x.inBytes r) 4)) = .ok →
        ∀ upset : List (Nat × Nat), (∀ u ∈ upset, u.2 < 2) →
        ∃ t, exec (.drain n e upset []) s = .next t ∧
          getSE t n e = { (getSE s n e).past s.tick with xfers := (getSE s n e).xfers ++ [x] } ∧
          (getCore t n).spad = (getCore s n).spad ∧ t.parts = s.parts ∧ t.fab = s.fab ∧
          (∀ a, (∀ r ∈ x.rows, ∀ off, localOf s (partOfCore s n) (imgSlotOf s n) (x.rowAddr r) = some off →
            a < off ∨ off + x.inBytes r ≤ a) → Memory.byte t.mem a = Memory.byte s.mem a) ∧
          (∀ r ∈ x.rows, ∀ off, localOf s (partOfCore s n) (imgSlotOf s n) (x.rowAddr r) = some off →
            (∀ q ∈ x.rows, r < q → ∀ o, localOf s (partOfCore s n) (imgSlotOf s n) (x.rowAddr q) = some o →
              o + x.inBytes q ≤ off ∨ off + x.inBytes r ≤ o) →
            memGet t off (x.inBytes r) = drainBytes (getCore s n) x r)))

/-- R158 to R160: the port transfers. -/
def Obligations.StreamPorts : Prop :=
  ∀ (s : State) (n e w : Nat) (x : Xfer),
    (SeAt s n e 0x0C w → movable s n e .feed (feedLanes s n e) = none → x = newXfer (getSE s n e) s.host.nextId .feed w →
      ∀ upset, ∃ t, exec (.feed n e upset) s = .next t ∧ t.mem = s.mem ∧ t.parts = s.parts ∧ (getCore t n).spad = (getCore s n).spad ∧
        getSE t n e = { (getSE s n e).past s.tick with xfers := (getSE s n e).xfers ++ [x] }) ∧
    (SeAt s n e 0x0D w → movable s n e .collect (collectLanes s n e) = none → x = newXfer (getSE s n e) s.host.nextId .collect w →
      ∃ t, exec (.collect n e) s = .next t ∧ t.mem = s.mem ∧ t.parts = s.parts ∧ (getCore t n).spad = (getCore s n).spad ∧
        getSE t n e = { (getSE s n e).past s.tick with xfers := (getSE s n e).xfers ++ [x] }) ∧
    (n < 4096 → e < 4 → movable s n e .feed (feedLanes s n e) = some x →
      firstAcc (readAcc (getCore s n) 36) ((feedLanes s n e x).map (·.2)) = .ok →
      ∀ upset : List (Nat × Nat), (∀ u ∈ upset, u.2 < 2) →
      ∃ t, exec (.feed n e upset) s = .next t ∧ t.mem = s.mem ∧ t.parts = s.parts ∧ t.host = s.host ∧ (getCore t n).spad = (getCore s n).spad ∧
        (getCore t n).fin = (feedLanes s n e x).foldl (fun m l => SSet [] m (16 * e + l.1) (SGet [] m (16 * e + l.1) ++
          [feedItem x (x.beat l.1) (spadGet (getCore s n) l.2)])) (getCore s n).fin ∧
        (∀ m, m ≠ n → getCore t m = getCore s m)) ∧
    (n < 4096 → e < 4 → movable s n e .collect (collectLanes s n e) = some x →
      firstAcc (writeAcc (getCore s n) 37) ((collectLanes s n e x).map (·.2)) = .ok →
      ∃ t r, exec (.collect n e) s = .next t ∧ t.mem = s.mem ∧ t.parts = s.parts ∧ t.host = s.host ∧
        r = (collectLanes s n e x).foldl (fun a l => collectLane e a.1 a.2 l) (getCore s n, x) ∧
        (getCore t n).spad = r.1.spad ∧ (getCore t n).fout = r.1.fout ∧
        (∀ y ∈ (getSE t n e).xfers, y.id = x.id → (r.2.id = x.id → y = r.2)) ∧ (∀ m, m ≠ n → getCore t m = getCore s m)) ∧
    (∀ (c : Core) (i a : Nat) (it : Item) (r : List Item), SGet [] c.fout (16 * e + i) = it :: r →
      spadGet (collectLane e c x (i, a)).1 a = it.pay % 2 ^ 32 ∧ SGet [] (collectLane e c x (i, a)).1.fout (16 * e + i) = r ∧
      (collectLane e c x (i, a)).2.beat i = x.beat i + 1 ∧
      (collectLane e c x (i, a)).2.flags = if x.y + x.beat i < x.ylim ∧ x.x + i < x.xlim then
        SSet 0 x.flags (rowTagOf c x (x.beat i)) (SGet 0 x.flags (rowTagOf c x (x.beat i)) ||| it.flg) else x.flags)

/-- R157, R162, R167, R171: the end of a transfer. -/
def Obligations.StreamCompletion : Prop :=
  (∀ (s : State) (n : Nat) (x : Xfer) (r i : Nat) (bs : List Byte), (r, bs) ∈ fillData s n x → i < ceilDiv x.shape.rowBytes 4 →
    ceilDiv x.shape.rowBytes 4 ≤ x.shape.sp →
    spadGet (getCore (fillPut s n x) n) (x.s + r * x.shape.sp + i) = fld (fillRow x r bs) (4 * i) 4 % 2 ^ 32) ∧
  (∀ (s : State) (n : Nat) (x : Xfer) (r : Nat), r < x.shape.nrow →
    (tier1 s n x = true →
      (r, gGet s (partOfCore s n) (imgSlotOf s n) (x.rowAddr r) (x.inBytes r)) ∈ fillData s n x) ∧
    (tier1 s n x = false →
      (r, (x.got.drop ((List.range r).map x.inBytes).sum).take (x.inBytes r)) ∈ fillData s n x)) ∧
  (∀ (s b u : State) (n e id : Nat) (x : Xfer), n < 4096 → e < 4 → findXfer s n e id = some x →
    (getSE s n e).state = .running ∨ (getSE s n e).state = .waiting → x.fin = false → xferComplete s n e x = true →
    b = (if x.kind = .fill ∧ tier1 s n x = true ∧ x.out ≠ 0 then
      modXfer (readBack s n x) n e id (fun x => { x with out := 0 }) else s) →
    (x.kind = .fill → u = fillPut b n x) → (x.kind = .collect → u = flagMsgs b n x) →
    (x.kind ≠ .fill → x.kind ≠ .collect → u = b) →
    exec (.streamTransferComplete n e id) s = .next
      (sendSignals (getSE (seMoved (modXfer u n e id (fun x => { x with fin := true })) n e) n e).xfers.length n e
        (seMoved (modXfer u n e id (fun x => { x with fin := true })) n e))) ∧
  (∀ (s : State) (n e k : Nat) (x : Xfer) (r : List Xfer), (getSE s n e).xfers = x :: r →
    (x.fin = false → sendSignals (k + 1) n e s = s) ∧
    (x.fin = true → sendSignals (k + 1) n e s =
      sendSignals k n e (modCore (modSE s n e (fun v => { v with xfers := r })) n (fun c => { c with
        ev := SSet 0#16 c.ev (sEv x.insn) (SGet 0#16 c.ev (sEv x.insn) + signalOf x) })))) ∧
  (∀ (s : State) (n e id off : Nat) (x : Xfer), n < 4096 → e < 4 → findXfer s n e id = some x → x.kind = .fill → x.fin = false →
    tier1 s n x = true → fillLost s n x = some off →
    exec (.streamReadError n e id) s = .next (lostFor (seStop (readBack s n x) n e 3) n off)) ∧
  ∀ (s : State) (g : Nat), g < 48 → sliceServes s g = false → ∃ t, exec (.sliceWritebackDone g []) s = .next t ∧
    t.mem.bytes = s.mem.bytes ∧ t.mem.lost = s.mem.lost ∧ (∀ l ∈ t.mem.lines, l.1 / 65536 ≠ g) ∧
    (∀ l ∈ s.mem.lines, l.1 / 65536 ≠ g → l ∈ t.mem.lines) ∧ t = { s with mem := t.mem }

/-- R201 to R207: operations of the counter unit. -/
def Obligations.CounterOperations : Prop :=
  (∀ (s t : State) (src n : Nat) (m : Tin) (c : Ctr), src < 0x1105 → t = tinDrop s m → n = bits m.arg 8 12 →
    getCtr s n = some c → c.part = m.part →
    (cntHead s 2 src = some m →
      (argCore m ∈ c.gone → exec (.cntClaim src false) s = .next (cntAnswer t c.part src m.tag 3 [])) ∧
      (argCore m ∉ c.gone → 2 ≤ coreClaims t (argCore m) →
        exec (.cntClaim src false) s = .next (cntAnswer t c.part src m.tag 2 [])) ∧
      (argCore m ∉ c.gone → coreClaims t (argCore m) < 2 → c.waiting = [] → ∀ v r, c.reissue = v :: r →
        exec (.cntClaim src false) s = .next (issueClaim t n
          { c with reissue := dropFirst (· == lowest c.reissue) c.reissue } (lowest c.reissue) true (argCore m) src m.tag)) ∧
      (argCore m ∉ c.gone → coreClaims t (argCore m) < 2 → c.waiting = [] → c.reissue = [] → c.next < tileCount c.probs →
        exec (.cntClaim src false) s =
          .next (issueClaim t n { c with next := c.next + 1 } c.next false (argCore m) src m.tag)) ∧
      (argCore m ∉ c.gone → coreClaims t (argCore m) < 2 → c.waiting = [] → c.reissue = [] → tileCount c.probs ≤ c.next → c.ledger = [] →
        exec (.cntClaim src false) s = .next (cntAnswer t c.part src m.tag 1 [])) ∧
      (argCore m ∉ c.gone → coreClaims t (argCore m) < 2 → c.waiting = [] → c.reissue = [] → tileCount c.probs ≤ c.next → c.ledger ≠ [] →
        exec (.cntClaim src false) s = .next (setCtr t n (some { c with waiting := [(argCore m, src, m.tag)] }))) ∧
      (argCore m ∉ c.gone → coreClaims t (argCore m) < 2 → c.waiting ≠ [] →
        exec (.cntClaim src false) s = .next (setCtr t n (some { c with waiting := c.waiting ++ [(argCore m, src, m.tag)] })))) ∧
    (cntHead s 3 src = some m → argCore m ∉ c.gone → ∀ e,
      c.ledger.find? (fun x => x.val == bits m.arg 32 32 && x.core == argCore m) = some e →
      (tileDraining t e.core (tileOfCtr t n c e.val) = false →
        exec (.cntRetire src false) s = .next (cntAnswer (retireTile (setCtr t n (some { c with
          ledger := dropFirst (· == e) c.ledger, retired := c.retired + 1 })) (tileOfCtr t n c e.val) e.flags) c.part src m.tag 0 [])) ∧
      (tileDraining t e.core (tileOfCtr t n c e.val) = true → exec (.cntRetire src false) s = .next s)) ∧
    (cntHead s 3 src = some m → argCore m ∈ c.gone →
      exec (.cntRetire src false) s = .next (cntAnswer t c.part src m.tag 3 [])) ∧
    (cntHead s 4 src = some m → exec (.cntWithdraw src false) s =
      .next (cntAnswer (setCtr t n (some { c with
        ledger := c.ledger.filter (fun l => l.core != argCore m)
        reissue := c.reissue ++ (c.ledger.filter (fun l => l.core == argCore m)).map (·.val)
        gone := if c.gone.contains (argCore m) then c.gone else c.gone ++ [argCore m] })) c.part src m.tag 0 [])) ∧
    (cntHead s 5 src = some m → exec (.cntQuery src false) s = .next (cntAnswer t c.part src m.tag 0
      (leBytes 4 c.next ++ leBytes 4 c.retired ++ leBytes 4 c.ledger.length ++ leBytes 4 c.reissue.length))) ∧
    (cntHead s 6 src = some m → ∃ u, exec (.cntDestroy src false) s = .next u ∧ getCtr u n = none ∧
      ∀ k, k ≠ n → getCtr u k = getCtr s k)) ∧
  (∀ (s t : State) (src : Nat) (m : Tin), src < 0x1105 → t = tinDrop s m → getCtr s (bits m.arg 8 12) = none →
    (cntHead s 2 src = some m → exec (.cntClaim src false) s = .next (cntAnswer t m.part src m.tag 4 []) ∧
      exec (.cntClaim src true) s = .next (tinBad s m)) ∧
    (cntHead s 1 src = some m → listUnread s m.part m.data = false →
      (s.eng.ctrs.filter (fun e => match e.2 with | some c => c.part == m.part | none => false)).length < (getPart s m.part).cntq →
      tileCount (createProbs t m.part m.data) < 2 ^ 32 → fld m.data 0x14 2 ≠ 0 → fld m.data 0x16 2 ≠ 0 →
      ∃ u c, exec (.cntCreate src false) s = .next u ∧ getCtr u (bits m.arg 8 12) = some c ∧ c.part = m.part ∧ c.next = 0 ∧
        c.retired = 0 ∧ c.ledger = [] ∧ c.reissue = [] ∧ c.waiting = [] ∧ c.gone = [] ∧ c.tr = fld m.data 0x14 2 ∧
        c.tc = fld m.data 0x16 2 ∧ c.probs = createProbs t m.part m.data ∧
        ∀ k, k ≠ bits m.arg 8 12 → getCtr u k = getCtr s k)) ∧
  (∀ (s : State) (n : Nat) (c : Ctr) (w : Nat × Nat × Nat) (r : List (Nat × Nat × Nat)), getCtr s n = some c →
    c.waiting = w :: r → (c.reissue ≠ [] ∨ c.ledger = [] ∨ w.1 ∈ c.gone) →
    exec (.claimHeldAnswer n) s = .next
      (tryClaim (setCtr s n (some { c with waiting := r })) n { c with waiting := r } true w.1 w.2.1 w.2.2)) ∧
  (∀ (s : State) (dst : Nat) (m : Tin), 0x1000 ≤ dst → dst < 0x1040 → tinFront s true 0x1104 dst = some m → m.typ = 0x07 →
    (getCob s (dst - 0x1000)).rxq.length < 64 →
    exec (.cntRsp dst false) s = .next (rxArrive (tinDrop s m) (dst - 0x1000) m)) ∧
  ∀ (s : State) (n v core sender tag : Nat) (c : Ctr) (again : Bool),
    getCtr (issueClaim s n c v again core sender tag) n = some { c with ledger := c.ledger ++ [{ val := v, core := core }] }

/-- R193, R194, R209: the life of a layer. -/
def Obligations.LayersOfRuns : Prop :=
  (∀ (s : State) (part img layer cnt tag n : Nat) (run : Option Nat) (ci : CfgImg) (c : Ctx) (all : Bool),
    ctxImage s part run img = some (ci, c, all) → serving s = true → n = groupLen s ci 8 layer →
    layerDue s part c img ci layer = true → layer < nLayers s ci → cnt < 4096 → (leadSector s part).isSome → getCtr s cnt = none →
    s.eng.layers.find? (fun l => l.part == part && l.run == run && (run.isSome || l.img == img)) = none →
    unread s part ci.slot (layerReads s ci layer n) = [] →
    (∀ tr tc probs (pl : Placement), layerPlace s ci c layer = some pl → noSectors s ci all layer = false →
      copperLayer (all && c == .step) (layerAt s ci layer) = false →
      runCheck s ci layer n (64 * pl.sectors.length - pl.withdrawn.length) = .ok tr tc probs →
      ∃ t m, exec (.layerStart part run img layer cnt tag) s = .next t ∧ t.eng.tin = s.eng.tin ++ [m] ∧
        m.dst = 0x1104 ∧ m.typ = 0x06 ∧ m.part = part ∧ m.arg = 1 + 2 ^ 8 * cnt ∧ m.tag = tag % 256 ∧
        (m.data.drop 20).take 4 = leBytes 2 tr ++ leBytes 2 (min tc 65535) ∧
        t.eng.layers = s.eng.layers ++ [⟨part, run, img, layer, n, cnt⟩] ∧
        t.mem = s.mem ∧ t.parts = s.parts ∧ t.host = s.host) ∧
    (∀ tr tc probs, noSectors s ci all layer = false → copperLayer (all && c == .step) (layerAt s ci layer) = true →
      layerPlace s ci c layer = none → runCheck s ci layer n 1 = .ok tr tc probs →
      ∃ t, exec (.layerStart part run img layer cnt tag) s = .next t ∧ t.eng.tin = s.eng.tin ∧
        t.eng.layers = s.eng.layers ++ [⟨part, run, img, layer, n, cnt⟩] ∧ t.mem = s.mem ∧ t.parts = s.parts ∧ t.host = s.host) ∧
    (∀ r (pl : Placement), layerPlace s ci c layer = some pl →
      runCheck s ci layer n (64 * pl.sectors.length - pl.withdrawn.length) = .fail r →
      exec (.layerStart part run img layer cnt tag) s = .next (failRun s part c r))) ∧
  (∀ (s : State) (p : Nat) (img : Option Nat) (rows : List (Nat × List Byte)),
    (∀ a, (∀ x ∈ rows, ∀ o, localOf s p img x.1 = some o → a < o ∨ o + x.2.length ≤ a) →
      Memory.byte (writeRows s p img rows).mem a = Memory.byte s.mem a) ∧
    (∀ pre x post o, rows = pre ++ x :: post → localOf s p img x.1 = some o → x.2 ≠ [] → permitted s p img true x.1 x.2.length = true →
      (∀ y ∈ post, ∀ q, localOf s p img y.1 = some q → q + y.2.length ≤ o ∨ o + x.2.length ≤ q) →
      memGet (writeRows s p img rows) o x.2.length = x.2)) ∧
  (∀ (md : Mode) (src : Nat → Nat → List Byte) (l : Layer) (r0 c0 tr tc i : Nat), i < min tr (l.m - r0) →
    (tileOut md src l r0 c0 tr tc).rows[i]? = some (l.d + (r0 + i) * l.dp + c0 * l.fmtd.width / 8,
      packRow l.fmtd (rowOfD md src l (l.rowA src (r0 + i)) (r0 + i) c0 (min tc (l.n - c0))).1)) ∧
  (∀ (md : Mode) (src : Nat → Nat → List Byte) (l : Layer) (xs : List Nat) (r c n j : Nat), j < n → l.kind = 1 ∨ l.kind = 2 → l.seq = 0 →
    (rowOfD md src l xs r c n).1[j]? = some (convert md l.ovm (bit l.opt 5) (if l.fmt.isInt then .i32 else .f32) l.fmtd
      (dot md (ovmWraps md l.ovm) l.fmt
        (xs.zip (rowElems l.fmt l.k (src (l.b + (c + j) * l.bp) (ceilDiv (l.k * l.fmt.width) 8))))
        (if l.sca then l.scales src l.sa r else []) (if l.scb then l.scales src l.sb (c + j) else [])
        (if l.cin then fld (src (l.c + r * l.cp + 4 * (c + j)) 4) 0 4 else 0)).1).1) ∧
  (∀ (s t : State) (part img layer cnt : Nat) (run : Option Nat) (ci : CfgImg) (c : Ctx) (all : Bool) (l : LayerRun),
    ctxImage s part run img = some (ci, c, all) →
    s.eng.layers.find? (fun l => l.part == part && l.run == run && l.layer == layer && l.cnt == cnt && (run.isSome || l.img == img)) = some l →
    noReports s part = true → serving s = true →
    (copperLayer (all && c == .step) (layerAt s ci layer) = true ∧ t = copperRun s ci l (layerAt s ci layer) ∨
      copperLayer (all && c == .step) (layerAt s ci layer) = false ∧ t = s ∧ drainsDone s part c = true ∧
        programsDone s part c = true ∧ ∃ k, getCtr s cnt = some k ∧ k.part = part ∧ tileCount k.probs ≤ k.retired) →
    ∃ u, u = modPart (modEng t (fun e => { e with layers := dropFirst (· == l) e.layers })) part
        (fun P => { P with lists := P.lists.filter (fun x => !(layerReads s ci layer l.count).any (fun r => r.1 == x.1)) }) ∧
      (run = none → ∃ v, exec (.layerComplete part run img layer cnt) s = .next (layersRan v part img layer l.count c) ∧
        v = layerOutputs u (copperLayer (all && c == .step) (layerAt s ci layer)) part img (layer + l.count - 1) ci c) ∧
      (∀ id, run = some id → exec (.layerComplete part run img layer cnt) s = .next (runBoundary u part id l.count)))

/-- R214, R218, R220: the prefill of a request. -/
def Obligations.PrefillOfRequests : Prop :=
  (∀ (s : State) (r off : Nat) (q : Rte), getRte s r = some q → serving s = true → (dynOf s q).state = .open → q.ids = none →
    q.err = none → s.host.reads.any (fun x => x.use == .prompt r) = false →
    (permitted s q.part none false q.prompt (4 * q.nprompt) = true → localOf s q.part none q.prompt = some off →
      memLost s off (4 * q.nprompt) = false →
      exec (.promptCheck r) s = .next (promptDone (memTouch s off (4 * q.nprompt)) r (memGet s off (4 * q.nprompt)))) ∧
    (permitted s q.part none false q.prompt (4 * q.nprompt) = true → gSpace q.prompt = 1 →
      exec (.promptCheck r) s = .next (startRead s (q.part + 1) q.prompt (4 * q.nprompt) (.prompt r)).1) ∧
    (permitted s q.part none false q.prompt (4 * q.nprompt) = false →
      exec (.promptCheck r) s = .next (failReq s r (rankOf 0x0409) 0x0409))) ∧
  (∀ (s : State) (r v : Nat) (q : Rte) (bs : List Byte) (ids : List Nat), getRte s r = some q →
    ids = (List.range q.nprompt).map (fun i => fld bs (4 * i) 4) →
    v = (match selSlot s q.part with | some sl => (hdrOf s sl).v | none => 0) →
    (ids.any (fun i => decide (v ≤ i)) = true → q.err = none →
      getRte (promptDone s r bs) r = some { q with ids := some ids, err := some ⟨s.tick, 10, 0x010B⟩ }) ∧
    (ids.any (fun i => decide (v ≤ i)) = false → getRte (promptDone s r bs) r = some { q with ids := some ids })) ∧
  (∀ (s u : State) (r count : Nat) (pages : List Nat) (q : Rte) (sl : Slot) (d : Dyn), getRte s r = some q →
    selSlot s q.part = some sl → d = dynOf s q → serving s = true → s.power.tstop = false → (getPart s q.part).serving.isSome →
    (getPart s q.part).chunk = none → (getPart s q.part).runs = [] → nextPrefill s q.part = some r → q.ids.isSome →
    1 ≤ count → count ≤ 2048 → d.prefilled + count ≤ q.nprompt → pacedReady s q.part = true →
    pages.length = (unmapped (hdrOf s sl) q (d.prefilled + count - 1)).length → pages.all (pageFree s q.part) = true → pages.Nodup →
    sl.damaged = [] → (q.steer = 0xFFFF ∨ ∀ x, SGet none (getPart s q.part).steers q.steer = some x → x.damaged = false) →
    u = modPart (setRte s r (some (mapPages q (unmapped (hdrOf s sl) q (d.prefilled + count - 1)) pages))) q.part (fun P => { P with
      chunk := some { rte := r, first := d.prefilled, count := count, start := s.tick, ready := s.tick, occ := occsOf s q }
      began := s.tick }) →
    exec (.prefillChunkStart r count pages) s = .next (writeInputs u q.part (roleImage u q.part 1) .chunk)) ∧
  (∀ (s : State) (p i : Nat) (c : Ctx), ∃ m, writeInputs s p i c = { s with mem := m }) ∧
  (∀ (s u : State) (part : Nat) (k : Chunk) (q : Rte) (d : Dyn), (getPart s part).chunk = some k → serving s = true →
    noReports s part = true → horizonAt s part s.tick = true → (getPart s part).halves = [] → chunkRan s part k = true →
    s.power.paced = false → s.power.departed = none → k.departed = false → s.power.ecmode ≠ 1 →
    getRte s k.rte = some q → d = validDyn (getPart s part).cw q → d.state ≠ .closing → q.err = none → q.cxlTick = 0 →
    q.aborted = false → (∀ sl, selSlot s q.part = some sl → sl.damaged = []) →
    (q.steer = 0xFFFF ∨ ∀ x, SGet none (getPart s q.part).steers q.steer = some x → x.damaged = false) →
    u = modPart (setRte s k.rte (some (writeDyn (getPart s part).cw (commitOcc ((getPart s part).cw + 1) k.occ { q with
          readyAt := if q.nprompt ≤ k.first + k.count then (getPart s part).readied else q.readyAt })
        { d with
          csn := (getPart s part).cw + 1, state := if q.nprompt ≤ k.first + k.count then .ready else .prefill
          prefilled := k.first + k.count, flg := d.flg ||| k.flg ||| SGet 0 (getPart s part).notices k.rte }))) part
      (fun P => commitDrops k.drops { P with chunk := none, readied := P.readied + 1, notices := SErase P.notices k.rte }) →
    exec (.prefillChunkCommit part) s = .next (settle (commitWord u part) part)) ∧
  ∀ (s : State) (part : Nat) (k : Chunk), (getPart s part).chunk = some k → chunkRan s part k = false →
    exec (.prefillChunkCommit part) s = .next s

/-- R225, R226: a decode step. -/
def Obligations.DecodeSteps : Prop :=
  (∀ (s : State) (part : Nat) (pages : List (Nat × Nat)) (sl : Slot), selSlot s part = some sl → serving s = true →
    (getPart s part).serving.isSome → (getPart s part).step = none → pacedReady s part = true → s.power.tstop = false →
    pages.map (·.1) = (stepNeeds s (hdrOf s sl) (batchOf s part)).map (·.1) → (pages.map (·.2)).all (pageFree s part) = true →
    (pages.map (·.2)).Nodup →
    ∃ t, exec (.decodeStepStart part pages none) s = .next t ∧
      (getPart t part).step = some { rows := (batchOf s part).map (fun r => { rte := r }), start := s.tick } ∧
      (getPart t part).cw = (getPart s part).cw ∧ (∀ p, p ≠ part → getPart t p = getPart s p) ∧ t.host = s.host ∧
      t.eng = s.eng ∧ t.power = s.power ∧
      (batchOf s part = [] → t.mem = s.mem) ∧
      ∀ u, exec (.decodeStepStart part pages (some u)) s =
        .next (if u < 384 ∧ partOfGroup t (u / 8) = some part then reportError t utCopper 0x01 u 0 else t)) ∧
  (∀ (s : State) (part : Nat) (t : DStep) (sl : Slot), (getPart s part).step = some t →
    selSlot s part = some sl → serving s = true → t.tout = none → (getPart s part).halves = [] →
    (stepReady s part t = true →
      exec (.decodeStepOutput part) s = .next (modPart s part (fun P => { P with step := some { t with
        tout := some s.tick
        rows := t.rows.map (fun x => { sampleRow s P (hdrOf s sl) x.rte (SGet 0 t.logits x.rte - 1) with
          flg := (sampleRow s P (hdrOf s sl) x.rte (SGet 0 t.logits x.rte - 1)).flg ||| x.flg, occ := x.occ, drops := x.drops }) } }))) ∧
    (stepReady s part t = false → exec (.decodeStepOutput part) s = .next s)) ∧
  (∀ (s u : State) (part o n : Nat) (t : DStep) (fl : SMap Flg), n = (getPart s part).cw → fl = (getPart s part).notices →
    (getPart s part).step = some t → t.tout = some o → serving s = true →
    noReports s part = true → horizonAt s part o = true → (getPart s part).halves = [] → s.power.paced = false →
    s.power.departed = none → t.departed = false → s.power.ecmode ≠ 1 →
    (∀ x ∈ t.rows, ∀ q, getRte s x.rte = some q → (∀ sl, selSlot s q.part = some sl → sl.damaged = []) ∧
      (q.steer = 0xFFFF ∨ ∀ y, SGet none (getPart s q.part).steers q.steer = some y → y.damaged = false)) →
    u = modPart (t.rows.foldl (fun s x => modRte s x.rte (commitRow (n + 1) o fl x)) s) part
      (fun P => commitDrops ((t.rows.filter (fun x => (getRte s x.rte).any (rowCommits (n + 1) o))).flatMap (·.drops))
        { P with step := none, ctxFlg := P.ctxFlg ||| t.flg, notices := t.rows.foldl (fun m x => SErase m x.rte) P.notices }) →
    exec (.decodeStepCommit part) s = .next (settle (commitWord u part) part)) ∧
  (∀ (n o : Nat) (fl : SMap Flg) (x : StepRow) (q : Rte) (d : Dyn), d = validDyn n q →
    ((d.state = .closing ∨ q.err.isSome ∨ q.aborted = true ∨ (q.cxlTick ≠ 0 ∧ q.cxlTick ≤ o)) → commitRow (n + 1) o fl x q = q) ∧
    (d.state ≠ .closing → q.err = none → q.aborted = false → (q.cxlTick = 0 ∨ o < q.cxlTick) → ∀ k, x.token = some k →
      (commitRow (n + 1) o fl x q).toks = q.toks ++ [k] ∧
      (commitRow (n + 1) o fl x q).ents = q.ents ++ [⟨k, d.ngen, decide (1 ≤ x.stop ∧ x.stop ≤ 4), n + 1⟩] ∧
      ((commitRow (n + 1) o fl x q).dyn0 = { d with
          csn := n + 1, state := if x.stop ≠ 0 then .closing else .decode, stop := x.stop
          flg := d.flg ||| x.flg ||| SGet 0 fl x.rte, ngen := d.ngen + 1 } ∨
       (commitRow (n + 1) o fl x q).dyn1 = { d with
          csn := n + 1, state := if x.stop ≠ 0 then .closing else .decode, stop := x.stop
          flg := d.flg ||| x.flg ||| SGet 0 fl x.rte, ngen := d.ngen + 1 })))

/-- R228: the stop matcher. -/
def Obligations.StopMatching : Prop :=
  (∀ (s : State) (P : Part) (h : Hdr) (r off : Nat) (q : Rte) (row : List Nat) (x : StepRow), getRte s r = some q →
    row = rowElems (Fmt.ofCode (h.hfmt % 8)) h.v (memGet s off (ceilDiv (h.v * (Fmt.ofCode (h.hfmt % 8)).width) 8)) →
    x = sampleRow s P h r off →
    (row.any (Fmt.isNanCode (Fmt.ofCode (h.hfmt % 8))) = true → x.token = none ∧ x.stop = 5) ∧
    (row.any (Fmt.isNanCode (Fmt.ofCode (h.hfmt % 8))) = false →
      ∃ k, x.token = some k ∧ x.stop = stopOf q h.ctxmax (dynOf s q).ngen k)) ∧
  ∀ (q : Rte) (ctxmax n k : Nat) (hit : Prop),
    (hit ↔ ∃ i < fld q.stopset 4 1, fld q.stopset (8 + i) 1 ≤ n + 1 ∧
      (q.toks ++ [k]).drop (n + 1 - fld q.stopset (8 + i) 1) =
        (List.range (fld q.stopset (8 + i) 1)).map (fun j => fld q.stopset (0x10 + 32 * i + 4 * j) 4)) →
    (k = fld q.stopset 0 4 → fld q.stopset 0 4 ≠ 0xFFFFFFFF → stopOf q ctxmax n k = 1) ∧
    ((k ≠ fld q.stopset 0 4 ∨ fld q.stopset 0 4 = 0xFFFFFFFF) →
      (hit → stopOf q ctxmax n k = 2) ∧
      (¬ hit → n + 1 = q.limit → stopOf q ctxmax n k = 3) ∧
      (¬ hit → n + 1 ≠ q.limit → n + 1 = ctxmax - q.nprompt + 1 → stopOf q ctxmax n k = 4) ∧
      (¬ hit → n + 1 ≠ q.limit → n + 1 ≠ ctxmax - q.nprompt + 1 → stopOf q ctxmax n k = 0))

/-- R224: the commit word. -/
def Obligations.CommitsRaiseTheCommitWord : Prop :=
  (∀ (s : State) (p : Nat), s.power.pfwAt = none → (getPart (commitWord s p) p).cw = (getPart s p).cw + 1 ∧
    (getPart (commitWord s p) p).ctick = s.tick ∧ (∀ k, k ≠ p → (getPart (commitWord s p) k).cw = (getPart s k).cw) ∧
    (commitWord s p).mem = s.mem) ∧
  (∀ (s : State) (p : Nat), s.power.pfwAt.isSome → commitWord s p = s) ∧
  (∀ (cw : Nat) (q : Rte) (d : Dyn), q.dyn0.csn ≤ cw ∨ q.dyn1.csn ≤ cw → q.dyn0.csn ≠ q.dyn1.csn → cw < d.csn →
    validDyn cw (writeDyn cw q d) = validDyn cw q ∧ validDyn d.csn (writeDyn cw q d) = d) ∧
  (∀ (cw : Nat) (q : Rte), (q.dyn1.csn ≤ cw → q.dyn0.csn < q.dyn1.csn → validDyn cw q = q.dyn1) ∧
    (q.dyn0.csn ≤ cw → q.dyn1.csn < q.dyn0.csn → validDyn cw q = q.dyn0) ∧
    (q.dyn0.csn ≤ cw → cw < q.dyn1.csn → validDyn cw q = q.dyn0) ∧ (q.dyn1.csn ≤ cw → cw < q.dyn0.csn → validDyn cw q = q.dyn1))

/-- R227, R305, R307: what the queue engine writes. -/
def Obligations.QueueEngineWrites : Prop :=
  (∀ (s : State) (r : Nat) (q : Rte) (e : StreamEnt) (es : List StreamEnt) (g : Ring), getRte s r = some q → q.ents = e :: es →
    findRing s .stream q.fn q.sring = some g → mayWrite s q.fn = true → g.room = true → entryFirst s r q e = true →
    exec (.streamEntryWrite r) s = .next (ringWrite (setRte s r (some { q with ents := es })) .stream q.fn q.sring
      (leBytes 8 q.hosttag ++ leBytes 4 e.token ++ leBytes 4 (e.n % 2 ^ 20 + 2 ^ 20 * b2n e.last)))) ∧
  (∀ (s : State) (r : Nat) (q : Rte) (e : StreamEnt), entryFirst s r q e = true ↔ ∀ x ∈ s.rtes, ∀ p, x.2 = some p → p.fn = q.fn →
    p.sring = q.sring → x.1 ≠ r → ∀ d ds, p.ents = d :: ds → e.csn < d.csn ∨ (e.csn = d.csn ∧ r < x.1)) ∧
  (∀ (s u : State) (fn cq : Nat) (g : Ring) (c : Comp), findRing s .comp fn cq = some g → nextComp s fn cq g = some c →
    mayWrite s fn = true → compRoom g c = true →
    u = (if c.held then modRing (modHost s (fun h => { h with comps := dropFirst (· == c) h.comps })) .comp fn cq
          (fun r => { r with resv := r.resv - 1 })
        else modHost s (fun h => { h with comps := dropFirst (· == c) h.comps })) →
    (c.req = none → exec (.completionWrite fn cq) s = .next (settleDeletes (ringWrite u .comp fn cq (compBytes s c)) fn)) ∧
    ∀ q, c.req = some q →
      exec (.completionWrite fn cq) s = .next (settleDeletes (freeReq (ringWrite u .comp fn cq (compBytes s c)) q) fn)) ∧
  (∀ (s : State) (fn cq : Nat) (g : Ring) (c : Comp), nextComp s fn cq g = some c →
    c ∈ s.host.comps ∧ c.fn = fn ∧ cqOf s fn c.sq = cq ∧ compReady s c = true ∧ (c.held = true ∨ compRoom g c = true)) ∧
  (∀ (s : State) (r : Nat), getRte (freeReq s r) r = none ∧ (∀ k, k ≠ r → getRte (freeReq s r) k = getRte s k) ∧
    ∀ x ∈ (freeReq s r).host.reads, x.use ≠ .prompt r) ∧
  (∀ (s : State) (part : Nat) (h : List Byte × Option Nat) (hs : List (List Byte × Option Nat)) (g : Ring),
    (getPart s part).held = h :: hs → findRing s .record (part + 1) 0 = some g → mayWrite s (part + 1) = true → g.room = true →
    (h.2 = none → exec (.recordRingWrite part) s =
      .next (ringWrite (modPart s part (fun P => { P with held := hs })) .record (part + 1) 0 (h.1 ++ zeros 64))) ∧
    ∀ r q, h.2 = some r → getRte s r = some q → exec (.recordRingWrite part) s = .next (ringWrite
      (setRte (modPart s part (fun P => { P with held := hs })) r (some { q with recorded := true })) .record (part + 1) 0 (h.1 ++ zeros 64))) ∧
  (∀ (s : State) (k : RingKind) (fn id : Nat) (g : Ring) (ent : List Byte), findRing s k fn id = some g → g.vec = 0 →
    ∃ b c, (ringWrite s k fn id ent).host.writes = s.host.writes ++ [⟨fn, g.base + k.size * (g.cnt.toNat % g.slots), b⟩,
        ⟨fn, g.base + k.size * (g.cnt.toNat % g.slots) + k.size - 8, c⟩] ∧ b = ent.take (k.size - 8) ∧
      c = leBytes 8 (putBits (fld ent (k.size - 8) 8) (if k = .record ∨ k = .seal then 0 else 63) 1 (b2n g.phase)) ∧
      findRing (ringWrite s k fn id ent) k fn id = some { g with cnt := g.cnt + 1 } ∧ (ringWrite s k fn id ent).mem = s.mem) ∧
  (∀ (s : State) (cmd off p len : Nat) (c : Cmd), findCmd s cmd = some c → p = c.d.fn - 1 → len = fld c.d.raw 0x20 4 →
    serving s = true → fld c.d.raw 0 1 = 0x12 → c.ph = .running → c.buf.length = len →
    (steerOk c.buf = false → exec (.steeringBindComplete cmd off) s = .next (settle (endCmdSt s cmd 0x0105) p)) ∧
    (steerOk c.buf = true → roomFor s p len = false →
      exec (.steeringBindComplete cmd off) s = .next (settle (endCmdSt s cmd 0x040A) p)) ∧
    (steerOk c.buf = true → roomFor s p len = true → off % 64 = 0 → rangeFree s p (holdings s p) off len = true →
      exec (.steeringBindComplete cmd off) s = .next (settle (endCmdSt (modPart (memPut s off c.buf) p (fun P => { P with
        steers := SSet none P.steers (fld c.d.raw 0x10 2) (some { bytes := c.buf, digest := sha512 c.buf, off := off }) })) cmd 0) p)))

/-- R255 to R262: the exchange of expert rows. -/
def Obligations.ExpertExchange : Prop :=
  ((∀ (s : State) (part xl half pos0 k0 key : Nat) (chunk : Bool) (sl : Slot) (hd : Hdr) (P : Part) (batch : List (Nat × Nat))
    (mine ats : List (Nat × Nat × Nat)) (hf : Nat × Nat) (x : State × List XRow) (jobs : List XJob) (hv : XHalf) (acts : SMap Nat),
    selSlot s part = some sl → hd = hdrOf s sl → P = getPart s part → batch = batchRows s part pos0 chunk →
    hf = halfOf batch.length half → k0 = (if chunk then pos0 else 0) → key = halfKey chunk k0 xl half →
    mine = (((ctxRows s part (if chunk then .chunk else .step)).drop
      (if chunk then pos0 - (P.chunk.map (·.first)).getD 0 else 0)).drop hf.1).take hf.2 →
    (numbered hf.1 mine).mapM (fun e => rowAts s part sl hd xl chunk e.1 e.2) = some ats →
    serving s = true → P.serving.isSome → half ≤ 1 → xl < nxlOf s part → (chunk = true ∨ P.step.bind (·.tout) = none) → mine ≠ [] →
    findHalf s part key = none → halfJoined P chunk key = false →
    (half = 0 ∨ (findHalf s part (halfKey chunk k0 xl 0)).isSome ∨ halfJoined P chunk (halfKey chunk k0 xl 0) = true) →
    ctxLayerDone s part chunk (imgFld s sl (xrecOff hd xl) 2) = true →
    ctxLayerDone s part chunk (Config.expertIn sl.digest xl) = true →
    (if chunk then mine.take 1 else mine).all (fun y => routable s part xl chunk y.1 y.2.1) = true →
    ats.all (fun r => localOk s part r.1 (4 * (xpar s sl hd xl).nexp) &&
      localOk s part r.2.1 (max 1 (ceilDiv (xDim s sl hd xl * (xFmtIn s sl hd xl).width) 8)) &&
      localOk s part r.2.2 (4 * xDim s sl hd xl)) = true →
    x = (numbered hf.1 (mine.zip ats)).foldl (fun (a : State × List XRow) e =>
      ((routeRow sl hd part xl chunk e.1 e.2.1.1 e.2.1.2.1 e.2.2.1 e.2.2.2.2 a.1).1,
        a.2 ++ [(routeRow sl hd part xl chunk e.1 e.2.1.1 e.2.1.2.1 e.2.2.1 e.2.2.2.2 a.1).2])) (s, []) →
    jobs = jobsOf x.1 sl hd xl x.2 → jobs.any (fun j => holderBusy s part half j.chip j.hpart) = false →
    hv = { xl := xl, half := half, pos0 := k0, attempt := halfTries P chunk key, start := s.tick, jobs := jobs, rows := x.2, chunk := chunk } →
    acts = (numbered hf.1 ats).foldl (fun m e => SSet 0 m e.1 e.2.2.1) [] →
    exec (.halfDispatch part xl half pos0 chunk) s = .next (settleHalf (jobs.foldl (fun t j =>
      sendJob t part hv (xFmtIn s sl hd xl) (xDim s sl hd xl) acts j)
      (modPart (halfTried x.1 part chunk key) part (fun P => { P with halves := P.halves ++ [hv] }))) part key)) ∧
  (∀ n, halfOf n 0 = (0, (n + 1) / 2) ∧ halfOf n 1 = ((n + 1) / 2, n / 2)) ∧
  (∀ (s : State) (part xl half chip rb : Nat) (h : XHalf) (sl : Slot) (j : XJob) (b : List Byte),
    (getPart s part).halves.find? (fun h => h.xl == xl && h.half == half && (answeredJob h chip).isSome) = some h →
    answeredJob h chip = some j → selSlot s part = some sl → serving s = true →
    b = (gather j.got 0 64).getD [] → rb = rowBytes (xFmtOut s sl (hdrOf s sl) xl) (xDim s sl (hdrOf s sl) xl) →
    (halfLimit s part h < s.tick → exec (.resultArrival part xl half chip) s =
      .next (modFab (expireHalf s part h) (fun f => { f with brassErr := f.brassErr + 1 }))) ∧
    (s.tick ≤ halfLimit s part h → resultFits h j b = false → exec (.resultArrival part xl half chip) s = .next (modFab
      (modHalf s part (fun x => x.key == h.key) (fun x => { x with
        jobs := updateWhere (fun k => k.chip == chip && k.hpart == j.hpart)
          (fun k => { k with got := k.got.filter (fun g => decide (64 ≤ g.1)) }) x.jobs })) (fun f => { f with brassErr := f.brassErr + 1 }))) ∧
    (s.tick ≤ halfLimit s part h → resultFits h j b = true → fld b 7 1 ≠ 0 →
      exec (.resultArrival part xl half chip) s = .next (settleHalf (failJob
        (modHalf s part (fun x => x.key == h.key) (fun x => { x with
          jobs := updateWhere (fun k => k.chip == chip && k.hpart == j.hpart) (fun k => { k with
            result := some (fld b 7 1), res := [], late := h.late || decide (halfDue s part h < s.tick) }) x.jobs })) 0x0502 h j) part h.key)) ∧
    (s.tick ≤ halfLimit s part h → resultFits h j b = true → fld b 7 1 = 0 → ∀ rs,
      (List.range j.rows.length).mapM (fun i => gather j.got (64 + rb * i) rb) = some rs →
      rs.map (fun r => fld r 0 2 % 2048) = j.rows.map (·.1) → rs.all (fun r => fld r 5 1 == h.attempt % 256) = true →
      exec (.resultArrival part xl half chip) s = .next (settleHalf (modHalf s part (fun x => x.key == h.key)
        (fun x => { x with jobs := updateWhere (fun k => k.chip == chip && k.hpart == j.hpart) (fun k => { k with
          result := some 0, res := rs, late := h.late || decide (halfDue s part h < s.tick) }) x.jobs })) part h.key))) ∧
  (∀ (s : State) (part xl half : Nat) (h : XHalf), serving s = true →
    ((getPart s part).halves.find? (fun h => h.xl == xl && h.half == half && !h.late && s.tick == halfDue s part h) = some h →
      s.power.paced = true →
      (halfComplete h = true → exec (.texchExpiry part xl half) s = .next (combineHalf s part h)) ∧
      (halfComplete h = false → exec (.texchExpiry part xl half) s =
        .next (modHalf s part (fun x => x.key == h.key) (fun x => { x with late := true })))) ∧
    ((getPart s part).halves.find? (fun h => h.xl == xl && h.half == half && !halfComplete h && decide (halfLimit s part h ≤ s.tick)) =
      some h → exec (.xlimitExpiry part xl half) s =
      .next ((h.jobs.filter (fun j => !j.lost && j.result.isNone)).foldl
        (fun s j => loseJob s part h.key j.chip j.hpart 0x0501) s)))) ∧
  ((∀ (s t : State) (part chip spart : Nat) (x : BrassIn),
    s.fab.brassIn.find? (fun b => b.hpart == part && b.chip == chip && b.spart == spart && b.off == 0) = some x → serving s = true →
    t = modFab s (fun f => { f with brassIn := f.brassIn.filter (fun b =>
      !(b.hpart == part && b.chip == chip && b.spart == spart && b.half == x.half)) }) →
    ((judgeJob s part chip spart x.half x.data).1 ≠ 0 → exec (.jobArrival part chip spart) s = .next (sendResultHead t part chip spart x.half
      (resultHead x.data (judgeJob s part chip spart x.half x.data).1 0))) ∧
    ((judgeJob s part chip spart x.half x.data).1 = 0 → exec (.jobArrival part chip spart) s = .next (modPart t part (fun P => { P with
      hjobs := P.hjobs ++ [⟨chip, spart, x.half, x.data, (judgeJob s part chip spart x.half x.data).2, none, 0⟩] })))) ∧
  (∀ (s : State) (part chip spart half : Nat) (b : List Byte),
    ((getPart s part).phase = .absent ∨ (getPart s part).phase = .faulted ∨ (chip, spart) ∉ (getPart s part).xsend →
      judgeJob s part chip spart half b = (4, [])) ∧
    ((getPart s part).phase ≠ .absent → (getPart s part).phase ≠ .faulted → (chip, spart) ∈ (getPart s part).xsend →
      (slotOfDigest s part ((b.drop 32).take 16) = none → judgeJob s part chip spart half b = (1, [])) ∧
      (∀ k sl, slotOfDigest s part ((b.drop 32).take 16) = some (k, sl) → (hdrOf s sl).mode ≠ fld b 24 4 →
        judgeJob s part chip spart half b = (2, [])))) ∧
  (∀ (s : State) (part chip spart k rb : Nat) (j : HJob) (sl : Slot) (rs : List (Nat × Nat)) (go : State × Nat),
    (getPart s part).hjobs.find? (fun j => j.chip == chip && j.spart == spart && j.reply.isNone) = some j →
    slotOfDigest s part ((j.header.drop 32).take 16) = some (k, sl) → serving s = true → noReports s part = true →
    rb = rowBytes (xFmtOut s sl (hdrOf s sl) (fld j.header 12 2)) (xDim s sl (hdrOf s sl) (fld j.header 12 2)) →
    rs = (j.rows.map (fun b => fld b 2 2)).eraseDups.flatMap (expertReads s part k sl (hdrOf s sl) (fld j.header 12 2)) →
    (∀ r us, unread s part (some k) rs = r :: us → s.host.reads.any (fun x => x.use == .list part r.1) = false →
      (startRead s (part + 1) r.1 r.2 (.list part r.1)).2 = true →
      exec (.jobComplete part chip spart) s = .next (startRead s (part + 1) r.1 r.2 (.list part r.1)).1) ∧
    (unread s part (some k) rs = [] →
      go = (numbered 0 j.rows).foldl (fun (a : State × Nat) x =>
        ((brassWrite a.1 part chip (Config.resultBuf chip spart (ownChip s) part j.half + 64 + rb * x.1) (resultRec s part k sl j x.1 x.2)
            (.resultRow part chip spart j.half) (resultBytes spart (ownChip s) part j.half (64 + rb * x.1) (resultRec s part k sl j x.1 x.2))).1,
          a.2 + (brassWrite a.1 part chip (Config.resultBuf chip spart (ownChip s) part j.half + 64 + rb * x.1) (resultRec s part k sl j x.1 x.2)
            (.resultRow part chip spart j.half) (resultBytes spart (ownChip s) part j.half (64 + rb * x.1) (resultRec s part k sl j x.1 x.2))).2.1))
        (s, 0) →
      exec (.jobComplete part chip spart) s = .next (endJob (modJob
        (modPart go.1 part (fun P => { P with lists := P.lists.filter (fun x => !rs.any (fun r => r.1 == x.1)) })) part chip spart j.half
        (fun j => { j with reply := some (resultHead j.header 0 j.rows.length), unacked := go.2 })) part chip spart j.half))) ∧
  (∀ (s : State) (part k : Nat) (sl : Slot) (j : HJob) (i e : Nat) (b : List Byte) (y : List Nat × Flg), e = fld b 2 2 →
    y = expertRow (Mode.ofWord (hdrOf s sl).mode) (opGet s part (some k)) ((j.rows.take i).filter (fun c => fld c 2 2 == e)).length
      ((List.range (expertDepth s sl (hdrOf s sl) (fld j.header 12 2))).map (expertProb s part k sl (hdrOf s sl) (fld j.header 12 2) e))
      (rowElems (xFmtIn s sl (hdrOf s sl) (fld j.header 12 2)) (xDim s sl (hdrOf s sl) (fld j.header 12 2)) (b.drop 16)) →
    fld (resultRec s part k sl j i b) 0 2 = fld b 0 2 ∧ fld (resultRec s part k sl j i b) 2 2 = e ∧
      fld (resultRec s part k sl j i b) 4 1 = y.2.toNat ∧ fld (resultRec s part k sl j i b) 5 1 = fld j.header 6 1))

/-- R254, R261: combination. -/
def Obligations.CombinedHalvesWriteTheirRows : Prop :=
  ∀ (s : State) (p : Nat) (h : XHalf) (sl : Slot), selSlot s p = some sl →
    (∀ a, (∀ r ∈ h.rows, rowLost h r = false → a < r.out ∨ r.out + 4 * xDim s sl (hdrOf s sl) h.xl ≤ a) →
      Memory.byte (combineHalf s p h).mem a = Memory.byte s.mem a) ∧
    (∀ x ∈ (getPart (combineHalf s p h) p).halves, x.key ≠ h.key) ∧
    (h.chunk = true → ∀ k, (getPart s p).chunk = some k →
      (getPart (combineHalf s p h) p).chunk = some { k with joined := k.joined ++ [h.key] }) ∧
    (h.chunk = false → ∀ k, (getPart s p).step = some k →
      (getPart (combineHalf s p h) p).step = some { k with joined := k.joined ++ [h.key] }) ∧
    (∀ q, q ≠ p → getPart (combineHalf s p h) q = getPart s q) ∧
    (combineHalf s p h).eng = s.eng ∧ (combineHalf s p h).host = s.host ∧ (combineHalf s p h).rtes = s.rtes ∧
    ∀ pre r post, h.rows = pre ++ r :: post → rowLost h r = false →
      (∀ y ∈ post, rowLost h y = false → y.out + 4 * xDim s sl (hdrOf s sl) h.xl ≤ r.out ∨ r.out + 4 * xDim s sl (hdrOf s sl) h.xl ≤ y.out) →
      memGet (combineHalf s p h) r.out (4 * xDim s sl (hdrOf s sl) h.xl) =
        (combineRow (bit ((getPart s p).serving.getD 0) 0) (xFmtOut s sl (hdrOf s sl) h.xl) (xDim s sl (hdrOf s sl) h.xl) h r).1

/-- R270 to R275, R288, R369, R438 to R440: local memory and its background work. -/
def Obligations.LocalMemoryAndUpkeep : Prop :=
  ((∀ (s : State) (off n : Nat) (errs errs2 : List (Nat × Byte)) (tier1 : Bool), inMemory off = true → s.power.pg = true →
    blocked s (blockAt off) = false → fenced s utGroup (blockAt off / 2 ^ 36) = false →
    n = (if takerHeld s (blockAt off / 2 ^ 36) then SGet 0 s.mem.fifo (subOf (blockAt off)) + 1 else 0) → n ≤ 32 →
    exec (.memoryReadReturn off errs errs2 tier1) s = .next (blockBack (activate (modMem s (fun m => { m with
      fifo := SSet 0 m.fifo (subOf (blockAt off)) n, reads := m.reads.filter (fun r => r.1 != blockAt off) })) (blockAt off))
      (blockAt off) errs errs2 tier1)) ∧
  (∀ (s : State) (off : Nat) (errs errs2 : List (Nat × Byte)) (data : Bool),
    (blockLost s off = true → readBlock s off errs = .uncorrectable) ∧
    (readBlock s off errs = .clean → blockBack s off errs errs2 data = s) ∧
    (∀ d, readBlock s off errs = .corrected d → blockBack s off errs errs2 data = correctRow (memStore s (primaryOf s off) d) off) ∧
    (readBlock s off errs = .uncorrectable → mirrored s off = false → primaryOf s off = off →
      blockBack s off errs errs2 data = if data then lostData (lostRow s off) off else lostRow s off) ∧
    (readBlock s off errs = .uncorrectable → mirrored s off = true →
      (readBlock (activate s (copyOf off)) (copyOf off) errs2 = .clean →
        blockBack s off errs errs2 data = markLost (lostRow (activate s (copyOf off)) off) off false) ∧
      (readBlock (activate s (copyOf off)) (copyOf off) errs2 = .uncorrectable → data = false →
        blockBack s off errs errs2 data = lostRow (lostRow (activate s (copyOf off)) off) (copyOf off)))) ∧
  (∀ (s : State) (off : Nat), (activate s off).mem.bytes = s.mem.bytes ∧ (activate s off).mem.lost = s.mem.lost ∧
    (countOf (rowIn off) (activated (rowIn off) (SGet [] s.mem.rows (bankOf off))) < 256 →
      (activate s off).mem = { s.mem with
        rows := SSet [] s.mem.rows (bankOf off) (activated (rowIn off) (SGet [] s.mem.rows (bankOf off))) }) ∧
    (256 ≤ countOf (rowIn off) (activated (rowIn off) (SGet [] s.mem.rows (bankOf off))) →
      (slotOpen s (off / 2 ^ 36) = false ∨ 8 < inWindow s (subOf off) + 4 → rowIn off ∈ SGet [] (activate s off).mem.due (bankOf off)) ∧
      (slotOpen s (off / 2 ^ 36) = true → inWindow s (subOf off) + 4 ≤ 8 →
        countOf (rowIn off) (SGet [] (activate s off).mem.rows (bankOf off)) = 0))) ∧
  (∀ (s : State) (off src : Nat),
    (sparesOf s (subOf off) = 0 → remapRow s off src = groupFault s (off / 2 ^ 36) src off) ∧
    (sparesOf s (subOf off) ≠ 0 → SGet 0 (remapRow s off src).mem.spares (subOf off) = SGet 0 s.mem.spares (subOf off) + 1 ∧
      rowOf off ∈ (remapRow s off src).mem.remaps ∧ (remapRow s off src).mem.bytes = s.mem.bytes)) ∧
  (∀ (s : State) (off : Nat) (r : Nat × Nat × Nat), inMemory off = true →
    s.mem.reads.find? (fun r => r.1 == off && decide (r.2.2 + 10000 ≤ s.tick)) = some r →
    exec (.tier1ReadLate off) s = .next (groupFault s (r.1 / 2 ^ 36) 0x0C r.1))) ∧
  ((∀ (s : State) (sub row off : Nat), sub < 384 → s.power.pg = true → slotOpen s (sub / 8) = true →
    off = sub * 2 ^ 33 + row % 2 ^ 22 * 2048 →
    ∃ t, exec (.periodicRefresh sub row) s = .next t ∧ t.mem.bytes = s.mem.bytes ∧ t = { s with mem := t.mem } ∧
      SGet 0 t.mem.refreshAt sub = s.tick ∧ countOf (rowIn off) (SGet [] t.mem.rows (bankOf off)) = 0) ∧
  (∀ (s : State) (sub bank : Nat), sub < 384 → bank < 32 → s.power.pg = true →
    (slotOpen s (sub / 8) = false → exec (.rfmRequest sub bank) s = .next (modMem s (fun m => { m with
      rfm := if m.rfm.contains (sub * 32 + bank) then m.rfm else m.rfm ++ [sub * 32 + bank] }))) ∧
    (slotOpen s (sub / 8) = true → ∃ t, exec (.rfmRequest sub bank) s = .next t ∧ t.mem.bytes = s.mem.bytes ∧
      t = { s with mem := t.mem } ∧ (∀ b ∈ t.mem.rfm, b / 32 ≠ sub) ∧
      ∀ r, SGet [] s.mem.due (sub * 32 + bank) = [r] → (∀ b ∈ s.mem.rfm, b / 32 ≠ sub) → inWindow s sub + 4 ≤ 8 →
        r ∉ SGet [] t.mem.due (sub * 32 + bank))) ∧
  (∀ (s : State) (group : Nat), group < 48 → s.power.pg = true → s.power.paced = true → slotOpen s group = true →
    ∃ t, exec (.maintenanceWindow group) s = .next t ∧ t.mem.bytes = s.mem.bytes ∧ t = { s with mem := t.mem } ∧
      ∀ b ∈ t.mem.rfm, b / 32 / 8 ≠ group) ∧
  (∀ (s : State) (bank r : Nat), (slotOpen s (bank / 32 / 8) = false ∨ 8 < inWindow s (bank / 32) + 4 → targeted s bank r = s) ∧
    (slotOpen s (bank / 32 / 8) = true → inWindow s (bank / 32) + 4 ≤ 8 →
      countOf r (SGet [] (targeted s bank r).mem.rows bank) = 0 ∧ r ∉ SGet [] (targeted s bank r).mem.due bank ∧
      (slotTick s (bank / 32 / 8) ≠ none → inWindow (targeted s bank r) (bank / 32) = inWindow s (bank / 32) + 4))) ∧
  (∀ (s : State) (sub : Nat), sub < 384 → s.power.pg = true → fenced s utGroup (sub / 8) = false →
    (s.power.paced = false ∨ partOfGroup s (sub / 8) = none ∨ ∃ p, partOfGroup s (sub / 8) = some p ∧ s.tick < (getPart s p).ctick + 200) →
    (exec (.periodicCalibration sub true) s = .next (modMem s (fun m => { m with
      calFails := SSet 0 m.calFails sub 0, calAt := SSet 0 m.calAt sub s.tick }))) ∧
    (SGet 0 s.mem.calFails sub < 2 → exec (.periodicCalibration sub false) s = .next (modMem s (fun m => { m with
      calFails := SSet 0 m.calFails sub (SGet 0 m.calFails sub + 1), calAt := SSet 0 m.calAt sub s.tick }))) ∧
    (2 ≤ SGet 0 s.mem.calFails sub → ∃ u x, exec (.periodicCalibration sub false) s =
      .next (groupFault u (sub / 8) x (sub * 2 ^ 33)) ∧ u.mem.bytes = s.mem.bytes)) ∧
  (∀ (s : State) (sub off : Nat) (errs errs2 : List (Nat × Byte)), sub < 384 → off = sub * 2 ^ 33 + SGet 0 s.mem.patrol sub % 2 ^ 28 * 32 →
    s.power.pg = true → slotOpen s (sub / 8) = true → blocked s off = false → fenced s utGroup (sub / 8) = false →
    ∃ t, exec (.patrolScrub sub errs errs2) s = .next t ∧ SGet 0 t.mem.patrol sub = SGet 0 s.mem.patrol sub + 1 ∧
      t.mem.bytes = (blockBack (activate s off) off errs errs2 false).mem.bytes) ∧
  (∀ (s : State) (u n word : Nat), sramUnit u n = true → s.power.pg = true → outOfService s u n = false →
    (s.power.paced = false ∨ partOfUnit s u n = none ∨ ∃ p, partOfUnit s u n = some p ∧
      (s.tick < (getPart s p).ctick + 200 ∨ (getPart s p).chunk = none ∧ (getPart s p).step = none)) →
    exec (.sramScrub u n word 0) s = .next s ∧
    (u = utCore → word < 98304 → exec (.sramScrub u n word 1) s = .next (upsetWord s n word 1) ∧
      exec (.sramScrub u n word 2) s = .next (upsetWord s n word 2)) ∧
    (u = utCore → 98304 ≤ word → exec (.sramScrub u n word 1) s = .next s ∧
      exec (.sramScrub u n word 2) s = .next (tileMismatch s n (word - 98304))) ∧
    (u = utCobalt → exec (.sramScrub u n word 2) s = .next (reportError s utCobalt 0x07 n 0)) ∧
    (u = utCopper → exec (.sramScrub u n word 2) s = .next (reportError s utCopper 0x08 n 0)) ∧
    (u = utSlice → (SGet none s.mem.lines (65536 * n + word % 65536) = none → exec (.sramScrub u n word 2) s = .next s) ∧
      ∀ l, SGet none s.mem.lines (65536 * n + word % 65536) = some l →
        exec (.sramScrub u n word 2) s = .next (lineMet s true (n * 2 ^ 36 + 128 * l.tag)))) ∧
  (∀ (s : State) (sector count : Nat), sector < 64 → s.power.pg = true → ∃ t, exec (.ageingMeasurement sector count) s = .next t ∧
    SGet {} t.pew.age sector = ⟨Config.startOfLife sector, count, lossPpm (Config.startOfLife sector) count, s.tick⟩ ∧
    (40000 < lossPpm (Config.startOfLife sector) count → sector ∈ t.pew.ageWarn) ∧
    (50000 < lossPpm (Config.startOfLife sector) count → sector ∈ t.pew.ageLimit) ∧ t = { s with pew := t.pew }) ∧
  ∀ (s : State) (port lane : Nat), port < 16 → lane < 8 → exec (.opticalBiasCalibration port lane) s = .next s)

/-- R276, R277: reads on the host link. -/
def Obligations.HostReads : Prop :=
  (∀ (s : State) (id : Nat) (r : ORead) (data : List Byte), hostRead s id = some r → data.length = pieceLen s r →
    (match r.use with | .line _ _ => False | .desc _ _ => False | _ => True) →
    (r.len ≤ r.got.length + data.length → s.power.pfwAt = none →
      exec (.hostReadCompletion id data) s = .next (deliver (dropRead s r.id) r.use (r.got ++ data))) ∧
    (r.len ≤ r.got.length + data.length → s.power.pfwAt.isSome → exec (.hostReadCompletion id data) s = .next (dropRead s r.id)) ∧
    (r.got.length + data.length < r.len →
      exec (.hostReadCompletion id data) s = .next (issuePiece (dropRead s r.id) { r with got := r.got ++ data }).1)) ∧
  (∀ (s u : State) (id : Nat) (r : ORead), hostRead s id = some r →
    u = modHost s (fun h => { h with aerUncor := h.aerUncor ||| (1#32 <<< 14) }) →
    (r.issued + hostLimOf s r.fn ≤ s.tick → exec (.hostlimExpiry id) s = .next (readFail s r 0x0403) ∧
      exec (.pcieCompletionTimeout id) s = .next (readFail u r 0x0403)) ∧
    (s.tick < r.issued + hostLimOf s r.fn → exec (.hostlimExpiry id) s = .next s ∧
      exec (.pcieCompletionTimeout id) s = .next (readFail u r 0x0404)) ∧
    exec (.hostErrorCompletion id) s = .next (readFail s r 0x0405)) ∧
  (∀ (s : State), s.host.dlActive = true →
    (s.host.reads.filter (fun r => r.host && r.tag == 0)) = [] →
    exec .linkLeavesDlActive s = .next (modHost s (fun h => { h with dlActive := false }))) ∧
  (∀ (s : State) (r : ORead), s.host.dlActive = true → s.host.reads = [r] → r.host = true → r.tag = 0 →
    exec .linkLeavesDlActive s = .next (readFail (modHost s (fun h => { h with dlActive := false })) r 0x0405)) ∧
  (∀ (s : State), s.power.pg = true → s.power.perst = false → s.sec.waiting = true → s.host.dlActive = false →
    ∃ t, exec .hostLinkDlActive s = .next t ∧ t.host.dlActive = true ∧ t.mem = s.mem ∧ t.parts = s.parts ∧ t.fab = s.fab ∧
      t.host.reads = s.host.reads.map (fun r => if r.host && r.tag == 1 then { r with tag := 0, issued := s.tick } else r)) ∧
  (∀ (s : State) (r : ORead) (st : Nat), s.power.pfwAt.isSome → readFail s r st = dropRead s r.id)

/-- R278: the target of a peer access. -/
def Obligations.PeerRequestsAreServed : Prop :=
  ∀ (s u : State) (n : Nat) (m : Msg) (r : List Msg), n < 16 → s.power.pg = true →
    ((getPort s n).state = .active ∨ (getPort s n).state = .retrain) → (getPort s n).msgs0 = m :: r →
    u = modPort s n (fun p => { p with msgs0 := r }.free 0 (slotsOf m)) →
    (m.mtype = 1 → windowOpen s false m.src m.spart m.off m.len = true → memWaits s m.off m.len = true → exec (.rd n) s = .next s) ∧
    (m.mtype = 2 → writeToMem s m = true → memWaits s m.off m.len = true → exec (.wr n) s = .next s) ∧
    (m.mtype = 1 → windowOpen s false m.src m.spart m.off m.len = true → memWaits s m.off m.len = false → memLost s m.off m.len = false →
      ∃ t, exec (.rd n) s = .next t ∧ t = respond (memTouch u m.off m.len) m 4 0 (memGet s m.off m.len) ∧ t.mem.bytes = s.mem.bytes ∧ t.parts = s.parts ∧
        t.host = s.host ∧ t.eng = s.eng) ∧
    (m.mtype = 1 → windowOpen s false m.src m.spart m.off m.len = true → memWaits s m.off m.len = false → memLost s m.off m.len = true →
      exec (.rd n) s = .next (respond u m 4 2 [])) ∧
    (m.mtype = 1 → windowOpen s false m.src m.spart m.off m.len = false →
      exec (.rd n) s = .next (respond (portCount u n 9) m 4 1 [])) ∧
    (m.mtype = 2 → memWaits s m.off m.len = false → chainTarget s m.src m.off m.len = none →
      windowOpen s true m.src m.spart m.off m.len = true → ∃ t, exec (.wr n) s = .next t ∧ t = respond (memPut u m.off m.data) m 5 0 [] ∧
        memGet t m.off m.data.length = m.data ∧
        (∀ a, a < m.off ∨ m.off + m.data.length ≤ a → Memory.byte t.mem a = Memory.byte s.mem a) ∧
        t.parts = s.parts ∧ t.host = s.host ∧ t.eng = s.eng) ∧
    (m.mtype = 2 → memWaits s m.off m.len = false → ∀ p c i, chainTarget s m.src m.off m.len = some (p, c, i) →
      exec (.wr n) s = .next (respond (chainWrite u p c i m.off m.data) m 5 0 [])) ∧
    (m.mtype = 2 → chainTarget s m.src m.off m.len = none → windowOpen s true m.src m.spart m.off m.len = false →
      (∀ p c, noticeTarget s m.src m.off = some (p, c) →
        exec (.wr n) s = .next (respond (noticeWrite u p c m.src m.data) m 5 0 [])) ∧
      (noticeTarget s m.src m.off = none →
        (∀ p h o, jobBufAt s m.src m.spart m.off m.len = some (p, h, o) → exec (.wr n) s = .next (respond (modFab u (fun f => { f with
          brassIn := f.brassIn ++ [⟨p, m.src, m.spart, h, o, m.data⟩] })) m 5 0 [])) ∧
        (∀ p h o, jobBufAt s m.src m.spart m.off m.len = none → resultBufAt s m.src m.spart m.off m.len = some (p, h, o) →
          exec (.wr n) s = .next (respond (resultBytes p m.src m.spart h o m.data u) m 5 0 [])))) ∧
    (m.mtype = 2 → serveWrite u m = none →
      ∃ t, exec (.wr n) s = .next t ∧ t = respond (portCount u n 9) m 5 1 [] ∧ t.mem = s.mem ∧ t.parts = s.parts)

/-- R279, R340: the requester of a peer access. -/
def Obligations.PeerAnswers : Prop :=
  (∀ (s u : State) (n : Nat) (m : Msg) (r : List Msg), n < 16 → s.power.pg = true →
    ((getPort s n).state = .active ∨ (getPort s n).state = .retrain) → (getPort s n).msgs1 = m :: r →
    u = modPort s n (fun p => { p with msgs1 := r }.free 1 (slotsOf m)) →
    (answered s m = none → (m.mtype = 4 → exec (.rdata n) s = .next (portCount u n 8)) ∧
      (m.mtype = 5 → exec (.wack n) s = .next (portCount u n 8))) ∧
    (∀ a, answered s m = some a →
      (m.status ≠ 0 → (m.mtype = 4 → exec (.rdata n) s = .next (failAccess u a false 0x0407)) ∧
        (m.mtype = 5 → exec (.wack n) s = .next (failAccess u a false 0x0407))) ∧
      (m.status = 0 → m.mtype = 5 → ∀ w, a.write = some w →
        exec (.wack n) s = .next (writeOk (endAccess u a.tag false) w)) ∧
      (m.status = 0 → m.mtype = 4 → ∀ q, readOf s a = some q → (readMore (endAccess u a.tag false) q m.data).2 = true →
        exec (.rdata n) s = .next (readMore (endAccess u a.tag false) q m.data).1) ∧
      (m.status = 0 → m.mtype = 4 → readOf s a = none → exec (.rdata n) s = .next (endAccess u a.tag false)))) ∧
  (∀ (s : State) (tag : Nat) (a : Access), s.fab.accs.find? (fun a => a.tag == tag) = some a →
    (match a.write with | some w => w.brass | none => false) = false →
    (a.issued + peerLimOf s a.part ≤ s.tick → exec (.peerlimExpiry tag) s = .next (failAccess s a true 0x0406)) ∧
    (s.tick < a.issued + peerLimOf s a.part → exec (.peerlimExpiry tag) s = .next s)) ∧
  (∀ (s : State) (tag : Nat) (b : Bool), ∀ a ∈ (endAccess s tag b).fab.accs, a.tag ≠ tag) ∧
  ∀ (s : State) (tag k : Nat), s.fab.dead.any (fun d => d.1 == pickTag s k tag && decide (s.tick < d.2 + 10000000)) = false ∨
    pickTag s k tag = (tag + k) % 65536

/-- R282: notices of a chain. -/
def Obligations.ChainNotices : Prop :=
  (∀ (s u w : State) (part slot : Nat) (c : Chain) (b : List Byte) (r : List (List Byte)), findChain s part slot = some c →
    c.notices = b :: r → serving s = true → u = modChain s part slot (fun c => { c with notices := r }) →
    w = memTouch u (c.segs.getD (fld b 16 4) 0) (segLen c (fld b 16 4)) →
    (fld b 4 1 = 1 → fld b 24 4 = (crc32c (memGet s (c.segs.getD (fld b 16 4) 0) (segLen c (fld b 16 4)))).toNat → ∀ v,
      v = answer (modSeg w part slot (fld b 16 4) (fun g => { g with stored := true, attempt := fld b 5 1 })) part slot
        { c with notices := r } 2 (fld b 16 4) (fld b 5 1) → v.2 = true →
      exec (.segment part slot) s = .next (pumped (announce v.1 part slot (fld b 16 4)) part slot)) ∧
    (fld b 4 1 = 1 → fld b 24 4 ≠ (crc32c (memGet s (c.segs.getD (fld b 16 4) 0) (segLen c (fld b 16 4)))).toNat →
      (fld b 5 1 = 2 → exec (.segment part slot) s = .next (failChain w part slot 1)) ∧
      (fld b 5 1 ≠ 2 → exec (.segment part slot) s =
        .next (answer w part slot { c with notices := r } 3 (fld b 16 4) (fld b 5 1)).1)) ∧
    (fld b 4 1 = 2 → exec (.ack part slot) s =
      .next (pumped (modSeg u part slot (fld b 16 4) (fun g => { g with acked := true })) part slot)) ∧
    (fld b 4 1 = 3 → (getSeg { c with notices := r } (fld b 16 4)).attempt < 2 →
      (c.res.isSome || (getSeg { c with notices := r } (fld b 16 4)).stored) = true → exec (.nack part slot) s =
      .next (sendSegment (modSeg u part slot (fld b 16 4) (fun g => { g with attempt := g.attempt + 1, fwd := false }))
        part slot (fld b 16 4))) ∧
    (fld b 4 1 = 4 → exec (.chainAbort part slot) s = .next (failChain u part slot (fld b 34 1)))) ∧
  (∀ (s : State) (part slot : Nat) (c : Chain), findChain s part slot = some c → serving s = true → c.pred ≠ noChip →
    c.st.all (·.stored) = false → c.heard + (getPart s part).peerlim ≤ s.tick →
    exec (.chainPredecessorSilent part slot) s = .next (failChain s part slot 3)) ∧
  (∀ (s : State) (p slot reason : Nat) (c : Chain) (k : Cmd), findChain s p slot = some c → c.slot = slot → c.succ = noChip →
    findCmd s c.cmd = some k → k.d.silent = false → ∃ t, failChain s p slot reason = t ∧
      t.host.comps = s.host.comps ++ [{ compOf k.d 0 with status := 0x040B, info := reason }] ∧
      (getPart t p).chains = (getPart s p).chains.filter (fun x => x.slot != slot) ∧ t.mem = s.mem) ∧
  (∀ (s u : State) (p slot reason : Nat) (c : Chain), findChain s p slot = some c → c.succ ≠ noChip →
    u = modHost (modPart s p (fun P => { P with chains := P.chains.filter (fun x => x.slot != c.slot) }))
      (fun h => { h with reads := h.reads.filter (fun r => r.use != .chainSrc p c.slot) }) →
    failChain s p slot reason =
      endCmd (sendNotice u p c c.succ 4 0 0 0 reason).1 c.cmd (fun k => { k with status := 0x040B, info := reason }))

/-- R309: the checks of a descriptor in their order. -/
def Obligations.DescriptorsAreJudged : Prop :=
  (∀ (s : State) (fn opc st : Nat) (d : Desc) (c : Instr), DescHere s fn opc d → judge s d = some st →
    (opc, c) ∈ [(0x01, Instr.queueCreate fn), (0x02, .queueDelete fn), (0x03, .recordRingSet fn), (0x05, .partCreate fn),
      (0x06, .partDestroy fn), (0x07, .capSet fn), (0x10, .requestOpen fn), (0x11, .requestCancel fn), (0x12, .steeringBind fn),
      (0x13, .modelSelect fn), (0x14, .modelChain fn), (0x15, .modelEvict fn), (0x20, .imageRegister fn), (0x21, .graphRun fn),
      (0x22, .copy fn), (0x23, .fence fn), (0x24, .counterOp fn)] →
    exec c s = .next (doneDesc (dropDesc s d) d st)) ∧
  (∀ (s : State) (fn st : Nat) (d : Desc), DescHere s fn 0x04 d → judge s d = some st →
    (d.f 0x10 1 = 2 → exec (.telemetryReadEnergy fn) s = .next (doneDesc (dropDesc s d) d st)) ∧
    (d.f 0x10 1 ≠ 2 → exec (.telemetryReadDrops fn) s = .next (doneDesc (dropDesc s d) d st))) ∧
  (∀ (s : State) (d : Desc),
    (headOk d = false ∨ argsOk s d = false → judge s d = some 0x0001) ∧
    (headOk d = true → argsOk s d = true → queueOk d = false → judge s d = some 0x0002) ∧
    (headOk d = true → argsOk s d = true → queueOk d = true → ringsOk s d = false → judge s d = some 0x0007) ∧
    (headOk d = true → argsOk s d = true → queueOk d = true → ringsOk s d = true → stateOk s d = false → judge s d = some 0x0003) ∧
    (headOk d = true → argsOk s d = true → queueOk d = true → ringsOk s d = true → stateOk s d = true →
      judge s d = if s.power.tstop = true ∧ thermalBars d.opc = true then some 0x010A else none)) ∧
  (∀ (s : State) (d : Desc) (st : Nat), d.silent = false → doneDesc s d st = { s with host := { s.host with
    comps := s.host.comps ++ [{ fn := d.fn, sq := d.sq, seq := d.seq, cid := fld d.raw 2 2, status := st }] } })

/-- R300, R301, R304: doorbells and fetches. -/
def Obligations.PollingAndFetching : Prop :=
  (∀ (s : State), serving s = true → s.host.dlActive = true → s.host.passing = false → activeLines s ≠ [] →
    s.host.passTick + max s.host.poll.toNat (5 * (activeLines s).length) ≤ s.tick →
    exec .pollPass s = .next ((activeLines s).foldl (fun t l =>
      (startRead t l.1 (2 ^ 64 + (getFn t l.1).dbBase.toNat + 512 * l.2) 512 (.line l.1 l.2)).1)
      (modHost s (fun h => { h with passing := true, passTick := s.tick })))) ∧
  (∀ (s : State) (fn line : Nat) (data : List Byte) (r : ORead), fn < 17 →
    s.host.reads.find? (fun r => r.use == .line fn line) = some r → data.length = pieceLen s r → r.tag = 0 → serving s = true →
    (512 ≤ r.got.length + data.length →
      exec (.doorbellLineRead fn line data) s = .next (passEnd ((s.host.rings.filter (fun x => x.fn == fn && x.db / 64 == line)).foldl
        (fun t x => doorbell t x (BitVec.ofNat 32 (fld (r.got ++ data) (8 * (x.db % 64)) 4))) (dropRead s r.id)))) ∧
    (r.got.length + data.length < 512 →
      exec (.doorbellLineRead fn line data) s = .next (issuePiece (dropRead s r.id) { r with got := r.got ++ data }).1)) ∧
  (∀ (s : State), (s.host.passing = true → s.host.reads.any (fun r => isLine r.use) = false →
      passEnd s = modHost (fetchAll s) (fun h => { h with passing := false })) ∧
    (s.host.passing = false ∨ s.host.reads.any (fun r => isLine r.use) = true → passEnd s = s)) ∧
  (∀ (s : State) (r : Ring) (idx : Word),
    (r.kind = .sub → r.stopped = false → (idx - r.cnt).toNat ≤ 2 ^ r.lg →
      doorbell s r idx = modRing s r.kind r.fn r.id (fun r => { r with idx := idx })) ∧
    (r.kind = .sub → r.stopped = false → 2 ^ r.lg < (idx - r.cnt).toNat →
      doorbell s r idx = stopRing (setErr s r.fn 3) r.fn r.id r.cnt.toNat 4 false) ∧
    (r.kind = .sub → r.stopped = true → doorbell s r idx = s) ∧
    (r.kind ≠ .sub → (r.cnt - idx).toNat ≤ 2 ^ r.lg →
      doorbell s r idx = modRing s r.kind r.fn r.id (fun r => { r with idx := idx })) ∧
    (r.kind ≠ .sub → 2 ^ r.lg < (r.cnt - idx).toNat → doorbell s r idx = setErr s r.fn 3)) ∧
  (∀ (s t : State) (fn sq : Nat) (data : List Byte) (r : ORead) (d : Desc), fn < 17 →
    s.host.reads.find? (fun r => match r.use with | .desc f _ => f == fn | _ => false) = some r → r.use = .desc fn sq →
    data.length = 64 → r.tag = 0 → serving s = true → t = dropRead s r.id →
    d = { fn := fn, sq := sq, tick := s.tick, raw := data
          seq := (((findRing s .sub fn sq).map (·.cnt)).getD 0 -
            BitVec.ofNat 32 (s.host.reads.filter (fun x => x.use == .desc fn sq)).length).toNat } →
    (opcKnown (fld data 0 1) = true ∨ behindFence s d = true ∨
        s.host.handed.any (fun x => x.fn == fn && x.sq == sq && x.opc == 0x23) = true →
      exec (.descriptorFetch fn data) s = .next (modHost t (fun h => { h with handed := h.handed ++ [d] }))) ∧
    (opcKnown (fld data 0 1) = false → behindFence s d = false →
        s.host.handed.any (fun x => x.fn == fn && x.sq == sq && x.opc == 0x23) = false →
      exec (.descriptorFetch fn data) s = .next (doneDesc t d 1))) ∧
  ∀ (s : State) (fn sq n : Nat) (r : Ring), findRing s .sub fn sq = some r →
    (r.stopped = true ∨ r.cnt = r.idx ∨ cqRoom s fn r.cq = 0 → fetchRing fn sq (n + 1) s = s) ∧
    (r.stopped = false → r.cnt ≠ r.idx → cqRoom s fn r.cq ≠ 0 → fetchRing fn sq (n + 1) s = fetchRing fn sq n
      (startRead (modRing (modRing s .sub fn sq (fun r => { r with cnt := r.cnt + 1 })) .comp fn r.cq
        (fun c => { c with resv := c.resv + 1 })) fn (2 ^ 64 + (r.base + 64 * (r.cnt.toNat % 2 ^ r.lg))) 64 (.desc fn sq)).1)

/-- R312, R314, R393: administration of a function. -/
def Obligations.QueueCommands : Prop :=
  ∀ (s u : State) (fn : Nat) (d : Desc), u = dropDesc s d →
    (DescAt s fn 0x01 d →
      (ringTaken u fn (kindOf (d.f 0x10 1)) (d.f 0x12 2) (d.f 0x16 2) = true →
        exec (.queueCreate fn) s = .next (doneDesc u d 5)) ∧
      (ringTaken u fn (kindOf (d.f 0x10 1)) (d.f 0x12 2) (d.f 0x16 2) = false →
        ringQuota (getPart s (fn - 1)) (kindOf (d.f 0x10 1)) ≤ ringCount u fn (kindOf (d.f 0x10 1)) →
        exec (.queueCreate fn) s = .next (doneDesc u d 6)) ∧
      (ringTaken u fn (kindOf (d.f 0x10 1)) (d.f 0x12 2) (d.f 0x16 2) = false →
        ringCount u fn (kindOf (d.f 0x10 1)) < ringQuota (getPart s (fn - 1)) (kindOf (d.f 0x10 1)) →
        exec (.queueCreate fn) s = .next (doneDesc (modHost u (fun h => { h with rings := h.rings ++ [{
          kind := kindOf (d.f 0x10 1), fn := fn, id := d.f 0x12 2, base := d.f 0x18 8, lg := d.f 0x11 1, db := d.f 0x16 2
          vec := d.f 0x20 1, cq := d.f 0x14 2 }] })) d 0))) ∧
    (DescAt s fn 0x02 d →
      (d.f 0x10 1 = 1 → exec (.queueDelete fn) s = .next (settleDeletes
        (startCmd (modRing u .sub fn (d.f 0x12 2) (fun r => { r with stopped := true })) d .running) fn)) ∧
      (d.f 0x10 1 = 2 → exec (.queueDelete fn) s = .next (doneDesc (deleteRing u .comp fn (d.f 0x12 2)) d 0)) ∧
      (d.f 0x10 1 = 3 → exec (.queueDelete fn) s = .next (doneDesc (deleteRing u .stream fn (d.f 0x12 2)) d 0))) ∧
    (DescAt s fn 0x03 d →
      (s.host.rings.any (fun r => r.fn == fn && r.db == d.f 0x12 2 && r.kind != .record) = true →
        exec (.recordRingSet fn) s = .next (doneDesc u d 5)) ∧
      (s.host.rings.any (fun r => r.fn == fn && r.db == d.f 0x12 2 && r.kind != .record) = false →
        exec (.recordRingSet fn) s = .next (doneDesc (modHost (deleteRing u .record fn 0) (fun h => { h with rings := h.rings ++ [{
          kind := .record, fn := fn, id := 0, base := d.f 0x18 8, lg := d.f 0x10 1, db := d.f 0x12 2, vec := d.f 0x14 1 }] })) d 0))) ∧
    (DescAt s fn 0x04 d → d.f 0x10 1 ≠ 2 → exec (.telemetryReadDrops fn) s =
      .next (doneDesc (hostWrite u fn (d.f 0x18 8) (dropsBlock u (fn - 1))) d 0)) ∧
    (DescAt s fn 0x04 d → d.f 0x10 1 = 2 → exec (.telemetryReadEnergy fn) s =
      .next (doneDesc (hostWrite u fn (d.f 0x18 8) (energyBlock u fn)) d 0)) ∧
    (DescAt s fn 0x07 d → exec (.capSet fn) s =
      .next (doneDesc (limitChanged (modPow u (fun w => { w with hostCap := d.f 0x10 4 })) 1) d 0))

/-- R212, R230, R232, R312, R313: commands of an I/O ring. -/
def Obligations.RequestsAndRuns : Prop :=
  (∀ (s u v w : State) (fn id : Nat) (d : Desc), u = dropDesc s d → id = s.host.nextId →
    (DescAt s fn 0x10 d → v = cmdRead (startCmd u d .waiting) id (fn - 1) (d.f 0x30 8) 16 (.samp id)
        (fun bs s => modCmd s id (fun c => { c with buf := bs })) →
      w = cmdRead v id (fn - 1) (d.f 0x38 8) 272 (.stopset id) (fun bs s => modCmd s id (fun c => { c with buf2 := bs })) →
      exec (.requestOpen fn) s = .next (settle w (fn - 1))) ∧
    (∀ r, DescAt s fn 0x11 d → cancelTarget u (fn - 1) d = some r → exec (.requestCancel fn) s = .next (dueComp (modRte u r (fun q =>
      { q with cxlTick := if q.cxlTick = 0 then max 1 d.tick else q.cxlTick })) { compOf d 0 with cancel := some r })) ∧
    (DescAt s fn 0x12 d → d.f 0x20 4 = 0 → exec (.steeringBind fn) s = .next (beginAt s d)) ∧
    (DescAt s fn 0x12 d → d.f 0x20 4 ≠ 0 → exec (.steeringBind fn) s = .next (cmdRead (beginAt s d) id (fn - 1) (d.f 0x18 8)
      (d.f 0x20 4) (.steering id) (fun bs s => modCmd s id (fun c => { c with buf := bs })))) ∧
    (DescAt s fn 0x20 d → exec (.imageRegister fn) s = .next (modPart (beginAt s d) (fn - 1) (fun P => { P with
      images := SSet none P.images (d.f 0x10 1) (some {
        addr := gOff (d.f 0x18 8), len := d.f 0x20 8, reg := .running s.tick
        cur := (SGet none (getPart s (fn - 1)).images (d.f 0x10 1)).bind (fun i => i.cur) }) }))) ∧
    (DescAt s fn 0x21 d →
      (registering u fn (d.f 0x10 1) = true →
        exec (.graphRun fn) s = .next (startCmd u d .waiting)) ∧
      (registering u fn (d.f 0x10 1) = false → exec (.graphRun fn) s = .next (startRun (startCmd u d .waiting) id))) ∧
    (DescAt s fn 0x22 d →
      (permitted (beginAt s d) (fn - 1) none true (d.f 0x20 8) (d.f 0x28 8) = false →
        exec (.copy fn) s = .next (endCmdSt (beginAt s d) id 0x0409)) ∧
      (permitted (beginAt s d) (fn - 1) none true (d.f 0x20 8) (d.f 0x28 8) = true →
        exec (.copy fn) s = .next (cmdRead (beginAt s d) id (fn - 1) (d.f 0x18 8) (d.f 0x28 8) (.copy id) (copyPut id)))) ∧
    (DescAt s fn 0x23 d → exec (.fence fn) s = .next (releaseFence (beginAt s d) id)) ∧
    (DescAt s fn 0x24 d →
      (∀ k, getCtr s (bits (d.f 0x10 8) 8 12) = some k → k.part = fn - 1 →
        exec (.counterOp fn) s = .next (dueComp (hostWrite u fn (d.f 0x18 8) (queryBytes k)) { compOf d 0 with info := 0 })) ∧
      ((∀ k, getCtr s (bits (d.f 0x10 8) 8 12) = some k → k.part ≠ fn - 1) →
        exec (.counterOp fn) s = .next (dueComp (hostWrite u fn (d.f 0x18 8) (zeros 16)) { compOf d 0 with info := 4 })))) ∧
  (∀ (s : State) (cmd : Nat) (c : Cmd), findCmd s cmd = some c → serving s = true →
    (c.d.opc = 0x22 → c.b = 1 → exec (.copyComplete cmd) s =
      .next (endCmdSt (divideEnergy s (c.d.fn - 1) [(c.d.sq, 1)]) cmd 0)) ∧
    (c.d.opc = 0x23 → earlierOpen s c.d.fn c.d.sq c.d.seq = true → exec (.fenceRelease cmd) s = .next s) ∧
    (c.d.opc = 0x23 → earlierOpen s c.d.fn c.d.sq c.d.seq = false → exec (.fenceRelease cmd) s =
      .next (flushReserved c.d.fn c.d.sq (endCmdSt s cmd 0).host.handed (endCmdSt s cmd 0)))) ∧
  (∀ (s : State) (id : Nat) (c : Cmd), findCmd s id = some c →
    (handleImage s (c.d.fn - 1) (c.d.f 0x10 1) = none → startRun s id = endCmdSt s id 3) ∧
    ∀ ci, handleImage s (c.d.fn - 1) (c.d.f 0x10 1) = some ci →
      (nLayers s ci < c.d.f 0x12 2 + c.d.f 0x14 2 ∨ (layerAt s ci (c.d.f 0x12 2)).fin = true ∨
        (layerAt s ci (c.d.f 0x12 2 + c.d.f 0x14 2 - 1)).fout = true → startRun s id = endCmdSt s id 1) ∧
      (c.d.f 0x12 2 + c.d.f 0x14 2 ≤ nLayers s ci → (layerAt s ci (c.d.f 0x12 2)).fin = false →
        (layerAt s ci (c.d.f 0x12 2 + c.d.f 0x14 2 - 1)).fout = false →
        startRun s id = modPart (modCmd s id (fun c => { c with ph := .running })) (c.d.fn - 1) (fun P => { P with
          runs := P.runs ++ [{ cmd := id, handle := c.d.f 0x10 1, layer := c.d.f 0x12 2, left := c.d.f 0x14 2, mode := ciFld s ci 0x10 4 }]
          began := s.tick }))) ∧
  (∀ (s : State) (id : Nat) (bs : List Byte) (c : Cmd), findCmd s id = some c → gSpace (c.d.f 0x20 8) = 1 →
    copyPut id bs s = modCmd (hostWrite s c.d.fn (gOff (c.d.f 0x20 8)) bs) id (fun c => { c with b := 1 })) ∧
  (∀ (s : State) (id off : Nat) (bs : List Byte) (c : Cmd), findCmd s id = some c → localOf s (c.d.fn - 1) none (c.d.f 0x20 8) = some off →
    (copyPut id bs s).mem = (memPut s off bs).mem ∧ memGet (copyPut id bs s) off bs.length = bs ∧
    ∀ a, a < off ∨ off + bs.length ≤ a → Memory.byte (copyPut id bs s).mem a = Memory.byte s.mem a)

/-- R351 to R358: partitions and models. -/
def Obligations.PartitionsAndModels : Prop :=
  (∀ (s u : State) (fn id : Nat) (d : Desc), u = dropDesc s d → id = s.host.nextId →
    (DescAt s fn 0x05 d → exec (.partCreate fn) s = .next (startRead (beginAt s d) 0 (2 ^ 64 + d.f 0x18 8) 832 (.param id)).1) ∧
    (DescAt s fn 0x06 d → ∃ t, exec (.partDestroy fn) s = .next t ∧ t = doneDesc (destroyPart u (d.f 0x10 1)) d 0 ∧
      getPart t (d.f 0x10 1) = {} ∧ ∀ e ∈ t.rtes, ∀ q, e.2 = some q → q.part ≠ d.f 0x10 1) ∧
    (DescAt s fn 0x13 d → s.power.tstop = true → exec (.modelSelect fn) s = .next (doneDesc (deselect u (fn - 1)) d 0x010A)) ∧
    (DescAt s fn 0x13 d → s.power.tstop = false → ∀ v, v = modPart (deselect (beginAt s d) (fn - 1)) (fn - 1) (fun P => { P with
        phase := .selecting, selecting := some (id, d.f 0x10 2), rowMoves := [] }) →
      ∀ sl, getSlot v (fn - 1) (d.f 0x10 2) = some sl →
        (∀ r, sl.reg = .refused r → exec (.modelSelect fn) s = .next (endSelect v (fn - 1) r)) ∧
        ((∀ r, sl.reg ≠ .refused r) → exec (.modelSelect fn) s = .next v)) ∧
    (DescAt s fn 0x14 d → exec (.modelChain fn) s = .next (cmdRead (beginAt s d) id (fn - 1) (d.f 0x18 8) 128 (.param id)
      (fun bs s => joinChain s id bs))) ∧
    (DescAt s fn 0x15 d → exec (.modelEvict fn) s = .next (doneDesc (modPart
      (if (getPart s (fn - 1)).sel = some (d.f 0x10 2) then deselect u (fn - 1) else u) (fn - 1)
      (fun P => { P with slots := SErase P.slots (d.f 0x10 2) })) d 0))) ∧
  (∀ (s : State) (part : Nat), part < 16 → (getPart s part).creating = true → serving s = true →
    ∃ u, (s.host.cmds.find? (fun c => c.d.fn == 0 && c.d.opc == 5 && c.d.f 0x10 1 == part) = none →
        exec (.partCreateComplete part) s = .next u) ∧
      (∀ c, s.host.cmds.find? (fun c => c.d.fn == 0 && c.d.opc == 5 && c.d.f 0x10 1 == part) = some c →
        exec (.partCreateComplete part) s = .next (endCmdSt u c.id 0)) ∧
      getPart u part = { getPart s part with creating := false, phase := .empty, epochAt := s.tick } ∧
      (∀ p, p ≠ part → getPart u p = getPart s p) ∧ u.host = s.host ∧
      (∀ g ∈ groupsOf (getPart s part), ∀ k < 8, ∀ a < 0x1FF000000, Memory.byte u.mem (g * 2 ^ 36 + k * 2 ^ 33 + a) = 0) ∧
      ∀ n, bit (getPart s part).sectors (n / 64) = true → getCore u n = {}) ∧
  (∀ (s : State) (part id k : Nat) (sl : Slot), part < 16 → (getPart s part).selecting = some (id, k) →
    getSlot s part k = some sl → sl.reg = .ok → serving s = true → noReports s part = true →
    (firstSection s part k sl = none →
      exec (.modelSelectComplete part) s = .next (endCmdSt (selectDone (loadModel s part k sl) part k sl) id 0)) ∧
    ∀ ci a, firstSection s part k sl = some (ci, a) →
      (firstPlace s part k a = none → exec (.modelSelectComplete part) s = .next (newPlace (loadModel s part k sl) ci .chunk false a)) ∧
      ∀ pl, firstPlace s part k a = some pl →
        (pl.sectors ≠ [] → pl.loading = [] → exec (.modelSelectComplete part) s = .next (endCmdSt (selectDone s part k sl) id 0)) ∧
        (pl.sectors = [] ∨ pl.loading ≠ [] → exec (.modelSelectComplete part) s = .next s)) ∧
  (∀ (s : State) (part k : Nat) (sl : Slot), ∃ out, selectDone s part k sl = modPart s part (fun P => { P with
    phase := .selected, selecting := none, sel := some k, serving := some (hdrOf s sl).mode, drops := [], selOut := out
    readied := 0, discards := 0, failed := [] })) ∧
  (∀ (s : State) (part key : Nat), part < 16 → serving s = true →
    exec (.registrationDone part true key) s = .next (handleDone s part key) ∧
    (∀ sl since, getSlot s part key = some sl → sl.reg = .running since →
      exec (.registrationDone part false key) s = .next (slotDone s part key sl)))

/-- R294 to R296, R319, R320: set-up registers of a function. -/
def Obligations.SetupRegisters : Prop :=
  (∀ (s : State) (fn : Nat), fn < 17 → hostReach s fn = true →
    exec (.aqenWrite fn false) s = .next (modFn s fn (fun r => { r with aqen := false })) ∧
    ((getFn s fn).aqen = true → exec (.aqenWrite fn true) s = .next s) ∧
    ((getFn s fn).aqen = false → ∀ a c v : Nat, a = bits (getFn s fn).aqCfg.toNat 0 4 → c = bits (getFn s fn).aqCfg.toNat 4 4 →
      v = bits (getFn s fn).aqCfg.toNat 8 8 →
      (¬ (4 ≤ a ∧ a ≤ 12 ∧ 4 ≤ c ∧ c ≤ 12 ∧ v ≤ 63 ∧ (getFn s fn).aqBase ≠ 0 ∧ (getFn s fn).dbBase ≠ 0 ∧
          (fn = 0 ∨ s.host.lock = true)) → exec (.aqenWrite fn true) s = .next (setErr s fn 1)) ∧
      ((4 ≤ a ∧ a ≤ 12 ∧ 4 ≤ c ∧ c ≤ 12 ∧ v ≤ 63 ∧ (getFn s fn).aqBase ≠ 0 ∧ (getFn s fn).dbBase ≠ 0 ∧
          (fn = 0 ∨ s.host.lock = true)) →
        ∃ t sub comp, exec (.aqenWrite fn true) s = .next t ∧ (getFn t fn).aqen = true ∧
          findRing t .sub fn 0 = some sub ∧ findRing t .comp fn 0 = some comp ∧
          sub.base = (getFn s fn).aqBase.toNat ∧ sub.lg = a ∧
          comp.base = (getFn s fn).aqBase.toNat + roundUp (64 * 2 ^ a) 4096 ∧ comp.lg = c ∧ comp.vec = v ∧
          (∀ r, findRing s .sub fn 0 = some r → sub.cnt = r.cnt ∧ sub.idx = r.idx) ∧
          (∀ r, findRing s .comp fn 0 = some r → comp.cnt = r.cnt ∧ comp.idx = r.idx) ∧
          (∀ m, m ≠ fn → getFn t m = getFn s m) ∧ (∀ p, p + 1 ≠ fn → getPart t p = getPart s p) ∧
          (∀ p, p + 1 = fn → getPart t p = if (reqsOf s p).any (fun e => e.2.aborted) then getPart s p
            else { getPart s p with hostCut := false }) ∧ t.eng = s.eng ∧ t.mem = s.mem)) ∧
    (fn = 0 → s.host.lock = false → exec (.setupLock fn) s =
      .next { s with host := { s.host with lock := true }
                     sec := { s.sec with lockDigest := sha512 ((List.range 17).flatMap (lockRegs s)) } }) ∧
    (fn ≠ 0 ∨ s.host.lock = true → exec (.setupLock fn) s = .next s) ∧
    (∀ v : Word, (fn = 0 → s.host.lock = false → exec (.pollWrite fn v) s =
        .next { s with host := { s.host with poll := BitVec.ofNat 32 (max v.toNat 25) } }) ∧
      (fn ≠ 0 ∨ s.host.lock = true → exec (.pollWrite fn v) s = .next s)) ∧
    (∀ (off : Nat) (v : Dword), (s.host.lock = true ∨ (getFn s fn).aqen = true) → off = 0x20 ∨ off = 0x28 ∨ off = 0x30 ∨ off = 0x38 →
      exec (.registerWrite 0 fn off v) s = .next s) ∧
    (∀ v : Dword, s.host.lock = false → (getFn s fn).aqen = false →
      exec (.registerWrite 0 fn 0x20 v) s = .next (modFn s fn (fun r => { r with aqBase := v &&& 0xFFFFFFFFFFFFF000#64 })) ∧
      exec (.registerWrite 0 fn 0x28 v) s = .next (modFn s fn (fun r => { r with aqCfg := v &&& 0xFFFF#64 })) ∧
      exec (.registerWrite 0 fn 0x30 v) s = .next (modFn s fn (fun r => { r with dbBase := v &&& 0xFFFFFFFFFFFFF000#64 })) ∧
      exec (.registerWrite 0 fn 0x38 v) s = .next (modFn s fn (fun r => { r with dbCfg := v &&& 0xFF#64 }))) ∧
    (∀ v : Dword, exec (.registerWrite 0 fn 0x48 v) s = .next (modFn s fn (fun r => { r with imod := v &&& 0xFFFF00FF#64 })) ∧
      exec (.registerWrite 0 fn 0x50 v) s = .next (modFn s fn (fun r => { r with mbien := v.getLsbD 3 })) ∧
      ∃ t, exec (.registerWrite 0 fn 0x60 v) s = .next t ∧
        ∀ i, i < 64 → (getFn t fn).errstat.getLsbD i =
          ((getFn s fn).errstat.getLsbD i && !(decide (1 ≤ i ∧ i ≤ 5) && v.getLsbD i))) ∧
    (∀ (n : Nat) (v : Dword), n < 64 →
      exec (.registerWrite 0 fn (0x2000 + 16 * n) v) s = .next (modFn s fn (fun r => { r with msixAddr := SSet 0 r.msixAddr n v })) ∧
      exec (.registerWrite 0 fn (0x2008 + 16 * n) v) s = .next (modFn s fn (fun r => { r with
        msixData := SSet 0 r.msixData n (v.setWidth 32)
        msixOpen := if v.getLsbD 32 then r.msixOpen &&& ~~~(1#64 <<< n) else r.msixOpen }))) ∧
    (∀ (sp off : Nat) (v : Dword), sp < 2 → off % 8 ≠ 0 ∨ (sp = 0 ∧ (off < 0x20 ∨ off = 0x58 ∨ (0x68 ≤ off ∧ off < 0x2000) ∨ 0x2400 ≤ off)) ∨
        (sp = 1 ∧ (0x38 ≤ off % 0x80 ∨ 0x1000 ≤ off)) → exec (.registerWrite sp fn off v) s = .next s) ∧
    (∀ (off : Nat) (v : Dword), off % 8 = 0 → off % 0x80 < 0x38 → off < 0x1000 →
      (mbDropped s fn (off / 0x80) = true → exec (.registerWrite 1 fn off v) s = .next (setErrCh s fn 4 (off / 0x80))) ∧
      (mbDropped s fn (off / 0x80) = false → exec (.registerWrite 1 fn off v) s = .next (mbPut s fn (off / 0x80) (off % 0x80) v))) ∧
    (∀ v : Dword, fn = 0 →
      (bits v.toNat 12 3 ≤ 5 → bits v.toNat 5 3 ≤ 2 → exec (.registerWrite 2 0 0 v) s = .next (modHost s (fun h => { h with
        mrrs := 128 * 2 ^ bits v.toNat 12 3, mps := 128 * 2 ^ bits v.toNat 5 3 }))) ∧
      exec (.registerWrite 2 0 8 v) s = .next (modHost s (fun h => { h with aerUncor := h.aerUncor &&& ~~~(v.setWidth 32) })) ∧
      exec (.registerWrite 2 0 16 v) s = .next (modHost s (fun h => { h with aerCor := h.aerCor &&& ~~~(v.setWidth 32) }))) ∧
    (bar0Read s fn 0 = 0x100040102 ∧ bar0Read s fn 0x20 = (getFn s fn).aqBase.toNat ∧ bar0Read s fn 0x40 = s.host.poll.toNat ∧
      bar0Read s fn 0x60 = (getFn s fn).errstat.toNat ∧ bar0Read s fn 0x3000 = (getFn s fn).pba.toNat ∧
      ∀ off, 0x180 ≤ off → off < 0x2000 → bar0Read s fn off = 0) ∧
    (∀ (vec : Nat) (r : FnRegs), vec < 64 → r = getFn s fn →
      (r.pba.getLsbD vec = true → ∃ t, exec (.msixVectorUnmask fn vec) s = .next t ∧
        t.host.writes = s.host.writes ++ [⟨fn, (SGet 0 r.msixAddr vec).toNat, leBytes 4 (SGet 0 r.msixData vec).toNat⟩] ∧
        (getFn t fn).msixOpen.getLsbD vec = true ∧ (getFn t fn).pba.getLsbD vec = false ∧ t.parts = s.parts ∧ t.mem = s.mem) ∧
      (r.pba.getLsbD vec = false → exec (.msixVectorUnmask fn vec) s =
        .next (modFn s fn (fun r => { r with msixOpen := r.msixOpen ||| (1#64 <<< vec) })))) ∧
    ∀ (ring : Nat) (r : Ring), s.host.rings.find? (fun r => r.fn == fn && r.db == ring && r.kind != .sub) = some r →
      (0 < r.unsig → 0 < r.vec → r.first + bits (getFn s fn).imod.toNat 16 16 ≤ s.tick → exec (.imodTimerExpiry fn ring) s =
        .next (sendVec (modRing s r.kind fn r.id (fun r => { r with unsig := 0 })) fn r.vec)) ∧
      (r.unsig = 0 ∨ r.vec = 0 ∨ s.tick < r.first + bits (getFn s fn).imod.toNat 16 16 →
        exec (.imodTimerExpiry fn ring) s = .next s)) ∧
  ∀ (s : State) (n : Nat) (v : Dword), n < 64 → (getCob s n).run = true →
    (∀ off, off % 8 = 0 → off < 0x110 → (getCob s n).busy = false → exec (.registerWrite 3 n off v) s =
      .next (modCob s n (fun c => { c with txbuf := SSetRun 0 c.txbuf off (leBytes 8 v.toNat) }))) ∧
    (∀ off, off % 8 = 0 → off < 0x110 → (getCob s n).busy = true → 
      ∃ t, exec (.registerWrite 3 n off v) s = .next t ∧ getCob t n = getCob s n) ∧
    (v.getLsbD 1 = true → exec (.registerWrite 3 n 0x208 v) s = .next (modCob s n (fun c => { c with denied := false }))) ∧
    exec (.registerWrite 4 n 0 v) s = .next (modCob s n (fun c => { c with timecmp := some v.toNat }))

/-- R323 to R325: mailboxes. -/
def Obligations.MailboxMessages : Prop :=
  (∀ (s : State) (fn ch : Nat), fn < 17 → ch < 32 → hostReach s fn = true → bindValid s ch = true → bindRcv s ch = fn →
    ∃ t, exec (.mbpop fn ch) s = .next t ∧ SGet [] t.host.mbRx ch = (SGet [] s.host.mbRx ch).drop 1 ∧
      (∀ k, k ≠ ch → SGet [] t.host.mbRx k = SGet [] s.host.mbRx k) ∧ t = { s with host := { s.host with mbRx := t.host.mbRx } }) ∧
  (∀ (s : State) (fn ch : Nat) (v : Dword), fn < 17 → ch < 32 → hostReach s fn = true →
    ((bindValid s ch = false ∨ bindSnd s ch ≠ fn ∨ masterDown s (bindRcv s ch) = true) →
      exec (.txsend fn ch v) s = .next (setErrCh s fn 4 ch)) ∧
    (∀ (r : Nat) (msg : List Byte) (u : State), bindValid s ch = true → bindSnd s ch = fn → r = bindRcv s ch →
      masterDown s r = false →
      msg = (mbBuf s fn ch).take 56 ++ leBytes 8 v.toNat ++ (mbBuf s fn ch).drop 64 →
      u = modHost s (fun h => { h with mbTx := SSet [] h.mbTx (32 * fn + ch) msg }) →
      (r ≤ 0x10 → (SGet [] s.host.mbRx ch).length < 4 → ∃ t, exec (.txsend fn ch v) s = .next t ∧
        SGet [] t.host.mbRx ch = SGet [] s.host.mbRx ch ++ [msg]) ∧
      (r ≤ 0x10 → 4 ≤ (SGet [] s.host.mbRx ch).length → exec (.txsend fn ch v) s = .next (setErrCh u r 5 ch)) ∧
      (0x10 < r → ∃ m, exec (.txsend fn ch v) s = .next { u with eng := { u.eng with tin := u.eng.tin ++ [m] } } ∧
        m.dst = mbEndpoint r ∧ m.typ = 0x0C ∧ m.arg = ch ∧ m.data = msg))) ∧
  (∀ (s : State) (src dst : Nat) (m : Tin), dst = 0x1102 ∨ dst = 0x1103 → winHead s 0x0C src dst = some m →
    ∃ t, exec (.mbox src dst false) s = .next t ∧ t.parts = s.parts ∧ t.mem = s.mem ∧
      ((SGet [] s.host.mbRx m.arg).length < 4 → t.host = { s.host with mbRx := t.host.mbRx } ∧
        SGet [] t.host.mbRx m.arg = SGet [] s.host.mbRx m.arg ++ [m.data]) ∧
      (4 ≤ (SGet [] s.host.mbRx m.arg).length → t.host = { s.host with mbLoss := t.host.mbLoss } ∧
        SGet 0 t.host.mbLoss m.arg = SGet 0 s.host.mbLoss m.arg + 1)) ∧
  (∀ (s : State) (src dst : Nat) (m : Tin), dst = 0x1100 ∨ dst = 0x1102 ∨ dst = 0x1103 → winHead s 0x0C src dst = some m →
    exec (.mbox src dst true) s = .next (tinBad s m) ∧
    (dst = 0x1100 → bindRcv s m.arg ≤ 0x10 → exec (.mbox src dst false) s = .next (mbHost (tinDrop s m) (bindRcv s m.arg) m.arg m.data))) ∧
  ∀ (s : State) (src n : Nat) (m : Tin), n < 64 → tinFront s false src (0x1000 + n) = some m → m.typ = 0x0C →
    (getCob s n).rxq.length < 64 → exec (.mbox src (0x1000 + n) true) s = .next (tinBad s m) ∧
    (mbHeld (tinDrop s m) n m.arg < 4 → exec (.mbox src (0x1000 + n) false) s = .next (rxArrive (tinDrop s m) n m)) ∧
    (4 ≤ mbHeld (tinDrop s m) n m.arg → exec (.mbox src (0x1000 + n) false) s = .next (modHost (tinDrop s m) (fun h => { h with
      mbLoss := SSet 0 h.mbLoss m.arg (SGet 0 h.mbLoss m.arg + 1) })))

/-- R297, R298, R410: resets from the host side. -/
def Obligations.FunctionResets : Prop :=
  (∀ (s : State) (fn : Nat), 1 ≤ fn → fn < 17 → hostReach s fn = true → exec (.vfFlr fn) s = .next (resetVf s fn)) ∧
  (∀ (s : State), hostReach s 0 = true → exec .vfEnableClear s = .next (vfsOff s) ∧
    (vfsOn s = [] → exec .vfEnableClear s = .next s) ∧
    ∃ t, exec .vfEnableSet s = .next t ∧ t = { s with host := { s.host with fns := t.host.fns } } ∧
      getFn t 0 = getFn s 0 ∧ ∀ n, 1 ≤ n → n < 17 → getFn t n = { getFn s n with enabled := true }) ∧
  (∀ (s : State) (fn : Nat), ∀ r, r = getFn s fn → (getFn (resetRegs s fn) fn =
      { aqBase := r.aqBase, aqCfg := r.aqCfg, dbBase := r.dbBase, dbCfg := r.dbCfg, enabled := r.enabled }) ∧
    (∀ r ∈ (resetRegs s fn).host.rings, r.fn ≠ fn) ∧ (∀ n, n ≠ fn → getFn (resetRegs s fn) n = getFn s n) ∧
    (resetRegs s fn).host.lock = s.host.lock ∧ (resetRegs s fn).parts = s.parts ∧ (resetRegs s fn).mem = s.mem) ∧
  (∀ (s : State) (p r : Nat) (q : Rte), getRte s r = some q → q.part = p → (dynOf s q).state ≠ .free → (getPart s p).phase ≠ .absent →
    (getPart s p).phase ≠ .faulted → getRte (abortReqs s p) r = some { q with aborted := true, ents := [] } ∧
      (getPart (abortReqs s p) p).hostCut = true ∧ (getPart (abortReqs s p) p).chunk = none ∧ (getPart (abortReqs s p) p).step = none) ∧
  (∀ (s : State), hostReach s 0 = true → s.host.cmds = [] → s.host.handed = [] → s.host.reads = [] → vfsOn s = [] →
    ∃ t, exec .pfFlr s = .next t ∧ (∀ r ∈ t.host.rings, r.fn ≠ 0) ∧ (getFn t 0).aqen = false ∧
      (getFn t 0).aqBase = (getFn s 0).aqBase ∧ t.host.lock = s.host.lock ∧ t.mem = s.mem) ∧
  ∀ (s : State), s.power.pg = true → s.power.perst = false → s.power.pfwAt = none →
    ∃ t, exec .perstAssert s = .next t ∧ t.host = { State.reset.host with writes := s.host.writes, nextId := s.host.nextId } ∧
      t.parts = [] ∧ t.rtes = [] ∧ t.mem = s.mem ∧ t.tick = s.tick ∧ t.fab.ports = s.fab.ports ∧ t.power.perst = true ∧
      t.power.hostCap = 2000 ∧ t.power.energy = s.power.energy ∧ t.sec.state = 0 ∧ t.sec.svnMin = s.sec.svnMin ∧
      t.sec.rootRev = s.sec.rootRev

/-- R330 to R336: the link layer. -/
def Obligations.PortFlits : Prop :=
  (∀ (p : Port) (ft vc seq ack : Nat) (sl : List (List Byte)) (b : List Byte), b = flitBytes p ft vc seq ack sl → 1 ≤ ft → ft ≤ 3 →
    vc < 3 → seq < 4096 → ack < 4096 → sl.length ≤ 15 → (∀ x ∈ sl, x.length = 16) → (ft ≠ 1 → vc = 0 ∧ seq = 0 ∧ sl = []) →
    flitOk b = true ∧ b.length = 256 ∧ bits (fld b 0 8) 0 4 = ft ∧ bits (fld b 0 8) 4 2 = vc ∧ bits (fld b 0 8) 8 12 = seq ∧
      bits (fld b 0 8) 20 12 = ack ∧ flitSlots b = sl ++ List.replicate (15 - sl.length) (zeros 16)) ∧
  (∀ (s u : State) (n : Nat) (b : List Byte) (d : Nat), n < 16 → s.power.pg = true → (getPort s n).linked = true → b.length = 256 →
    d = fld b 0 8 →
    u = modPort (ackFlits s n (if bit d 32 then bits d 20 12 else 4096)) n (fun p => takeCredit p b) →
    (flitOk b = false → exec (.flitReceive n b false) s =
      .next (if bits d 0 4 = 1 then nakOnce (portCount s n 3) n else portCount s n 3)) ∧
    (exec (.flitReceive n b true) s =
      .next (if bits d 0 4 = 1 then nakOnce (portCount (portCount s n 3) n 4) n else portCount (portCount s n 3) n 4)) ∧
    (flitOk b = true → bits d 0 4 = 1 → bits d 8 12 = (getPort s n).rxSeq →
      ∃ t, exec (.flitReceive n b false) s = .next t ∧ t = pump (acceptFlit u n (bits d 4 2) (flitSlots b)) n ∧
        (getPort t n).rxSeq = ((getPort s n).rxSeq + 1) % 4096 ∧ (getPort t n).nakSent = false ∧
        (getPort t n).state = (getPort s n).state ∧ t.mem = s.mem ∧ t.parts = s.parts ∧ t.host = s.host ∧ t.eng = s.eng) ∧
    (flitOk b = true → bits d 0 4 = 1 → bits d 8 12 ≠ (getPort s n).rxSeq →
      ∃ t, exec (.flitReceive n b false) s = .next t ∧ (getPort t n).rxSeq = (getPort s n).rxSeq ∧ (getPort t n).nakSent = true ∧
        (getPort t n).msgs0 = (getPort s n).msgs0 ∧ (getPort t n).msgs1 = (getPort s n).msgs1 ∧
        (getPort t n).msgs2 = (getPort s n).msgs2 ∧ t.fab.out.length = s.fab.out.length + (if (getPort s n).nakSent then 0 else 1)) ∧
    (flitOk b = true → bits d 0 4 = 2 → exec (.flitReceive n b false) s = .next (pump u n)) ∧
    (flitOk b = true → bits d 0 4 = 3 → exec (.flitReceive n b false) s = .next (nakTaken u n)) ∧
    ∀ ack, exec (.nak n ack) s = .next (nakTaken (ackFlits s n ack) n)) ∧
  (∀ (s : State) (n i : Nat) (f : TxFlit), (getPort s n).replay[i]? = some f → (∀ j g, j < i → (getPort s n).replay[j]? = some g →
      g.seq ≠ f.seq) → (getPort (ackFlits s n f.seq) n).replay = (getPort s n).replay.drop (i + 1)) ∧
  (∀ (s : State) (n : Nat), n < 16 → s.power.pg = true → (getPort s n).linked = true →
    ((getPort s n).owed = true → ∃ t, exec (.ackIdleTimer n) s = .next t ∧
      t.fab.out = s.fab.out ++ [(n, flitBytes (getPort s n) 2 0 0 (getPort s n).ackSeq [])] ∧ (getPort t n).owed = false) ∧
    ((getPort s n).owed = false → exec (.ackIdleTimer n) s = .next s)) ∧
  ∀ (s : State) (n : Nat), n < 16 → s.power.pg = true → (getPort s n).replay ≠ [] →
    ((getPort s n).ackTick + 2000 ≤ s.tick → exec (.ackStallTimeout n) s = .next (enterRetrain s n)) ∧
    (s.tick < (getPort s n).ackTick + 2000 → exec (.ackStallTimeout n) s = .next s)

/-- R336, R337, R343 to R345, R349: states of an optical port. -/
def Obligations.PortStates : Prop :=
  (∀ (s : State) (n : Nat), n < 16 → s.power.pg = true →
    ((getPort s n).state = .active → exec (.laneLockLoss n) s = .next (enterRetrain s n)) ∧
    ((getPort s n).state = .check ∨ (getPort s n).state = .quarantine → exec (.laneLockLoss n) s =
      .next (modPort s n (fun p => { p with state := .training, since := s.tick }))) ∧
    ((getPort s n).state = .retrain → (getPort s n).since + 5000000 ≤ s.tick →
      exec (.retrainTimeout n) s = .next (portGone s n .down)) ∧
    ((getPort s n).state = .retrain → s.tick < (getPort s n).since + 5000000 → exec (.retrainTimeout n) s = .next s) ∧
    ((getPort s n).state = .down → (getPort s n).since + 10000000 ≤ s.tick →
      exec (.downRetry n) s = .next (modPort s n (fun p => { p with state := .training, since := s.tick }))) ∧
    ((getPort s n).state = .training → ∃ t, exec (.portLock n) s = .next t ∧ getPort t n =
      { state := .check, cause := (getPort s n).cause, since := s.tick, retrains := (getPort s n).retrains } ∧
      (∀ m, m ≠ n → getPort t m = getPort s m) ∧ t = { s with fab := { s.fab with ports := t.fab.ports } }) ∧
    ((getPort s n).state = .check → (getPort s n).since + 1000000 ≤ s.tick → exec (.noRecord n) s = .next (quarantine s n 1)) ∧
    ((getPort s n).state = .check → s.tick < (getPort s n).since + 1000000 → exec (.noRecord n) s = .next s)) ∧
  (∀ (s : State) (n : Nat), (getPort s n).state = .active →
    ((retrainsOf s (getPort s n)).length < 2 → ∃ t, enterRetrain s n = t ∧ getPort t n = { getPort s n with
      state := .retrain, since := s.tick, retrains := s.tick :: retrainsOf s (getPort s n) } ∧
      (∀ m, m ≠ n → getPort t m = getPort s m) ∧ t.parts = s.parts ∧ t.host = s.host ∧ t.mem = s.mem) ∧
    (2 ≤ (retrainsOf s (getPort s n)).length → enterRetrain s n = portGone s n .fenced)) ∧
  (∀ (s : State) (n : Nat) (pl : List Byte), n < 16 → s.power.pg = true → s.pew.applied = some pl → (getPort s n).state = .check →
    (getPort s n).identSent = false ∨ (getPort s n).identAt + 1000 ≤ s.tick →
    exec (.identSend n) s = .next (sendMsg (modPort s n (fun p => { p with identAt := s.tick, identSent := true })) n 2
      ⟨8, 0, planFchip pl n, ownChip s, 0, 0, 64, 0, 0, ownRecord s n⟩)) ∧
  (∀ (s u : State) (n : Nat) (pl : List Byte) (m : Msg) (r : List Msg), n < 16 → s.power.pg = true → s.pew.applied = some pl →
    (getPort s n).msgs2 = m :: r → u = modPort s n (fun p => { p with msgs2 := r }.free 2 (slotsOf m)) →
    (recordOk m.data = false → exec (.ident n) s = .next u) ∧
    (recordOk m.data = true → (getPort s n).state = .check →
      (recordCause pl n m.data = 0 → exec (.ident n) s =
        .next (pump (portUp (modPort u n (fun p => { p with record := m.data })) n) n)) ∧
      (recordCause pl n m.data ≠ 0 → exec (.ident n) s =
        .next (quarantine (modPort u n (fun p => { p with record := m.data })) n (recordCause pl n m.data)))) ∧
    (recordOk m.data = true → (getPort s n).state = .active →
      (m.data = (getPort s n).record → exec (.ident n) s = .next u) ∧
      (m.data ≠ (getPort s n).record → exec (.ident n) s = .next (quarantine
        (modPort u n (fun p => { p with record := m.data })) n (recordDiff (getPort s n).record m.data))))) ∧
  (∀ (pl b : List Byte) (n : Nat), recordCause pl n b = 0 ↔ fld b 1 1 = planExpect pl n ∧ fld b 0x10 8 = fld pl 8 8 ∧
    fld b 8 8 = planFserial pl n ∧ fld b 4 2 = planFchip pl n ∧ fld b 2 1 = planFport pl n ∧ (fld b 1 1 = 1 → fld b 3 1 = 1)) ∧
  ∀ (s : State) (n : Nat) (b : List Byte), n < 16 → s.power.pg = true → (getPort s n).state = .retrain → recordOk b = true →
    s.tick ≤ (getPort s n).since + 5000000 →
    (b = (getPort s n).record → exec (.portRelock n b) s = .next (pump (replayAll
      (modPort (portUp s n) n (fun p => { p with ackTick := s.tick, replays := 0, naks := [] })) n) n)) ∧
    (b ≠ (getPort s n).record → exec (.portRelock n b) s = .next (quarantine
      (modPort s n (fun p => { p with record := b })) n (recordDiff (getPort s n).record b)))

/-- R364 to R368, R374, R437: from an error to its outcome. -/
def Obligations.UnitRecovery : Prop :=
  (exec .unitErrorRecovery State.reset = .next State.reset) ∧
  (∀ (s u : State) (r : Report1), s.eng.reports = [r] → u = modEng s (fun e => { e with reports := [] }) →
    (r.utype = utHub → exec .unitErrorRecovery s = .next (hubError u r)) ∧
    (r.utype ≠ utHub → r.part = none →
      (fenced s r.utype r.unit = true → exec .unitErrorRecovery s = .next u) ∧
      (fenced s r.utype r.unit = false → (∀ x ∈ s.eng.tests, ¬ (x.utype = r.utype ∧ x.unit = r.unit)) →
        exec .unitErrorRecovery s = .next (startTest u r.utype r.unit .error r.log none))) ∧
    (∀ p, r.utype ≠ utHub → r.part = some p →
      exec .unitErrorRecovery s = .next (withdrawFor (restartRegs (discardWork u (some p)) p) r))) ∧
  (∀ (s u : State) (r q : Report1) (p : Nat), s.eng.reports = [r, q] → u = modEng s (fun e => { e with reports := [] }) →
    r.utype ≠ utHub → q.utype ≠ utHub → r.part = some p → q.part = some p → exec .unitErrorRecovery s =
      .next (withdrawFor (withdrawFor (restartRegs (discardWork u (some p)) p) r) q)) ∧
  (∀ (s : State) (p : Nat), partWorks (getPart s p) = true → discardWork s (some p) = discardInterval (forgetFaults s p) p) ∧
  (∀ (s : State) (p r : Nat) (q : Rte) (x : ReqErr), getRte s r = some q → q.part = p → q.err = some x → programStatus x.status = true →
    ∃ q', getRte (forgetFaults s p) r = some q' ∧ q'.err = none ∧ q' = { q with err := none }) ∧
  (∀ (s : State) (u n log : Nat) (w : TestWhy) (p : Option Nat), ∃ t, startTest s u n w log p = t ∧
    t.eng.tests = s.eng.tests ++ [⟨u, n, w, s.tick, log, p⟩] ∧ (∀ d ∈ domainOf u n, d ∈ t.eng.away) ∧
    (∀ r ∈ t.eng.rejoin, r.2 ∉ domainOf u n) ∧
    (u = utCore ∨ u = utCobalt → ∀ pl ∈ t.eng.places, (if u = utCore then n / 64 else n) ∉ pl.sectors) ∧ t.host = s.host ∧ t.pew = s.pew ∧ t.power = s.power) ∧
  (∀ (s : State) (u n : Nat) (pass : Bool) (x : SelfTest),
    s.eng.tests.find? (fun t => t.utype == u && t.unit == n) = some x →
    (u = utSlice → sliceLeaving s n = true → exec (.selfTestDone u n pass) s = .next s) ∧
    (¬ (u = utSlice ∧ sliceLeaving s n = true) → ∀ v, v = clearUnit s u n →
    (x.why = .error → pass = true → transientsOf s u n < 2 → ∃ t, exec (.selfTestDone u n pass) s = .next t ∧
      t = endTest (setOutcome (modPew v (fun w => { w with transients := (u, n, s.sbTick) :: w.transients })) x.log 1) x ∧
      t.pew.transients = (u, n, s.sbTick) :: s.pew.transients ∧ t.pew.fence = s.pew.fence) ∧
    (x.why = .error → (pass = false ∨ 2 ≤ transientsOf s u n) → ∃ t, exec (.selfTestDone u n pass) s = .next t ∧
      t = fenceUnit (endTest (setOutcome v x.log 2) x) u n) ∧
    (x.why ≠ .error → pass = true → ∃ t, exec (.selfTestDone u n pass) s = .next t ∧ (u, n) ∉ t.pew.fence ∧
      (∀ f ∈ s.pew.fence, f ≠ (u, n) → f ∈ t.pew.fence) ∧ transientsOf t u n = 0 ∧ t.pew.faultLog = s.pew.faultLog) ∧
    (x.why ≠ .error → pass = false → ∃ t, exec (.selfTestDone u n pass) s = .next t ∧ t.pew.fence = s.pew.fence ∧
      t.pew.faultNext = s.pew.faultNext + 1))) ∧
  (∀ (s : State) (u n : Nat) (pass : Bool), s.eng.tests.find? (fun t => t.utype == u && t.unit == n) = none →
    exec (.selfTestDone u n pass) s = .next s) ∧
  ∀ (s : State) (u n : Nat) (r : Nat × Nat × Nat), s.eng.returning.find? (fun r => r.2 == (u, n)) = some r → s.power.pg = true →
    (∀ p, homeOf s u n = some p → partWorks (getPart s p) = true → exec (.returnTestStart u n) s = .next s) ∧
    ((∀ p, homeOf s u n = some p → partWorks (getPart s p) = false) →
      ∀ v, v = modEng s (fun e => { e with returning := e.returning.filter (· != r) }) →
      exec (.returnTestStart u n) s = .next (startTest v u n .returned 0 (homeOf s u n)))

/-- R379 to R385, R404 to R406, R427: main power. -/
def Obligations.PowerSequences : Prop :=
  (∀ (s : State) (ps : PwrState), ∃ t, mainLost s ps = t ∧ t.power.pg = false ∧ t.power.pstate = ps ∧ t.parts = [] ∧ t.rtes = [] ∧
    t.eng = State.reset.eng ∧ t.mem = State.reset.mem ∧
    t.host = { State.reset.host with writes := s.host.writes, nextId := s.host.nextId } ∧
    t.sec.svnMin = s.sec.svnMin ∧ t.sec.rootRev = s.sec.rootRev ∧ t.sec.state = 0 ∧ t.power.en = s.power.en ∧
    t.power.needCycle = s.power.needCycle ∧ t.pew.fence = s.pew.fence ∧ t.pew.faultLog = s.pew.faultLog ∧
    t.pew.settings = s.pew.settings ∧ t.pew.plan = s.pew.plan) ∧
  (∀ (s : State), s.power.en = false →
    (s.power.needCycle = true ∨ s.power.uv = true ∨ s.pew.ready = false →
      exec .enAssert s = .next { s with power := { s.power with en := true } }) ∧
    (s.power.needCycle = false → s.power.uv = false → s.pew.standby = true → s.pew.ready = true → s.power.pg = false →
      s.power.pstate ≠ .starting → ∃ t, exec .enAssert s = .next t ∧ t.power = { s.power with
          en := true, pstate := .starting, enAt := s.sbTick, railFault := false, paced := fld (settingsNow s) 6 1 == 1
          pace := fld (settingsNow s) 7 1, slope := fld (settingsNow s) 12 1, ecmode := fld (settingsNow s) 13 1 } ∧
        t.pew.inForce = some (settingsNow s) ∧ t.pew.applied = s.pew.plan ∧ t.parts = s.parts ∧ t.host = s.host ∧ t.mem = s.mem)) ∧
  (∀ (s : State), s.power.pstate = .starting →
    (s.pew.standby = true → ∃ t, exec .powerGood s = .next t ∧ t.tick = 0 ∧ t.power = { s.power with pg := true, pstate := .on } ∧
      t.pew.moduleFault = false ∧ t.parts = s.parts ∧ t.host = s.host ∧ t.mem = s.mem) ∧
    ∀ rail, rail < 212 → ∃ t, exec (.railStartFail rail) s = .next t ∧
      t.power = { s.power with railFault := true, needCycle := true, pstate := .railFault } ∧
      t.pew.faultNext = s.pew.faultNext + 1 ∧ t.parts = s.parts ∧ t.host = s.host ∧ t.mem = s.mem) ∧
  (∀ (s : State), s.power.pg = true → s.power.pfwAt = none →
    exec .pfwRecognised s = .next (pfwStart s) ∧
    (∀ vin, vin < 3850 → exec (.inputUndervoltage vin) s =
      .next (pfwStart { s with power := { s.power with vin := vin, uv := true } })) ∧
    (s.power.en = true → ∃ t, exec .enDeassert s = .next t ∧
      t = (fun u : State => { u with power := { u.power with needCycle := false } })
        (pfwStart { s with power := { s.power with en := false } })) ∧
    ∃ t, pfwStart s = t ∧ t.power.pfwAt = some s.tick ∧ t.power.pstate = .pfw ∧ t.power.floor = true ∧ t.power.needCycle = true ∧
      t.host.cmds = [] ∧ t.host.handed = [] ∧ t.host.reads = [] ∧ t.host.writes = s.host.writes ∧ t.mem = s.mem ∧
      (∀ r q, getRte t r = some q → q.dyn0.state = .free ∧ q.dyn1.state = .free) ∧
      ∀ p, (getPart t p).cw = (getPart s p).cw) ∧
  (∀ (s : State), s.power.pfwAt.isSome → pfwStart s = s) ∧
  (∀ (s : State), s.power.pg = true → s.power.en = true → s.power.pfwAt.isSome →
    exec .enDeassert s = .next { s with power := { s.power with en := false, needCycle := false } }) ∧
  (∀ (s : State) (a : Nat), s.power.pfwAt = some a →
    (s.tick < a + 300000 → exec .pfwPowerOff s = .next s) ∧
    (a + 300000 ≤ s.tick → s.power.needCycle = true → exec .pfwPowerOff s = .next (ibiCheck (mainLost s .off)))) ∧
  (∀ (s : State), s.power.pg = true →
    exec .hardwareTrip s = .next (ibiCheck (mainLost { s with power := { s.power with needCycle := true } } .tripped)) ∧
    (∀ vin, 6200 < vin → exec (.inputOvervoltage vin) s =
      .next (ibiCheck (mainLost { s with power := { s.power with vin := vin, needCycle := true } } .off))) ∧
    (∀ vin, vin < 3600 → ∃ t, exec (.inputCollapse vin) s = .next t ∧ t.power.pg = false ∧ t.power.uv = true ∧ t.parts = [] ∧
      t.power.pstate = .off ∧ t.mem = State.reset.mem) ∧
    (∀ rail, rail < 212 → rail ∉ s.power.railsOff → exec (.railOutOfWindow rail) s = .next (railOut s rail)) ∧
    (∀ rail, rail = 112 ∨ (209 ≤ rail ∧ rail < 212) → ∃ t, railOut s rail = t ∧ t.power.pg = false ∧ t.power.pstate = .railFault ∧
      t.power.needCycle = true ∧ t.parts = [] ∧ t.pew.faultNext = s.pew.faultNext + 1)) ∧
  (∀ (s : State) (vin : Nat), 3950 < vin → s.power.uv = true →
    exec (.inputRestart vin) s = .next (recognise { s with power := { s.power with vin := vin, uv := false } })) ∧
  ∀ (s : State), ∃ t, ibiCheck s = t ∧ t = { s with pew := { s.pew with mstatSeen := t.pew.mstatSeen, ibis := t.pew.ibis } }

/-- R172, R384 to R403: power and thermal control while the module runs. -/
def Obligations.PaceDroopThermal : Prop :=
  (∀ (s : State) (d : Nat), d < 113 → s.power.pg = true → SGet 0 s.power.held d = 0 →
    ∃ t, exec (.droopTrip d) s = .next t ∧ SGet 0 t.power.held d = s.tick + 1 ∧
      (∀ k, k ≠ d → SGet 0 t.power.held k = SGet 0 s.power.held k) ∧
      SGet {} t.power.droop d = { SGet ({} : DroopCtr) s.power.droop d with trips := (SGet {} s.power.droop d).trips + 1 } ∧
      t = { s with power := { s.power with held := t.power.held, droop := t.power.droop } }) ∧
  (∀ (s u v : State) (d ns : Nat), d < 113 → s.power.pg = true → SGet 0 s.power.held d ≠ 0 →
    (∀ x : DroopCtr, x = SGet {} s.power.droop d → u = modPow s (fun w => { w with
      held := SSet 0 w.held d 0
      droop := SSet {} w.droop d { x with total := x.total + ns, longest := max x.longest ns } })) →
    v = addHeld u (if d < 64 then partOfSector s d else if d < 112 then partOfGroup s (d - 64) else none) ns →
    (ns ≤ 10000 → exec (.droopRelease d ns) s = .next (releaseAll v)) ∧
    (10000 < ns → exec (.droopRelease d ns) s = .next (railOut v d))) ∧
  (∀ (s : State) (w : Nat), s.power.pg = true → s.tick % 1000 = 0 → s.power.ecmode = 0 →
    ∃ t, exec (.powerSample w []) s = .next t ∧ t.power.samples = (w :: s.power.samples).take 100 ∧
      t.power.avg = t.power.samples.sum / t.power.samples.length ∧ t.power.energy = (s.power.energy + 10 * w) % 2 ^ 64 ∧
      (105 * limitOf s < 100 * t.power.avg → t.power.floor = true) ∧ t.host = s.host ∧ t.mem = s.mem ∧ t.rtes = s.rtes) ∧
  (∀ (s : State) (L : Nat), s.power.pg = true → s.power.paced = false → s.power.floor = false →
    s.tick % 10000 = 0 → L = rampLimit s →
    (98 * L < 100 * s.power.avg ∨ 1000 ≤ s.power.tj →
      (600 < s.power.vset → exec .governorAction s = .next { s with power := { s.power with vset := s.power.vset - 5 } }) ∧
      (s.power.vset ≤ 600 → ∃ t, exec .governorAction s = .next t ∧ t.power.floor = true ∧ t.power.vset = 600 ∧ t.host = s.host ∧
        t.mem = s.mem)) ∧
    (100 * s.power.avg < 93 * L → s.power.tj < 980 →
      (s.power.vset < 850 → s.power.lastRaise + 100000 ≤ s.tick → exec .governorAction s =
        .next { s with power := { s.power with vset := s.power.vset + 5, lastRaise := s.tick } }) ∧
      (850 ≤ s.power.vset → exec .governorAction s = .next s)) ∧
    (100 * s.power.avg ≤ 98 * L → 93 * L ≤ 100 * s.power.avg → s.power.tj < 1000 → exec .governorAction s = .next s)) ∧
  (∀ (s : State) (tj : Bool) (c : Option Nat), s.power.pg = true → s.power.floor = false → ∃ t, enterFloor s tj c = t ∧
    t.power.floor = true ∧ t.power.vset = 600 ∧ t.power.gate = 800 ∧ t.power.burst = true ∧ t.power.hot = tj ∧
    (s.power.paced = true → s.power.departed = none → t.power.departed = some s.tick) ∧
    (∀ x, c = some x → ∃ e, SGet none t.pew.capLog s.pew.capNext = some e ∧ e.tstart = s.tick ∧ e.limit = limitOf s ∧ e.cause = x) ∧
    t.host = s.host ∧ t.mem = s.mem ∧ t.rtes = s.rtes ∧ t.eng = s.eng) ∧
  (∀ (s : State), s.power.pg = true → s.power.floor = true → s.power.paced = false → s.power.pfwAt = none →
    100 * s.power.avg < 93 * limitOf s → s.power.tj < 980 → s.power.lastClimb + 100000 ≤ s.tick →
    (s.power.hot = true → cool s = true) → stopOver s = true → ∃ t, exec .floorPaceClimb s = .next t ∧ t.parts = s.parts ∧ t.host = s.host ∧
      t.power.vset = s.power.vset ∧ t.power.lastClimb = s.tick ∧
      (s.power.burst = true → t.power.burst = false ∧ t.power.gate = s.power.gate ∧ t.power.floor = true) ∧
      (s.power.burst = false → topRate s.power.vset s.power.tj ≤ s.power.gate + 50 → t.power.gate = 0 ∧ t.power.floor = false) ∧
      (s.power.burst = false → s.power.gate + 50 < topRate s.power.vset s.power.tj →
        t.power.gate = s.power.gate + 50 ∧ t.power.floor = true)) ∧
  (∀ (s : State) (a : Nat), s.power.departed = some a → s.power.pg = true → s.power.paced = true → cool s = true →
    s.power.pfwAt = none → stopOver s = true → 105 * s.power.refA ≤ 100 * limitOf s → ∃ t, exec .departureReturn s = .next t ∧
      t.power.departed = none ∧ t.power.floor = false ∧ t.power.vset = pacedSet s.power.pace ∧ t.power.gate = 0 ∧
      t.power.lastDep = (a, s.tick) ∧ t.host = s.host ∧ t.mem = s.mem) ∧
  (∀ (s : State) (a k : Nat), s.power.ramp = some a → s.power.pg = true → s.power.paced = true → s.power.rampRate = 79 + k →
    1 ≤ k → k ≤ s.power.pace → a + ceilDiv (2000000 * k) (max s.power.pace 1) ≤ s.tick → exec .startRampPaceStep s =
      .next { s with power := { s.power with rampRate := 80 + k, ramp := if k = s.power.pace then none else some a } }) ∧
  (∀ (s : State) (xs : List Int) (i o : Int), s.power.pg = true → s.tick % 10000 = 0 → xs.length = 68 →
    ∃ v, exec (.thermalSample xs i o) s =
        .next (ibiCheck (if 1050 ≤ maxOf xs ∧ s.power.tstop = false then thermalStop v else v)) ∧
      v.power.tj = maxOf xs ∧ v.power.sensors = xs ∧ v.power.tin = i ∧ v.power.tout = o ∧ v.power.tstop = s.power.tstop ∧
      (1030 ≤ maxOf xs → v.power.floor = true) ∧ (maxOf xs < 1030 → v.power.floor = s.power.floor) ∧
      (980 ≤ maxOf xs → v.power.below98 = none) ∧ (950 < maxOf xs → v.power.below95 = none) ∧
      v.host = s.host ∧ v.rtes = s.rtes ∧ v.mem = s.mem ∧ v.eng = s.eng) ∧
  (∀ (s : State), (∀ p, p < 16 → reqsOf s p = []) → thermalStop s = { s with power := { s.power with
    tstop := true, tsParts := [], tsRuns := partIds.flatMap (fun p => (getPart s p).runs.map (·.cmd)) } }) ∧
  ∀ (s : State) (a : Nat), s.power.below95 = some a → s.power.tstop = true →
    (a + 1000000000 ≤ s.tick → exec .thermalStopEnd s = .next (ibiCheck (releaseAll { s with
      power := { s.power with tstop := false, stopEnd := some s.tick, ramp := some s.tick, rampRate := 80 } }))) ∧
    (s.tick < a + 1000000000 → exec .thermalStopEnd s = .next s)

/-- R408 to R416, R420: boot. -/
def Obligations.BootSequence : Prop :=
  (∀ (s : State) (failed : List (Nat × Nat)), s.power.pg = true → s.power.pfwAt = none → s.sec.started = false →
    s.pew.moduleFault = false → s.pew.returns = [] → s.parts = [] →
    ∃ t, exec (.bootStart failed) s = .next t ∧ t.sec.started = true ∧ t.sec.waiting = true ∧ t.sec.state = 0 ∧
      t.power.perst = false ∧ t.pew.fresh = false ∧ (s.pew.fresh = true → ∀ f ∈ failed, f ∈ t.pew.fence) ∧
      (s.pew.fresh = false → t.pew.fence = s.pew.fence) ∧ t.mem = s.mem) ∧
  (∀ (s : State), s.power.pg = true → (s.sec.started = true ∨ s.pew.moduleFault = true) → ∀ failed,
    exec (.bootStart failed) s = .next s) ∧
  (∀ (s : State), s.power.pg = true → s.sec.started = true → exec .lpddr6TrainingDone s =
    .next { s with sec := { s.sec with trained := true } }) ∧
  (∀ (s : State) (req b : List Byte), spdmUp s = true → fld req 0 1 = 0x13 → fld req 1 1 = 0xFE → vendorReq req = some b →
    fld b 0 1 = 1 → s.sec.resync = false → 3 ≤ s.sec.spdm →
    (1 ≤ s.sec.state → s.sec.state < 0x10 → exec (.bundleRegister req) s = .next (vendorSend s [1#8])) ∧
    ((s.sec.state = 0 ∨ 0x10 ≤ s.sec.state) → ∀ a n, a = fld (b.drop 1) 0 8 → n = fld (b.drop 1) 8 8 →
      (¬ (b.length = 17 ∧ a % 4096 = 0 ∧ 4096 ≤ n ∧ n ≤ 67108864) → exec (.bundleRegister req) s = .next (vendorSend s [2#8])) ∧
      (b.length = 17 → a % 4096 = 0 → 4096 ≤ n → n ≤ 67108864 → ∃ u, exec (.bundleRegister req) s =
          .next (vendorSend (startRead u 0 (2 ^ 64 + a) n .bundle).1 [0#8]) ∧ u.sec.state = 1 ∧ u.sec.addr = a ∧ u.sec.len = n ∧
        u.sec.bundle = [] ∧ u.sec.bm = [] ∧ u.host = s.host ∧ u.parts = s.parts ∧ u.mem = s.mem))) ∧
  (∀ (s : State), s.sec.state = 1 → s.power.pg = true → s.power.pfwAt = none → s.sec.bundle.length = s.sec.len →
    ∃ t, exec .bundleFetched s = .next t ∧ t.host = s.host ∧ t.parts = s.parts ∧ t.mem = s.mem ∧ t.eng = s.eng ∧
      (bundleCheck s.sec = 2 → t.sec.state = 2 ∧ t.sec.bm = sha512 (s.sec.bundle.take (s.sec.bundle.length - 132))) ∧
      (bundleCheck s.sec ≠ 2 → t.sec.state = bundleCheck s.sec ∧ t.sec.bm = s.sec.bm)) ∧
  (∀ (e : Electrum), bundleCheck e = 2 ∨ (0x11 ≤ bundleCheck e ∧ bundleCheck e ≤ 0x15)) ∧
  (∀ (e : Electrum), bundleCheck e = 2 → bundleForm e.bundle = true ∧ fld e.bundle 0x10 1 = 1 ∧ bit (fld e.bundle 0x11 1) 2 = true ∧
    e.svnMin ≤ fld e.bundle 0x14 4 ∧ ∃ n, n < 4 ∧ sha512 ((e.bundle.drop 0x40).take 133) = Config.rootHash n ∧
      bit e.rootRev n = false ∧ bit (fld e.bundle 0x1C 1) n = false) ∧
  (∀ (s : State), s.sec.state = 2 → s.sec.bm ≠ [] → s.power.pg = true → s.power.pfwAt = none →
    (∃ t, exec (.fuseProgramDone true) s = .next t ∧ t.sec.state = 3 ∧
      t.sec.svnMin = max s.sec.svnMin (fld s.sec.bundle 0x18 4) ∧
      (∀ n, n < 4 → bit t.sec.rootRev n = (bit s.sec.rootRev n || bit (fld s.sec.bundle 0x1C 1) n)) ∧ t.host = s.host ∧
      t.mem = s.mem) ∧
    ∃ t, exec (.fuseProgramDone false) s = .next t ∧ t.sec.state = 0x16 ∧ t.sec.bm = [] ∧ t.sec.svnMin = s.sec.svnMin ∧
      t.sec.rootRev = s.sec.rootRev ∧ t.host = s.host ∧ t.mem = s.mem) ∧
  (∀ (s : State), s.sec.state = 3 → s.sec.trained = true → s.power.pg = true → s.power.pfwAt = none →
    ∃ t, exec .bootRunning s = .next t ∧ t.sec.state = 4 ∧ t.sec.resync = true ∧ t.power.ramp = some s.tick ∧
      (∀ c, c < 32 → SGet 0 t.host.mbbind c = BitVec.ofNat 32 (fld (secBytes s.sec.bundle 5) (4 * c) 4)) ∧
      (∀ n, n < 64 → getCob t n = if fenced s utCobalt n then {} else cobaltStart s.sec.bundle) ∧
      (∀ pl n, s.pew.applied = some pl → n < 16 → (getPort s n).state = .dark →
        (getPort t n).state = if planExpect pl n = 0 then .dark else .training) ∧
      t.host = { s.host with mbbind := t.host.mbbind } ∧ t.mem = s.mem ∧ t.parts = s.parts) ∧
  (∀ (s : State), s.sec.state = 3 → s.sec.trained = false → exec .bootRunning s = .next s)

/-- R417 to R420: attestation. -/
def Obligations.Attestation : Prop :=
  (∀ (s : State) (req : List Byte) (x : Instr × Nat × Nat), x ∈ [(Instr.getCapabilities req, 0xE1, 1),
      (.negotiateAlgorithms req, 0xE3, 2), (.getDigests req, 0x81, 3), (.getCertificate req, 0x82, 3), (.challenge req, 0x83, 3),
      (.getMeasurements req, 0xE0, 3)] →
    spdmUp s = true → fld req 1 1 = x.2.1 →
    (fld req 0 1 ≠ 0x13 → exec x.1 s = .next (spdmErr s 0x41)) ∧
    (fld req 0 1 = 0x13 → s.sec.resync = true → exec x.1 s = .next (spdmErr s 0x43)) ∧
    (fld req 0 1 = 0x13 → s.sec.resync = false → s.sec.spdm < x.2.2 → exec x.1 s = .next (spdmErr s 0x04))) ∧
  (∀ (s : State) (code : Nat), spdmErr s code = { s with sec := { s.sec with
    out := s.sec.out ++ [leBytes 1 0x13 ++ leBytes 1 0x7F ++ leBytes 1 code ++ leBytes 1 0] } }) ∧
  (∀ (s : State) (req r : List Byte), spdmUp s = true → fld req 1 1 = 0x84 → fld req 0 1 = 0x10 →
    r = leBytes 1 0x10 ++ leBytes 1 0x04 ++ zeros 3 ++ leBytes 1 1 ++ leBytes 2 0x1300 → exec (.getVersion req) s =
      .next { s with sec := { s.sec with spdm := 1, resync := false, vca := req ++ r, msgB := [], msgL := [], out := s.sec.out ++ [r] } }) ∧
  (∀ (s : State) (req : List Byte), spdmUp s = true → fld req 0 1 = 0x13 → s.sec.resync = false → 1 ≤ s.sec.spdm →
    (fld req 1 1 = 0xE1 → ∃ t r, exec (.getCapabilities req) s = .next t ∧ t.sec.out = s.sec.out ++ [r] ∧
      fld r 0 1 = 0x13 ∧ fld r 1 1 = 0x61 ∧ fld r 8 4 = 0x16 ∧ t.sec.spdm = 2 ∧ t.sec.vca = s.sec.vca ++ req ++ r ∧
      t.host = s.host ∧ t.mem = s.mem) ∧
    (fld req 1 1 = 0xE3 → 2 ≤ s.sec.spdm → ∃ t r, exec (.negotiateAlgorithms req) s = .next t ∧ t.sec.out = s.sec.out ++ [r] ∧
      r.length = 36 ∧ fld r 1 1 = 0x63 ∧ (fld r 12 4 = 0 ∨ fld r 12 4 = 0x100) ∧ (fld r 16 4 = 0 ∨ fld r 16 4 = 4) ∧
      t.sec.spdm = 3 ∧ t.host = s.host ∧ t.mem = s.mem)) ∧
  (∀ (s : State) (req : List Byte), spdmUp s = true → fld req 0 1 = 0x13 → s.sec.resync = false → 3 ≤ s.sec.spdm →
    (fld req 1 1 = 0x81 → ∃ t r, exec (.getDigests req) s = .next t ∧ t.sec.out = s.sec.out ++ [r] ∧
      fld r 3 1 = (if s.sec.state = 4 then 3 else 1) ∧ t.host = s.host ∧ t.mem = s.mem) ∧
    (fld req 1 1 = 0x82 → ∀ n, n = fld req 2 1 % 16 → (slotChain s n = none → exec (.getCertificate req) s = .next (spdmErr s 0x01)) ∧
      ∀ c p, slotChain s n = some c → fld req 4 2 < c.length → p = (c.drop (fld req 4 2)).take (fld req 6 2) →
        ∃ t r, exec (.getCertificate req) s = .next t ∧ t.sec.out = s.sec.out ++ [r] ∧ r.drop 8 = p ∧ fld r 2 1 = n ∧
          t.sec.msgB = s.sec.msgB ++ req ++ r ∧ t.host = s.host ∧ t.mem = s.mem) ∧
    (fld req 1 1 = 0x83 → fld req 2 1 ≠ 0 → exec (.challenge req) s = .next (spdmErr s 0x01)) ∧
    (fld req 1 1 = 0x83 → fld req 2 1 = 0 → fld req 3 1 = 0 → ∃ t r, exec (.challenge req) s = .next t ∧
      r = leBytes 1 0x13 ++ leBytes 1 0x03 ++ leBytes 1 0 ++ leBytes 1 (slotMask s) ++ sha512 ((slotChain s 0).getD []) ++
        Config.nonce s.sec.draws ++ zeros 2 ++ (req.drop 36).take 8 ∧
      t.sec.out = s.sec.out ++
        [r ++ sigBytes Config.dik (spdmToSign ctxChallenge (sha512 (s.sec.vca ++ s.sec.msgB ++ req ++ r)))] ∧
      t.sec.draws = s.sec.draws + 1 ∧ t.host = s.host ∧ t.mem = s.mem) ∧
    (fld req 1 1 = 0xE0 → bit (fld req 2 1) 0 = true → fld req 36 1 % 16 ≠ 0 → exec (.getMeasurements req) s = .next (spdmErr s 0x01)) ∧
    (fld req 1 1 = 0xE0 → bit (fld req 2 1) 0 = false → 1 ≤ fld req 3 1 → fld req 3 1 ≤ 5 →
      ∃ t r, exec (.getMeasurements req) s = .next t ∧ t.sec.out = s.sec.out ++ [r] ∧ fld r 4 1 = 1 ∧
        r.drop 8 = measBlock s (fld req 3 1) ++ Config.nonce s.sec.draws ++ zeros 2 ++ (req.drop 4).take 8 ∧
        t.sec.msgL = s.sec.msgL ++ req ++ r ∧ t.host = s.host ∧ t.mem = s.mem)) ∧
  (∀ (s : State), measValue s 1 = Config.romDigest ∧ (s.sec.bm = [] → measValue s 2 = zeros 64) ∧
    (s.sec.bm ≠ [] → measValue s 2 = s.sec.bm) ∧ (s.host.lock = false → measValue s 3 = zeros 64) ∧
    (s.host.lock = true → measValue s 3 = s.sec.lockDigest) ∧ (s.pew.applied = none → measValue s 4 = zeros 64) ∧
    (∀ pl, s.pew.applied = some pl → measValue s 4 = sha512 pl) ∧ measValue s 5 = sha512 (settingsForce s)) ∧
  (∀ (s : State) (n : Nat), 2 ≤ n → slotChain s n = none) ∧
  (∀ (s : State) (req : List Byte), spdmUp s = true → fld req 1 1 ∉ [0x84, 0xE1, 0xE3, 0x81, 0x82, 0x83, 0xE0, 0xFE] →
    s.sec.resync = false → exec (.spdmUnsupportedRequest req) s = .next (spdmErr s 0x07)) ∧
  ∀ (s : State) (req b : List Byte), spdmUp s = true → fld req 0 1 = 0x13 → fld req 1 1 = 0xFE → vendorReq req = some b →
    fld b 0 1 = 2 → b.length = 1 → s.sec.resync = false → 3 ≤ s.sec.spdm → exec (.bootStatus req) s =
      .next (vendorSend s ([0#8] ++ leBytes 1 s.sec.state ++ zeros 7 ++ leBytes 8 s.sec.tick ++
        (if s.sec.bm.isEmpty then zeros 64 else s.sec.bm)))

/-- R420 to R424: seals. -/
def Obligations.EpochSeals : Prop :=
  (∀ (s : State) (p : Nat), p < 16 → s.sec.state = 4 → s.power.pg = true → s.power.perst = false → (getPart s p).phase ≠ .absent →
    (getPart s p).chainOver = false →
    ((getPart s p).epochAt + 100000000 ≤ s.tick → ∃ t, exec (.epochTimeEnd p) s = .next t ∧ getPart t p = { getPart s p with
        ended := (getPart s p).ended ++ [⟨(getPart s p).epochN, 1, s.tick, (getPart s p).epoch,
          (getPart s p).seqno - (getPart s p).epochN, (getPart s p).head, (getPart s p).epochAt⟩]
        epoch := (getPart s p).epoch + 1, epochN := 0, epochAt := s.tick, chainOver := false } ∧
      (∀ q, q ≠ p → getPart t q = getPart s q) ∧ t = { s with parts := t.parts }) ∧
    (s.tick < (getPart s p).epochAt + 100000000 → exec (.epochTimeEnd p) s = .next s)) ∧
  (∀ (s : State) (p : Nat) (e : EpochEnd) (r : List EpochEnd), p < 16 → s.sec.state = 4 → s.power.pg = true →
    (getPart s p).ended = e :: r → ∃ t x, exec (.epochSeal p) s = .next t ∧ (getPart t p).ended = r ∧
      SGet none t.sec.latest p = some x ∧ x.part = p ∧ x.epoch = e.epoch ∧
      x.bytes = sealBody s p e ++ sigBytes (tskKey s) (sha512 (sealBody s p e)) ∧ x ∈ t.sec.store ∧
      (s.sec.store.length < 1024 → t.sec.store = s.sec.store ++ [x]) ∧ (∀ q, q ≠ p → getPart t q = getPart s q) ∧
      t.host = s.host ∧ t.mem = s.mem ∧ t.rtes = s.rtes) ∧
  (∀ (s : State) (p : Nat), p < 16 → (getPart s p).ended = [] → exec (.epochSeal p) s = .next s) ∧
  (∀ (s : State) (x : Seal) (xs : List Seal) (r : Ring), s.sec.store = x :: xs → findRing s .seal 0 0 = some r →
    (mayWrite s 0 = false ∨ r.room = false → exec .sealRingWrite s = .next s) ∧
    (mayWrite s 0 = true → r.room = true → exec .sealRingWrite s = .next (ringWrite
      { s with sec := { s.sec with store := xs, dropped := SSet 0 s.sec.dropped (chainKey x.chain) 0 } } .seal 0 0
      (x.bytes ++ leBytes 2 (SGet 0 s.sec.dropped (chainKey x.chain)) ++ zeros 202)))) ∧
  (∀ (s : State) (req b : List Byte), spdmUp s = true → fld req 0 1 = 0x13 → fld req 1 1 = 0xFE → vendorReq req = some b →
    s.sec.resync = false → 3 ≤ s.sec.spdm →
    (fld b 0 1 = 3 → (s.sec.state ≠ 4 ∨ s.host.lock = false) → exec (.sealRingSet req) s = .next (vendorSend s [1#8])) ∧
    (fld b 0 1 = 3 → s.sec.state = 4 → s.host.lock = true → ∀ c, c = b.drop 1 →
      ((c.length = 12 ∧ fld c 0 8 % 4096 = 0 ∧ 4 ≤ fld c 8 1 ∧ fld c 8 1 ≤ 12 ∧ fld c 9 1 ≤ 63 ∧ dbRange s 0 (fld c 10 2) = true ∧
          dbFree s 0 (fld c 10 2) (some .seal) = true) → exec (.sealRingSet req) s = .next (vendorSend (putRing s
        { kind := .seal, fn := 0, id := 0, base := fld c 0 8, lg := fld c 8 1, db := fld c 10 2, vec := fld c 9 1 }) [0#8])) ∧
      (¬ (c.length = 12 ∧ fld c 0 8 % 4096 = 0 ∧ 4 ≤ fld c 8 1 ∧ fld c 8 1 ≤ 12 ∧ fld c 9 1 ≤ 63 ∧ dbRange s 0 (fld c 10 2) = true ∧
          dbFree s 0 (fld c 10 2) (some .seal) = true) → exec (.sealRingSet req) s = .next (vendorSend s [2#8]))) ∧
    (fld b 0 1 = 4 → s.sec.state ≠ 4 → exec (.sealGet req) s = .next (vendorSend s [1#8])) ∧
    (fld b 0 1 = 4 → s.sec.state = 4 → b.length = 2 → fld (b.drop 1) 0 1 < 16 →
      (∀ x, SGet none s.sec.latest (fld (b.drop 1) 0 1) = some x → exec (.sealGet req) s = .next (vendorSend s ([0#8] ++ x.bytes))) ∧
      (SGet none s.sec.latest (fld (b.drop 1) 0 1) = none → exec (.sealGet req) s = .next (vendorSend s [3#8])))) ∧
  ∀ (s : State) (p : Nat) (e : EpochEnd), (SGet (zeros 16) s.sec.chainIds p).length = 16 → e.head.length = 64 →
    16 ≤ s.sec.bm.length → (sealBody s p e).length = 0xB0

/-- R428 to R437, R447: Pewter. -/
def Obligations.PewterAndItsMessages : Prop :=
  (∀ (s : State) (ga : Nat), s.pew.standby = false → ∃ t, exec (.standbyUp ga) s = .next t ∧
    t.pew = { standby := true, ready := false, fresh := true, ga := ga % 64, out := s.pew.out } ∧ t.sbTick = 0 ∧
    t.power = { s.power with needCycle := false, railFault := false, pstate := .off } ∧ t.host = s.host ∧ t.mem = s.mem) ∧
  (∀ (s : State), s.pew.standby = true → s.pew.ready = false → exec .pewterReady s =
    .next (recognise { s with pew := { s.pew with ready := true, readyAt := s.sbTick } })) ∧
  (∀ (s : State), s.pew.standby = true → ∃ t, exec .standbyLoss s = .next t ∧
    t.pew = { standby := false, ready := false, out := s.pew.out } ∧ t.power.needCycle = false ∧
    (s.power.pg = true → t.power.pg = false ∧ t.parts = [] ∧ t.mem = State.reset.mem) ∧
    (s.power.pg = false → t.parts = s.parts ∧ t.mem = s.mem)) ∧
  (∀ (s : State) (a : Nat), s.pew.standby = true → s.pew.ready = true → a < 128 →
    (s.pew.dynAddr = none → ∃ t, exec (.setdasa a) s = .next t ∧ exec (.entdaa a) s = .next t ∧ t.pew.dynAddr = some a) ∧
    (s.pew.dynAddr.isSome → exec (.setdasa a) s = .next s ∧ exec (.entdaa a) s = .next s)) ∧
  (∀ (s : State) (i : Nat) (v : Dword), s.pew.standby = true → s.pew.ready = true → i < 256 →
    (∃ t, exec (.i3cIndexWrite i) s = .next t ∧
      t = { s with pew := { s.pew with index := i, mstatSeen := t.pew.mstatSeen, ibis := t.pew.ibis } }) ∧
    ∃ t, exec (.i3cRegisterWrite i v) s = .next t ∧ t = { s with pew := { s.pew with
      index := i, tctl := if i = 3 then v &&& 1 else s.pew.tctl, mstatSeen := t.pew.mstatSeen, ibis := t.pew.ibis } }) ∧
  (∀ (s : State), s.pew.standby = true → s.pew.ready = true → s.pew.hbLost = false →
    (s.pew.beat.getD s.pew.readyAt + 200000000 ≤ s.sbTick → ∃ t, exec .heartbeatLost s = .next t ∧ t.pew.hbLost = true ∧
      t.host = s.host ∧ t.mem = s.mem ∧ t.eng = s.eng) ∧
    (s.sbTick < s.pew.beat.getD s.pew.readyAt + 200000000 → exec .heartbeatLost s = .next s)) ∧
  (∀ (s : State) (m : List Byte) (x : Instr × Nat), s.pew.standby = true → s.pew.ready = true →
    x ∈ [(Instr.heartbeat m, 1), (.settingsPut m, 2), (.planPut m, 3), (.telemGet m, 4), (.logGet m, 5), (.returnUnit m, 6),
      (.settingsGet m, 7), (.rackManagerMalformed m, fld m 4 1)] → fld m 4 1 = x.2 →
    ((24 ≤ m.length → fld m 0 4 ≠ 0x53574550 ∨ 0x80 ≤ fld m 4 1 ∨ fld m 0x10 8 ≠ Config.serial.toNat) →
      exec x.1 s = .next { s with pew := { s.pew with discarded := s.pew.discarded + 1 } }) ∧
    (pewParse m = .malformed → exec x.1 s = .next { s with pew := { s.pew with
      out := s.pew.out ++ [pewMsg (fld m 4 1 + 0x80) 1 (fld m 8 4) []] } })) ∧
  (∀ (s : State) (m : List Byte), s.pew.standby = true → s.pew.ready = true →
    (pewParse m = .malformed → exec (.rackManagerMalformed m) s = .next { s with pew := { s.pew with
      out := s.pew.out ++ [pewMsg (fld m 4 1 + 0x80) 1 (fld m 8 4) []] } }) ∧
    (pewParse m = .drop → exec (.rackManagerMalformed m) s = .next { s with pew := { s.pew with
      discarded := s.pew.discarded + 1 } }) ∧
    ∀ b, pewParse m = .ok b → exec (.rackManagerMalformed m) s = .next s) ∧
  (∀ (m : List Byte), pewParse m = .malformed ↔ 24 ≤ m.length ∧ fld m 0 4 = 0x53574550 ∧ fld m 4 1 < 0x80 ∧
    fld m 0x10 8 = Config.serial.toNat ∧ ¬ (pewLen (fld m 4 1) (m.drop 24) = some (m.length - 24) ∧ fld m 6 2 = m.length - 24 ∧
      zeroAt m 5 1 = true ∧ zeroAt m 0x0C 4 = true ∧ pewZero (fld m 4 1) (m.drop 24) = true)) ∧
  (∀ (s : State) (m b : List Byte) (ans : Nat → List Byte → List Byte), s.pew.standby = true → s.pew.ready = true →
    pewParse m = .ok b → (∀ st p, ans st p = pewMsg (fld m 4 1 + 0x80) st (fld m 8 4) p) →
    (fld m 4 1 = 1 → ∃ t, exec (.heartbeat m) s = .next t ∧ t.pew.beat = some s.sbTick ∧ t.pew.hbLost = false ∧
      t.pew.out = s.pew.out ++ [ans 0 []] ∧ t.host = s.host ∧ t.mem = s.mem ∧ t.eng = s.eng) ∧
    (fld m 4 1 = 2 → (settingsOk b = true → ∃ t, exec (.settingsPut m) s = .next t ∧ t.pew.settings = some b ∧
        t.pew.out = s.pew.out ++ [ans 0 []] ∧ t.host = s.host ∧ t.mem = s.mem ∧ t.eng = s.eng) ∧
      (settingsOk b = false → exec (.settingsPut m) s = .next { s with pew := { s.pew with out := s.pew.out ++ [ans 2 []] } })) ∧
    (fld m 4 1 = 3 → ∀ n, n = fld b 0 2 →
      (n = 0 → exec (.planPut m) s = .next { s with pew := { s.pew with xfer := some (1, b.drop 4), out := s.pew.out ++ [ans 0 []] } }) ∧
      (n ≠ 0 → (∀ g, s.pew.xfer ≠ some (n, g)) → exec (.planPut m) s =
        .next { s with pew := { s.pew with xfer := none, out := s.pew.out ++ [ans 1 []] } }) ∧
      (∀ g, 0 < n → n < 16 → s.pew.xfer = some (n, g) → exec (.planPut m) s =
        .next { s with pew := { s.pew with xfer := some (n + 1, g ++ b.drop 4), out := s.pew.out ++ [ans 0 []] } }) ∧
      (∀ g, n = 16 → s.pew.xfer = some (n, g) →
        (planCheck (g ++ b.drop 4) = none → exec (.planPut m) s =
          .next { s with pew := { s.pew with xfer := none, plan := some (g ++ b.drop 4), out := s.pew.out ++ [ans 0 []] } }) ∧
        ∀ k, planCheck (g ++ b.drop 4) = some k → exec (.planPut m) s =
          .next { s with pew := { s.pew with xfer := none, out := s.pew.out ++ [ans 2 (leBytes 1 k)] } })) ∧
    (fld m 4 1 = 4 → exec (.telemGet m) s = .next { s with pew := { s.pew with out := s.pew.out ++
      [match telemValues s (fld b 0 1) (fld b 2 2) with | some vs => ans 0 (vs.flatMap (leBytes 8)) | none => ans 1 []] } }) ∧
    (fld m 4 1 = 5 → (fld b 0 1 = 0 → exec (.logGet m) s = .next { s with pew := { s.pew with out := s.pew.out ++
        [ans 0 (logBytes s.pew.faultLog s.pew.faultNext (fld b 8 8) faultBytes)] } }) ∧
      (fld b 0 1 = 1 → exec (.logGet m) s = .next { s with pew := { s.pew with out := s.pew.out ++
        [ans 0 (logBytes s.pew.capLog s.pew.capNext (fld b 8 8) capBytes)] } }) ∧
      (3 ≤ fld b 0 1 → exec (.logGet m) s = .next { s with pew := { s.pew with out := s.pew.out ++ [ans 1 []] } })) ∧
    (fld m 4 1 = 7 → exec (.settingsGet m) s = .next { s with pew := { s.pew with out := s.pew.out ++
      [ans 0 (settingsForce s ++ settingsNow s)] } }) ∧
    (fld m 4 1 = 6 → ∀ u n, u = fld b 0 1 → n = fld b 2 2 → u ∈ [utCore, utCobalt, utCopper, utSlice, utGroup, utPort] →
      (s.power.tstop = true ∨ s.power.pfwAt.isSome ∨ (u ≠ utPort ∧ (u, n) ∉ s.pew.fence) →
        exec (.returnUnit m) s = .next { s with pew := { s.pew with out := s.pew.out ++ [ans 3 []] } }) ∧
      (s.power.tstop = false → s.power.pfwAt = none →
        (u = utPort → n < 16 → (getPort s n).state = .fenced → ∃ t, exec (.returnUnit m) s = .next t ∧
          (getPort t n).state = .training ∧ t.pew.out = s.pew.out ++ [ans 0 []] ∧ t.eng = s.eng) ∧
        (u ≠ utPort → (u, n) ∈ s.pew.fence → s.power.pg = false → ∃ t, exec (.returnUnit m) s = .next t ∧ (u, n) ∈ t.pew.returns ∧
          t.pew.fence = s.pew.fence ∧ t.pew.out = s.pew.out ++ [ans 0 []] ∧ t.eng = s.eng) ∧
        (u ≠ utPort → (u, n) ∈ s.pew.fence → s.power.pg = true → ∃ t, exec (.returnUnit m) s = .next t ∧
          ((partOfUnit s u n).getD 16, u, n) ∈ t.eng.returning ∧ t.pew = { s.pew with out := s.pew.out ++ [ans 0 []] } ∧
          t.host = s.host))))

/-- R441 to R444: queue-depth sampling. -/
def Obligations.SamplingSets : Prop :=
  (∀ (s u : State) (ch fn : Nat) (m : List Byte) (r : List (List Byte)), ch < 32 → SGet [] s.host.mbRx ch = m :: r →
    bindValid s ch = true → bindRcv s ch = 0x80 → bindSnd s ch = fn → fn ≤ 0x10 → s.pew.standby = true → s.sec.state = 4 →
    u = { s with host := { s.host with mbRx := SSet [] s.host.mbRx ch r } } →
    (fld m 0 1 = 1 → ∀ ok : Prop, (ok ↔ zeroAt m 1 7 = true ∧ zeroAt m 0x14 44 = true ∧ fld m 8 8 % 4096 = 0 ∧ 6 ≤ fld m 0x10 1 ∧
        fld m 0x10 1 ≤ 16 ∧ fld m 0x11 1 ≤ 63 ∧ dbRange s fn (fld m 0x12 2) = true ∧
        dbFree s fn (fld m 0x12 2) (some .sample) = true) → mayWrite s fn = true →
      (ok → ∀ x : Ring, x = { kind := .sample, fn := fn, id := 0, base := fld m 8 8, lg := fld m 0x10 1
                              db := fld m 0x12 2, vec := fld m 0x11 1 } →
        exec (.sring ch) s = .next (sampStatus (putRing u x) fn 0 1 0).1) ∧
      (¬ ok → (findRing s .sample fn 0 = none → exec (.sring ch) s = .next (sampDiscard u)) ∧
        (∀ x, findRing s .sample fn 0 = some x → x.room = true → exec (.sring ch) s = .next (sampStatus u fn 0 1 1).1) ∧
        (∀ x, findRing s .sample fn 0 = some x → x.room = false → exec (.sring ch) s = .next (sampDiscard u)))) ∧
    (findRing s .sample fn 0 = none → (fld m 0 1 = 2 → exec (.sset ch) s = .next (sampDiscard u)) ∧
      (fld m 0 1 ≠ 1 → fld m 0 1 ≠ 2 → exec (.sstop ch) s = .next (sampDiscard u))) ∧
    (∀ x, findRing s .sample fn 0 = some x → x.room = true → mayWrite s fn = true →
      (fld m 0 1 = 2 → ∀ (id : Nat) (t : SampSet), id = fld m 1 1 →
        t = { sectors := fld m 8 8, cores := fld m 0x10 8, kinds := fld m 0x18 8, period := fld m 0x20 4
              count := fld m 0x24 4, last := s.tick } →
        ((zeroAt m 2 6 = false ∨ zeroAt m 0x28 24 = false ∨ 4 ≤ id ∨ t.period < 100 ∨ 100000000 < t.period) →
          exec (.sset ch) s = .next (sampStatus u fn (id % 4) 2 1).1) ∧
        (zeroAt m 2 6 = true → zeroAt m 0x28 24 = true → id < 4 → 100 ≤ t.period → t.period ≤ 100000000 →
          ((2 ^ 23 ≤ t.kinds ∨ (fn ≠ 0 ∧ ∃ n, n < 64 ∧ bit t.sectors n = true ∧ bit (getPart s (fn - 1)).sectors n = false)) →
            exec (.sset ch) s = .next (sampStatus u fn id 2 2).1) ∧
          (t.kinds < 2 ^ 23 → (fn = 0 ∨ ∀ n, n < 64 → bit t.sectors n = true → bit (getPart s (fn - 1)).sectors n = true) →
            ∀ rate, rate = sampRate (t :: s.pew.sets.filterMap (fun e => if e.1 = 4 * fn + id then none else e.2)) →
            (64000000 * rate.2 < rate.1 → exec (.sset ch) s = .next (sampStatus u fn id 2 3).1) ∧
            (rate.1 ≤ 64000000 * rate.2 → (∀ n, n < 64 → bit t.sectors n = true → fenced s utCobalt n = false) →
              exec (.sset ch) s = .next (sampStatus (modPew u (fun w => { w with
                sets := SSet none w.sets (4 * fn + id) (some t) })) fn id 2 0).1)))) ∧
      (fld m 0 1 = 3 → zeroAt m 2 62 = true → ∀ id, id = fld m 1 1 → id < 4 →
        (SGet none s.pew.sets (4 * fn + id) = none → exec (.sstop ch) s = .next (sampStatus u fn id 3 0).1) ∧
        ((SGet none s.pew.sets (4 * fn + id)).isSome → ∃ v, exec (.sstop ch) s = .next v ∧
          SGet none v.pew.sets (4 * fn + id) = none)))) ∧
  (∀ (s : State) (fn set : Nat) (xs : List Nat) (t : SampSet) (r : Ring), fn < 17 → set < 4 →
    SGet none s.pew.sets (4 * fn + set) = some t → findRing s .sample fn 0 = some r →
    (s.tick % t.period ≠ 0 ∨ s.tick ≤ t.last → exec (.sampleTick fn set xs) s = .next s) ∧
    (s.tick % t.period = 0 → t.last < s.tick → s.power.pg = true → s.pew.standby = true → t.count = 0 → mayWrite s fn = false →
      ∃ v, exec (.sampleTick fn set xs) s = .next v ∧
        SGet none v.pew.sets (4 * fn + set) = some { t with taken := t.taken + 1, last := s.tick, lost := true } ∧
        v.host = s.host ∧ v.eng = s.eng ∧ v.parts = s.parts ∧ v.mem = s.mem)) ∧
  (∀ (s : State) (n setid fuel : Nat) (ps : List (Nat × Nat)) (lost : Bool), ps.length < fuel →
    (sampEntries s n setid fuel ps lost).length = (ps.length + 7) / 8 ∧
    ∀ b ∈ sampEntries s n setid fuel ps lost, b.length = 32) ∧
  ∀ (s : State) (core kind x : Nat), pointOf s core kind x ≤ 65535

/-- The queue of commands is the model's (log entry 1). -/
def Obligations.StepRunsTheFrontCommand : Prop :=
  ∀ (c : Instr) (rest : List Instr) (s : State), step { s with pending := c :: rest } = exec c { s with pending := rest }

/-- R30, R148, R149; the model's choices of log entries 2 and 14. -/
def Obligations.EmptyQueueCountsATick : Prop :=
  (∀ (s : State), s.pending = [] → ∃ t, step s = .next t ∧
    t = { s with
      tick := if s.power.pg then (s.tick + 1) % 2 ^ 64 else s.tick
      sbTick := if s.pew.standby then s.sbTick + 1 else s.sbTick
      eng := t.eng } ∧
    t.eng.places = s.eng.places.map (stallTick s) ∧ t.eng.laneWait = laneTick s ∧
    ((∀ n, n < 64 → cobRuns s n = false) →
      t.eng = { s.eng with places := s.eng.places.map (stallTick s), laneWait := laneTick s })) ∧
  (∀ (s : State) (n : Nat) (c : Cobalt), c = getCob s n →
    (∀ d, rvInterrupt c = some d → getCob (cobStep s n) n = rvCount d false) ∧
    (rvInterrupt c = none → ∀ trapped : Nat → Nat → Prop, (∀ cause tval, trapped cause tval ↔
        cobStep s n = modCob s n (fun c => rvCount (rvTrap c false cause tval) false)) →
      (∀ a, rvFetch c n = .error a → trapped 1 a) ∧
      (∀ raw len, rvFetch c n = .ok (raw, len, none) → trapped 2 (raw % 2 ^ (8 * len))) ∧
      ∀ raw len w, rvFetch c n = .ok (raw, len, some w) →
        (rvOp w = 0x13 → rvF3 w = 0 → getCob (cobStep s n) n =
          rvCount { wx c (rvRd w) (wrapInt 64 ((rx c (rvRs1 w) : Int) + immI w)) with pc := c.pc + BitVec.ofNat 64 len } true) ∧
        (w = 0x73 → trapped (if c.user then 8 else 11) 0) ∧
        (∀ a k, rvOp w = 0x03 → rvF3 w ≠ 7 → a = wrapInt 64 ((rx c (rvRs1 w) : Int) + immI w) → k = 2 ^ (rvF3 w % 4) →
          (pmpOk c (dataUser c) 0 a k = false ∨ cobRegion n a k = .none ∨
            (∃ core o, cobRegion n a k = .window core o ∧ windowOpenTo s core = false) → trapped 5 a) ∧
          (rvF3 w = 3 → a = 0x20010000 → pmpOk c (dataUser c) 0 a k = true → s.tick < 2 ^ 64 → getCob (cobStep s n) n =
            rvCount { wx c (rvRd w) s.tick with pc := c.pc + BitVec.ofNat 64 len } true)) ∧
        (∀ a k, rvOp w = 0x23 → rvF3 w < 4 → a = wrapInt 64 ((rx c (rvRs1 w) : Int) + immS w) → k = 2 ^ rvF3 w →
          (pmpOk c (dataUser c) 1 a k = false ∨ cobRegion n a k = .none ∨
            (∃ core o, cobRegion n a k = .window core o ∧ windowOpenTo s core = false) → trapped 7 a)))) ∧
  ∀ (c d : Cobalt) (cause tval : Nat), d = rvTrap c false cause tval →
    csrRaw d csrEpc = c.pc.toNat ∧ csrRaw d csrCause = cause % 2 ^ 64 ∧ csrRaw d csrTval = tval % 2 ^ 64 ∧ d.user = false ∧
    d.pc = BitVec.ofNat 64 (csrRaw c csrTvec - csrRaw c csrTvec % 4) ∧ bit (csrRaw d csrStatus) 3 = false ∧
    bit (csrRaw d csrStatus) 7 = bit (csrRaw c csrStatus) 3 ∧ bits (csrRaw d csrStatus) 11 2 = (if c.user then 0 else 3) ∧
    d.x = c.x ∧ d.f = c.f ∧ d.imem = c.imem ∧ d.dmem = c.dmem

/-- R13, R294, R315, R349, R393, R416. -/
def Obligations.ResetState : Prop :=
  State.reset.tick = 0 ∧ State.reset.pending = [] ∧ State.reset.sec.state = 0 ∧ State.reset.host.lock = false ∧
    State.reset.host.poll = 100 ∧ State.reset.power.hostCap = 2000 ∧ statusReg State.reset 0 = 0 ∧
    (∀ fn, getFn State.reset fn = {} ∧ (getFn State.reset fn).aqBase = 0 ∧ (getFn State.reset fn).aqCfg = 0 ∧
      (getFn State.reset fn).dbBase = 0 ∧ (getFn State.reset fn).dbCfg = 0 ∧ (getFn State.reset fn).imod = 0 ∧
      (getFn State.reset fn).errstat = 0 ∧ (getFn State.reset fn).aqen = false ∧ (getFn State.reset fn).mbien = false) ∧
    (∀ ch, bindValid State.reset ch = false) ∧ (∀ fn, fnOn State.reset fn = decide (fn = 0)) ∧
    (∀ p, (getPart State.reset p).phase = .absent) ∧ (∀ r, getRte State.reset r = none) ∧
    (∀ n, (getPort State.reset n).state = .dark) ∧ (∀ a, Memory.byte State.reset.mem a = 0)

/-- Inv holds after reset. -/
def Obligations.ResetMeetsTheInvariant : Prop := Inv State.reset

/-- Every step keeps Inv. -/
def Obligations.StepsKeepTheInvariant : Prop := ∀ (s t : State), Inv s → step s = .next t → Inv t

/-- Frames of all commands. -/
def Obligations.CommandsKeepTheirFrames : Prop := ∀ (c : Instr) (s : State), Keeps c.frame s (exec c s)

/-- R27, R36, R180, R291. -/
def Obligations.CommandsComplete : Prop :=
  (∀ (c : Instr) (s : State), c.wf = true → ∃ t, exec c s = .next t) ∧
  ∀ (c : Instr) (s : State), c.wf = false → exec c s = .fault .noSuchUnit

/-- R15. -/
def Obligations.SetupLockStays : Prop :=
  ∀ (s t : State), s.pending.head? ≠ some .perstAssert → step s = .next t → s.host.lock = true →
    t.host.lock = true ∨ t.power.pg = false

/-- R322: the locked binding table. -/
def Obligations.MailboxBindingsStay : Prop :=
  ∀ (s t : State), s.pending.head? ≠ some .perstAssert → s.sec.state = 4 → step s = .next t →
    t.host.mbbind = s.host.mbbind ∨ t.power.pg = false
end

