-- ==== Sys2Proof/Laws/Maps.lean ====
section
/-! SUPPORT. Laws of the sparse maps: a read after a write, writes that leave other keys alone, and the canonical form that
every operation keeps. -/

namespace Sys2Proof.Machine

variable {V : Type}

@[simp] theorem SGet_nil (d : V) (k : Nat) : SGet d [] k = d := rfl

theorem SGet_SErase_self (d : V) (m : SMap V) (k : Nat) : SGet d (SErase m k) k = d := by
  induction m with
  | nil => rfl
  | cons e r ih =>
    obtain ⟨j, v⟩ := e
    by_cases h : j = k
    · simpa [SErase, h] using ih
    · simpa [SErase, SGet, h] using ih

theorem SGet_SErase_ne (d : V) (m : SMap V) {k k' : Nat} (hk : k' ≠ k) : SGet d (SErase m k) k' = SGet d m k' := by
  induction m with
  | nil => rfl
  | cons e r ih =>
    obtain ⟨j, v⟩ := e
    by_cases h : j = k
    · subst h
      simp [SErase, SGet, ih, Ne.symm hk]
    · by_cases h' : j = k'
      · simp [SErase, SGet, h', hk]
      · simp [SErase, SGet, h, h', ih]

theorem SGet_SPut_self (d : V) (m : SMap V) (k : Nat) (v : V) : SGet d (SPut m k v) k = v := by
  induction m with
  | nil => simp [SPut, SGet]
  | cons e r ih =>
    obtain ⟨j, w⟩ := e
    unfold SPut
    split
    · simp [SGet]
    · split
      · simp [SGet]
      · rename_i h1 h2
        simp [SGet, h2, ih]

theorem SGet_SPut_ne (d : V) (m : SMap V) (v : V) {k k' : Nat} (hk : k' ≠ k) : SGet d (SPut m k v) k' = SGet d m k' := by
  induction m with
  | nil => simp [SPut, SGet, Ne.symm hk]
  | cons e r ih =>
    obtain ⟨j, w⟩ := e
    unfold SPut
    split
    · simp [SGet, Ne.symm hk]
    · split
      · rename_i h1 h2
        subst h2
        simp [SGet, Ne.symm hk]
      · simp [SGet, ih]

variable [DecidableEq V]

/-- A read after a write to the same key gives the value written. -/
@[simp] theorem SGet_SSet_self (d : V) (m : SMap V) (k : Nat) (v : V) : SGet d (SSet d m k v) k = v := by
  unfold SSet
  split
  · rename_i h; rw [h]; exact SGet_SErase_self d m k
  · exact SGet_SPut_self d m k v

/-- A write leaves every other key alone. -/
theorem SGet_SSet_ne (d : V) (m : SMap V) (v : V) {k k' : Nat} (hk : k' ≠ k) : SGet d (SSet d m k v) k' = SGet d m k' := by
  unfold SSet
  split
  · exact SGet_SErase_ne d m hk
  · exact SGet_SPut_ne d m v hk

/-- A run of writes leaves every key outside the run alone. -/
theorem SGet_SSetRun_ne (d : V) (vs : List V) : ∀ (m : SMap V) (k : Nat) {k' : Nat}, k' < k ∨ k + vs.length ≤ k' →
    SGet d (SSetRun d m k vs) k' = SGet d m k' := by
  induction vs with
  | nil => intro m k k' _; rfl
  | cons v vs ih =>
    intro m k k' h
    simp only [List.length_cons] at h
    rw [SSetRun, ih _ _ (by omega), SGet_SSet_ne d m v (by omega)]

/-- A read after a run of writes gives the value written at that place. -/
theorem SGet_SSetRun_at (d : V) (vs : List V) : ∀ (m : SMap V) (k i : Nat) (h : i < vs.length),
    SGet d (SSetRun d m k vs) (k + i) = vs[i] := by
  induction vs with
  | nil => intro m k i h; simp at h
  | cons v vs ih =>
    intro m k i h
    rw [SSetRun]
    cases i with
    | zero =>
      rw [SGet_SSetRun_ne d vs _ _ (by omega)]
      simp
    | succ i =>
      have := ih (SSet d m k v) (k + 1) i (by simpa using h)
      rw [show k + (i + 1) = k + 1 + i by omega, this]
      simp

theorem SGetRun_SSetRun_self (d : V) (vs : List V) : ∀ (m : SMap V) (k : Nat),
    SGetRun d (SSetRun d m k vs) k vs.length = vs := by
  induction vs with
  | nil => intro m k; rfl
  | cons v vs ih =>
    intro m k
    simp only [List.length_cons, SGetRun, SSetRun, ih]
    rw [SGet_SSetRun_ne d vs _ _ (by omega), SGet_SSet_self]

/-- Writes at the places `b`, `b + 1`, … of a fold leave every other key alone. -/
theorem SGet_foldRange_ne (d : V) (b : Nat) (g : Nat → V) (m : SMap V) {k : Nat} : ∀ n, k < b ∨ b + n ≤ k →
    SGet d ((List.range n).foldl (fun m i => SSet d m (b + i) (g i)) m) k = SGet d m k
  | 0, _ => rfl
  | n + 1, h => by
    rw [List.range_succ, List.foldl_append, List.foldl_cons, List.foldl_nil, SGet_SSet_ne _ _ _ (by omega),
      SGet_foldRange_ne d b g m n (by omega)]

/-- A read after such a fold gives the value written at that place. -/
theorem SGet_foldRange_at (d : V) (b : Nat) (g : Nat → V) (m : SMap V) {i : Nat} : ∀ n, i < n →
    SGet d ((List.range n).foldl (fun m i => SSet d m (b + i) (g i)) m) (b + i) = g i
  | 0, h => by omega
  | n + 1, h => by
    rw [List.range_succ, List.foldl_append, List.foldl_cons, List.foldl_nil]
    by_cases hi : i = n
    · rw [hi, SGet_SSet_self]
    · rw [SGet_SSet_ne _ _ _ (by omega), SGet_foldRange_at d b g m n (by omega)]

/-! ### The canonical form -/

theorem SWfFrom_mono (d : V) {lo lo' : Nat} (h : lo' ≤ lo) (m : SMap V) (hm : SWfFrom d lo m = true) : SWfFrom d lo' m = true := by
  cases m with
  | nil => rfl
  | cons e r =>
    simp only [SWfFrom, Bool.and_eq_true, decide_eq_true_eq] at hm ⊢
    exact ⟨⟨by omega, hm.1.2⟩, hm.2⟩

theorem SWfFrom_filter (d : V) (p : Nat × V → Bool) (m : SMap V) : ∀ lo, SWfFrom d lo m = true → SWfFrom d lo (m.filter p) = true := by
  induction m with
  | nil => intro lo _; rfl
  | cons e r ih =>
    intro lo h
    simp only [SWfFrom, Bool.and_eq_true, decide_eq_true_eq] at h
    rw [List.filter_cons]
    split
    · simp only [SWfFrom, Bool.and_eq_true, decide_eq_true_eq]
      exact ⟨h.1, ih _ h.2⟩
    · exact SWfFrom_mono d (by omega) _ (ih _ h.2)

omit [DecidableEq V] in
theorem SErase_eq_filter (m : SMap V) (k : Nat) : SErase m k = m.filter (fun e => decide (e.1 ≠ k)) := by
  induction m with
  | nil => rfl
  | cons e r ih =>
    obtain ⟨j, v⟩ := e
    rw [SErase, List.filter_cons]
    by_cases h : j = k <;> simp [h, ih]

theorem SWfFrom_SPut (d : V) (k : Nat) (v : V) (hv : v ≠ d) (m : SMap V) : ∀ lo, lo ≤ k → SWfFrom d lo m = true →
    SWfFrom d lo (SPut m k v) = true := by
  induction m with
  | nil => intro lo h _; simp [SPut, SWfFrom, h, hv]
  | cons e r ih =>
    obtain ⟨j, w⟩ := e
    intro lo hlo h
    simp only [SWfFrom, Bool.and_eq_true, decide_eq_true_eq] at h
    unfold SPut
    split
    · simp only [SWfFrom, Bool.and_eq_true, decide_eq_true_eq]
      exact ⟨⟨hlo, hv⟩, ⟨by omega, h.1.2⟩, h.2⟩
    · split
      · rename_i h2; subst h2
        simp only [SWfFrom, Bool.and_eq_true, decide_eq_true_eq]
        exact ⟨⟨hlo, hv⟩, h.2⟩
      · simp only [SWfFrom, Bool.and_eq_true, decide_eq_true_eq]
        exact ⟨h.1, ih _ (by omega) h.2⟩

/-- A write keeps the canonical form. -/
theorem SWf_SSet (d : V) (m : SMap V) (k : Nat) (v : V) (h : SWf d m = true) : SWf d (SSet d m k v) = true := by
  unfold SSet SWf at *
  split
  · rw [SErase_eq_filter]; exact SWfFrom_filter d _ m 0 h
  · rename_i hv; exact SWfFrom_SPut d k v hv m 0 (Nat.zero_le _) h

theorem SWf_SSetRun (d : V) (vs : List V) : ∀ (m : SMap V) (k : Nat), SWf d m = true → SWf d (SSetRun d m k vs) = true := by
  induction vs with
  | nil => intro m k h; exact h
  | cons v vs ih => intro m k h; exact ih _ _ (SWf_SSet d m k v h)

theorem SWf_filter (d : V) (p : Nat × V → Bool) (m : SMap V) (h : SWf d m = true) : SWf d (m.filter p) = true :=
  SWfFrom_filter d p m 0 h

/-- A read of an unlisted key below every listed one. -/
theorem SGet_below (d : V) (m : SMap V) : ∀ lo k, SWfFrom d lo m = true → k < lo → SGet d m k = d := by
  induction m with
  | nil => intro _ _ _ _; rfl
  | cons e r ih =>
    obtain ⟨j, w⟩ := e
    intro lo k h hk
    simp only [SWfFrom, Bool.and_eq_true, decide_eq_true_eq] at h
    rw [SGet, if_neg (by omega)]
    exact ih _ _ h.2 (by omega)

omit [DecidableEq V] in
/-- Dropping the entries that fail `p` leaves what the others read as. -/
theorem SGet_filter (d : V) (p : Nat → Bool) (m : SMap V) (k : Nat) :
    SGet d (m.filter (fun e => p e.1)) k = if p k then SGet d m k else d := by
  induction m with
  | nil => simp
  | cons e r ih =>
    obtain ⟨j, w⟩ := e
    rw [List.filter_cons]
    by_cases hj : j = k
    · subst hj
      by_cases hp : p j = true
      · simp [hp, SGet]
      · simp only [hp] at ih ⊢
        simpa using ih
    · by_cases hp : p j = true
      · simp [hp, SGet, hj, ih]
      · simp [hp, SGet, hj, ih]

end Sys2Proof.Machine
end

