-- ==== Sys2Proof/Laws/State.lean ====
section
/-! SUPPORT. What each update of the state leaves in each field, and reads of a unit after a write of one. -/

namespace Sys2Proof.Machine

@[simp] theorem modHost_tick (s : State) (f) : (modHost s f).tick = s.tick := rfl
@[simp] theorem modHost_sbTick (s : State) (f) : (modHost s f).sbTick = s.sbTick := rfl
@[simp] theorem modHost_freeCtr (s : State) (f) : (modHost s f).freeCtr = s.freeCtr := rfl
@[simp] theorem modHost_host (s : State) (f) : (modHost s f).host = f s.host := rfl
@[simp] theorem modHost_parts (s : State) (f) : (modHost s f).parts = s.parts := rfl
@[simp] theorem modHost_rtes (s : State) (f) : (modHost s f).rtes = s.rtes := rfl
@[simp] theorem modHost_fab (s : State) (f) : (modHost s f).fab = s.fab := rfl
@[simp] theorem modHost_power (s : State) (f) : (modHost s f).power = s.power := rfl
@[simp] theorem modHost_sec (s : State) (f) : (modHost s f).sec = s.sec := rfl
@[simp] theorem modHost_pew (s : State) (f) : (modHost s f).pew = s.pew := rfl
@[simp] theorem modHost_eng (s : State) (f) : (modHost s f).eng = s.eng := rfl
@[simp] theorem modHost_mem (s : State) (f) : (modHost s f).mem = s.mem := rfl
@[simp] theorem modHost_pending (s : State) (f) : (modHost s f).pending = s.pending := rfl

@[simp] theorem modPew_tick (s : State) (f) : (modPew s f).tick = s.tick := rfl
@[simp] theorem modPew_sbTick (s : State) (f) : (modPew s f).sbTick = s.sbTick := rfl
@[simp] theorem modPew_freeCtr (s : State) (f) : (modPew s f).freeCtr = s.freeCtr := rfl
@[simp] theorem modPew_host (s : State) (f) : (modPew s f).host = s.host := rfl
@[simp] theorem modPew_parts (s : State) (f) : (modPew s f).parts = s.parts := rfl
@[simp] theorem modPew_rtes (s : State) (f) : (modPew s f).rtes = s.rtes := rfl
@[simp] theorem modPew_fab (s : State) (f) : (modPew s f).fab = s.fab := rfl
@[simp] theorem modPew_power (s : State) (f) : (modPew s f).power = s.power := rfl
@[simp] theorem modPew_sec (s : State) (f) : (modPew s f).sec = s.sec := rfl
@[simp] theorem modPew_pew (s : State) (f) : (modPew s f).pew = f s.pew := rfl
@[simp] theorem modPew_eng (s : State) (f) : (modPew s f).eng = s.eng := rfl
@[simp] theorem modPew_mem (s : State) (f) : (modPew s f).mem = s.mem := rfl
@[simp] theorem modPew_pending (s : State) (f) : (modPew s f).pending = s.pending := rfl

@[simp] theorem modSec_tick (s : State) (f) : (modSec s f).tick = s.tick := rfl
@[simp] theorem modSec_sbTick (s : State) (f) : (modSec s f).sbTick = s.sbTick := rfl
@[simp] theorem modSec_freeCtr (s : State) (f) : (modSec s f).freeCtr = s.freeCtr := rfl
@[simp] theorem modSec_host (s : State) (f) : (modSec s f).host = s.host := rfl
@[simp] theorem modSec_parts (s : State) (f) : (modSec s f).parts = s.parts := rfl
@[simp] theorem modSec_rtes (s : State) (f) : (modSec s f).rtes = s.rtes := rfl
@[simp] theorem modSec_fab (s : State) (f) : (modSec s f).fab = s.fab := rfl
@[simp] theorem modSec_power (s : State) (f) : (modSec s f).power = s.power := rfl
@[simp] theorem modSec_sec (s : State) (f) : (modSec s f).sec = f s.sec := rfl
@[simp] theorem modSec_pew (s : State) (f) : (modSec s f).pew = s.pew := rfl
@[simp] theorem modSec_eng (s : State) (f) : (modSec s f).eng = s.eng := rfl
@[simp] theorem modSec_mem (s : State) (f) : (modSec s f).mem = s.mem := rfl
@[simp] theorem modSec_pending (s : State) (f) : (modSec s f).pending = s.pending := rfl

@[simp] theorem modPow_tick (s : State) (f) : (modPow s f).tick = s.tick := rfl
@[simp] theorem modPow_sbTick (s : State) (f) : (modPow s f).sbTick = s.sbTick := rfl
@[simp] theorem modPow_freeCtr (s : State) (f) : (modPow s f).freeCtr = s.freeCtr := rfl
@[simp] theorem modPow_host (s : State) (f) : (modPow s f).host = s.host := rfl
@[simp] theorem modPow_parts (s : State) (f) : (modPow s f).parts = s.parts := rfl
@[simp] theorem modPow_rtes (s : State) (f) : (modPow s f).rtes = s.rtes := rfl
@[simp] theorem modPow_fab (s : State) (f) : (modPow s f).fab = s.fab := rfl
@[simp] theorem modPow_power (s : State) (f) : (modPow s f).power = f s.power := rfl
@[simp] theorem modPow_sec (s : State) (f) : (modPow s f).sec = s.sec := rfl
@[simp] theorem modPow_pew (s : State) (f) : (modPow s f).pew = s.pew := rfl
@[simp] theorem modPow_eng (s : State) (f) : (modPow s f).eng = s.eng := rfl
@[simp] theorem modPow_mem (s : State) (f) : (modPow s f).mem = s.mem := rfl
@[simp] theorem modPow_pending (s : State) (f) : (modPow s f).pending = s.pending := rfl

@[simp] theorem modEng_tick (s : State) (f) : (modEng s f).tick = s.tick := rfl
@[simp] theorem modEng_sbTick (s : State) (f) : (modEng s f).sbTick = s.sbTick := rfl
@[simp] theorem modEng_freeCtr (s : State) (f) : (modEng s f).freeCtr = s.freeCtr := rfl
@[simp] theorem modEng_host (s : State) (f) : (modEng s f).host = s.host := rfl
@[simp] theorem modEng_parts (s : State) (f) : (modEng s f).parts = s.parts := rfl
@[simp] theorem modEng_rtes (s : State) (f) : (modEng s f).rtes = s.rtes := rfl
@[simp] theorem modEng_fab (s : State) (f) : (modEng s f).fab = s.fab := rfl
@[simp] theorem modEng_power (s : State) (f) : (modEng s f).power = s.power := rfl
@[simp] theorem modEng_sec (s : State) (f) : (modEng s f).sec = s.sec := rfl
@[simp] theorem modEng_pew (s : State) (f) : (modEng s f).pew = s.pew := rfl
@[simp] theorem modEng_eng (s : State) (f) : (modEng s f).eng = f s.eng := rfl
@[simp] theorem modEng_mem (s : State) (f) : (modEng s f).mem = s.mem := rfl
@[simp] theorem modEng_pending (s : State) (f) : (modEng s f).pending = s.pending := rfl

@[simp] theorem modFab_tick (s : State) (f) : (modFab s f).tick = s.tick := rfl
@[simp] theorem modFab_sbTick (s : State) (f) : (modFab s f).sbTick = s.sbTick := rfl
@[simp] theorem modFab_freeCtr (s : State) (f) : (modFab s f).freeCtr = s.freeCtr := rfl
@[simp] theorem modFab_host (s : State) (f) : (modFab s f).host = s.host := rfl
@[simp] theorem modFab_parts (s : State) (f) : (modFab s f).parts = s.parts := rfl
@[simp] theorem modFab_rtes (s : State) (f) : (modFab s f).rtes = s.rtes := rfl
@[simp] theorem modFab_fab (s : State) (f) : (modFab s f).fab = f s.fab := rfl
@[simp] theorem modFab_power (s : State) (f) : (modFab s f).power = s.power := rfl
@[simp] theorem modFab_sec (s : State) (f) : (modFab s f).sec = s.sec := rfl
@[simp] theorem modFab_pew (s : State) (f) : (modFab s f).pew = s.pew := rfl
@[simp] theorem modFab_eng (s : State) (f) : (modFab s f).eng = s.eng := rfl
@[simp] theorem modFab_mem (s : State) (f) : (modFab s f).mem = s.mem := rfl
@[simp] theorem modFab_pending (s : State) (f) : (modFab s f).pending = s.pending := rfl

@[simp] theorem modParts_tick (s : State) (f) : (modParts s f).tick = s.tick := rfl
@[simp] theorem modParts_sbTick (s : State) (f) : (modParts s f).sbTick = s.sbTick := rfl
@[simp] theorem modParts_freeCtr (s : State) (f) : (modParts s f).freeCtr = s.freeCtr := rfl
@[simp] theorem modParts_host (s : State) (f) : (modParts s f).host = s.host := rfl
@[simp] theorem modParts_parts (s : State) (f) : (modParts s f).parts = f s.parts := rfl
@[simp] theorem modParts_rtes (s : State) (f) : (modParts s f).rtes = s.rtes := rfl
@[simp] theorem modParts_fab (s : State) (f) : (modParts s f).fab = s.fab := rfl
@[simp] theorem modParts_power (s : State) (f) : (modParts s f).power = s.power := rfl
@[simp] theorem modParts_sec (s : State) (f) : (modParts s f).sec = s.sec := rfl
@[simp] theorem modParts_pew (s : State) (f) : (modParts s f).pew = s.pew := rfl
@[simp] theorem modParts_eng (s : State) (f) : (modParts s f).eng = s.eng := rfl
@[simp] theorem modParts_mem (s : State) (f) : (modParts s f).mem = s.mem := rfl
@[simp] theorem modParts_pending (s : State) (f) : (modParts s f).pending = s.pending := rfl

@[simp] theorem modRtes_tick (s : State) (f) : (modRtes s f).tick = s.tick := rfl
@[simp] theorem modRtes_sbTick (s : State) (f) : (modRtes s f).sbTick = s.sbTick := rfl
@[simp] theorem modRtes_freeCtr (s : State) (f) : (modRtes s f).freeCtr = s.freeCtr := rfl
@[simp] theorem modRtes_host (s : State) (f) : (modRtes s f).host = s.host := rfl
@[simp] theorem modRtes_parts (s : State) (f) : (modRtes s f).parts = s.parts := rfl
@[simp] theorem modRtes_rtes (s : State) (f) : (modRtes s f).rtes = f s.rtes := rfl
@[simp] theorem modRtes_fab (s : State) (f) : (modRtes s f).fab = s.fab := rfl
@[simp] theorem modRtes_power (s : State) (f) : (modRtes s f).power = s.power := rfl
@[simp] theorem modRtes_sec (s : State) (f) : (modRtes s f).sec = s.sec := rfl
@[simp] theorem modRtes_pew (s : State) (f) : (modRtes s f).pew = s.pew := rfl
@[simp] theorem modRtes_eng (s : State) (f) : (modRtes s f).eng = s.eng := rfl
@[simp] theorem modRtes_mem (s : State) (f) : (modRtes s f).mem = s.mem := rfl
@[simp] theorem modRtes_pending (s : State) (f) : (modRtes s f).pending = s.pending := rfl

@[simp] theorem modMem_tick (s : State) (f) : (modMem s f).tick = s.tick := rfl
@[simp] theorem modMem_sbTick (s : State) (f) : (modMem s f).sbTick = s.sbTick := rfl
@[simp] theorem modMem_freeCtr (s : State) (f) : (modMem s f).freeCtr = s.freeCtr := rfl
@[simp] theorem modMem_host (s : State) (f) : (modMem s f).host = s.host := rfl
@[simp] theorem modMem_parts (s : State) (f) : (modMem s f).parts = s.parts := rfl
@[simp] theorem modMem_rtes (s : State) (f) : (modMem s f).rtes = s.rtes := rfl
@[simp] theorem modMem_fab (s : State) (f) : (modMem s f).fab = s.fab := rfl
@[simp] theorem modMem_power (s : State) (f) : (modMem s f).power = s.power := rfl
@[simp] theorem modMem_sec (s : State) (f) : (modMem s f).sec = s.sec := rfl
@[simp] theorem modMem_pew (s : State) (f) : (modMem s f).pew = s.pew := rfl
@[simp] theorem modMem_eng (s : State) (f) : (modMem s f).eng = s.eng := rfl
@[simp] theorem modMem_mem (s : State) (f) : (modMem s f).mem = f s.mem := rfl
@[simp] theorem modMem_pending (s : State) (f) : (modMem s f).pending = s.pending := rfl

@[simp] theorem modPart_tick (s : State) (p f) : (modPart s p f).tick = s.tick := rfl
@[simp] theorem modPart_sbTick (s : State) (p f) : (modPart s p f).sbTick = s.sbTick := rfl
@[simp] theorem modPart_freeCtr (s : State) (p f) : (modPart s p f).freeCtr = s.freeCtr := rfl
@[simp] theorem modPart_host (s : State) (p f) : (modPart s p f).host = s.host := rfl
@[simp] theorem modPart_parts (s : State) (p f) : (modPart s p f).parts = SSet {} s.parts p (f (getPart s p)) := rfl
@[simp] theorem modPart_rtes (s : State) (p f) : (modPart s p f).rtes = s.rtes := rfl
@[simp] theorem modPart_fab (s : State) (p f) : (modPart s p f).fab = s.fab := rfl
@[simp] theorem modPart_power (s : State) (p f) : (modPart s p f).power = s.power := rfl
@[simp] theorem modPart_sec (s : State) (p f) : (modPart s p f).sec = s.sec := rfl
@[simp] theorem modPart_pew (s : State) (p f) : (modPart s p f).pew = s.pew := rfl
@[simp] theorem modPart_eng (s : State) (p f) : (modPart s p f).eng = s.eng := rfl
@[simp] theorem modPart_mem (s : State) (p f) : (modPart s p f).mem = s.mem := rfl
@[simp] theorem modPart_pending (s : State) (p f) : (modPart s p f).pending = s.pending := rfl

@[simp] theorem setRte_tick (s : State) (r v) : (setRte s r v).tick = s.tick := rfl
@[simp] theorem setRte_sbTick (s : State) (r v) : (setRte s r v).sbTick = s.sbTick := rfl
@[simp] theorem setRte_freeCtr (s : State) (r v) : (setRte s r v).freeCtr = s.freeCtr := rfl
@[simp] theorem setRte_host (s : State) (r v) : (setRte s r v).host = s.host := rfl
@[simp] theorem setRte_parts (s : State) (r v) : (setRte s r v).parts = s.parts := rfl
@[simp] theorem setRte_rtes (s : State) (r v) : (setRte s r v).rtes = SSet none s.rtes r v := rfl
@[simp] theorem setRte_fab (s : State) (r v) : (setRte s r v).fab = s.fab := rfl
@[simp] theorem setRte_power (s : State) (r v) : (setRte s r v).power = s.power := rfl
@[simp] theorem setRte_sec (s : State) (r v) : (setRte s r v).sec = s.sec := rfl
@[simp] theorem setRte_pew (s : State) (r v) : (setRte s r v).pew = s.pew := rfl
@[simp] theorem setRte_eng (s : State) (r v) : (setRte s r v).eng = s.eng := rfl
@[simp] theorem setRte_mem (s : State) (r v) : (setRte s r v).mem = s.mem := rfl
@[simp] theorem setRte_pending (s : State) (r v) : (setRte s r v).pending = s.pending := rfl

@[simp] theorem setCore_tick (s : State) (n c) : (setCore s n c).tick = s.tick := rfl
@[simp] theorem setCore_sbTick (s : State) (n c) : (setCore s n c).sbTick = s.sbTick := rfl
@[simp] theorem setCore_freeCtr (s : State) (n c) : (setCore s n c).freeCtr = s.freeCtr := rfl
@[simp] theorem setCore_host (s : State) (n c) : (setCore s n c).host = s.host := rfl
@[simp] theorem setCore_parts (s : State) (n c) : (setCore s n c).parts = s.parts := rfl
@[simp] theorem setCore_rtes (s : State) (n c) : (setCore s n c).rtes = s.rtes := rfl
@[simp] theorem setCore_fab (s : State) (n c) : (setCore s n c).fab = s.fab := rfl
@[simp] theorem setCore_power (s : State) (n c) : (setCore s n c).power = s.power := rfl
@[simp] theorem setCore_sec (s : State) (n c) : (setCore s n c).sec = s.sec := rfl
@[simp] theorem setCore_pew (s : State) (n c) : (setCore s n c).pew = s.pew := rfl
@[simp] theorem setCore_eng (s : State) (n c) : (setCore s n c).eng = { s.eng with cores := SSet {} s.eng.cores n c } := rfl
@[simp] theorem setCore_mem (s : State) (n c) : (setCore s n c).mem = s.mem := rfl
@[simp] theorem setCore_pending (s : State) (n c) : (setCore s n c).pending = s.pending := rfl

@[simp] theorem setCell_tick (s : State) (a b c) : (setCell s a b c).tick = s.tick := rfl
@[simp] theorem setCell_sbTick (s : State) (a b c) : (setCell s a b c).sbTick = s.sbTick := rfl
@[simp] theorem setCell_freeCtr (s : State) (a b c) : (setCell s a b c).freeCtr = s.freeCtr := rfl
@[simp] theorem setCell_host (s : State) (a b c) : (setCell s a b c).host = s.host := rfl
@[simp] theorem setCell_parts (s : State) (a b c) : (setCell s a b c).parts = s.parts := rfl
@[simp] theorem setCell_rtes (s : State) (a b c) : (setCell s a b c).rtes = s.rtes := rfl
@[simp] theorem setCell_fab (s : State) (a b c) : (setCell s a b c).fab = s.fab := rfl
@[simp] theorem setCell_power (s : State) (a b c) : (setCell s a b c).power = s.power := rfl
@[simp] theorem setCell_sec (s : State) (a b c) : (setCell s a b c).sec = s.sec := rfl
@[simp] theorem setCell_pew (s : State) (a b c) : (setCell s a b c).pew = s.pew := rfl
@[simp] theorem setCell_eng (s : State) (a b c) : (setCell s a b c).eng = { s.eng with cells := SSet {} s.eng.cells (1024 * a + b) c } := rfl
@[simp] theorem setCell_mem (s : State) (a b c) : (setCell s a b c).mem = s.mem := rfl
@[simp] theorem setCell_pending (s : State) (a b c) : (setCell s a b c).pending = s.pending := rfl

@[simp] theorem modCob_tick (s : State) (n f) : (modCob s n f).tick = s.tick := rfl
@[simp] theorem modCob_sbTick (s : State) (n f) : (modCob s n f).sbTick = s.sbTick := rfl
@[simp] theorem modCob_freeCtr (s : State) (n f) : (modCob s n f).freeCtr = s.freeCtr := rfl
@[simp] theorem modCob_host (s : State) (n f) : (modCob s n f).host = s.host := rfl
@[simp] theorem modCob_parts (s : State) (n f) : (modCob s n f).parts = s.parts := rfl
@[simp] theorem modCob_rtes (s : State) (n f) : (modCob s n f).rtes = s.rtes := rfl
@[simp] theorem modCob_fab (s : State) (n f) : (modCob s n f).fab = s.fab := rfl
@[simp] theorem modCob_power (s : State) (n f) : (modCob s n f).power = s.power := rfl
@[simp] theorem modCob_sec (s : State) (n f) : (modCob s n f).sec = s.sec := rfl
@[simp] theorem modCob_pew (s : State) (n f) : (modCob s n f).pew = s.pew := rfl
@[simp] theorem modCob_eng (s : State) (n f) : (modCob s n f).eng = { s.eng with cobalts := SSet {} s.eng.cobalts n (f (getCob s n)) } := rfl
@[simp] theorem modCob_mem (s : State) (n f) : (modCob s n f).mem = s.mem := rfl
@[simp] theorem modCob_pending (s : State) (n f) : (modCob s n f).pending = s.pending := rfl

@[simp] theorem modPort_tick (s : State) (n f) : (modPort s n f).tick = s.tick := rfl
@[simp] theorem modPort_sbTick (s : State) (n f) : (modPort s n f).sbTick = s.sbTick := rfl
@[simp] theorem modPort_freeCtr (s : State) (n f) : (modPort s n f).freeCtr = s.freeCtr := rfl
@[simp] theorem modPort_host (s : State) (n f) : (modPort s n f).host = s.host := rfl
@[simp] theorem modPort_parts (s : State) (n f) : (modPort s n f).parts = s.parts := rfl
@[simp] theorem modPort_rtes (s : State) (n f) : (modPort s n f).rtes = s.rtes := rfl
@[simp] theorem modPort_fab (s : State) (n f) : (modPort s n f).fab = { s.fab with ports := SSet {} s.fab.ports n (f (getPort s n)) } := rfl
@[simp] theorem modPort_power (s : State) (n f) : (modPort s n f).power = s.power := rfl
@[simp] theorem modPort_sec (s : State) (n f) : (modPort s n f).sec = s.sec := rfl
@[simp] theorem modPort_pew (s : State) (n f) : (modPort s n f).pew = s.pew := rfl
@[simp] theorem modPort_eng (s : State) (n f) : (modPort s n f).eng = s.eng := rfl
@[simp] theorem modPort_mem (s : State) (n f) : (modPort s n f).mem = s.mem := rfl
@[simp] theorem modPort_pending (s : State) (n f) : (modPort s n f).pending = s.pending := rfl

@[simp] theorem modFn_tick (s : State) (n f) : (modFn s n f).tick = s.tick := rfl
@[simp] theorem modFn_sbTick (s : State) (n f) : (modFn s n f).sbTick = s.sbTick := rfl
@[simp] theorem modFn_freeCtr (s : State) (n f) : (modFn s n f).freeCtr = s.freeCtr := rfl
@[simp] theorem modFn_host (s : State) (n f) : (modFn s n f).host = { s.host with fns := SSet {} s.host.fns n (f (getFn s n)) } := rfl
@[simp] theorem modFn_parts (s : State) (n f) : (modFn s n f).parts = s.parts := rfl
@[simp] theorem modFn_rtes (s : State) (n f) : (modFn s n f).rtes = s.rtes := rfl
@[simp] theorem modFn_fab (s : State) (n f) : (modFn s n f).fab = s.fab := rfl
@[simp] theorem modFn_power (s : State) (n f) : (modFn s n f).power = s.power := rfl
@[simp] theorem modFn_sec (s : State) (n f) : (modFn s n f).sec = s.sec := rfl
@[simp] theorem modFn_pew (s : State) (n f) : (modFn s n f).pew = s.pew := rfl
@[simp] theorem modFn_eng (s : State) (n f) : (modFn s n f).eng = s.eng := rfl
@[simp] theorem modFn_mem (s : State) (n f) : (modFn s n f).mem = s.mem := rfl
@[simp] theorem modFn_pending (s : State) (n f) : (modFn s n f).pending = s.pending := rfl

@[simp] theorem setCtr_tick (s : State) (n v) : (setCtr s n v).tick = s.tick := rfl
@[simp] theorem setCtr_sbTick (s : State) (n v) : (setCtr s n v).sbTick = s.sbTick := rfl
@[simp] theorem setCtr_freeCtr (s : State) (n v) : (setCtr s n v).freeCtr = s.freeCtr := rfl
@[simp] theorem setCtr_host (s : State) (n v) : (setCtr s n v).host = s.host := rfl
@[simp] theorem setCtr_parts (s : State) (n v) : (setCtr s n v).parts = s.parts := rfl
@[simp] theorem setCtr_rtes (s : State) (n v) : (setCtr s n v).rtes = s.rtes := rfl
@[simp] theorem setCtr_fab (s : State) (n v) : (setCtr s n v).fab = s.fab := rfl
@[simp] theorem setCtr_power (s : State) (n v) : (setCtr s n v).power = s.power := rfl
@[simp] theorem setCtr_sec (s : State) (n v) : (setCtr s n v).sec = s.sec := rfl
@[simp] theorem setCtr_pew (s : State) (n v) : (setCtr s n v).pew = s.pew := rfl
@[simp] theorem setCtr_eng (s : State) (n v) : (setCtr s n v).eng = { s.eng with ctrs := SSet none s.eng.ctrs n v } := rfl
@[simp] theorem setCtr_mem (s : State) (n v) : (setCtr s n v).mem = s.mem := rfl
@[simp] theorem setCtr_pending (s : State) (n v) : (setCtr s n v).pending = s.pending := rfl

@[simp] theorem spend_tick (s : State) (n) : (spend s n).tick = s.tick := rfl
@[simp] theorem spend_sbTick (s : State) (n) : (spend s n).sbTick = s.sbTick := rfl
@[simp] theorem spend_freeCtr (s : State) (n) : (spend s n).freeCtr = s.freeCtr + n := rfl
@[simp] theorem spend_host (s : State) (n) : (spend s n).host = s.host := rfl
@[simp] theorem spend_parts (s : State) (n) : (spend s n).parts = s.parts := rfl
@[simp] theorem spend_rtes (s : State) (n) : (spend s n).rtes = s.rtes := rfl
@[simp] theorem spend_fab (s : State) (n) : (spend s n).fab = s.fab := rfl
@[simp] theorem spend_power (s : State) (n) : (spend s n).power = s.power := rfl
@[simp] theorem spend_sec (s : State) (n) : (spend s n).sec = s.sec := rfl
@[simp] theorem spend_pew (s : State) (n) : (spend s n).pew = s.pew := rfl
@[simp] theorem spend_eng (s : State) (n) : (spend s n).eng = s.eng := rfl
@[simp] theorem spend_mem (s : State) (n) : (spend s n).mem = s.mem := rfl
@[simp] theorem spend_pending (s : State) (n) : (spend s n).pending = s.pending := rfl

@[simp] theorem setTick_tick (s : State) (n) : (setTick s n).tick = n % 2 ^ 64 := rfl
@[simp] theorem setTick_sbTick (s : State) (n) : (setTick s n).sbTick = s.sbTick := rfl
@[simp] theorem setTick_freeCtr (s : State) (n) : (setTick s n).freeCtr = s.freeCtr := rfl
@[simp] theorem setTick_host (s : State) (n) : (setTick s n).host = s.host := rfl
@[simp] theorem setTick_parts (s : State) (n) : (setTick s n).parts = s.parts := rfl
@[simp] theorem setTick_rtes (s : State) (n) : (setTick s n).rtes = s.rtes := rfl
@[simp] theorem setTick_fab (s : State) (n) : (setTick s n).fab = s.fab := rfl
@[simp] theorem setTick_power (s : State) (n) : (setTick s n).power = s.power := rfl
@[simp] theorem setTick_sec (s : State) (n) : (setTick s n).sec = s.sec := rfl
@[simp] theorem setTick_pew (s : State) (n) : (setTick s n).pew = s.pew := rfl
@[simp] theorem setTick_eng (s : State) (n) : (setTick s n).eng = s.eng := rfl
@[simp] theorem setTick_mem (s : State) (n) : (setTick s n).mem = s.mem := rfl
@[simp] theorem setTick_pending (s : State) (n) : (setTick s n).pending = s.pending := rfl

@[simp] theorem setStandby_tick (s : State) (n) : (setStandby s n).tick = s.tick := rfl
@[simp] theorem setStandby_sbTick (s : State) (n) : (setStandby s n).sbTick = n := rfl
@[simp] theorem setStandby_freeCtr (s : State) (n) : (setStandby s n).freeCtr = s.freeCtr := rfl
@[simp] theorem setStandby_host (s : State) (n) : (setStandby s n).host = s.host := rfl
@[simp] theorem setStandby_parts (s : State) (n) : (setStandby s n).parts = s.parts := rfl
@[simp] theorem setStandby_rtes (s : State) (n) : (setStandby s n).rtes = s.rtes := rfl
@[simp] theorem setStandby_fab (s : State) (n) : (setStandby s n).fab = s.fab := rfl
@[simp] theorem setStandby_power (s : State) (n) : (setStandby s n).power = s.power := rfl
@[simp] theorem setStandby_sec (s : State) (n) : (setStandby s n).sec = s.sec := rfl
@[simp] theorem setStandby_pew (s : State) (n) : (setStandby s n).pew = s.pew := rfl
@[simp] theorem setStandby_eng (s : State) (n) : (setStandby s n).eng = s.eng := rfl
@[simp] theorem setStandby_mem (s : State) (n) : (setStandby s n).mem = s.mem := rfl
@[simp] theorem setStandby_pending (s : State) (n) : (setStandby s n).pending = s.pending := rfl

/-! ### Reads of a unit after a write -/

@[simp] theorem getPart_modPart (s : State) (n f) : getPart (modPart s n f) n = f (getPart s n) := SGet_SSet_self _ _ _ _
theorem getPart_modPart_ne (s : State) (f) {n k : Nat} (h : k ≠ n) : getPart (modPart s n f) k = getPart s k := SGet_SSet_ne _ _ _ h

@[simp] theorem getCob_modCob (s : State) (n f) : getCob (modCob s n f) n = f (getCob s n) := SGet_SSet_self _ _ _ _
theorem getCob_modCob_ne (s : State) (f) {n k : Nat} (h : k ≠ n) : getCob (modCob s n f) k = getCob s k := SGet_SSet_ne _ _ _ h

@[simp] theorem getPort_modPort (s : State) (n f) : getPort (modPort s n f) n = f (getPort s n) := SGet_SSet_self _ _ _ _
theorem getPort_modPort_ne (s : State) (f) {n k : Nat} (h : k ≠ n) : getPort (modPort s n f) k = getPort s k := SGet_SSet_ne _ _ _ h

@[simp] theorem getFn_modFn (s : State) (n f) : getFn (modFn s n f) n = f (getFn s n) := SGet_SSet_self _ _ _ _
theorem getFn_modFn_ne (s : State) (f) {n k : Nat} (h : k ≠ n) : getFn (modFn s n f) k = getFn s k := SGet_SSet_ne _ _ _ h

@[simp] theorem getRte_setRte (s : State) (n v) : getRte (setRte s n v) n = v := SGet_SSet_self _ _ _ _
theorem getRte_setRte_ne (s : State) (v) {n k : Nat} (h : k ≠ n) : getRte (setRte s n v) k = getRte s k := SGet_SSet_ne _ _ _ h

@[simp] theorem getCtr_setCtr (s : State) (n v) : getCtr (setCtr s n v) n = v := SGet_SSet_self _ _ _ _
theorem getCtr_setCtr_ne (s : State) (v) {n k : Nat} (h : k ≠ n) : getCtr (setCtr s n v) k = getCtr s k := SGet_SSet_ne _ _ _ h

@[simp] theorem getCore_setCore (s : State) (n c) : getCore (setCore s n c) n = c := SGet_SSet_self _ _ _ _
theorem getCore_setCore_ne (s : State) (c) {n k : Nat} (h : k ≠ n) : getCore (setCore s n c) k = getCore s k := SGet_SSet_ne _ _ _ h
@[simp] theorem getCore_modCore (s : State) (n f) : getCore (modCore s n f) n = f (getCore s n) := SGet_SSet_self _ _ _ _
theorem getCore_modCore_ne (s : State) (f) {n k : Nat} (h : k ≠ n) : getCore (modCore s n f) k = getCore s k := SGet_SSet_ne _ _ _ h

@[simp] theorem getSE_setSE (s : State) (n e v) : getSE (setSE s n e v) n e = v := by simp [getSE, setSE]
@[simp] theorem getSE_modSE (s : State) (n e f) : getSE (modSE s n e f) n e = f (getSE s n e) := by simp [modSE]
theorem getSE_modSE_ne (s : State) (n f) {e k : Nat} (h : k ≠ e) : getSE (modSE s n e f) n k = getSE s n k := by
  simp [getSE, modSE, setSE, SGet_SSet_ne _ _ _ h]

@[simp] theorem getCell_setCell (s : State) (a b c) : getCell (setCell s a b c) a b = c := SGet_SSet_self _ _ _ _
theorem getCell_setCell_ne (s : State) (c) {a b a' b' : Nat} (hb : b < 1024) (hb' : b' < 1024) (h : a' ≠ a ∨ b' ≠ b) :
    getCell (setCell s a b c) a' b' = getCell s a' b' := SGet_SSet_ne _ _ _ (by omega)

end Sys2Proof.Machine
end

