-- ==== Sys2Proof/Laws/Command.lean ====
section
/-! SUPPORT. A descriptor that is taken: judged, or acted on. -/

namespace Sys2Proof.Machine

theorem takeDesc_at {s : State} {fn opc : Nat} {d : Desc} (h : DescAt s fn opc d) (also : Desc → Bool) (ha : also d = true)
    (f : Desc → State → State) : takeDesc fn opc also f s = .next (f d (dropDesc s d)) := by
  obtain ⟨⟨h1, h2, h3, h4, h5⟩, h6⟩ := h
  simp only [takeDesc, onUnit, h1, h2, h3, h4, h5, h6, ha, decide_true]
  simp

theorem takeDesc_judged {s : State} {fn opc st : Nat} {d : Desc} (h : DescHere s fn opc d) (hj : judge s d = some st)
    (also : Desc → Bool) (ha : also d = true) (f : Desc → State → State) :
    takeDesc fn opc also f s = .next (doneDesc (dropDesc s d) d st) := by
  obtain ⟨h1, h2, h3, h4, h5⟩ := h
  simp only [takeDesc, onUnit, h1, h2, h3, h4, h5, hj, ha, decide_true]
  simp

end Sys2Proof.Machine
end

