-- ==== Sys2Proof/Laws/Exec.lean ====
section
/-! SUPPORT. What each command runs, one equation for each, and what a step runs. -/

namespace Sys2Proof.Machine

theorem step_idle (s : State) (h : s.pending = []) : step s = .next (tickOnce s) := by unfold step; rw [h]

theorem step_front (s : State) (c : Instr) (rest : List Instr) (h : s.pending = c :: rest) :
    step s = exec c { s with pending := rest } := by unfold step; rw [h]

theorem exec_itemTransfer {row col src cons noise} (s : State) : exec (.itemTransfer row col src cons noise) s = execItemTransfer row col src cons noise s := rfl
theorem exec_handshakeAnomaly {row col side} (s : State) : exec (.handshakeAnomaly row col side) s = execHandshakeAnomaly row col side s := rfl
theorem exec_macFiring {row col bad} (s : State) : exec (.macFiring row col bad) s = execMacFiring row col bad s := rfl
theorem exec_maclFiring {row col bad} (s : State) : exec (.maclFiring row col bad) s = execMaclFiring row col bad s := rfl
theorem exec_delayFiring {row col} (s : State) : exec (.delayFiring row col) s = execDelayFiring row col s := rfl
theorem exec_testFiring {row col} (s : State) : exec (.testFiring row col) s = execTestFiring row col s := rfl
theorem exec_steerFiring {row col} (s : State) : exec (.steerFiring row col) s = execSteerFiring row col s := rfl
theorem exec_mergeFiring {row col} (s : State) : exec (.mergeFiring row col) s = execMergeFiring row col s := rfl
theorem exec_gateFiring {row col} (s : State) : exec (.gateFiring row col) s = execGateFiring row col s := rfl
theorem exec_repeatFiring {row col} (s : State) : exec (.repeatFiring row col) s = execRepeatFiring row col s := rfl
theorem exec_countFiring {row col} (s : State) : exec (.countFiring row col) s = execCountFiring row col s := rfl
theorem exec_stallTimeout {place} (s : State) : exec (.stallTimeout place) s = execStallTimeout place s := rfl
theorem exec_variantPlace {part run img sect} (s : State) : exec (.variantPlace part run img sect) s = execVariantPlace part run img sect s := rfl
theorem exec_placementResume {wait} (s : State) : exec (.placementResume wait) s = execPlacementResume wait s := rfl
theorem exec_sectorLoad {sector} (s : State) : exec (.sectorLoad sector) s = execSectorLoad sector s := rfl
theorem exec_sectorLoadDone {sector} (s : State) : exec (.sectorLoadDone sector) s = execSectorLoadDone sector s := rfl
theorem exec_sectorClear {sector} (s : State) : exec (.sectorClear sector) s = execSectorClear sector s := rfl
theorem exec_winWr {src dst crcBad} (s : State) : exec (.winWr src dst crcBad) s = execWinWr src dst crcBad s := rfl
theorem exec_winRd {src dst crcBad} (s : State) : exec (.winRd src dst crcBad) s = execWinRd src dst crcBad s := rfl
theorem exec_winRsp {src dst crcBad} (s : State) : exec (.winRsp src dst crcBad) s = execWinRsp src dst crcBad s := rfl
theorem exec_rgdWrite {src dst crcBad} (s : State) : exec (.rgdWrite src dst crcBad) s = execRgdWrite src dst crcBad s := rfl
theorem exec_evWrite {src dst crcBad} (s : State) : exec (.evWrite src dst crcBad) s = execEvWrite src dst crcBad s := rfl
theorem exec_tagEntryWrite {src dst crcBad} (s : State) : exec (.tagEntryWrite src dst crcBad) s = execTagEntryWrite src dst crcBad s := rfl
theorem exec_tileCheckDone {core entry upset} (s : State) : exec (.tileCheckDone core entry upset) s = execTileCheckDone core entry upset s := rfl
theorem exec_tileRefetchDone {core entry} (s : State) : exec (.tileRefetchDone core entry) s = execTileRefetchDone core entry s := rfl
theorem exec_vctlGo {src dst crcBad} (s : State) : exec (.vctlGo src dst crcBad) s = execVctlGo src dst crcBad s := rfl
theorem exec_vctlAbort {src dst crcBad} (s : State) : exec (.vctlAbort src dst crcBad) s = execVctlAbort src dst crcBad s := rfl
theorem exec_vnop {core} (s : State) : exec (.vnop core) s = execVnop core s := rfl
theorem exec_vld {core upset} (s : State) : exec (.vld core upset) s = execVld core upset s := rfl
theorem exec_vst {core} (s : State) : exec (.vst core) s = execVst core s := rfl
theorem exec_vmov {core} (s : State) : exec (.vmov core) s = execVmov core s := rfl
theorem exec_vsetx {core} (s : State) : exec (.vsetx core) s = execVsetx core s := rfl
theorem exec_vseta {core} (s : State) : exec (.vseta core) s = execVseta core s := rfl
theorem exec_vadda {core} (s : State) : exec (.vadda core) s = execVadda core s := rfl
theorem exec_vsplat {core} (s : State) : exec (.vsplat core) s = execVsplat core s := rfl
theorem exec_vand {core} (s : State) : exec (.vand core) s = execVand core s := rfl
theorem exec_vor {core} (s : State) : exec (.vor core) s = execVor core s := rfl
theorem exec_vxor {core} (s : State) : exec (.vxor core) s = execVxor core s := rfl
theorem exec_vnot {core} (s : State) : exec (.vnot core) s = execVnot core s := rfl
theorem exec_vshl {core} (s : State) : exec (.vshl core) s = execVshl core s := rfl
theorem exec_vshr {core} (s : State) : exec (.vshr core) s = execVshr core s := rfl
theorem exec_vsra {core} (s : State) : exec (.vsra core) s = execVsra core s := rfl
theorem exec_vadd {core bad} (s : State) : exec (.vadd core bad) s = execVadd core bad s := rfl
theorem exec_vsub {core bad} (s : State) : exec (.vsub core bad) s = execVsub core bad s := rfl
theorem exec_vmul {core bad} (s : State) : exec (.vmul core bad) s = execVmul core bad s := rfl
theorem exec_vmulq {core bad} (s : State) : exec (.vmulq core bad) s = execVmulq core bad s := rfl
theorem exec_vmin {core} (s : State) : exec (.vmin core) s = execVmin core s := rfl
theorem exec_vmax {core} (s : State) : exec (.vmax core) s = execVmax core s := rfl
theorem exec_vcmp {core} (s : State) : exec (.vcmp core) s = execVcmp core s := rfl
theorem exec_vsel {core} (s : State) : exec (.vsel core) s = execVsel core s := rfl
theorem exec_vcvt {core bad} (s : State) : exec (.vcvt core bad) s = execVcvt core bad s := rfl
theorem exec_vlut {core} (s : State) : exec (.vlut core) s = execVlut core s := rfl
theorem exec_vclz {core} (s : State) : exec (.vclz core) s = execVclz core s := rfl
theorem exec_vred {core bad} (s : State) : exec (.vred core bad) s = execVred core bad s := rfl
theorem exec_vspls {core} (s : State) : exec (.vspls core) s = execVspls core s := rfl
theorem exec_vcap {core} (s : State) : exec (.vcap core) s = execVcap core s := rfl
theorem exec_vsig {core} (s : State) : exec (.vsig core) s = execVsig core s := rfl
theorem exec_vwait {core} (s : State) : exec (.vwait core) s = execVwait core s := rfl
theorem exec_vwaitEnd {core} (s : State) : exec (.vwaitEnd core) s = execVwaitEnd core s := rfl
theorem exec_vwaitlong {core} (s : State) : exec (.vwaitlong core) s = execVwaitlong core s := rfl
theorem exec_vsetl {core} (s : State) : exec (.vsetl core) s = execVsetl core s := rfl
theorem exec_vloop {core} (s : State) : exec (.vloop core) s = execVloop core s := rfl
theorem exec_vend {core} (s : State) : exec (.vend core) s = execVend core s := rfl
theorem exec_seLoad {src dst crcBad} (s : State) : exec (.seLoad src dst crcBad) s = execSeLoad src dst crcBad s := rfl
theorem exec_seSetwd {src dst crcBad} (s : State) : exec (.seSetwd src dst crcBad) s = execSeSetwd src dst crcBad s := rfl
theorem exec_seSetp {src dst crcBad} (s : State) : exec (.seSetp src dst crcBad) s = execSeSetp src dst crcBad s := rfl
theorem exec_seAbort {src dst crcBad} (s : State) : exec (.seAbort src dst crcBad) s = execSeAbort src dst crcBad s := rfl
theorem exec_seAborted {core se} (s : State) : exec (.seAborted core se) s = execSeAborted core se s := rfl
theorem exec_seStart {src dst crcBad} (s : State) : exec (.seStart src dst crcBad) s = execSeStart src dst crcBad s := rfl
theorem exec_seQuery {src dst crcBad} (s : State) : exec (.seQuery src dst crcBad) s = execSeQuery src dst crcBad s := rfl
theorem exec_seStat {src dst crcBad} (s : State) : exec (.seStat src dst crcBad) s = execSeStat src dst crcBad s := rfl
theorem exec_snop {core se} (s : State) : exec (.snop core se) s = execSnop core se s := rfl
theorem exec_setm {core se} (s : State) : exec (.setm core se) s = execSetm core se s := rfl
theorem exec_sets {core se} (s : State) : exec (.sets core se) s = execSets core se s := rfl
theorem exec_setc {core se} (s : State) : exec (.setc core se) s = execSetc core se s := rfl
theorem exec_limit {core se} (s : State) : exec (.limit core se) s = execLimit core se s := rfl
theorem exec_strm {core se} (s : State) : exec (.strm core se) s = execStrm core se s := rfl
theorem exec_strc {core se} (s : State) : exec (.strc core se) s = execStrc core se s := rfl
theorem exec_loop {core se} (s : State) : exec (.loop core se) s = execLoop core se s := rfl
theorem exec_endl {core se} (s : State) : exec (.endl core se) s = execEndl core se s := rfl
theorem exec_shape {core se} (s : State) : exec (.shape core se) s = execShape core se s := rfl
theorem exec_fill {core se lines} (s : State) : exec (.fill core se lines) s = execFill core se lines s := rfl
theorem exec_drain {core se upset lines} (s : State) : exec (.drain core se upset lines) s = execDrain core se upset lines s := rfl
theorem exec_feed {core se upset} (s : State) : exec (.feed core se upset) s = execFeed core se upset s := rfl
theorem exec_collect {core se} (s : State) : exec (.collect core se) s = execCollect core se s := rfl
theorem exec_streamTransferComplete {core se id} (s : State) : exec (.streamTransferComplete core se id) s = execStreamTransferComplete core se id s := rfl
theorem exec_sig {core se} (s : State) : exec (.sig core se) s = execSig core se s := rfl
theorem exec_wait {core se} (s : State) : exec (.wait core se) s = execWait core se s := rfl
theorem exec_streamWaitEnd {core se} (s : State) : exec (.streamWaitEnd core se) s = execStreamWaitEnd core se s := rfl
theorem exec_cfg {core se} (s : State) : exec (.cfg core se) s = execCfg core se s := rfl
theorem exec_endProg {core se} (s : State) : exec (.endProg core se) s = execEndProg core se s := rfl
theorem exec_sdone {core se} (s : State) : exec (.sdone core se) s = execSdone core se s := rfl
theorem exec_swatch {core se} (s : State) : exec (.swatch core se) s = execSwatch core se s := rfl
theorem exec_streamReadError {core se id} (s : State) : exec (.streamReadError core se id) s = execStreamReadError core se id s := rfl
theorem exec_sliceWritebackDone {group bad} (s : State) : exec (.sliceWritebackDone group bad) s = execSliceWritebackDone group bad s := rfl
theorem exec_notice {src dst crcBad} (s : State) : exec (.notice src dst crcBad) s = execNotice src dst crcBad s := rfl
theorem exec_flag {src dst crcBad} (s : State) : exec (.flag src dst crcBad) s = execFlag src dst crcBad s := rfl
theorem exec_fwMsg {src dst crcBad} (s : State) : exec (.fwMsg src dst crcBad) s = execFwMsg src dst crcBad s := rfl
theorem exec_txGo {sector} (s : State) : exec (.txGo sector) s = execTxGo sector s := rfl
theorem exec_rxPop {sector} (s : State) : exec (.rxPop sector) s = execRxPop sector s := rfl
theorem exec_cntCreate {src crcBad} (s : State) : exec (.cntCreate src crcBad) s = execCntCreate src crcBad s := rfl
theorem exec_cntClaim {src crcBad} (s : State) : exec (.cntClaim src crcBad) s = execCntClaim src crcBad s := rfl
theorem exec_claimHeldAnswer {cnt} (s : State) : exec (.claimHeldAnswer cnt) s = execClaimHeldAnswer cnt s := rfl
theorem exec_cntRetire {src crcBad} (s : State) : exec (.cntRetire src crcBad) s = execCntRetire src crcBad s := rfl
theorem exec_cntWithdraw {src crcBad} (s : State) : exec (.cntWithdraw src crcBad) s = execCntWithdraw src crcBad s := rfl
theorem exec_cntQuery {src crcBad} (s : State) : exec (.cntQuery src crcBad) s = execCntQuery src crcBad s := rfl
theorem exec_cntDestroy {src crcBad} (s : State) : exec (.cntDestroy src crcBad) s = execCntDestroy src crcBad s := rfl
theorem exec_cntRsp {dst crcBad} (s : State) : exec (.cntRsp dst crcBad) s = execCntRsp dst crcBad s := rfl
theorem exec_layerStart {part run img layer cnt tag} (s : State) : exec (.layerStart part run img layer cnt tag) s = execLayerStart part run img layer cnt tag s := rfl
theorem exec_layerComplete {part run img layer cnt} (s : State) : exec (.layerComplete part run img layer cnt) s = execLayerComplete part run img layer cnt s := rfl
theorem exec_promptCheck {rte} (s : State) : exec (.promptCheck rte) s = execPromptCheck rte s := rfl
theorem exec_prefillChunkStart {rte count pages} (s : State) : exec (.prefillChunkStart rte count pages) s = execPrefillChunkStart rte count pages s := rfl
theorem exec_prefillChunkCommit {part} (s : State) : exec (.prefillChunkCommit part) s = execPrefillChunkCommit part s := rfl
theorem exec_decodeStepStart {part pages bad} (s : State) : exec (.decodeStepStart part pages bad) s = execDecodeStepStart part pages bad s := rfl
theorem exec_decodeStepOutput {part} (s : State) : exec (.decodeStepOutput part) s = execDecodeStepOutput part s := rfl
theorem exec_decodeStepCommit {part} (s : State) : exec (.decodeStepCommit part) s = execDecodeStepCommit part s := rfl
theorem exec_streamEntryWrite {rte} (s : State) : exec (.streamEntryWrite rte) s = execStreamEntryWrite rte s := rfl
theorem exec_completionWrite {fn cq} (s : State) : exec (.completionWrite fn cq) s = execCompletionWrite fn cq s := rfl
theorem exec_recordRingWrite {part} (s : State) : exec (.recordRingWrite part) s = execRecordRingWrite part s := rfl
theorem exec_steeringBindComplete {cmd off} (s : State) : exec (.steeringBindComplete cmd off) s = execSteeringBindComplete cmd off s := rfl
theorem exec_halfDispatch {part xl half pos0 chunk} (s : State) : exec (.halfDispatch part xl half pos0 chunk) s = execHalfDispatch part xl half pos0 chunk s := rfl
theorem exec_jobArrival {part chip spart} (s : State) : exec (.jobArrival part chip spart) s = execJobArrival part chip spart s := rfl
theorem exec_jobComplete {part chip spart} (s : State) : exec (.jobComplete part chip spart) s = execJobComplete part chip spart s := rfl
theorem exec_resultArrival {part xl half chip} (s : State) : exec (.resultArrival part xl half chip) s = execResultArrival part xl half chip s := rfl
theorem exec_texchExpiry {part xl half} (s : State) : exec (.texchExpiry part xl half) s = execTexchExpiry part xl half s := rfl
theorem exec_xlimitExpiry {part xl half} (s : State) : exec (.xlimitExpiry part xl half) s = execXlimitExpiry part xl half s := rfl
theorem exec_memoryReadReturn {off errs errs2 tier1} (s : State) : exec (.memoryReadReturn off errs errs2 tier1) s = execMemoryReadReturn off errs errs2 tier1 s := rfl
theorem exec_tier1ReadLate {off} (s : State) : exec (.tier1ReadLate off) s = execTier1ReadLate off s := rfl
theorem exec_periodicRefresh {sub row} (s : State) : exec (.periodicRefresh sub row) s = execPeriodicRefresh sub row s := rfl
theorem exec_rfmRequest {sub bank} (s : State) : exec (.rfmRequest sub bank) s = execRfmRequest sub bank s := rfl
theorem exec_maintenanceWindow {group} (s : State) : exec (.maintenanceWindow group) s = execMaintenanceWindow group s := rfl
theorem exec_periodicCalibration {sub ok} (s : State) : exec (.periodicCalibration sub ok) s = execPeriodicCalibration sub ok s := rfl
theorem exec_patrolScrub {sub errs errs2} (s : State) : exec (.patrolScrub sub errs errs2) s = execPatrolScrub sub errs errs2 s := rfl
theorem exec_sramScrub {utype unit word bits} (s : State) : exec (.sramScrub utype unit word bits) s = execSramScrub utype unit word bits s := rfl
theorem exec_opticalBiasCalibration {port lane} (s : State) : exec (.opticalBiasCalibration port lane) s = execOpticalBiasCalibration port lane s := rfl
theorem exec_ageingMeasurement {sector count} (s : State) : exec (.ageingMeasurement sector count) s = execAgeingMeasurement sector count s := rfl
theorem exec_hostlimExpiry {read} (s : State) : exec (.hostlimExpiry read) s = execHostlimExpiry read s := rfl
theorem exec_pcieCompletionTimeout {read} (s : State) : exec (.pcieCompletionTimeout read) s = execPcieCompletionTimeout read s := rfl
theorem exec_hostErrorCompletion {read} (s : State) : exec (.hostErrorCompletion read) s = execHostErrorCompletion read s := rfl
theorem exec_linkLeavesDlActive (s : State) : exec .linkLeavesDlActive s = execLinkLeavesDlActive s := rfl
theorem exec_rd {port} (s : State) : exec (.rd port) s = execRd port s := rfl
theorem exec_wr {port} (s : State) : exec (.wr port) s = execWr port s := rfl
theorem exec_rdata {port} (s : State) : exec (.rdata port) s = execRdata port s := rfl
theorem exec_wack {port} (s : State) : exec (.wack port) s = execWack port s := rfl
theorem exec_peerlimExpiry {tag} (s : State) : exec (.peerlimExpiry tag) s = execPeerlimExpiry tag s := rfl
theorem exec_segment {part slot} (s : State) : exec (.segment part slot) s = execSegment part slot s := rfl
theorem exec_ack {part slot} (s : State) : exec (.ack part slot) s = execAck part slot s := rfl
theorem exec_nack {part slot} (s : State) : exec (.nack part slot) s = execNack part slot s := rfl
theorem exec_chainAbort {part slot} (s : State) : exec (.chainAbort part slot) s = execChainAbort part slot s := rfl
theorem exec_chainPredecessorSilent {part slot} (s : State) : exec (.chainPredecessorSilent part slot) s = execChainPredecessorSilent part slot s := rfl
theorem exec_pollPass (s : State) : exec .pollPass s = execPollPass s := rfl
theorem exec_doorbellLineRead {fn line data} (s : State) : exec (.doorbellLineRead fn line data) s = execDoorbellLineRead fn line data s := rfl
theorem exec_descriptorFetch {fn data} (s : State) : exec (.descriptorFetch fn data) s = execDescriptorFetch fn data s := rfl
theorem exec_queueCreate {fn} (s : State) : exec (.queueCreate fn) s = execQueueCreate fn s := rfl
theorem exec_queueDelete {fn} (s : State) : exec (.queueDelete fn) s = execQueueDelete fn s := rfl
theorem exec_recordRingSet {fn} (s : State) : exec (.recordRingSet fn) s = execRecordRingSet fn s := rfl
theorem exec_telemetryReadDrops {fn} (s : State) : exec (.telemetryReadDrops fn) s = execTelemetryReadDrops fn s := rfl
theorem exec_telemetryReadEnergy {fn} (s : State) : exec (.telemetryReadEnergy fn) s = execTelemetryReadEnergy fn s := rfl
theorem exec_partCreate {fn} (s : State) : exec (.partCreate fn) s = execPartCreate fn s := rfl
theorem exec_partDestroy {fn} (s : State) : exec (.partDestroy fn) s = execPartDestroy fn s := rfl
theorem exec_capSet {fn} (s : State) : exec (.capSet fn) s = execCapSet fn s := rfl
theorem exec_requestOpen {fn} (s : State) : exec (.requestOpen fn) s = execRequestOpen fn s := rfl
theorem exec_requestCancel {fn} (s : State) : exec (.requestCancel fn) s = execRequestCancel fn s := rfl
theorem exec_steeringBind {fn} (s : State) : exec (.steeringBind fn) s = execSteeringBind fn s := rfl
theorem exec_modelSelect {fn} (s : State) : exec (.modelSelect fn) s = execModelSelect fn s := rfl
theorem exec_modelSelectComplete {part} (s : State) : exec (.modelSelectComplete part) s = execModelSelectComplete part s := rfl
theorem exec_modelChain {fn} (s : State) : exec (.modelChain fn) s = execModelChain fn s := rfl
theorem exec_modelEvict {fn} (s : State) : exec (.modelEvict fn) s = execModelEvict fn s := rfl
theorem exec_imageRegister {fn} (s : State) : exec (.imageRegister fn) s = execImageRegister fn s := rfl
theorem exec_registrationDone {part image key} (s : State) : exec (.registrationDone part image key) s = execRegistrationDone part image key s := rfl
theorem exec_graphRun {fn} (s : State) : exec (.graphRun fn) s = execGraphRun fn s := rfl
theorem exec_copy {fn} (s : State) : exec (.copy fn) s = execCopy fn s := rfl
theorem exec_copyComplete {cmd} (s : State) : exec (.copyComplete cmd) s = execCopyComplete cmd s := rfl
theorem exec_fence {fn} (s : State) : exec (.fence fn) s = execFence fn s := rfl
theorem exec_fenceRelease {cmd} (s : State) : exec (.fenceRelease cmd) s = execFenceRelease cmd s := rfl
theorem exec_counterOp {fn} (s : State) : exec (.counterOp fn) s = execCounterOp fn s := rfl
theorem exec_aqenWrite {fn on} (s : State) : exec (.aqenWrite fn on) s = execAqenWrite fn on s := rfl
theorem exec_setupLock {fn} (s : State) : exec (.setupLock fn) s = execSetupLock fn s := rfl
theorem exec_pollWrite {fn ticks} (s : State) : exec (.pollWrite fn ticks) s = execPollWrite fn ticks s := rfl
theorem exec_mbpop {fn ch} (s : State) : exec (.mbpop fn ch) s = execMbpop fn ch s := rfl
theorem exec_txsend {fn ch data} (s : State) : exec (.txsend fn ch data) s = execTxsend fn ch data s := rfl
theorem exec_mbox {src dst crcBad} (s : State) : exec (.mbox src dst crcBad) s = execMbox src dst crcBad s := rfl
theorem exec_registerWrite {space unit off value} (s : State) : exec (.registerWrite space unit off value) s = execRegisterWrite space unit off value s := rfl
theorem exec_msixVectorUnmask {fn vec} (s : State) : exec (.msixVectorUnmask fn vec) s = execMsixVectorUnmask fn vec s := rfl
theorem exec_imodTimerExpiry {fn ring} (s : State) : exec (.imodTimerExpiry fn ring) s = execImodTimerExpiry fn ring s := rfl
theorem exec_vfFlr {fn} (s : State) : exec (.vfFlr fn) s = execVfFlr fn s := rfl
theorem exec_vfEnableClear (s : State) : exec .vfEnableClear s = execVfEnableClear s := rfl
theorem exec_pfFlr (s : State) : exec .pfFlr s = execPfFlr s := rfl
theorem exec_flitReceive {port flit fecBad} (s : State) : exec (.flitReceive port flit fecBad) s = execFlitReceive port flit fecBad s := rfl
theorem exec_nak {port ack} (s : State) : exec (.nak port ack) s = execNak port ack s := rfl
theorem exec_ackIdleTimer {port} (s : State) : exec (.ackIdleTimer port) s = execAckIdleTimer port s := rfl
theorem exec_ackStallTimeout {port} (s : State) : exec (.ackStallTimeout port) s = execAckStallTimeout port s := rfl
theorem exec_laneLockLoss {port} (s : State) : exec (.laneLockLoss port) s = execLaneLockLoss port s := rfl
theorem exec_portRelock {port record} (s : State) : exec (.portRelock port record) s = execPortRelock port record s := rfl
theorem exec_retrainTimeout {port} (s : State) : exec (.retrainTimeout port) s = execRetrainTimeout port s := rfl
theorem exec_downRetry {port} (s : State) : exec (.downRetry port) s = execDownRetry port s := rfl
theorem exec_portLock {port} (s : State) : exec (.portLock port) s = execPortLock port s := rfl
theorem exec_identSend {port} (s : State) : exec (.identSend port) s = execIdentSend port s := rfl
theorem exec_ident {port} (s : State) : exec (.ident port) s = execIdent port s := rfl
theorem exec_noRecord {port} (s : State) : exec (.noRecord port) s = execNoRecord port s := rfl
theorem exec_unitErrorRecovery (s : State) : exec .unitErrorRecovery s = execUnitErrorRecovery s := rfl
theorem exec_selfTestDone {utype unit pass} (s : State) : exec (.selfTestDone utype unit pass) s = execSelfTestDone utype unit pass s := rfl
theorem exec_returnTestStart {utype unit} (s : State) : exec (.returnTestStart utype unit) s = execReturnTestStart utype unit s := rfl
theorem exec_enAssert (s : State) : exec .enAssert s = execEnAssert s := rfl
theorem exec_enDeassert (s : State) : exec .enDeassert s = execEnDeassert s := rfl
theorem exec_powerGood (s : State) : exec .powerGood s = execPowerGood s := rfl
theorem exec_railStartFail {rail} (s : State) : exec (.railStartFail rail) s = execRailStartFail rail s := rfl
theorem exec_railOutOfWindow {rail} (s : State) : exec (.railOutOfWindow rail) s = execRailOutOfWindow rail s := rfl
theorem exec_inputUndervoltage {vin} (s : State) : exec (.inputUndervoltage vin) s = execInputUndervoltage vin s := rfl
theorem exec_inputCollapse {vin} (s : State) : exec (.inputCollapse vin) s = execInputCollapse vin s := rfl
theorem exec_inputRestart {vin} (s : State) : exec (.inputRestart vin) s = execInputRestart vin s := rfl
theorem exec_inputOvervoltage {vin} (s : State) : exec (.inputOvervoltage vin) s = execInputOvervoltage vin s := rfl
theorem exec_pfwRecognised (s : State) : exec .pfwRecognised s = execPfwRecognised s := rfl
theorem exec_pfwPowerOff (s : State) : exec .pfwPowerOff s = execPfwPowerOff s := rfl
theorem exec_droopTrip {domain} (s : State) : exec (.droopTrip domain) s = execDroopTrip domain s := rfl
theorem exec_droopRelease {domain held} (s : State) : exec (.droopRelease domain held) s = execDroopRelease domain held s := rfl
theorem exec_powerSample {watts uj} (s : State) : exec (.powerSample watts uj) s = execPowerSample watts uj s := rfl
theorem exec_governorAction (s : State) : exec .governorAction s = execGovernorAction s := rfl
theorem exec_floorPaceClimb (s : State) : exec .floorPaceClimb s = execFloorPaceClimb s := rfl
theorem exec_departureReturn (s : State) : exec .departureReturn s = execDepartureReturn s := rfl
theorem exec_thermalSample {sensors inlet outlet} (s : State) : exec (.thermalSample sensors inlet outlet) s = execThermalSample sensors inlet outlet s := rfl
theorem exec_thermalStopEnd (s : State) : exec .thermalStopEnd s = execThermalStopEnd s := rfl
theorem exec_hardwareTrip (s : State) : exec .hardwareTrip s = execHardwareTrip s := rfl
theorem exec_heartbeatLost (s : State) : exec .heartbeatLost s = execHeartbeatLost s := rfl
theorem exec_perstAssert (s : State) : exec .perstAssert s = execPerstAssert s := rfl
theorem exec_bootStart {failed} (s : State) : exec (.bootStart failed) s = execBootStart failed s := rfl
theorem exec_lpddr6TrainingDone (s : State) : exec .lpddr6TrainingDone s = execLpddr6TrainingDone s := rfl
theorem exec_bundleRegister {req} (s : State) : exec (.bundleRegister req) s = execBundleRegister req s := rfl
theorem exec_bundleFetched (s : State) : exec .bundleFetched s = execBundleFetched s := rfl
theorem exec_fuseProgramDone {ok} (s : State) : exec (.fuseProgramDone ok) s = execFuseProgramDone ok s := rfl
theorem exec_bootRunning (s : State) : exec .bootRunning s = execBootRunning s := rfl
theorem exec_getVersion {req} (s : State) : exec (.getVersion req) s = execGetVersion req s := rfl
theorem exec_getCapabilities {req} (s : State) : exec (.getCapabilities req) s = execGetCapabilities req s := rfl
theorem exec_negotiateAlgorithms {req} (s : State) : exec (.negotiateAlgorithms req) s = execNegotiateAlgorithms req s := rfl
theorem exec_getDigests {req} (s : State) : exec (.getDigests req) s = execGetDigests req s := rfl
theorem exec_getCertificate {req} (s : State) : exec (.getCertificate req) s = execGetCertificate req s := rfl
theorem exec_challenge {req} (s : State) : exec (.challenge req) s = execChallenge req s := rfl
theorem exec_getMeasurements {req} (s : State) : exec (.getMeasurements req) s = execGetMeasurements req s := rfl
theorem exec_spdmUnsupportedRequest {req} (s : State) : exec (.spdmUnsupportedRequest req) s = execSpdmUnsupportedRequest req s := rfl
theorem exec_bootStatus {req} (s : State) : exec (.bootStatus req) s = execBootStatus req s := rfl
theorem exec_sealRingSet {req} (s : State) : exec (.sealRingSet req) s = execSealRingSet req s := rfl
theorem exec_sealGet {req} (s : State) : exec (.sealGet req) s = execSealGet req s := rfl
theorem exec_epochTimeEnd {part} (s : State) : exec (.epochTimeEnd part) s = execEpochTimeEnd part s := rfl
theorem exec_epochSeal {part} (s : State) : exec (.epochSeal part) s = execEpochSeal part s := rfl
theorem exec_sealRingWrite (s : State) : exec .sealRingWrite s = execSealRingWrite s := rfl
theorem exec_standbyUp {ga} (s : State) : exec (.standbyUp ga) s = execStandbyUp ga s := rfl
theorem exec_pewterReady (s : State) : exec .pewterReady s = execPewterReady s := rfl
theorem exec_standbyLoss (s : State) : exec .standbyLoss s = execStandbyLoss s := rfl
theorem exec_setdasa {addr} (s : State) : exec (.setdasa addr) s = execSetdasa addr s := rfl
theorem exec_entdaa {addr} (s : State) : exec (.entdaa addr) s = execEntdaa addr s := rfl
theorem exec_i3cIndexWrite {index} (s : State) : exec (.i3cIndexWrite index) s = execI3cIndexWrite index s := rfl
theorem exec_i3cRegisterWrite {index value} (s : State) : exec (.i3cRegisterWrite index value) s = execI3cRegisterWrite index value s := rfl
theorem exec_heartbeat {msg} (s : State) : exec (.heartbeat msg) s = execHeartbeat msg s := rfl
theorem exec_settingsPut {msg} (s : State) : exec (.settingsPut msg) s = execSettingsPut msg s := rfl
theorem exec_planPut {msg} (s : State) : exec (.planPut msg) s = execPlanPut msg s := rfl
theorem exec_telemGet {msg} (s : State) : exec (.telemGet msg) s = execTelemGet msg s := rfl
theorem exec_logGet {msg} (s : State) : exec (.logGet msg) s = execLogGet msg s := rfl
theorem exec_returnUnit {msg} (s : State) : exec (.returnUnit msg) s = execReturnUnit msg s := rfl
theorem exec_settingsGet {msg} (s : State) : exec (.settingsGet msg) s = execSettingsGet msg s := rfl
theorem exec_sring {ch} (s : State) : exec (.sring ch) s = execSring ch s := rfl
theorem exec_sset {ch} (s : State) : exec (.sset ch) s = execSset ch s := rfl
theorem exec_sstop {ch} (s : State) : exec (.sstop ch) s = execSstop ch s := rfl
theorem exec_sampleTick {fn set values} (s : State) : exec (.sampleTick fn set values) s = execSampleTick fn set values s := rfl
theorem exec_hostReadCompletion {read data} (s : State) : exec (.hostReadCompletion read data) s = execHostReadCompletion read data s := rfl
theorem exec_hostLinkDlActive (s : State) : exec .hostLinkDlActive s = execHostLinkDlActive s := rfl
theorem exec_vfEnableSet (s : State) : exec .vfEnableSet s = execVfEnableSet s := rfl
theorem exec_partCreateComplete {part} (s : State) : exec (.partCreateComplete part) s = execPartCreateComplete part s := rfl
theorem exec_cobaltTimerCompare {sector} (s : State) : exec (.cobaltTimerCompare sector) s = execCobaltTimerCompare sector s := rfl
theorem exec_startRampPaceStep (s : State) : exec .startRampPaceStep s = execStartRampPaceStep s := rfl
theorem exec_rackManagerMalformed {msg} (s : State) : exec (.rackManagerMalformed msg) s = execRackManagerMalformed msg s := rfl

end Sys2Proof.Machine
end

