-- ==== Sys2Proof/Laws/Within.lean ====
section
/-! SUPPORT. Laws of frames: how they compose, what each named operation over the state may touch, and that every operation on
local memory keeps its canonical form. -/

namespace Sys2Proof.Machine

variable {fs : List Field} {s0 s t u : State}

theorem Within.refl (fs : List Field) (s : State) : Within fs s s :=
  ⟨rfl, id, id, .inr rfl, .inr rfl, .inr rfl, .inr rfl, .inr rfl, .inr rfl, .inr rfl, .inr rfl, .inr rfl, .inr rfl, .inr rfl, .inr rfl, .inr ⟨id, rfl⟩⟩

theorem Within.trans (h : Within fs s t) (k : Within fs t u) : Within fs s u where
  pending := k.pending.trans h.pending
  width := fun a => k.width (h.width a)
  canon := fun a => k.canon (h.canon a)
  tick := by rcases h.tick with a | a <;> rcases k.tick with b | b <;> simp_all
  sbTick := by rcases h.sbTick with a | a <;> rcases k.sbTick with b | b <;> simp_all
  freeCtr := by rcases h.freeCtr with a | a <;> rcases k.freeCtr with b | b <;> simp_all
  host := by rcases h.host with a | a <;> rcases k.host with b | b <;> simp_all
  parts := by rcases h.parts with a | a <;> rcases k.parts with b | b <;> simp_all
  rtes := by rcases h.rtes with a | a <;> rcases k.rtes with b | b <;> simp_all
  fab := by rcases h.fab with a | a <;> rcases k.fab with b | b <;> simp_all
  power := by rcases h.power with a | a <;> rcases k.power with b | b <;> simp_all
  sec := by rcases h.sec with a | a <;> rcases k.sec with b | b <;> simp_all
  pew := by rcases h.pew with a | a <;> rcases k.pew with b | b <;> simp_all
  eng := by rcases h.eng with a | a <;> rcases k.eng with b | b <;> simp_all
  mem := by rcases h.mem with a | a <;> rcases k.mem with b | b <;> simp_all
  setup := by
    rcases h.setup with a | a
    · exact .inl a
    · rcases k.setup with b | b
      · exact .inl b
      · exact .inr ⟨fun c => b.1 (a.1 c), b.2.trans a.2⟩

/-- A frame stays a frame of a larger set. -/
theorem Within.mono {gs : List Field} (h : Within fs s t) (hs : fs ⊆ gs) : Within gs s t :=
  ⟨h.pending, h.width, h.canon, h.tick.imp_left (hs ·), h.sbTick.imp_left (hs ·), h.freeCtr.imp_left (hs ·), h.host.imp_left (hs ·),
    h.parts.imp_left (hs ·), h.rtes.imp_left (hs ·), h.fab.imp_left (hs ·), h.power.imp_left (hs ·), h.sec.imp_left (hs ·),
    h.pew.imp_left (hs ·), h.eng.imp_left (hs ·), h.mem.imp_left (hs ·), h.setup.imp_left (hs ·)⟩

/-- A step within a frame keeps the invariant. -/
theorem Within.inv (h : Within fs s t) (i : Inv s) : Inv t :=
  ⟨fun c hc => i.commands c (h.pending ▸ hc), h.width i.tick, h.canon i.memory⟩

/-! ### Writes of one part -/

/-- A write of the host interface that leaves the set-up lock set and the mailbox binding table as it was. -/
theorem modHost_within (f) (hf : .host ∈ fs) (h : Within fs s0 s)
    (hk : ∀ x : HostIf, (x.lock = true → (f x).lock = true) ∧ (f x).mbbind = x.mbbind := by
      intro x; first | exact ⟨id, rfl⟩ | exact ⟨fun _ => rfl, rfl⟩ | (dsimp only; split <;> exact ⟨id, rfl⟩)) :
    Within fs s0 (modHost s f) :=
  { h with
    host := .inl hf
    setup := h.setup.imp_right (fun a => ⟨fun c => (hk s.host).1 (a.1 c), (hk s.host).2.trans a.2⟩) }

/-- A write of the host interface that boot, PERST# or the loss of main power makes. -/
theorem modHost_within_setup (f) (hf : .host ∈ fs) (hs : .setup ∈ fs) (h : Within fs s0 s) : Within fs s0 (modHost s f) :=
  { h with host := .inl hf, setup := .inl hs }
theorem modPew_within (f) (hf : .pew ∈ fs) (h : Within fs s0 s) : Within fs s0 (modPew s f) := { h with pew := .inl hf }
theorem modSec_within (f) (hf : .sec ∈ fs) (h : Within fs s0 s) : Within fs s0 (modSec s f) := { h with sec := .inl hf }
theorem modPow_within (f) (hf : .power ∈ fs) (h : Within fs s0 s) : Within fs s0 (modPow s f) := { h with power := .inl hf }
theorem modEng_within (f) (hf : .eng ∈ fs) (h : Within fs s0 s) : Within fs s0 (modEng s f) := { h with eng := .inl hf }
theorem modFab_within (f) (hf : .fab ∈ fs) (h : Within fs s0 s) : Within fs s0 (modFab s f) := { h with fab := .inl hf }
theorem modParts_within (f) (hf : .parts ∈ fs) (h : Within fs s0 s) : Within fs s0 (modParts s f) := { h with parts := .inl hf }
theorem modRtes_within (f) (hf : .rtes ∈ fs) (h : Within fs s0 s) : Within fs s0 (modRtes s f) := { h with rtes := .inl hf }
theorem modPart_within (p f) (hf : .parts ∈ fs) (h : Within fs s0 s) : Within fs s0 (modPart s p f) := { h with parts := .inl hf }
theorem setRte_within (r v) (hf : .rtes ∈ fs) (h : Within fs s0 s) : Within fs s0 (setRte s r v) := { h with rtes := .inl hf }
theorem setCore_within (n c) (hf : .eng ∈ fs) (h : Within fs s0 s) : Within fs s0 (setCore s n c) := { h with eng := .inl hf }
theorem setCell_within (a b c) (hf : .eng ∈ fs) (h : Within fs s0 s) : Within fs s0 (setCell s a b c) := { h with eng := .inl hf }
theorem modCob_within (n f) (hf : .eng ∈ fs) (h : Within fs s0 s) : Within fs s0 (modCob s n f) := { h with eng := .inl hf }
theorem modPort_within (n f) (hf : .fab ∈ fs) (h : Within fs s0 s) : Within fs s0 (modPort s n f) := { h with fab := .inl hf }
theorem modFn_within (n f) (hf : .host ∈ fs) (h : Within fs s0 s) : Within fs s0 (modFn s n f) := { h with host := .inl hf }
theorem setCtr_within (n v) (hf : .eng ∈ fs) (h : Within fs s0 s) : Within fs s0 (setCtr s n v) := { h with eng := .inl hf }
theorem spend_within (n) (hf : .freeCtr ∈ fs) (h : Within fs s0 s) : Within fs s0 (spend s n) := { h with freeCtr := .inl hf }
theorem setStandby_within (n) (hf : .sbTick ∈ fs) (h : Within fs s0 s) : Within fs s0 (setStandby s n) := { h with sbTick := .inl hf }
theorem setTick_within (n) (hf : .tick ∈ fs) (h : Within fs s0 s) : Within fs s0 (setTick s n) :=
  { h with tick := .inl hf, width := fun _ => Nat.mod_lt _ (by decide) }

/-- An operation on local memory that keeps the canonical form. -/
theorem modMem_within_wf (f : Mem → Mem) (hf : .mem ∈ fs) (h : Within fs s0 s)
    (hb : Memory.wf s.mem = true → Memory.wf (f s.mem) = true) : Within fs s0 (modMem s f) :=
  { h with mem := .inl hf, canon := fun a => hb (h.canon a) }

/-- An operation on local memory that leaves its bytes as they are. -/
theorem modMem_within (f : Mem → Mem) (hf : .mem ∈ fs) (h : Within fs s0 s) (hb : (f s.mem).bytes = s.mem.bytes) :
    Within fs s0 (modMem s f) :=
  modMem_within_wf f hf h (fun a => by unfold Memory.wf at *; rwa [hb])

/-! ### Control -/

theorem whenB_within (c) (h : Within fs s0 s) (k : Within fs s0 t) : Within fs s0 (whenB c s t) := by
  unfold whenB; split <;> assumption

theorem ite_within {c : Prop} [Decidable c] (h : Within fs s0 s) (k : Within fs s0 t) : Within fs s0 (if c then s else t) := by
  split <;> assumption

theorem foldl_within {α : Type} (g : State → α → State) (l : List α) (h : Within fs s0 s)
    (hg : ∀ t x, Within fs s0 t → Within fs s0 (g t x)) : Within fs s0 (l.foldl g s) := by
  induction l generalizing s with
  | nil => exact h
  | cons x xs ih => exact ih (hg s x h)

theorem foldr_within {α : Type} (g : α → State → State) (l : List α) (h : Within fs s0 s)
    (hg : ∀ t x, Within fs s0 t → Within fs s0 (g x t)) : Within fs s0 (l.foldr g s) := by
  induction l with
  | nil => exact h
  | cons x xs ih => exact hg _ x ih

theorem foldl_fst_within {α β : Type} (g : State × β → α → State × β) (l : List α) (a : State × β) (h : Within fs s0 a.1)
    (hg : ∀ t x, Within fs s0 t.1 → Within fs s0 (g t x).1) : Within fs s0 (l.foldl g a).1 := by
  induction l generalizing a with
  | nil => exact h
  | cons x xs ih => exact ih _ (hg a x h)

theorem foldl_snd_within {α β : Type} (g : β × State → α → β × State) (l : List α) (a : β × State) (h : Within fs s0 a.2)
    (hg : ∀ t x, Within fs s0 t.2 → Within fs s0 (g t x).2) : Within fs s0 (l.foldl g a).2 := by
  induction l generalizing a with
  | nil => exact h
  | cons x xs ih => exact ih _ (hg a x h)

/-! ### Outcomes -/

theorem next_keeps (h : Within fs s0 s) : Keeps fs s0 (.next s) := by
  intro t ht; cases ht; exact h

theorem fault_keeps (r) : Keeps fs s0 (.fault r) := by
  intro t ht; cases ht

theorem onUnit_keeps (k) (h : Within fs s0 s) : Keeps fs s0 (onUnit k s) := by
  unfold onUnit; split
  · exact next_keeps h
  · exact fault_keeps _

theorem ite_keeps {c : Prop} [Decidable c] {a b} (h : Keeps fs s0 a) (k : Keeps fs s0 b) : Keeps fs s0 (if c then a else b) := by
  split <;> assumption

end Sys2Proof.Machine
end

