-- ==== Sys2Proof/Laws/Memory.lean ====
section
/-! SUPPORT. Laws of local memory: what the near caches' and the devices' bookkeeping leaves of its bytes, reads after writes, and
the operations that clear ranges. -/

namespace Sys2Proof.Machine

variable {fs : List Field} {s0 s : State}

/-! ### Bytes that the bookkeeping leaves alone -/

@[simp] theorem touch_bytes (m off w r) : (touch m off w r).bytes = m.bytes := rfl
@[simp] theorem putLine_bytes (m off w l) : (putLine m off w l).bytes = m.bytes := rfl
@[simp] theorem refreshed_bytes (m b r) : (refreshed m b r).bytes = m.bytes := rfl

@[simp] theorem lineRead_bytes (ch m off) : (lineRead ch m off).bytes = m.bytes := by
  unfold lineRead
  repeat' (first | rfl | split)

@[simp] theorem lineWrite_bytes (ch m off) : (lineWrite ch m off).bytes = m.bytes := by
  unfold lineWrite
  repeat' (first | rfl | split)

/-- A run of operations that each leave the bytes of local memory alone. -/
theorem foldl_bytes {α : Type} (g : State → α → State) (hg : ∀ s x, (g s x).mem.bytes = s.mem.bytes) (l : List α) (s : State) :
    (l.foldl g s).mem.bytes = s.mem.bytes := by
  induction l generalizing s with
  | nil => rfl
  | cons x xs ih => rw [List.foldl_cons, ih, hg]

@[simp] theorem targeted_bytes (s b r) : (targeted s b r).mem.bytes = s.mem.bytes := by
  unfold targeted
  dsimp only
  split <;> rfl

@[simp] theorem activate_bytes (s off) : (activate s off).mem.bytes = s.mem.bytes := by
  unfold activate
  dsimp only
  split
  · rfl
  · rw [targeted_bytes]; rfl

@[simp] theorem issueDue_bytes (s b) : (issueDue s b).mem.bytes = s.mem.bytes :=
  foldl_bytes _ (fun s x => targeted_bytes s b x) _ s

@[simp] theorem lineAccess_bytes (w ch s o) : (lineAccess w ch s o).mem.bytes = s.mem.bytes := by
  have h := foldl_bytes activate activate_bytes (deviceWrites w ch s.mem o) s
  unfold lineAccess
  split
  · rw [← h]
    show (if w then _ else _ : Mem).bytes = _
    split <;> simp
  · split
    · exact activate_bytes s o
    · rfl

@[simp] theorem cacheAccess_bytes (s w ch off n) : (cacheAccess s w ch off n).mem.bytes = s.mem.bytes :=
  foldl_bytes _ (lineAccess_bytes w ch) _ s

/-! ### Reads after writes -/

theorem memPut_bytes (s : State) (off : Nat) (bs : List Byte) : (memPut s off bs).mem.bytes = SSetRun 0 s.mem.bytes off bs := by
  show SSetRun 0 (cacheAccess s true 0 off bs.length).mem.bytes off bs = _
  rw [cacheAccess_bytes]

/-- A read after a write of the same range gives the bytes written. -/
theorem memGet_memPut (s : State) (off : Nat) (bs : List Byte) : memGet (memPut s off bs) off bs.length = bs := by
  unfold memGet
  rw [memPut_bytes]
  exact SGetRun_SSetRun_self 0 bs _ off

/-- A write leaves every byte outside its range alone. -/
theorem byte_memPut_outside (s : State) (off : Nat) (bs : List Byte) {a : Nat} (h : a < off ∨ off + bs.length ≤ a) :
    Memory.byte (memPut s off bs).mem a = Memory.byte s.mem a := by
  unfold Memory.byte
  rw [memPut_bytes]
  exact SGet_SSetRun_ne 0 bs _ off h

/-- A cleared range reads as zero, and every other byte as before. -/
theorem byte_clearMem (s : State) (off n a : Nat) :
    Memory.byte (clearMem s off n).mem a = if off ≤ a ∧ a < off + n then 0 else Memory.byte s.mem a := by
  have h := SGet_filter (0 : Byte) (fun k => !(decide (off ≤ k) && decide (k < off + n))) s.mem.bytes a
  show SGet 0 (s.mem.bytes.filter _) a = _
  rw [h]
  by_cases h1 : off ≤ a <;> by_cases h2 : a < off + n <;> simp [h1, h2, Memory.byte]

/-! ### Every operation on local memory keeps its canonical form -/

theorem memPut_canon (off bs) (h : Memory.wf s.mem = true) : Memory.wf (memPut s off bs).mem = true := by
  unfold Memory.wf
  rw [memPut_bytes]
  exact SWf_SSetRun 0 bs _ off h

theorem clearMem_canon (off n) (h : Memory.wf s.mem = true) : Memory.wf (clearMem s off n).mem = true :=
  SWf_filter 0 _ _ h

theorem clearMem_within {b s1 a2 a3} (hf : .mem ∈ fs) (h : Within fs b s1) : Within fs b (clearMem s1 a2 a3) :=
  { h with mem := .inl hf, canon := fun a => clearMem_canon a2 a3 (h.canon a) }

theorem memStore_within {b s1 a2 a3} (hf : .mem ∈ fs) (h : Within fs b s1) : Within fs b (memStore s1 a2 a3) := by
  unfold memStore
  exact modMem_within_wf _ hf h (fun a => SWf_SSetRun 0 a3 _ a2 a)

theorem markLost_within {b s1 a2 a3} (hf : .mem ∈ fs) (h : Within fs b s1) : Within fs b (markLost s1 a2 a3) :=
  modMem_within _ hf h rfl

theorem targeted_within {b s1 a2 a3} (hf : .mem ∈ fs) (h : Within fs b s1) : Within fs b (targeted s1 a2 a3) := by
  unfold targeted
  dsimp only
  split
  · exact h
  · exact modMem_within _ hf h rfl

theorem activate_within {b s1 a2} (hf : .mem ∈ fs) (h : Within fs b s1) : Within fs b (activate s1 a2) := by
  unfold activate
  exact ite_within (modMem_within _ hf h rfl) (targeted_within hf (modMem_within _ hf (modMem_within _ hf h rfl) rfl))

theorem issueDue_within {b s1 a2} (hf : .mem ∈ fs) (h : Within fs b s1) : Within fs b (issueDue s1 a2) :=
  foldl_within _ _ h (fun _ _ h => targeted_within hf h)

theorem lineAccess_within {b s1 a1 a2 a4} (hf : .mem ∈ fs) (h : Within fs b s1) : Within fs b (lineAccess a1 a2 s1 a4) := by
  unfold lineAccess
  refine ite_within (modMem_within _ hf (foldl_within _ _ h (fun _ _ h => activate_within hf h)) ?_) (ite_within (activate_within hf h) h)
  split <;> simp

theorem cacheAccess_within {b s1 a2 a3 a4 a5} (hf : .mem ∈ fs) (h : Within fs b s1) : Within fs b (cacheAccess s1 a2 a3 a4 a5) :=
  foldl_within _ _ h (fun _ _ h => lineAccess_within hf h)

theorem clearSlice_within {b s1 a2} (hf : .mem ∈ fs) (h : Within fs b s1) : Within fs b (clearSlice s1 a2) :=
  modMem_within _ hf h rfl

theorem localWrite_within {b s1 a2 a3 a4} (hf : .mem ∈ fs) (h : Within fs b s1) : Within fs b (localWrite s1 a2 a3 a4) :=
  memStore_within hf (cacheAccess_within hf h)

theorem memPut_within {b s1} (off bs) (hf : .mem ∈ fs) (h : Within fs b s1) : Within fs b (memPut s1 off bs) := localWrite_within hf h

theorem memTouch_within {b s1 a2 a3} (hf : .mem ∈ fs) (h : Within fs b s1) : Within fs b (memTouch s1 a2 a3) := cacheAccess_within hf h

theorem State.reset_memory : Memory.wf State.reset.mem = true := rfl

end Sys2Proof.Machine
end

