-- ==== Sys2Proof/Laws/FramesCore.lean ====
section
/-! SUPPORT. What each operation of Machine/(Ops, Records, Engine, Images).lean may touch: one lemma for each. -/

set_option Elab.async false
set_option linter.unusedTactic false
set_option linter.unreachableTactic false

namespace Sys2Proof.Machine

theorem modRte_within {fs : List Field} {b : State} {s1 a2 a3}
    (m5 : .rtes ∈ fs)
    (h1 : Within fs b s1) : Within fs b (modRte s1 a2 a3) := by
  unfold modRte
  repeat' (first
    | with_reducible intro _ | with_reducible assumption | with_reducible apply setRte_within | split | dsimp only)

theorem modCore_within {fs : List Field} {b : State} {s1 a2 a3}
    (m10 : .eng ∈ fs)
    (h1 : Within fs b s1) : Within fs b (modCore s1 a2 a3) := by
  unfold modCore
  repeat' (first
    | with_reducible intro _ | with_reducible assumption | with_reducible apply setCore_within | split | dsimp only)

theorem setSE_within {fs : List Field} {b : State} {s1 a2 a3 a4}
    (m10 : .eng ∈ fs)
    (h1 : Within fs b s1) : Within fs b (setSE s1 a2 a3 a4) := by
  unfold setSE
  repeat' (first
    | with_reducible intro _ | with_reducible assumption | with_reducible apply modCore_within | split | dsimp only)

theorem modSE_within {fs : List Field} {b : State} {s1 a2 a3 a4}
    (m10 : .eng ∈ fs)
    (h1 : Within fs b s1) : Within fs b (modSE s1 a2 a3 a4) := by
  unfold modSE
  repeat' (first
    | with_reducible intro _ | with_reducible assumption | with_reducible apply setSE_within | split | dsimp only)

theorem drawFree_within {fs : List Field} {b : State} {s1}
    (m2 : .freeCtr ∈ fs)
    (h1 : Within fs b s1) : Within fs b (drawFree s1).2 := by
  unfold drawFree
  repeat' (first
    | with_reducible intro _ | with_reducible assumption | with_reducible apply spend_within | split | dsimp only)

theorem hostWrite_within {fs : List Field} {b : State} {s1 a2 a3 a4}
    (m3 : .host ∈ fs)
    (h1 : Within fs b s1) : Within fs b (hostWrite s1 a2 a3 a4) := by
  unfold hostWrite
  repeat' (first
    | with_reducible intro _ | with_reducible assumption | with_reducible refine modHost_within _ ?_ ?_ | split | dsimp only)

theorem sendVec_within {fs : List Field} {b : State} {s1 a2 a3}
    (m3 : .host ∈ fs)
    (h1 : Within fs b s1) : Within fs b (sendVec s1 a2 a3) := by
  unfold sendVec
  repeat' (first
    | with_reducible intro _ | with_reducible assumption | with_reducible apply ite_within
    | with_reducible apply hostWrite_within | with_reducible apply modFn_within | split | dsimp only)

theorem setErr_within {fs : List Field} {b : State} {s1 a2 a3}
    (m3 : .host ∈ fs)
    (h1 : Within fs b s1) : Within fs b (setErr s1 a2 a3) := by
  unfold setErr
  repeat' (first
    | with_reducible intro _ | with_reducible assumption | with_reducible apply ite_within
    | with_reducible apply sendVec_within | with_reducible apply modFn_within | split | dsimp only)

theorem setErrCh_within {fs : List Field} {b : State} {s1 a2 a3 a4}
    (m3 : .host ∈ fs)
    (h1 : Within fs b s1) : Within fs b (setErrCh s1 a2 a3 a4) := by
  unfold setErrCh
  repeat' (first
    | with_reducible intro _ | with_reducible assumption | with_reducible apply setErr_within
    | with_reducible apply modFn_within | split | dsimp only)

theorem modRing_within {fs : List Field} {b : State} {s1 a2 a3 a4 a5}
    (m3 : .host ∈ fs)
    (h1 : Within fs b s1) : Within fs b (modRing s1 a2 a3 a4 a5) := by
  unfold modRing
  repeat' (first
    | with_reducible intro _ | with_reducible assumption | with_reducible refine modHost_within _ ?_ ?_ | split | dsimp only)

theorem signalRing_within {fs : List Field} {b : State} {s1 a2 a3 a4}
    (m3 : .host ∈ fs)
    (h1 : Within fs b s1) : Within fs b (signalRing s1 a2 a3 a4) := by
  unfold signalRing
  repeat' (first
    | with_reducible intro _ | with_reducible assumption | with_reducible apply ite_within
    | with_reducible apply sendVec_within | with_reducible apply modRing_within | split | dsimp only)

theorem ringWrite_within {fs : List Field} {b : State} {s1 a2 a3 a4 a5}
    (m3 : .host ∈ fs)
    (h1 : Within fs b s1) : Within fs b (ringWrite s1 a2 a3 a4 a5) := by
  unfold ringWrite
  repeat' (first
    | with_reducible intro _ | with_reducible assumption | with_reducible apply ite_within
    | with_reducible apply hostWrite_within | with_reducible apply signalRing_within | with_reducible apply modRing_within
    | split | dsimp only)

theorem dueComp_within {fs : List Field} {b : State} {s1 a2}
    (m3 : .host ∈ fs)
    (h1 : Within fs b s1) : Within fs b (dueComp s1 a2) := by
  unfold dueComp
  repeat' (first
    | with_reducible intro _ | with_reducible assumption | with_reducible refine modHost_within _ ?_ ?_ | split | dsimp only)

theorem dropDesc_within {fs : List Field} {b : State} {s1 a2}
    (m3 : .host ∈ fs)
    (h1 : Within fs b s1) : Within fs b (dropDesc s1 a2) := by
  unfold dropDesc
  repeat' (first
    | with_reducible intro _ | with_reducible assumption | with_reducible refine modHost_within _ ?_ ?_ | split | dsimp only)

theorem startCmd_within {fs : List Field} {b : State} {s1 a2 a3}
    (m3 : .host ∈ fs)
    (h1 : Within fs b s1) : Within fs b (startCmd s1 a2 a3) := by
  unfold startCmd
  repeat' (first
    | with_reducible intro _ | with_reducible assumption | with_reducible refine modHost_within _ ?_ ?_ | split | dsimp only)

theorem modCmd_within {fs : List Field} {b : State} {s1 a2 a3}
    (m3 : .host ∈ fs)
    (h1 : Within fs b s1) : Within fs b (modCmd s1 a2 a3) := by
  unfold modCmd
  repeat' (first
    | with_reducible intro _ | with_reducible assumption | with_reducible refine modHost_within _ ?_ ?_ | split | dsimp only)

theorem endCmd_within {fs : List Field} {b : State} {s1 a2 a3}
    (m3 : .host ∈ fs)
    (h1 : Within fs b s1) : Within fs b (endCmd s1 a2 a3) := by
  unfold endCmd
  repeat' (first
    | with_reducible intro _ | with_reducible assumption | with_reducible apply ite_within
    | with_reducible refine modHost_within _ ?_ ?_ | with_reducible apply dueComp_within | split | dsimp only)

theorem writeReport_within {fs : List Field} {b : State} {s1 a2 a3 a4}
    (m3 : .host ∈ fs)
    (h1 : Within fs b s1) : Within fs b (writeReport s1 a2 a3 a4) := by
  unfold writeReport
  repeat' (first
    | with_reducible intro _ | with_reducible assumption | with_reducible apply ite_within
    | with_reducible apply hostWrite_within | split | dsimp only)

theorem endCmdSt_within {fs : List Field} {b : State} {s1 a2 a3}
    (m3 : .host ∈ fs)
    (h1 : Within fs b s1) : Within fs b (endCmdSt s1 a2 a3) := by
  unfold endCmdSt
  repeat' (first
    | with_reducible intro _ | with_reducible assumption | with_reducible apply ite_within
    | with_reducible apply endCmd_within | with_reducible apply writeReport_within | split | dsimp only)

theorem killCmd_within {fs : List Field} {b : State} {s1 a2}
    (m3 : .host ∈ fs)
    (h1 : Within fs b s1) : Within fs b (killCmd s1 a2) := by
  unfold killCmd
  repeat' (first
    | with_reducible intro _ | with_reducible assumption | with_reducible refine modHost_within _ ?_ ?_ | split | dsimp only)

theorem logFault_within {fs : List Field} {b : State} {s1 a2}
    (m9 : .pew ∈ fs)
    (h1 : Within fs b s1) : Within fs b (logFault s1 a2) := by
  unfold logFault
  repeat' (first
    | with_reducible intro _ | with_reducible assumption | with_reducible apply modPew_within | split | dsimp only)

theorem reportError_within {fs : List Field} {b : State} {s1 a2 a3 a4 a5}
    (m9 : .pew ∈ fs) (m10 : .eng ∈ fs)
    (h1 : Within fs b s1) : Within fs b (reportError s1 a2 a3 a4 a5) := by
  unfold reportError
  repeat' (first
    | with_reducible intro _ | with_reducible assumption | with_reducible apply logFault_within
    | with_reducible apply modEng_within | split | dsimp only)

theorem failReq_within {fs : List Field} {b : State} {s1 a2 a3 a4}
    (m5 : .rtes ∈ fs)
    (h1 : Within fs b s1) : Within fs b (failReq s1 a2 a3 a4) := by
  unfold failReq
  repeat' (first
    | with_reducible intro _ | with_reducible assumption | with_reducible apply ite_within
    | with_reducible apply modRte_within | split | dsimp only)

theorem tinSend_within {fs : List Field} {b : State} {s1 a2}
    (m10 : .eng ∈ fs)
    (h1 : Within fs b s1) : Within fs b (tinSend s1 a2) := by
  unfold tinSend
  repeat' (first
    | with_reducible intro _ | with_reducible assumption | with_reducible apply modEng_within | split | dsimp only)

theorem tinDrop_within {fs : List Field} {b : State} {s1 a2}
    (m10 : .eng ∈ fs)
    (h1 : Within fs b s1) : Within fs b (tinDrop s1 a2) := by
  unfold tinDrop
  repeat' (first
    | with_reducible intro _ | with_reducible assumption | with_reducible apply ite_within
    | with_reducible apply modEng_within | with_reducible apply modCob_within | split | dsimp only)

theorem notice_within {fs : List Field} {b : State} {s1 a2 a3 a4}
    (m10 : .eng ∈ fs)
    (h1 : Within fs b s1) : Within fs b (notice s1 a2 a3 a4) := by
  unfold notice
  repeat' (first
    | with_reducible intro _ | with_reducible assumption | with_reducible apply tinSend_within | split | dsimp only)

theorem tinBad_within {fs : List Field} {b : State} {s1 a2}
    (m9 : .pew ∈ fs) (m10 : .eng ∈ fs)
    (h1 : Within fs b s1) : Within fs b (tinBad s1 a2) := by
  unfold tinBad
  repeat' (first
    | with_reducible intro _ | with_reducible assumption | with_reducible apply ite_within
    | with_reducible apply tinDrop_within | with_reducible apply reportError_within | split | dsimp only)

theorem endEpoch_within {fs : List Field} {b : State} {s1 a2 a3}
    (m4 : .parts ∈ fs)
    (h1 : Within fs b s1) : Within fs b (endEpoch s1 a2 a3) := by
  unfold endEpoch
  repeat' (first
    | with_reducible intro _ | with_reducible assumption | with_reducible apply ite_within
    | with_reducible apply modPart_within | split | dsimp only)

theorem appendRecord_within {fs : List Field} {b : State} {s1 a2}
    (m4 : .parts ∈ fs) (m5 : .rtes ∈ fs)
    (h1 : Within fs b s1) : Within fs b (appendRecord s1 a2) := by
  unfold appendRecord
  repeat' (first
    | with_reducible intro _ | with_reducible assumption | with_reducible apply ite_within
    | with_reducible apply modRte_within | with_reducible apply modPart_within | with_reducible apply endEpoch_within | split
    | dsimp only)

theorem closeReq_within {fs : List Field} {b : State} {s1 a2 a3 a4 a5}
    (m5 : .rtes ∈ fs)
    (h1 : Within fs b s1) : Within fs b (closeReq s1 a2 a3 a4 a5) := by
  unfold closeReq
  repeat' (first
    | with_reducible intro _ | with_reducible assumption | with_reducible apply modRte_within | split | dsimp only)

theorem freeReq_within {fs : List Field} {b : State} {s1 a2}
    (m3 : .host ∈ fs) (m5 : .rtes ∈ fs)
    (h1 : Within fs b s1) : Within fs b (freeReq s1 a2) := by
  unfold freeReq
  repeat' (first
    | with_reducible intro _ | with_reducible assumption | with_reducible refine modHost_within _ ?_ ?_
    | with_reducible apply setRte_within | split | dsimp only)

theorem raiseInt_within {fs : List Field} {b : State} {s1 a2 a3}
    (m10 : .eng ∈ fs)
    (h1 : Within fs b s1) : Within fs b (raiseInt s1 a2 a3) := by
  unfold raiseInt
  repeat' (first
    | with_reducible intro _ | with_reducible assumption | with_reducible apply modCob_within | split | dsimp only)

theorem seStop_within {fs : List Field} {b : State} {s1 a2 a3 a4}
    (m10 : .eng ∈ fs)
    (h1 : Within fs b s1) : Within fs b (seStop s1 a2 a3 a4) := by
  unfold seStop
  repeat' (first
    | with_reducible intro _ | with_reducible assumption | with_reducible apply notice_within
    | with_reducible apply modSE_within | split | dsimp only)

theorem seStart_within {fs : List Field} {b : State} {s1 a2 a3}
    (m10 : .eng ∈ fs)
    (h1 : Within fs b s1) : Within fs b (seStart s1 a2 a3) := by
  unfold seStart
  repeat' (first
    | with_reducible intro _ | with_reducible assumption | with_reducible apply ite_within | with_reducible apply modSE_within
    | split | dsimp only)

theorem seRelease_within {fs : List Field} {b : State} {s1 a2}
    (m10 : .eng ∈ fs)
    (h1 : Within fs b s1) : Within fs b (seRelease s1 a2) := by
  unfold seRelease
  repeat' (first
    | with_reducible intro _ | with_reducible assumption | with_reducible apply ite_within | with_reducible apply foldl_within
    | with_reducible apply foldl_fst_within | with_reducible apply foldl_snd_within | with_reducible apply seStart_within
    | split | dsimp only)

theorem releaseSector_within {fs : List Field} {b : State} {s1 a2}
    (m10 : .eng ∈ fs)
    (h1 : Within fs b s1) : Within fs b (releaseSector s1 a2) := by
  unfold releaseSector
  repeat' (first
    | with_reducible intro _ | with_reducible assumption | with_reducible apply foldl_within
    | with_reducible apply foldl_fst_within | with_reducible apply foldl_snd_within | with_reducible apply seRelease_within
    | split | dsimp only)

theorem ctxFlags_within {fs : List Field} {b : State} {s1 a2 a3 a4}
    (m4 : .parts ∈ fs)
    (h1 : Within fs b s1) : Within fs b (ctxFlags s1 a2 a3 a4) := by
  unfold ctxFlags
  repeat' (first
    | with_reducible intro _ | with_reducible assumption | with_reducible apply ite_within
    | with_reducible apply modPart_within | split | dsimp only)

theorem clearSector_within {fs : List Field} {b : State} {s1 a2}
    (m4 : .parts ∈ fs) (m10 : .eng ∈ fs)
    (h1 : Within fs b s1) : Within fs b (clearSector s1 a2) := by
  unfold clearSector
  repeat' (first
    | with_reducible intro _ | with_reducible assumption | with_reducible apply ite_within | with_reducible apply foldl_within
    | with_reducible apply foldl_fst_within | with_reducible apply foldl_snd_within | with_reducible apply ctxFlags_within
    | with_reducible apply modEng_within | split | dsimp only)

theorem clearPlaces_within {fs : List Field} {b : State} {s1 a2}
    (m4 : .parts ∈ fs) (m10 : .eng ∈ fs)
    (h1 : Within fs b s1) : Within fs b (clearPlaces s1 a2) := by
  unfold clearPlaces
  repeat' (first
    | with_reducible intro _ | with_reducible assumption | with_reducible apply foldl_within
    | with_reducible apply foldl_fst_within | with_reducible apply foldl_snd_within | with_reducible apply clearSector_within
    | with_reducible apply modEng_within | split | dsimp only)

theorem abortCores_within {fs : List Field} {b : State} {s1 a2}
    (m10 : .eng ∈ fs)
    (h1 : Within fs b s1) : Within fs b (abortCores s1 a2) := by
  unfold abortCores
  repeat' (first
    | with_reducible intro _ | with_reducible assumption | with_reducible apply modEng_within | split | dsimp only)

theorem freeCtr_within {fs : List Field} {b : State} {s1 a2}
    (m10 : .eng ∈ fs)
    (h1 : Within fs b s1) : Within fs b (freeCtr s1 a2) := by
  unfold freeCtr
  repeat' (first
    | with_reducible intro _ | with_reducible assumption | with_reducible apply foldl_within
    | with_reducible apply foldl_fst_within | with_reducible apply foldl_snd_within | with_reducible apply tinSend_within
    | with_reducible apply setCtr_within | split | dsimp only)

theorem freeCtrs_within {fs : List Field} {b : State} {s1 a2 a3}
    (m10 : .eng ∈ fs)
    (h1 : Within fs b s1) : Within fs b (freeCtrs s1 a2 a3) := by
  unfold freeCtrs
  repeat' (first
    | with_reducible intro _ | with_reducible assumption | with_reducible apply foldl_within
    | with_reducible apply foldl_fst_within | with_reducible apply foldl_snd_within | with_reducible apply freeCtr_within
    | split | dsimp only)

theorem dropLayers_within {fs : List Field} {b : State} {s1 a2}
    (m10 : .eng ∈ fs)
    (h1 : Within fs b s1) : Within fs b (dropLayers s1 a2) := by
  unfold dropLayers
  repeat' (first
    | with_reducible intro _ | with_reducible assumption | with_reducible apply modEng_within | split | dsimp only)

theorem tearDown_within {fs : List Field} {b : State} {s1 a2 a3}
    (m4 : .parts ∈ fs) (m10 : .eng ∈ fs)
    (h1 : Within fs b s1) : Within fs b (tearDown s1 a2 a3) := by
  unfold tearDown
  repeat' (first
    | with_reducible intro _ | with_reducible assumption | with_reducible apply abortCores_within
    | with_reducible apply freeCtrs_within | with_reducible apply modEng_within | with_reducible apply clearPlaces_within
    | split | dsimp only)

theorem faultPart_within {fs : List Field} {b : State} {s1 a2 a3}
    (m3 : .host ∈ fs) (m4 : .parts ∈ fs) (m5 : .rtes ∈ fs) (m10 : .eng ∈ fs)
    (h1 : Within fs b s1) : Within fs b (faultPart s1 a2 a3) := by
  unfold faultPart
  repeat' (first
    | with_reducible intro _ | with_reducible assumption | with_reducible apply ite_within | with_reducible apply foldl_within
    | with_reducible apply foldl_fst_within | with_reducible apply foldl_snd_within | with_reducible apply clearPlaces_within
    | with_reducible apply abortCores_within | with_reducible apply dropLayers_within | with_reducible apply freeCtrs_within
    | with_reducible apply modPart_within | with_reducible apply closeReq_within | with_reducible apply appendRecord_within
    | with_reducible refine modHost_within _ ?_ ?_ | with_reducible apply endEpoch_within | split | dsimp only)

theorem discardInterval_within {fs : List Field} {b : State} {s1 a2}
    (m3 : .host ∈ fs) (m4 : .parts ∈ fs) (m5 : .rtes ∈ fs) (m10 : .eng ∈ fs)
    (h1 : Within fs b s1) : Within fs b (discardInterval s1 a2) := by
  unfold discardInterval
  repeat' (first
    | with_reducible intro _ | with_reducible assumption | with_reducible apply ite_within | with_reducible apply foldl_within
    | with_reducible apply foldl_fst_within | with_reducible apply foldl_snd_within | with_reducible apply clearPlaces_within
    | with_reducible apply abortCores_within | with_reducible apply dropLayers_within | with_reducible apply freeCtrs_within
    | with_reducible apply modPart_within | with_reducible apply faultPart_within | split | dsimp only)

theorem failCtx_within {fs : List Field} {b : State} {s1 a2 a3 a4}
    (m3 : .host ∈ fs) (m4 : .parts ∈ fs) (m5 : .rtes ∈ fs)
    (h1 : Within fs b s1) : Within fs b (failCtx s1 a2 a3 a4) := by
  unfold failCtx
  repeat' (first
    | with_reducible intro _ | with_reducible assumption | with_reducible apply foldl_within
    | with_reducible apply foldl_fst_within | with_reducible apply foldl_snd_within | with_reducible apply failReq_within
    | with_reducible apply writeReport_within | with_reducible apply modPart_within | with_reducible apply endCmd_within
    | split | dsimp only)

theorem forgetFaults_within {fs : List Field} {b : State} {s1 a2}
    (m5 : .rtes ∈ fs)
    (h1 : Within fs b s1) : Within fs b (forgetFaults s1 a2) := by
  unfold forgetFaults
  repeat' (first
    | with_reducible intro _ | with_reducible assumption | with_reducible apply modRtes_within | split | dsimp only)

theorem programFault_within {fs : List Field} {b : State} {s1 a2 a3 a4 a5 a6}
    (m3 : .host ∈ fs) (m4 : .parts ∈ fs) (m5 : .rtes ∈ fs) (m9 : .pew ∈ fs) (m10 : .eng ∈ fs)
    (h1 : Within fs b s1) : Within fs b (programFault s1 a2 a3 a4 a5 a6) := by
  unfold programFault
  repeat' (first
    | with_reducible intro _ | with_reducible assumption | with_reducible apply logFault_within
    | with_reducible apply tearDown_within | with_reducible apply failCtx_within | with_reducible apply ite_within
    | with_reducible apply modPart_within | split | dsimp only)

theorem coreFault_within {fs : List Field} {b : State} {s1 a2 a3}
    (m3 : .host ∈ fs) (m4 : .parts ∈ fs) (m5 : .rtes ∈ fs) (m9 : .pew ∈ fs) (m10 : .eng ∈ fs)
    (h1 : Within fs b s1) : Within fs b (coreFault s1 a2 a3) := by
  unfold coreFault
  repeat' (first
    | with_reducible intro _ | with_reducible assumption | with_reducible apply notice_within
    | with_reducible apply programFault_within | with_reducible apply modCore_within | split | dsimp only)

theorem failCtxAt_within {fs : List Field} {b : State} {s1 a2 a3 a4 a5}
    (m3 : .host ∈ fs) (m4 : .parts ∈ fs) (m5 : .rtes ∈ fs) (m10 : .eng ∈ fs)
    (h1 : Within fs b s1) : Within fs b (failCtxAt s1 a2 a3 a4 a5) := by
  unfold failCtxAt
  repeat' (first
    | with_reducible intro _ | with_reducible assumption | with_reducible apply foldl_within
    | with_reducible apply foldl_fst_within | with_reducible apply foldl_snd_within | with_reducible apply tearDown_within
    | with_reducible apply failCtx_within | with_reducible apply failReq_within | split | dsimp only)

theorem discardCtx_within {fs : List Field} {b : State} {s1 a2 a3}
    (m3 : .host ∈ fs) (m4 : .parts ∈ fs) (m5 : .rtes ∈ fs) (m10 : .eng ∈ fs)
    (h1 : Within fs b s1) : Within fs b (discardCtx s1 a2 a3) := by
  unfold discardCtx
  repeat' (first
    | with_reducible intro _ | with_reducible assumption | with_reducible apply tearDown_within
    | with_reducible apply ite_within | with_reducible apply modPart_within | with_reducible apply faultPart_within
    | with_reducible apply discardInterval_within | split | dsimp only)

theorem dataLoss_within {fs : List Field} {b : State} {s1 a2 a3 a4}
    (m3 : .host ∈ fs) (m4 : .parts ∈ fs) (m5 : .rtes ∈ fs) (m10 : .eng ∈ fs)
    (h1 : Within fs b s1) : Within fs b (dataLoss s1 a2 a3 a4) := by
  unfold dataLoss
  repeat' (first
    | with_reducible intro _ | with_reducible assumption | with_reducible apply ite_within | with_reducible apply foldl_within
    | with_reducible apply foldl_fst_within | with_reducible apply foldl_snd_within | with_reducible apply faultPart_within
    | with_reducible apply modPart_within | with_reducible apply failCtxAt_within | with_reducible apply failReq_within
    | with_reducible apply discardCtx_within | split | dsimp only)

theorem lostData_within {fs : List Field} {b : State} {s1 a2}
    (m3 : .host ∈ fs) (m4 : .parts ∈ fs) (m5 : .rtes ∈ fs) (m10 : .eng ∈ fs)
    (h1 : Within fs b s1) : Within fs b (lostData s1 a2) := by
  unfold lostData
  repeat' (first
    | with_reducible intro _ | with_reducible assumption | with_reducible apply faultPart_within
    | with_reducible apply dataLoss_within | split | dsimp only)

theorem lineMet_within {fs : List Field} {b : State} {s1 a2 a3}
    (m3 : .host ∈ fs) (m4 : .parts ∈ fs) (m5 : .rtes ∈ fs) (m9 : .pew ∈ fs) (m10 : .eng ∈ fs) (m11 : .mem ∈ fs)
    (h1 : Within fs b s1) : Within fs b (lineMet s1 a2 a3) := by
  unfold lineMet
  repeat' (first
    | with_reducible intro _ | with_reducible assumption | with_reducible apply ite_within | with_reducible apply foldl_within
    | with_reducible apply foldl_fst_within | with_reducible apply foldl_snd_within
    | (with_reducible refine modMem_within _ ‹_› ?_ ?_) | with_reducible rfl | exact putLine_bytes _ _ _ _
    | exact refreshed_bytes _ _ _ | with_reducible apply markLost_within | with_reducible apply reportError_within
    | with_reducible apply lostData_within | split | dsimp only)

end Sys2Proof.Machine
end

