-- ==== Sys2Proof/Laws/FramesArray.lean ====
section
/-! SUPPORT. What each operation of Machine/(Array, Mapping, Layers, Mailbox, Scratch, FabricOps).lean may touch: one lemma for each. -/

set_option Elab.async false
set_option linter.unusedTactic false
set_option linter.unreachableTactic false

namespace Sys2Proof.Machine

theorem freeUnit_within {fs : List Field} {b : State} {s1 a2 a3 a4}
    (m10 : .eng ∈ fs)
    (h1 : Within fs b s1) : Within fs b (freeUnit s1 a2 a3 a4) := by
  unfold freeUnit
  repeat' (first
    | with_reducible intro _ | with_reducible assumption | with_reducible apply ite_within
    | with_reducible apply setCell_within | split | dsimp only)

theorem noteWith_within {fs : List Field} {b : State} {f1 s2 a3 a4 a5 a6}
    (m10 : .eng ∈ fs)
    (h1 : ∀ x0, Within fs b x0 → Within fs b (f1 x0)) (h2 : Within fs b s2) : Within fs b (noteWith f1 s2 a3 a4 a5 a6) := by
  unfold noteWith
  repeat' (first
    | with_reducible intro _ | with_reducible assumption | with_reducible apply h1 | with_reducible apply ite_within
    | with_reducible apply setCell_within | split | dsimp only)

theorem takeLane_within {fs : List Field} {b : State} {s1 a2 a3 a4}
    (m10 : .eng ∈ fs)
    (h1 : Within fs b s1) : Within fs b (takeLane s1 a2 a3 a4) := by
  unfold takeLane
  repeat' (first
    | with_reducible intro _ | with_reducible assumption | with_reducible apply ite_within
    | with_reducible apply noteWith_within | with_reducible apply freeUnit_within | with_reducible apply setCell_within
    | split | dsimp only)

theorem freeSource_within {fs : List Field} {b : State} {s1 a2 a3 a4}
    (m10 : .eng ∈ fs)
    (h1 : Within fs b s1) : Within fs b (freeSource s1 a2 a3 a4) := by
  unfold freeSource
  repeat' (first
    | with_reducible intro _ | with_reducible assumption | with_reducible apply ite_within
    | with_reducible apply modCore_within | with_reducible apply takeLane_within | with_reducible apply freeUnit_within
    | split | dsimp only)

theorem arrayFault_within {fs : List Field} {b : State} {s1 a2 a3}
    (m3 : .host ∈ fs) (m4 : .parts ∈ fs) (m5 : .rtes ∈ fs) (m9 : .pew ∈ fs) (m10 : .eng ∈ fs)
    (h1 : Within fs b s1) : Within fs b (arrayFault s1 a2 a3) := by
  unfold arrayFault
  repeat' (first
    | with_reducible intro _ | with_reducible assumption | with_reducible apply ite_within | with_reducible apply foldl_within
    | with_reducible apply foldl_fst_within | with_reducible apply foldl_snd_within | with_reducible apply modEng_within
    | with_reducible apply raiseInt_within | with_reducible apply programFault_within | split | dsimp only)

theorem execStallTimeout_keeps {fs : List Field} {b : State} {a1 s2}
    (m3 : .host ∈ fs) (m4 : .parts ∈ fs) (m5 : .rtes ∈ fs) (m9 : .pew ∈ fs) (m10 : .eng ∈ fs)
    (h2 : Within fs b s2) : Keeps fs b (execStallTimeout a1 s2) := by
  unfold execStallTimeout
  repeat' (first
    | with_reducible intro _ | with_reducible assumption | with_reducible apply next_keeps | with_reducible apply fault_keeps
    | with_reducible apply whenB_within | with_reducible apply arrayFault_within | split | dsimp only)

theorem progressed_within {fs : List Field} {b : State} {s1 a2 a3}
    (m10 : .eng ∈ fs)
    (h1 : Within fs b s1) : Within fs b (progressed s1 a2 a3) := by
  unfold progressed
  repeat' (first
    | with_reducible intro _ | with_reducible assumption | with_reducible apply modEng_within | split | dsimp only)

theorem noteTaken_within {fs : List Field} {b : State} {s1 a2 a3 a4 a5}
    (m10 : .eng ∈ fs)
    (h1 : Within fs b s1) : Within fs b (noteTaken s1 a2 a3 a4 a5) := by
  unfold noteTaken
  repeat' (first
    | with_reducible intro _ | with_reducible assumption | with_reducible apply noteWith_within
    | with_reducible apply freeSource_within | split | dsimp only)

theorem receive_within {fs : List Field} {b : State} {s1 a2 a3 a4 a5 a6}
    (m3 : .host ∈ fs) (m4 : .parts ∈ fs) (m5 : .rtes ∈ fs) (m9 : .pew ∈ fs) (m10 : .eng ∈ fs)
    (h1 : Within fs b s1) : Within fs b (receive s1 a2 a3 a4 a5 a6) := by
  unfold receive
  repeat' (first
    | with_reducible intro _ | with_reducible assumption | with_reducible apply ite_within
    | with_reducible apply setCell_within | with_reducible apply noteTaken_within | with_reducible apply progressed_within
    | with_reducible apply reportError_within | with_reducible apply arrayFault_within | split | dsimp only)

theorem toPort_within {fs : List Field} {b : State} {s1 a2 a3 a4 a5}
    (m9 : .pew ∈ fs) (m10 : .eng ∈ fs)
    (h1 : Within fs b s1) : Within fs b (toPort s1 a2 a3 a4 a5) := by
  unfold toPort
  repeat' (first
    | with_reducible intro _ | with_reducible assumption | with_reducible apply ite_within
    | with_reducible apply takeLane_within | with_reducible apply progressed_within | with_reducible apply modCore_within
    | with_reducible apply reportError_within | split | dsimp only)

theorem execItemTransfer_keeps {fs : List Field} {b : State} {a1 a2 a3 a4 a5 s6}
    (m3 : .host ∈ fs) (m4 : .parts ∈ fs) (m5 : .rtes ∈ fs) (m9 : .pew ∈ fs) (m10 : .eng ∈ fs)
    (h6 : Within fs b s6) : Keeps fs b (execItemTransfer a1 a2 a3 a4 a5 s6) := by
  unfold execItemTransfer
  repeat' (first
    | with_reducible intro _ | with_reducible assumption | with_reducible apply next_keeps | with_reducible apply ite_keeps
    | with_reducible apply onUnit_keeps | with_reducible apply whenB_within | with_reducible apply ite_within
    | with_reducible apply toPort_within | with_reducible apply receive_within | split | dsimp only)

theorem execHandshakeAnomaly_keeps {fs : List Field} {b : State} {a1 a2 a3 s4}
    (m9 : .pew ∈ fs) (m10 : .eng ∈ fs)
    (h4 : Within fs b s4) : Keeps fs b (execHandshakeAnomaly a1 a2 a3 s4) := by
  unfold execHandshakeAnomaly
  repeat' (first
    | with_reducible intro _ | with_reducible assumption | with_reducible apply next_keeps | with_reducible apply onUnit_keeps
    | with_reducible apply whenB_within | with_reducible apply reportError_within | split | dsimp only)

theorem macFiring_within {fs : List Field} {b : State} {a1 a2 a3 a4 s5}
    (m9 : .pew ∈ fs) (m10 : .eng ∈ fs)
    (h5 : Within fs b s5) : Within fs b (macFiring a1 a2 a3 a4 s5) := by
  unfold macFiring
  repeat' (first
    | with_reducible intro _ | with_reducible assumption | with_reducible apply ite_within
    | with_reducible apply setCell_within | with_reducible apply reportError_within | split | dsimp only)

theorem execMacFiring_keeps {fs : List Field} {b : State} {a1 a2 a3 s4}
    (m9 : .pew ∈ fs) (m10 : .eng ∈ fs)
    (h4 : Within fs b s4) : Keeps fs b (execMacFiring a1 a2 a3 s4) := by
  unfold execMacFiring
  repeat' (first
    | with_reducible intro _ | with_reducible assumption | with_reducible apply next_keeps | with_reducible apply onUnit_keeps
    | with_reducible apply macFiring_within | split | dsimp only)

theorem execMaclFiring_keeps {fs : List Field} {b : State} {a1 a2 a3 s4}
    (m9 : .pew ∈ fs) (m10 : .eng ∈ fs)
    (h4 : Within fs b s4) : Keeps fs b (execMaclFiring a1 a2 a3 s4) := by
  unfold execMaclFiring
  repeat' (first
    | with_reducible intro _ | with_reducible assumption | with_reducible apply next_keeps | with_reducible apply onUnit_keeps
    | with_reducible apply macFiring_within | split | dsimp only)

theorem cellFiring_within {fs : List Field} {b : State} {a1 a2 a3 s4}
    (m10 : .eng ∈ fs)
    (h4 : Within fs b s4) : Within fs b (cellFiring a1 a2 a3 s4) := by
  unfold cellFiring
  repeat' (first
    | with_reducible intro _ | with_reducible assumption | with_reducible apply ite_within
    | with_reducible apply setCell_within | split | dsimp only)

theorem execDelayFiring_keeps {fs : List Field} {b : State} {a1 a2 s3}
    (m10 : .eng ∈ fs)
    (h3 : Within fs b s3) : Keeps fs b (execDelayFiring a1 a2 s3) := by
  unfold execDelayFiring
  repeat' (first
    | with_reducible intro _ | with_reducible assumption | with_reducible apply next_keeps | with_reducible apply onUnit_keeps
    | with_reducible apply cellFiring_within | split | dsimp only)

theorem execTestFiring_keeps {fs : List Field} {b : State} {a1 a2 s3}
    (m10 : .eng ∈ fs)
    (h3 : Within fs b s3) : Keeps fs b (execTestFiring a1 a2 s3) := by
  unfold execTestFiring
  repeat' (first
    | with_reducible intro _ | with_reducible assumption | with_reducible apply next_keeps | with_reducible apply onUnit_keeps
    | with_reducible apply cellFiring_within | split | dsimp only)

theorem execSteerFiring_keeps {fs : List Field} {b : State} {a1 a2 s3}
    (m10 : .eng ∈ fs)
    (h3 : Within fs b s3) : Keeps fs b (execSteerFiring a1 a2 s3) := by
  unfold execSteerFiring
  repeat' (first
    | with_reducible intro _ | with_reducible assumption | with_reducible apply next_keeps | with_reducible apply onUnit_keeps
    | with_reducible apply cellFiring_within | split | dsimp only)

theorem execMergeFiring_keeps {fs : List Field} {b : State} {a1 a2 s3}
    (m10 : .eng ∈ fs)
    (h3 : Within fs b s3) : Keeps fs b (execMergeFiring a1 a2 s3) := by
  unfold execMergeFiring
  repeat' (first
    | with_reducible intro _ | with_reducible assumption | with_reducible apply next_keeps | with_reducible apply onUnit_keeps
    | with_reducible apply cellFiring_within | split | dsimp only)

theorem execGateFiring_keeps {fs : List Field} {b : State} {a1 a2 s3}
    (m10 : .eng ∈ fs)
    (h3 : Within fs b s3) : Keeps fs b (execGateFiring a1 a2 s3) := by
  unfold execGateFiring
  repeat' (first
    | with_reducible intro _ | with_reducible assumption | with_reducible apply next_keeps | with_reducible apply onUnit_keeps
    | with_reducible apply cellFiring_within | split | dsimp only)

theorem execRepeatFiring_keeps {fs : List Field} {b : State} {a1 a2 s3}
    (m10 : .eng ∈ fs)
    (h3 : Within fs b s3) : Keeps fs b (execRepeatFiring a1 a2 s3) := by
  unfold execRepeatFiring
  repeat' (first
    | with_reducible intro _ | with_reducible assumption | with_reducible apply next_keeps | with_reducible apply onUnit_keeps
    | with_reducible apply cellFiring_within | split | dsimp only)

theorem execCountFiring_keeps {fs : List Field} {b : State} {a1 a2 s3}
    (m10 : .eng ∈ fs)
    (h3 : Within fs b s3) : Keeps fs b (execCountFiring a1 a2 s3) := by
  unfold execCountFiring
  repeat' (first
    | with_reducible intro _ | with_reducible assumption | with_reducible apply next_keeps | with_reducible apply onUnit_keeps
    | with_reducible apply cellFiring_within | split | dsimp only)

theorem tryPlace_within {fs : List Field} {b : State} {s1 a2 a3}
    (m10 : .eng ∈ fs)
    (h1 : Within fs b s1) : Within fs b (tryPlace s1 a2 a3) := by
  unfold tryPlace
  repeat' (first
    | with_reducible intro _ | with_reducible assumption | with_reducible apply ite_within
    | with_reducible apply modEng_within | split | dsimp only)

theorem newPlace_within {fs : List Field} {b : State} {s1 a2 a3 a4 a5}
    (m10 : .eng ∈ fs)
    (h1 : Within fs b s1) : Within fs b (newPlace s1 a2 a3 a4 a5) := by
  unfold newPlace
  repeat' (first
    | with_reducible intro _ | with_reducible assumption | with_reducible apply tryPlace_within
    | with_reducible apply modEng_within | split | dsimp only)

theorem execVariantPlace_keeps {fs : List Field} {b : State} {a1 a2 a3 a4 s5}
    (m10 : .eng ∈ fs)
    (h5 : Within fs b s5) : Keeps fs b (execVariantPlace a1 a2 a3 a4 s5) := by
  unfold execVariantPlace
  repeat' (first
    | with_reducible intro _ | with_reducible assumption | with_reducible apply next_keeps | with_reducible apply whenB_within
    | with_reducible apply newPlace_within | split | dsimp only)

theorem execPlacementResume_keeps {fs : List Field} {b : State} {a1 s2}
    (m10 : .eng ∈ fs)
    (h2 : Within fs b s2) : Keeps fs b (execPlacementResume a1 s2) := by
  unfold execPlacementResume
  repeat' (first
    | with_reducible intro _ | with_reducible assumption | with_reducible apply next_keeps
    | with_reducible apply tryPlace_within | split | dsimp only)

theorem execSectorLoad_keeps {fs : List Field} {b : State} {a1 s2}
    (m4 : .parts ∈ fs) (m10 : .eng ∈ fs)
    (h2 : Within fs b s2) : Keeps fs b (execSectorLoad a1 s2) := by
  unfold execSectorLoad
  repeat' (first
    | with_reducible intro _ | with_reducible assumption | with_reducible apply next_keeps | with_reducible apply onUnit_keeps
    | with_reducible apply modEng_within | with_reducible apply clearSector_within | split | dsimp only)

theorem loadCells_within {fs : List Field} {b : State} {s1 a2 a3}
    (m10 : .eng ∈ fs)
    (h1 : Within fs b s1) : Within fs b (loadCells s1 a2 a3) := by
  unfold loadCells
  repeat' (first
    | with_reducible intro _ | with_reducible assumption | with_reducible apply foldl_within
    | with_reducible apply foldl_fst_within | with_reducible apply foldl_snd_within | with_reducible apply setCell_within
    | split | dsimp only)

theorem execSectorLoadDone_keeps {fs : List Field} {b : State} {a1 s2}
    (m3 : .host ∈ fs) (m4 : .parts ∈ fs) (m5 : .rtes ∈ fs) (m9 : .pew ∈ fs) (m10 : .eng ∈ fs)
    (h2 : Within fs b s2) : Keeps fs b (execSectorLoadDone a1 s2) := by
  unfold execSectorLoadDone
  repeat' (first
    | with_reducible intro _ | with_reducible assumption | with_reducible apply next_keeps | with_reducible apply ite_keeps
    | with_reducible apply onUnit_keeps | with_reducible apply fault_keeps | with_reducible apply ite_within
    | with_reducible apply releaseSector_within | with_reducible apply modEng_within | with_reducible apply loadCells_within
    | with_reducible apply clearPlaces_within | with_reducible apply logFault_within | with_reducible apply dataLoss_within
    | split | dsimp only)

theorem execSectorClear_keeps {fs : List Field} {b : State} {a1 s2}
    (m4 : .parts ∈ fs) (m10 : .eng ∈ fs)
    (h2 : Within fs b s2) : Keeps fs b (execSectorClear a1 s2) := by
  unfold execSectorClear
  repeat' (first
    | with_reducible intro _ | with_reducible assumption | with_reducible apply next_keeps | with_reducible apply onUnit_keeps
    | with_reducible apply whenB_within | with_reducible apply clearSector_within | with_reducible apply modEng_within | split
    | dsimp only)

theorem failRun_within {fs : List Field} {b : State} {s1 a2 a3 a4}
    (m3 : .host ∈ fs) (m4 : .parts ∈ fs) (m5 : .rtes ∈ fs) (m10 : .eng ∈ fs)
    (h1 : Within fs b s1) : Within fs b (failRun s1 a2 a3 a4) := by
  unfold failRun
  repeat' (first
    | with_reducible intro _ | with_reducible assumption | with_reducible apply writeReport_within
    | with_reducible apply failCtxAt_within | with_reducible apply endCmd_within | split | dsimp only)

theorem writeRows_within {fs : List Field} {b : State} {s1 a2 a3 a4}
    (m11 : .mem ∈ fs)
    (h1 : Within fs b s1) : Within fs b (writeRows s1 a2 a3 a4) := by
  unfold writeRows
  repeat' (first
    | with_reducible intro _ | with_reducible assumption | with_reducible apply ite_within | with_reducible apply foldl_within
    | with_reducible apply foldl_fst_within | with_reducible apply foldl_snd_within | with_reducible apply memPut_within
    | split | dsimp only)

theorem joinFlags_within {fs : List Field} {b : State} {s1 a2 a3 a4}
    (m4 : .parts ∈ fs)
    (h1 : Within fs b s1) : Within fs b (joinFlags s1 a2 a3 a4) := by
  unfold joinFlags
  repeat' (first
    | with_reducible intro _ | with_reducible assumption | with_reducible apply foldl_within
    | with_reducible apply foldl_fst_within | with_reducible apply foldl_snd_within | with_reducible apply ctxFlags_within
    | with_reducible apply modPart_within | split | dsimp only)

theorem readWeights_within {fs : List Field} {b : State} {s1 a2 a3 a4}
    (m11 : .mem ∈ fs)
    (h1 : Within fs b s1) : Within fs b (readWeights s1 a2 a3 a4) := by
  unfold readWeights
  repeat' (first
    | with_reducible intro _ | with_reducible assumption | with_reducible apply ite_within | with_reducible apply foldl_within
    | with_reducible apply foldl_fst_within | with_reducible apply foldl_snd_within | with_reducible apply cacheAccess_within
    | split | dsimp only)

theorem readVectors_within {fs : List Field} {b : State} {s1 a2 a3}
    (m11 : .mem ∈ fs)
    (h1 : Within fs b s1) : Within fs b (readVectors s1 a2 a3) := by
  unfold readVectors
  repeat' (first
    | with_reducible intro _ | with_reducible assumption | with_reducible apply foldl_within
    | with_reducible apply foldl_fst_within | with_reducible apply foldl_snd_within | with_reducible apply memTouch_within
    | split | dsimp only)

theorem copperRun_within {fs : List Field} {b : State} {s1 a2 a3 a4}
    (m4 : .parts ∈ fs) (m10 : .eng ∈ fs) (m11 : .mem ∈ fs)
    (h1 : Within fs b s1) : Within fs b (copperRun s1 a2 a3 a4) := by
  unfold copperRun
  repeat' (first
    | with_reducible intro _ | with_reducible assumption | with_reducible apply foldl_within
    | with_reducible apply foldl_fst_within | with_reducible apply foldl_snd_within | with_reducible apply readWeights_within
    | with_reducible apply readVectors_within | with_reducible apply modEng_within | with_reducible apply joinFlags_within
    | with_reducible apply writeRows_within | split | dsimp only)

theorem kvRefused_within {fs : List Field} {b : State} {s1 a2 a3 a4}
    (m2 : .freeCtr ∈ fs) (m5 : .rtes ∈ fs) (m9 : .pew ∈ fs)
    (h1 : Within fs b s1) : Within fs b (kvRefused s1 a2 a3 a4) := by
  unfold kvRefused
  repeat' (first
    | with_reducible intro _ | with_reducible assumption | with_reducible apply ite_within
    | with_reducible apply drawFree_within | with_reducible apply failReq_within | with_reducible apply logFault_within
    | split | dsimp only)

theorem kvWrite_within {fs : List Field} {b : State} {s1 a2 a3 a4 a5 a6}
    (m2 : .freeCtr ∈ fs) (m5 : .rtes ∈ fs) (m9 : .pew ∈ fs) (m11 : .mem ∈ fs)
    (h1 : Within fs b s1) : Within fs b (kvWrite s1 a2 a3 a4 a5 a6) := by
  unfold kvWrite
  repeat' (first
    | with_reducible intro _ | with_reducible assumption | with_reducible apply kvRefused_within
    | with_reducible apply memPut_within | split | dsimp only)

theorem writeTags_within {fs : List Field} {b : State} {s1 a2 a3}
    (m11 : .mem ∈ fs)
    (h1 : Within fs b s1) : Within fs b (writeTags s1 a2 a3) := by
  unfold writeTags
  repeat' (first
    | with_reducible intro _ | with_reducible assumption | with_reducible apply ite_within | with_reducible apply foldl_within
    | with_reducible apply foldl_fst_within | with_reducible apply foldl_snd_within | with_reducible apply writeRows_within
    | split | dsimp only)

theorem writeInputs_within {fs : List Field} {b : State} {s1 a2 a3 a4}
    (m11 : .mem ∈ fs)
    (h1 : Within fs b s1) : Within fs b (writeInputs s1 a2 a3 a4) := by
  unfold writeInputs
  repeat' (first
    | with_reducible intro _ | with_reducible assumption | with_reducible apply writeTags_within
    | with_reducible apply writeRows_within | split | dsimp only)

theorem steerRow_within {fs : List Field} {b : State} {s1 a2 a3 a4 a5 a6}
    (m4 : .parts ∈ fs) (m11 : .mem ∈ fs)
    (h1 : Within fs b s1) : Within fs b (steerRow s1 a2 a3 a4 a5 a6) := by
  unfold steerRow
  repeat' (first
    | with_reducible intro _ | with_reducible assumption | with_reducible apply ite_within
    | with_reducible apply joinFlags_within | with_reducible apply writeRows_within | split | dsimp only)

theorem layerOutputs_within {fs : List Field} {b : State} {s1 a2 a3 a4 a5 a6 a7}
    (m2 : .freeCtr ∈ fs) (m4 : .parts ∈ fs) (m5 : .rtes ∈ fs) (m9 : .pew ∈ fs) (m11 : .mem ∈ fs)
    (h1 : Within fs b s1) : Within fs b (layerOutputs s1 a2 a3 a4 a5 a6 a7) := by
  unfold layerOutputs
  repeat' (first
    | with_reducible intro _ | with_reducible assumption | with_reducible apply ite_within | with_reducible apply foldl_within
    | with_reducible apply foldl_fst_within | with_reducible apply foldl_snd_within | with_reducible apply kvWrite_within
    | with_reducible apply steerRow_within | with_reducible apply modPart_within | split | dsimp only)

theorem mbHost_within {fs : List Field} {b : State} {s1 a2 a3 a4}
    (m3 : .host ∈ fs)
    (h1 : Within fs b s1) : Within fs b (mbHost s1 a2 a3 a4) := by
  unfold mbHost
  repeat' (first
    | with_reducible intro _ | with_reducible assumption | with_reducible apply ite_within
    | with_reducible apply setErrCh_within | with_reducible refine modHost_within _ ?_ ?_
    | with_reducible apply sendVec_within | split | dsimp only)

theorem mbInner_within {fs : List Field} {b : State} {s1 a2 a3}
    (m3 : .host ∈ fs)
    (h1 : Within fs b s1) : Within fs b (mbInner s1 a2 a3) := by
  unfold mbInner
  repeat' (first
    | with_reducible intro _ | with_reducible assumption | with_reducible apply ite_within
    | with_reducible refine modHost_within _ ?_ ?_ | split | dsimp only)

theorem tileMismatch_within {fs : List Field} {b : State} {s1 a2 a3}
    (m9 : .pew ∈ fs) (m10 : .eng ∈ fs)
    (h1 : Within fs b s1) : Within fs b (tileMismatch s1 a2 a3) := by
  unfold tileMismatch
  repeat' (first
    | with_reducible intro _ | with_reducible assumption | with_reducible apply ite_within
    | with_reducible apply modCore_within | with_reducible apply reportError_within | split | dsimp only)

theorem upsetWord_within {fs : List Field} {b : State} {s1 a2 a3 a4}
    (m9 : .pew ∈ fs) (m10 : .eng ∈ fs)
    (h1 : Within fs b s1) : Within fs b (upsetWord s1 a2 a3 a4) := by
  unfold upsetWord
  repeat' (first
    | with_reducible intro _ | with_reducible assumption | with_reducible apply ite_within
    | with_reducible apply modCore_within | with_reducible apply tileMismatch_within | with_reducible apply reportError_within
    | split | dsimp only)

theorem upsets_within {fs : List Field} {b : State} {s1 a2 a3 a4}
    (m9 : .pew ∈ fs) (m10 : .eng ∈ fs)
    (h1 : Within fs b s1) : Within fs b (upsets s1 a2 a3 a4).1 := by
  unfold upsets
  repeat' (first
    | with_reducible intro _ | with_reducible assumption | with_reducible apply foldl_within
    | with_reducible apply foldl_fst_within | with_reducible apply foldl_snd_within | with_reducible apply upsetWord_within
    | split | dsimp only)

theorem execTileCheckDone_keeps {fs : List Field} {b : State} {a1 a2 a3 s4}
    (m9 : .pew ∈ fs) (m10 : .eng ∈ fs)
    (h4 : Within fs b s4) : Keeps fs b (execTileCheckDone a1 a2 a3 s4) := by
  unfold execTileCheckDone
  repeat' (first
    | with_reducible intro _ | with_reducible assumption | with_reducible apply next_keeps | with_reducible apply ite_keeps
    | with_reducible apply onUnit_keeps | with_reducible apply ite_within | with_reducible apply modCore_within
    | with_reducible apply upsets_within | with_reducible apply tileMismatch_within | split | dsimp only)

theorem lostFor_within {fs : List Field} {b : State} {s1 a2 a3}
    (m3 : .host ∈ fs) (m4 : .parts ∈ fs) (m5 : .rtes ∈ fs) (m9 : .pew ∈ fs) (m10 : .eng ∈ fs)
    (h1 : Within fs b s1) : Within fs b (lostFor s1 a2 a3) := by
  unfold lostFor
  repeat' (first
    | with_reducible intro _ | with_reducible assumption | with_reducible apply logFault_within
    | with_reducible apply dataLoss_within | split | dsimp only)

theorem execTileRefetchDone_keeps {fs : List Field} {b : State} {a1 a2 s3}
    (m3 : .host ∈ fs) (m4 : .parts ∈ fs) (m5 : .rtes ∈ fs) (m9 : .pew ∈ fs) (m10 : .eng ∈ fs) (m11 : .mem ∈ fs)
    (h3 : Within fs b s3) : Keeps fs b (execTileRefetchDone a1 a2 s3) := by
  unfold execTileRefetchDone
  repeat' (first
    | with_reducible intro _ | with_reducible assumption | with_reducible apply next_keeps | with_reducible apply ite_keeps
    | with_reducible apply onUnit_keeps | with_reducible apply ite_within | with_reducible apply foldl_within
    | with_reducible apply foldl_fst_within | with_reducible apply foldl_snd_within | with_reducible apply modCore_within
    | with_reducible apply cacheAccess_within | with_reducible apply lostFor_within | split | dsimp only)

theorem deliverWin_within {fs : List Field} {b : State} {a1 a2 a3 a4 s5}
    (m9 : .pew ∈ fs) (m10 : .eng ∈ fs)
    (h5 : Within fs b s5) : Within fs b (deliverWin a1 a2 a3 a4 s5) := by
  unfold deliverWin
  repeat' (first
    | with_reducible intro _ | with_reducible assumption | with_reducible apply ite_within
    | with_reducible apply tinBad_within | with_reducible apply tinDrop_within | with_reducible apply modCore_within | split
    | dsimp only)

theorem execWinWr_keeps {fs : List Field} {b : State} {a1 a2 a3 s4}
    (m9 : .pew ∈ fs) (m10 : .eng ∈ fs)
    (h4 : Within fs b s4) : Keeps fs b (execWinWr a1 a2 a3 s4) := by
  unfold execWinWr
  repeat' (first
    | with_reducible intro _ | with_reducible assumption | with_reducible apply next_keeps | with_reducible apply onUnit_keeps
    | with_reducible apply deliverWin_within | split | dsimp only)

theorem execRgdWrite_keeps {fs : List Field} {b : State} {a1 a2 a3 s4}
    (m9 : .pew ∈ fs) (m10 : .eng ∈ fs)
    (h4 : Within fs b s4) : Keeps fs b (execRgdWrite a1 a2 a3 s4) := by
  unfold execRgdWrite
  repeat' (first
    | with_reducible intro _ | with_reducible assumption | with_reducible apply next_keeps | with_reducible apply onUnit_keeps
    | with_reducible apply deliverWin_within | split | dsimp only)

theorem execEvWrite_keeps {fs : List Field} {b : State} {a1 a2 a3 s4}
    (m9 : .pew ∈ fs) (m10 : .eng ∈ fs)
    (h4 : Within fs b s4) : Keeps fs b (execEvWrite a1 a2 a3 s4) := by
  unfold execEvWrite
  repeat' (first
    | with_reducible intro _ | with_reducible assumption | with_reducible apply next_keeps | with_reducible apply onUnit_keeps
    | with_reducible apply deliverWin_within | split | dsimp only)

theorem execTagEntryWrite_keeps {fs : List Field} {b : State} {a1 a2 a3 s4}
    (m9 : .pew ∈ fs) (m10 : .eng ∈ fs)
    (h4 : Within fs b s4) : Keeps fs b (execTagEntryWrite a1 a2 a3 s4) := by
  unfold execTagEntryWrite
  repeat' (first
    | with_reducible intro _ | with_reducible assumption | with_reducible apply next_keeps | with_reducible apply onUnit_keeps
    | with_reducible apply deliverWin_within | split | dsimp only)

theorem execVctlAbort_keeps {fs : List Field} {b : State} {a1 a2 a3 s4}
    (m9 : .pew ∈ fs) (m10 : .eng ∈ fs)
    (h4 : Within fs b s4) : Keeps fs b (execVctlAbort a1 a2 a3 s4) := by
  unfold execVctlAbort
  repeat' (first
    | with_reducible intro _ | with_reducible assumption | with_reducible apply next_keeps | with_reducible apply onUnit_keeps
    | with_reducible apply deliverWin_within | split | dsimp only)

theorem execVctlGo_keeps {fs : List Field} {b : State} {a1 a2 a3 s4}
    (m9 : .pew ∈ fs) (m10 : .eng ∈ fs)
    (h4 : Within fs b s4) : Keeps fs b (execVctlGo a1 a2 a3 s4) := by
  unfold execVctlGo
  repeat' (first
    | with_reducible intro _ | with_reducible assumption | with_reducible apply next_keeps | with_reducible apply onUnit_keeps
    | with_reducible apply deliverWin_within | split | dsimp only)

theorem execWinRd_keeps {fs : List Field} {b : State} {a1 a2 a3 s4}
    (m9 : .pew ∈ fs) (m10 : .eng ∈ fs)
    (h4 : Within fs b s4) : Keeps fs b (execWinRd a1 a2 a3 s4) := by
  unfold execWinRd
  repeat' (first
    | with_reducible intro _ | with_reducible assumption | with_reducible apply next_keeps | with_reducible apply ite_keeps
    | with_reducible apply onUnit_keeps | with_reducible apply ite_within | with_reducible apply tinBad_within
    | with_reducible apply tinDrop_within | with_reducible apply tinSend_within | split | dsimp only)

theorem rxArrive_within {fs : List Field} {b : State} {s1 a2 a3}
    (m10 : .eng ∈ fs)
    (h1 : Within fs b s1) : Within fs b (rxArrive s1 a2 a3) := by
  unfold rxArrive
  repeat' (first
    | with_reducible intro _ | with_reducible assumption | with_reducible apply raiseInt_within
    | with_reducible apply modCob_within | split | dsimp only)

theorem deliverCob_within {fs : List Field} {b : State} {a1 a2 a3 a4 a5 f6 s7}
    (m9 : .pew ∈ fs) (m10 : .eng ∈ fs)
    (h6 : ∀ x0 x1 x2, Within fs b x1 → Within fs b (f6 x0 x1 x2)) (h7 : Within fs b s7) : Within fs b (deliverCob a1 a2 a3 a4 a5 f6 s7) := by
  unfold deliverCob
  repeat' (first
    | with_reducible intro _ | with_reducible assumption | with_reducible apply h6 | with_reducible apply ite_within
    | with_reducible apply tinBad_within | with_reducible apply tinDrop_within | split | dsimp only)

theorem execWinRsp_keeps {fs : List Field} {b : State} {a1 a2 a3 s4}
    (m9 : .pew ∈ fs) (m10 : .eng ∈ fs)
    (h4 : Within fs b s4) : Keeps fs b (execWinRsp a1 a2 a3 s4) := by
  unfold execWinRsp
  repeat' (first
    | with_reducible intro _ | with_reducible assumption | with_reducible apply next_keeps | with_reducible apply onUnit_keeps
    | with_reducible apply deliverCob_within | with_reducible apply rxArrive_within | split | dsimp only)

theorem execNotice_keeps {fs : List Field} {b : State} {a1 a2 a3 s4}
    (m9 : .pew ∈ fs) (m10 : .eng ∈ fs)
    (h4 : Within fs b s4) : Keeps fs b (execNotice a1 a2 a3 s4) := by
  unfold execNotice
  repeat' (first
    | with_reducible intro _ | with_reducible assumption | with_reducible apply next_keeps | with_reducible apply onUnit_keeps
    | with_reducible apply deliverCob_within | with_reducible apply rxArrive_within | with_reducible apply raiseInt_within
    | split | dsimp only)

theorem holdFlag_within {fs : List Field} {b : State} {s1 a2 a3 a4}
    (m4 : .parts ∈ fs) (m10 : .eng ∈ fs)
    (h1 : Within fs b s1) : Within fs b (holdFlag s1 a2 a3 a4) := by
  unfold holdFlag
  repeat' (first
    | with_reducible intro _ | with_reducible assumption | with_reducible apply setCtr_within
    | with_reducible apply ctxFlags_within | with_reducible apply modPart_within | split | dsimp only)

theorem execFlag_keeps {fs : List Field} {b : State} {a1 a2 a3 s4}
    (m4 : .parts ∈ fs) (m9 : .pew ∈ fs) (m10 : .eng ∈ fs)
    (h4 : Within fs b s4) : Keeps fs b (execFlag a1 a2 a3 s4) := by
  unfold execFlag
  repeat' (first
    | with_reducible intro _ | with_reducible assumption | with_reducible apply next_keeps | with_reducible apply onUnit_keeps
    | with_reducible apply deliverCob_within | with_reducible apply holdFlag_within | with_reducible apply rxArrive_within
    | split | dsimp only)

theorem execFwMsg_keeps {fs : List Field} {b : State} {a1 a2 a3 s4}
    (m9 : .pew ∈ fs) (m10 : .eng ∈ fs)
    (h4 : Within fs b s4) : Keeps fs b (execFwMsg a1 a2 a3 s4) := by
  unfold execFwMsg
  repeat' (first
    | with_reducible intro _ | with_reducible assumption | with_reducible apply next_keeps | with_reducible apply onUnit_keeps
    | with_reducible apply deliverCob_within | with_reducible apply rxArrive_within | split | dsimp only)

theorem execSeStat_keeps {fs : List Field} {b : State} {a1 a2 a3 s4}
    (m9 : .pew ∈ fs) (m10 : .eng ∈ fs)
    (h4 : Within fs b s4) : Keeps fs b (execSeStat a1 a2 a3 s4) := by
  unfold execSeStat
  repeat' (first
    | with_reducible intro _ | with_reducible assumption | with_reducible apply next_keeps | with_reducible apply onUnit_keeps
    | with_reducible apply deliverCob_within | with_reducible apply rxArrive_within | split | dsimp only)

theorem txGo_within {fs : List Field} {b : State} {s1 a2}
    (m10 : .eng ∈ fs)
    (h1 : Within fs b s1) : Within fs b (txGo s1 a2) := by
  unfold txGo
  repeat' (first
    | with_reducible intro _ | with_reducible assumption | with_reducible apply ite_within
    | with_reducible apply tinSend_within | with_reducible apply modCob_within | split | dsimp only)

theorem execTxGo_keeps {fs : List Field} {b : State} {a1 s2}
    (m10 : .eng ∈ fs)
    (h2 : Within fs b s2) : Keeps fs b (execTxGo a1 s2) := by
  unfold execTxGo
  repeat' (first
    | with_reducible intro _ | with_reducible assumption | with_reducible apply next_keeps | with_reducible apply onUnit_keeps
    | with_reducible apply txGo_within | split | dsimp only)

theorem rxPop_within {fs : List Field} {b : State} {s1 a2}
    (m10 : .eng ∈ fs)
    (h1 : Within fs b s1) : Within fs b (rxPop s1 a2) := by
  unfold rxPop
  repeat' (first
    | with_reducible intro _ | with_reducible assumption | with_reducible apply whenB_within
    | with_reducible apply modCob_within | split | dsimp only)

theorem execRxPop_keeps {fs : List Field} {b : State} {a1 s2}
    (m10 : .eng ∈ fs)
    (h2 : Within fs b s2) : Keeps fs b (execRxPop a1 s2) := by
  unfold execRxPop
  repeat' (first
    | with_reducible intro _ | with_reducible assumption | with_reducible apply next_keeps | with_reducible apply onUnit_keeps
    | with_reducible apply rxPop_within | split | dsimp only)

theorem execCobaltTimerCompare_keeps {fs : List Field} {b : State} {a1 s2}
    (m10 : .eng ∈ fs)
    (h2 : Within fs b s2) : Keeps fs b (execCobaltTimerCompare a1 s2) := by
  unfold execCobaltTimerCompare
  repeat' (first
    | with_reducible intro _ | with_reducible assumption | with_reducible apply next_keeps | with_reducible apply onUnit_keeps
    | with_reducible apply whenB_within | with_reducible apply raiseInt_within | with_reducible apply modCob_within | split
    | dsimp only)

theorem portOut_within {fs : List Field} {b : State} {s1 a2 a3}
    (m6 : .fab ∈ fs)
    (h1 : Within fs b s1) : Within fs b (portOut s1 a2 a3) := by
  unfold portOut
  repeat' (first
    | with_reducible intro _ | with_reducible assumption | with_reducible apply modFab_within
    | with_reducible apply modPort_within | split | dsimp only)

theorem ctlFlit_within {fs : List Field} {b : State} {s1 a2 a3}
    (m6 : .fab ∈ fs)
    (h1 : Within fs b s1) : Within fs b (ctlFlit s1 a2 a3) := by
  unfold ctlFlit
  repeat' (first
    | with_reducible intro _ | with_reducible assumption | with_reducible apply portOut_within | split | dsimp only)

theorem portCount_within {fs : List Field} {b : State} {s1 a2 a3}
    (m9 : .pew ∈ fs)
    (h1 : Within fs b s1) : Within fs b (portCount s1 a2 a3) := by
  unfold portCount
  repeat' (first
    | with_reducible intro _ | with_reducible assumption | with_reducible apply modPew_within | split | dsimp only)

theorem pumpVC_within {fs : List Field} {b : State} {a1 a2 a3 s4}
    (m6 : .fab ∈ fs) (m9 : .pew ∈ fs)
    (h4 : Within fs b s4) : Within fs b (pumpVC a1 a2 a3 s4) := by
  induction a3 generalizing a1 a2 s4 with
  | zero =>
    unfold pumpVC
    repeat' (first
    | with_reducible intro _ | with_reducible assumption | with_reducible apply ite_within
    | with_reducible apply portOut_within | with_reducible apply modPort_within | with_reducible apply portCount_within
    | split | dsimp only)
  | succ n ih =>
    unfold pumpVC
    repeat' (first
    | with_reducible intro _ | with_reducible assumption | with_reducible apply ih | with_reducible apply ite_within
    | with_reducible apply portOut_within | with_reducible apply modPort_within | with_reducible apply portCount_within
    | split | dsimp only)

theorem pump_within {fs : List Field} {b : State} {s1 a2}
    (m6 : .fab ∈ fs) (m9 : .pew ∈ fs)
    (h1 : Within fs b s1) : Within fs b (pump s1 a2) := by
  unfold pump
  repeat' (first
    | with_reducible intro _ | with_reducible assumption | with_reducible apply pumpVC_within | split | dsimp only)

theorem sendMsg_within {fs : List Field} {b : State} {s1 a2 a3 a4}
    (m6 : .fab ∈ fs) (m9 : .pew ∈ fs)
    (h1 : Within fs b s1) : Within fs b (sendMsg s1 a2 a3 a4) := by
  unfold sendMsg
  repeat' (first
    | with_reducible intro _ | with_reducible assumption | with_reducible apply pump_within
    | with_reducible apply modPort_within | split | dsimp only)

theorem peerIssue_within {fs : List Field} {b : State} {s1 a2 a3 a4 a5 a6 a7 a8}
    (m6 : .fab ∈ fs) (m9 : .pew ∈ fs)
    (h1 : Within fs b s1) : Within fs b (peerIssue s1 a2 a3 a4 a5 a6 a7 a8).1 := by
  unfold peerIssue
  repeat' (first
    | with_reducible intro _ | with_reducible assumption | with_reducible apply ite_within
    | with_reducible apply modFab_within | with_reducible apply sendMsg_within | split | dsimp only)

theorem peerWrite_within {fs : List Field} {b : State} {a1 s2 a3 a4 a5 a6 a7}
    (m6 : .fab ∈ fs) (m9 : .pew ∈ fs)
    (h2 : Within fs b s2) : Within fs b (peerWrite a1 s2 a3 a4 a5 a6 a7).1 := by
  induction a1 generalizing s2 a3 a4 a5 a6 a7 with
  | zero =>
    unfold peerWrite
    repeat' (first
    | with_reducible intro _ | with_reducible assumption | with_reducible apply ite_within
    | with_reducible apply peerIssue_within | split | dsimp only)
  | succ n ih =>
    unfold peerWrite
    repeat' (first
    | with_reducible intro _ | with_reducible assumption | with_reducible apply ih | with_reducible apply ite_within
    | with_reducible apply peerIssue_within | split | dsimp only)

theorem peerWriteAll_within {fs : List Field} {b : State} {s1 a2 a3 a4 a5 a6}
    (m6 : .fab ∈ fs) (m9 : .pew ∈ fs)
    (h1 : Within fs b s1) : Within fs b (peerWriteAll s1 a2 a3 a4 a5 a6).1 := by
  unfold peerWriteAll
  repeat' (first
    | with_reducible intro _ | with_reducible assumption | with_reducible apply peerWrite_within | split | dsimp only)

theorem issuePiece_within {fs : List Field} {b : State} {s1 a2}
    (m3 : .host ∈ fs) (m6 : .fab ∈ fs) (m9 : .pew ∈ fs)
    (h1 : Within fs b s1) : Within fs b (issuePiece s1 a2).1 := by
  unfold issuePiece
  repeat' (first
    | with_reducible intro _ | with_reducible assumption | with_reducible apply ite_within
    | with_reducible refine modHost_within _ ?_ ?_ | with_reducible apply peerIssue_within | split | dsimp only)

theorem startRead_within {fs : List Field} {b : State} {s1 a2 a3 a4 a5}
    (m3 : .host ∈ fs) (m6 : .fab ∈ fs) (m9 : .pew ∈ fs)
    (h1 : Within fs b s1) : Within fs b (startRead s1 a2 a3 a4 a5).1 := by
  unfold startRead
  repeat' (first
    | with_reducible intro _ | with_reducible assumption | with_reducible apply issuePiece_within
    | with_reducible refine modHost_within _ ?_ ?_ | split | dsimp only)

theorem dropRead_within {fs : List Field} {b : State} {s1 a2}
    (m3 : .host ∈ fs)
    (h1 : Within fs b s1) : Within fs b (dropRead s1 a2) := by
  unfold dropRead
  repeat' (first
    | with_reducible intro _ | with_reducible assumption | with_reducible refine modHost_within _ ?_ ?_ | split | dsimp only)

theorem endAccess_within {fs : List Field} {b : State} {s1 a2 a3}
    (m6 : .fab ∈ fs)
    (h1 : Within fs b s1) : Within fs b (endAccess s1 a2 a3) := by
  unfold endAccess
  repeat' (first
    | with_reducible intro _ | with_reducible assumption | with_reducible apply ite_within
    | with_reducible apply modFab_within | split | dsimp only)

end Sys2Proof.Machine
end

