-- ==== Sys2Proof/Laws/FramesServe.lean ====
section
/-! SUPPORT. What each operation of Machine/(Space, Serve, Vector, Stream, Counters).lean may touch: one lemma for each. -/

set_option Elab.async false
set_option linter.unusedTactic false
set_option linter.unreachableTactic false

namespace Sys2Proof.Machine

theorem mirrorGranule_within {fs : List Field} {b : State} {s1 a2 a3 a4}
    (m11 : .mem ∈ fs)
    (h1 : Within fs b s1) : Within fs b (mirrorGranule s1 a2 a3 a4) := by
  unfold mirrorGranule
  repeat' (first
    | with_reducible intro _ | with_reducible assumption | with_reducible apply ite_within
    | with_reducible apply clearMem_within | (with_reducible refine modMem_within _ ‹_› ?_ ?_) | with_reducible rfl
    | exact putLine_bytes _ _ _ _ | exact refreshed_bytes _ _ _ | split | dsimp only)

theorem placeAt_within {fs : List Field} {b : State} {s1 a2 a3}
    (m11 : .mem ∈ fs)
    (h1 : Within fs b s1) : Within fs b (placeAt s1 a2 a3) := by
  unfold placeAt
  repeat' (first
    | with_reducible intro _ | with_reducible assumption | with_reducible apply ite_within
    | with_reducible apply mirrorGranule_within | split | dsimp only)

theorem placeSegment_within {fs : List Field} {b : State} {s1 a2 a3 a4 a5}
    (m11 : .mem ∈ fs)
    (h1 : Within fs b s1) : ∀ n t, placeSegment s1 a2 a3 a4 a5 = some (n, t) → Within fs b t := by
  intro n t h
  unfold placeSegment at h
  rw [Option.map_eq_some_iff] at h
  obtain ⟨o, _, h⟩ := h
  rw [Prod.mk.injEq] at h
  rw [← h.2]
  exact placeAt_within m11 h1

theorem placeSegments_within {fs : List Field} {b : State} {a1 a2 a3 s4 a5 a6}
    (m11 : .mem ∈ fs)
    (h4 : Within fs b s4) : ∀ n t, placeSegments a1 a2 a3 s4 a5 a6 = some (n, t) → Within fs b t := by
  unfold placeSegments
  suffices H : ∀ (l : List Nat) (a : Option (List Nat × State)), (∀ n t, a = some (n, t) → Within fs b t) →
      ∀ n t, l.foldl _ a = some (n, t) → Within fs b t from
    H _ _ (fun n t h => by rw [Option.some.injEq, Prod.mk.injEq] at h; rw [← h.2]; exact h4)
  intro l
  induction l with
  | nil => intro a ha; exact ha
  | cons x xs ih =>
    intro a ha
    refine ih _ (fun n t h => ?_)
    rw [Option.bind_eq_some_iff] at h
    obtain ⟨r, hr, h⟩ := h
    rw [Option.map_eq_some_iff] at h
    obtain ⟨y, hy, h⟩ := h
    rw [Prod.mk.injEq] at h
    rw [← h.2]
    exact placeSegment_within m11 (ha r.1 r.2 hr) y.1 y.2 hy

theorem beginRead_within {fs : List Field} {b : State} {s1 a2 a3 a4 a5}
    (m3 : .host ∈ fs) (m6 : .fab ∈ fs) (m9 : .pew ∈ fs) (m11 : .mem ∈ fs)
    (h1 : Within fs b s1) : Within fs b (beginRead s1 a2 a3 a4 a5).1 := by
  unfold beginRead
  repeat' (first
    | with_reducible intro _ | with_reducible assumption | with_reducible apply ite_within
    | with_reducible apply memTouch_within | with_reducible apply startRead_within | with_reducible apply dropRead_within
    | split | dsimp only)

theorem openRequest_within {fs : List Field} {b : State} {s1 a2 a3}
    (m3 : .host ∈ fs) (m4 : .parts ∈ fs) (m5 : .rtes ∈ fs)
    (h1 : Within fs b s1) : Within fs b (openRequest s1 a2 a3) := by
  unfold openRequest
  repeat' (first
    | with_reducible intro _ | with_reducible assumption | with_reducible apply endCmdSt_within
    | with_reducible apply modPart_within | with_reducible apply killCmd_within | with_reducible apply setRte_within | split
    | dsimp only)

theorem settleOpens_within {fs : List Field} {b : State} {a1 a2 s3}
    (m3 : .host ∈ fs) (m4 : .parts ∈ fs) (m5 : .rtes ∈ fs)
    (h3 : Within fs b s3) : Within fs b (settleOpens a1 a2 s3) := by
  induction a2 generalizing a1 s3 with
  | zero =>
    unfold settleOpens
    repeat' (first
    | with_reducible intro _ | with_reducible assumption | with_reducible apply ite_within
    | with_reducible apply openRequest_within | split | dsimp only)
  | succ n ih =>
    unfold settleOpens
    repeat' (first
    | with_reducible intro _ | with_reducible assumption | with_reducible apply ih | with_reducible apply ite_within
    | with_reducible apply openRequest_within | split | dsimp only)

theorem settle_within {fs : List Field} {b : State} {s1 a2}
    (m3 : .host ∈ fs) (m4 : .parts ∈ fs) (m5 : .rtes ∈ fs)
    (h1 : Within fs b s1) : Within fs b (settle s1 a2) := by
  unfold settle
  repeat' (first
    | with_reducible intro _ | with_reducible assumption | with_reducible apply settleOpens_within | split | dsimp only)

theorem promptDone_within {fs : List Field} {b : State} {s1 a2 a3}
    (m5 : .rtes ∈ fs)
    (h1 : Within fs b s1) : Within fs b (promptDone s1 a2 a3) := by
  unfold promptDone
  repeat' (first
    | with_reducible intro _ | with_reducible assumption | with_reducible apply ite_within
    | with_reducible apply modRte_within | with_reducible apply failReq_within | split | dsimp only)

theorem execPromptCheck_keeps {fs : List Field} {b : State} {a1 s2}
    (m3 : .host ∈ fs) (m5 : .rtes ∈ fs) (m6 : .fab ∈ fs) (m9 : .pew ∈ fs) (m11 : .mem ∈ fs)
    (h2 : Within fs b s2) : Keeps fs b (execPromptCheck a1 s2) := by
  unfold execPromptCheck
  repeat' (first
    | with_reducible intro _ | with_reducible assumption | with_reducible apply next_keeps | with_reducible apply ite_keeps
    | with_reducible apply ite_within | with_reducible apply beginRead_within | with_reducible apply promptDone_within
    | with_reducible apply failReq_within | split | dsimp only)

theorem damageCheck_within {fs : List Field} {b : State} {s1 a2 a3}
    (m5 : .rtes ∈ fs)
    (h1 : Within fs b s1) : Within fs b (damageCheck s1 a2 a3) := by
  unfold damageCheck
  repeat' (first
    | with_reducible intro _ | with_reducible assumption | with_reducible apply ite_within
    | with_reducible apply failReq_within | split | dsimp only)

theorem execPrefillChunkStart_keeps {fs : List Field} {b : State} {a1 a2 a3 s4}
    (m4 : .parts ∈ fs) (m5 : .rtes ∈ fs) (m11 : .mem ∈ fs)
    (h4 : Within fs b s4) : Keeps fs b (execPrefillChunkStart a1 a2 a3 s4) := by
  unfold execPrefillChunkStart
  repeat' (first
    | with_reducible intro _ | with_reducible assumption | with_reducible apply next_keeps | with_reducible apply ite_keeps
    | with_reducible apply ite_within | with_reducible apply damageCheck_within | with_reducible apply modRte_within
    | with_reducible apply modPart_within | with_reducible apply writeInputs_within | split | dsimp only)

theorem endings_within {fs : List Field} {b : State} {s1 a2 a3}
    (m5 : .rtes ∈ fs)
    (h1 : Within fs b s1) : Within fs b (endings s1 a2 a3) := by
  unfold endings
  repeat' (first
    | with_reducible intro _ | with_reducible assumption | with_reducible apply ite_within | with_reducible apply foldl_within
    | with_reducible apply foldl_fst_within | with_reducible apply foldl_snd_within | with_reducible apply closeReq_within
    | split | dsimp only)

theorem thermalEndings_within {fs : List Field} {b : State} {s1 a2 a3}
    (m5 : .rtes ∈ fs) (m7 : .power ∈ fs)
    (h1 : Within fs b s1) : Within fs b (thermalEndings s1 a2 a3) := by
  unfold thermalEndings
  repeat' (first
    | with_reducible intro _ | with_reducible assumption | with_reducible apply ite_within | with_reducible apply foldl_within
    | with_reducible apply foldl_fst_within | with_reducible apply foldl_snd_within | with_reducible apply closeReq_within
    | with_reducible apply modPow_within | split | dsimp only)

theorem divideEnergy_within {fs : List Field} {b : State} {s1 a2 a3}
    (m4 : .parts ∈ fs)
    (h1 : Within fs b s1) : Within fs b (divideEnergy s1 a2 a3) := by
  unfold divideEnergy
  repeat' (first
    | with_reducible intro _ | with_reducible assumption | with_reducible apply ite_within | with_reducible apply foldl_within
    | with_reducible apply foldl_fst_within | with_reducible apply foldl_snd_within | with_reducible apply modPart_within
    | split | dsimp only)

theorem rejoinUnits_within {fs : List Field} {b : State} {s1 a2}
    (m4 : .parts ∈ fs) (m10 : .eng ∈ fs)
    (h1 : Within fs b s1) : Within fs b (rejoinUnits s1 a2) := by
  unfold rejoinUnits
  repeat' (first
    | with_reducible intro _ | with_reducible assumption | with_reducible apply ite_within | with_reducible apply foldl_within
    | with_reducible apply foldl_fst_within | with_reducible apply foldl_snd_within | with_reducible apply modPart_within
    | with_reducible apply modEng_within | split | dsimp only)

theorem logDeparture_within {fs : List Field} {b : State} {s1 a2 a3 a4}
    (m9 : .pew ∈ fs)
    (h1 : Within fs b s1) : Within fs b (logDeparture s1 a2 a3 a4) := by
  unfold logDeparture
  repeat' (first
    | with_reducible intro _ | with_reducible assumption | with_reducible apply ite_within
    | with_reducible apply modPew_within | split | dsimp only)

theorem freeAborted_within {fs : List Field} {b : State} {s1 a2}
    (m3 : .host ∈ fs) (m4 : .parts ∈ fs) (m5 : .rtes ∈ fs)
    (h1 : Within fs b s1) : Within fs b (freeAborted s1 a2) := by
  unfold freeAborted
  repeat' (first
    | with_reducible intro _ | with_reducible assumption | with_reducible apply ite_within | with_reducible apply foldl_within
    | with_reducible apply foldl_fst_within | with_reducible apply foldl_snd_within | with_reducible apply freeReq_within
    | with_reducible apply modPart_within | split | dsimp only)

theorem commitWord_within {fs : List Field} {b : State} {s1 a2}
    (m3 : .host ∈ fs) (m4 : .parts ∈ fs) (m5 : .rtes ∈ fs) (m7 : .power ∈ fs) (m10 : .eng ∈ fs)
    (h1 : Within fs b s1) : Within fs b (commitWord s1 a2) := by
  unfold commitWord
  repeat' (first
    | with_reducible intro _ | with_reducible assumption | with_reducible apply ite_within | with_reducible apply foldl_within
    | with_reducible apply foldl_fst_within | with_reducible apply foldl_snd_within
    | with_reducible apply thermalEndings_within | with_reducible apply endings_within | with_reducible apply modPart_within
    | with_reducible apply appendRecord_within | with_reducible apply dueComp_within | with_reducible apply freeAborted_within
    | with_reducible apply rejoinUnits_within | split | dsimp only)

theorem logLong_within {fs : List Field} {b : State} {s1 a2}
    (m9 : .pew ∈ fs)
    (h1 : Within fs b s1) : Within fs b (logLong s1 a2) := by
  unfold logLong
  repeat' (first
    | with_reducible intro _ | with_reducible assumption | with_reducible apply ite_within
    | with_reducible apply modPew_within | split | dsimp only)

theorem reportTiming_within {fs : List Field} {b : State} {s1 a2 a3 a4 a5 a6}
    (m9 : .pew ∈ fs)
    (h1 : Within fs b s1) : Within fs b (reportTiming s1 a2 a3 a4 a5 a6) := by
  unfold reportTiming
  repeat' (first
    | with_reducible intro _ | with_reducible assumption | with_reducible apply ite_within
    | with_reducible apply logLong_within | with_reducible apply logDeparture_within | split | dsimp only)

theorem execPrefillChunkCommit_keeps {fs : List Field} {b : State} {a1 s2}
    (m3 : .host ∈ fs) (m4 : .parts ∈ fs) (m5 : .rtes ∈ fs) (m7 : .power ∈ fs) (m9 : .pew ∈ fs) (m10 : .eng ∈ fs)
    (h2 : Within fs b s2) : Keeps fs b (execPrefillChunkCommit a1 s2) := by
  unfold execPrefillChunkCommit
  repeat' (first
    | with_reducible intro _ | with_reducible assumption | with_reducible apply next_keeps | with_reducible apply ite_keeps
    | with_reducible apply ite_within | with_reducible apply damageCheck_within | with_reducible apply modRte_within
    | with_reducible apply divideEnergy_within | with_reducible apply reportTiming_within
    | with_reducible apply modPart_within | with_reducible apply settle_within | with_reducible apply commitWord_within
    | split | dsimp only)

theorem kvCheck_within {fs : List Field} {b : State} {s1 a2 a3}
    (m2 : .freeCtr ∈ fs) (m5 : .rtes ∈ fs) (m9 : .pew ∈ fs)
    (h1 : Within fs b s1) : Within fs b (kvCheck s1 a2 a3) := by
  unfold kvCheck
  repeat' (first
    | with_reducible intro _ | with_reducible assumption | with_reducible apply ite_within
    | with_reducible apply kvRefused_within | split | dsimp only)

theorem execDecodeStepStart_keeps {fs : List Field} {b : State} {a1 a2 a3 s4}
    (m2 : .freeCtr ∈ fs) (m4 : .parts ∈ fs) (m5 : .rtes ∈ fs) (m9 : .pew ∈ fs) (m10 : .eng ∈ fs) (m11 : .mem ∈ fs)
    (h4 : Within fs b s4) : Keeps fs b (execDecodeStepStart a1 a2 a3 s4) := by
  unfold execDecodeStepStart
  repeat' (first
    | with_reducible intro _ | with_reducible assumption | with_reducible apply next_keeps | with_reducible apply ite_keeps
    | with_reducible apply ite_within | with_reducible apply foldl_within | with_reducible apply foldl_fst_within
    | with_reducible apply foldl_snd_within | with_reducible apply modRte_within | with_reducible apply kvCheck_within
    | with_reducible apply damageCheck_within | with_reducible apply modPart_within | with_reducible apply writeInputs_within
    | with_reducible apply reportError_within | split | dsimp only)

theorem execDecodeStepOutput_keeps {fs : List Field} {b : State} {a1 s2}
    (m4 : .parts ∈ fs)
    (h2 : Within fs b s2) : Keeps fs b (execDecodeStepOutput a1 s2) := by
  unfold execDecodeStepOutput
  repeat' (first
    | with_reducible intro _ | with_reducible assumption | with_reducible apply next_keeps | with_reducible apply ite_keeps
    | with_reducible apply ite_within | with_reducible apply modPart_within | split | dsimp only)

theorem execDecodeStepCommit_keeps {fs : List Field} {b : State} {a1 s2}
    (m3 : .host ∈ fs) (m4 : .parts ∈ fs) (m5 : .rtes ∈ fs) (m7 : .power ∈ fs) (m9 : .pew ∈ fs) (m10 : .eng ∈ fs)
    (h2 : Within fs b s2) : Keeps fs b (execDecodeStepCommit a1 s2) := by
  unfold execDecodeStepCommit
  repeat' (first
    | with_reducible intro _ | with_reducible assumption | with_reducible apply next_keeps | with_reducible apply ite_keeps
    | with_reducible apply ite_within | with_reducible apply foldl_within | with_reducible apply foldl_fst_within
    | with_reducible apply foldl_snd_within | with_reducible apply damageCheck_within | with_reducible apply modRte_within
    | with_reducible apply reportTiming_within | with_reducible apply divideEnergy_within
    | with_reducible apply modPart_within | with_reducible apply settle_within | with_reducible apply commitWord_within
    | split | dsimp only)

theorem execStreamEntryWrite_keeps {fs : List Field} {b : State} {a1 s2}
    (m3 : .host ∈ fs) (m5 : .rtes ∈ fs)
    (h2 : Within fs b s2) : Keeps fs b (execStreamEntryWrite a1 s2) := by
  unfold execStreamEntryWrite
  repeat' (first
    | with_reducible intro _ | with_reducible assumption | with_reducible apply next_keeps | with_reducible apply ite_keeps
    | with_reducible apply ite_within | with_reducible apply ringWrite_within | with_reducible apply modRte_within | split
    | dsimp only)

theorem deleteRing_within {fs : List Field} {b : State} {s1 a2 a3 a4}
    (m3 : .host ∈ fs) (m4 : .parts ∈ fs)
    (h1 : Within fs b s1) : Within fs b (deleteRing s1 a2 a3 a4) := by
  unfold deleteRing
  repeat' (first
    | with_reducible intro _ | with_reducible assumption | with_reducible apply ite_within
    | with_reducible refine modHost_within _ ?_ ?_ | with_reducible apply modPart_within | split | dsimp only)

theorem settleDelete_within {fs : List Field} {b : State} {s1 a2}
    (m3 : .host ∈ fs) (m4 : .parts ∈ fs)
    (h1 : Within fs b s1) : Within fs b (settleDelete s1 a2) := by
  unfold settleDelete
  repeat' (first
    | with_reducible intro _ | with_reducible assumption | with_reducible apply ite_within
    | with_reducible apply endCmdSt_within | with_reducible apply deleteRing_within | split | dsimp only)

theorem settleDeletes_within {fs : List Field} {b : State} {s1 a2}
    (m3 : .host ∈ fs) (m4 : .parts ∈ fs)
    (h1 : Within fs b s1) : Within fs b (settleDeletes s1 a2) := by
  unfold settleDeletes
  repeat' (first
    | with_reducible intro _ | with_reducible assumption | with_reducible apply foldl_within
    | with_reducible apply foldl_fst_within | with_reducible apply foldl_snd_within | with_reducible apply settleDelete_within
    | split | dsimp only)

theorem execCompletionWrite_keeps {fs : List Field} {b : State} {a1 a2 s3}
    (m3 : .host ∈ fs) (m4 : .parts ∈ fs) (m5 : .rtes ∈ fs)
    (h3 : Within fs b s3) : Keeps fs b (execCompletionWrite a1 a2 s3) := by
  unfold execCompletionWrite
  repeat' (first
    | with_reducible intro _ | with_reducible assumption | with_reducible apply next_keeps | with_reducible apply ite_keeps
    | with_reducible apply ite_within | with_reducible refine modHost_within _ ?_ ?_ | with_reducible apply modRing_within
    | with_reducible apply ringWrite_within | with_reducible apply settleDeletes_within | with_reducible apply freeReq_within
    | split | dsimp only)

theorem execRecordRingWrite_keeps {fs : List Field} {b : State} {a1 s2}
    (m3 : .host ∈ fs) (m4 : .parts ∈ fs) (m5 : .rtes ∈ fs)
    (h2 : Within fs b s2) : Keeps fs b (execRecordRingWrite a1 s2) := by
  unfold execRecordRingWrite
  repeat' (first
    | with_reducible intro _ | with_reducible assumption | with_reducible apply next_keeps | with_reducible apply ite_keeps
    | with_reducible apply ite_within | with_reducible apply modPart_within | with_reducible apply modRte_within
    | with_reducible apply ringWrite_within | split | dsimp only)

theorem vecFault_within {fs : List Field} {b : State} {s1 a2 a3 a4}
    (m3 : .host ∈ fs) (m4 : .parts ∈ fs) (m5 : .rtes ∈ fs) (m9 : .pew ∈ fs) (m10 : .eng ∈ fs)
    (h1 : Within fs b s1) : Within fs b (vecFault s1 a2 a3 a4) := by
  unfold vecFault
  repeat' (first
    | with_reducible intro _ | with_reducible assumption | with_reducible apply coreFault_within
    | with_reducible apply modCore_within | split | dsimp only)

theorem vecRun_within {fs : List Field} {b : State} {a1 a2 f3 s4}
    (m3 : .host ∈ fs) (m4 : .parts ∈ fs) (m5 : .rtes ∈ fs) (m9 : .pew ∈ fs) (m10 : .eng ∈ fs)
    (h3 : ∀ x0 x1, Within fs b x1 → Within fs b (f3 x0 x1)) (h4 : Within fs b s4) : Within fs b (vecRun a1 a2 f3 s4) := by
  unfold vecRun
  repeat' (first
    | with_reducible intro _ | with_reducible assumption | with_reducible apply h3 | with_reducible apply ite_within
    | with_reducible apply vecFault_within | with_reducible apply modCore_within | split | dsimp only)

theorem vecPure_keeps {fs : List Field} {b : State} {a1 a2 a3 s4}
    (m3 : .host ∈ fs) (m4 : .parts ∈ fs) (m5 : .rtes ∈ fs) (m9 : .pew ∈ fs) (m10 : .eng ∈ fs)
    (h4 : Within fs b s4) : Keeps fs b (vecPure a1 a2 a3 s4) := by
  unfold vecPure
  repeat' (first
    | with_reducible intro _ | with_reducible assumption | with_reducible apply next_keeps | with_reducible apply onUnit_keeps
    | with_reducible apply vecRun_within | with_reducible apply modCore_within | split | dsimp only)

theorem vecArith_keeps {fs : List Field} {b : State} {a1 a2 a3 a4 s5}
    (m3 : .host ∈ fs) (m4 : .parts ∈ fs) (m5 : .rtes ∈ fs) (m9 : .pew ∈ fs) (m10 : .eng ∈ fs)
    (h5 : Within fs b s5) : Keeps fs b (vecArith a1 a2 a3 a4 s5) := by
  unfold vecArith
  repeat' (first
    | with_reducible intro _ | with_reducible assumption | with_reducible apply next_keeps | with_reducible apply ite_keeps
    | with_reducible apply onUnit_keeps | with_reducible apply ite_within | with_reducible apply vecRun_within
    | with_reducible apply modCore_within | with_reducible apply reportError_within | split | dsimp only)

theorem vecAcc_within {fs : List Field} {b : State} {s1 s2 a3 a4}
    (m3 : .host ∈ fs) (m4 : .parts ∈ fs) (m5 : .rtes ∈ fs) (m9 : .pew ∈ fs) (m10 : .eng ∈ fs)
    (h1 : Within fs b s1) (h2 : Within fs b s2) : Within fs b (vecAcc s1 s2 a3 a4) := by
  unfold vecAcc
  repeat' (first
    | with_reducible intro _ | with_reducible assumption | with_reducible apply modCore_within
    | with_reducible apply vecFault_within | split | dsimp only)

theorem execVld_keeps {fs : List Field} {b : State} {a1 a2 s3}
    (m3 : .host ∈ fs) (m4 : .parts ∈ fs) (m5 : .rtes ∈ fs) (m9 : .pew ∈ fs) (m10 : .eng ∈ fs)
    (h3 : Within fs b s3) : Keeps fs b (execVld a1 a2 s3) := by
  unfold execVld
  repeat' (first
    | with_reducible intro _ | with_reducible assumption | with_reducible apply next_keeps | with_reducible apply ite_keeps
    | with_reducible apply onUnit_keeps | with_reducible apply ite_within | with_reducible apply vecRun_within
    | with_reducible apply upsets_within | with_reducible apply vecAcc_within | with_reducible apply modCore_within | split
    | dsimp only)

theorem vstNotices_within {fs : List Field} {b : State} {s1 a2 a3}
    (m10 : .eng ∈ fs)
    (h1 : Within fs b s1) : Within fs b (vstNotices s1 a2 a3) := by
  unfold vstNotices
  repeat' (first
    | with_reducible intro _ | with_reducible assumption | with_reducible apply ite_within | with_reducible apply foldl_within
    | with_reducible apply foldl_fst_within | with_reducible apply foldl_snd_within | with_reducible apply tinSend_within
    | split | dsimp only)

theorem execVst_keeps {fs : List Field} {b : State} {a1 s2}
    (m3 : .host ∈ fs) (m4 : .parts ∈ fs) (m5 : .rtes ∈ fs) (m9 : .pew ∈ fs) (m10 : .eng ∈ fs)
    (h2 : Within fs b s2) : Keeps fs b (execVst a1 s2) := by
  unfold execVst
  repeat' (first
    | with_reducible intro _ | with_reducible assumption | with_reducible apply next_keeps | with_reducible apply onUnit_keeps
    | with_reducible apply vecRun_within | with_reducible apply vecAcc_within | with_reducible apply vstNotices_within
    | with_reducible apply modCore_within | split | dsimp only)

theorem execVnop_keeps {fs : List Field} {b : State} {a1 s2}
    (m3 : .host ∈ fs) (m4 : .parts ∈ fs) (m5 : .rtes ∈ fs) (m9 : .pew ∈ fs) (m10 : .eng ∈ fs)
    (h2 : Within fs b s2) : Keeps fs b (execVnop a1 s2) := by
  unfold execVnop
  repeat' (first
    | with_reducible intro _ | with_reducible assumption | with_reducible apply next_keeps
    | with_reducible apply vecPure_keeps | split | dsimp only)

theorem execVmov_keeps {fs : List Field} {b : State} {a1 s2}
    (m3 : .host ∈ fs) (m4 : .parts ∈ fs) (m5 : .rtes ∈ fs) (m9 : .pew ∈ fs) (m10 : .eng ∈ fs)
    (h2 : Within fs b s2) : Keeps fs b (execVmov a1 s2) := by
  unfold execVmov
  repeat' (first
    | with_reducible intro _ | with_reducible assumption | with_reducible apply next_keeps
    | with_reducible apply vecPure_keeps | split | dsimp only)

theorem execVsetx_keeps {fs : List Field} {b : State} {a1 s2}
    (m3 : .host ∈ fs) (m4 : .parts ∈ fs) (m5 : .rtes ∈ fs) (m9 : .pew ∈ fs) (m10 : .eng ∈ fs)
    (h2 : Within fs b s2) : Keeps fs b (execVsetx a1 s2) := by
  unfold execVsetx
  repeat' (first
    | with_reducible intro _ | with_reducible assumption | with_reducible apply next_keeps
    | with_reducible apply vecPure_keeps | split | dsimp only)

theorem execVseta_keeps {fs : List Field} {b : State} {a1 s2}
    (m3 : .host ∈ fs) (m4 : .parts ∈ fs) (m5 : .rtes ∈ fs) (m9 : .pew ∈ fs) (m10 : .eng ∈ fs)
    (h2 : Within fs b s2) : Keeps fs b (execVseta a1 s2) := by
  unfold execVseta
  repeat' (first
    | with_reducible intro _ | with_reducible assumption | with_reducible apply next_keeps
    | with_reducible apply vecPure_keeps | split | dsimp only)

theorem execVadda_keeps {fs : List Field} {b : State} {a1 s2}
    (m3 : .host ∈ fs) (m4 : .parts ∈ fs) (m5 : .rtes ∈ fs) (m9 : .pew ∈ fs) (m10 : .eng ∈ fs)
    (h2 : Within fs b s2) : Keeps fs b (execVadda a1 s2) := by
  unfold execVadda
  repeat' (first
    | with_reducible intro _ | with_reducible assumption | with_reducible apply next_keeps
    | with_reducible apply vecPure_keeps | split | dsimp only)

theorem execVsplat_keeps {fs : List Field} {b : State} {a1 s2}
    (m3 : .host ∈ fs) (m4 : .parts ∈ fs) (m5 : .rtes ∈ fs) (m9 : .pew ∈ fs) (m10 : .eng ∈ fs)
    (h2 : Within fs b s2) : Keeps fs b (execVsplat a1 s2) := by
  unfold execVsplat
  repeat' (first
    | with_reducible intro _ | with_reducible assumption | with_reducible apply next_keeps
    | with_reducible apply vecPure_keeps | split | dsimp only)

theorem execVand_keeps {fs : List Field} {b : State} {a1 s2}
    (m3 : .host ∈ fs) (m4 : .parts ∈ fs) (m5 : .rtes ∈ fs) (m9 : .pew ∈ fs) (m10 : .eng ∈ fs)
    (h2 : Within fs b s2) : Keeps fs b (execVand a1 s2) := by
  unfold execVand
  repeat' (first
    | with_reducible intro _ | with_reducible assumption | with_reducible apply next_keeps
    | with_reducible apply vecPure_keeps | split | dsimp only)

theorem execVor_keeps {fs : List Field} {b : State} {a1 s2}
    (m3 : .host ∈ fs) (m4 : .parts ∈ fs) (m5 : .rtes ∈ fs) (m9 : .pew ∈ fs) (m10 : .eng ∈ fs)
    (h2 : Within fs b s2) : Keeps fs b (execVor a1 s2) := by
  unfold execVor
  repeat' (first
    | with_reducible intro _ | with_reducible assumption | with_reducible apply next_keeps
    | with_reducible apply vecPure_keeps | split | dsimp only)

theorem execVxor_keeps {fs : List Field} {b : State} {a1 s2}
    (m3 : .host ∈ fs) (m4 : .parts ∈ fs) (m5 : .rtes ∈ fs) (m9 : .pew ∈ fs) (m10 : .eng ∈ fs)
    (h2 : Within fs b s2) : Keeps fs b (execVxor a1 s2) := by
  unfold execVxor
  repeat' (first
    | with_reducible intro _ | with_reducible assumption | with_reducible apply next_keeps
    | with_reducible apply vecPure_keeps | split | dsimp only)

theorem execVnot_keeps {fs : List Field} {b : State} {a1 s2}
    (m3 : .host ∈ fs) (m4 : .parts ∈ fs) (m5 : .rtes ∈ fs) (m9 : .pew ∈ fs) (m10 : .eng ∈ fs)
    (h2 : Within fs b s2) : Keeps fs b (execVnot a1 s2) := by
  unfold execVnot
  repeat' (first
    | with_reducible intro _ | with_reducible assumption | with_reducible apply next_keeps
    | with_reducible apply vecPure_keeps | split | dsimp only)

theorem execVshl_keeps {fs : List Field} {b : State} {a1 s2}
    (m3 : .host ∈ fs) (m4 : .parts ∈ fs) (m5 : .rtes ∈ fs) (m9 : .pew ∈ fs) (m10 : .eng ∈ fs)
    (h2 : Within fs b s2) : Keeps fs b (execVshl a1 s2) := by
  unfold execVshl
  repeat' (first
    | with_reducible intro _ | with_reducible assumption | with_reducible apply next_keeps
    | with_reducible apply vecPure_keeps | split | dsimp only)

theorem execVshr_keeps {fs : List Field} {b : State} {a1 s2}
    (m3 : .host ∈ fs) (m4 : .parts ∈ fs) (m5 : .rtes ∈ fs) (m9 : .pew ∈ fs) (m10 : .eng ∈ fs)
    (h2 : Within fs b s2) : Keeps fs b (execVshr a1 s2) := by
  unfold execVshr
  repeat' (first
    | with_reducible intro _ | with_reducible assumption | with_reducible apply next_keeps
    | with_reducible apply vecPure_keeps | split | dsimp only)

theorem execVsra_keeps {fs : List Field} {b : State} {a1 s2}
    (m3 : .host ∈ fs) (m4 : .parts ∈ fs) (m5 : .rtes ∈ fs) (m9 : .pew ∈ fs) (m10 : .eng ∈ fs)
    (h2 : Within fs b s2) : Keeps fs b (execVsra a1 s2) := by
  unfold execVsra
  repeat' (first
    | with_reducible intro _ | with_reducible assumption | with_reducible apply next_keeps
    | with_reducible apply vecPure_keeps | split | dsimp only)

theorem execVadd_keeps {fs : List Field} {b : State} {a1 a2 s3}
    (m3 : .host ∈ fs) (m4 : .parts ∈ fs) (m5 : .rtes ∈ fs) (m9 : .pew ∈ fs) (m10 : .eng ∈ fs)
    (h3 : Within fs b s3) : Keeps fs b (execVadd a1 a2 s3) := by
  unfold execVadd
  repeat' (first
    | with_reducible intro _ | with_reducible assumption | with_reducible apply next_keeps
    | with_reducible apply vecArith_keeps | split | dsimp only)

theorem execVsub_keeps {fs : List Field} {b : State} {a1 a2 s3}
    (m3 : .host ∈ fs) (m4 : .parts ∈ fs) (m5 : .rtes ∈ fs) (m9 : .pew ∈ fs) (m10 : .eng ∈ fs)
    (h3 : Within fs b s3) : Keeps fs b (execVsub a1 a2 s3) := by
  unfold execVsub
  repeat' (first
    | with_reducible intro _ | with_reducible assumption | with_reducible apply next_keeps
    | with_reducible apply vecArith_keeps | split | dsimp only)

theorem execVmul_keeps {fs : List Field} {b : State} {a1 a2 s3}
    (m3 : .host ∈ fs) (m4 : .parts ∈ fs) (m5 : .rtes ∈ fs) (m9 : .pew ∈ fs) (m10 : .eng ∈ fs)
    (h3 : Within fs b s3) : Keeps fs b (execVmul a1 a2 s3) := by
  unfold execVmul
  repeat' (first
    | with_reducible intro _ | with_reducible assumption | with_reducible apply next_keeps
    | with_reducible apply vecArith_keeps | split | dsimp only)

theorem execVmulq_keeps {fs : List Field} {b : State} {a1 a2 s3}
    (m3 : .host ∈ fs) (m4 : .parts ∈ fs) (m5 : .rtes ∈ fs) (m9 : .pew ∈ fs) (m10 : .eng ∈ fs)
    (h3 : Within fs b s3) : Keeps fs b (execVmulq a1 a2 s3) := by
  unfold execVmulq
  repeat' (first
    | with_reducible intro _ | with_reducible assumption | with_reducible apply next_keeps
    | with_reducible apply vecArith_keeps | split | dsimp only)

theorem execVmin_keeps {fs : List Field} {b : State} {a1 s2}
    (m3 : .host ∈ fs) (m4 : .parts ∈ fs) (m5 : .rtes ∈ fs) (m9 : .pew ∈ fs) (m10 : .eng ∈ fs)
    (h2 : Within fs b s2) : Keeps fs b (execVmin a1 s2) := by
  unfold execVmin
  repeat' (first
    | with_reducible intro _ | with_reducible assumption | with_reducible apply next_keeps
    | with_reducible apply vecPure_keeps | split | dsimp only)

theorem execVmax_keeps {fs : List Field} {b : State} {a1 s2}
    (m3 : .host ∈ fs) (m4 : .parts ∈ fs) (m5 : .rtes ∈ fs) (m9 : .pew ∈ fs) (m10 : .eng ∈ fs)
    (h2 : Within fs b s2) : Keeps fs b (execVmax a1 s2) := by
  unfold execVmax
  repeat' (first
    | with_reducible intro _ | with_reducible assumption | with_reducible apply next_keeps
    | with_reducible apply vecPure_keeps | split | dsimp only)

theorem execVcmp_keeps {fs : List Field} {b : State} {a1 s2}
    (m3 : .host ∈ fs) (m4 : .parts ∈ fs) (m5 : .rtes ∈ fs) (m9 : .pew ∈ fs) (m10 : .eng ∈ fs)
    (h2 : Within fs b s2) : Keeps fs b (execVcmp a1 s2) := by
  unfold execVcmp
  repeat' (first
    | with_reducible intro _ | with_reducible assumption | with_reducible apply next_keeps | with_reducible apply ite_keeps
    | with_reducible apply ite_within | with_reducible apply vecPure_keeps | split | dsimp only)

theorem execVsel_keeps {fs : List Field} {b : State} {a1 s2}
    (m3 : .host ∈ fs) (m4 : .parts ∈ fs) (m5 : .rtes ∈ fs) (m9 : .pew ∈ fs) (m10 : .eng ∈ fs)
    (h2 : Within fs b s2) : Keeps fs b (execVsel a1 s2) := by
  unfold execVsel
  repeat' (first
    | with_reducible intro _ | with_reducible assumption | with_reducible apply next_keeps | with_reducible apply ite_keeps
    | with_reducible apply ite_within | with_reducible apply vecPure_keeps | split | dsimp only)

theorem execVcvt_keeps {fs : List Field} {b : State} {a1 a2 s3}
    (m3 : .host ∈ fs) (m4 : .parts ∈ fs) (m5 : .rtes ∈ fs) (m9 : .pew ∈ fs) (m10 : .eng ∈ fs)
    (h3 : Within fs b s3) : Keeps fs b (execVcvt a1 a2 s3) := by
  unfold execVcvt
  repeat' (first
    | with_reducible intro _ | with_reducible assumption | with_reducible apply next_keeps
    | with_reducible apply vecArith_keeps | split | dsimp only)

theorem execVlut_keeps {fs : List Field} {b : State} {a1 s2}
    (m3 : .host ∈ fs) (m4 : .parts ∈ fs) (m5 : .rtes ∈ fs) (m9 : .pew ∈ fs) (m10 : .eng ∈ fs)
    (h2 : Within fs b s2) : Keeps fs b (execVlut a1 s2) := by
  unfold execVlut
  repeat' (first
    | with_reducible intro _ | with_reducible assumption | with_reducible apply next_keeps | with_reducible apply foldl_within
    | with_reducible apply foldl_fst_within | with_reducible apply foldl_snd_within | with_reducible apply vecPure_keeps
    | split | dsimp only)

theorem execVclz_keeps {fs : List Field} {b : State} {a1 s2}
    (m3 : .host ∈ fs) (m4 : .parts ∈ fs) (m5 : .rtes ∈ fs) (m9 : .pew ∈ fs) (m10 : .eng ∈ fs)
    (h2 : Within fs b s2) : Keeps fs b (execVclz a1 s2) := by
  unfold execVclz
  repeat' (first
    | with_reducible intro _ | with_reducible assumption | with_reducible apply next_keeps | with_reducible apply ite_keeps
    | with_reducible apply ite_within | with_reducible apply vecPure_keeps | split | dsimp only)

theorem execVred_keeps {fs : List Field} {b : State} {a1 a2 s3}
    (m3 : .host ∈ fs) (m4 : .parts ∈ fs) (m5 : .rtes ∈ fs) (m9 : .pew ∈ fs) (m10 : .eng ∈ fs)
    (h3 : Within fs b s3) : Keeps fs b (execVred a1 a2 s3) := by
  unfold execVred
  repeat' (first
    | with_reducible intro _ | with_reducible assumption | with_reducible apply next_keeps
    | with_reducible apply vecArith_keeps | split | dsimp only)

theorem execVspls_keeps {fs : List Field} {b : State} {a1 s2}
    (m3 : .host ∈ fs) (m4 : .parts ∈ fs) (m5 : .rtes ∈ fs) (m9 : .pew ∈ fs) (m10 : .eng ∈ fs)
    (h2 : Within fs b s2) : Keeps fs b (execVspls a1 s2) := by
  unfold execVspls
  repeat' (first
    | with_reducible intro _ | with_reducible assumption | with_reducible apply next_keeps
    | with_reducible apply vecPure_keeps | split | dsimp only)

theorem execVcap_keeps {fs : List Field} {b : State} {a1 s2}
    (m3 : .host ∈ fs) (m4 : .parts ∈ fs) (m5 : .rtes ∈ fs) (m9 : .pew ∈ fs) (m10 : .eng ∈ fs)
    (h2 : Within fs b s2) : Keeps fs b (execVcap a1 s2) := by
  unfold execVcap
  repeat' (first
    | with_reducible intro _ | with_reducible assumption | with_reducible apply next_keeps
    | with_reducible apply vecPure_keeps | split | dsimp only)

theorem execVsig_keeps {fs : List Field} {b : State} {a1 s2}
    (m3 : .host ∈ fs) (m4 : .parts ∈ fs) (m5 : .rtes ∈ fs) (m9 : .pew ∈ fs) (m10 : .eng ∈ fs)
    (h2 : Within fs b s2) : Keeps fs b (execVsig a1 s2) := by
  unfold execVsig
  repeat' (first
    | with_reducible intro _ | with_reducible assumption | with_reducible apply next_keeps
    | with_reducible apply vecPure_keeps | split | dsimp only)

theorem execVwait_keeps {fs : List Field} {b : State} {a1 s2}
    (m3 : .host ∈ fs) (m4 : .parts ∈ fs) (m5 : .rtes ∈ fs) (m9 : .pew ∈ fs) (m10 : .eng ∈ fs)
    (h2 : Within fs b s2) : Keeps fs b (execVwait a1 s2) := by
  unfold execVwait
  repeat' (first
    | with_reducible intro _ | with_reducible assumption | with_reducible apply next_keeps | with_reducible apply ite_keeps
    | with_reducible apply onUnit_keeps | with_reducible apply ite_within | with_reducible apply vecRun_within
    | with_reducible apply modCore_within | split | dsimp only)

theorem execVwaitEnd_keeps {fs : List Field} {b : State} {a1 s2}
    (m10 : .eng ∈ fs)
    (h2 : Within fs b s2) : Keeps fs b (execVwaitEnd a1 s2) := by
  unfold execVwaitEnd
  repeat' (first
    | with_reducible intro _ | with_reducible assumption | with_reducible apply next_keeps | with_reducible apply onUnit_keeps
    | with_reducible apply whenB_within | with_reducible apply modCore_within | split | dsimp only)

theorem execVwaitlong_keeps {fs : List Field} {b : State} {a1 s2}
    (m10 : .eng ∈ fs)
    (h2 : Within fs b s2) : Keeps fs b (execVwaitlong a1 s2) := by
  unfold execVwaitlong
  repeat' (first
    | with_reducible intro _ | with_reducible assumption | with_reducible apply next_keeps | with_reducible apply onUnit_keeps
    | with_reducible apply whenB_within | with_reducible apply notice_within | with_reducible apply modCore_within | split
    | dsimp only)

theorem execVsetl_keeps {fs : List Field} {b : State} {a1 s2}
    (m3 : .host ∈ fs) (m4 : .parts ∈ fs) (m5 : .rtes ∈ fs) (m9 : .pew ∈ fs) (m10 : .eng ∈ fs)
    (h2 : Within fs b s2) : Keeps fs b (execVsetl a1 s2) := by
  unfold execVsetl
  repeat' (first
    | with_reducible intro _ | with_reducible assumption | with_reducible apply next_keeps
    | with_reducible apply vecPure_keeps | split | dsimp only)

theorem execVloop_keeps {fs : List Field} {b : State} {a1 s2}
    (m3 : .host ∈ fs) (m4 : .parts ∈ fs) (m5 : .rtes ∈ fs) (m9 : .pew ∈ fs) (m10 : .eng ∈ fs)
    (h2 : Within fs b s2) : Keeps fs b (execVloop a1 s2) := by
  unfold execVloop
  repeat' (first
    | with_reducible intro _ | with_reducible assumption | with_reducible apply next_keeps | with_reducible apply ite_keeps
    | with_reducible apply ite_within | with_reducible apply vecPure_keeps | split | dsimp only)

theorem execVend_keeps {fs : List Field} {b : State} {a1 s2}
    (m3 : .host ∈ fs) (m4 : .parts ∈ fs) (m5 : .rtes ∈ fs) (m9 : .pew ∈ fs) (m10 : .eng ∈ fs)
    (h2 : Within fs b s2) : Keeps fs b (execVend a1 s2) := by
  unfold execVend
  repeat' (first
    | with_reducible intro _ | with_reducible assumption | with_reducible apply next_keeps | with_reducible apply onUnit_keeps
    | with_reducible apply vecRun_within | with_reducible apply notice_within | with_reducible apply modCore_within | split
    | dsimp only)

theorem seApplied_within {fs : List Field} {b : State} {s1 a2 a3}
    (m10 : .eng ∈ fs)
    (h1 : Within fs b s1) : Within fs b (seApplied s1 a2 a3) := by
  unfold seApplied
  repeat' (first
    | with_reducible intro _ | with_reducible assumption | with_reducible apply ite_within | with_reducible apply foldl_within
    | with_reducible apply foldl_fst_within | with_reducible apply foldl_snd_within | with_reducible apply tinDrop_within
    | with_reducible apply modEng_within | split | dsimp only)

theorem seField_keeps {fs : List Field} {b : State} {a1 a2 a3 a4 f5 s6}
    (m9 : .pew ∈ fs) (m10 : .eng ∈ fs)
    (h5 : ∀ x0 x1 x2, Within fs b x2 → Within fs b (f5 x0 x1 x2)) (h6 : Within fs b s6) : Keeps fs b (seField a1 a2 a3 a4 f5 s6) := by
  unfold seField
  repeat' (first
    | with_reducible intro _ | with_reducible assumption | with_reducible apply h5 | with_reducible apply next_keeps
    | with_reducible apply ite_keeps | with_reducible apply onUnit_keeps | with_reducible apply ite_within
    | with_reducible apply tinBad_within | with_reducible apply tinDrop_within | with_reducible apply seApplied_within | split
    | dsimp only)

theorem execSeSetwd_keeps {fs : List Field} {b : State} {a1 a2 a3 s4}
    (m9 : .pew ∈ fs) (m10 : .eng ∈ fs)
    (h4 : Within fs b s4) : Keeps fs b (execSeSetwd a1 a2 a3 s4) := by
  unfold execSeSetwd
  repeat' (first
    | with_reducible intro _ | with_reducible assumption | with_reducible apply next_keeps | with_reducible apply ite_keeps
    | with_reducible apply ite_within | with_reducible apply seField_keeps | with_reducible apply modSE_within | split
    | dsimp only)

theorem execSeSetp_keeps {fs : List Field} {b : State} {a1 a2 a3 s4}
    (m9 : .pew ∈ fs) (m10 : .eng ∈ fs)
    (h4 : Within fs b s4) : Keeps fs b (execSeSetp a1 a2 a3 s4) := by
  unfold execSeSetp
  repeat' (first
    | with_reducible intro _ | with_reducible assumption | with_reducible apply next_keeps | with_reducible apply foldl_within
    | with_reducible apply foldl_fst_within | with_reducible apply foldl_snd_within | with_reducible apply seField_keeps
    | with_reducible apply modSE_within | split | dsimp only)

theorem execSeAbort_keeps {fs : List Field} {b : State} {a1 a2 a3 s4}
    (m9 : .pew ∈ fs) (m10 : .eng ∈ fs)
    (h4 : Within fs b s4) : Keeps fs b (execSeAbort a1 a2 a3 s4) := by
  unfold execSeAbort
  repeat' (first
    | with_reducible intro _ | with_reducible assumption | with_reducible apply next_keeps
    | with_reducible apply seField_keeps | with_reducible apply modSE_within | split | dsimp only)

theorem execSeStart_keeps {fs : List Field} {b : State} {a1 a2 a3 s4}
    (m9 : .pew ∈ fs) (m10 : .eng ∈ fs)
    (h4 : Within fs b s4) : Keeps fs b (execSeStart a1 a2 a3 s4) := by
  unfold execSeStart
  repeat' (first
    | with_reducible intro _ | with_reducible assumption | with_reducible apply next_keeps | with_reducible apply ite_keeps
    | with_reducible apply ite_within | with_reducible apply seField_keeps | with_reducible apply modSE_within
    | with_reducible apply seStart_within | split | dsimp only)

theorem execSeQuery_keeps {fs : List Field} {b : State} {a1 a2 a3 s4}
    (m9 : .pew ∈ fs) (m10 : .eng ∈ fs)
    (h4 : Within fs b s4) : Keeps fs b (execSeQuery a1 a2 a3 s4) := by
  unfold execSeQuery
  repeat' (first
    | with_reducible intro _ | with_reducible assumption | with_reducible apply next_keeps
    | with_reducible apply seField_keeps | with_reducible apply tinSend_within | split | dsimp only)

theorem execSeLoad_keeps {fs : List Field} {b : State} {a1 a2 a3 s4}
    (m9 : .pew ∈ fs) (m10 : .eng ∈ fs)
    (h4 : Within fs b s4) : Keeps fs b (execSeLoad a1 a2 a3 s4) := by
  unfold execSeLoad
  repeat' (first
    | with_reducible intro _ | with_reducible assumption | with_reducible apply next_keeps | with_reducible apply ite_keeps
    | with_reducible apply onUnit_keeps | with_reducible apply ite_within | with_reducible apply foldl_within
    | with_reducible apply foldl_fst_within | with_reducible apply foldl_snd_within | with_reducible apply tinBad_within
    | with_reducible apply tinDrop_within | with_reducible apply modSE_within | split | dsimp only)

theorem execSeAborted_keeps {fs : List Field} {b : State} {a1 a2 s3}
    (m10 : .eng ∈ fs)
    (h3 : Within fs b s3) : Keeps fs b (execSeAborted a1 a2 s3) := by
  unfold execSeAborted
  repeat' (first
    | with_reducible intro _ | with_reducible assumption | with_reducible apply next_keeps | with_reducible apply onUnit_keeps
    | with_reducible apply whenB_within | with_reducible apply modSE_within | split | dsimp only)

theorem seFault_within {fs : List Field} {b : State} {s1 a2 a3 a4 a5}
    (m3 : .host ∈ fs) (m4 : .parts ∈ fs) (m5 : .rtes ∈ fs) (m9 : .pew ∈ fs) (m10 : .eng ∈ fs)
    (h1 : Within fs b s1) : Within fs b (seFault s1 a2 a3 a4 a5) := by
  unfold seFault
  repeat' (first
    | with_reducible intro _ | with_reducible assumption | with_reducible apply coreFault_within
    | with_reducible apply modSE_within | split | dsimp only)

theorem seMoved_within {fs : List Field} {b : State} {s1 a2 a3}
    (m10 : .eng ∈ fs)
    (h1 : Within fs b s1) : Within fs b (seMoved s1 a2 a3) := by
  unfold seMoved
  repeat' (first
    | with_reducible intro _ | with_reducible assumption | with_reducible apply modSE_within | split | dsimp only)

theorem seRun_within {fs : List Field} {b : State} {a1 a2 a3 f4 s5}
    (m3 : .host ∈ fs) (m4 : .parts ∈ fs) (m5 : .rtes ∈ fs) (m9 : .pew ∈ fs) (m10 : .eng ∈ fs)
    (h4 : ∀ x0 x1, Within fs b x1 → Within fs b (f4 x0 x1)) (h5 : Within fs b s5) : Within fs b (seRun a1 a2 a3 f4 s5) := by
  unfold seRun
  repeat' (first
    | with_reducible intro _ | with_reducible assumption | with_reducible apply h4 | with_reducible apply ite_within
    | with_reducible apply seFault_within | split | dsimp only)

theorem sePure_keeps {fs : List Field} {b : State} {a1 a2 a3 a4 s5}
    (m3 : .host ∈ fs) (m4 : .parts ∈ fs) (m5 : .rtes ∈ fs) (m9 : .pew ∈ fs) (m10 : .eng ∈ fs)
    (h5 : Within fs b s5) : Keeps fs b (sePure a1 a2 a3 a4 s5) := by
  unfold sePure
  repeat' (first
    | with_reducible intro _ | with_reducible assumption | with_reducible apply next_keeps | with_reducible apply onUnit_keeps
    | with_reducible apply seRun_within | with_reducible apply seMoved_within | with_reducible apply modSE_within | split
    | dsimp only)

theorem execSnop_keeps {fs : List Field} {b : State} {a1 a2 s3}
    (m3 : .host ∈ fs) (m4 : .parts ∈ fs) (m5 : .rtes ∈ fs) (m9 : .pew ∈ fs) (m10 : .eng ∈ fs)
    (h3 : Within fs b s3) : Keeps fs b (execSnop a1 a2 s3) := by
  unfold execSnop
  repeat' (first
    | with_reducible intro _ | with_reducible assumption | with_reducible apply next_keeps | with_reducible apply sePure_keeps
    | split | dsimp only)

theorem execSetm_keeps {fs : List Field} {b : State} {a1 a2 s3}
    (m3 : .host ∈ fs) (m4 : .parts ∈ fs) (m5 : .rtes ∈ fs) (m9 : .pew ∈ fs) (m10 : .eng ∈ fs)
    (h3 : Within fs b s3) : Keeps fs b (execSetm a1 a2 s3) := by
  unfold execSetm
  repeat' (first
    | with_reducible intro _ | with_reducible assumption | with_reducible apply next_keeps | with_reducible apply sePure_keeps
    | split | dsimp only)

theorem execSets_keeps {fs : List Field} {b : State} {a1 a2 s3}
    (m3 : .host ∈ fs) (m4 : .parts ∈ fs) (m5 : .rtes ∈ fs) (m9 : .pew ∈ fs) (m10 : .eng ∈ fs)
    (h3 : Within fs b s3) : Keeps fs b (execSets a1 a2 s3) := by
  unfold execSets
  repeat' (first
    | with_reducible intro _ | with_reducible assumption | with_reducible apply next_keeps | with_reducible apply sePure_keeps
    | split | dsimp only)

theorem execSetc_keeps {fs : List Field} {b : State} {a1 a2 s3}
    (m3 : .host ∈ fs) (m4 : .parts ∈ fs) (m5 : .rtes ∈ fs) (m9 : .pew ∈ fs) (m10 : .eng ∈ fs)
    (h3 : Within fs b s3) : Keeps fs b (execSetc a1 a2 s3) := by
  unfold execSetc
  repeat' (first
    | with_reducible intro _ | with_reducible assumption | with_reducible apply next_keeps | with_reducible apply sePure_keeps
    | split | dsimp only)

theorem execLimit_keeps {fs : List Field} {b : State} {a1 a2 s3}
    (m3 : .host ∈ fs) (m4 : .parts ∈ fs) (m5 : .rtes ∈ fs) (m9 : .pew ∈ fs) (m10 : .eng ∈ fs)
    (h3 : Within fs b s3) : Keeps fs b (execLimit a1 a2 s3) := by
  unfold execLimit
  repeat' (first
    | with_reducible intro _ | with_reducible assumption | with_reducible apply next_keeps | with_reducible apply ite_keeps
    | with_reducible apply ite_within | with_reducible apply sePure_keeps | split | dsimp only)

theorem execStrm_keeps {fs : List Field} {b : State} {a1 a2 s3}
    (m3 : .host ∈ fs) (m4 : .parts ∈ fs) (m5 : .rtes ∈ fs) (m9 : .pew ∈ fs) (m10 : .eng ∈ fs)
    (h3 : Within fs b s3) : Keeps fs b (execStrm a1 a2 s3) := by
  unfold execStrm
  repeat' (first
    | with_reducible intro _ | with_reducible assumption | with_reducible apply next_keeps | with_reducible apply sePure_keeps
    | split | dsimp only)

theorem execStrc_keeps {fs : List Field} {b : State} {a1 a2 s3}
    (m3 : .host ∈ fs) (m4 : .parts ∈ fs) (m5 : .rtes ∈ fs) (m9 : .pew ∈ fs) (m10 : .eng ∈ fs)
    (h3 : Within fs b s3) : Keeps fs b (execStrc a1 a2 s3) := by
  unfold execStrc
  repeat' (first
    | with_reducible intro _ | with_reducible assumption | with_reducible apply next_keeps | with_reducible apply sePure_keeps
    | split | dsimp only)

theorem execLoop_keeps {fs : List Field} {b : State} {a1 a2 s3}
    (m3 : .host ∈ fs) (m4 : .parts ∈ fs) (m5 : .rtes ∈ fs) (m9 : .pew ∈ fs) (m10 : .eng ∈ fs)
    (h3 : Within fs b s3) : Keeps fs b (execLoop a1 a2 s3) := by
  unfold execLoop
  repeat' (first
    | with_reducible intro _ | with_reducible assumption | with_reducible apply next_keeps | with_reducible apply ite_keeps
    | with_reducible apply ite_within | with_reducible apply sePure_keeps | split | dsimp only)

theorem execEndl_keeps {fs : List Field} {b : State} {a1 a2 s3}
    (m3 : .host ∈ fs) (m4 : .parts ∈ fs) (m5 : .rtes ∈ fs) (m9 : .pew ∈ fs) (m10 : .eng ∈ fs)
    (h3 : Within fs b s3) : Keeps fs b (execEndl a1 a2 s3) := by
  unfold execEndl
  repeat' (first
    | with_reducible intro _ | with_reducible assumption | with_reducible apply next_keeps | with_reducible apply ite_keeps
    | with_reducible apply ite_within | with_reducible apply sePure_keeps | split | dsimp only)

theorem execShape_keeps {fs : List Field} {b : State} {a1 a2 s3}
    (m3 : .host ∈ fs) (m4 : .parts ∈ fs) (m5 : .rtes ∈ fs) (m9 : .pew ∈ fs) (m10 : .eng ∈ fs)
    (h3 : Within fs b s3) : Keeps fs b (execShape a1 a2 s3) := by
  unfold execShape
  repeat' (first
    | with_reducible intro _ | with_reducible assumption | with_reducible apply next_keeps | with_reducible apply sePure_keeps
    | split | dsimp only)

theorem execCfg_keeps {fs : List Field} {b : State} {a1 a2 s3}
    (m3 : .host ∈ fs) (m4 : .parts ∈ fs) (m5 : .rtes ∈ fs) (m9 : .pew ∈ fs) (m10 : .eng ∈ fs)
    (h3 : Within fs b s3) : Keeps fs b (execCfg a1 a2 s3) := by
  unfold execCfg
  repeat' (first
    | with_reducible intro _ | with_reducible assumption | with_reducible apply next_keeps | with_reducible apply sePure_keeps
    | split | dsimp only)

theorem execWait_keeps {fs : List Field} {b : State} {a1 a2 s3}
    (m3 : .host ∈ fs) (m4 : .parts ∈ fs) (m5 : .rtes ∈ fs) (m9 : .pew ∈ fs) (m10 : .eng ∈ fs)
    (h3 : Within fs b s3) : Keeps fs b (execWait a1 a2 s3) := by
  unfold execWait
  repeat' (first
    | with_reducible intro _ | with_reducible assumption | with_reducible apply next_keeps | with_reducible apply onUnit_keeps
    | with_reducible apply seRun_within | with_reducible apply modSE_within | split | dsimp only)

theorem execStreamWaitEnd_keeps {fs : List Field} {b : State} {a1 a2 s3}
    (m10 : .eng ∈ fs)
    (h3 : Within fs b s3) : Keeps fs b (execStreamWaitEnd a1 a2 s3) := by
  unfold execStreamWaitEnd
  repeat' (first
    | with_reducible intro _ | with_reducible assumption | with_reducible apply next_keeps | with_reducible apply onUnit_keeps
    | with_reducible apply whenB_within | with_reducible apply seMoved_within | with_reducible apply modSE_within | split
    | dsimp only)

theorem execEndProg_keeps {fs : List Field} {b : State} {a1 a2 s3}
    (m3 : .host ∈ fs) (m4 : .parts ∈ fs) (m5 : .rtes ∈ fs) (m9 : .pew ∈ fs) (m10 : .eng ∈ fs)
    (h3 : Within fs b s3) : Keeps fs b (execEndProg a1 a2 s3) := by
  unfold execEndProg
  repeat' (first
    | with_reducible intro _ | with_reducible assumption | with_reducible apply next_keeps | with_reducible apply onUnit_keeps
    | with_reducible apply seRun_within | with_reducible apply modSE_within | split | dsimp only)

theorem execSdone_keeps {fs : List Field} {b : State} {a1 a2 s3}
    (m10 : .eng ∈ fs)
    (h3 : Within fs b s3) : Keeps fs b (execSdone a1 a2 s3) := by
  unfold execSdone
  repeat' (first
    | with_reducible intro _ | with_reducible assumption | with_reducible apply next_keeps | with_reducible apply onUnit_keeps
    | with_reducible apply whenB_within | with_reducible apply notice_within | with_reducible apply seMoved_within
    | with_reducible apply modSE_within | split | dsimp only)

theorem execSwatch_keeps {fs : List Field} {b : State} {a1 a2 s3}
    (m10 : .eng ∈ fs)
    (h3 : Within fs b s3) : Keeps fs b (execSwatch a1 a2 s3) := by
  unfold execSwatch
  repeat' (first
    | with_reducible intro _ | with_reducible assumption | with_reducible apply next_keeps | with_reducible apply onUnit_keeps
    | with_reducible apply whenB_within | with_reducible apply notice_within | with_reducible apply modSE_within | split
    | dsimp only)

theorem addXfer_within {fs : List Field} {b : State} {s1 a2 a3 a4}
    (m10 : .eng ∈ fs)
    (h1 : Within fs b s1) : Within fs b (addXfer s1 a2 a3 a4) := by
  unfold addXfer
  repeat' (first
    | with_reducible intro _ | with_reducible assumption | with_reducible apply seMoved_within
    | with_reducible apply modSE_within | split | dsimp only)

theorem modXfer_within {fs : List Field} {b : State} {s1 a2 a3 a4 a5}
    (m10 : .eng ∈ fs)
    (h1 : Within fs b s1) : Within fs b (modXfer s1 a2 a3 a4 a5) := by
  unfold modXfer
  repeat' (first
    | with_reducible intro _ | with_reducible assumption | with_reducible apply modSE_within | split | dsimp only)

theorem seAcc_within {fs : List Field} {b : State} {s1 a2 a3 a4 s5}
    (m3 : .host ∈ fs) (m4 : .parts ∈ fs) (m5 : .rtes ∈ fs) (m9 : .pew ∈ fs) (m10 : .eng ∈ fs)
    (h1 : Within fs b s1) (h5 : Within fs b s5) : Within fs b (seAcc s1 a2 a3 a4 s5) := by
  unfold seAcc
  repeat' (first
    | with_reducible intro _ | with_reducible assumption | with_reducible apply modCore_within
    | with_reducible apply seFault_within | split | dsimp only)

theorem tier2Fail_within {fs : List Field} {b : State} {s1 a2 a3 a4 a5}
    (m3 : .host ∈ fs) (m4 : .parts ∈ fs) (m5 : .rtes ∈ fs) (m10 : .eng ∈ fs)
    (h1 : Within fs b s1) : Within fs b (tier2Fail s1 a2 a3 a4 a5) := by
  unfold tier2Fail
  repeat' (first
    | with_reducible intro _ | with_reducible assumption | with_reducible apply foldl_within
    | with_reducible apply foldl_fst_within | with_reducible apply foldl_snd_within | with_reducible apply failCtxAt_within
    | with_reducible apply seStop_within | with_reducible apply failReq_within | split | dsimp only)

theorem readBack_within {fs : List Field} {b : State} {s1 a2 a3}
    (m11 : .mem ∈ fs)
    (h1 : Within fs b s1) : Within fs b (readBack s1 a2 a3) := by
  unfold readBack
  repeat' (first
    | with_reducible intro _ | with_reducible assumption | (with_reducible refine modMem_within _ ‹_› ?_ ?_)
    | with_reducible rfl | exact putLine_bytes _ _ _ _ | exact refreshed_bytes _ _ _ | split | dsimp only)

theorem issueTier1_within {fs : List Field} {b : State} {s1 a2 a3 a4 a5}
    (m11 : .mem ∈ fs)
    (h1 : Within fs b s1) : Within fs b (issueTier1 s1 a2 a3 a4 a5) := by
  unfold issueTier1
  repeat' (first
    | with_reducible intro _ | with_reducible assumption | with_reducible apply ite_within | with_reducible apply foldl_within
    | with_reducible apply foldl_fst_within | with_reducible apply foldl_snd_within | with_reducible apply cacheAccess_within
    | (with_reducible refine modMem_within _ ‹_› ?_ ?_) | with_reducible rfl | exact putLine_bytes _ _ _ _
    | exact refreshed_bytes _ _ _ | split | dsimp only)

theorem issueRead_within {fs : List Field} {b : State} {s1 a2 a3 a4}
    (m3 : .host ∈ fs) (m4 : .parts ∈ fs) (m5 : .rtes ∈ fs) (m6 : .fab ∈ fs) (m9 : .pew ∈ fs) (m10 : .eng ∈ fs)
    (m11 : .mem ∈ fs)
    (h1 : Within fs b s1) : Within fs b (issueRead s1 a2 a3 a4) := by
  unfold issueRead
  repeat' (first
    | with_reducible intro _ | with_reducible assumption | with_reducible apply ite_within
    | with_reducible apply modXfer_within | with_reducible apply issueTier1_within | with_reducible apply startRead_within
    | with_reducible apply tier2Fail_within | with_reducible apply dropRead_within | split | dsimp only)

theorem meetLines_within {fs : List Field} {b : State} {s1 a2 a3 a4}
    (m3 : .host ∈ fs) (m4 : .parts ∈ fs) (m5 : .rtes ∈ fs) (m9 : .pew ∈ fs) (m10 : .eng ∈ fs) (m11 : .mem ∈ fs)
    (h1 : Within fs b s1) : Within fs b (meetLines s1 a2 a3 a4) := by
  unfold meetLines
  repeat' (first
    | with_reducible intro _ | with_reducible assumption | with_reducible apply foldl_within
    | with_reducible apply foldl_fst_within | with_reducible apply foldl_snd_within | with_reducible apply lineMet_within
    | split | dsimp only)

theorem execFill_keeps {fs : List Field} {b : State} {a1 a2 a3 s4}
    (m3 : .host ∈ fs) (m4 : .parts ∈ fs) (m5 : .rtes ∈ fs) (m6 : .fab ∈ fs) (m9 : .pew ∈ fs) (m10 : .eng ∈ fs)
    (m11 : .mem ∈ fs)
    (h4 : Within fs b s4) : Keeps fs b (execFill a1 a2 a3 s4) := by
  unfold execFill
  repeat' (first
    | with_reducible intro _ | with_reducible assumption | with_reducible apply next_keeps | with_reducible apply ite_keeps
    | with_reducible apply onUnit_keeps | with_reducible apply fault_keeps | with_reducible apply ite_within
    | with_reducible apply seStop_within | with_reducible apply modXfer_within | with_reducible apply readBack_within
    | with_reducible apply seMoved_within | with_reducible apply issueRead_within | with_reducible apply meetLines_within
    | with_reducible apply seRun_within | with_reducible refine modHost_within _ ?_ ?_ | with_reducible apply seFault_within
    | with_reducible apply seAcc_within | with_reducible apply addXfer_within | split | dsimp only)

theorem engineWrite_within {fs : List Field} {b : State} {s1 a2 a3 a4 a5 a6 a7}
    (m3 : .host ∈ fs) (m6 : .fab ∈ fs) (m9 : .pew ∈ fs) (m11 : .mem ∈ fs)
    (h1 : Within fs b s1) : Within fs b (engineWrite s1 a2 a3 a4 a5 a6 a7).1 := by
  unfold engineWrite
  repeat' (first
    | with_reducible intro _ | with_reducible assumption | with_reducible apply ite_within
    | with_reducible apply localWrite_within | with_reducible apply hostWrite_within
    | with_reducible apply peerWriteAll_within | split | dsimp only)

theorem drainRows_within {fs : List Field} {b : State} {s1 a2 a3 a4 a5}
    (m3 : .host ∈ fs) (m6 : .fab ∈ fs) (m9 : .pew ∈ fs) (m11 : .mem ∈ fs)
    (h1 : Within fs b s1) : Within fs b (drainRows s1 a2 a3 a4 a5).1 := by
  unfold drainRows
  repeat' (first
    | with_reducible intro _ | with_reducible assumption | with_reducible apply ite_within | with_reducible apply foldl_within
    | with_reducible apply foldl_fst_within | with_reducible apply foldl_snd_within | with_reducible apply engineWrite_within
    | split | dsimp only)

theorem execDrain_keeps {fs : List Field} {b : State} {a1 a2 a3 a4 s5}
    (m3 : .host ∈ fs) (m4 : .parts ∈ fs) (m5 : .rtes ∈ fs) (m6 : .fab ∈ fs) (m9 : .pew ∈ fs) (m10 : .eng ∈ fs)
    (m11 : .mem ∈ fs)
    (h5 : Within fs b s5) : Keeps fs b (execDrain a1 a2 a3 a4 s5) := by
  unfold execDrain
  repeat' (first
    | with_reducible intro _ | with_reducible assumption | with_reducible apply next_keeps | with_reducible apply ite_keeps
    | with_reducible apply onUnit_keeps | with_reducible apply fault_keeps | with_reducible apply ite_within
    | with_reducible apply seRun_within | with_reducible apply meetLines_within | with_reducible refine modHost_within _ ?_ ?_
    | with_reducible apply seStop_within | with_reducible apply seFault_within | with_reducible apply upsets_within
    | with_reducible apply seAcc_within | with_reducible apply drainRows_within | with_reducible apply addXfer_within
    | with_reducible apply tier2Fail_within | split | dsimp only)

theorem feedBeat_within {fs : List Field} {b : State} {s1 a2 a3 a4 a5}
    (m3 : .host ∈ fs) (m4 : .parts ∈ fs) (m5 : .rtes ∈ fs) (m9 : .pew ∈ fs) (m10 : .eng ∈ fs)
    (h1 : Within fs b s1) : Within fs b (feedBeat s1 a2 a3 a4 a5) := by
  unfold feedBeat
  repeat' (first
    | with_reducible intro _ | with_reducible assumption | with_reducible apply ite_within | with_reducible apply foldl_within
    | with_reducible apply foldl_fst_within | with_reducible apply foldl_snd_within | with_reducible apply upsets_within
    | with_reducible apply seAcc_within | with_reducible apply modCore_within | with_reducible apply seMoved_within
    | with_reducible apply modXfer_within | split | dsimp only)

theorem execFeed_keeps {fs : List Field} {b : State} {a1 a2 a3 s4}
    (m3 : .host ∈ fs) (m4 : .parts ∈ fs) (m5 : .rtes ∈ fs) (m9 : .pew ∈ fs) (m10 : .eng ∈ fs)
    (h4 : Within fs b s4) : Keeps fs b (execFeed a1 a2 a3 s4) := by
  unfold execFeed
  repeat' (first
    | with_reducible intro _ | with_reducible assumption | with_reducible apply next_keeps | with_reducible apply onUnit_keeps
    | with_reducible apply feedBeat_within | with_reducible apply seRun_within | with_reducible apply addXfer_within
    | with_reducible refine modHost_within _ ?_ ?_ | split | dsimp only)

theorem collectBeat_within {fs : List Field} {b : State} {s1 a2 a3 a4}
    (m3 : .host ∈ fs) (m4 : .parts ∈ fs) (m5 : .rtes ∈ fs) (m9 : .pew ∈ fs) (m10 : .eng ∈ fs)
    (h1 : Within fs b s1) : Within fs b (collectBeat s1 a2 a3 a4) := by
  unfold collectBeat
  repeat' (first
    | with_reducible intro _ | with_reducible assumption | with_reducible apply foldl_within
    | with_reducible apply foldl_fst_within | with_reducible apply foldl_snd_within | with_reducible apply seAcc_within
    | with_reducible apply seMoved_within | with_reducible apply modXfer_within | with_reducible apply setCore_within | split
    | dsimp only)

theorem execCollect_keeps {fs : List Field} {b : State} {a1 a2 s3}
    (m3 : .host ∈ fs) (m4 : .parts ∈ fs) (m5 : .rtes ∈ fs) (m9 : .pew ∈ fs) (m10 : .eng ∈ fs)
    (h3 : Within fs b s3) : Keeps fs b (execCollect a1 a2 s3) := by
  unfold execCollect
  repeat' (first
    | with_reducible intro _ | with_reducible assumption | with_reducible apply next_keeps | with_reducible apply onUnit_keeps
    | with_reducible apply collectBeat_within | with_reducible apply seRun_within | with_reducible apply addXfer_within
    | with_reducible refine modHost_within _ ?_ ?_ | split | dsimp only)

theorem fillPut_within {fs : List Field} {b : State} {s1 a2 a3}
    (m10 : .eng ∈ fs)
    (h1 : Within fs b s1) : Within fs b (fillPut s1 a2 a3) := by
  unfold fillPut
  repeat' (first
    | with_reducible intro _ | with_reducible assumption | with_reducible apply modCore_within | split | dsimp only)

theorem flagMsgs_within {fs : List Field} {b : State} {s1 a2 a3}
    (m10 : .eng ∈ fs)
    (h1 : Within fs b s1) : Within fs b (flagMsgs s1 a2 a3) := by
  unfold flagMsgs
  repeat' (first
    | with_reducible intro _ | with_reducible assumption | with_reducible apply ite_within | with_reducible apply foldl_within
    | with_reducible apply foldl_fst_within | with_reducible apply foldl_snd_within | with_reducible apply tinSend_within
    | split | dsimp only)

theorem sendSignals_within {fs : List Field} {b : State} {a1 a2 a3 s4}
    (m10 : .eng ∈ fs)
    (h4 : Within fs b s4) : Within fs b (sendSignals a1 a2 a3 s4) := by
  induction a1 generalizing a2 a3 s4 with
  | zero =>
    unfold sendSignals
    repeat' (first
    | with_reducible intro _ | with_reducible assumption | with_reducible apply ite_within | with_reducible apply modSE_within
    | with_reducible apply modCore_within | split | dsimp only)
  | succ n ih =>
    unfold sendSignals
    repeat' (first
    | with_reducible intro _ | with_reducible assumption | with_reducible apply ih | with_reducible apply ite_within
    | with_reducible apply modSE_within | with_reducible apply modCore_within | split | dsimp only)

theorem execSig_keeps {fs : List Field} {b : State} {a1 a2 s3}
    (m3 : .host ∈ fs) (m4 : .parts ∈ fs) (m5 : .rtes ∈ fs) (m9 : .pew ∈ fs) (m10 : .eng ∈ fs)
    (h3 : Within fs b s3) : Keeps fs b (execSig a1 a2 s3) := by
  unfold execSig
  repeat' (first
    | with_reducible intro _ | with_reducible assumption | with_reducible apply next_keeps | with_reducible apply onUnit_keeps
    | with_reducible apply seRun_within | with_reducible apply addXfer_within | with_reducible refine modHost_within _ ?_ ?_
    | with_reducible apply sendSignals_within | split | dsimp only)

theorem execStreamTransferComplete_keeps {fs : List Field} {b : State} {a1 a2 a3 s4}
    (m10 : .eng ∈ fs) (m11 : .mem ∈ fs)
    (h4 : Within fs b s4) : Keeps fs b (execStreamTransferComplete a1 a2 a3 s4) := by
  unfold execStreamTransferComplete
  repeat' (first
    | with_reducible intro _ | with_reducible assumption | with_reducible apply next_keeps | with_reducible apply ite_keeps
    | with_reducible apply onUnit_keeps | with_reducible apply ite_within | with_reducible apply modXfer_within
    | with_reducible apply readBack_within | with_reducible apply fillPut_within | with_reducible apply flagMsgs_within
    | with_reducible apply seMoved_within | with_reducible apply sendSignals_within | split | dsimp only)

theorem execStreamReadError_keeps {fs : List Field} {b : State} {a1 a2 a3 s4}
    (m3 : .host ∈ fs) (m4 : .parts ∈ fs) (m5 : .rtes ∈ fs) (m9 : .pew ∈ fs) (m10 : .eng ∈ fs) (m11 : .mem ∈ fs)
    (h4 : Within fs b s4) : Keeps fs b (execStreamReadError a1 a2 a3 s4) := by
  unfold execStreamReadError
  repeat' (first
    | with_reducible intro _ | with_reducible assumption | with_reducible apply next_keeps | with_reducible apply ite_keeps
    | with_reducible apply onUnit_keeps | with_reducible apply ite_within | with_reducible apply lostFor_within
    | with_reducible apply seStop_within | with_reducible apply readBack_within | split | dsimp only)

theorem cntAnswer_within {fs : List Field} {b : State} {s1 a2 a3 a4 a5 a6}
    (m10 : .eng ∈ fs)
    (h1 : Within fs b s1) : Within fs b (cntAnswer s1 a2 a3 a4 a5 a6) := by
  unfold cntAnswer
  repeat' (first
    | with_reducible intro _ | with_reducible assumption | with_reducible apply tinSend_within | split | dsimp only)

theorem issueClaim_within {fs : List Field} {b : State} {s1 a2 a3 a4 a5 a6 a7 a8}
    (m10 : .eng ∈ fs)
    (h1 : Within fs b s1) : Within fs b (issueClaim s1 a2 a3 a4 a5 a6 a7 a8) := by
  unfold issueClaim
  repeat' (first
    | with_reducible intro _ | with_reducible assumption | with_reducible apply setCtr_within
    | with_reducible apply cntAnswer_within | split | dsimp only)

theorem tryClaim_within {fs : List Field} {b : State} {s1 a2 a3 a4 a5 a6 a7}
    (m10 : .eng ∈ fs)
    (h1 : Within fs b s1) : Within fs b (tryClaim s1 a2 a3 a4 a5 a6 a7) := by
  unfold tryClaim
  repeat' (first
    | with_reducible intro _ | with_reducible assumption | with_reducible apply ite_within
    | with_reducible apply cntAnswer_within | with_reducible apply setCtr_within | with_reducible apply issueClaim_within
    | split | dsimp only)

theorem cntOp_keeps {fs : List Field} {b : State} {a1 a2 a3 f4 s5}
    (m9 : .pew ∈ fs) (m10 : .eng ∈ fs)
    (h4 : ∀ x0 x1 x2 x3, Within fs b x3 → Within fs b (f4 x0 x1 x2 x3)) (h5 : Within fs b s5) : Keeps fs b (cntOp a1 a2 a3 f4 s5) := by
  unfold cntOp
  repeat' (first
    | with_reducible intro _ | with_reducible assumption | with_reducible apply h4 | with_reducible apply next_keeps
    | with_reducible apply ite_keeps | with_reducible apply onUnit_keeps | with_reducible apply ite_within
    | with_reducible apply tinBad_within | with_reducible apply tinDrop_within | with_reducible apply cntAnswer_within | split
    | dsimp only)

theorem execCntClaim_keeps {fs : List Field} {b : State} {a1 a2 s3}
    (m9 : .pew ∈ fs) (m10 : .eng ∈ fs)
    (h3 : Within fs b s3) : Keeps fs b (execCntClaim a1 a2 s3) := by
  unfold execCntClaim
  repeat' (first
    | with_reducible intro _ | with_reducible assumption | with_reducible apply next_keeps | with_reducible apply cntOp_keeps
    | with_reducible apply tryClaim_within | split | dsimp only)

theorem execClaimHeldAnswer_keeps {fs : List Field} {b : State} {a1 s2}
    (m10 : .eng ∈ fs)
    (h2 : Within fs b s2) : Keeps fs b (execClaimHeldAnswer a1 s2) := by
  unfold execClaimHeldAnswer
  repeat' (first
    | with_reducible intro _ | with_reducible assumption | with_reducible apply next_keeps | with_reducible apply ite_keeps
    | with_reducible apply ite_within | with_reducible apply tryClaim_within | with_reducible apply setCtr_within | split
    | dsimp only)

theorem retireTile_within {fs : List Field} {b : State} {s1 a2 a3}
    (m4 : .parts ∈ fs) (m11 : .mem ∈ fs)
    (h1 : Within fs b s1) : Within fs b (retireTile s1 a2 a3) := by
  unfold retireTile
  repeat' (first
    | with_reducible intro _ | with_reducible assumption | with_reducible apply joinFlags_within
    | with_reducible apply writeRows_within | split | dsimp only)

theorem execCntRetire_keeps {fs : List Field} {b : State} {a1 a2 s3}
    (m4 : .parts ∈ fs) (m9 : .pew ∈ fs) (m10 : .eng ∈ fs) (m11 : .mem ∈ fs)
    (h3 : Within fs b s3) : Keeps fs b (execCntRetire a1 a2 s3) := by
  unfold execCntRetire
  repeat' (first
    | with_reducible intro _ | with_reducible assumption | with_reducible apply next_keeps | with_reducible apply ite_keeps
    | with_reducible apply onUnit_keeps | with_reducible apply ite_within | with_reducible apply tinBad_within
    | with_reducible apply tinDrop_within | with_reducible apply cntAnswer_within | with_reducible apply retireTile_within
    | with_reducible apply setCtr_within | split | dsimp only)

theorem execCntWithdraw_keeps {fs : List Field} {b : State} {a1 a2 s3}
    (m9 : .pew ∈ fs) (m10 : .eng ∈ fs)
    (h3 : Within fs b s3) : Keeps fs b (execCntWithdraw a1 a2 s3) := by
  unfold execCntWithdraw
  repeat' (first
    | with_reducible intro _ | with_reducible assumption | with_reducible apply next_keeps | with_reducible apply cntOp_keeps
    | with_reducible apply cntAnswer_within | with_reducible apply setCtr_within | split | dsimp only)

theorem execCntQuery_keeps {fs : List Field} {b : State} {a1 a2 s3}
    (m9 : .pew ∈ fs) (m10 : .eng ∈ fs)
    (h3 : Within fs b s3) : Keeps fs b (execCntQuery a1 a2 s3) := by
  unfold execCntQuery
  repeat' (first
    | with_reducible intro _ | with_reducible assumption | with_reducible apply next_keeps | with_reducible apply cntOp_keeps
    | with_reducible apply cntAnswer_within | split | dsimp only)

theorem execCntDestroy_keeps {fs : List Field} {b : State} {a1 a2 s3}
    (m9 : .pew ∈ fs) (m10 : .eng ∈ fs)
    (h3 : Within fs b s3) : Keeps fs b (execCntDestroy a1 a2 s3) := by
  unfold execCntDestroy
  repeat' (first
    | with_reducible intro _ | with_reducible assumption | with_reducible apply next_keeps | with_reducible apply cntOp_keeps
    | with_reducible apply cntAnswer_within | with_reducible apply freeCtr_within | split | dsimp only)

theorem cntCreate_within {fs : List Field} {b : State} {s1 a2 a3}
    (m10 : .eng ∈ fs)
    (h1 : Within fs b s1) : Within fs b (cntCreate s1 a2 a3) := by
  unfold cntCreate
  repeat' (first
    | with_reducible intro _ | with_reducible assumption | with_reducible apply ite_within
    | with_reducible apply cntAnswer_within | with_reducible apply setCtr_within | split | dsimp only)

theorem execCntCreate_keeps {fs : List Field} {b : State} {a1 a2 s3}
    (m3 : .host ∈ fs) (m6 : .fab ∈ fs) (m9 : .pew ∈ fs) (m10 : .eng ∈ fs)
    (h3 : Within fs b s3) : Keeps fs b (execCntCreate a1 a2 s3) := by
  unfold execCntCreate
  repeat' (first
    | with_reducible intro _ | with_reducible assumption | with_reducible apply next_keeps | with_reducible apply ite_keeps
    | with_reducible apply onUnit_keeps | with_reducible apply ite_within | with_reducible apply tinBad_within
    | with_reducible apply startRead_within | with_reducible apply cntCreate_within | with_reducible apply tinDrop_within
    | split | dsimp only)

theorem execCntRsp_keeps {fs : List Field} {b : State} {a1 a2 s3}
    (m9 : .pew ∈ fs) (m10 : .eng ∈ fs)
    (h3 : Within fs b s3) : Keeps fs b (execCntRsp a1 a2 s3) := by
  unfold execCntRsp
  repeat' (first
    | with_reducible intro _ | with_reducible assumption | with_reducible apply next_keeps | with_reducible apply onUnit_keeps
    | with_reducible apply deliverCob_within | with_reducible apply rxArrive_within | split | dsimp only)

theorem execLayerStart_keeps {fs : List Field} {b : State} {a1 a2 a3 a4 a5 a6 s7}
    (m3 : .host ∈ fs) (m4 : .parts ∈ fs) (m5 : .rtes ∈ fs) (m6 : .fab ∈ fs) (m9 : .pew ∈ fs) (m10 : .eng ∈ fs)
    (h7 : Within fs b s7) : Keeps fs b (execLayerStart a1 a2 a3 a4 a5 a6 s7) := by
  unfold execLayerStart
  repeat' (first
    | with_reducible intro _ | with_reducible assumption | with_reducible apply next_keeps | with_reducible apply ite_keeps
    | with_reducible apply ite_within | with_reducible apply modEng_within | with_reducible apply startRead_within
    | with_reducible apply failRun_within | with_reducible apply dropRead_within | with_reducible apply tinSend_within | split
    | dsimp only)

theorem runBoundary_within {fs : List Field} {b : State} {s1 a2 a3 a4}
    (m3 : .host ∈ fs) (m4 : .parts ∈ fs) (m7 : .power ∈ fs) (m10 : .eng ∈ fs)
    (h1 : Within fs b s1) : Within fs b (runBoundary s1 a2 a3 a4) := by
  unfold runBoundary
  repeat' (first
    | with_reducible intro _ | with_reducible assumption | with_reducible apply ite_within
    | with_reducible apply divideEnergy_within | with_reducible apply clearPlaces_within
    | with_reducible apply freeCtrs_within | with_reducible apply writeReport_within | with_reducible apply endCmd_within
    | with_reducible apply modPow_within | with_reducible apply modPart_within | split | dsimp only)

theorem layersRan_within {fs : List Field} {b : State} {s1 a2 a3 a4 a5 a6}
    (m4 : .parts ∈ fs)
    (h1 : Within fs b s1) : Within fs b (layersRan s1 a2 a3 a4 a5 a6) := by
  unfold layersRan
  repeat' (first
    | with_reducible intro _ | with_reducible assumption | with_reducible apply modPart_within | split | dsimp only)

theorem execLayerComplete_keeps {fs : List Field} {b : State} {a1 a2 a3 a4 a5 s6}
    (m2 : .freeCtr ∈ fs) (m3 : .host ∈ fs) (m4 : .parts ∈ fs) (m5 : .rtes ∈ fs) (m7 : .power ∈ fs) (m9 : .pew ∈ fs)
    (m10 : .eng ∈ fs) (m11 : .mem ∈ fs)
    (h6 : Within fs b s6) : Keeps fs b (execLayerComplete a1 a2 a3 a4 a5 s6) := by
  unfold execLayerComplete
  repeat' (first
    | with_reducible intro _ | with_reducible assumption | with_reducible apply next_keeps | with_reducible apply ite_keeps
    | with_reducible apply ite_within | with_reducible apply copperRun_within | with_reducible apply modEng_within
    | with_reducible apply modPart_within | with_reducible apply runBoundary_within | with_reducible apply layersRan_within
    | with_reducible apply layerOutputs_within | split | dsimp only)

end Sys2Proof.Machine
end

