-- ==== Sys2Proof/Laws/FramesModule.lean ====
section
/-! SUPPORT. What each operation of Machine/(Manage, Power, Pewter, Boot).lean may touch: one lemma for each. -/

set_option Elab.async false
set_option linter.unusedTactic false
set_option linter.unreachableTactic false

namespace Sys2Proof.Machine

theorem ibiCheck_within {fs : List Field} {b : State} {s1}
    (m9 : .pew ∈ fs)
    (h1 : Within fs b s1) : Within fs b (ibiCheck s1) := by
  unfold ibiCheck
  repeat' (first
    | with_reducible intro _ | with_reducible assumption | with_reducible apply ite_within
    | with_reducible apply modPew_within | split | dsimp only)

theorem pewSend_within {fs : List Field} {b : State} {s1 a2}
    (m9 : .pew ∈ fs)
    (h1 : Within fs b s1) : Within fs b (pewSend s1 a2) := by
  unfold pewSend
  repeat' (first
    | with_reducible intro _ | with_reducible assumption | with_reducible apply ite_within
    | with_reducible apply modPew_within | split | dsimp only)

theorem pewReport_within {fs : List Field} {b : State} {s1 a2 a3}
    (m9 : .pew ∈ fs)
    (h1 : Within fs b s1) : Within fs b (pewReport s1 a2 a3) := by
  unfold pewReport
  repeat' (first
    | with_reducible intro _ | with_reducible assumption | with_reducible apply pewSend_within | split | dsimp only)

theorem bootState_within {fs : List Field} {b : State} {s1 a2}
    (m8 : .sec ∈ fs) (m9 : .pew ∈ fs)
    (h1 : Within fs b s1) : Within fs b (bootState s1 a2) := by
  unfold bootState
  repeat' (first
    | with_reducible intro _ | with_reducible assumption | with_reducible apply pewReport_within
    | with_reducible apply modSec_within | split | dsimp only)

theorem sampStatus_within {fs : List Field} {b : State} {s1 a2 a3 a4 a5}
    (m3 : .host ∈ fs) (m9 : .pew ∈ fs)
    (h1 : Within fs b s1) : Within fs b (sampStatus s1 a2 a3 a4 a5).1 := by
  unfold sampStatus
  repeat' (first
    | with_reducible intro _ | with_reducible assumption | with_reducible apply ite_within
    | with_reducible apply modPew_within | with_reducible apply ringWrite_within | split | dsimp only)

theorem sampSectorLost_within {fs : List Field} {b : State} {s1 a2}
    (m3 : .host ∈ fs) (m9 : .pew ∈ fs)
    (h1 : Within fs b s1) : Within fs b (sampSectorLost s1 a2) := by
  unfold sampSectorLost
  repeat' (first
    | with_reducible intro _ | with_reducible assumption | with_reducible apply ite_within | with_reducible apply foldl_within
    | with_reducible apply foldl_fst_within | with_reducible apply foldl_snd_within | with_reducible apply modPew_within
    | with_reducible apply sampStatus_within | split | dsimp only)

theorem reregister_within {fs : List Field} {b : State} {s1 a2}
    (m4 : .parts ∈ fs)
    (h1 : Within fs b s1) : Within fs b (reregister s1 a2) := by
  unfold reregister
  repeat' (first
    | with_reducible intro _ | with_reducible assumption | with_reducible apply modPart_within | split | dsimp only)

theorem leavePlaces_within {fs : List Field} {b : State} {s1 a2}
    (m10 : .eng ∈ fs)
    (h1 : Within fs b s1) : Within fs b (leavePlaces s1 a2) := by
  unfold leavePlaces
  repeat' (first
    | with_reducible intro _ | with_reducible assumption | with_reducible apply ite_within | with_reducible apply foldl_within
    | with_reducible apply foldl_fst_within | with_reducible apply foldl_snd_within | with_reducible apply modEng_within
    | with_reducible apply tinSend_within | split | dsimp only)

theorem fenceUnit_within {fs : List Field} {b : State} {s1 a2 a3}
    (m3 : .host ∈ fs) (m4 : .parts ∈ fs) (m5 : .rtes ∈ fs) (m9 : .pew ∈ fs) (m10 : .eng ∈ fs)
    (h1 : Within fs b s1) : Within fs b (fenceUnit s1 a2 a3) := by
  unfold fenceUnit
  repeat' (first
    | with_reducible intro _ | with_reducible assumption | with_reducible apply ite_within
    | with_reducible apply modPew_within | with_reducible apply leavePlaces_within | with_reducible apply modCore_within
    | with_reducible apply sampSectorLost_within | with_reducible apply clearPlaces_within | with_reducible apply modPart_within
    | with_reducible apply reregister_within | with_reducible apply faultPart_within | split | dsimp only)

theorem loseGroup_within {fs : List Field} {b : State} {s1 a2 a3}
    (m2 : .freeCtr ∈ fs) (m4 : .parts ∈ fs) (m5 : .rtes ∈ fs)
    (h1 : Within fs b s1) : Within fs b (loseGroup s1 a2 a3) := by
  unfold loseGroup
  repeat' (first
    | with_reducible intro _ | with_reducible assumption | with_reducible apply ite_within | with_reducible apply foldl_within
    | with_reducible apply foldl_fst_within | with_reducible apply foldl_snd_within | with_reducible apply drawFree_within
    | with_reducible apply failReq_within | with_reducible apply modPart_within | split | dsimp only)

theorem groupDown_within {fs : List Field} {b : State} {s1 a2}
    (m2 : .freeCtr ∈ fs) (m3 : .host ∈ fs) (m4 : .parts ∈ fs) (m5 : .rtes ∈ fs) (m9 : .pew ∈ fs) (m10 : .eng ∈ fs)
    (m11 : .mem ∈ fs)
    (h1 : Within fs b s1) : Within fs b (groupDown s1 a2) := by
  unfold groupDown
  repeat' (first
    | with_reducible intro _ | with_reducible assumption | with_reducible apply ite_within
    | with_reducible apply modPew_within | (with_reducible refine modMem_within _ ‹_› ?_ ?_) | with_reducible rfl
    | exact putLine_bytes _ _ _ _ | exact refreshed_bytes _ _ _ | with_reducible apply faultPart_within
    | with_reducible apply discardInterval_within | with_reducible apply loseGroup_within
    | with_reducible apply forgetFaults_within | split | dsimp only)

theorem groupFault_within {fs : List Field} {b : State} {s1 a2 a3 a4}
    (m2 : .freeCtr ∈ fs) (m3 : .host ∈ fs) (m4 : .parts ∈ fs) (m5 : .rtes ∈ fs) (m9 : .pew ∈ fs) (m10 : .eng ∈ fs)
    (m11 : .mem ∈ fs)
    (h1 : Within fs b s1) : Within fs b (groupFault s1 a2 a3 a4) := by
  unfold groupFault
  repeat' (first
    | with_reducible intro _ | with_reducible assumption | with_reducible apply ite_within
    | with_reducible apply groupDown_within | with_reducible apply logFault_within | split | dsimp only)

theorem moduleFault_within {fs : List Field} {b : State} {s1}
    (m3 : .host ∈ fs) (m4 : .parts ∈ fs) (m5 : .rtes ∈ fs) (m9 : .pew ∈ fs) (m10 : .eng ∈ fs)
    (h1 : Within fs b s1) : Within fs b (moduleFault s1) := by
  unfold moduleFault
  repeat' (first
    | with_reducible intro _ | with_reducible assumption | with_reducible apply foldl_within
    | with_reducible apply foldl_fst_within | with_reducible apply foldl_snd_within | with_reducible apply faultPart_within
    | with_reducible apply ibiCheck_within | with_reducible apply pewReport_within | with_reducible apply modPew_within
    | split | dsimp only)

theorem mainLost_within {fs : List Field} {b : State} {s1 a2}
    (m3 : .host ∈ fs) (m4 : .parts ∈ fs) (m5 : .rtes ∈ fs) (m6 : .fab ∈ fs) (m7 : .power ∈ fs) (m8 : .sec ∈ fs) (m9 : .pew ∈ fs)
    (m10 : .eng ∈ fs) (m11 : .mem ∈ fs) (m12 : .setup ∈ fs) (h1 : Within fs b s1) : Within fs b (mainLost s1 a2) := by
  unfold mainLost
  refine modPow_within _ m7 (modPew_within _ m9 (modSec_within _ m8 (modFab_within _ m6 (modHost_within_setup _ m3 m12 (modRtes_within _ m5
    (modParts_within _ m4 (modEng_within _ m10 (modMem_within_wf _ m11 h1 (fun _ => State.reset_memory)))))))))

theorem touchAll_within {fs : List Field} {b : State} {s1}
    (m4 : .parts ∈ fs)
    (h1 : Within fs b s1) : Within fs b (touchAll s1) := by
  unfold touchAll
  repeat' (first
    | with_reducible intro _ | with_reducible assumption | with_reducible apply foldl_within
    | with_reducible apply foldl_fst_within | with_reducible apply foldl_snd_within | with_reducible apply modPart_within
    | split | dsimp only)

theorem enterFloor_within {fs : List Field} {b : State} {s1 a2 a3}
    (m4 : .parts ∈ fs) (m7 : .power ∈ fs) (m9 : .pew ∈ fs)
    (h1 : Within fs b s1) : Within fs b (enterFloor s1 a2 a3) := by
  unfold enterFloor
  repeat' (first
    | with_reducible intro _ | with_reducible assumption | with_reducible apply ite_within | with_reducible apply foldl_within
    | with_reducible apply foldl_fst_within | with_reducible apply foldl_snd_within | with_reducible apply modPow_within
    | with_reducible apply touchAll_within | with_reducible apply ibiCheck_within | with_reducible apply modPew_within | split
    | dsimp only)

theorem limitChanged_within {fs : List Field} {b : State} {s1 a2}
    (m4 : .parts ∈ fs) (m7 : .power ∈ fs) (m9 : .pew ∈ fs)
    (h1 : Within fs b s1) : Within fs b (limitChanged s1 a2) := by
  unfold limitChanged
  repeat' (first
    | with_reducible intro _ | with_reducible assumption | with_reducible apply ite_within
    | with_reducible apply enterFloor_within | split | dsimp only)

theorem recognise_within {fs : List Field} {b : State} {s1}
    (m7 : .power ∈ fs) (m9 : .pew ∈ fs)
    (h1 : Within fs b s1) : Within fs b (recognise s1) := by
  unfold recognise
  repeat' (first
    | with_reducible intro _ | with_reducible assumption | with_reducible apply ite_within
    | with_reducible apply modPew_within | with_reducible apply ibiCheck_within | with_reducible apply modPow_within | split
    | dsimp only)

theorem startAbort_within {fs : List Field} {b : State} {s1 a2}
    (m7 : .power ∈ fs) (m9 : .pew ∈ fs)
    (h1 : Within fs b s1) : Within fs b (startAbort s1 a2) := by
  unfold startAbort
  repeat' (first
    | with_reducible intro _ | with_reducible assumption | with_reducible apply ibiCheck_within
    | with_reducible apply modPow_within | split | dsimp only)

theorem bootAbandon_within {fs : List Field} {b : State} {s1}
    (m3 : .host ∈ fs) (m8 : .sec ∈ fs)
    (h1 : Within fs b s1) : Within fs b (bootAbandon s1) := by
  unfold bootAbandon
  repeat' (first
    | with_reducible intro _ | with_reducible assumption | with_reducible apply ite_within
    | with_reducible refine modHost_within _ ?_ ?_ | with_reducible apply modSec_within | split | dsimp only)

theorem holdReqs_within {fs : List Field} {b : State} {s1}
    (m5 : .rtes ∈ fs)
    (h1 : Within fs b s1) : Within fs b (holdReqs s1) := by
  unfold holdReqs
  repeat' (first
    | with_reducible intro _ | with_reducible assumption | with_reducible apply modRtes_within | split | dsimp only)

theorem pfwStart_within {fs : List Field} {b : State} {s1}
    (m3 : .host ∈ fs) (m4 : .parts ∈ fs) (m5 : .rtes ∈ fs) (m7 : .power ∈ fs) (m8 : .sec ∈ fs) (m9 : .pew ∈ fs)
    (h1 : Within fs b s1) : Within fs b (pfwStart s1) := by
  unfold pfwStart
  repeat' (first
    | with_reducible intro _ | with_reducible assumption | with_reducible apply ite_within | with_reducible apply foldl_within
    | with_reducible apply foldl_fst_within | with_reducible apply foldl_snd_within | with_reducible apply enterFloor_within
    | with_reducible apply bootAbandon_within | with_reducible apply holdReqs_within
    | with_reducible refine modHost_within _ ?_ ?_ | with_reducible apply endEpoch_within
    | with_reducible apply ibiCheck_within | with_reducible apply modPow_within | split | dsimp only)

theorem execEnAssert_keeps {fs : List Field} {b : State} {s1}
    (m7 : .power ∈ fs) (m9 : .pew ∈ fs)
    (h1 : Within fs b s1) : Keeps fs b (execEnAssert s1) := by
  unfold execEnAssert
  repeat' (first
    | with_reducible intro _ | with_reducible assumption | with_reducible apply next_keeps | with_reducible apply whenB_within
    | with_reducible apply recognise_within | with_reducible apply modPow_within | split | dsimp only)

theorem execEnDeassert_keeps {fs : List Field} {b : State} {s1}
    (m3 : .host ∈ fs) (m4 : .parts ∈ fs) (m5 : .rtes ∈ fs) (m7 : .power ∈ fs) (m8 : .sec ∈ fs) (m9 : .pew ∈ fs)
    (h1 : Within fs b s1) : Keeps fs b (execEnDeassert s1) := by
  unfold execEnDeassert
  repeat' (first
    | with_reducible intro _ | with_reducible assumption | with_reducible apply next_keeps | with_reducible apply ite_keeps
    | with_reducible apply whenB_within | with_reducible apply ite_within | with_reducible apply modPow_within
    | with_reducible apply pfwStart_within | with_reducible apply startAbort_within | split | dsimp only)

theorem execPowerGood_keeps {fs : List Field} {b : State} {s1}
    (m0 : .tick ∈ fs) (m7 : .power ∈ fs) (m9 : .pew ∈ fs)
    (h1 : Within fs b s1) : Keeps fs b (execPowerGood s1) := by
  unfold execPowerGood
  repeat' (first
    | with_reducible intro _ | with_reducible assumption | with_reducible apply next_keeps | with_reducible apply fault_keeps
    | with_reducible apply whenB_within | with_reducible apply ibiCheck_within | with_reducible apply setTick_within
    | with_reducible apply modPow_within | with_reducible apply modPew_within | split | dsimp only)

theorem logRail_within {fs : List Field} {b : State} {s1 a2 a3 a4}
    (m9 : .pew ∈ fs)
    (h1 : Within fs b s1) : Within fs b (logRail s1 a2 a3 a4) := by
  unfold logRail
  repeat' (first
    | with_reducible intro _ | with_reducible assumption | with_reducible apply logFault_within | split | dsimp only)

theorem execRailStartFail_keeps {fs : List Field} {b : State} {a1 s2}
    (m7 : .power ∈ fs) (m9 : .pew ∈ fs)
    (h2 : Within fs b s2) : Keeps fs b (execRailStartFail a1 s2) := by
  unfold execRailStartFail
  repeat' (first
    | with_reducible intro _ | with_reducible assumption | with_reducible apply next_keeps | with_reducible apply onUnit_keeps
    | with_reducible apply fault_keeps | with_reducible apply whenB_within | with_reducible apply startAbort_within
    | with_reducible apply modPow_within | with_reducible apply logRail_within | split | dsimp only)

theorem discardWork_within {fs : List Field} {b : State} {s1 a2}
    (m3 : .host ∈ fs) (m4 : .parts ∈ fs) (m5 : .rtes ∈ fs) (m10 : .eng ∈ fs)
    (h1 : Within fs b s1) : Within fs b (discardWork s1 a2) := by
  unfold discardWork
  repeat' (first
    | with_reducible intro _ | with_reducible assumption | with_reducible apply ite_within
    | with_reducible apply discardInterval_within | with_reducible apply forgetFaults_within | split | dsimp only)

theorem railOut_within {fs : List Field} {b : State} {s1 a2}
    (m2 : .freeCtr ∈ fs) (m3 : .host ∈ fs) (m4 : .parts ∈ fs) (m5 : .rtes ∈ fs) (m6 : .fab ∈ fs) (m7 : .power ∈ fs)
    (m8 : .sec ∈ fs) (m9 : .pew ∈ fs) (m10 : .eng ∈ fs) (m11 : .mem ∈ fs) (m12 : .setup ∈ fs)
    (h1 : Within fs b s1) : Within fs b (railOut s1 a2) := by
  unfold railOut
  repeat' (first
    | with_reducible intro _ | with_reducible assumption | with_reducible apply ite_within | with_reducible apply foldl_within
    | with_reducible apply foldl_fst_within | with_reducible apply foldl_snd_within | with_reducible apply modPow_within
    | with_reducible apply discardWork_within | with_reducible apply fenceUnit_within | with_reducible apply logRail_within
    | with_reducible apply groupDown_within | with_reducible apply mainLost_within | with_reducible apply ibiCheck_within
    | split | dsimp only)

theorem execRailOutOfWindow_keeps {fs : List Field} {b : State} {a1 s2}
    (m2 : .freeCtr ∈ fs) (m3 : .host ∈ fs) (m4 : .parts ∈ fs) (m5 : .rtes ∈ fs) (m6 : .fab ∈ fs) (m7 : .power ∈ fs)
    (m8 : .sec ∈ fs) (m9 : .pew ∈ fs) (m10 : .eng ∈ fs) (m11 : .mem ∈ fs) (m12 : .setup ∈ fs)
    (h2 : Within fs b s2) : Keeps fs b (execRailOutOfWindow a1 s2) := by
  unfold execRailOutOfWindow
  repeat' (first
    | with_reducible intro _ | with_reducible assumption | with_reducible apply next_keeps | with_reducible apply onUnit_keeps
    | with_reducible apply whenB_within | with_reducible apply railOut_within | split | dsimp only)

theorem execInputUndervoltage_keeps {fs : List Field} {b : State} {a1 s2}
    (m3 : .host ∈ fs) (m4 : .parts ∈ fs) (m5 : .rtes ∈ fs) (m7 : .power ∈ fs) (m8 : .sec ∈ fs) (m9 : .pew ∈ fs)
    (h2 : Within fs b s2) : Keeps fs b (execInputUndervoltage a1 s2) := by
  unfold execInputUndervoltage
  repeat' (first
    | with_reducible intro _ | with_reducible assumption | with_reducible apply next_keeps | with_reducible apply ite_keeps
    | with_reducible apply whenB_within | with_reducible apply ite_within | with_reducible apply modPow_within
    | with_reducible apply pfwStart_within | with_reducible apply startAbort_within | split | dsimp only)

theorem execInputCollapse_keeps {fs : List Field} {b : State} {a1 s2}
    (m3 : .host ∈ fs) (m4 : .parts ∈ fs) (m5 : .rtes ∈ fs) (m6 : .fab ∈ fs) (m7 : .power ∈ fs) (m8 : .sec ∈ fs)
    (m9 : .pew ∈ fs) (m10 : .eng ∈ fs) (m11 : .mem ∈ fs) (m12 : .setup ∈ fs)
    (h2 : Within fs b s2) : Keeps fs b (execInputCollapse a1 s2) := by
  unfold execInputCollapse
  repeat' (first
    | with_reducible intro _ | with_reducible assumption | with_reducible apply next_keeps | with_reducible apply ite_keeps
    | with_reducible apply whenB_within | with_reducible apply ite_within | with_reducible apply modPow_within
    | with_reducible apply ibiCheck_within | with_reducible apply mainLost_within | with_reducible apply startAbort_within
    | split | dsimp only)

theorem execInputRestart_keeps {fs : List Field} {b : State} {a1 s2}
    (m7 : .power ∈ fs) (m9 : .pew ∈ fs)
    (h2 : Within fs b s2) : Keeps fs b (execInputRestart a1 s2) := by
  unfold execInputRestart
  repeat' (first
    | with_reducible intro _ | with_reducible assumption | with_reducible apply next_keeps | with_reducible apply whenB_within
    | with_reducible apply recognise_within | with_reducible apply modPow_within | split | dsimp only)

theorem execInputOvervoltage_keeps {fs : List Field} {b : State} {a1 s2}
    (m3 : .host ∈ fs) (m4 : .parts ∈ fs) (m5 : .rtes ∈ fs) (m6 : .fab ∈ fs) (m7 : .power ∈ fs) (m8 : .sec ∈ fs)
    (m9 : .pew ∈ fs) (m10 : .eng ∈ fs) (m11 : .mem ∈ fs) (m12 : .setup ∈ fs)
    (h2 : Within fs b s2) : Keeps fs b (execInputOvervoltage a1 s2) := by
  unfold execInputOvervoltage
  repeat' (first
    | with_reducible intro _ | with_reducible assumption | with_reducible apply next_keeps | with_reducible apply ite_keeps
    | with_reducible apply whenB_within | with_reducible apply ite_within | with_reducible apply modPow_within
    | with_reducible apply ibiCheck_within | with_reducible apply mainLost_within | with_reducible apply startAbort_within
    | split | dsimp only)

theorem execPfwRecognised_keeps {fs : List Field} {b : State} {s1}
    (m3 : .host ∈ fs) (m4 : .parts ∈ fs) (m5 : .rtes ∈ fs) (m7 : .power ∈ fs) (m8 : .sec ∈ fs) (m9 : .pew ∈ fs)
    (h1 : Within fs b s1) : Keeps fs b (execPfwRecognised s1) := by
  unfold execPfwRecognised
  repeat' (first
    | with_reducible intro _ | with_reducible assumption | with_reducible apply next_keeps | with_reducible apply ite_keeps
    | with_reducible apply ite_within | with_reducible apply pfwStart_within | with_reducible apply startAbort_within
    | with_reducible apply modPow_within | split | dsimp only)

theorem execPfwPowerOff_keeps {fs : List Field} {b : State} {s1}
    (m3 : .host ∈ fs) (m4 : .parts ∈ fs) (m5 : .rtes ∈ fs) (m6 : .fab ∈ fs) (m7 : .power ∈ fs) (m8 : .sec ∈ fs)
    (m9 : .pew ∈ fs) (m10 : .eng ∈ fs) (m11 : .mem ∈ fs) (m12 : .setup ∈ fs)
    (h1 : Within fs b s1) : Keeps fs b (execPfwPowerOff s1) := by
  unfold execPfwPowerOff
  repeat' (first
    | with_reducible intro _ | with_reducible assumption | with_reducible apply next_keeps | with_reducible apply whenB_within
    | with_reducible apply recognise_within | with_reducible apply ibiCheck_within | with_reducible apply mainLost_within
    | split | dsimp only)

theorem execDroopTrip_keeps {fs : List Field} {b : State} {a1 s2}
    (m7 : .power ∈ fs)
    (h2 : Within fs b s2) : Keeps fs b (execDroopTrip a1 s2) := by
  unfold execDroopTrip
  repeat' (first
    | with_reducible intro _ | with_reducible assumption | with_reducible apply next_keeps | with_reducible apply onUnit_keeps
    | with_reducible apply whenB_within | with_reducible apply modPow_within | split | dsimp only)

theorem addHeld_within {fs : List Field} {b : State} {s1 a2 a3}
    (m4 : .parts ∈ fs)
    (h1 : Within fs b s1) : Within fs b (addHeld s1 a2 a3) := by
  unfold addHeld
  repeat' (first
    | with_reducible intro _ | with_reducible assumption | with_reducible apply ite_within
    | with_reducible apply modPart_within | split | dsimp only)

theorem releaseAll_within {fs : List Field} {b : State} {s1}
    (m10 : .eng ∈ fs)
    (h1 : Within fs b s1) : Within fs b (releaseAll s1) := by
  unfold releaseAll
  repeat' (first
    | with_reducible intro _ | with_reducible assumption | with_reducible apply foldl_within
    | with_reducible apply foldl_fst_within | with_reducible apply foldl_snd_within | with_reducible apply seRelease_within
    | split | dsimp only)

theorem execDroopRelease_keeps {fs : List Field} {b : State} {a1 a2 s3}
    (m2 : .freeCtr ∈ fs) (m3 : .host ∈ fs) (m4 : .parts ∈ fs) (m5 : .rtes ∈ fs) (m6 : .fab ∈ fs) (m7 : .power ∈ fs)
    (m8 : .sec ∈ fs) (m9 : .pew ∈ fs) (m10 : .eng ∈ fs) (m11 : .mem ∈ fs) (m12 : .setup ∈ fs)
    (h3 : Within fs b s3) : Keeps fs b (execDroopRelease a1 a2 s3) := by
  unfold execDroopRelease
  repeat' (first
    | with_reducible intro _ | with_reducible assumption | with_reducible apply next_keeps | with_reducible apply ite_keeps
    | with_reducible apply onUnit_keeps | with_reducible apply whenB_within | with_reducible apply ite_within
    | with_reducible apply modPow_within | with_reducible apply addHeld_within | with_reducible apply railOut_within
    | with_reducible apply releaseAll_within | split | dsimp only)

theorem capWatch_within {fs : List Field} {b : State} {s1}
    (m9 : .pew ∈ fs)
    (h1 : Within fs b s1) : Within fs b (capWatch s1) := by
  unfold capWatch
  repeat' (first
    | with_reducible intro _ | with_reducible assumption | with_reducible apply ite_within | with_reducible apply foldl_within
    | with_reducible apply foldl_fst_within | with_reducible apply foldl_snd_within | with_reducible apply modPew_within
    | split | dsimp only)

theorem execPowerSample_keeps {fs : List Field} {b : State} {a1 a2 s3}
    (m4 : .parts ∈ fs) (m7 : .power ∈ fs) (m9 : .pew ∈ fs)
    (h3 : Within fs b s3) : Keeps fs b (execPowerSample a1 a2 s3) := by
  unfold execPowerSample
  repeat' (first
    | with_reducible intro _ | with_reducible assumption | with_reducible apply next_keeps | with_reducible apply ite_keeps
    | with_reducible apply whenB_within | with_reducible apply ite_within | with_reducible apply foldl_within
    | with_reducible apply foldl_fst_within | with_reducible apply foldl_snd_within | with_reducible apply modPow_within
    | with_reducible apply modPart_within | with_reducible apply capWatch_within | with_reducible apply enterFloor_within
    | split | dsimp only)

theorem execGovernorAction_keeps {fs : List Field} {b : State} {s1}
    (m2 : .freeCtr ∈ fs) (m4 : .parts ∈ fs) (m7 : .power ∈ fs) (m9 : .pew ∈ fs)
    (h1 : Within fs b s1) : Keeps fs b (execGovernorAction s1) := by
  unfold execGovernorAction
  repeat' (first
    | with_reducible intro _ | with_reducible assumption | with_reducible apply next_keeps | with_reducible apply ite_keeps
    | with_reducible apply whenB_within | with_reducible apply ite_within | with_reducible apply drawFree_within
    | with_reducible apply enterFloor_within | with_reducible apply modPow_within | split | dsimp only)

theorem execFloorPaceClimb_keeps {fs : List Field} {b : State} {s1}
    (m7 : .power ∈ fs) (m9 : .pew ∈ fs)
    (h1 : Within fs b s1) : Keeps fs b (execFloorPaceClimb s1) := by
  unfold execFloorPaceClimb
  repeat' (first
    | with_reducible intro _ | with_reducible assumption | with_reducible apply next_keeps | with_reducible apply ite_keeps
    | with_reducible apply whenB_within | with_reducible apply ite_within | with_reducible apply ibiCheck_within
    | with_reducible apply modPow_within | split | dsimp only)

theorem execDepartureReturn_keeps {fs : List Field} {b : State} {s1}
    (m4 : .parts ∈ fs) (m7 : .power ∈ fs) (m9 : .pew ∈ fs)
    (h1 : Within fs b s1) : Keeps fs b (execDepartureReturn s1) := by
  unfold execDepartureReturn
  repeat' (first
    | with_reducible intro _ | with_reducible assumption | with_reducible apply next_keeps | with_reducible apply ite_keeps
    | with_reducible apply whenB_within | with_reducible apply ite_within | with_reducible apply modPew_within
    | with_reducible apply touchAll_within | with_reducible apply ibiCheck_within | with_reducible apply modPow_within | split
    | dsimp only)

theorem execStartRampPaceStep_keeps {fs : List Field} {b : State} {s1}
    (m7 : .power ∈ fs)
    (h1 : Within fs b s1) : Keeps fs b (execStartRampPaceStep s1) := by
  unfold execStartRampPaceStep
  repeat' (first
    | with_reducible intro _ | with_reducible assumption | with_reducible apply next_keeps | with_reducible apply ite_keeps
    | with_reducible apply whenB_within | with_reducible apply ite_within | with_reducible apply modPow_within | split
    | dsimp only)

theorem thermalStop_within {fs : List Field} {b : State} {s1}
    (m3 : .host ∈ fs) (m4 : .parts ∈ fs) (m5 : .rtes ∈ fs) (m7 : .power ∈ fs) (m10 : .eng ∈ fs)
    (h1 : Within fs b s1) : Within fs b (thermalStop s1) := by
  unfold thermalStop
  repeat' (first
    | with_reducible intro _ | with_reducible assumption | with_reducible apply ite_within | with_reducible apply foldl_within
    | with_reducible apply foldl_fst_within | with_reducible apply foldl_snd_within | with_reducible apply modPow_within
    | with_reducible apply commitWord_within | split | dsimp only)

theorem execThermalSample_keeps {fs : List Field} {b : State} {a1 a2 a3 s4}
    (m3 : .host ∈ fs) (m4 : .parts ∈ fs) (m5 : .rtes ∈ fs) (m7 : .power ∈ fs) (m9 : .pew ∈ fs) (m10 : .eng ∈ fs)
    (h4 : Within fs b s4) : Keeps fs b (execThermalSample a1 a2 a3 s4) := by
  unfold execThermalSample
  repeat' (first
    | with_reducible intro _ | with_reducible assumption | with_reducible apply next_keeps | with_reducible apply ite_keeps
    | with_reducible apply whenB_within | with_reducible apply ite_within | with_reducible apply modPow_within
    | with_reducible apply enterFloor_within | with_reducible apply ibiCheck_within | with_reducible apply thermalStop_within
    | split | dsimp only)

theorem execThermalStopEnd_keeps {fs : List Field} {b : State} {s1}
    (m7 : .power ∈ fs) (m9 : .pew ∈ fs) (m10 : .eng ∈ fs)
    (h1 : Within fs b s1) : Keeps fs b (execThermalStopEnd s1) := by
  unfold execThermalStopEnd
  repeat' (first
    | with_reducible intro _ | with_reducible assumption | with_reducible apply next_keeps | with_reducible apply whenB_within
    | with_reducible apply ibiCheck_within | with_reducible apply releaseAll_within | with_reducible apply modPow_within
    | split | dsimp only)

theorem execHardwareTrip_keeps {fs : List Field} {b : State} {s1}
    (m3 : .host ∈ fs) (m4 : .parts ∈ fs) (m5 : .rtes ∈ fs) (m6 : .fab ∈ fs) (m7 : .power ∈ fs) (m8 : .sec ∈ fs)
    (m9 : .pew ∈ fs) (m10 : .eng ∈ fs) (m11 : .mem ∈ fs) (m12 : .setup ∈ fs)
    (h1 : Within fs b s1) : Keeps fs b (execHardwareTrip s1) := by
  unfold execHardwareTrip
  repeat' (first
    | with_reducible intro _ | with_reducible assumption | with_reducible apply next_keeps | with_reducible apply whenB_within
    | with_reducible apply ibiCheck_within | with_reducible apply mainLost_within | with_reducible apply modPow_within | split
    | dsimp only)

theorem execHeartbeatLost_keeps {fs : List Field} {b : State} {s1}
    (m4 : .parts ∈ fs) (m7 : .power ∈ fs) (m9 : .pew ∈ fs)
    (h1 : Within fs b s1) : Keeps fs b (execHeartbeatLost s1) := by
  unfold execHeartbeatLost
  repeat' (first
    | with_reducible intro _ | with_reducible assumption | with_reducible apply next_keeps | with_reducible apply whenB_within
    | with_reducible apply ibiCheck_within | with_reducible apply limitChanged_within | with_reducible apply modPew_within
    | split | dsimp only)

theorem execStandbyUp_keeps {fs : List Field} {b : State} {a1 s2}
    (m1 : .sbTick ∈ fs) (m7 : .power ∈ fs) (m9 : .pew ∈ fs)
    (h2 : Within fs b s2) : Keeps fs b (execStandbyUp a1 s2) := by
  unfold execStandbyUp
  repeat' (first
    | with_reducible intro _ | with_reducible assumption | with_reducible apply next_keeps | with_reducible apply fault_keeps
    | with_reducible apply whenB_within | with_reducible apply modPow_within | with_reducible apply setStandby_within
    | with_reducible apply modPew_within | split | dsimp only)

theorem execPewterReady_keeps {fs : List Field} {b : State} {s1}
    (m7 : .power ∈ fs) (m9 : .pew ∈ fs)
    (h1 : Within fs b s1) : Keeps fs b (execPewterReady s1) := by
  unfold execPewterReady
  repeat' (first
    | with_reducible intro _ | with_reducible assumption | with_reducible apply next_keeps | with_reducible apply whenB_within
    | with_reducible apply recognise_within | with_reducible apply modPew_within | split | dsimp only)

theorem execStandbyLoss_keeps {fs : List Field} {b : State} {s1}
    (m3 : .host ∈ fs) (m4 : .parts ∈ fs) (m5 : .rtes ∈ fs) (m6 : .fab ∈ fs) (m7 : .power ∈ fs) (m8 : .sec ∈ fs)
    (m9 : .pew ∈ fs) (m10 : .eng ∈ fs) (m11 : .mem ∈ fs) (m12 : .setup ∈ fs)
    (h1 : Within fs b s1) : Keeps fs b (execStandbyLoss s1) := by
  unfold execStandbyLoss
  repeat' (first
    | with_reducible intro _ | with_reducible assumption | with_reducible apply next_keeps | with_reducible apply ite_keeps
    | with_reducible apply whenB_within | with_reducible apply ite_within | with_reducible apply mainLost_within
    | with_reducible apply modPow_within | with_reducible apply modPew_within | split | dsimp only)

theorem execSetdasa_keeps {fs : List Field} {b : State} {a1 s2}
    (m9 : .pew ∈ fs)
    (h2 : Within fs b s2) : Keeps fs b (execSetdasa a1 s2) := by
  unfold execSetdasa
  repeat' (first
    | with_reducible intro _ | with_reducible assumption | with_reducible apply next_keeps | with_reducible apply whenB_within
    | with_reducible apply ibiCheck_within | with_reducible apply modPew_within | split | dsimp only)

theorem execEntdaa_keeps {fs : List Field} {b : State} {a1 s2}
    (m9 : .pew ∈ fs)
    (h2 : Within fs b s2) : Keeps fs b (execEntdaa a1 s2) := by
  unfold execEntdaa
  repeat' (first
    | with_reducible intro _ | with_reducible assumption | with_reducible apply next_keeps | with_reducible apply whenB_within
    | with_reducible apply ibiCheck_within | with_reducible apply modPew_within | split | dsimp only)

theorem execI3cIndexWrite_keeps {fs : List Field} {b : State} {a1 s2}
    (m9 : .pew ∈ fs)
    (h2 : Within fs b s2) : Keeps fs b (execI3cIndexWrite a1 s2) := by
  unfold execI3cIndexWrite
  repeat' (first
    | with_reducible intro _ | with_reducible assumption | with_reducible apply next_keeps | with_reducible apply whenB_within
    | with_reducible apply ibiCheck_within | with_reducible apply modPew_within | split | dsimp only)

theorem execI3cRegisterWrite_keeps {fs : List Field} {b : State} {a1 a2 s3}
    (m9 : .pew ∈ fs)
    (h3 : Within fs b s3) : Keeps fs b (execI3cRegisterWrite a1 a2 s3) := by
  unfold execI3cRegisterWrite
  repeat' (first
    | with_reducible intro _ | with_reducible assumption | with_reducible apply next_keeps | with_reducible apply ite_keeps
    | with_reducible apply whenB_within | with_reducible apply ite_within | with_reducible apply ibiCheck_within
    | with_reducible apply modPew_within | split | dsimp only)

theorem pewAnswer_within {fs : List Field} {b : State} {s1 a2 a3 a4}
    (m9 : .pew ∈ fs)
    (h1 : Within fs b s1) : Within fs b (pewAnswer s1 a2 a3 a4) := by
  unfold pewAnswer
  repeat' (first
    | with_reducible intro _ | with_reducible assumption | with_reducible apply pewSend_within | split | dsimp only)

theorem pewRow_keeps {fs : List Field} {b : State} {a1 a2 f3 s4}
    (m9 : .pew ∈ fs)
    (h3 : ∀ x0 x1, Within fs b x1 → Within fs b (f3 x0 x1)) (h4 : Within fs b s4) : Keeps fs b (pewRow a1 a2 f3 s4) := by
  unfold pewRow
  repeat' (first
    | with_reducible intro _ | with_reducible assumption | with_reducible apply h3 | with_reducible apply next_keeps
    | with_reducible apply whenB_within | with_reducible apply modPew_within | with_reducible apply pewAnswer_within | split
    | dsimp only)

theorem execRackManagerMalformed_keeps {fs : List Field} {b : State} {a1 s2}
    (m9 : .pew ∈ fs)
    (h2 : Within fs b s2) : Keeps fs b (execRackManagerMalformed a1 s2) := by
  unfold execRackManagerMalformed
  repeat' (first
    | with_reducible intro _ | with_reducible assumption | with_reducible apply next_keeps | with_reducible apply whenB_within
    | with_reducible apply modPew_within | with_reducible apply pewAnswer_within | split | dsimp only)

theorem execHeartbeat_keeps {fs : List Field} {b : State} {a1 s2}
    (m4 : .parts ∈ fs) (m7 : .power ∈ fs) (m9 : .pew ∈ fs)
    (h2 : Within fs b s2) : Keeps fs b (execHeartbeat a1 s2) := by
  unfold execHeartbeat
  repeat' (first
    | with_reducible intro _ | with_reducible assumption | with_reducible apply next_keeps | with_reducible apply pewRow_keeps
    | with_reducible apply pewAnswer_within | with_reducible apply ibiCheck_within | with_reducible apply limitChanged_within
    | with_reducible apply modPew_within | split | dsimp only)

theorem execSettingsPut_keeps {fs : List Field} {b : State} {a1 s2}
    (m4 : .parts ∈ fs) (m7 : .power ∈ fs) (m9 : .pew ∈ fs)
    (h2 : Within fs b s2) : Keeps fs b (execSettingsPut a1 s2) := by
  unfold execSettingsPut
  repeat' (first
    | with_reducible intro _ | with_reducible assumption | with_reducible apply next_keeps | with_reducible apply ite_keeps
    | with_reducible apply ite_within | with_reducible apply pewRow_keeps | with_reducible apply pewAnswer_within
    | with_reducible apply limitChanged_within | with_reducible apply modPew_within | split | dsimp only)

theorem execPlanPut_keeps {fs : List Field} {b : State} {a1 s2}
    (m9 : .pew ∈ fs)
    (h2 : Within fs b s2) : Keeps fs b (execPlanPut a1 s2) := by
  unfold execPlanPut
  repeat' (first
    | with_reducible intro _ | with_reducible assumption | with_reducible apply next_keeps | with_reducible apply ite_keeps
    | with_reducible apply ite_within | with_reducible apply pewRow_keeps | with_reducible apply pewAnswer_within
    | with_reducible apply modPew_within | split | dsimp only)

theorem execTelemGet_keeps {fs : List Field} {b : State} {a1 s2}
    (m9 : .pew ∈ fs)
    (h2 : Within fs b s2) : Keeps fs b (execTelemGet a1 s2) := by
  unfold execTelemGet
  repeat' (first
    | with_reducible intro _ | with_reducible assumption | with_reducible apply next_keeps | with_reducible apply pewRow_keeps
    | with_reducible apply pewAnswer_within | split | dsimp only)

theorem execLogGet_keeps {fs : List Field} {b : State} {a1 s2}
    (m9 : .pew ∈ fs)
    (h2 : Within fs b s2) : Keeps fs b (execLogGet a1 s2) := by
  unfold execLogGet
  repeat' (first
    | with_reducible intro _ | with_reducible assumption | with_reducible apply next_keeps | with_reducible apply ite_keeps
    | with_reducible apply fault_keeps | with_reducible apply ite_within | with_reducible apply pewRow_keeps
    | with_reducible apply pewAnswer_within | split | dsimp only)

theorem portTo_within {fs : List Field} {b : State} {s1 a2 a3}
    (m6 : .fab ∈ fs)
    (h1 : Within fs b s1) : Within fs b (portTo s1 a2 a3) := by
  unfold portTo
  repeat' (first
    | with_reducible intro _ | with_reducible assumption | with_reducible apply modPort_within | split | dsimp only)

theorem execReturnUnit_keeps {fs : List Field} {b : State} {a1 s2}
    (m6 : .fab ∈ fs) (m9 : .pew ∈ fs) (m10 : .eng ∈ fs)
    (h2 : Within fs b s2) : Keeps fs b (execReturnUnit a1 s2) := by
  unfold execReturnUnit
  repeat' (first
    | with_reducible intro _ | with_reducible assumption | with_reducible apply next_keeps | with_reducible apply ite_keeps
    | with_reducible apply ite_within | with_reducible apply pewRow_keeps | with_reducible apply pewAnswer_within
    | with_reducible apply portTo_within | with_reducible apply modPew_within | with_reducible apply modEng_within | split
    | dsimp only)

theorem execSettingsGet_keeps {fs : List Field} {b : State} {a1 s2}
    (m9 : .pew ∈ fs)
    (h2 : Within fs b s2) : Keeps fs b (execSettingsGet a1 s2) := by
  unfold execSettingsGet
  repeat' (first
    | with_reducible intro _ | with_reducible assumption | with_reducible apply next_keeps | with_reducible apply pewRow_keeps
    | with_reducible apply pewAnswer_within | split | dsimp only)

theorem mbTake_within {fs : List Field} {b : State} {s1 a2}
    (m3 : .host ∈ fs)
    (h1 : Within fs b s1) : Within fs b (mbTake s1 a2) := by
  unfold mbTake
  repeat' (first
    | with_reducible intro _ | with_reducible assumption | with_reducible refine modHost_within _ ?_ ?_ | split | dsimp only)

theorem sampDiscard_within {fs : List Field} {b : State} {s1}
    (m9 : .pew ∈ fs)
    (h1 : Within fs b s1) : Within fs b (sampDiscard s1) := by
  unfold sampDiscard
  repeat' (first
    | with_reducible intro _ | with_reducible assumption | with_reducible apply modPew_within | split | dsimp only)

theorem sampRow_keeps {fs : List Field} {b : State} {a1 a2 f3 s4}
    (m3 : .host ∈ fs) (m9 : .pew ∈ fs)
    (h3 : ∀ x0 x1 x2, Within fs b x2 → Within fs b (f3 x0 x1 x2)) (h4 : Within fs b s4) : Keeps fs b (sampRow a1 a2 f3 s4) := by
  unfold sampRow
  repeat' (first
    | with_reducible intro _ | with_reducible assumption | with_reducible apply h3 | with_reducible apply next_keeps
    | with_reducible apply ite_keeps | with_reducible apply onUnit_keeps | with_reducible apply ite_within
    | with_reducible apply mbTake_within | with_reducible apply sampDiscard_within | split | dsimp only)

theorem putRing_within {fs : List Field} {b : State} {s1 a2}
    (m3 : .host ∈ fs)
    (h1 : Within fs b s1) : Within fs b (putRing s1 a2) := by
  unfold putRing
  repeat' (first
    | with_reducible intro _ | with_reducible assumption | with_reducible refine modHost_within _ ?_ ?_ | split | dsimp only)

theorem execSring_keeps {fs : List Field} {b : State} {a1 s2}
    (m3 : .host ∈ fs) (m9 : .pew ∈ fs)
    (h2 : Within fs b s2) : Keeps fs b (execSring a1 s2) := by
  unfold execSring
  repeat' (first
    | with_reducible intro _ | with_reducible assumption | with_reducible apply next_keeps | with_reducible apply ite_keeps
    | with_reducible apply ite_within | with_reducible apply sampRow_keeps | with_reducible apply sampDiscard_within
    | with_reducible apply sampStatus_within | with_reducible apply putRing_within | split | dsimp only)

theorem sampRing_within {fs : List Field} {b : State} {s1 a2 f3 s4}
    (m9 : .pew ∈ fs)
    (h1 : Within fs b s1) (h3 : ∀ x0, Within fs b x0 → Within fs b (f3 x0)) (h4 : Within fs b s4) : Within fs b (sampRing s1 a2 f3 s4) := by
  unfold sampRing
  repeat' (first
    | with_reducible intro _ | with_reducible assumption | with_reducible apply h3 | with_reducible apply ite_within
    | with_reducible apply sampDiscard_within | split | dsimp only)

theorem execSset_keeps {fs : List Field} {b : State} {a1 s2}
    (m3 : .host ∈ fs) (m9 : .pew ∈ fs)
    (h2 : Within fs b s2) : Keeps fs b (execSset a1 s2) := by
  unfold execSset
  repeat' (first
    | with_reducible intro _ | with_reducible assumption | with_reducible apply next_keeps | with_reducible apply ite_keeps
    | with_reducible apply ite_within | with_reducible apply foldl_within | with_reducible apply foldl_fst_within
    | with_reducible apply foldl_snd_within | with_reducible apply sampRow_keeps | with_reducible apply sampRing_within
    | with_reducible apply sampStatus_within | with_reducible apply modPew_within | with_reducible apply sampSectorLost_within
    | split | dsimp only)

theorem execSstop_keeps {fs : List Field} {b : State} {a1 s2}
    (m3 : .host ∈ fs) (m9 : .pew ∈ fs)
    (h2 : Within fs b s2) : Keeps fs b (execSstop a1 s2) := by
  unfold execSstop
  repeat' (first
    | with_reducible intro _ | with_reducible assumption | with_reducible apply next_keeps | with_reducible apply ite_keeps
    | with_reducible apply ite_within | with_reducible apply sampRow_keeps | with_reducible apply sampRing_within
    | with_reducible apply sampStatus_within | with_reducible apply modPew_within | split | dsimp only)

theorem execSampleTick_keeps {fs : List Field} {b : State} {a1 a2 a3 s4}
    (m3 : .host ∈ fs) (m9 : .pew ∈ fs)
    (h4 : Within fs b s4) : Keeps fs b (execSampleTick a1 a2 a3 s4) := by
  unfold execSampleTick
  repeat' (first
    | with_reducible intro _ | with_reducible assumption | with_reducible apply next_keeps | with_reducible apply ite_keeps
    | with_reducible apply onUnit_keeps | with_reducible apply ite_within | with_reducible apply foldl_within
    | with_reducible apply foldl_fst_within | with_reducible apply foldl_snd_within | with_reducible apply ringWrite_within
    | with_reducible apply modPew_within | with_reducible apply sampStatus_within | split | dsimp only)

theorem makeSeal_within {fs : List Field} {b : State} {s1 a2}
    (m4 : .parts ∈ fs) (m8 : .sec ∈ fs)
    (h1 : Within fs b s1) : Within fs b (makeSeal s1 a2) := by
  unfold makeSeal
  repeat' (first
    | with_reducible intro _ | with_reducible assumption | with_reducible apply modPart_within
    | with_reducible apply modSec_within | split | dsimp only)

theorem sealAll_within {fs : List Field} {b : State} {a1 a2 s3}
    (m4 : .parts ∈ fs) (m8 : .sec ∈ fs)
    (h3 : Within fs b s3) : Within fs b (sealAll a1 a2 s3) := by
  induction a1 generalizing a2 s3 with
  | zero =>
    unfold sealAll
    repeat' (first
    | with_reducible intro _ | with_reducible assumption | with_reducible apply makeSeal_within | split | dsimp only)
  | succ n ih =>
    unfold sealAll
    repeat' (first
    | with_reducible intro _ | with_reducible assumption | with_reducible apply ih | with_reducible apply makeSeal_within
    | split | dsimp only)

theorem execEpochTimeEnd_keeps {fs : List Field} {b : State} {a1 s2}
    (m4 : .parts ∈ fs)
    (h2 : Within fs b s2) : Keeps fs b (execEpochTimeEnd a1 s2) := by
  unfold execEpochTimeEnd
  repeat' (first
    | with_reducible intro _ | with_reducible assumption | with_reducible apply next_keeps | with_reducible apply onUnit_keeps
    | with_reducible apply whenB_within | with_reducible apply endEpoch_within | split | dsimp only)

theorem execEpochSeal_keeps {fs : List Field} {b : State} {a1 s2}
    (m4 : .parts ∈ fs) (m8 : .sec ∈ fs)
    (h2 : Within fs b s2) : Keeps fs b (execEpochSeal a1 s2) := by
  unfold execEpochSeal
  repeat' (first
    | with_reducible intro _ | with_reducible assumption | with_reducible apply next_keeps | with_reducible apply onUnit_keeps
    | with_reducible apply whenB_within | with_reducible apply makeSeal_within | split | dsimp only)

theorem execSealRingWrite_keeps {fs : List Field} {b : State} {s1}
    (m3 : .host ∈ fs) (m8 : .sec ∈ fs)
    (h1 : Within fs b s1) : Keeps fs b (execSealRingWrite s1) := by
  unfold execSealRingWrite
  repeat' (first
    | with_reducible intro _ | with_reducible assumption | with_reducible apply next_keeps | with_reducible apply ite_keeps
    | with_reducible apply ite_within | with_reducible apply modSec_within | with_reducible apply ringWrite_within | split
    | dsimp only)

theorem execPerstAssert_keeps {fs : List Field} {b : State} {s1}
    (m3 : .host ∈ fs) (m4 : .parts ∈ fs) (m5 : .rtes ∈ fs) (m6 : .fab ∈ fs) (m7 : .power ∈ fs) (m8 : .sec ∈ fs) (m9 : .pew ∈ fs) (m10 : .eng ∈ fs)
    (m12 : .setup ∈ fs)
    (h1 : Within fs b s1) : Keeps fs b (execPerstAssert s1) := by
  unfold execPerstAssert
  repeat' (first
    | with_reducible intro _ | with_reducible assumption | with_reducible apply next_keeps | with_reducible apply ite_keeps
    | with_reducible apply ite_within | with_reducible apply limitChanged_within | with_reducible apply whenB_within | with_reducible apply foldl_within
    | with_reducible apply foldl_fst_within | with_reducible apply foldl_snd_within | with_reducible apply modPow_within
    | with_reducible apply modParts_within | with_reducible apply modFab_within | with_reducible apply modPew_within
    | with_reducible apply ibiCheck_within | with_reducible apply sealAll_within | with_reducible apply modHost_within_setup
    | with_reducible apply modRtes_within | with_reducible apply modEng_within | with_reducible apply endEpoch_within
    | with_reducible apply modSec_within | split | dsimp only)

theorem startTests_within {fs : List Field} {b : State} {s1 a2}
    (m2 : .freeCtr ∈ fs) (m3 : .host ∈ fs) (m4 : .parts ∈ fs) (m5 : .rtes ∈ fs) (m9 : .pew ∈ fs) (m10 : .eng ∈ fs)
    (h1 : Within fs b s1) : Within fs b (startTests s1 a2) := by
  unfold startTests
  repeat' (first
    | with_reducible intro _ | with_reducible assumption | with_reducible apply ite_within | with_reducible apply foldl_within
    | with_reducible apply foldl_fst_within | with_reducible apply foldl_snd_within | with_reducible apply fenceUnit_within
    | with_reducible apply drawFree_within | with_reducible apply logFault_within | with_reducible apply modPew_within | split
    | dsimp only)

theorem execBootStart_keeps {fs : List Field} {b : State} {a1 s2}
    (m2 : .freeCtr ∈ fs) (m3 : .host ∈ fs) (m4 : .parts ∈ fs) (m5 : .rtes ∈ fs) (m7 : .power ∈ fs) (m8 : .sec ∈ fs)
    (m9 : .pew ∈ fs) (m10 : .eng ∈ fs)
    (h2 : Within fs b s2) : Keeps fs b (execBootStart a1 s2) := by
  unfold execBootStart
  repeat' (first
    | with_reducible intro _ | with_reducible assumption | with_reducible apply next_keeps | with_reducible apply fault_keeps
    | with_reducible apply whenB_within | with_reducible apply startTests_within | with_reducible apply modPow_within
    | with_reducible apply bootState_within | with_reducible apply modSec_within | split | dsimp only)

theorem execLpddr6TrainingDone_keeps {fs : List Field} {b : State} {s1}
    (m8 : .sec ∈ fs)
    (h1 : Within fs b s1) : Keeps fs b (execLpddr6TrainingDone s1) := by
  unfold execLpddr6TrainingDone
  repeat' (first
    | with_reducible intro _ | with_reducible assumption | with_reducible apply next_keeps | with_reducible apply whenB_within
    | with_reducible apply modSec_within | split | dsimp only)

theorem execBundleFetched_keeps {fs : List Field} {b : State} {s1}
    (m8 : .sec ∈ fs) (m9 : .pew ∈ fs)
    (h1 : Within fs b s1) : Keeps fs b (execBundleFetched s1) := by
  unfold execBundleFetched
  repeat' (first
    | with_reducible intro _ | with_reducible assumption | with_reducible apply next_keeps | with_reducible apply ite_keeps
    | with_reducible apply whenB_within | with_reducible apply ite_within | with_reducible apply bootState_within
    | with_reducible apply modSec_within | split | dsimp only)

theorem execFuseProgramDone_keeps {fs : List Field} {b : State} {a1 s2}
    (m8 : .sec ∈ fs) (m9 : .pew ∈ fs)
    (h2 : Within fs b s2) : Keeps fs b (execFuseProgramDone a1 s2) := by
  unfold execFuseProgramDone
  repeat' (first
    | with_reducible intro _ | with_reducible assumption | with_reducible apply next_keeps | with_reducible apply ite_keeps
    | with_reducible apply whenB_within | with_reducible apply ite_within | with_reducible apply bootState_within
    | with_reducible apply modSec_within | split | dsimp only)

theorem execBootRunning_keeps {fs : List Field} {b : State} {s1}
    (m3 : .host ∈ fs) (m6 : .fab ∈ fs) (m7 : .power ∈ fs) (m8 : .sec ∈ fs) (m9 : .pew ∈ fs) (m10 : .eng ∈ fs)
    (m12 : .setup ∈ fs)
    (h1 : Within fs b s1) : Keeps fs b (execBootRunning s1) := by
  unfold execBootRunning
  repeat' (first
    | with_reducible intro _ | with_reducible assumption | with_reducible apply next_keeps | with_reducible apply ite_keeps
    | with_reducible apply ite_within | with_reducible apply whenB_within | with_reducible apply foldl_within
    | with_reducible apply foldl_fst_within | with_reducible apply foldl_snd_within | with_reducible apply bootState_within
    | with_reducible apply modPow_within | with_reducible apply modHost_within_setup | with_reducible apply modEng_within
    | with_reducible apply portTo_within | with_reducible apply modSec_within | split | dsimp only)

theorem spdmSend_within {fs : List Field} {b : State} {s1 a2}
    (m8 : .sec ∈ fs)
    (h1 : Within fs b s1) : Within fs b (spdmSend s1 a2) := by
  unfold spdmSend
  repeat' (first
    | with_reducible intro _ | with_reducible assumption | with_reducible apply modSec_within | split | dsimp only)

theorem spdmErr_within {fs : List Field} {b : State} {s1 a2}
    (m8 : .sec ∈ fs)
    (h1 : Within fs b s1) : Within fs b (spdmErr s1 a2) := by
  unfold spdmErr
  repeat' (first
    | with_reducible intro _ | with_reducible assumption | with_reducible apply spdmSend_within | split | dsimp only)

theorem spdmRow_keeps {fs : List Field} {b : State} {a1 a2 a3 f4 s5}
    (m8 : .sec ∈ fs)
    (h4 : ∀ x0, Within fs b x0 → Within fs b (f4 x0)) (h5 : Within fs b s5) : Keeps fs b (spdmRow a1 a2 a3 f4 s5) := by
  unfold spdmRow
  repeat' (first
    | with_reducible intro _ | with_reducible assumption | with_reducible apply h4 | with_reducible apply next_keeps
    | with_reducible apply ite_keeps | with_reducible apply whenB_within | with_reducible apply ite_within
    | with_reducible apply spdmErr_within | split | dsimp only)

theorem execGetVersion_keeps {fs : List Field} {b : State} {a1 s2}
    (m8 : .sec ∈ fs)
    (h2 : Within fs b s2) : Keeps fs b (execGetVersion a1 s2) := by
  unfold execGetVersion
  repeat' (first
    | with_reducible intro _ | with_reducible assumption | with_reducible apply next_keeps | with_reducible apply ite_keeps
    | with_reducible apply whenB_within | with_reducible apply ite_within | with_reducible apply spdmErr_within
    | with_reducible apply spdmSend_within | with_reducible apply modSec_within | split | dsimp only)

theorem execGetCapabilities_keeps {fs : List Field} {b : State} {a1 s2}
    (m2 : .freeCtr ∈ fs) (m8 : .sec ∈ fs)
    (h2 : Within fs b s2) : Keeps fs b (execGetCapabilities a1 s2) := by
  unfold execGetCapabilities
  repeat' (first
    | with_reducible intro _ | with_reducible assumption | with_reducible apply next_keeps
    | with_reducible apply spdmRow_keeps | with_reducible apply drawFree_within | with_reducible apply spdmSend_within
    | with_reducible apply modSec_within | split | dsimp only)

theorem execNegotiateAlgorithms_keeps {fs : List Field} {b : State} {a1 s2}
    (m8 : .sec ∈ fs)
    (h2 : Within fs b s2) : Keeps fs b (execNegotiateAlgorithms a1 s2) := by
  unfold execNegotiateAlgorithms
  repeat' (first
    | with_reducible intro _ | with_reducible assumption | with_reducible apply next_keeps
    | with_reducible apply spdmRow_keeps | with_reducible apply spdmSend_within | with_reducible apply modSec_within | split
    | dsimp only)

theorem execGetDigests_keeps {fs : List Field} {b : State} {a1 s2}
    (m8 : .sec ∈ fs)
    (h2 : Within fs b s2) : Keeps fs b (execGetDigests a1 s2) := by
  unfold execGetDigests
  repeat' (first
    | with_reducible intro _ | with_reducible assumption | with_reducible apply next_keeps
    | with_reducible apply spdmRow_keeps | with_reducible apply spdmSend_within | with_reducible apply modSec_within | split
    | dsimp only)

theorem execGetCertificate_keeps {fs : List Field} {b : State} {a1 s2}
    (m8 : .sec ∈ fs)
    (h2 : Within fs b s2) : Keeps fs b (execGetCertificate a1 s2) := by
  unfold execGetCertificate
  repeat' (first
    | with_reducible intro _ | with_reducible assumption | with_reducible apply next_keeps | with_reducible apply ite_keeps
    | with_reducible apply ite_within | with_reducible apply spdmRow_keeps | with_reducible apply spdmErr_within
    | with_reducible apply spdmSend_within | with_reducible apply modSec_within | split | dsimp only)

theorem drawNonce_within {fs : List Field} {b : State} {s1}
    (m8 : .sec ∈ fs)
    (h1 : Within fs b s1) : Within fs b (drawNonce s1).2 := by
  unfold drawNonce
  repeat' (first
    | with_reducible intro _ | with_reducible assumption | with_reducible apply modSec_within | split | dsimp only)

theorem execChallenge_keeps {fs : List Field} {b : State} {a1 s2}
    (m2 : .freeCtr ∈ fs) (m8 : .sec ∈ fs)
    (h2 : Within fs b s2) : Keeps fs b (execChallenge a1 s2) := by
  unfold execChallenge
  repeat' (first
    | with_reducible intro _ | with_reducible assumption | with_reducible apply next_keeps | with_reducible apply ite_keeps
    | with_reducible apply ite_within | with_reducible apply spdmRow_keeps | with_reducible apply spdmErr_within
    | with_reducible apply drawFree_within | with_reducible apply drawNonce_within | with_reducible apply spdmSend_within
    | with_reducible apply modSec_within | split | dsimp only)

theorem execGetMeasurements_keeps {fs : List Field} {b : State} {a1 s2}
    (m8 : .sec ∈ fs)
    (h2 : Within fs b s2) : Keeps fs b (execGetMeasurements a1 s2) := by
  unfold execGetMeasurements
  repeat' (first
    | with_reducible intro _ | with_reducible assumption | with_reducible apply next_keeps | with_reducible apply ite_keeps
    | with_reducible apply ite_within | with_reducible apply spdmRow_keeps | with_reducible apply spdmErr_within
    | with_reducible apply drawNonce_within | with_reducible apply spdmSend_within | with_reducible apply modSec_within
    | split | dsimp only)

theorem execSpdmUnsupportedRequest_keeps {fs : List Field} {b : State} {a1 s2}
    (m8 : .sec ∈ fs)
    (h2 : Within fs b s2) : Keeps fs b (execSpdmUnsupportedRequest a1 s2) := by
  unfold execSpdmUnsupportedRequest
  repeat' (first
    | with_reducible intro _ | with_reducible assumption | with_reducible apply next_keeps | with_reducible apply ite_keeps
    | with_reducible apply whenB_within | with_reducible apply ite_within | with_reducible apply spdmErr_within | split
    | dsimp only)

theorem vendorSend_within {fs : List Field} {b : State} {s1 a2}
    (m8 : .sec ∈ fs)
    (h1 : Within fs b s1) : Within fs b (vendorSend s1 a2) := by
  unfold vendorSend
  repeat' (first
    | with_reducible intro _ | with_reducible assumption | with_reducible apply spdmSend_within | split | dsimp only)

theorem vendorRow_keeps {fs : List Field} {b : State} {a1 a2 a3 f4 s5}
    (m8 : .sec ∈ fs)
    (h4 : ∀ x0 x1, Within fs b x1 → Within fs b (f4 x0 x1)) (h5 : Within fs b s5) : Keeps fs b (vendorRow a1 a2 a3 f4 s5) := by
  unfold vendorRow
  repeat' (first
    | with_reducible intro _ | with_reducible assumption | with_reducible apply h4 | with_reducible apply next_keeps
    | with_reducible apply ite_keeps | with_reducible apply ite_within | with_reducible apply spdmRow_keeps
    | with_reducible apply vendorSend_within | split | dsimp only)

theorem execBundleRegister_keeps {fs : List Field} {b : State} {a1 s2}
    (m3 : .host ∈ fs) (m6 : .fab ∈ fs) (m8 : .sec ∈ fs) (m9 : .pew ∈ fs)
    (h2 : Within fs b s2) : Keeps fs b (execBundleRegister a1 s2) := by
  unfold execBundleRegister
  repeat' (first
    | with_reducible intro _ | with_reducible assumption | with_reducible apply next_keeps | with_reducible apply ite_keeps
    | with_reducible apply ite_within | with_reducible apply vendorRow_keeps | with_reducible apply vendorSend_within
    | with_reducible apply bootState_within | with_reducible apply modSec_within | with_reducible apply startRead_within
    | split | dsimp only)

theorem execBootStatus_keeps {fs : List Field} {b : State} {a1 s2}
    (m8 : .sec ∈ fs)
    (h2 : Within fs b s2) : Keeps fs b (execBootStatus a1 s2) := by
  unfold execBootStatus
  repeat' (first
    | with_reducible intro _ | with_reducible assumption | with_reducible apply next_keeps | with_reducible apply ite_keeps
    | with_reducible apply ite_within | with_reducible apply vendorRow_keeps | with_reducible apply vendorSend_within | split
    | dsimp only)

theorem execSealRingSet_keeps {fs : List Field} {b : State} {a1 s2}
    (m3 : .host ∈ fs) (m8 : .sec ∈ fs)
    (h2 : Within fs b s2) : Keeps fs b (execSealRingSet a1 s2) := by
  unfold execSealRingSet
  repeat' (first
    | with_reducible intro _ | with_reducible assumption | with_reducible apply next_keeps | with_reducible apply ite_keeps
    | with_reducible apply ite_within | with_reducible apply vendorRow_keeps | with_reducible apply vendorSend_within
    | with_reducible apply putRing_within | split | dsimp only)

theorem execSealGet_keeps {fs : List Field} {b : State} {a1 s2}
    (m8 : .sec ∈ fs)
    (h2 : Within fs b s2) : Keeps fs b (execSealGet a1 s2) := by
  unfold execSealGet
  repeat' (first
    | with_reducible intro _ | with_reducible assumption | with_reducible apply next_keeps | with_reducible apply ite_keeps
    | with_reducible apply ite_within | with_reducible apply vendorRow_keeps | with_reducible apply vendorSend_within | split
    | dsimp only)

end Sys2Proof.Machine
end

