-- ==== Sys2Proof/Laws/FramesHost.lean ====
section
/-! SUPPORT. What each operation of Machine/(Chain, Exchange, Command, Rings, Parts, Setup, Reads).lean may touch: one lemma for each. -/

set_option Elab.async false
set_option linter.unusedTactic false
set_option linter.unreachableTactic false

namespace Sys2Proof.Machine

theorem modChain_within {fs : List Field} {b : State} {s1 a2 a3 a4}
    (m4 : .parts ∈ fs)
    (h1 : Within fs b s1) : Within fs b (modChain s1 a2 a3 a4) := by
  unfold modChain
  repeat' (first
    | with_reducible intro _ | with_reducible assumption | with_reducible apply modPart_within | split | dsimp only)

theorem modSeg_within {fs : List Field} {b : State} {s1 a2 a3 a4 a5}
    (m4 : .parts ∈ fs)
    (h1 : Within fs b s1) : Within fs b (modSeg s1 a2 a3 a4 a5) := by
  unfold modSeg
  repeat' (first
    | with_reducible intro _ | with_reducible assumption | with_reducible apply modChain_within | split | dsimp only)

theorem segTouch_within {fs : List Field} {b : State} {s1 a2 a3 a4}
    (m11 : .mem ∈ fs)
    (h1 : Within fs b s1) : Within fs b (segTouch s1 a2 a3 a4) := by
  unfold segTouch
  repeat' (first
    | with_reducible intro _ | with_reducible assumption | with_reducible apply foldl_within
    | with_reducible apply foldl_fst_within | with_reducible apply foldl_snd_within | with_reducible apply memTouch_within
    | split | dsimp only)

theorem sendNotice_within {fs : List Field} {b : State} {s1 a2 a3 a4 a5 a6 a7 a8 a9}
    (m6 : .fab ∈ fs) (m9 : .pew ∈ fs)
    (h1 : Within fs b s1) : Within fs b (sendNotice s1 a2 a3 a4 a5 a6 a7 a8 a9).1 := by
  unfold sendNotice
  repeat' (first
    | with_reducible intro _ | with_reducible assumption | with_reducible apply peerWriteAll_within | split | dsimp only)

theorem dropChain_within {fs : List Field} {b : State} {s1 a2 a3 a4}
    (m3 : .host ∈ fs) (m4 : .parts ∈ fs) (m6 : .fab ∈ fs) (m9 : .pew ∈ fs)
    (h1 : Within fs b s1) : Within fs b (dropChain s1 a2 a3 a4) := by
  unfold dropChain
  repeat' (first
    | with_reducible intro _ | with_reducible assumption | with_reducible apply ite_within
    | with_reducible apply modPart_within | with_reducible refine modHost_within _ ?_ ?_
    | with_reducible apply sendNotice_within | split | dsimp only)

theorem failChain_within {fs : List Field} {b : State} {s1 a2 a3 a4}
    (m3 : .host ∈ fs) (m4 : .parts ∈ fs) (m6 : .fab ∈ fs) (m9 : .pew ∈ fs)
    (h1 : Within fs b s1) : Within fs b (failChain s1 a2 a3 a4) := by
  unfold failChain
  repeat' (first
    | with_reducible intro _ | with_reducible assumption | with_reducible apply endCmd_within
    | with_reducible apply dropChain_within | split | dsimp only)

theorem statusChain_within {fs : List Field} {b : State} {s1 a2 a3 a4}
    (m2 : .freeCtr ∈ fs) (m3 : .host ∈ fs) (m4 : .parts ∈ fs) (m6 : .fab ∈ fs) (m9 : .pew ∈ fs)
    (h1 : Within fs b s1) : Within fs b (statusChain s1 a2 a3 a4) := by
  unfold statusChain
  repeat' (first
    | with_reducible intro _ | with_reducible assumption | with_reducible apply drawFree_within
    | with_reducible apply endCmdSt_within | with_reducible apply dropChain_within | split | dsimp only)

theorem finishChain_within {fs : List Field} {b : State} {s1 a2 a3}
    (m3 : .host ∈ fs) (m4 : .parts ∈ fs) (m6 : .fab ∈ fs) (m9 : .pew ∈ fs)
    (h1 : Within fs b s1) : Within fs b (finishChain s1 a2 a3) := by
  unfold finishChain
  repeat' (first
    | with_reducible intro _ | with_reducible assumption | with_reducible apply ite_within
    | with_reducible apply failChain_within | with_reducible apply modPart_within | with_reducible apply endCmdSt_within
    | split | dsimp only)

theorem announce_within {fs : List Field} {b : State} {s1 a2 a3 a4}
    (m3 : .host ∈ fs) (m4 : .parts ∈ fs) (m6 : .fab ∈ fs) (m9 : .pew ∈ fs)
    (h1 : Within fs b s1) : Within fs b (announce s1 a2 a3 a4) := by
  unfold announce
  repeat' (first
    | with_reducible intro _ | with_reducible assumption | with_reducible apply ite_within
    | with_reducible apply sendNotice_within | with_reducible apply modSeg_within | with_reducible apply failChain_within
    | split | dsimp only)

theorem sendSegment_within {fs : List Field} {b : State} {s1 a2 a3 a4}
    (m3 : .host ∈ fs) (m4 : .parts ∈ fs) (m6 : .fab ∈ fs) (m9 : .pew ∈ fs) (m11 : .mem ∈ fs)
    (h1 : Within fs b s1) : Within fs b (sendSegment s1 a2 a3 a4) := by
  unfold sendSegment
  repeat' (first
    | with_reducible intro _ | with_reducible assumption | with_reducible apply ite_within
    | with_reducible apply peerWriteAll_within | with_reducible apply segTouch_within | with_reducible apply modSeg_within
    | with_reducible apply failChain_within | split | dsimp only)

theorem pumpChain_within {fs : List Field} {b : State} {a1 a2 a3 s4}
    (m3 : .host ∈ fs) (m4 : .parts ∈ fs) (m6 : .fab ∈ fs) (m9 : .pew ∈ fs) (m11 : .mem ∈ fs)
    (h4 : Within fs b s4) : Within fs b (pumpChain a1 a2 a3 s4) := by
  induction a3 generalizing a1 a2 s4 with
  | zero =>
    unfold pumpChain
    repeat' (first
    | with_reducible intro _ | with_reducible assumption | with_reducible apply ite_within
    | with_reducible apply sendSegment_within | split | dsimp only)
  | succ n ih =>
    unfold pumpChain
    repeat' (first
    | with_reducible intro _ | with_reducible assumption | with_reducible apply ih | with_reducible apply ite_within
    | with_reducible apply sendSegment_within | split | dsimp only)

theorem pumped_within {fs : List Field} {b : State} {s1 a2 a3}
    (m3 : .host ∈ fs) (m4 : .parts ∈ fs) (m6 : .fab ∈ fs) (m9 : .pew ∈ fs) (m11 : .mem ∈ fs)
    (h1 : Within fs b s1) : Within fs b (pumped s1 a2 a3) := by
  unfold pumped
  repeat' (first
    | with_reducible intro _ | with_reducible assumption | with_reducible apply finishChain_within
    | with_reducible apply pumpChain_within | split | dsimp only)

theorem readSource_within {fs : List Field} {b : State} {s1 a2 a3}
    (m3 : .host ∈ fs) (m4 : .parts ∈ fs) (m6 : .fab ∈ fs) (m9 : .pew ∈ fs)
    (h1 : Within fs b s1) : Within fs b (readSource s1 a2 a3) := by
  unfold readSource
  repeat' (first
    | with_reducible intro _ | with_reducible assumption | with_reducible apply ite_within
    | with_reducible apply startRead_within | with_reducible apply failChain_within | with_reducible apply dropRead_within
    | split | dsimp only)

theorem sourceRead_within {fs : List Field} {b : State} {s1 a2 a3 a4}
    (m3 : .host ∈ fs) (m4 : .parts ∈ fs) (m6 : .fab ∈ fs) (m9 : .pew ∈ fs) (m11 : .mem ∈ fs)
    (h1 : Within fs b s1) : Within fs b (sourceRead s1 a2 a3 a4) := by
  unfold sourceRead
  repeat' (first
    | with_reducible intro _ | with_reducible assumption | with_reducible apply readSource_within
    | with_reducible apply pumped_within | with_reducible apply modSeg_within | with_reducible apply memPut_within | split
    | dsimp only)

theorem sourceLocal_within {fs : List Field} {b : State} {s1 a2 a3 a4}
    (m3 : .host ∈ fs) (m4 : .parts ∈ fs) (m6 : .fab ∈ fs) (m9 : .pew ∈ fs) (m11 : .mem ∈ fs)
    (h1 : Within fs b s1) : Within fs b (sourceLocal s1 a2 a3 a4) := by
  unfold sourceLocal
  repeat' (first
    | with_reducible intro _ | with_reducible assumption | with_reducible apply foldl_within
    | with_reducible apply foldl_fst_within | with_reducible apply foldl_snd_within | with_reducible apply modSeg_within
    | with_reducible apply memPut_within | with_reducible apply memTouch_within | with_reducible apply pumped_within | split
    | dsimp only)

theorem deselect_within {fs : List Field} {b : State} {s1 a2}
    (m4 : .parts ∈ fs) (m10 : .eng ∈ fs)
    (h1 : Within fs b s1) : Within fs b (deselect s1 a2) := by
  unfold deselect
  repeat' (first
    | with_reducible intro _ | with_reducible assumption | with_reducible apply freeCtrs_within
    | with_reducible apply clearPlaces_within | with_reducible apply modPart_within | split | dsimp only)

theorem chainPlaces_within {fs : List Field} {b : State} {s1 a2 a3 a4 a5}
    (m11 : .mem ∈ fs)
    (h1 : Within fs b s1) : ∀ n t, chainPlaces s1 a2 a3 a4 a5 = some (n, t) → Within fs b t := by
  intro n t h
  unfold chainPlaces at h
  split at h
  · rw [Option.some.injEq, Prod.mk.injEq] at h
    rw [← h.2]; exact h1
  · split at h
    · exact nomatch h
    · exact placeSegments_within m11 h1 n t h

theorem startChain_within {fs : List Field} {b : State} {s1 a2 a3}
    (m2 : .freeCtr ∈ fs) (m3 : .host ∈ fs) (m4 : .parts ∈ fs) (m6 : .fab ∈ fs) (m9 : .pew ∈ fs) (m11 : .mem ∈ fs)
    (h1 : Within fs b s1) : Within fs b (startChain s1 a2 a3) := by
  unfold startChain
  repeat' (first
    | with_reducible intro _ | with_reducible assumption | with_reducible apply ite_within
    | with_reducible apply modPart_within | with_reducible apply spend_within | with_reducible apply pumped_within
    | with_reducible apply sourceLocal_within | with_reducible apply readSource_within | split | dsimp only)

theorem joinChain_within {fs : List Field} {b : State} {s1 a2 a3}
    (m2 : .freeCtr ∈ fs) (m3 : .host ∈ fs) (m4 : .parts ∈ fs) (m6 : .fab ∈ fs) (m9 : .pew ∈ fs) (m10 : .eng ∈ fs) (m11 : .mem ∈ fs)
    (h1 : Within fs b s1) : Within fs b (joinChain s1 a2 a3) := by
  unfold joinChain
  split
  · exact h1
  · rename_i k _
    refine ite_within (endCmdSt_within m3 h1) (ite_within (endCmdSt_within m3 h1) (ite_within (endCmdSt_within m3 h1) ?_))
    have hd : Within fs b (if (getPart s1 (k.d.fn - 1)).sel = some (fld a3 20 2) then deselect s1 (k.d.fn - 1) else s1) :=
      ite_within (by repeat' (first | assumption | with_reducible apply deselect_within)) h1
    revert hd
    dsimp only
    generalize (if (getPart s1 (k.d.fn - 1)).sel = some (fld a3 20 2) then deselect s1 (k.d.fn - 1) else s1) = u
    intro hd
    split
    · exact endCmdSt_within m3 hd
    · rename_i r hr
      have hr2 := chainPlaces_within m11 hd r.1 r.2 hr
      repeat' (first | with_reducible assumption | with_reducible apply startChain_within)

theorem chainWrite_within {fs : List Field} {b : State} {s1 a2 a3 a4 a5 a6}
    (m3 : .host ∈ fs) (m4 : .parts ∈ fs) (m6 : .fab ∈ fs) (m9 : .pew ∈ fs) (m11 : .mem ∈ fs)
    (h1 : Within fs b s1) : Within fs b (chainWrite s1 a2 a3 a4 a5 a6) := by
  unfold chainWrite
  repeat' (first
    | with_reducible intro _ | with_reducible assumption | with_reducible apply ite_within
    | with_reducible apply modChain_within | with_reducible apply memPut_within | with_reducible apply modSeg_within
    | with_reducible apply peerWriteAll_within | with_reducible apply failChain_within | split | dsimp only)

theorem noticeWrite_within {fs : List Field} {b : State} {s1 a2 a3 a4 a5}
    (m4 : .parts ∈ fs)
    (h1 : Within fs b s1) : Within fs b (noticeWrite s1 a2 a3 a4 a5) := by
  unfold noticeWrite
  repeat' (first
    | with_reducible intro _ | with_reducible assumption | with_reducible apply ite_within
    | with_reducible apply modChain_within | split | dsimp only)

theorem chainRow_keeps {fs : List Field} {b : State} {a1 a2 a3 s4 f5}
    (m4 : .parts ∈ fs)
    (h4 : Within fs b s4) (h5 : ∀ x0 x1 x2, Within fs b x2 → Within fs b (f5 x0 x1 x2)) : Keeps fs b (chainRow a1 a2 a3 s4 f5) := by
  unfold chainRow
  repeat' (first
    | with_reducible intro _ | with_reducible assumption | with_reducible apply h5 | with_reducible apply next_keeps
    | with_reducible apply ite_keeps | with_reducible apply ite_within | with_reducible apply modChain_within | split
    | dsimp only)

theorem answer_within {fs : List Field} {b : State} {s1 a2 a3 a4 a5 a6 a7}
    (m3 : .host ∈ fs) (m4 : .parts ∈ fs) (m6 : .fab ∈ fs) (m9 : .pew ∈ fs)
    (h1 : Within fs b s1) : Within fs b (answer s1 a2 a3 a4 a5 a6 a7).1 := by
  unfold answer
  repeat' (first
    | with_reducible intro _ | with_reducible assumption | with_reducible apply ite_within
    | with_reducible apply sendNotice_within | with_reducible apply failChain_within | split | dsimp only)

theorem execSegment_keeps {fs : List Field} {b : State} {a1 a2 s3}
    (m3 : .host ∈ fs) (m4 : .parts ∈ fs) (m6 : .fab ∈ fs) (m9 : .pew ∈ fs) (m11 : .mem ∈ fs)
    (h3 : Within fs b s3) : Keeps fs b (execSegment a1 a2 s3) := by
  unfold execSegment
  repeat' (first
    | with_reducible intro _ | with_reducible assumption | with_reducible apply next_keeps | with_reducible apply ite_keeps
    | with_reducible apply ite_within | with_reducible apply chainRow_keeps | with_reducible apply memTouch_within
    | with_reducible apply modSeg_within | with_reducible apply answer_within | with_reducible apply pumped_within
    | with_reducible apply announce_within | with_reducible apply failChain_within | split | dsimp only)

theorem execAck_keeps {fs : List Field} {b : State} {a1 a2 s3}
    (m3 : .host ∈ fs) (m4 : .parts ∈ fs) (m6 : .fab ∈ fs) (m9 : .pew ∈ fs) (m11 : .mem ∈ fs)
    (h3 : Within fs b s3) : Keeps fs b (execAck a1 a2 s3) := by
  unfold execAck
  repeat' (first
    | with_reducible intro _ | with_reducible assumption | with_reducible apply next_keeps
    | with_reducible apply chainRow_keeps | with_reducible apply pumped_within | with_reducible apply modSeg_within | split
    | dsimp only)

theorem execNack_keeps {fs : List Field} {b : State} {a1 a2 s3}
    (m3 : .host ∈ fs) (m4 : .parts ∈ fs) (m6 : .fab ∈ fs) (m9 : .pew ∈ fs) (m11 : .mem ∈ fs)
    (h3 : Within fs b s3) : Keeps fs b (execNack a1 a2 s3) := by
  unfold execNack
  repeat' (first
    | with_reducible intro _ | with_reducible assumption | with_reducible apply next_keeps | with_reducible apply ite_keeps
    | with_reducible apply ite_within | with_reducible apply chainRow_keeps | with_reducible apply sendSegment_within
    | with_reducible apply modSeg_within | split | dsimp only)

theorem execChainAbort_keeps {fs : List Field} {b : State} {a1 a2 s3}
    (m3 : .host ∈ fs) (m4 : .parts ∈ fs) (m6 : .fab ∈ fs) (m9 : .pew ∈ fs)
    (h3 : Within fs b s3) : Keeps fs b (execChainAbort a1 a2 s3) := by
  unfold execChainAbort
  repeat' (first
    | with_reducible intro _ | with_reducible assumption | with_reducible apply next_keeps
    | with_reducible apply chainRow_keeps | with_reducible apply failChain_within | split | dsimp only)

theorem execChainPredecessorSilent_keeps {fs : List Field} {b : State} {a1 a2 s3}
    (m3 : .host ∈ fs) (m4 : .parts ∈ fs) (m6 : .fab ∈ fs) (m9 : .pew ∈ fs)
    (h3 : Within fs b s3) : Keeps fs b (execChainPredecessorSilent a1 a2 s3) := by
  unfold execChainPredecessorSilent
  repeat' (first
    | with_reducible intro _ | with_reducible assumption | with_reducible apply next_keeps | with_reducible apply ite_keeps
    | with_reducible apply ite_within | with_reducible apply failChain_within | split | dsimp only)

theorem chainWacked_within {fs : List Field} {b : State} {s1 a2 a3 a4 a5}
    (m3 : .host ∈ fs) (m4 : .parts ∈ fs) (m6 : .fab ∈ fs) (m9 : .pew ∈ fs)
    (h1 : Within fs b s1) : Within fs b (chainWacked s1 a2 a3 a4 a5) := by
  unfold chainWacked
  repeat' (first
    | with_reducible intro _ | with_reducible assumption | with_reducible apply ite_within
    | with_reducible apply announce_within | with_reducible apply modSeg_within | split | dsimp only)

theorem execSteeringBindComplete_keeps {fs : List Field} {b : State} {a1 a2 s3}
    (m3 : .host ∈ fs) (m4 : .parts ∈ fs) (m5 : .rtes ∈ fs) (m11 : .mem ∈ fs)
    (h3 : Within fs b s3) : Keeps fs b (execSteeringBindComplete a1 a2 s3) := by
  unfold execSteeringBindComplete
  repeat' (first
    | with_reducible intro _ | with_reducible assumption | with_reducible apply next_keeps | with_reducible apply ite_keeps
    | with_reducible apply ite_within | with_reducible apply settle_within | with_reducible apply endCmdSt_within
    | with_reducible apply modPart_within | with_reducible apply memPut_within | split | dsimp only)

theorem brassWrite_within {fs : List Field} {b : State} {s1 a2 a3 a4 a5 a6 f7}
    (m6 : .fab ∈ fs) (m9 : .pew ∈ fs)
    (h1 : Within fs b s1) (h7 : ∀ x0, Within fs b x0 → Within fs b (f7 x0)) : Within fs b (brassWrite s1 a2 a3 a4 a5 a6 f7).1 := by
  unfold brassWrite
  repeat' (first
    | with_reducible intro _ | with_reducible assumption | with_reducible apply h7 | with_reducible apply ite_within
    | with_reducible apply peerWriteAll_within | split | dsimp only)

theorem jobBytes_within {fs : List Field} {b : State} {a1 a2 a3 a4 a5 a6 s7}
    (m6 : .fab ∈ fs)
    (h7 : Within fs b s7) : Within fs b (jobBytes a1 a2 a3 a4 a5 a6 s7) := by
  unfold jobBytes
  repeat' (first
    | with_reducible intro _ | with_reducible assumption | with_reducible apply modFab_within | split | dsimp only)

theorem modHalf_within {fs : List Field} {b : State} {s1 a2 a3 a4}
    (m4 : .parts ∈ fs)
    (h1 : Within fs b s1) : Within fs b (modHalf s1 a2 a3 a4) := by
  unfold modHalf
  repeat' (first
    | with_reducible intro _ | with_reducible assumption | with_reducible apply modPart_within | split | dsimp only)

theorem resultBytes_within {fs : List Field} {b : State} {a1 a2 a3 a4 a5 a6 s7}
    (m4 : .parts ∈ fs) (m6 : .fab ∈ fs)
    (h7 : Within fs b s7) : Within fs b (resultBytes a1 a2 a3 a4 a5 a6 s7) := by
  unfold resultBytes
  repeat' (first
    | with_reducible intro _ | with_reducible assumption | with_reducible apply ite_within
    | with_reducible apply modPart_within | with_reducible apply modHalf_within | with_reducible apply modFab_within | split
    | dsimp only)

theorem rowFlags_within {fs : List Field} {b : State} {s1 a2 a3 a4}
    (m4 : .parts ∈ fs)
    (h1 : Within fs b s1) : Within fs b (rowFlags s1 a2 a3 a4) := by
  unfold rowFlags
  repeat' (first
    | with_reducible intro _ | with_reducible assumption | with_reducible apply modPart_within | split | dsimp only)

theorem combineHalf_within {fs : List Field} {b : State} {s1 a2 a3}
    (m4 : .parts ∈ fs) (m11 : .mem ∈ fs)
    (h1 : Within fs b s1) : Within fs b (combineHalf s1 a2 a3) := by
  unfold combineHalf
  repeat' (first
    | with_reducible intro _ | with_reducible assumption | with_reducible apply ite_within | with_reducible apply foldl_within
    | with_reducible apply foldl_fst_within | with_reducible apply foldl_snd_within | with_reducible apply rowFlags_within
    | with_reducible apply memPut_within | with_reducible apply modPart_within | split | dsimp only)

theorem settleHalf_within {fs : List Field} {b : State} {s1 a2 a3}
    (m3 : .host ∈ fs) (m4 : .parts ∈ fs) (m5 : .rtes ∈ fs) (m10 : .eng ∈ fs) (m11 : .mem ∈ fs)
    (h1 : Within fs b s1) : Within fs b (settleHalf s1 a2 a3) := by
  unfold settleHalf
  repeat' (first
    | with_reducible intro _ | with_reducible assumption | with_reducible apply ite_within
    | with_reducible apply combineHalf_within | with_reducible apply discardInterval_within | split | dsimp only)

theorem failJob_within {fs : List Field} {b : State} {s1 a2 a3 a4}
    (m5 : .rtes ∈ fs)
    (h1 : Within fs b s1) : Within fs b (failJob s1 a2 a3 a4) := by
  unfold failJob
  repeat' (first
    | with_reducible intro _ | with_reducible assumption | with_reducible apply foldl_within
    | with_reducible apply foldl_fst_within | with_reducible apply foldl_snd_within | with_reducible apply failReq_within
    | split | dsimp only)

theorem loseJob_within {fs : List Field} {b : State} {s1 a2 a3 a4 a5 a6}
    (m3 : .host ∈ fs) (m4 : .parts ∈ fs) (m5 : .rtes ∈ fs) (m10 : .eng ∈ fs) (m11 : .mem ∈ fs)
    (h1 : Within fs b s1) : Within fs b (loseJob s1 a2 a3 a4 a5 a6) := by
  unfold loseJob
  repeat' (first
    | with_reducible intro _ | with_reducible assumption | with_reducible apply foldl_within
    | with_reducible apply foldl_fst_within | with_reducible apply foldl_snd_within | with_reducible apply failJob_within
    | with_reducible apply settleHalf_within | with_reducible apply modHalf_within | split | dsimp only)

theorem sendJobHead_within {fs : List Field} {b : State} {s1 a2 a3 a4}
    (m3 : .host ∈ fs) (m4 : .parts ∈ fs) (m5 : .rtes ∈ fs) (m6 : .fab ∈ fs) (m9 : .pew ∈ fs) (m10 : .eng ∈ fs)
    (m11 : .mem ∈ fs)
    (h1 : Within fs b s1) : Within fs b (sendJobHead s1 a2 a3 a4) := by
  unfold sendJobHead
  repeat' (first
    | with_reducible intro _ | with_reducible assumption | with_reducible apply ite_within
    | with_reducible apply brassWrite_within | with_reducible apply jobBytes_within | with_reducible apply modHalf_within
    | with_reducible apply modPart_within | with_reducible apply loseJob_within | split | dsimp only)

theorem sendJob_within {fs : List Field} {b : State} {s1 a2 a3 a4 a5 a6 a7}
    (m3 : .host ∈ fs) (m4 : .parts ∈ fs) (m5 : .rtes ∈ fs) (m6 : .fab ∈ fs) (m9 : .pew ∈ fs) (m10 : .eng ∈ fs)
    (m11 : .mem ∈ fs)
    (h1 : Within fs b s1) : Within fs b (sendJob s1 a2 a3 a4 a5 a6 a7) := by
  unfold sendJob
  repeat' (first
    | with_reducible intro _ | with_reducible assumption | with_reducible apply ite_within | with_reducible apply foldl_within
    | with_reducible apply foldl_fst_within | with_reducible apply foldl_snd_within | with_reducible apply brassWrite_within
    | with_reducible apply memTouch_within | with_reducible apply jobBytes_within | with_reducible apply modHalf_within
    | with_reducible apply loseJob_within | with_reducible apply sendJobHead_within | split | dsimp only)

theorem setOcc_within {fs : List Field} {b : State} {s1 a2 a3 a4 a5 a6}
    (m4 : .parts ∈ fs)
    (h1 : Within fs b s1) : Within fs b (setOcc s1 a2 a3 a4 a5 a6) := by
  unfold setOcc
  repeat' (first
    | with_reducible intro _ | with_reducible assumption | with_reducible apply ite_within
    | with_reducible apply modPart_within | split | dsimp only)

theorem routeRow_within {fs : List Field} {b : State} {a1 a2 a3 a4 a5 a6 a7 a8 a9 a10 s11}
    (m4 : .parts ∈ fs)
    (h11 : Within fs b s11) : Within fs b (routeRow a1 a2 a3 a4 a5 a6 a7 a8 a9 a10 s11).1 := by
  unfold routeRow
  repeat' (first
    | with_reducible intro _ | with_reducible assumption | with_reducible apply ite_within
    | with_reducible apply modPart_within | with_reducible apply rowFlags_within | with_reducible apply setOcc_within | split
    | dsimp only)

theorem halfTried_within {fs : List Field} {b : State} {s1 a2 a3 a4}
    (m4 : .parts ∈ fs)
    (h1 : Within fs b s1) : Within fs b (halfTried s1 a2 a3 a4) := by
  unfold halfTried
  repeat' (first
    | with_reducible intro _ | with_reducible assumption | with_reducible apply ite_within
    | with_reducible apply modPart_within | split | dsimp only)

theorem execHalfDispatch_keeps {fs : List Field} {b : State} {a1 a2 a3 a4 a5 s6}
    (m3 : .host ∈ fs) (m4 : .parts ∈ fs) (m5 : .rtes ∈ fs) (m6 : .fab ∈ fs) (m9 : .pew ∈ fs) (m10 : .eng ∈ fs)
    (m11 : .mem ∈ fs)
    (h6 : Within fs b s6) : Keeps fs b (execHalfDispatch a1 a2 a3 a4 a5 s6) := by
  unfold execHalfDispatch
  repeat' (first
    | with_reducible intro _ | with_reducible assumption | with_reducible apply next_keeps | with_reducible apply ite_keeps
    | with_reducible apply ite_within | with_reducible apply foldl_within | with_reducible apply foldl_fst_within
    | with_reducible apply foldl_snd_within | with_reducible apply routeRow_within | with_reducible apply modPart_within
    | with_reducible apply halfTried_within | with_reducible apply settleHalf_within | with_reducible apply sendJob_within
    | split | dsimp only)

theorem sendResultHead_within {fs : List Field} {b : State} {s1 a2 a3 a4 a5 a6}
    (m4 : .parts ∈ fs) (m6 : .fab ∈ fs) (m9 : .pew ∈ fs)
    (h1 : Within fs b s1) : Within fs b (sendResultHead s1 a2 a3 a4 a5 a6) := by
  unfold sendResultHead
  repeat' (first
    | with_reducible intro _ | with_reducible assumption | with_reducible apply brassWrite_within
    | with_reducible apply resultBytes_within | split | dsimp only)

theorem execJobArrival_keeps {fs : List Field} {b : State} {a1 a2 a3 s4}
    (m4 : .parts ∈ fs) (m6 : .fab ∈ fs) (m9 : .pew ∈ fs)
    (h4 : Within fs b s4) : Keeps fs b (execJobArrival a1 a2 a3 s4) := by
  unfold execJobArrival
  repeat' (first
    | with_reducible intro _ | with_reducible assumption | with_reducible apply next_keeps | with_reducible apply ite_keeps
    | with_reducible apply ite_within | with_reducible apply modFab_within | with_reducible apply sendResultHead_within
    | with_reducible apply modPart_within | split | dsimp only)

theorem modJob_within {fs : List Field} {b : State} {s1 a2 a3 a4 a5 a6}
    (m4 : .parts ∈ fs)
    (h1 : Within fs b s1) : Within fs b (modJob s1 a2 a3 a4 a5 a6) := by
  unfold modJob
  repeat' (first
    | with_reducible intro _ | with_reducible assumption | with_reducible apply modPart_within | split | dsimp only)

theorem endJob_within {fs : List Field} {b : State} {s1 a2 a3 a4 a5}
    (m4 : .parts ∈ fs) (m6 : .fab ∈ fs) (m9 : .pew ∈ fs)
    (h1 : Within fs b s1) : Within fs b (endJob s1 a2 a3 a4 a5) := by
  unfold endJob
  repeat' (first
    | with_reducible intro _ | with_reducible assumption | with_reducible apply sendResultHead_within
    | with_reducible apply modPart_within | split | dsimp only)

theorem execJobComplete_keeps {fs : List Field} {b : State} {a1 a2 a3 s4}
    (m3 : .host ∈ fs) (m4 : .parts ∈ fs) (m6 : .fab ∈ fs) (m9 : .pew ∈ fs)
    (h4 : Within fs b s4) : Keeps fs b (execJobComplete a1 a2 a3 s4) := by
  unfold execJobComplete
  repeat' (first
    | with_reducible intro _ | with_reducible assumption | with_reducible apply next_keeps | with_reducible apply ite_keeps
    | with_reducible apply ite_within | with_reducible apply foldl_within | with_reducible apply foldl_fst_within
    | with_reducible apply foldl_snd_within | with_reducible apply startRead_within | with_reducible apply dropRead_within
    | with_reducible apply brassWrite_within | with_reducible apply resultBytes_within | with_reducible apply modPart_within | with_reducible apply modJob_within
    | with_reducible apply endJob_within | split | dsimp only)

theorem expireHalf_within {fs : List Field} {b : State} {s1 a2 a3}
    (m3 : .host ∈ fs) (m4 : .parts ∈ fs) (m5 : .rtes ∈ fs) (m10 : .eng ∈ fs) (m11 : .mem ∈ fs)
    (h1 : Within fs b s1) : Within fs b (expireHalf s1 a2 a3) := by
  unfold expireHalf
  repeat' (first
    | with_reducible intro _ | with_reducible assumption | with_reducible apply foldl_within
    | with_reducible apply foldl_fst_within | with_reducible apply foldl_snd_within | with_reducible apply loseJob_within
    | split | dsimp only)

theorem execResultArrival_keeps {fs : List Field} {b : State} {a1 a2 a3 a4 s5}
    (m3 : .host ∈ fs) (m4 : .parts ∈ fs) (m5 : .rtes ∈ fs) (m6 : .fab ∈ fs) (m10 : .eng ∈ fs) (m11 : .mem ∈ fs)
    (h5 : Within fs b s5) : Keeps fs b (execResultArrival a1 a2 a3 a4 s5) := by
  unfold execResultArrival
  repeat' (first
    | with_reducible intro _ | with_reducible assumption | with_reducible apply next_keeps | with_reducible apply ite_keeps
    | with_reducible apply ite_within | with_reducible apply modHalf_within | with_reducible apply modFab_within
    | with_reducible apply expireHalf_within | with_reducible apply settleHalf_within | with_reducible apply failJob_within
    | split | dsimp only)

theorem execTexchExpiry_keeps {fs : List Field} {b : State} {a1 a2 a3 s4}
    (m4 : .parts ∈ fs) (m11 : .mem ∈ fs)
    (h4 : Within fs b s4) : Keeps fs b (execTexchExpiry a1 a2 a3 s4) := by
  unfold execTexchExpiry
  repeat' (first
    | with_reducible intro _ | with_reducible assumption | with_reducible apply next_keeps | with_reducible apply ite_keeps
    | with_reducible apply ite_within | with_reducible apply combineHalf_within | with_reducible apply modHalf_within | split
    | dsimp only)

theorem execXlimitExpiry_keeps {fs : List Field} {b : State} {a1 a2 a3 s4}
    (m3 : .host ∈ fs) (m4 : .parts ∈ fs) (m5 : .rtes ∈ fs) (m10 : .eng ∈ fs) (m11 : .mem ∈ fs)
    (h4 : Within fs b s4) : Keeps fs b (execXlimitExpiry a1 a2 a3 s4) := by
  unfold execXlimitExpiry
  repeat' (first
    | with_reducible intro _ | with_reducible assumption | with_reducible apply next_keeps | with_reducible apply ite_keeps
    | with_reducible apply ite_within | with_reducible apply expireHalf_within | split | dsimp only)

theorem doneDesc_within {fs : List Field} {b : State} {s1 a2 a3}
    (m3 : .host ∈ fs)
    (h1 : Within fs b s1) : Within fs b (doneDesc s1 a2 a3) := by
  unfold doneDesc
  repeat' (first
    | with_reducible intro _ | with_reducible assumption | with_reducible apply ite_within
    | with_reducible apply dueComp_within | split | dsimp only)

theorem takeDesc_keeps {fs : List Field} {b : State} {a1 a2 a3 f4 s5}
    (m3 : .host ∈ fs)
    (h4 : ∀ x0 x1, Within fs b x1 → Within fs b (f4 x0 x1)) (h5 : Within fs b s5) : Keeps fs b (takeDesc a1 a2 a3 f4 s5) := by
  unfold takeDesc
  repeat' (first
    | with_reducible intro _ | with_reducible assumption | with_reducible apply h4 | with_reducible apply next_keeps
    | with_reducible apply ite_keeps | with_reducible apply onUnit_keeps | with_reducible apply ite_within
    | with_reducible apply dropDesc_within | with_reducible apply doneDesc_within | split | dsimp only)

theorem begun_within {fs : List Field} {b : State} {s1 a2}
    (m3 : .host ∈ fs)
    (h1 : Within fs b s1) : Within fs b (begun s1 a2) := by
  unfold begun
  repeat' (first
    | with_reducible intro _ | with_reducible assumption | with_reducible apply startCmd_within | split | dsimp only)

theorem execPollPass_keeps {fs : List Field} {b : State} {s1}
    (m3 : .host ∈ fs) (m6 : .fab ∈ fs) (m9 : .pew ∈ fs)
    (h1 : Within fs b s1) : Keeps fs b (execPollPass s1) := by
  unfold execPollPass
  repeat' (first
    | with_reducible intro _ | with_reducible assumption | with_reducible apply next_keeps | with_reducible apply whenB_within
    | with_reducible apply foldl_within | with_reducible apply foldl_fst_within | with_reducible apply foldl_snd_within
    | with_reducible apply startRead_within | with_reducible refine modHost_within _ ?_ ?_ | split | dsimp only)

theorem fetchRing_within {fs : List Field} {b : State} {a1 a2 a3 s4}
    (m3 : .host ∈ fs) (m6 : .fab ∈ fs) (m9 : .pew ∈ fs)
    (h4 : Within fs b s4) : Within fs b (fetchRing a1 a2 a3 s4) := by
  induction a3 generalizing a1 a2 s4 with
  | zero =>
    unfold fetchRing
    repeat' (first
    | with_reducible intro _ | with_reducible assumption | with_reducible apply ite_within
    | with_reducible apply modRing_within | with_reducible apply startRead_within | split | dsimp only)
  | succ n ih =>
    unfold fetchRing
    repeat' (first
    | with_reducible intro _ | with_reducible assumption | with_reducible apply ih | with_reducible apply ite_within
    | with_reducible apply modRing_within | with_reducible apply startRead_within | split | dsimp only)

theorem fetchAll_within {fs : List Field} {b : State} {s1}
    (m3 : .host ∈ fs) (m6 : .fab ∈ fs) (m9 : .pew ∈ fs)
    (h1 : Within fs b s1) : Within fs b (fetchAll s1) := by
  unfold fetchAll
  repeat' (first
    | with_reducible intro _ | with_reducible assumption | with_reducible apply ite_within | with_reducible apply foldl_within
    | with_reducible apply foldl_fst_within | with_reducible apply foldl_snd_within | with_reducible apply fetchRing_within
    | split | dsimp only)

theorem passEnd_within {fs : List Field} {b : State} {s1}
    (m3 : .host ∈ fs) (m6 : .fab ∈ fs) (m9 : .pew ∈ fs)
    (h1 : Within fs b s1) : Within fs b (passEnd s1) := by
  unfold passEnd
  repeat' (first
    | with_reducible intro _ | with_reducible assumption | with_reducible apply ite_within
    | with_reducible refine modHost_within _ ?_ ?_ | with_reducible apply fetchAll_within | split | dsimp only)

theorem stopRing_within {fs : List Field} {b : State} {s1 a2 a3 a4 a5 a6}
    (m3 : .host ∈ fs)
    (h1 : Within fs b s1) : Within fs b (stopRing s1 a2 a3 a4 a5 a6) := by
  unfold stopRing
  repeat' (first
    | with_reducible intro _ | with_reducible assumption | with_reducible apply dueComp_within
    | with_reducible apply modRing_within | split | dsimp only)

theorem doorbell_within {fs : List Field} {b : State} {s1 a2 a3}
    (m3 : .host ∈ fs)
    (h1 : Within fs b s1) : Within fs b (doorbell s1 a2 a3) := by
  unfold doorbell
  repeat' (first
    | with_reducible intro _ | with_reducible assumption | with_reducible apply ite_within
    | with_reducible apply modRing_within | with_reducible apply stopRing_within | with_reducible apply setErr_within | split
    | dsimp only)

theorem execDoorbellLineRead_keeps {fs : List Field} {b : State} {a1 a2 a3 s4}
    (m3 : .host ∈ fs) (m6 : .fab ∈ fs) (m9 : .pew ∈ fs)
    (h4 : Within fs b s4) : Keeps fs b (execDoorbellLineRead a1 a2 a3 s4) := by
  unfold execDoorbellLineRead
  repeat' (first
    | with_reducible intro _ | with_reducible assumption | with_reducible apply next_keeps | with_reducible apply ite_keeps
    | with_reducible apply onUnit_keeps | with_reducible apply ite_within | with_reducible apply foldl_within
    | with_reducible apply foldl_fst_within | with_reducible apply foldl_snd_within | with_reducible apply dropRead_within
    | with_reducible apply issuePiece_within | with_reducible apply passEnd_within | with_reducible apply doorbell_within
    | split | dsimp only)

theorem flushReserved_within {fs : List Field} {b : State} {a1 a2 a3 s4}
    (m3 : .host ∈ fs)
    (h4 : Within fs b s4) : Within fs b (flushReserved a1 a2 a3 s4) := by
  induction a3 generalizing a1 a2 s4 with
  | nil =>
    unfold flushReserved
    repeat' (first
    | with_reducible intro _ | with_reducible assumption | with_reducible apply ite_within
    | with_reducible apply doneDesc_within | with_reducible apply dropDesc_within | split | dsimp only)
  | cons x xs ih =>
    unfold flushReserved
    repeat' (first
    | with_reducible intro _ | with_reducible assumption | with_reducible apply ih | with_reducible apply ite_within
    | with_reducible apply doneDesc_within | with_reducible apply dropDesc_within | split | dsimp only)

theorem execDescriptorFetch_keeps {fs : List Field} {b : State} {a1 a2 s3}
    (m3 : .host ∈ fs)
    (h3 : Within fs b s3) : Keeps fs b (execDescriptorFetch a1 a2 s3) := by
  unfold execDescriptorFetch
  repeat' (first
    | with_reducible intro _ | with_reducible assumption | with_reducible apply next_keeps | with_reducible apply ite_keeps
    | with_reducible apply onUnit_keeps | with_reducible apply ite_within | with_reducible apply dropRead_within
    | with_reducible apply doneDesc_within | with_reducible refine modHost_within _ ?_ ?_ | split | dsimp only)

theorem execQueueCreate_keeps {fs : List Field} {b : State} {a1 s2}
    (m3 : .host ∈ fs)
    (h2 : Within fs b s2) : Keeps fs b (execQueueCreate a1 s2) := by
  unfold execQueueCreate
  repeat' (first
    | with_reducible intro _ | with_reducible assumption | with_reducible apply next_keeps | with_reducible apply ite_keeps
    | with_reducible apply ite_within | with_reducible apply takeDesc_keeps | with_reducible apply doneDesc_within
    | with_reducible refine modHost_within _ ?_ ?_ | split | dsimp only)

theorem execQueueDelete_keeps {fs : List Field} {b : State} {a1 s2}
    (m3 : .host ∈ fs) (m4 : .parts ∈ fs)
    (h2 : Within fs b s2) : Keeps fs b (execQueueDelete a1 s2) := by
  unfold execQueueDelete
  repeat' (first
    | with_reducible intro _ | with_reducible assumption | with_reducible apply next_keeps | with_reducible apply ite_keeps
    | with_reducible apply ite_within | with_reducible apply takeDesc_keeps | with_reducible apply settleDeletes_within
    | with_reducible apply begun_within | with_reducible apply modRing_within | with_reducible apply doneDesc_within
    | with_reducible apply deleteRing_within | split | dsimp only)

theorem execRecordRingSet_keeps {fs : List Field} {b : State} {a1 s2}
    (m3 : .host ∈ fs) (m4 : .parts ∈ fs)
    (h2 : Within fs b s2) : Keeps fs b (execRecordRingSet a1 s2) := by
  unfold execRecordRingSet
  repeat' (first
    | with_reducible intro _ | with_reducible assumption | with_reducible apply next_keeps | with_reducible apply ite_keeps
    | with_reducible apply ite_within | with_reducible apply takeDesc_keeps | with_reducible apply doneDesc_within
    | with_reducible refine modHost_within _ ?_ ?_ | with_reducible apply deleteRing_within | split | dsimp only)

theorem execTelemetryReadDrops_keeps {fs : List Field} {b : State} {a1 s2}
    (m3 : .host ∈ fs)
    (h2 : Within fs b s2) : Keeps fs b (execTelemetryReadDrops a1 s2) := by
  unfold execTelemetryReadDrops
  repeat' (first
    | with_reducible intro _ | with_reducible assumption | with_reducible apply next_keeps
    | with_reducible apply takeDesc_keeps | with_reducible apply doneDesc_within | with_reducible apply hostWrite_within
    | split | dsimp only)

theorem execTelemetryReadEnergy_keeps {fs : List Field} {b : State} {a1 s2}
    (m3 : .host ∈ fs)
    (h2 : Within fs b s2) : Keeps fs b (execTelemetryReadEnergy a1 s2) := by
  unfold execTelemetryReadEnergy
  repeat' (first
    | with_reducible intro _ | with_reducible assumption | with_reducible apply next_keeps
    | with_reducible apply takeDesc_keeps | with_reducible apply doneDesc_within | with_reducible apply hostWrite_within
    | split | dsimp only)

theorem createPart_within {fs : List Field} {b : State} {s1 a2 a3}
    (m3 : .host ∈ fs) (m4 : .parts ∈ fs) (m11 : .mem ∈ fs)
    (h1 : Within fs b s1) : Within fs b (createPart s1 a2 a3) := by
  unfold createPart
  repeat' (first
    | with_reducible intro _ | with_reducible assumption | with_reducible apply ite_within | with_reducible apply foldl_within
    | with_reducible apply foldl_fst_within | with_reducible apply foldl_snd_within
    | (with_reducible refine modMem_within _ ‹_› ?_ ?_) | with_reducible rfl | exact putLine_bytes _ _ _ _
    | exact refreshed_bytes _ _ _ | with_reducible apply modPart_within | with_reducible apply endCmdSt_within | split
    | dsimp only)

theorem execPartCreate_keeps {fs : List Field} {b : State} {a1 s2}
    (m3 : .host ∈ fs) (m6 : .fab ∈ fs) (m9 : .pew ∈ fs)
    (h2 : Within fs b s2) : Keeps fs b (execPartCreate a1 s2) := by
  unfold execPartCreate
  repeat' (first
    | with_reducible intro _ | with_reducible assumption | with_reducible apply next_keeps
    | with_reducible apply takeDesc_keeps | with_reducible apply startRead_within | with_reducible apply begun_within | split
    | dsimp only)

theorem clearSectors_within {fs : List Field} {b : State} {s1 a2}
    (m10 : .eng ∈ fs)
    (h1 : Within fs b s1) : Within fs b (clearSectors s1 a2) := by
  unfold clearSectors
  repeat' (first
    | with_reducible intro _ | with_reducible assumption | with_reducible apply modEng_within | split | dsimp only)

theorem execPartCreateComplete_keeps {fs : List Field} {b : State} {a1 s2}
    (m3 : .host ∈ fs) (m4 : .parts ∈ fs) (m8 : .sec ∈ fs) (m10 : .eng ∈ fs) (m11 : .mem ∈ fs)
    (h2 : Within fs b s2) : Keeps fs b (execPartCreateComplete a1 s2) := by
  unfold execPartCreateComplete
  repeat' (first
    | with_reducible intro _ | with_reducible assumption | with_reducible apply next_keeps | with_reducible apply onUnit_keeps
    | with_reducible apply whenB_within | with_reducible apply foldl_within | with_reducible apply foldl_fst_within
    | with_reducible apply foldl_snd_within | with_reducible apply clearMem_within | with_reducible apply clearSectors_within
    | with_reducible apply modSec_within | with_reducible apply modPart_within | with_reducible apply endCmdSt_within | split
    | dsimp only)

theorem flushComps_within {fs : List Field} {b : State} {a1 a2 s3}
    (m3 : .host ∈ fs)
    (h3 : Within fs b s3) : Within fs b (flushComps a1 a2 s3) := by
  induction a2 generalizing a1 s3 with
  | nil =>
    unfold flushComps
    repeat' (first
    | with_reducible intro _ | with_reducible assumption | with_reducible apply ite_within
    | with_reducible refine modHost_within _ ?_ ?_ | with_reducible apply modRing_within
    | with_reducible apply ringWrite_within | split | dsimp only)
  | cons x xs ih =>
    unfold flushComps
    repeat' (first
    | with_reducible intro _ | with_reducible assumption | with_reducible apply ih | with_reducible apply ite_within
    | with_reducible refine modHost_within _ ?_ ?_ | with_reducible apply modRing_within
    | with_reducible apply ringWrite_within | split | dsimp only)

theorem flushRecords_within {fs : List Field} {b : State} {a1 a2 s3}
    (m3 : .host ∈ fs)
    (h3 : Within fs b s3) : Within fs b (flushRecords a1 a2 s3) := by
  induction a2 generalizing a1 s3 with
  | nil =>
    unfold flushRecords
    repeat' (first
    | with_reducible intro _ | with_reducible assumption | with_reducible apply ite_within
    | with_reducible apply ringWrite_within | split | dsimp only)
  | cons x xs ih =>
    unfold flushRecords
    repeat' (first
    | with_reducible intro _ | with_reducible assumption | with_reducible apply ih | with_reducible apply ite_within
    | with_reducible apply ringWrite_within | split | dsimp only)

theorem dropSets_within {fs : List Field} {b : State} {s1 a2}
    (m9 : .pew ∈ fs)
    (h1 : Within fs b s1) : Within fs b (dropSets s1 a2) := by
  unfold dropSets
  repeat' (first
    | with_reducible intro _ | with_reducible assumption | with_reducible apply modPew_within | split | dsimp only)

theorem deleteQueues_within {fs : List Field} {b : State} {s1 a2}
    (m3 : .host ∈ fs) (m4 : .parts ∈ fs) (m6 : .fab ∈ fs) (m9 : .pew ∈ fs)
    (h1 : Within fs b s1) : Within fs b (deleteQueues s1 a2) := by
  unfold deleteQueues
  repeat' (first
    | with_reducible intro _ | with_reducible assumption | with_reducible apply ite_within | with_reducible apply foldl_within
    | with_reducible apply foldl_fst_within | with_reducible apply foldl_snd_within | with_reducible apply deleteRing_within
    | with_reducible apply passEnd_within | with_reducible refine modHost_within _ ?_ ?_ | split | dsimp only)

theorem abortCmds_within {fs : List Field} {b : State} {s1 a2}
    (m3 : .host ∈ fs) (m4 : .parts ∈ fs) (m6 : .fab ∈ fs) (m9 : .pew ∈ fs)
    (h1 : Within fs b s1) : Within fs b (abortCmds s1 a2) := by
  unfold abortCmds
  repeat' (first
    | with_reducible intro _ | with_reducible assumption | with_reducible apply foldl_within
    | with_reducible apply foldl_fst_within | with_reducible apply foldl_snd_within | with_reducible apply failChain_within
    | with_reducible apply endCmdSt_within | with_reducible apply doneDesc_within | with_reducible apply dropDesc_within
    | split | dsimp only)

theorem destroyPart_within {fs : List Field} {b : State} {s1 a2}
    (m3 : .host ∈ fs) (m4 : .parts ∈ fs) (m5 : .rtes ∈ fs) (m6 : .fab ∈ fs) (m8 : .sec ∈ fs) (m9 : .pew ∈ fs)
    (m10 : .eng ∈ fs)
    (h1 : Within fs b s1) : Within fs b (destroyPart s1 a2) := by
  unfold destroyPart
  repeat' (first
    | with_reducible intro _ | with_reducible assumption | with_reducible apply abortCores_within
    | with_reducible apply abortCmds_within | with_reducible apply clearPlaces_within | with_reducible apply dropLayers_within
    | with_reducible apply freeCtrs_within | with_reducible apply flushComps_within | with_reducible apply flushRecords_within
    | with_reducible apply endEpoch_within | with_reducible apply sealAll_within | with_reducible apply dropSets_within
    | with_reducible apply deleteQueues_within | with_reducible apply modEng_within | with_reducible apply modRtes_within
    | with_reducible apply modParts_within | split | dsimp only)

theorem execPartDestroy_keeps {fs : List Field} {b : State} {a1 s2}
    (m3 : .host ∈ fs) (m4 : .parts ∈ fs) (m5 : .rtes ∈ fs) (m6 : .fab ∈ fs) (m8 : .sec ∈ fs) (m9 : .pew ∈ fs)
    (m10 : .eng ∈ fs)
    (h2 : Within fs b s2) : Keeps fs b (execPartDestroy a1 s2) := by
  unfold execPartDestroy
  repeat' (first
    | with_reducible intro _ | with_reducible assumption | with_reducible apply next_keeps
    | with_reducible apply takeDesc_keeps | with_reducible apply doneDesc_within | with_reducible apply destroyPart_within
    | split | dsimp only)

theorem execCapSet_keeps {fs : List Field} {b : State} {a1 s2}
    (m3 : .host ∈ fs) (m4 : .parts ∈ fs) (m7 : .power ∈ fs) (m9 : .pew ∈ fs)
    (h2 : Within fs b s2) : Keeps fs b (execCapSet a1 s2) := by
  unfold execCapSet
  repeat' (first
    | with_reducible intro _ | with_reducible assumption | with_reducible apply next_keeps
    | with_reducible apply takeDesc_keeps | with_reducible apply doneDesc_within | with_reducible apply limitChanged_within
    | with_reducible apply modPow_within | split | dsimp only)

theorem cmdRead_within {fs : List Field} {b : State} {s1 a2 a3 a4 a5 a6 f7}
    (m3 : .host ∈ fs) (m6 : .fab ∈ fs) (m9 : .pew ∈ fs) (m11 : .mem ∈ fs)
    (h1 : Within fs b s1) (h7 : ∀ x0 x1, Within fs b x1 → Within fs b (f7 x0 x1)) : Within fs b (cmdRead s1 a2 a3 a4 a5 a6 f7) := by
  unfold cmdRead
  repeat' (first
    | with_reducible intro _ | with_reducible assumption | with_reducible apply h7 | with_reducible apply beginRead_within
    | with_reducible apply endCmdSt_within | split | dsimp only)

theorem execRequestOpen_keeps {fs : List Field} {b : State} {a1 s2}
    (m3 : .host ∈ fs) (m4 : .parts ∈ fs) (m5 : .rtes ∈ fs) (m6 : .fab ∈ fs) (m9 : .pew ∈ fs) (m11 : .mem ∈ fs)
    (h2 : Within fs b s2) : Keeps fs b (execRequestOpen a1 s2) := by
  unfold execRequestOpen
  repeat' (first
    | with_reducible intro _ | with_reducible assumption | with_reducible apply next_keeps
    | with_reducible apply takeDesc_keeps | with_reducible apply startCmd_within | with_reducible apply cmdRead_within
    | with_reducible apply modCmd_within | with_reducible apply settle_within | split | dsimp only)

theorem execRequestCancel_keeps {fs : List Field} {b : State} {a1 s2}
    (m3 : .host ∈ fs) (m5 : .rtes ∈ fs)
    (h2 : Within fs b s2) : Keeps fs b (execRequestCancel a1 s2) := by
  unfold execRequestCancel
  repeat' (first
    | with_reducible intro _ | with_reducible assumption | with_reducible apply next_keeps | with_reducible apply ite_keeps
    | with_reducible apply ite_within | with_reducible apply takeDesc_keeps | with_reducible apply dueComp_within
    | with_reducible apply modRte_within | split | dsimp only)

theorem execSteeringBind_keeps {fs : List Field} {b : State} {a1 s2}
    (m3 : .host ∈ fs) (m6 : .fab ∈ fs) (m9 : .pew ∈ fs) (m11 : .mem ∈ fs)
    (h2 : Within fs b s2) : Keeps fs b (execSteeringBind a1 s2) := by
  unfold execSteeringBind
  repeat' (first
    | with_reducible intro _ | with_reducible assumption | with_reducible apply next_keeps | with_reducible apply ite_keeps
    | with_reducible apply ite_within | with_reducible apply takeDesc_keeps | with_reducible apply begun_within
    | with_reducible apply cmdRead_within | with_reducible apply modCmd_within | split | dsimp only)

theorem endSelect_within {fs : List Field} {b : State} {s1 a2 a3}
    (m3 : .host ∈ fs) (m4 : .parts ∈ fs)
    (h1 : Within fs b s1) : Within fs b (endSelect s1 a2 a3) := by
  unfold endSelect
  repeat' (first
    | with_reducible intro _ | with_reducible assumption | with_reducible apply modPart_within
    | with_reducible apply endCmd_within | with_reducible apply writeReport_within | split | dsimp only)

theorem execModelSelect_keeps {fs : List Field} {b : State} {a1 s2}
    (m3 : .host ∈ fs) (m4 : .parts ∈ fs) (m10 : .eng ∈ fs)
    (h2 : Within fs b s2) : Keeps fs b (execModelSelect a1 s2) := by
  unfold execModelSelect
  repeat' (first
    | with_reducible intro _ | with_reducible assumption | with_reducible apply next_keeps | with_reducible apply ite_keeps
    | with_reducible apply ite_within | with_reducible apply takeDesc_keeps | with_reducible apply doneDesc_within
    | with_reducible apply deselect_within | with_reducible apply modPart_within | with_reducible apply begun_within
    | with_reducible apply endSelect_within | split | dsimp only)

theorem loadModel_within {fs : List Field} {b : State} {s1 a2 a3 a4}
    (m10 : .eng ∈ fs)
    (h1 : Within fs b s1) : Within fs b (loadModel s1 a2 a3 a4) := by
  unfold loadModel
  repeat' (first
    | with_reducible intro _ | with_reducible assumption | with_reducible apply ite_within | with_reducible apply foldl_within
    | with_reducible apply foldl_fst_within | with_reducible apply foldl_snd_within | with_reducible apply modCore_within
    | with_reducible apply modCob_within | with_reducible apply modEng_within | split | dsimp only)

theorem selectDone_within {fs : List Field} {b : State} {s1 a2 a3 a4}
    (m4 : .parts ∈ fs)
    (h1 : Within fs b s1) : Within fs b (selectDone s1 a2 a3 a4) := by
  unfold selectDone
  repeat' (first
    | with_reducible intro _ | with_reducible assumption | with_reducible apply modPart_within | split | dsimp only)

theorem execModelSelectComplete_keeps {fs : List Field} {b : State} {a1 s2}
    (m3 : .host ∈ fs) (m4 : .parts ∈ fs) (m10 : .eng ∈ fs)
    (h2 : Within fs b s2) : Keeps fs b (execModelSelectComplete a1 s2) := by
  unfold execModelSelectComplete
  repeat' (first
    | with_reducible intro _ | with_reducible assumption | with_reducible apply next_keeps | with_reducible apply ite_keeps
    | with_reducible apply onUnit_keeps | with_reducible apply ite_within | with_reducible apply endCmdSt_within
    | with_reducible apply selectDone_within | with_reducible apply loadModel_within | with_reducible apply newPlace_within
    | split | dsimp only)

theorem execModelChain_keeps {fs : List Field} {b : State} {a1 s2}
    (m2 : .freeCtr ∈ fs) (m3 : .host ∈ fs) (m4 : .parts ∈ fs) (m6 : .fab ∈ fs) (m9 : .pew ∈ fs) (m10 : .eng ∈ fs)
    (m11 : .mem ∈ fs)
    (h2 : Within fs b s2) : Keeps fs b (execModelChain a1 s2) := by
  unfold execModelChain
  repeat' (first
    | with_reducible intro _ | with_reducible assumption | with_reducible apply next_keeps
    | with_reducible apply takeDesc_keeps | with_reducible apply cmdRead_within | with_reducible apply begun_within
    | with_reducible apply joinChain_within | split | dsimp only)

theorem execModelEvict_keeps {fs : List Field} {b : State} {a1 s2}
    (m3 : .host ∈ fs) (m4 : .parts ∈ fs) (m10 : .eng ∈ fs)
    (h2 : Within fs b s2) : Keeps fs b (execModelEvict a1 s2) := by
  unfold execModelEvict
  repeat' (first
    | with_reducible intro _ | with_reducible assumption | with_reducible apply next_keeps | with_reducible apply ite_keeps
    | with_reducible apply ite_within | with_reducible apply takeDesc_keeps | with_reducible apply deselect_within
    | with_reducible apply doneDesc_within | with_reducible apply modPart_within | split | dsimp only)

theorem execImageRegister_keeps {fs : List Field} {b : State} {a1 s2}
    (m3 : .host ∈ fs) (m4 : .parts ∈ fs)
    (h2 : Within fs b s2) : Keeps fs b (execImageRegister a1 s2) := by
  unfold execImageRegister
  repeat' (first
    | with_reducible intro _ | with_reducible assumption | with_reducible apply next_keeps
    | with_reducible apply takeDesc_keeps | with_reducible apply modPart_within | with_reducible apply begun_within | split
    | dsimp only)

theorem startRun_within {fs : List Field} {b : State} {s1 a2}
    (m3 : .host ∈ fs) (m4 : .parts ∈ fs)
    (h1 : Within fs b s1) : Within fs b (startRun s1 a2) := by
  unfold startRun
  repeat' (first
    | with_reducible intro _ | with_reducible assumption | with_reducible apply ite_within
    | with_reducible apply endCmdSt_within | with_reducible apply modCmd_within | with_reducible apply modPart_within | split
    | dsimp only)

theorem execGraphRun_keeps {fs : List Field} {b : State} {a1 s2}
    (m3 : .host ∈ fs) (m4 : .parts ∈ fs)
    (h2 : Within fs b s2) : Keeps fs b (execGraphRun a1 s2) := by
  unfold execGraphRun
  repeat' (first
    | with_reducible intro _ | with_reducible assumption | with_reducible apply next_keeps | with_reducible apply ite_keeps
    | with_reducible apply ite_within | with_reducible apply takeDesc_keeps | with_reducible apply startCmd_within
    | with_reducible apply startRun_within | split | dsimp only)

theorem copyPut_within {fs : List Field} {b : State} {a1 a2 s3}
    (m3 : .host ∈ fs) (m6 : .fab ∈ fs) (m9 : .pew ∈ fs) (m11 : .mem ∈ fs)
    (h3 : Within fs b s3) : Within fs b (copyPut a1 a2 s3) := by
  unfold copyPut
  repeat' (first
    | with_reducible intro _ | with_reducible assumption | with_reducible apply ite_within
    | with_reducible apply modCmd_within | with_reducible apply memPut_within | with_reducible apply hostWrite_within
    | with_reducible apply peerWriteAll_within | with_reducible apply endCmdSt_within | split | dsimp only)

theorem execCopy_keeps {fs : List Field} {b : State} {a1 s2}
    (m3 : .host ∈ fs) (m6 : .fab ∈ fs) (m9 : .pew ∈ fs) (m11 : .mem ∈ fs)
    (h2 : Within fs b s2) : Keeps fs b (execCopy a1 s2) := by
  unfold execCopy
  repeat' (first
    | with_reducible intro _ | with_reducible assumption | with_reducible apply next_keeps | with_reducible apply ite_keeps
    | with_reducible apply ite_within | with_reducible apply takeDesc_keeps | with_reducible apply begun_within
    | with_reducible apply endCmdSt_within | with_reducible apply cmdRead_within | with_reducible apply copyPut_within | split
    | dsimp only)

theorem execCopyComplete_keeps {fs : List Field} {b : State} {a1 s2}
    (m3 : .host ∈ fs) (m4 : .parts ∈ fs)
    (h2 : Within fs b s2) : Keeps fs b (execCopyComplete a1 s2) := by
  unfold execCopyComplete
  repeat' (first
    | with_reducible intro _ | with_reducible assumption | with_reducible apply next_keeps | with_reducible apply ite_keeps
    | with_reducible apply ite_within | with_reducible apply endCmdSt_within | with_reducible apply divideEnergy_within
    | split | dsimp only)

theorem releaseFence_within {fs : List Field} {b : State} {s1 a2}
    (m3 : .host ∈ fs)
    (h1 : Within fs b s1) : Within fs b (releaseFence s1 a2) := by
  unfold releaseFence
  repeat' (first
    | with_reducible intro _ | with_reducible assumption | with_reducible apply ite_within
    | with_reducible apply endCmdSt_within | with_reducible apply flushReserved_within | split | dsimp only)

theorem execFence_keeps {fs : List Field} {b : State} {a1 s2}
    (m3 : .host ∈ fs)
    (h2 : Within fs b s2) : Keeps fs b (execFence a1 s2) := by
  unfold execFence
  repeat' (first
    | with_reducible intro _ | with_reducible assumption | with_reducible apply next_keeps
    | with_reducible apply takeDesc_keeps | with_reducible apply releaseFence_within | with_reducible apply begun_within
    | split | dsimp only)

theorem execFenceRelease_keeps {fs : List Field} {b : State} {a1 s2}
    (m3 : .host ∈ fs)
    (h2 : Within fs b s2) : Keeps fs b (execFenceRelease a1 s2) := by
  unfold execFenceRelease
  repeat' (first
    | with_reducible intro _ | with_reducible assumption | with_reducible apply next_keeps | with_reducible apply whenB_within
    | with_reducible apply releaseFence_within | split | dsimp only)

theorem execCounterOp_keeps {fs : List Field} {b : State} {a1 s2}
    (m3 : .host ∈ fs)
    (h2 : Within fs b s2) : Keeps fs b (execCounterOp a1 s2) := by
  unfold execCounterOp
  repeat' (first
    | with_reducible intro _ | with_reducible assumption | with_reducible apply next_keeps | with_reducible apply ite_keeps
    | with_reducible apply ite_within | with_reducible apply takeDesc_keeps | with_reducible apply dueComp_within
    | with_reducible apply hostWrite_within | split | dsimp only)

theorem adminRings_within {fs : List Field} {b : State} {s1 a2}
    (m3 : .host ∈ fs)
    (h1 : Within fs b s1) : Within fs b (adminRings s1 a2) := by
  unfold adminRings
  repeat' (first
    | with_reducible intro _ | with_reducible assumption | with_reducible refine modHost_within _ ?_ ?_ | split | dsimp only)

theorem reopenHost_within {fs : List Field} {b : State} {s1 a2}
    (m4 : .parts ∈ fs)
    (h1 : Within fs b s1) : Within fs b (reopenHost s1 a2) := by
  unfold reopenHost
  repeat' (first
    | with_reducible intro _ | with_reducible assumption | with_reducible apply ite_within
    | with_reducible apply modPart_within | split | dsimp only)

theorem execAqenWrite_keeps {fs : List Field} {b : State} {a1 a2 s3}
    (m3 : .host ∈ fs) (m4 : .parts ∈ fs)
    (h3 : Within fs b s3) : Keeps fs b (execAqenWrite a1 a2 s3) := by
  unfold execAqenWrite
  repeat' (first
    | with_reducible intro _ | with_reducible assumption | with_reducible apply next_keeps | with_reducible apply ite_keeps
    | with_reducible apply onUnit_keeps | with_reducible apply whenB_within | with_reducible apply ite_within
    | with_reducible apply modFn_within | with_reducible apply setErr_within | with_reducible apply reopenHost_within
    | with_reducible apply adminRings_within | split | dsimp only)

theorem execSetupLock_keeps {fs : List Field} {b : State} {a1 s2}
    (m3 : .host ∈ fs) (m8 : .sec ∈ fs)
    (h2 : Within fs b s2) : Keeps fs b (execSetupLock a1 s2) := by
  unfold execSetupLock
  repeat' (first
    | with_reducible intro _ | with_reducible assumption | with_reducible apply next_keeps | with_reducible apply onUnit_keeps
    | with_reducible apply whenB_within | with_reducible apply modSec_within | with_reducible refine modHost_within _ ?_ ?_
    | split | dsimp only)

theorem pollSet_within {fs : List Field} {b : State} {s1 a2 a3}
    (m3 : .host ∈ fs)
    (h1 : Within fs b s1) : Within fs b (pollSet s1 a2 a3) := by
  unfold pollSet
  repeat' (first
    | with_reducible intro _ | with_reducible assumption | with_reducible apply ite_within
    | with_reducible refine modHost_within _ ?_ ?_ | split | dsimp only)

theorem execPollWrite_keeps {fs : List Field} {b : State} {a1 a2 s3}
    (m3 : .host ∈ fs)
    (h3 : Within fs b s3) : Keeps fs b (execPollWrite a1 a2 s3) := by
  unfold execPollWrite
  repeat' (first
    | with_reducible intro _ | with_reducible assumption | with_reducible apply next_keeps | with_reducible apply onUnit_keeps
    | with_reducible apply whenB_within | with_reducible apply pollSet_within | split | dsimp only)

theorem execMbpop_keeps {fs : List Field} {b : State} {a1 a2 s3}
    (m3 : .host ∈ fs)
    (h3 : Within fs b s3) : Keeps fs b (execMbpop a1 a2 s3) := by
  unfold execMbpop
  repeat' (first
    | with_reducible intro _ | with_reducible assumption | with_reducible apply next_keeps | with_reducible apply onUnit_keeps
    | with_reducible apply whenB_within | with_reducible apply mbTake_within | split | dsimp only)

theorem mbPut_within {fs : List Field} {b : State} {s1 a2 a3 a4 a5}
    (m3 : .host ∈ fs)
    (h1 : Within fs b s1) : Within fs b (mbPut s1 a2 a3 a4 a5) := by
  unfold mbPut
  repeat' (first
    | with_reducible intro _ | with_reducible assumption | with_reducible refine modHost_within _ ?_ ?_ | split | dsimp only)

theorem execTxsend_keeps {fs : List Field} {b : State} {a1 a2 a3 s4}
    (m3 : .host ∈ fs) (m10 : .eng ∈ fs)
    (h4 : Within fs b s4) : Keeps fs b (execTxsend a1 a2 a3 s4) := by
  unfold execTxsend
  repeat' (first
    | with_reducible intro _ | with_reducible assumption | with_reducible apply next_keeps | with_reducible apply ite_keeps
    | with_reducible apply onUnit_keeps | with_reducible apply whenB_within | with_reducible apply ite_within
    | with_reducible apply setErrCh_within | with_reducible apply mbPut_within | with_reducible apply mbHost_within
    | with_reducible apply tinSend_within | split | dsimp only)

theorem execMbox_keeps {fs : List Field} {b : State} {a1 a2 a3 s4}
    (m3 : .host ∈ fs) (m9 : .pew ∈ fs) (m10 : .eng ∈ fs)
    (h4 : Within fs b s4) : Keeps fs b (execMbox a1 a2 a3 s4) := by
  unfold execMbox
  repeat' (first
    | with_reducible intro _ | with_reducible assumption | with_reducible apply next_keeps | with_reducible apply ite_keeps
    | with_reducible apply onUnit_keeps | with_reducible apply ite_within | with_reducible apply deliverCob_within
    | with_reducible refine modHost_within _ ?_ ?_ | with_reducible apply rxArrive_within | with_reducible apply tinBad_within
    | with_reducible apply tinDrop_within | with_reducible apply mbHost_within | with_reducible apply mbInner_within | split
    | dsimp only)

theorem writeAdmin_within {fs : List Field} {b : State} {s1 a2 a3}
    (m3 : .host ∈ fs)
    (h1 : Within fs b s1) : Within fs b (writeAdmin s1 a2 a3) := by
  unfold writeAdmin
  repeat' (first
    | with_reducible intro _ | with_reducible assumption | with_reducible apply ite_within | with_reducible apply modFn_within
    | split | dsimp only)

theorem bar0Write_within {fs : List Field} {b : State} {s1 a2 a3 a4}
    (m3 : .host ∈ fs)
    (h1 : Within fs b s1) : Within fs b (bar0Write s1 a2 a3 a4) := by
  unfold bar0Write
  repeat' (first
    | with_reducible intro _ | with_reducible assumption | with_reducible apply ite_within
    | with_reducible apply writeAdmin_within | with_reducible apply pollSet_within | with_reducible apply modFn_within | split
    | dsimp only)

theorem bar2Write_within {fs : List Field} {b : State} {s1 a2 a3 a4}
    (m3 : .host ∈ fs)
    (h1 : Within fs b s1) : Within fs b (bar2Write s1 a2 a3 a4) := by
  unfold bar2Write
  repeat' (first
    | with_reducible intro _ | with_reducible assumption | with_reducible apply ite_within
    | with_reducible apply setErrCh_within | with_reducible apply mbPut_within | split | dsimp only)

theorem cobWrite_within {fs : List Field} {b : State} {s1 a2 a3 a4}
    (m10 : .eng ∈ fs)
    (h1 : Within fs b s1) : Within fs b (cobWrite s1 a2 a3 a4) := by
  unfold cobWrite
  repeat' (first
    | with_reducible intro _ | with_reducible assumption | with_reducible apply ite_within
    | with_reducible apply modCob_within | split | dsimp only)

theorem confWrite_within {fs : List Field} {b : State} {s1 a2 a3}
    (m3 : .host ∈ fs)
    (h1 : Within fs b s1) : Within fs b (confWrite s1 a2 a3) := by
  unfold confWrite
  repeat' (first
    | with_reducible intro _ | with_reducible assumption | with_reducible apply ite_within
    | with_reducible refine modHost_within _ ?_ ?_ | split | dsimp only)

theorem execRegisterWrite_keeps {fs : List Field} {b : State} {a1 a2 a3 a4 s5}
    (m3 : .host ∈ fs) (m10 : .eng ∈ fs)
    (h5 : Within fs b s5) : Keeps fs b (execRegisterWrite a1 a2 a3 a4 s5) := by
  unfold execRegisterWrite
  repeat' (first
    | with_reducible intro _ | with_reducible assumption | with_reducible apply next_keeps | with_reducible apply ite_keeps
    | with_reducible apply onUnit_keeps | with_reducible apply whenB_within | with_reducible apply ite_within
    | with_reducible apply bar0Write_within | with_reducible apply bar2Write_within | with_reducible apply confWrite_within
    | with_reducible apply cobWrite_within | with_reducible apply modCob_within | split | dsimp only)

theorem execMsixVectorUnmask_keeps {fs : List Field} {b : State} {a1 a2 s3}
    (m3 : .host ∈ fs)
    (h3 : Within fs b s3) : Keeps fs b (execMsixVectorUnmask a1 a2 s3) := by
  unfold execMsixVectorUnmask
  repeat' (first
    | with_reducible intro _ | with_reducible assumption | with_reducible apply next_keeps | with_reducible apply ite_keeps
    | with_reducible apply onUnit_keeps | with_reducible apply whenB_within | with_reducible apply ite_within
    | with_reducible apply modFn_within | with_reducible apply sendVec_within | split | dsimp only)

theorem execImodTimerExpiry_keeps {fs : List Field} {b : State} {a1 a2 s3}
    (m3 : .host ∈ fs)
    (h3 : Within fs b s3) : Keeps fs b (execImodTimerExpiry a1 a2 s3) := by
  unfold execImodTimerExpiry
  repeat' (first
    | with_reducible intro _ | with_reducible assumption | with_reducible apply next_keeps | with_reducible apply onUnit_keeps
    | with_reducible apply whenB_within | with_reducible apply sendVec_within | with_reducible apply modRing_within | split
    | dsimp only)

theorem stopHostReads_within {fs : List Field} {b : State} {s1 a2}
    (m10 : .eng ∈ fs)
    (h1 : Within fs b s1) : Within fs b (stopHostReads s1 a2) := by
  unfold stopHostReads
  repeat' (first
    | with_reducible intro _ | with_reducible assumption | with_reducible apply foldl_within
    | with_reducible apply foldl_fst_within | with_reducible apply foldl_snd_within | with_reducible apply seStop_within
    | split | dsimp only)

theorem freeAll_within {fs : List Field} {b : State} {s1 a2}
    (m4 : .parts ∈ fs) (m5 : .rtes ∈ fs)
    (h1 : Within fs b s1) : Within fs b (freeAll s1 a2) := by
  unfold freeAll
  repeat' (first
    | with_reducible intro _ | with_reducible assumption | with_reducible apply modPart_within
    | with_reducible apply modRtes_within | split | dsimp only)

theorem abortReqs_within {fs : List Field} {b : State} {s1 a2}
    (m4 : .parts ∈ fs) (m5 : .rtes ∈ fs) (m10 : .eng ∈ fs)
    (h1 : Within fs b s1) : Within fs b (abortReqs s1 a2) := by
  unfold abortReqs
  repeat' (first
    | with_reducible intro _ | with_reducible assumption | with_reducible apply ite_within | with_reducible apply foldl_within
    | with_reducible apply foldl_fst_within | with_reducible apply foldl_snd_within | with_reducible apply freeAll_within
    | with_reducible apply tearDown_within | with_reducible apply modPart_within | with_reducible apply modRte_within | split
    | dsimp only)

theorem killCmds_within {fs : List Field} {b : State} {s1 a2}
    (m3 : .host ∈ fs) (m4 : .parts ∈ fs) (m6 : .fab ∈ fs) (m9 : .pew ∈ fs) (m10 : .eng ∈ fs)
    (h1 : Within fs b s1) : Within fs b (killCmds s1 a2) := by
  unfold killCmds
  repeat' (first
    | with_reducible intro _ | with_reducible assumption | with_reducible apply ite_within | with_reducible apply foldl_within
    | with_reducible apply foldl_fst_within | with_reducible apply foldl_snd_within | with_reducible apply dropChain_within
    | with_reducible apply tearDown_within | with_reducible apply modPart_within | split | dsimp only)

theorem resetRegs_within {fs : List Field} {b : State} {s1 a2}
    (m3 : .host ∈ fs)
    (h1 : Within fs b s1) : Within fs b (resetRegs s1 a2) := by
  unfold resetRegs
  repeat' (first
    | with_reducible intro _ | with_reducible assumption | with_reducible apply modFn_within
    | with_reducible refine modHost_within _ ?_ ?_ | split | dsimp only)

theorem resetVf_within {fs : List Field} {b : State} {s1 a2}
    (m3 : .host ∈ fs) (m4 : .parts ∈ fs) (m5 : .rtes ∈ fs) (m6 : .fab ∈ fs) (m9 : .pew ∈ fs) (m10 : .eng ∈ fs)
    (h1 : Within fs b s1) : Within fs b (resetVf s1 a2) := by
  unfold resetVf
  repeat' (first
    | with_reducible intro _ | with_reducible assumption | with_reducible apply stopHostReads_within
    | with_reducible apply abortReqs_within | with_reducible apply resetRegs_within | with_reducible apply dropSets_within
    | with_reducible apply deleteQueues_within | with_reducible apply killCmds_within | split | dsimp only)

theorem execVfFlr_keeps {fs : List Field} {b : State} {a1 s2}
    (m3 : .host ∈ fs) (m4 : .parts ∈ fs) (m5 : .rtes ∈ fs) (m6 : .fab ∈ fs) (m9 : .pew ∈ fs) (m10 : .eng ∈ fs)
    (h2 : Within fs b s2) : Keeps fs b (execVfFlr a1 s2) := by
  unfold execVfFlr
  repeat' (first
    | with_reducible intro _ | with_reducible assumption | with_reducible apply next_keeps | with_reducible apply onUnit_keeps
    | with_reducible apply whenB_within | with_reducible apply resetVf_within | split | dsimp only)

theorem vfsOff_within {fs : List Field} {b : State} {s1}
    (m3 : .host ∈ fs) (m4 : .parts ∈ fs) (m5 : .rtes ∈ fs) (m6 : .fab ∈ fs) (m9 : .pew ∈ fs) (m10 : .eng ∈ fs)
    (h1 : Within fs b s1) : Within fs b (vfsOff s1) := by
  unfold vfsOff
  repeat' (first
    | with_reducible intro _ | with_reducible assumption | with_reducible apply foldl_within
    | with_reducible apply foldl_fst_within | with_reducible apply foldl_snd_within | with_reducible apply modFn_within
    | with_reducible apply resetVf_within | split | dsimp only)

theorem execVfEnableClear_keeps {fs : List Field} {b : State} {s1}
    (m3 : .host ∈ fs) (m4 : .parts ∈ fs) (m5 : .rtes ∈ fs) (m6 : .fab ∈ fs) (m9 : .pew ∈ fs) (m10 : .eng ∈ fs)
    (h1 : Within fs b s1) : Keeps fs b (execVfEnableClear s1) := by
  unfold execVfEnableClear
  repeat' (first
    | with_reducible intro _ | with_reducible assumption | with_reducible apply next_keeps | with_reducible apply whenB_within
    | with_reducible apply vfsOff_within | split | dsimp only)

theorem execVfEnableSet_keeps {fs : List Field} {b : State} {s1}
    (m3 : .host ∈ fs)
    (h1 : Within fs b s1) : Keeps fs b (execVfEnableSet s1) := by
  unfold execVfEnableSet
  repeat' (first
    | with_reducible intro _ | with_reducible assumption | with_reducible apply next_keeps | with_reducible apply ite_keeps
    | with_reducible apply whenB_within | with_reducible apply ite_within | with_reducible apply foldl_within
    | with_reducible apply foldl_fst_within | with_reducible apply foldl_snd_within | with_reducible apply modFn_within
    | split | dsimp only)

theorem execPfFlr_keeps {fs : List Field} {b : State} {s1}
    (m3 : .host ∈ fs) (m4 : .parts ∈ fs) (m5 : .rtes ∈ fs) (m6 : .fab ∈ fs) (m9 : .pew ∈ fs) (m10 : .eng ∈ fs)
    (h1 : Within fs b s1) : Keeps fs b (execPfFlr s1) := by
  unfold execPfFlr
  repeat' (first
    | with_reducible intro _ | with_reducible assumption | with_reducible apply next_keeps | with_reducible apply whenB_within
    | with_reducible apply resetRegs_within | with_reducible apply dropSets_within | with_reducible apply deleteQueues_within
    | with_reducible apply vfsOff_within | with_reducible refine modHost_within _ ?_ ?_ | split | dsimp only)

theorem deliverParam_within {fs : List Field} {b : State} {s1 a2 a3}
    (m2 : .freeCtr ∈ fs) (m3 : .host ∈ fs) (m4 : .parts ∈ fs) (m6 : .fab ∈ fs) (m9 : .pew ∈ fs) (m10 : .eng ∈ fs)
    (m11 : .mem ∈ fs)
    (h1 : Within fs b s1) : Within fs b (deliverParam s1 a2 a3) := by
  unfold deliverParam
  repeat' (first
    | with_reducible intro _ | with_reducible assumption | with_reducible apply ite_within
    | with_reducible apply createPart_within | with_reducible apply joinChain_within | split | dsimp only)

theorem deliverRow_within {fs : List Field} {b : State} {s1 a2 a3 a4 a5}
    (m10 : .eng ∈ fs)
    (h1 : Within fs b s1) : Within fs b (deliverRow s1 a2 a3 a4 a5) := by
  unfold deliverRow
  repeat' (first
    | with_reducible intro _ | with_reducible assumption | with_reducible apply ite_within
    | with_reducible apply modXfer_within | with_reducible apply seMoved_within | split | dsimp only)

theorem deliverBuf_within {fs : List Field} {b : State} {s1 a2 a3}
    (m3 : .host ∈ fs) (m4 : .parts ∈ fs) (m5 : .rtes ∈ fs)
    (h1 : Within fs b s1) : Within fs b (deliverBuf s1 a2 a3) := by
  unfold deliverBuf
  repeat' (first
    | with_reducible intro _ | with_reducible assumption | with_reducible apply settle_within
    | with_reducible apply modCmd_within | split | dsimp only)

theorem deliver_within {fs : List Field} {b : State} {s1 a2 a3}
    (m2 : .freeCtr ∈ fs) (m3 : .host ∈ fs) (m4 : .parts ∈ fs) (m5 : .rtes ∈ fs) (m6 : .fab ∈ fs) (m8 : .sec ∈ fs)
    (m9 : .pew ∈ fs) (m10 : .eng ∈ fs) (m11 : .mem ∈ fs)
    (h1 : Within fs b s1) : Within fs b (deliver s1 a2 a3) := by
  unfold deliver
  repeat' (first
    | with_reducible intro _ | with_reducible assumption | with_reducible apply deliverParam_within
    | with_reducible apply deliverBuf_within | with_reducible apply modCmd_within | with_reducible apply copyPut_within
    | with_reducible apply promptDone_within | with_reducible apply sourceRead_within | with_reducible apply modSec_within
    | with_reducible apply deliverRow_within | with_reducible apply modPart_within | split | dsimp only)

theorem failFetch_within {fs : List Field} {b : State} {s1 a2 a3 a4 a5}
    (m3 : .host ∈ fs)
    (h1 : Within fs b s1) : Within fs b (failFetch s1 a2 a3 a4 a5) := by
  unfold failFetch
  repeat' (first
    | with_reducible intro _ | with_reducible assumption | with_reducible apply stopRing_within | split | dsimp only)

theorem failBuf_within {fs : List Field} {b : State} {s1 a2 a3}
    (m3 : .host ∈ fs) (m4 : .parts ∈ fs) (m5 : .rtes ∈ fs)
    (h1 : Within fs b s1) : Within fs b (failBuf s1 a2 a3) := by
  unfold failBuf
  repeat' (first
    | with_reducible intro _ | with_reducible assumption | with_reducible apply settle_within
    | with_reducible apply endCmdSt_within | split | dsimp only)

theorem failUse_within {fs : List Field} {b : State} {s1 a2 a3 a4 a5}
    (m2 : .freeCtr ∈ fs) (m3 : .host ∈ fs) (m4 : .parts ∈ fs) (m5 : .rtes ∈ fs) (m6 : .fab ∈ fs) (m8 : .sec ∈ fs)
    (m9 : .pew ∈ fs) (m10 : .eng ∈ fs)
    (h1 : Within fs b s1) : Within fs b (failUse s1 a2 a3 a4 a5) := by
  unfold failUse
  repeat' (first
    | with_reducible intro _ | with_reducible assumption | with_reducible apply ite_within
    | with_reducible apply passEnd_within | with_reducible apply setErr_within | with_reducible apply failFetch_within
    | with_reducible apply endCmdSt_within | with_reducible apply failBuf_within | with_reducible apply failReq_within
    | with_reducible apply statusChain_within | with_reducible apply bootState_within | with_reducible apply modXfer_within
    | with_reducible apply tier2Fail_within | with_reducible apply failRun_within | split | dsimp only)

theorem readFail_within {fs : List Field} {b : State} {s1 a2 a3}
    (m2 : .freeCtr ∈ fs) (m3 : .host ∈ fs) (m4 : .parts ∈ fs) (m5 : .rtes ∈ fs) (m6 : .fab ∈ fs) (m8 : .sec ∈ fs)
    (m9 : .pew ∈ fs) (m10 : .eng ∈ fs)
    (h1 : Within fs b s1) : Within fs b (readFail s1 a2 a3) := by
  unfold readFail
  repeat' (first
    | with_reducible intro _ | with_reducible assumption | with_reducible apply ite_within
    | with_reducible apply dropRead_within | with_reducible apply failUse_within | split | dsimp only)

theorem readMore_within {fs : List Field} {b : State} {s1 a2 a3}
    (m2 : .freeCtr ∈ fs) (m3 : .host ∈ fs) (m4 : .parts ∈ fs) (m5 : .rtes ∈ fs) (m6 : .fab ∈ fs) (m8 : .sec ∈ fs)
    (m9 : .pew ∈ fs) (m10 : .eng ∈ fs) (m11 : .mem ∈ fs)
    (h1 : Within fs b s1) : Within fs b (readMore s1 a2 a3).1 := by
  unfold readMore
  repeat' (first
    | with_reducible intro _ | with_reducible assumption | with_reducible apply ite_within
    | with_reducible apply dropRead_within | with_reducible apply deliver_within | with_reducible apply issuePiece_within
    | split | dsimp only)

theorem execHostReadCompletion_keeps {fs : List Field} {b : State} {a1 a2 s3}
    (m2 : .freeCtr ∈ fs) (m3 : .host ∈ fs) (m4 : .parts ∈ fs) (m5 : .rtes ∈ fs) (m6 : .fab ∈ fs) (m8 : .sec ∈ fs)
    (m9 : .pew ∈ fs) (m10 : .eng ∈ fs) (m11 : .mem ∈ fs)
    (h3 : Within fs b s3) : Keeps fs b (execHostReadCompletion a1 a2 s3) := by
  unfold execHostReadCompletion
  repeat' (first
    | with_reducible intro _ | with_reducible assumption | with_reducible apply next_keeps | with_reducible apply ite_keeps
    | with_reducible apply ite_within | with_reducible apply readMore_within | split | dsimp only)

theorem execHostlimExpiry_keeps {fs : List Field} {b : State} {a1 s2}
    (m2 : .freeCtr ∈ fs) (m3 : .host ∈ fs) (m4 : .parts ∈ fs) (m5 : .rtes ∈ fs) (m6 : .fab ∈ fs) (m8 : .sec ∈ fs)
    (m9 : .pew ∈ fs) (m10 : .eng ∈ fs)
    (h2 : Within fs b s2) : Keeps fs b (execHostlimExpiry a1 s2) := by
  unfold execHostlimExpiry
  repeat' (first
    | with_reducible intro _ | with_reducible assumption | with_reducible apply next_keeps | with_reducible apply whenB_within
    | with_reducible apply readFail_within | split | dsimp only)

theorem execPcieCompletionTimeout_keeps {fs : List Field} {b : State} {a1 s2}
    (m2 : .freeCtr ∈ fs) (m3 : .host ∈ fs) (m4 : .parts ∈ fs) (m5 : .rtes ∈ fs) (m6 : .fab ∈ fs) (m8 : .sec ∈ fs)
    (m9 : .pew ∈ fs) (m10 : .eng ∈ fs)
    (h2 : Within fs b s2) : Keeps fs b (execPcieCompletionTimeout a1 s2) := by
  unfold execPcieCompletionTimeout
  repeat' (first
    | with_reducible intro _ | with_reducible assumption | with_reducible apply next_keeps | with_reducible apply ite_keeps
    | with_reducible apply ite_within | with_reducible apply readFail_within | with_reducible refine modHost_within _ ?_ ?_
    | split | dsimp only)

theorem execHostErrorCompletion_keeps {fs : List Field} {b : State} {a1 s2}
    (m2 : .freeCtr ∈ fs) (m3 : .host ∈ fs) (m4 : .parts ∈ fs) (m5 : .rtes ∈ fs) (m6 : .fab ∈ fs) (m8 : .sec ∈ fs)
    (m9 : .pew ∈ fs) (m10 : .eng ∈ fs)
    (h2 : Within fs b s2) : Keeps fs b (execHostErrorCompletion a1 s2) := by
  unfold execHostErrorCompletion
  repeat' (first
    | with_reducible intro _ | with_reducible assumption | with_reducible apply next_keeps
    | with_reducible apply readFail_within | split | dsimp only)

theorem execLinkLeavesDlActive_keeps {fs : List Field} {b : State} {s1}
    (m2 : .freeCtr ∈ fs) (m3 : .host ∈ fs) (m4 : .parts ∈ fs) (m5 : .rtes ∈ fs) (m6 : .fab ∈ fs) (m8 : .sec ∈ fs)
    (m9 : .pew ∈ fs) (m10 : .eng ∈ fs)
    (h1 : Within fs b s1) : Keeps fs b (execLinkLeavesDlActive s1) := by
  unfold execLinkLeavesDlActive
  repeat' (first
    | with_reducible intro _ | with_reducible assumption | with_reducible apply next_keeps | with_reducible apply ite_keeps
    | with_reducible apply whenB_within | with_reducible apply ite_within | with_reducible apply foldl_within
    | with_reducible apply foldl_fst_within | with_reducible apply foldl_snd_within | with_reducible apply readFail_within
    | with_reducible refine modHost_within _ ?_ ?_ | split | dsimp only)

theorem execHostLinkDlActive_keeps {fs : List Field} {b : State} {s1}
    (m3 : .host ∈ fs)
    (h1 : Within fs b s1) : Keeps fs b (execHostLinkDlActive s1) := by
  unfold execHostLinkDlActive
  repeat' (first
    | with_reducible intro _ | with_reducible assumption | with_reducible apply next_keeps | with_reducible apply ite_keeps
    | with_reducible apply whenB_within | with_reducible apply ite_within | with_reducible refine modHost_within _ ?_ ?_
    | split | dsimp only)

end Sys2Proof.Machine
end

