-- ==== Sys2Proof/Laws/FramesLinks.lean ====
section
/-! SUPPORT. What each operation of Machine/(Links, Slack, Loader, Memory, Peers, Recovery).lean may touch: one lemma for each. -/

set_option Elab.async false
set_option linter.unusedTactic false
set_option linter.unreachableTactic false

namespace Sys2Proof.Machine

theorem failChainWrite_within {fs : List Field} {b : State} {s1 a2 a3 a4 a5}
    (m2 : .freeCtr ∈ fs) (m3 : .host ∈ fs) (m4 : .parts ∈ fs) (m6 : .fab ∈ fs) (m9 : .pew ∈ fs)
    (h1 : Within fs b s1) : Within fs b (failChainWrite s1 a2 a3 a4 a5) := by
  unfold failChainWrite
  repeat' (first
    | with_reducible intro _ | with_reducible assumption | with_reducible apply ite_within
    | with_reducible apply failChain_within | with_reducible apply statusChain_within | split | dsimp only)

theorem writeFail_within {fs : List Field} {b : State} {s1 a2 a3}
    (m2 : .freeCtr ∈ fs) (m3 : .host ∈ fs) (m4 : .parts ∈ fs) (m5 : .rtes ∈ fs) (m6 : .fab ∈ fs) (m9 : .pew ∈ fs)
    (m10 : .eng ∈ fs) (m11 : .mem ∈ fs)
    (h1 : Within fs b s1) : Within fs b (writeFail s1 a2 a3) := by
  unfold writeFail
  repeat' (first
    | with_reducible intro _ | with_reducible assumption | with_reducible apply ite_within
    | with_reducible apply loseJob_within | with_reducible apply modPart_within | with_reducible apply failChainWrite_within
    | with_reducible apply endCmdSt_within | with_reducible apply failCtxAt_within | split | dsimp only)

theorem writeOk_within {fs : List Field} {b : State} {s1 a2}
    (m3 : .host ∈ fs) (m4 : .parts ∈ fs) (m5 : .rtes ∈ fs) (m6 : .fab ∈ fs) (m9 : .pew ∈ fs) (m10 : .eng ∈ fs)
    (m11 : .mem ∈ fs)
    (h1 : Within fs b s1) : Within fs b (writeOk s1 a2) := by
  unfold writeOk
  repeat' (first
    | with_reducible intro _ | with_reducible assumption | with_reducible apply ite_within
    | with_reducible apply modHalf_within | with_reducible apply sendJobHead_within | with_reducible apply endJob_within
    | with_reducible apply modJob_within | with_reducible apply chainWacked_within | split | dsimp only)

theorem failAccess_within {fs : List Field} {b : State} {s1 a2 a3 a4}
    (m2 : .freeCtr ∈ fs) (m3 : .host ∈ fs) (m4 : .parts ∈ fs) (m5 : .rtes ∈ fs) (m6 : .fab ∈ fs) (m8 : .sec ∈ fs)
    (m9 : .pew ∈ fs) (m10 : .eng ∈ fs) (m11 : .mem ∈ fs)
    (h1 : Within fs b s1) : Within fs b (failAccess s1 a2 a3 a4) := by
  unfold failAccess
  repeat' (first
    | with_reducible intro _ | with_reducible assumption | with_reducible apply ite_within
    | with_reducible apply endAccess_within | with_reducible apply readFail_within | with_reducible apply writeFail_within
    | split | dsimp only)

theorem loseJobs_within {fs : List Field} {b : State} {s1 a2}
    (m3 : .host ∈ fs) (m4 : .parts ∈ fs) (m5 : .rtes ∈ fs) (m10 : .eng ∈ fs) (m11 : .mem ∈ fs)
    (h1 : Within fs b s1) : Within fs b (loseJobs s1 a2) := by
  unfold loseJobs
  repeat' (first
    | with_reducible intro _ | with_reducible assumption | with_reducible apply ite_within | with_reducible apply foldl_within
    | with_reducible apply foldl_fst_within | with_reducible apply foldl_snd_within | with_reducible apply loseJob_within
    | with_reducible apply modPart_within | split | dsimp only)

theorem pathLost_within {fs : List Field} {b : State} {s1 a2}
    (m2 : .freeCtr ∈ fs) (m3 : .host ∈ fs) (m4 : .parts ∈ fs) (m5 : .rtes ∈ fs) (m6 : .fab ∈ fs) (m8 : .sec ∈ fs)
    (m9 : .pew ∈ fs) (m10 : .eng ∈ fs) (m11 : .mem ∈ fs)
    (h1 : Within fs b s1) : Within fs b (pathLost s1 a2) := by
  unfold pathLost
  repeat' (first
    | with_reducible intro _ | with_reducible assumption | with_reducible apply foldl_within
    | with_reducible apply foldl_fst_within | with_reducible apply foldl_snd_within | with_reducible apply loseJobs_within
    | with_reducible apply failAccess_within | split | dsimp only)

theorem portGone_within {fs : List Field} {b : State} {s1 a2 a3}
    (m2 : .freeCtr ∈ fs) (m3 : .host ∈ fs) (m4 : .parts ∈ fs) (m5 : .rtes ∈ fs) (m6 : .fab ∈ fs) (m8 : .sec ∈ fs)
    (m9 : .pew ∈ fs) (m10 : .eng ∈ fs) (m11 : .mem ∈ fs)
    (h1 : Within fs b s1) : Within fs b (portGone s1 a2 a3) := by
  unfold portGone
  repeat' (first
    | with_reducible intro _ | with_reducible assumption | with_reducible apply pathLost_within
    | with_reducible apply modPort_within | with_reducible apply portTo_within | split | dsimp only)

theorem quarantine_within {fs : List Field} {b : State} {s1 a2 a3}
    (m2 : .freeCtr ∈ fs) (m3 : .host ∈ fs) (m4 : .parts ∈ fs) (m5 : .rtes ∈ fs) (m6 : .fab ∈ fs) (m8 : .sec ∈ fs)
    (m9 : .pew ∈ fs) (m10 : .eng ∈ fs) (m11 : .mem ∈ fs)
    (h1 : Within fs b s1) : Within fs b (quarantine s1 a2 a3) := by
  unfold quarantine
  repeat' (first
    | with_reducible intro _ | with_reducible assumption | with_reducible apply modPort_within
    | with_reducible apply portTo_within | with_reducible apply pathLost_within | with_reducible apply pewReport_within
    | split | dsimp only)

theorem enterRetrain_within {fs : List Field} {b : State} {s1 a2}
    (m2 : .freeCtr ∈ fs) (m3 : .host ∈ fs) (m4 : .parts ∈ fs) (m5 : .rtes ∈ fs) (m6 : .fab ∈ fs) (m8 : .sec ∈ fs)
    (m9 : .pew ∈ fs) (m10 : .eng ∈ fs) (m11 : .mem ∈ fs)
    (h1 : Within fs b s1) : Within fs b (enterRetrain s1 a2) := by
  unfold enterRetrain
  repeat' (first
    | with_reducible intro _ | with_reducible assumption | with_reducible apply ite_within
    | with_reducible apply portGone_within | with_reducible apply portCount_within | with_reducible apply modPort_within
    | with_reducible apply portTo_within | split | dsimp only)

theorem portRow_keeps {fs : List Field} {b : State} {a1 s2 s3}
    (h2 : Within fs b s2) (h3 : Within fs b s3) : Keeps fs b (portRow a1 s2 s3) := by
  unfold portRow
  repeat' (first
    | with_reducible intro _ | with_reducible assumption | with_reducible apply next_keeps | with_reducible apply onUnit_keeps
    | with_reducible apply whenB_within | split | dsimp only)

theorem execLaneLockLoss_keeps {fs : List Field} {b : State} {a1 s2}
    (m2 : .freeCtr ∈ fs) (m3 : .host ∈ fs) (m4 : .parts ∈ fs) (m5 : .rtes ∈ fs) (m6 : .fab ∈ fs) (m8 : .sec ∈ fs)
    (m9 : .pew ∈ fs) (m10 : .eng ∈ fs) (m11 : .mem ∈ fs)
    (h2 : Within fs b s2) : Keeps fs b (execLaneLockLoss a1 s2) := by
  unfold execLaneLockLoss
  repeat' (first
    | with_reducible intro _ | with_reducible assumption | with_reducible apply next_keeps
    | with_reducible apply portRow_keeps | with_reducible apply enterRetrain_within | with_reducible apply portTo_within
    | split | dsimp only)

theorem execAckStallTimeout_keeps {fs : List Field} {b : State} {a1 s2}
    (m2 : .freeCtr ∈ fs) (m3 : .host ∈ fs) (m4 : .parts ∈ fs) (m5 : .rtes ∈ fs) (m6 : .fab ∈ fs) (m8 : .sec ∈ fs)
    (m9 : .pew ∈ fs) (m10 : .eng ∈ fs) (m11 : .mem ∈ fs)
    (h2 : Within fs b s2) : Keeps fs b (execAckStallTimeout a1 s2) := by
  unfold execAckStallTimeout
  repeat' (first
    | with_reducible intro _ | with_reducible assumption | with_reducible apply next_keeps | with_reducible apply whenB_within
    | with_reducible apply portRow_keeps | with_reducible apply enterRetrain_within | split | dsimp only)

theorem execRetrainTimeout_keeps {fs : List Field} {b : State} {a1 s2}
    (m2 : .freeCtr ∈ fs) (m3 : .host ∈ fs) (m4 : .parts ∈ fs) (m5 : .rtes ∈ fs) (m6 : .fab ∈ fs) (m8 : .sec ∈ fs)
    (m9 : .pew ∈ fs) (m10 : .eng ∈ fs) (m11 : .mem ∈ fs)
    (h2 : Within fs b s2) : Keeps fs b (execRetrainTimeout a1 s2) := by
  unfold execRetrainTimeout
  repeat' (first
    | with_reducible intro _ | with_reducible assumption | with_reducible apply next_keeps | with_reducible apply whenB_within
    | with_reducible apply portRow_keeps | with_reducible apply portGone_within | split | dsimp only)

theorem execDownRetry_keeps {fs : List Field} {b : State} {a1 s2}
    (m6 : .fab ∈ fs)
    (h2 : Within fs b s2) : Keeps fs b (execDownRetry a1 s2) := by
  unfold execDownRetry
  repeat' (first
    | with_reducible intro _ | with_reducible assumption | with_reducible apply next_keeps | with_reducible apply whenB_within
    | with_reducible apply portRow_keeps | with_reducible apply portTo_within | split | dsimp only)

theorem execPortLock_keeps {fs : List Field} {b : State} {a1 s2}
    (m6 : .fab ∈ fs)
    (h2 : Within fs b s2) : Keeps fs b (execPortLock a1 s2) := by
  unfold execPortLock
  repeat' (first
    | with_reducible intro _ | with_reducible assumption | with_reducible apply next_keeps | with_reducible apply whenB_within
    | with_reducible apply portRow_keeps | with_reducible apply modPort_within | with_reducible apply portTo_within | split
    | dsimp only)

theorem replayAll_within {fs : List Field} {b : State} {s1 a2}
    (m6 : .fab ∈ fs)
    (h1 : Within fs b s1) : Within fs b (replayAll s1 a2) := by
  unfold replayAll
  repeat' (first
    | with_reducible intro _ | with_reducible assumption | with_reducible apply foldl_within
    | with_reducible apply foldl_fst_within | with_reducible apply foldl_snd_within | with_reducible apply portOut_within
    | split | dsimp only)

theorem ackFlits_within {fs : List Field} {b : State} {s1 a2 a3}
    (m6 : .fab ∈ fs)
    (h1 : Within fs b s1) : Within fs b (ackFlits s1 a2 a3) := by
  unfold ackFlits
  repeat' (first
    | with_reducible intro _ | with_reducible assumption | with_reducible apply modPort_within | split | dsimp only)

theorem nakTaken_within {fs : List Field} {b : State} {s1 a2}
    (m2 : .freeCtr ∈ fs) (m3 : .host ∈ fs) (m4 : .parts ∈ fs) (m5 : .rtes ∈ fs) (m6 : .fab ∈ fs) (m8 : .sec ∈ fs)
    (m9 : .pew ∈ fs) (m10 : .eng ∈ fs) (m11 : .mem ∈ fs)
    (h1 : Within fs b s1) : Within fs b (nakTaken s1 a2) := by
  unfold nakTaken
  repeat' (first
    | with_reducible intro _ | with_reducible assumption | with_reducible apply ite_within
    | with_reducible apply modPort_within | with_reducible apply portCount_within | with_reducible apply replayAll_within
    | with_reducible apply enterRetrain_within | with_reducible apply pump_within | split | dsimp only)

theorem execNak_keeps {fs : List Field} {b : State} {a1 a2 s3}
    (m2 : .freeCtr ∈ fs) (m3 : .host ∈ fs) (m4 : .parts ∈ fs) (m5 : .rtes ∈ fs) (m6 : .fab ∈ fs) (m8 : .sec ∈ fs)
    (m9 : .pew ∈ fs) (m10 : .eng ∈ fs) (m11 : .mem ∈ fs)
    (h3 : Within fs b s3) : Keeps fs b (execNak a1 a2 s3) := by
  unfold execNak
  repeat' (first
    | with_reducible intro _ | with_reducible assumption | with_reducible apply next_keeps | with_reducible apply whenB_within
    | with_reducible apply portRow_keeps | with_reducible apply nakTaken_within | with_reducible apply ackFlits_within | split
    | dsimp only)

theorem execAckIdleTimer_keeps {fs : List Field} {b : State} {a1 s2}
    (m6 : .fab ∈ fs)
    (h2 : Within fs b s2) : Keeps fs b (execAckIdleTimer a1 s2) := by
  unfold execAckIdleTimer
  repeat' (first
    | with_reducible intro _ | with_reducible assumption | with_reducible apply next_keeps | with_reducible apply whenB_within
    | with_reducible apply portRow_keeps | with_reducible apply ctlFlit_within | split | dsimp only)

theorem portCounts_within {fs : List Field} {b : State} {s1 a2 a3 a4}
    (m9 : .pew ∈ fs)
    (h1 : Within fs b s1) : Within fs b (portCounts s1 a2 a3 a4) := by
  induction a4 generalizing s1 a2 a3 with
  | zero =>
    unfold portCounts
    repeat' (first
    | with_reducible intro _ | with_reducible assumption | with_reducible apply portCount_within | split | dsimp only)
  | succ n ih =>
    unfold portCounts
    repeat' (first
    | with_reducible intro _ | with_reducible assumption | with_reducible apply ih | with_reducible apply portCount_within
    | split | dsimp only)

theorem deliverSlots_within {fs : List Field} {b : State} {s1 a2 a3 a4}
    (m6 : .fab ∈ fs) (m9 : .pew ∈ fs)
    (h1 : Within fs b s1) : Within fs b (deliverSlots s1 a2 a3 a4) := by
  unfold deliverSlots
  repeat' (first
    | with_reducible intro _ | with_reducible assumption | with_reducible apply ite_within
    | with_reducible apply modPort_within | with_reducible apply portCounts_within | split | dsimp only)

theorem nakOnce_within {fs : List Field} {b : State} {s1 a2}
    (m6 : .fab ∈ fs)
    (h1 : Within fs b s1) : Within fs b (nakOnce s1 a2) := by
  unfold nakOnce
  repeat' (first
    | with_reducible intro _ | with_reducible assumption | with_reducible apply ite_within
    | with_reducible apply modPort_within | with_reducible apply ctlFlit_within | split | dsimp only)

theorem acceptFlit_within {fs : List Field} {b : State} {s1 a2 a3 a4}
    (m6 : .fab ∈ fs) (m9 : .pew ∈ fs)
    (h1 : Within fs b s1) : Within fs b (acceptFlit s1 a2 a3 a4) := by
  unfold acceptFlit
  repeat' (first
    | with_reducible intro _ | with_reducible assumption | with_reducible apply modPort_within
    | with_reducible apply deliverSlots_within | with_reducible apply portCount_within | split | dsimp only)

theorem execFlitReceive_keeps {fs : List Field} {b : State} {a1 a2 a3 s4}
    (m2 : .freeCtr ∈ fs) (m3 : .host ∈ fs) (m4 : .parts ∈ fs) (m5 : .rtes ∈ fs) (m6 : .fab ∈ fs) (m8 : .sec ∈ fs)
    (m9 : .pew ∈ fs) (m10 : .eng ∈ fs) (m11 : .mem ∈ fs)
    (h4 : Within fs b s4) : Keeps fs b (execFlitReceive a1 a2 a3 s4) := by
  unfold execFlitReceive
  repeat' (first
    | with_reducible intro _ | with_reducible assumption | with_reducible apply next_keeps | with_reducible apply ite_keeps
    | with_reducible apply ite_within | with_reducible apply portRow_keeps | with_reducible apply portCount_within
    | with_reducible apply nakOnce_within | with_reducible apply modPort_within | with_reducible apply ackFlits_within
    | with_reducible apply pump_within | with_reducible apply acceptFlit_within | with_reducible apply nakTaken_within | split
    | dsimp only)

theorem portUp_within {fs : List Field} {b : State} {s1 a2}
    (m6 : .fab ∈ fs)
    (h1 : Within fs b s1) : Within fs b (portUp s1 a2) := by
  unfold portUp
  repeat' (first
    | with_reducible intro _ | with_reducible assumption | with_reducible apply modPort_within
    | with_reducible apply portTo_within | split | dsimp only)

theorem execIdentSend_keeps {fs : List Field} {b : State} {a1 s2}
    (m6 : .fab ∈ fs) (m9 : .pew ∈ fs)
    (h2 : Within fs b s2) : Keeps fs b (execIdentSend a1 s2) := by
  unfold execIdentSend
  repeat' (first
    | with_reducible intro _ | with_reducible assumption | with_reducible apply next_keeps | with_reducible apply whenB_within
    | with_reducible apply portRow_keeps | with_reducible apply sendMsg_within | with_reducible apply modPort_within | split
    | dsimp only)

theorem takeRecord_within {fs : List Field} {b : State} {s1 a2 a3}
    (m2 : .freeCtr ∈ fs) (m3 : .host ∈ fs) (m4 : .parts ∈ fs) (m5 : .rtes ∈ fs) (m6 : .fab ∈ fs) (m8 : .sec ∈ fs)
    (m9 : .pew ∈ fs) (m10 : .eng ∈ fs) (m11 : .mem ∈ fs)
    (h1 : Within fs b s1) : Within fs b (takeRecord s1 a2 a3) := by
  unfold takeRecord
  repeat' (first
    | with_reducible intro _ | with_reducible assumption | with_reducible apply ite_within
    | with_reducible apply modPort_within | with_reducible apply pump_within | with_reducible apply portUp_within
    | with_reducible apply quarantine_within | split | dsimp only)

theorem execIdent_keeps {fs : List Field} {b : State} {a1 s2}
    (m2 : .freeCtr ∈ fs) (m3 : .host ∈ fs) (m4 : .parts ∈ fs) (m5 : .rtes ∈ fs) (m6 : .fab ∈ fs) (m8 : .sec ∈ fs)
    (m9 : .pew ∈ fs) (m10 : .eng ∈ fs) (m11 : .mem ∈ fs)
    (h2 : Within fs b s2) : Keeps fs b (execIdent a1 s2) := by
  unfold execIdent
  repeat' (first
    | with_reducible intro _ | with_reducible assumption | with_reducible apply next_keeps
    | with_reducible apply portRow_keeps | with_reducible apply takeRecord_within | with_reducible apply modPort_within
    | split | dsimp only)

theorem execNoRecord_keeps {fs : List Field} {b : State} {a1 s2}
    (m2 : .freeCtr ∈ fs) (m3 : .host ∈ fs) (m4 : .parts ∈ fs) (m5 : .rtes ∈ fs) (m6 : .fab ∈ fs) (m8 : .sec ∈ fs)
    (m9 : .pew ∈ fs) (m10 : .eng ∈ fs) (m11 : .mem ∈ fs)
    (h2 : Within fs b s2) : Keeps fs b (execNoRecord a1 s2) := by
  unfold execNoRecord
  repeat' (first
    | with_reducible intro _ | with_reducible assumption | with_reducible apply next_keeps | with_reducible apply whenB_within
    | with_reducible apply portRow_keeps | with_reducible apply quarantine_within | split | dsimp only)

theorem execPortRelock_keeps {fs : List Field} {b : State} {a1 a2 s3}
    (m2 : .freeCtr ∈ fs) (m3 : .host ∈ fs) (m4 : .parts ∈ fs) (m5 : .rtes ∈ fs) (m6 : .fab ∈ fs) (m8 : .sec ∈ fs)
    (m9 : .pew ∈ fs) (m10 : .eng ∈ fs) (m11 : .mem ∈ fs)
    (h3 : Within fs b s3) : Keeps fs b (execPortRelock a1 a2 s3) := by
  unfold execPortRelock
  repeat' (first
    | with_reducible intro _ | with_reducible assumption | with_reducible apply next_keeps | with_reducible apply ite_keeps
    | with_reducible apply whenB_within | with_reducible apply ite_within | with_reducible apply portRow_keeps
    | with_reducible apply pump_within | with_reducible apply replayAll_within | with_reducible apply modPort_within
    | with_reducible apply portUp_within | with_reducible apply quarantine_within | split | dsimp only)

theorem slotDone_within {fs : List Field} {b : State} {s1 a2 a3 a4}
    (m3 : .host ∈ fs) (m4 : .parts ∈ fs)
    (h1 : Within fs b s1) : Within fs b (slotDone s1 a2 a3 a4) := by
  unfold slotDone
  repeat' (first
    | with_reducible intro _ | with_reducible assumption | with_reducible apply ite_within
    | with_reducible apply modPart_within | with_reducible apply endSelect_within | split | dsimp only)

theorem releaseRuns_within {fs : List Field} {b : State} {s1 a2 a3}
    (m3 : .host ∈ fs) (m4 : .parts ∈ fs)
    (h1 : Within fs b s1) : Within fs b (releaseRuns s1 a2 a3) := by
  unfold releaseRuns
  repeat' (first
    | with_reducible intro _ | with_reducible assumption | with_reducible apply ite_within | with_reducible apply foldl_within
    | with_reducible apply foldl_fst_within | with_reducible apply foldl_snd_within | with_reducible apply startRun_within
    | split | dsimp only)

theorem handleDone_within {fs : List Field} {b : State} {s1 a2 a3}
    (m3 : .host ∈ fs) (m4 : .parts ∈ fs)
    (h1 : Within fs b s1) : Within fs b (handleDone s1 a2 a3) := by
  unfold handleDone
  repeat' (first
    | with_reducible intro _ | with_reducible assumption | with_reducible apply ite_within
    | with_reducible apply modPart_within | with_reducible apply endCmd_within | with_reducible apply writeReport_within
    | with_reducible apply releaseRuns_within | split | dsimp only)

theorem execRegistrationDone_keeps {fs : List Field} {b : State} {a1 a2 a3 s4}
    (m3 : .host ∈ fs) (m4 : .parts ∈ fs)
    (h4 : Within fs b s4) : Keeps fs b (execRegistrationDone a1 a2 a3 s4) := by
  unfold execRegistrationDone
  repeat' (first
    | with_reducible intro _ | with_reducible assumption | with_reducible apply next_keeps | with_reducible apply ite_keeps
    | with_reducible apply onUnit_keeps | with_reducible apply ite_within | with_reducible apply handleDone_within
    | with_reducible apply slotDone_within | split | dsimp only)

theorem memCtr_within {fs : List Field} {b : State} {s1 a2 a3}
    (m9 : .pew ∈ fs)
    (h1 : Within fs b s1) : Within fs b (memCtr s1 a2 a3) := by
  unfold memCtr
  repeat' (first
    | with_reducible intro _ | with_reducible assumption | with_reducible apply modPew_within | split | dsimp only)

theorem remapRow_within {fs : List Field} {b : State} {s1 a2 a3}
    (m2 : .freeCtr ∈ fs) (m3 : .host ∈ fs) (m4 : .parts ∈ fs) (m5 : .rtes ∈ fs) (m9 : .pew ∈ fs) (m10 : .eng ∈ fs)
    (m11 : .mem ∈ fs)
    (h1 : Within fs b s1) : Within fs b (remapRow s1 a2 a3) := by
  unfold remapRow
  repeat' (first
    | with_reducible intro _ | with_reducible assumption | with_reducible apply ite_within
    | with_reducible apply groupFault_within | with_reducible apply logFault_within
    | (with_reducible refine modMem_within _ ‹_› ?_ ?_) | with_reducible rfl | exact putLine_bytes _ _ _ _
    | exact refreshed_bytes _ _ _ | with_reducible apply memCtr_within | split | dsimp only)

theorem correctRow_within {fs : List Field} {b : State} {s1 a2}
    (m2 : .freeCtr ∈ fs) (m3 : .host ∈ fs) (m4 : .parts ∈ fs) (m5 : .rtes ∈ fs) (m9 : .pew ∈ fs) (m10 : .eng ∈ fs)
    (m11 : .mem ∈ fs)
    (h1 : Within fs b s1) : Within fs b (correctRow s1 a2) := by
  unfold correctRow
  repeat' (first
    | with_reducible intro _ | with_reducible assumption | with_reducible apply ite_within
    | with_reducible apply memCtr_within | (with_reducible refine modMem_within _ ‹_› ?_ ?_) | with_reducible rfl
    | exact putLine_bytes _ _ _ _ | exact refreshed_bytes _ _ _ | with_reducible apply remapRow_within | split | dsimp only)

theorem lostRow_within {fs : List Field} {b : State} {s1 a2}
    (m2 : .freeCtr ∈ fs) (m3 : .host ∈ fs) (m4 : .parts ∈ fs) (m5 : .rtes ∈ fs) (m9 : .pew ∈ fs) (m10 : .eng ∈ fs)
    (m11 : .mem ∈ fs)
    (h1 : Within fs b s1) : Within fs b (lostRow s1 a2) := by
  unfold lostRow
  repeat' (first
    | with_reducible intro _ | with_reducible assumption | with_reducible apply ite_within
    | with_reducible apply memCtr_within | with_reducible apply remapRow_within | with_reducible apply markLost_within | split
    | dsimp only)

theorem blockBack_within {fs : List Field} {b : State} {s1 a2 a3 a4 a5}
    (m2 : .freeCtr ∈ fs) (m3 : .host ∈ fs) (m4 : .parts ∈ fs) (m5 : .rtes ∈ fs) (m9 : .pew ∈ fs) (m10 : .eng ∈ fs)
    (m11 : .mem ∈ fs)
    (h1 : Within fs b s1) : Within fs b (blockBack s1 a2 a3 a4 a5) := by
  unfold blockBack
  repeat' (first
    | with_reducible intro _ | with_reducible assumption | with_reducible apply ite_within
    | with_reducible apply lostData_within | with_reducible apply correctRow_within | with_reducible apply memStore_within
    | with_reducible apply lostRow_within | with_reducible apply activate_within | with_reducible apply markLost_within
    | split | dsimp only)

theorem execMemoryReadReturn_keeps {fs : List Field} {b : State} {a1 a2 a3 a4 s5}
    (m2 : .freeCtr ∈ fs) (m3 : .host ∈ fs) (m4 : .parts ∈ fs) (m5 : .rtes ∈ fs) (m9 : .pew ∈ fs) (m10 : .eng ∈ fs)
    (m11 : .mem ∈ fs)
    (h5 : Within fs b s5) : Keeps fs b (execMemoryReadReturn a1 a2 a3 a4 s5) := by
  unfold execMemoryReadReturn
  repeat' (first
    | with_reducible intro _ | with_reducible assumption | with_reducible apply next_keeps | with_reducible apply ite_keeps
    | with_reducible apply onUnit_keeps | with_reducible apply whenB_within | with_reducible apply ite_within
    | with_reducible apply blockBack_within | with_reducible apply activate_within
    | (with_reducible refine modMem_within _ ‹_› ?_ ?_) | with_reducible rfl | exact putLine_bytes _ _ _ _
    | exact refreshed_bytes _ _ _ | split | dsimp only)

theorem execTier1ReadLate_keeps {fs : List Field} {b : State} {a1 s2}
    (m2 : .freeCtr ∈ fs) (m3 : .host ∈ fs) (m4 : .parts ∈ fs) (m5 : .rtes ∈ fs) (m9 : .pew ∈ fs) (m10 : .eng ∈ fs)
    (m11 : .mem ∈ fs)
    (h2 : Within fs b s2) : Keeps fs b (execTier1ReadLate a1 s2) := by
  unfold execTier1ReadLate
  repeat' (first
    | with_reducible intro _ | with_reducible assumption | with_reducible apply next_keeps | with_reducible apply onUnit_keeps
    | with_reducible apply fault_keeps | with_reducible apply groupFault_within | split | dsimp only)

theorem serveSlot_within {fs : List Field} {b : State} {s1 a2 a3}
    (m11 : .mem ∈ fs)
    (h1 : Within fs b s1) : Within fs b (serveSlot s1 a2 a3) := by
  unfold serveSlot
  repeat' (first
    | with_reducible intro _ | with_reducible assumption | with_reducible apply ite_within | with_reducible apply foldl_within
    | with_reducible apply foldl_fst_within | with_reducible apply foldl_snd_within | with_reducible apply issueDue_within
    | (with_reducible refine modMem_within _ ‹_› ?_ ?_) | with_reducible rfl | exact putLine_bytes _ _ _ _
    | exact refreshed_bytes _ _ _ | split | dsimp only)

theorem execPeriodicRefresh_keeps {fs : List Field} {b : State} {a1 a2 s3}
    (m11 : .mem ∈ fs)
    (h3 : Within fs b s3) : Keeps fs b (execPeriodicRefresh a1 a2 s3) := by
  unfold execPeriodicRefresh
  repeat' (first
    | with_reducible intro _ | with_reducible assumption | with_reducible apply next_keeps | with_reducible apply onUnit_keeps
    | with_reducible apply whenB_within | with_reducible apply serveSlot_within
    | (with_reducible refine modMem_within _ ‹_› ?_ ?_) | with_reducible rfl | exact putLine_bytes _ _ _ _
    | exact refreshed_bytes _ _ _ | split | dsimp only)

theorem execRfmRequest_keeps {fs : List Field} {b : State} {a1 a2 s3}
    (m11 : .mem ∈ fs)
    (h3 : Within fs b s3) : Keeps fs b (execRfmRequest a1 a2 s3) := by
  unfold execRfmRequest
  repeat' (first
    | with_reducible intro _ | with_reducible assumption | with_reducible apply next_keeps | with_reducible apply ite_keeps
    | with_reducible apply onUnit_keeps | with_reducible apply whenB_within | with_reducible apply ite_within
    | with_reducible apply serveSlot_within | (with_reducible refine modMem_within _ ‹_› ?_ ?_) | with_reducible rfl
    | exact putLine_bytes _ _ _ _ | exact refreshed_bytes _ _ _ | split | dsimp only)

theorem execMaintenanceWindow_keeps {fs : List Field} {b : State} {a1 s2}
    (m11 : .mem ∈ fs)
    (h2 : Within fs b s2) : Keeps fs b (execMaintenanceWindow a1 s2) := by
  unfold execMaintenanceWindow
  repeat' (first
    | with_reducible intro _ | with_reducible assumption | with_reducible apply next_keeps | with_reducible apply onUnit_keeps
    | with_reducible apply whenB_within | with_reducible apply foldl_within | with_reducible apply foldl_fst_within
    | with_reducible apply foldl_snd_within | with_reducible apply serveSlot_within | split | dsimp only)

theorem execPeriodicCalibration_keeps {fs : List Field} {b : State} {a1 a2 s3}
    (m2 : .freeCtr ∈ fs) (m3 : .host ∈ fs) (m4 : .parts ∈ fs) (m5 : .rtes ∈ fs) (m9 : .pew ∈ fs) (m10 : .eng ∈ fs)
    (m11 : .mem ∈ fs)
    (h3 : Within fs b s3) : Keeps fs b (execPeriodicCalibration a1 a2 s3) := by
  unfold execPeriodicCalibration
  repeat' (first
    | with_reducible intro _ | with_reducible assumption | with_reducible apply next_keeps | with_reducible apply ite_keeps
    | with_reducible apply onUnit_keeps | with_reducible apply fault_keeps | with_reducible apply whenB_within
    | with_reducible apply ite_within | (with_reducible refine modMem_within _ ‹_› ?_ ?_) | with_reducible rfl
    | exact putLine_bytes _ _ _ _ | exact refreshed_bytes _ _ _ | with_reducible apply drawFree_within
    | with_reducible apply groupFault_within | split | dsimp only)

theorem execPatrolScrub_keeps {fs : List Field} {b : State} {a1 a2 a3 s4}
    (m2 : .freeCtr ∈ fs) (m3 : .host ∈ fs) (m4 : .parts ∈ fs) (m5 : .rtes ∈ fs) (m9 : .pew ∈ fs) (m10 : .eng ∈ fs)
    (m11 : .mem ∈ fs)
    (h4 : Within fs b s4) : Keeps fs b (execPatrolScrub a1 a2 a3 s4) := by
  unfold execPatrolScrub
  repeat' (first
    | with_reducible intro _ | with_reducible assumption | with_reducible apply next_keeps | with_reducible apply ite_keeps
    | with_reducible apply onUnit_keeps | with_reducible apply whenB_within | with_reducible apply ite_within
    | with_reducible apply blockBack_within | with_reducible apply activate_within
    | (with_reducible refine modMem_within _ ‹_› ?_ ?_) | with_reducible rfl | exact putLine_bytes _ _ _ _
    | exact refreshed_bytes _ _ _ | with_reducible apply memCtr_within | split | dsimp only)

theorem sramError_within {fs : List Field} {b : State} {s1 a2 a3 a4}
    (m3 : .host ∈ fs) (m4 : .parts ∈ fs) (m5 : .rtes ∈ fs) (m9 : .pew ∈ fs) (m10 : .eng ∈ fs) (m11 : .mem ∈ fs)
    (h1 : Within fs b s1) : Within fs b (sramError s1 a2 a3 a4) := by
  unfold sramError
  repeat' (first
    | with_reducible intro _ | with_reducible assumption | with_reducible apply ite_within
    | with_reducible apply upsetWord_within | with_reducible apply tileMismatch_within
    | with_reducible apply reportError_within | with_reducible apply lineMet_within | split | dsimp only)

theorem execSramScrub_keeps {fs : List Field} {b : State} {a1 a2 a3 a4 s5}
    (m3 : .host ∈ fs) (m4 : .parts ∈ fs) (m5 : .rtes ∈ fs) (m9 : .pew ∈ fs) (m10 : .eng ∈ fs) (m11 : .mem ∈ fs)
    (h5 : Within fs b s5) : Keeps fs b (execSramScrub a1 a2 a3 a4 s5) := by
  unfold execSramScrub
  repeat' (first
    | with_reducible intro _ | with_reducible assumption | with_reducible apply next_keeps | with_reducible apply ite_keeps
    | with_reducible apply onUnit_keeps | with_reducible apply whenB_within | with_reducible apply ite_within
    | with_reducible apply upsetWord_within | with_reducible apply sramError_within | split | dsimp only)

theorem execSliceWritebackDone_keeps {fs : List Field} {b : State} {a1 a2 s3}
    (m3 : .host ∈ fs) (m4 : .parts ∈ fs) (m5 : .rtes ∈ fs) (m9 : .pew ∈ fs) (m10 : .eng ∈ fs) (m11 : .mem ∈ fs)
    (h3 : Within fs b s3) : Keeps fs b (execSliceWritebackDone a1 a2 s3) := by
  unfold execSliceWritebackDone
  repeat' (first
    | with_reducible intro _ | with_reducible assumption | with_reducible apply next_keeps | with_reducible apply onUnit_keeps
    | with_reducible apply whenB_within | with_reducible apply foldl_within | with_reducible apply foldl_fst_within
    | with_reducible apply foldl_snd_within | with_reducible apply lineMet_within | with_reducible apply clearSlice_within
    | with_reducible apply activate_within | split | dsimp only)

theorem execOpticalBiasCalibration_keeps {fs : List Field} {b : State} {a1 a2 s3}
    (h3 : Within fs b s3) : Keeps fs b (execOpticalBiasCalibration a1 a2 s3) := by
  unfold execOpticalBiasCalibration
  repeat' (first
    | with_reducible intro _ | with_reducible assumption | with_reducible apply next_keeps | with_reducible apply onUnit_keeps
    | split | dsimp only)

theorem execAgeingMeasurement_keeps {fs : List Field} {b : State} {a1 a2 s3}
    (m9 : .pew ∈ fs)
    (h3 : Within fs b s3) : Keeps fs b (execAgeingMeasurement a1 a2 s3) := by
  unfold execAgeingMeasurement
  repeat' (first
    | with_reducible intro _ | with_reducible assumption | with_reducible apply next_keeps | with_reducible apply ite_keeps
    | with_reducible apply onUnit_keeps | with_reducible apply whenB_within | with_reducible apply ite_within
    | with_reducible apply modPew_within | split | dsimp only)

theorem serveWrite_within {fs : List Field} {b : State} {s1 a2}
    (m3 : .host ∈ fs) (m4 : .parts ∈ fs) (m6 : .fab ∈ fs) (m9 : .pew ∈ fs) (m11 : .mem ∈ fs)
    (h1 : Within fs b s1) : ∀ t, serveWrite s1 a2 = some t → Within fs b t := by
  intro t h
  unfold serveWrite at h
  repeat' split at h
  · injection h with h; rw [← h]; repeat' (first | assumption | with_reducible apply chainWrite_within)
  · injection h with h; rw [← h]; exact memPut_within _ _ m11 h1
  · injection h with h; rw [← h]
    repeat' (first | assumption | with_reducible apply noticeWrite_within)
  · injection h with h; rw [← h]
    repeat' (first | assumption | with_reducible apply jobBytes_within)
  · rw [Option.map_eq_some_iff] at h
    obtain ⟨r, _, h⟩ := h
    rw [← h]
    repeat' (first | assumption | with_reducible apply resultBytes_within)

theorem respond_within {fs : List Field} {b : State} {s1 a2 a3 a4 a5}
    (m6 : .fab ∈ fs) (m9 : .pew ∈ fs)
    (h1 : Within fs b s1) : Within fs b (respond s1 a2 a3 a4 a5) := by
  unfold respond
  repeat' (first
    | with_reducible intro _ | with_reducible assumption | with_reducible apply ite_within
    | with_reducible apply sendMsg_within | split | dsimp only)

theorem takeMsg_keeps {fs : List Field} {b : State} {a1 a2 a3 s4 f5}
    (m6 : .fab ∈ fs)
    (h4 : Within fs b s4) (h5 : ∀ x0 x1, Within fs b x1 → Within fs b (f5 x0 x1)) : Keeps fs b (takeMsg a1 a2 a3 s4 f5) := by
  unfold takeMsg
  repeat' (first
    | with_reducible intro _ | with_reducible assumption | with_reducible apply h5 | with_reducible apply next_keeps
    | with_reducible apply ite_keeps | with_reducible apply ite_within | with_reducible apply portRow_keeps
    | with_reducible apply modPort_within | split | dsimp only)

theorem execRd_keeps {fs : List Field} {b : State} {a1 s2}
    (m6 : .fab ∈ fs) (m9 : .pew ∈ fs) (m11 : .mem ∈ fs)
    (h2 : Within fs b s2) : Keeps fs b (execRd a1 s2) := by
  unfold execRd
  repeat' (first
    | with_reducible intro _ | with_reducible assumption | with_reducible apply next_keeps | with_reducible apply ite_keeps
    | with_reducible apply ite_within | with_reducible apply takeMsg_keeps | with_reducible apply respond_within
    | with_reducible apply portCount_within | with_reducible apply memTouch_within | split | dsimp only)

theorem execWr_keeps {fs : List Field} {b : State} {a1 s2}
    (m3 : .host ∈ fs) (m4 : .parts ∈ fs) (m6 : .fab ∈ fs) (m9 : .pew ∈ fs) (m11 : .mem ∈ fs)
    (h2 : Within fs b s2) : Keeps fs b (execWr a1 s2) := by
  unfold execWr
  repeat' (first
    | with_reducible intro _ | with_reducible assumption | with_reducible apply takeMsg_keeps
    | with_reducible apply respond_within | with_reducible apply portCount_within
    | exact serveWrite_within (by assumption) (by assumption) (by assumption) (by assumption) (by assumption) (by with_reducible assumption) _ (by with_reducible assumption)
    | split | dsimp only)

theorem takeResponse_keeps {fs : List Field} {b : State} {a1 a2 s3 f4}
    (m2 : .freeCtr ∈ fs) (m3 : .host ∈ fs) (m4 : .parts ∈ fs) (m5 : .rtes ∈ fs) (m6 : .fab ∈ fs) (m8 : .sec ∈ fs)
    (m9 : .pew ∈ fs) (m10 : .eng ∈ fs) (m11 : .mem ∈ fs)
    (h3 : Within fs b s3) (h4 : ∀ x0 x1 x2, Within fs b x2 → Within fs b (f4 x0 x1 x2)) : Keeps fs b (takeResponse a1 a2 s3 f4) := by
  unfold takeResponse
  repeat' (first
    | with_reducible intro _ | with_reducible assumption | with_reducible apply h4 | with_reducible apply next_keeps
    | with_reducible apply ite_keeps | with_reducible apply ite_within | with_reducible apply takeMsg_keeps
    | with_reducible apply portCount_within | with_reducible apply failAccess_within | split | dsimp only)

theorem execRdata_keeps {fs : List Field} {b : State} {a1 s2}
    (m2 : .freeCtr ∈ fs) (m3 : .host ∈ fs) (m4 : .parts ∈ fs) (m5 : .rtes ∈ fs) (m6 : .fab ∈ fs) (m8 : .sec ∈ fs)
    (m9 : .pew ∈ fs) (m10 : .eng ∈ fs) (m11 : .mem ∈ fs)
    (h2 : Within fs b s2) : Keeps fs b (execRdata a1 s2) := by
  unfold execRdata
  repeat' (first
    | with_reducible intro _ | with_reducible assumption | with_reducible apply next_keeps | with_reducible apply ite_keeps
    | with_reducible apply ite_within | with_reducible apply takeResponse_keeps | with_reducible apply endAccess_within
    | with_reducible apply readMore_within | with_reducible apply readFail_within | split | dsimp only)

theorem execWack_keeps {fs : List Field} {b : State} {a1 s2}
    (m2 : .freeCtr ∈ fs) (m3 : .host ∈ fs) (m4 : .parts ∈ fs) (m5 : .rtes ∈ fs) (m6 : .fab ∈ fs) (m8 : .sec ∈ fs)
    (m9 : .pew ∈ fs) (m10 : .eng ∈ fs) (m11 : .mem ∈ fs)
    (h2 : Within fs b s2) : Keeps fs b (execWack a1 s2) := by
  unfold execWack
  repeat' (first
    | with_reducible intro _ | with_reducible assumption | with_reducible apply next_keeps
    | with_reducible apply takeResponse_keeps | with_reducible apply writeOk_within | with_reducible apply endAccess_within
    | split | dsimp only)

theorem execPeerlimExpiry_keeps {fs : List Field} {b : State} {a1 s2}
    (m2 : .freeCtr ∈ fs) (m3 : .host ∈ fs) (m4 : .parts ∈ fs) (m5 : .rtes ∈ fs) (m6 : .fab ∈ fs) (m8 : .sec ∈ fs)
    (m9 : .pew ∈ fs) (m10 : .eng ∈ fs) (m11 : .mem ∈ fs)
    (h2 : Within fs b s2) : Keeps fs b (execPeerlimExpiry a1 s2) := by
  unfold execPeerlimExpiry
  repeat' (first
    | with_reducible intro _ | with_reducible assumption | with_reducible apply next_keeps | with_reducible apply whenB_within
    | with_reducible apply failAccess_within | split | dsimp only)

theorem setOutcome_within {fs : List Field} {b : State} {s1 a2 a3}
    (m9 : .pew ∈ fs)
    (h1 : Within fs b s1) : Within fs b (setOutcome s1 a2 a3) := by
  unfold setOutcome
  repeat' (first
    | with_reducible intro _ | with_reducible assumption | with_reducible apply modPew_within | split | dsimp only)

theorem clearUnit_within {fs : List Field} {b : State} {s1 a2 a3}
    (m10 : .eng ∈ fs) (m11 : .mem ∈ fs)
    (h1 : Within fs b s1) : Within fs b (clearUnit s1 a2 a3) := by
  unfold clearUnit
  repeat' (first
    | with_reducible assumption | with_reducible apply ite_within | with_reducible apply setCore_within
    | with_reducible apply modCob_within | with_reducible apply modEng_within | with_reducible apply clearSlice_within
    | exact modMem_within_wf _ m11 (clearSlice_within m11 h1) (fun a => SWf_filter 0 _ _ a))

theorem startTest_within {fs : List Field} {b : State} {s1 a2 a3 a4 a5 a6}
    (m4 : .parts ∈ fs) (m10 : .eng ∈ fs) (m11 : .mem ∈ fs)
    (h1 : Within fs b s1) : Within fs b (startTest s1 a2 a3 a4 a5 a6) := by
  unfold startTest
  repeat' (first
    | with_reducible intro _ | with_reducible assumption | with_reducible apply ite_within
    | with_reducible apply modEng_within | with_reducible apply modPart_within | with_reducible apply clearPlaces_within | with_reducible apply clearUnit_within | split
    | dsimp only)

theorem hubError_within {fs : List Field} {b : State} {s1 a2}
    (m3 : .host ∈ fs) (m4 : .parts ∈ fs) (m5 : .rtes ∈ fs) (m9 : .pew ∈ fs) (m10 : .eng ∈ fs)
    (h1 : Within fs b s1) : Within fs b (hubError s1 a2) := by
  unfold hubError
  repeat' (first
    | with_reducible intro _ | with_reducible assumption | with_reducible apply ite_within | with_reducible apply foldl_within
    | with_reducible apply foldl_fst_within | with_reducible apply foldl_snd_within | with_reducible apply modPew_within
    | with_reducible apply discardWork_within | with_reducible apply moduleFault_within
    | with_reducible apply setOutcome_within | split | dsimp only)

theorem restartRegs_within {fs : List Field} {b : State} {s1 a2}
    (m4 : .parts ∈ fs)
    (h1 : Within fs b s1) : Within fs b (restartRegs s1 a2) := by
  unfold restartRegs
  repeat' (first
    | with_reducible intro _ | with_reducible assumption | with_reducible apply modPart_within | split | dsimp only)

theorem withdrawFor_within {fs : List Field} {b : State} {s1 a2}
    (m4 : .parts ∈ fs) (m10 : .eng ∈ fs) (m11 : .mem ∈ fs)
    (h1 : Within fs b s1) : Within fs b (withdrawFor s1 a2) := by
  unfold withdrawFor
  repeat' (first
    | with_reducible intro _ | with_reducible assumption | with_reducible apply ite_within
    | with_reducible apply startTest_within | split | dsimp only)

theorem execUnitErrorRecovery_keeps {fs : List Field} {b : State} {s1}
    (m3 : .host ∈ fs) (m4 : .parts ∈ fs) (m5 : .rtes ∈ fs) (m9 : .pew ∈ fs) (m10 : .eng ∈ fs) (m11 : .mem ∈ fs)
    (h1 : Within fs b s1) : Keeps fs b (execUnitErrorRecovery s1) := by
  unfold execUnitErrorRecovery
  repeat' (first
    | with_reducible intro _ | with_reducible assumption | with_reducible apply next_keeps | with_reducible apply ite_keeps
    | with_reducible apply ite_within | with_reducible apply foldl_within | with_reducible apply foldl_fst_within
    | with_reducible apply foldl_snd_within | with_reducible apply hubError_within | with_reducible apply modEng_within
    | with_reducible apply discardWork_within | with_reducible apply restartRegs_within
    | with_reducible apply withdrawFor_within | split | dsimp only)

theorem endTest_within {fs : List Field} {b : State} {s1 a2}
    (m10 : .eng ∈ fs)
    (h1 : Within fs b s1) : Within fs b (endTest s1 a2) := by
  unfold endTest
  repeat' (first
    | with_reducible intro _ | with_reducible assumption | with_reducible apply ite_within
    | with_reducible apply modEng_within | split | dsimp only)

theorem execSelfTestDone_keeps {fs : List Field} {b : State} {a1 a2 a3 s4}
    (m2 : .freeCtr ∈ fs) (m3 : .host ∈ fs) (m4 : .parts ∈ fs) (m5 : .rtes ∈ fs) (m9 : .pew ∈ fs) (m10 : .eng ∈ fs)
    (m11 : .mem ∈ fs)
    (h4 : Within fs b s4) : Keeps fs b (execSelfTestDone a1 a2 a3 s4) := by
  unfold execSelfTestDone
  repeat' (first
    | with_reducible intro _ | with_reducible assumption | with_reducible apply next_keeps | with_reducible apply ite_keeps
    | with_reducible apply fault_keeps | with_reducible apply ite_within | with_reducible apply clearUnit_within
    | with_reducible apply modPew_within | with_reducible apply endTest_within | with_reducible apply setOutcome_within
    | with_reducible apply fenceUnit_within | with_reducible apply drawFree_within | with_reducible apply logFault_within
    | split | dsimp only)

theorem execReturnTestStart_keeps {fs : List Field} {b : State} {a1 a2 s3}
    (m4 : .parts ∈ fs) (m10 : .eng ∈ fs) (m11 : .mem ∈ fs)
    (h3 : Within fs b s3) : Keeps fs b (execReturnTestStart a1 a2 s3) := by
  unfold execReturnTestStart
  repeat' (first
    | with_reducible intro _ | with_reducible assumption | with_reducible apply next_keeps | with_reducible apply ite_keeps
    | with_reducible apply ite_within | with_reducible apply modEng_within | with_reducible apply clearPlaces_within
    | with_reducible apply startTest_within | split | dsimp only)

end Sys2Proof.Machine
end

