-- ==== Sys2Proof/Laws/FramesTick.lean ====
section
/-! SUPPORT. What a tick may touch: the two tick counts, and the array and Cobalt cores. -/

set_option Elab.async false
set_option linter.unusedTactic false
set_option linter.unreachableTactic false

namespace Sys2Proof.Machine

/-- An instruction of a Cobalt core keeps to a frame when the state it answers, if it answers one, does. -/
def RvKeeps (fs : List Field) (b : State) : RvOut → Prop
  | .next t => Within fs b t
  | .jump t _ => Within fs b t
  | _ => True

variable {fs : List Field} {b s : State} (m10 : .eng ∈ fs)
include m10

theorem tinStore_within {n o bs} (h1 : Within fs b s) : Within fs b (tinStore s n o bs) := by
  unfold tinStore
  repeat' (first
    | with_reducible assumption | with_reducible apply ite_within | with_reducible apply modCob_within
    | with_reducible apply txGo_within | with_reducible apply rxPop_within | split | dsimp only)

theorem rvStore_within {n a k v} (h1 : Within fs b s) : ∀ t, rvStore s n a k v = .ok t → Within fs b t := by
  intro t h
  unfold rvStore at h
  dsimp only at h
  repeat' split at h
  all_goals first
    | (injection h with h; rw [← h]
       repeat' (first
        | with_reducible assumption | with_reducible apply modCob_within | with_reducible apply modCore_within
        | with_reducible apply tinStore_within))
    | exact nomatch h

theorem rvOk_keeps {n f} (h1 : Within fs b s) : RvKeeps fs b (rvOk s n f) := modCob_within n f m10 h1

theorem rvPut_keeps {n w o} (h1 : Within fs b s) : RvKeeps fs b (rvPut s n w o) := by
  unfold rvPut
  split
  · exact rvOk_keeps m10 h1
  · trivial

theorem rvStoreOp_keeps {n w c k v} (h1 : Within fs b s) : RvKeeps fs b (rvStoreOp s n w c k v) := by
  unfold rvStoreOp
  dsimp only
  split
  · exact rvStore_within m10 h1 _ ‹_›
  · trivial
  · trivial

theorem rvLoadOp_keeps {n w c} (h1 : Within fs b s) : RvKeeps fs b (rvLoadOp s n w c) := by
  unfold rvLoadOp
  repeat' (first | trivial | exact rvOk_keeps m10 h1 | split | dsimp only)

theorem rvLoadF_keeps {n w c} (h1 : Within fs b s) : RvKeeps fs b (rvLoadF s n w c) := by
  unfold rvLoadF
  repeat' (first | trivial | exact rvOk_keeps m10 h1 | split | dsimp only)

omit m10 in
theorem ite_rv {c : Prop} [Decidable c] {o q : RvOut} (h : RvKeeps fs b o) (k : RvKeeps fs b q) : RvKeeps fs b (if c then o else q) := by
  split <;> assumption

/-- An instruction that stores and then acts on its core. -/
theorem rvStored_keeps {n a k v f} {g : Nat → RvOut} (h1 : Within fs b s) (hg : ∀ x, RvKeeps fs b (g x)) :
    RvKeeps fs b (match rvStore s n a k v with | .ok t => rvOk t n f | .trap x => g x | .wait => .wait) := by
  split
  · exact rvOk_keeps m10 (rvStore_within m10 h1 _ ‹_›)
  · exact hg _
  · trivial

theorem rvAtomic_keeps {n w c} (h1 : Within fs b s) : RvKeeps fs b (rvAtomic s n w c) := by
  unfold rvAtomic
  refine ite_rv trivial (ite_rv trivial (ite_rv trivial (ite_rv (ite_rv (rvOk_keeps m10 h1) ?_) ?_)))
  · exact rvStored_keeps m10 h1 (fun _ => trivial)
  · split
    · trivial
    · trivial
    · exact ite_rv (rvOk_keeps m10 h1) (rvStored_keeps m10 h1 (fun _ => trivial))

theorem rvFpPut_keeps {n w c o} (h1 : Within fs b s) : RvKeeps fs b (rvFpPut s n w c o) := by
  unfold rvFpPut
  split
  · exact rvOk_keeps m10 h1
  · exact rvOk_keeps m10 h1
  · trivial

theorem rvCsr_keeps {n w c} (h1 : Within fs b s) : RvKeeps fs b (rvCsr s n w c) := by
  unfold rvCsr
  dsimp only
  repeat' (first | trivial | exact rvOk_keeps m10 h1 | split)

theorem rvSystem_keeps {n w c} (h1 : Within fs b s) : RvKeeps fs b (rvSystem s n w c) := by
  unfold rvSystem
  repeat' (first
    | trivial | exact rvCsr_keeps m10 h1 | exact h1 | exact modCob_within n rvMret m10 h1 | split)

theorem rvExec_keeps {n c w len} (h1 : Within fs b s) : RvKeeps fs b (rvExec s n c w len) := by
  unfold rvExec
  dsimp only
  repeat' (first
    | exact rvPut_keeps m10 h1 | exact rvLoadOp_keeps m10 h1 | exact rvStoreOp_keeps m10 h1 | exact rvAtomic_keeps m10 h1
    | exact rvSystem_keeps m10 h1 | exact rvLoadF_keeps m10 h1 | exact rvFpPut_keeps m10 h1
    | exact modCob_within _ _ m10 h1 | exact h1 | trivial | split)

/-- A Cobalt core changes nothing outside the module's array, cores and their endpoints. -/
theorem cobStep_within {n} (h1 : Within fs b s) : Within fs b (cobStep s n) := by
  unfold cobStep
  dsimp only
  split
  · exact modCob_within _ _ m10 h1
  · split
    · exact modCob_within _ _ m10 h1
    · exact modCob_within _ _ m10 h1
    · rename_i len w _
      have k := rvExec_keeps (n := n) (c := getCob s n) (w := w) (len := len) m10 h1
      split <;> rename_i h <;> first
        | exact modCob_within _ _ m10 h1
        | exact modCob_within _ _ m10 (by rw [h] at k; exact k)

theorem cobaltTick_within (h1 : Within fs b s) : Within fs b (cobaltTick s) :=
  foldl_within _ _ h1 (fun _ _ h => ite_within (cobStep_within m10 h) h)

/-- A tick counts, and touches the array and the Cobalt cores only. -/
theorem tickOnce_within (m0 : .tick ∈ fs) (m1 : .sbTick ∈ fs) (h1 : Within fs b s) : Within fs b (tickOnce s) := by
  unfold tickOnce
  dsimp only
  refine cobaltTick_within m10 (modEng_within _ m10 ?_)
  repeat' (first
    | with_reducible assumption | with_reducible apply ite_within | with_reducible apply setStandby_within
    | with_reducible apply setTick_within)

end Sys2Proof.Machine
end

