-- ==== Sys2Proof/Laws/Ports.lean ====
section
/-! SUPPORT. What sending on an optical port leaves alone: the states of the ports and the plan in force. -/

namespace Sys2Proof.Machine

/-- The states of the ports and the plan in force are the same. -/
def SameWays (s t : State) : Prop := (∀ m, (getPort t m).state = (getPort s m).state) ∧ t.pew.applied = s.pew.applied

theorem SameWays.refl (s : State) : SameWays s s := ⟨fun _ => rfl, rfl⟩
theorem SameWays.trans {s t u : State} (h : SameWays s t) (k : SameWays t u) : SameWays s u :=
  ⟨fun m => (k.1 m).trans (h.1 m), k.2.trans h.2⟩

theorem modPort_sameWays (s : State) (n : Nat) (f : Port → Port) (h : (f (getPort s n)).state = (getPort s n).state) :
    SameWays s (modPort s n f) := by
  refine ⟨fun m => ?_, rfl⟩
  by_cases e : m = n
  · subst e; rw [getPort_modPort, h]
  · rw [getPort_modPort_ne _ _ e]

theorem portOut_sameWays (s : State) (n : Nat) (b : List Byte) : SameWays s (portOut s n b) :=
  modPort_sameWays s n (fun p => { p with owed := false }) rfl
theorem portCount_sameWays (s : State) (n c : Nat) : SameWays s (portCount s n c) := ⟨fun _ => rfl, rfl⟩
theorem take_state (p : Port) (vc n : Nat) : (p.take vc n).state = p.state := by unfold Port.take; split <;> (try split) <;> rfl
theorem queue_state (p : Port) (vc : Nat) (sl : List (List Byte)) : (p.queue vc sl).state = p.state := by
  unfold Port.queue; split <;> (try split) <;> rfl

theorem pumpVC_sameWays (n vc fuel : Nat) : ∀ s : State, SameWays s (pumpVC n vc fuel s) := by
  induction fuel with
  | zero => exact SameWays.refl
  | succ k ih =>
    intro s
    unfold pumpVC
    dsimp only
    split
    · exact .refl s
    · refine .trans ?_ (ih _)
      refine .trans ?_ (portCount_sameWays _ _ _)
      refine .trans (portOut_sameWays s n _) (modPort_sameWays (portOut s n _) n _ (take_state _ _ _))

/-- Sending a message changes no port's state and no plan. -/
theorem sendMsg_sameWays (s : State) (n vc : Nat) (m : Msg) : SameWays s (sendMsg s n vc m) := by
  refine .trans (modPort_sameWays s n (fun p => p.queue vc (msgSlots m)) (queue_state _ _ _)) ?_
  unfold sendMsg pump
  dsimp only
  exact .trans (.trans (pumpVC_sameWays _ _ _ _) (pumpVC_sameWays _ _ _ _)) (pumpVC_sameWays _ _ _ _)

/-- A write to a chip whose route is one active port is issued whole, at any offset. -/
theorem peerWrite_issued (n part chip : Nat) (w : WriteFor) (hn : n < 14) (fuel : Nat) : ∀ (s : State) (off : Nat) (bs : List Byte),
    routeOf s chip = n → (getPort s n).state = .active → (peerWrite fuel s part chip off bs w).2 = true := by
  induction fuel with
  | zero => intros; rfl
  | succ k ih =>
    intro s off bs hr ha
    unfold peerWrite
    dsimp only
    split
    · rfl
    · have hp : ∀ o, routePort s chip o = (some n, false) := by intro o; unfold routePort; simp only [hr, hn, if_true]
      unfold peerIssue
      simp only [hp, ha, true_or, if_true]
      have hs := sendMsg_sameWays (modFab s (fun f => { f with
        accs := f.accs ++ [⟨pickTag s (s.fab.accs.length + s.fab.dead.length + 1) s.fab.nextTag, chip, n, false, part,
          min (4096 - off % 4096) bs.length, s.tick, none, some w⟩]
        nextTag := (pickTag s (s.fab.accs.length + s.fab.dead.length + 1) s.fab.nextTag + 1) % 65536 })) n 0
      refine ih _ _ _ ?_ ?_
      · unfold routeOf at hr ⊢; rw [(hs _).2]; exact hr
      · rw [(hs _).1]; exact ha

end Sys2Proof.Machine
end

