-- ==== Sys2Proof/Laws/Stream.lean ====
section
/-! SUPPORT. Laws of the stream engines: an instruction that may run takes its effect, keeps to its frame, and what a run of
scratchpad writes leaves. -/

namespace Sys2Proof.Machine

/-! ### Frames -/

theorem coreOnly_modCore (s : State) (n : Nat) (f : Core → Core) : CoreOnly s (modCore s n f) n :=
  ⟨rfl, fun _ h => getCore_modCore_ne _ _ h⟩

theorem coreOnly_trans {s t u : State} {n : Nat} (h : CoreOnly s t n) (k : CoreOnly t u n) : CoreOnly s u n :=
  ⟨by rw [k.1, h.1], fun m hm => (k.2 m hm).trans (h.2 m hm)⟩

/-- An update of one engine keeps to the frame of that engine. -/
theorem seFrame_modSE (s : State) (n e : Nat) (f : SE → SE) : SeFrame s (modSE s n e f) n e :=
  ⟨coreOnly_modCore s n (fun c => { c with se := SSet {} c.se e (f (getSE s n e)) }), by unfold modSE setSE; simp, fun _ h => getSE_modSE_ne _ _ _ h⟩

theorem seFrame_trans {s t u : State} {n e : Nat} (h : SeFrame s t n e) (k : SeFrame t u n e) : SeFrame s u n e :=
  ⟨coreOnly_trans h.1 k.1, by rw [k.2.1, h.2.1], fun j hj => (k.2.2 j hj).trans (h.2.2 j hj)⟩

theorem seFrame_seMoved (s : State) (n e : Nat) (f : SE → SE) : SeFrame s (seMoved (modSE s n e f) n e) n e :=
  seFrame_trans (seFrame_modSE _ _ _ _) (seFrame_modSE _ _ _ _)

@[simp] theorem getSE_seMoved (s : State) (n e : Nat) :
    getSE (seMoved s n e) n e = { getSE s n e with lastProg := s.tick, watched := false } := getSE_modSE _ _ _ _

/-! ### One instruction -/

theorem seOk_of {n e : Nat} (hn : n < 4096) (he : e < 4) : seOk n e = true := by simp [seOk, hn, he]

/-- A legal instruction that the engine may run takes its effect. -/
theorem seRun_at {s : State} {n e opc w : Nat} (h : SeAt s n e opc w) (f : Nat → State → State) : seRun opc n e f s = f w s := by
  obtain ⟨_, _, hr, rfl, hl, ho⟩ := h
  simp only [seRun, hr, hl, ho, Bool.not_true, Bool.false_eq_true, if_false, ne_eq, not_true_eq_false]

theorem onSe_at {s : State} {n e opc w : Nat} (h : SeAt s n e opc w) (f : Nat → State → State) :
    onUnit (seOk n e) (seRun opc n e f s) = .next (f w s) := by
  rw [seRun_at h, onUnit, if_pos (seOk_of h.1 h.2.1)]

/-- An instruction on the engine's own registers. -/
theorem sePure_at {s : State} {n e opc w : Nat} (h : SeAt s n e opc w) (f : Nat → SE → SE) :
    ∃ t, sePure opc n e f s = .next t ∧ SeFrame s t n e ∧
      getSE t n e = { f w { getSE s n e with pc := (getSE s n e).pc + 1 } with lastProg := s.tick, watched := false } :=
  ⟨_, onSe_at h _, seFrame_seMoved _ _ _ _, by simp; rfl⟩

/-- An illegal word stops the engine whichever instruction is asked for. -/
theorem onSe_illegal {s : State} {n e : Nat} (hn : n < 4096) (he : e < 4) (hr : seReady s n e = true)
    (hl : sLegal s n (getSE s n e) (SGet 0#64 (getSE s n e).prog (getSE s n e).pc).toNat = false) (opc : Nat) (f : Nat → State → State) :
    onUnit (seOk n e) (seRun opc n e f s) = .next (seFault s n e 1 0x0205) := by
  simp only [onUnit, seOk_of hn he, seRun, hr, hl]
  rfl

/-- A transfer that starts. -/
theorem getSE_addXfer (s : State) (n e : Nat) (x : Xfer) :
    getSE (addXfer s n e x) n e = { (getSE s n e).past s.tick with xfers := (getSE s n e).xfers ++ [x] } := by
  simp [addXfer, SE.past]; rfl

theorem seFrame_addXfer (s : State) (n e : Nat) (x : Xfer) : SeFrame s (addXfer s n e x) n e := seFrame_seMoved _ _ _ _

/-! ### Scratchpad words -/

@[simp] theorem spad_spadPut (c : Core) (a v : Nat) : (spadPut c a v).spad = SSet 0#32 c.spad a (BitVec.ofNat 32 v) := by
  unfold spadPut; dsimp only; split <;> (try split) <;> rfl

theorem spadGet_spadPuts_ne (a : Nat) : ∀ (l : List (Nat × Nat)) (c : Core), (∀ x ∈ l, x.1 ≠ a) → spadGet (spadPuts c l) a = spadGet c a
  | [], _, _ => rfl
  | (b, v) :: r, c, h => by
    rw [spadPuts, spadGet_spadPuts_ne a r _ (fun x hx => h x (List.mem_cons_of_mem _ hx))]
    simp only [spadGet, spad_spadPut]
    rw [SGet_SSet_ne _ _ _ (Ne.symm (h _ (List.mem_cons_self ..)))]

/-- The word that the only write to its address leaves. -/
theorem spadGet_spadPuts_at (a v : Nat) : ∀ (l : List (Nat × Nat)) (c : Core), (a, v) ∈ l → (∀ x ∈ l, x.1 = a → x.2 = v) →
    spadGet (spadPuts c l) a = v % 2 ^ 32
  | (b, u) :: r, c, hm, h => by
    rw [spadPuts]
    by_cases hr : (a, v) ∈ r
    · exact spadGet_spadPuts_at a v r _ hr (fun x hx => h x (List.mem_cons_of_mem _ hx))
    · have hb : (a, v) = (b, u) := by simpa [hr] using hm
      obtain ⟨rfl, rfl⟩ := Prod.mk.injEq .. ▸ hb
      rw [spadGet_spadPuts_ne a r]
      · simp [spadGet]
      · intro x hx hxa
        have := h x (List.mem_cons_of_mem _ hx) hxa
        exact hr (by rw [← hxa, ← this]; exact hx)

/-! ### Local memory -/

theorem bytes_cacheAccess (s : State) (w : Bool) (ch off n : Nat) : (cacheAccess s w ch off n).mem.bytes = s.mem.bytes :=
  cacheAccess_bytes s w ch off n

/-- A run of operations that each touch local memory only. -/
theorem foldl_rest {α : Type} (g : State → α → State) (hg : ∀ s x, g s x = { s with mem := (g s x).mem }) (l : List α) (s : State) :
    l.foldl g s = { s with mem := (l.foldl g s).mem } := by
  induction l generalizing s with
  | nil => rfl
  | cons x xs ih => rw [List.foldl_cons, ih, hg]

theorem targeted_rest (s : State) (b r : Nat) : targeted s b r = { s with mem := (targeted s b r).mem } := by
  unfold targeted
  dsimp only
  split <;> rfl

theorem activate_rest (s : State) (off : Nat) : activate s off = { s with mem := (activate s off).mem } := by
  unfold activate
  dsimp only
  split
  · rfl
  · rw [targeted_rest]; rfl

theorem lineAccess_rest (w : Bool) (ch : Nat) (s : State) (o : Nat) :
    lineAccess w ch s o = { s with mem := (lineAccess w ch s o).mem } := by
  unfold lineAccess
  split
  · rw [foldl_rest _ activate_rest]; rfl
  · split
    · exact activate_rest s o
    · rfl

/-- A cache access touches local memory only. -/
theorem cacheAccess_rest (s : State) (w : Bool) (ch off n : Nat) : cacheAccess s w ch off n = { s with mem := (cacheAccess s w ch off n).mem } :=
  foldl_rest _ (lineAccess_rest w ch) _ s

end Sys2Proof.Machine
end

