-- ==== Sys2Proof/Laws/Vector.lean ====
section
/-! SUPPORT. Reads of tile registers and row flags after the writes of a vector instruction. -/

namespace Sys2Proof.Machine

/-! ### Packed elements -/

theorem packElems_lt (w : Nat) (xs : List Nat) : packElems w xs < 2 ^ (w * xs.length) := by
  induction xs with
  | nil => simp [packElems]
  | cons x xs ih =>
    have h1 : x % 2 ^ w < 2 ^ w := Nat.mod_lt _ (Nat.two_pow_pos w)
    have h2 : 2 ^ (w * (x :: xs).length) = 2 ^ w * 2 ^ (w * xs.length) := by
      rw [← Nat.pow_add]; congr 1; simp [Nat.mul_add]; omega
    rw [packElems, h2]
    calc x % 2 ^ w + 2 ^ w * packElems w xs < 2 ^ w + 2 ^ w * packElems w xs := by omega
      _ = 2 ^ w * (packElems w xs + 1) := by ring
      _ ≤ 2 ^ w * 2 ^ (w * xs.length) := Nat.mul_le_mul_left _ ih

/-- Element `i` of packed elements is the `i`-th, to its width. -/
theorem bits_packElems (w : Nat) (xs : List Nat) : ∀ (i : Nat) (h : i < xs.length),
    bits (packElems w xs) (i * w) w = xs[i] % 2 ^ w := by
  induction xs with
  | nil => intro i h; simp at h
  | cons x xs ih =>
    intro i h
    have hp : 0 < 2 ^ w := Nat.two_pow_pos w
    cases i with
    | zero => simp [bits, packElems]
    | succ i =>
      have hd : packElems w (x :: xs) / 2 ^ w = packElems w xs := by
        rw [packElems, Nat.add_mul_div_left _ _ hp, Nat.div_eq_of_lt (Nat.mod_lt _ hp), Nat.zero_add]
      have he : (i + 1) * w = w + i * w := by ring
      have := ih i (by simpa using h)
      rw [bits, he, Nat.pow_add, ← Nat.div_div_eq_div_mul, hd]
      simpa [bits] using this

/-! ### Tile registers -/

set_option exponentiation.threshold 10000 in
theorem t_setT_self (c : Core) (n v : Nat) (h : v < 2 ^ 8192) : (setT c n v).t n = v := by
  rw [setT, Core.t, SGet_SSet_self, BitVec.toNat_ofNat, Nat.mod_eq_of_lt h]

theorem t_setT_ne (c : Core) (v : Nat) {n m : Nat} (h : m ≠ n) : (setT c n v).t m = c.t m := by
  rw [setT, Core.t, SGet_SSet_ne _ _ _ h, Core.t]

@[simp] theorem t_setRowF (c : Core) (n r f m) : (setRowF c n r f).t m = c.t m := rfl
@[simp] theorem rowF_setT (c : Core) (n v m r) : (setT c n v).rowF m r = c.rowF m r := rfl

theorem rowF_setRowF (c : Core) (n r f m r') (hr : r < 32) (hr' : r' < 32) :
    (setRowF c n r f).rowF m r' = if m = n ∧ r' = r then f else c.rowF m r' := by
  unfold setRowF Core.rowF
  split
  · rename_i h; rw [h.1, h.2]; exact SGet_SSet_self _ _ _ _
  · rename_i h; exact SGet_SSet_ne _ _ _ (by omega)

/-- Flags written to rows `r0 + r` for each `r` of a list. -/
theorem t_rows (g : Nat → Flg) (n r0 m : Nat) (l : List Nat) : ∀ c : Core,
    (l.foldl (fun c r => setRowF c n (r0 + r) (g r)) c).t m = c.t m := by
  induction l with
  | nil => intro c; rfl
  | cons x xs ih => intro c; rw [List.foldl_cons, ih, t_setRowF]

theorem rowF_rows (g : Nat → Flg) (n r0 m r' k : Nat) (hr' : r' < 32) (hk : r0 + k ≤ 32) : ∀ c : Core,
    ((List.range k).foldl (fun c r => setRowF c n (r0 + r) (g r)) c).rowF m r' =
      if m = n ∧ r0 ≤ r' ∧ r' < r0 + k then g (r' - r0) else c.rowF m r' := by
  induction k with
  | zero =>
    intro c
    rw [if_neg (by omega)]
    rfl
  | succ k ih =>
    intro c
    rw [List.range_succ, List.foldl_append, List.foldl_cons, List.foldl_nil, rowF_setRowF _ _ _ _ _ _ (by omega) hr', ih (by omega)]
    by_cases h : m = n
    · subst h
      by_cases h1 : r' = r0 + k
      · subst h1; simp
      · by_cases h2 : r0 ≤ r' ∧ r' < r0 + k
        · simp [h1, h2, show r' < r0 + (k + 1) by omega]
        · have : ¬ (r0 ≤ r' ∧ r' < r0 + (k + 1)) := by omega
          simp [h1, h2, this]
    · simp [h]

/-- Everything of a core but its tile registers and row flags. -/
def Core.rest (c : Core) : Core := { c with tregs := [], rowFlg := [] }

theorem rest_rows (g : Nat → Flg) (n r0 : Nat) (l : List Nat) : ∀ c : Core,
    (l.foldl (fun c r => setRowF c n (r0 + r) (g r)) c).rest = c.rest := by
  induction l with
  | nil => intro c; rfl
  | cons x xs ih => intro c; rw [List.foldl_cons, ih]; rfl

theorem rest_setT (c : Core) (n v) : (setT c n v).rest = c.rest := rfl

/-! ### A whole register -/

theorem rest_putElems (c : Core) (n w es) : (putElems c n w es).rest = c.rest := by
  have := rest_rows (fun r => rowJoin w r es) n 0 (List.range 32) (setT c n (packElems w (es.map (·.1))))
  simpa [putElems, rest_setT] using this

theorem t_putElems_ne (c : Core) (w es) {n m : Nat} (h : m ≠ n) : (putElems c n w es).t m = c.t m := by
  have := t_rows (fun r => rowJoin w r es) n 0 m (List.range 32) (setT c n (packElems w (es.map (·.1))))
  rw [t_setT_ne _ _ h] at this
  simpa [putElems] using this

theorem rowF_putElems (c : Core) (n w es m r) (hr : r < 32) :
    (putElems c n w es).rowF m r = if m = n then rowJoin w r es else c.rowF m r := by
  have := rowF_rows (fun r => rowJoin w r es) n 0 m r 32 hr (by omega) (setT c n (packElems w (es.map (·.1))))
  simp only [Nat.zero_add, Nat.zero_le, hr, and_true, Nat.sub_zero, rowF_setT] at this
  exact this

/-- Element `k` of a register written whole. -/
theorem el_putElems (c : Core) (n w : Nat) (es : List (Nat × Flg)) (k : Nat) (hk : k < es.length) (hl : w * es.length = 8192) :
    (putElems c n w es).el n w k = es[k].1 % 2 ^ w := by
  have ht := t_rows (fun r => rowJoin w r es) n 0 n (List.range 32) (setT c n (packElems w (es.map (·.1))))
  have hlt : packElems w (es.map (·.1)) < 2 ^ 8192 := by
    have := packElems_lt w (es.map (·.1))
    rwa [List.length_map, hl] at this
  rw [t_setT_self _ _ _ hlt] at ht
  have hp : (putElems c n w es).t n = packElems w (es.map (·.1)) := by simpa [putElems] using ht
  rw [Core.el, hp, bits_packElems _ _ _ (by simpa using hk)]
  simp

/-! ### Element-wise instructions -/

/-- Element `k` of an element-wise result. -/
theorem el_ewise (c : Core) (n w : Nat) (src : Nat → List Nat) (f : Nat → Nat × Flg) (hw : w ∣ 8192) (k : Nat) (hk : k < 8192 / w) :
    (ewise c n w src f).el n w k = (f k).1 % 2 ^ w := by
  have hl : w * (8192 / w) = 8192 := Nat.mul_div_cancel' hw
  unfold ewise
  rw [el_putElems _ _ _ _ k (by simpa using hk) (by simpa using hl), List.getElem_map, List.getElem_range]

theorem t_ewise_ne (c : Core) (w src f) {n m : Nat} (h : m ≠ n) : (ewise c n w src f).t m = c.t m := t_putElems_ne _ _ _ h
theorem rest_ewise (c : Core) (n w src f) : (ewise c n w src f).rest = c.rest := rest_putElems _ _ _ _
theorem rowF_ewise_ne (c : Core) (w src f) {n m r : Nat} (h : m ≠ n) (hr : r < 32) : (ewise c n w src f).rowF m r = c.rowF m r := by
  unfold ewise; rw [rowF_putElems _ _ _ _ _ _ hr, if_neg h]

/-- Flags joined over a list that all equal `g`. -/
theorem foldl_or_const {α : Type} (g : Flg) (h : α → Flg) (l : List α) (hg : ∀ x ∈ l, h x = g) :
    ∀ a : Flg, l.foldl (fun f e => f ||| h e) a = if l = [] then a else a ||| g := by
  induction l with
  | nil => intro a; rfl
  | cons x xs ih =>
    intro a
    rw [List.foldl_cons, ih (fun y hy => hg y (List.mem_cons_of_mem _ hy)), hg x List.mem_cons_self]
    by_cases he : xs = []
    · simp [he]
    · simp [he, BitVec.or_assoc]

/-- The flags of a row of an element-wise result whose operation raises none: those of its source rows. -/
theorem rowF_ewise (c : Core) (n w : Nat) (src : List Nat) (f : Nat → Nat × Flg) (hf : ∀ k, (f k).2 = 0) (hw : w ∣ 256) (hw0 : 0 < w)
    (r : Nat) (hr : r < 32) :
    (ewise c n w (fun _ => src) f).rowF n r = src.foldl (fun fl x => fl ||| c.rowF x r) 0 := by
  obtain ⟨q, hq⟩ := hw
  have hq0 : 0 < q := by rcases Nat.eq_zero_or_pos q with h | h; · simp [h] at hq
                         · exact h
  have h1 : 256 / w = q := by rw [hq]; exact Nat.mul_div_cancel_left _ hw0
  have h2 : 8192 / w = 32 * q := by
    rw [show 8192 = w * (32 * q) by rw [show w * (32 * q) = 32 * (w * q) by ring, ← hq]]
    exact Nat.mul_div_cancel_left _ hw0
  unfold ewise
  rw [rowF_putElems _ _ _ _ _ _ hr, if_pos rfl]
  unfold rowJoin
  rw [foldl_or_const (src.foldl (fun fl x => fl ||| c.rowF x r) 0) (fun e : Nat × Flg => e.2)]
  · rw [if_neg]
    · simp
    · rw [h1, h2, ← ne_eq, ← List.length_pos_iff]
      simp only [List.length_take, List.length_drop, List.length_map, List.length_range]
      have : r * q + q ≤ 32 * q := by
        calc r * q + q = (r + 1) * q := by ring
          _ ≤ 32 * q := Nat.mul_le_mul_right _ hr
      omega
  · intro e he
    rw [h1, h2] at he
    obtain ⟨i, hi, rfl⟩ := List.mem_iff_getElem.mp he
    simp only [List.length_take, List.length_drop, List.length_map, List.length_range] at hi
    rw [List.getElem_take, List.getElem_drop, List.getElem_map, List.getElem_range]
    simp only [hf]
    have : (r * q + i) * w / 256 = r := by
      have hi' : i < q := by omega
      have h3 : i * w < 256 := by rw [hq, Nat.mul_comm]; exact Nat.mul_lt_mul_of_pos_left hi' hw0
      have h4 : r * q * w = r * 256 := by rw [hq]; ring
      rw [Nat.add_mul, h4]; omega
    rw [this]

/-! ### Width-changing instructions (R138) -/

theorem rest_vConv (w f x) (c : Core) : (vConv w f x c).rest = c.rest := by
  unfold vConv
  simp only [rest_rows, rest_setT]

theorem t_vConv_ne (w f x) (c : Core) {m : Nat} (h : m ≠ vTD w) : (vConv w f x c).t m = c.t m := by
  unfold vConv
  simp only [t_rows, t_setT_ne _ _ h]

theorem el_lt (c : Core) (n w k : Nat) : c.el n w k < 2 ^ w := bits_lt _ _ _

set_option exponentiation.threshold 10000 in
theorem t_lt (c : Core) (n : Nat) : c.t n < 2 ^ 8192 := (SGet 0#8192 c.tregs n).isLt

set_option exponentiation.threshold 10000 in
/-- The target register of a width-changing instruction: its part of the register is written, the rest stays. -/
theorem t_vConv (w f x) (c : Core) (hp : bits w 0 3 < partsOf (vFmt w) (vFmtD w)) :
    ∃ es : List Nat, es.length = 8192 / max (vFmt w).width (vFmtD w).width ∧
      (∀ (i : Nat) (h : i < es.length), es[i] = (f (c.el (vTA w) (vFmt w).width
        ((if (vFmt w).width < (vFmtD w).width then bits w 0 3 * (8192 / max (vFmt w).width (vFmtD w).width) else 0) + i))).1) ∧
      (vConv w f x c).t (vTD w) = putBits (c.t (vTD w))
        ((if (vFmtD w).width < (vFmt w).width then bits w 0 3 * (8192 / max (vFmt w).width (vFmtD w).width) else 0) * (vFmtD w).width)
        (8192 / max (vFmt w).width (vFmtD w).width * (vFmtD w).width) (packElems (vFmtD w).width es) := by
  refine ⟨(List.range (8192 / max (vFmt w).width (vFmtD w).width)).map (fun i => (f (c.el (vTA w) (vFmt w).width
    ((if (vFmt w).width < (vFmtD w).width then bits w 0 3 * (8192 / max (vFmt w).width (vFmtD w).width) else 0) + i))).1),
    by simp, by simp, ?_⟩
  unfold vConv
  simp only [t_rows]
  rw [t_setT_self]
  · simp [Function.comp_def]
  · refine putBits_lt _ _ _ _ _ (t_lt c _) ?_
    have hd : (vFmtD w).width ∈ [4, 8, 16, 32] := by cases vFmtD w <;> simp [Fmt.width]
    have ha : (vFmt w).width ∈ [4, 8, 16, 32] := by cases vFmt w <;> simp [Fmt.width]
    unfold partsOf at hp
    generalize (vFmtD w).width = d at *
    generalize (vFmt w).width = a at *
    simp only [List.mem_cons, List.not_mem_nil, or_false] at hd ha
    rcases hd with rfl | rfl | rfl | rfl <;> rcases ha with rfl | rfl | rfl | rfl <;> simp at hp ⊢ <;> omega

/-! ### One instruction -/

/-- The state in which an instruction takes effect: its core has moved past it. -/
def pastState (s : State) (n : Nat) : State := modCore s n Core.past

@[simp] theorem getCore_pastState (s : State) (n : Nat) : getCore (pastState s n) n = (getCore s n).past := getCore_modCore _ _ _

theorem coreMode_pastState (s : State) (n : Nat) : coreMode (pastState s n) n = coreMode s n := rfl

/-- A legal instruction that the engine may run takes its effect. -/
theorem vecRun_at {s : State} {n opc w : Nat} (h : VecAt s n opc w) (f : Nat → State → State) :
    vecRun opc n f s = f w (pastState s n) := by
  obtain ⟨_, hr, rfl, hl, ho⟩ := h
  unfold vecRun
  simp only [hr, hl, ho, Bool.not_true, Bool.false_eq_true, if_false, ne_eq, not_true_eq_false]
  rfl

theorem vecPure_at {s : State} {n opc w : Nat} (h : VecAt s n opc w) (f : Mode → Nat → Core → Core) :
    vecPure opc n f s = .next (modCore (pastState s n) n (f (coreMode s n) w)) := by
  unfold vecPure onUnit coreOk
  rw [vecRun_at h, decide_eq_true h.1, if_pos rfl, coreMode_pastState]

theorem vecArith_at {s : State} {n opc w : Nat} (h : VecAt s n opc w) (bad : Bool) (f : Mode → Nat → Core → Core) :
    vecArith opc n bad f s = .next (if bad then reportError (modCore (pastState s n) n (f (coreMode s n) w)) utCore 0x01 n 0
      else modCore (pastState s n) n (f (coreMode s n) w)) := by
  unfold vecArith onUnit coreOk
  rw [vecRun_at h, decide_eq_true h.1, if_pos rfl, coreMode_pastState]

/-- What an instruction does to its core is all it does. -/
theorem coreOnly_at (s : State) (n : Nat) (g : Core → Core) : CoreOnly s (modCore (pastState s n) n g) n :=
  ⟨rfl, fun m hm => by rw [getCore_modCore_ne _ _ hm, pastState, getCore_modCore_ne _ _ hm]⟩

theorem getCore_at (s : State) (n : Nat) (g : Core → Core) : getCore (modCore (pastState s n) n g) n = g (getCore s n).past := by
  rw [getCore_modCore, getCore_pastState]

/-- An instruction that writes one register keeps to its frame. -/
theorem vecFrame_at (s : State) (n d : Nat) (g : Core → Core) (h1 : ∀ c, (g c).rest = c.rest) (h2 : ∀ c m, m ≠ d → (g c).t m = c.t m)
    (h3 : ∀ c m r, m ≠ d → r < 32 → (g c).rowF m r = c.rowF m r) : VecFrame s (modCore (pastState s n) n g) n d := by
  refine ⟨coreOnly_at s n g, ?_, ?_, ?_⟩
  · rw [getCore_at]
    have := h1 (getCore s n).past
    unfold Core.rest at this
    rw [Core.mk.injEq] at this ⊢
    simp_all
  · intro m hm; rw [getCore_at, h2 _ _ hm]; rfl
  · intro m r hm hr; rw [getCore_at, h3 _ _ _ hm hr]; rfl

/-- An element-wise instruction keeps to its frame. -/
theorem vecFrame_ewise (s : State) (n d w : Nat) (src : Core → Nat → List Nat) (f : Core → Nat → Nat × Flg) :
    VecFrame s (modCore (pastState s n) n (fun c => ewise c d w (src c) (f c))) n d :=
  vecFrame_at s n d _ (fun _ => rest_ewise _ _ _ _ _) (fun _ _ h => t_ewise_ne _ _ _ _ h) (fun _ _ _ h hr => rowF_ewise_ne _ _ _ _ h hr)

end Sys2Proof.Machine
end

