-- ==== Sys2Proof/Tests/Slice0.lean ====
section
/-! SUPPORT. Tests of the model: terms that WellFormed refuses, witnesses that the hypotheses of the statements can be met, and
small values worked out by hand from the manual. -/

namespace Sys2Proof.Tests

set_option Elab.async false

open Sys2Proof.Machine

/-! ### Small states -/

/-- The state after reset with one cell at row 0, column 0. -/
def withCell (c : Cell) : State := setCell State.reset 0 0 c
/-- With core 0 as given. -/
def withCore (c : Core) : State := setCore State.reset 0 c
/-- With one message under way on the Tin network. -/
def withTin (m : Tin) : State := tinSend State.reset m
/-- With the Cobalt core of sector 0 as given. -/
def withCob (c : Cobalt) : State := modCob State.reset 0 (fun _ => c)

/-- The next state of an outcome that answers one, and whether an outcome is a fault. -/
def nextOf (o : Host.Outcome State Fault Refusal) : Option State := match o with | .next t => some t | _ => none
def faults (o : Host.Outcome State Fault Refusal) : Bool := match o with | .fault _ => true | _ => false

/-! ### Ill-formed terms -/

theorem test_wf_cell : (Instr.macFiring 1024 0 false).wf = false := by decide
theorem test_wf_side : (Instr.handshakeAnomaly 0 0 4).wf = false := by decide
theorem test_wf_core : (Instr.vmov 4096).wf = false := by decide
theorem test_wf_se : (Instr.snop 0 4).wf = false := by decide
theorem test_wf_sector : (Instr.sectorLoad 64).wf = false := by decide
theorem test_wf_endpoint : (Instr.notice 0 0x1105 false).wf = false := by decide
theorem test_wf_group : (Instr.maintenanceWindow 48).wf = false := by decide
theorem test_wf_sub : (Instr.periodicRefresh 384 0).wf = false := by decide
theorem test_wf_bank : (Instr.rfmRequest 0 32).wf = false := by decide
theorem test_wf_local : (Instr.tier1ReadLate (48 * 2 ^ 36)).wf = false := by decide
theorem test_wf_sram : (Instr.sramScrub 4 48 0 0).wf = false := by decide
theorem test_wf_lane : (Instr.opticalBiasCalibration 0 8).wf = false := by decide
theorem test_wf_port : (Instr.ident 16).wf = false := by decide
theorem test_wf_fn : (Instr.fence 17).wf = false := by decide
theorem test_wf_part : (Instr.epochSeal 16).wf = false := by decide
theorem test_wf_channel : (Instr.mbpop 0 32).wf = false := by decide
theorem test_wf_space : (Instr.registerWrite 2 1 0 0).wf = false := by decide
theorem test_wf_vector : (Instr.msixVectorUnmask 0 64).wf = false := by decide
theorem test_wf_pf_is_no_vf : (Instr.vfFlr 0).wf = false := by decide
theorem test_wf_rail : (Instr.railStartFail 212).wf = false := by decide
theorem test_wf_domain : (Instr.droopTrip 113).wf = false := by decide
theorem test_wf_set : (Instr.sampleTick 0 4 []).wf = false := by decide
theorem test_illFormed_stops : faults (exec (.ident 16) State.reset) = true := by decide +kernel
/-- The table gives its rows no bits. -/
theorem test_no_word_spells_a_command : decodeTableWord 32 0 = none := by decide

/-! ### Witnesses: the array -/

def dat (n : Nat) : Item := ⟨0, 0, n⟩
def ctl (n : Nat) : Item := ⟨0, 1, n⟩

def cellMac : Cell := { w1 := 1, latch := [(4, some (dat 3)), (5, some (dat 5))] }
def cellMacl : Cell := { w1 := 2, latch := [(4, some (dat 3))] }
def cellDelay : Cell := { w1 := 3, latch := [(4, some (dat 3))], delay := List.replicate 31 (dat 1) }
def cellTest : Cell := { w1 := 4, latch := [(4, some (dat 3))] }
def cellSteer (k : Nat) : Cell := { w4 := 1, latch := [(7, some (dat 3)), (9, some (ctl k))] }
def cellMerge : Cell := { w4 := 2, latch := [(8, some (dat 3)), (9, some (ctl 1))] }
def cellGate (k : Nat) : Cell := { w4 := 3, latch := [(7, some (dat 3)), (9, some (ctl k))] }
def cellRepeat (n : Nat) : Cell := { w4 := 4 + 65536 * n, latch := [(7, some (dat 3))] }
def cellCount (n : Nat) : Cell := { w4 := 5 + 65536 * n, latch := [(7, some (dat 3))] }

/-- A MAC or MACL cell that has begun an output of `k` elements of `f` bits, its output stage free or full. -/
def cellRun (op k : Nat) (full : Bool) : Cell :=
  { cellMac with w1 := op + 64, w2 := k, mac := { begun := true }, fu := if full then some (dat 1) else none }
theorem witness_CellFirings_held : isCell 1023 1023 = true ∧ coreHeld (withCell cellMac) (coreOfCell 0 0) = false ∧
    ∀ c ∈ [cellMac, cellMacl, cellDelay, cellTest, cellMerge], getCell (withCell c) 0 0 = c := by decide +kernel
theorem witness_CellFirings_mac : ∀ op ∈ [1, 2], ∀ k ∈ [2, 3], ∀ full : Bool, let c := cellRun op k full
    c.op = op ∧ c.macWait = none ∧ c.mac.begun = true ∧ SGet none c.latch 4 = some (dat 3) ∧ SGet none c.latch 5 = some (dat 5) ∧
    (dat 3).kind = 0 ∧ (dat 5).kind = 0 ∧ bit c.w1 17 = false ∧ bit c.w1 18 = false ∧ (c.fu = none ↔ full = false) ∧
    ((itemElems (Fmt.ofCode (bits c.w1 3 3)) (dat 3).pay).length = bits c.w2 0 20 ↔ k = 2) := by decide +kernel
/-- Both scales asked for and taken. -/
theorem witness_CellFirings_scaled : let c := { cellRun 1 2 false with w1 := 1 + 2 ^ 17 + 2 ^ 18, mac := { begun := true, sa := some 1, sb := some (-1) } }
    c.op = 1 ∧ bit c.w1 17 = true ∧ bit c.w1 18 = true ∧ c.mac.sa.isSome = true ∧ c.mac.sb.isSome = true := by decide +kernel
/-- An output not begun: C off, or selected with its item there; a scale item at A. -/
theorem witness_CellFirings_begin : ∀ op ∈ [1, 2], let c : Cell := { w1 := op }
    let d : Cell := { w1 := op + 4096, latch := [(6, some (dat 7))] }
    let e : Cell := { w1 := op + 2 ^ 17, latch := [(4, some ⟨0, 2, 250⟩)], mac := { begun := true } }
    c.op = op ∧ c.macWait = none ∧ c.mac.begun = false ∧ SGet none c.latch 4 = none ∧ SGet none c.latch 5 = none ∧ c.sel 6 = 0 ∧
    d.op = op ∧ d.sel 6 ≠ 0 ∧ SGet none d.latch 6 = some (dat 7) ∧ SGet none d.latch 4 = none ∧ SGet none d.latch 5 = none ∧
    e.op = op ∧ SGet none e.latch 4 = some ⟨0, 2, 250⟩ ∧ SGet none e.latch 5 = none ∧ e.mac.sa = none := by decide +kernel
theorem witness_CellFirings_delay : cellDelay.op = 3 ∧ cellDelay.fu = none ∧ cellDelay.delay.length = 31 ∧
    SGet none cellDelay.latch 4 = some (dat 3) ∧ cellDelay.delay ++ [dat 3] = dat 1 :: (List.replicate 30 (dat 1) ++ [dat 3]) ∧
    (let c := { cellDelay with fu := some (dat 2), delay := List.replicate 30 (dat 1) }; c.op = 3 ∧ c.delay.length < 31) ∧
    let c := { cellDelay with latch := [] }; SGet none c.latch 4 = none ∧ c.delay = dat 1 :: List.replicate 30 (dat 1) := by decide +kernel
theorem witness_CellFirings_test : ∀ b : Bool, let i : Item := ⟨0, 0, if b then 3 else 0⟩
    cellTest.op = 4 ∧ cellTest.fu = none ∧ SGet none ({ cellTest with latch := [(4, some i)] } : Cell).latch 4 = some i ∧ i.kind = 0 ∧
    (testCond false (Fmt.ofCode (bits cellTest.w1 3 3)) (bits cellTest.w1 19 2) (bits i.pay 0 4)).1 = b := by decide +kernel
theorem witness_CellFirings_steering : ∀ k ∈ [0, 1], (cellSteer k).skind = 1 ∧ SGet none (cellSteer k).latch 7 = some (dat 3) ∧
    SGet none (cellSteer k).latch 9 = some (ctl k) ∧ (bit (ctl k).pay 0 = true ↔ k = 1) ∧ (cellSteer k).st0 = none ∧ (cellSteer k).st1 = none ∧
    (let c : Cell := { w4 := 2, latch := [(7 + k, some (dat 3)), (9, some (ctl k))] }
     c.skind = 2 ∧ SGet none c.latch (if bit (ctl k).pay 0 then 8 else 7) = some (dat 3)) ∧
    (cellGate k).skind = 3 ∧ (bit (ctl k).pay 0 = bit (cellGate k).w4 12 ↔ k = 0) := by decide +kernel
theorem witness_CellFirings_counts : ∀ n ∈ [0, 1, 2], (cellRepeat n).skind = 4 ∧ (cellRepeat n).sel 9 = 0 ∧
    SGet none (cellRepeat n).latch 9 = none ∧ SGet none (cellRepeat n).latch 7 = some (dat 3) ∧
    (cellRepeat n).reps.getD (bits (cellRepeat n).w4 16 16) = n ∧
    (let c : Cell := { w4 := 4 + 512, latch := [(7, some (dat 3)), (9, some (ctl n))] }
     c.skind = 4 ∧ c.sel 9 ≠ 0 ∧ SGet none c.latch 9 = some (ctl n) ∧ c.reps.getD (bits (ctl n).pay 0 16) = n) ∧
    (cellCount n).skind = 5 ∧ (cellCount n).st0 = none ∧ SGet none (cellCount n).latch 7 = some (dat 3) ∧
    ({ cellCount 9 with reps := some n } : Cell).reps.getD (bits (cellCount 9).w4 16 16) = n := by decide +kernel
/-- R95: a GATE whose control item does not match POL discards both items. -/
theorem test_gate_discards : (nextOf (exec (.gateFiring 0 0) (withCell (cellGate 1)))).map (fun t => (getCell t 0 0).latch) = some [] := by
  decide +kernel
/-- R95: COUNT emits control items whose payload is 1 on all but the last. -/
theorem test_count_last : (nextOf (exec (.countFiring 0 0) (withCell (cellCount 1)))).map (fun t => (getCell t 0 0).st0) = some (some (ctl 0)) := by
  decide +kernel

/-- Function unit output 9 offered to input A, and an item at the southern lane with room at A. -/
def cellLane : Cell := { w1 := 1 + 64 * 5, fu := some (dat 9) }
def stLane : State := setCell (withCell { w1 := 1 + 64 * 1 }) 1023 0 {}
/-- An item in the stream-in FIFO of the north side of a boundary cell whose input A takes it. -/
def stPort : State := setCell (withCore { fin := [(0, [dat 9])] }) 0 0 { w0 := 4096, w1 := 1 + 64 }

theorem witness_LaneEvents_transfer : offered (withCell cellLane) 0 0 5 = some (dat 9) ∧
    coreHeld (withCell cellLane) (coreOfCell 0 0) = false ∧ (getCell (withCell cellLane) 0 0).sel 4 = 5 ∧
    bit (SGet 0 (getCell (withCell cellLane) 0 0).taken 5) 4 = false ∧
    hasRoom 0 0 cellLane 4 = true ∧ kindTaken cellLane 4 0 = true ∧ (dat 9).kind < 4 ∧ (dat 9).pay < 2 ^ 32 := by decide +kernel
/-- A pass-through lane from the north to the south, one stage free; its item at a stream port of the south side. -/
def stThrough : State := setCell (withCore { fin := [(0, [dat 9])] }) 0 0 { w0 := 4096 + 64, outs := [(2, [dat 8])] }
def stOut : State := setCell (withCore { fout := [(32, List.replicate 7 (dat 1))] }) 15 0 { w0 := 2 ^ 17 + 64, outs := [(2, [dat 8])] }
theorem witness_LaneEvents_lane : offered stThrough 0 0 1 = some (dat 9) ∧ (getCell stThrough 0 0).sel 2 = 1 ∧
    (SGet [] (getCell stThrough 0 0).outs 2).length < laneCap 0 0 (getCell stThrough 0 0) 2 ∧
    offered stOut 15 0 (2 + 8) = some (dat 8) ∧ coreHeld stOut (coreOfCell 15 0) = false ∧
    (SGet [] (getCore stOut (coreOfCell 15 0)).fout (portLane 15 0 2)).length = 7 := by decide +kernel
theorem witness_LaneEvents_anomaly : (offered stPort 0 0 1).isSome = true ∧ coreHeld stPort (coreOfCell 0 0) = false ∧
    4 ∈ (getCell stPort 0 0).consumers 1 ∧ bit (SGet 0 (getCell stPort 0 0).taken 1) 4 = false ∧
    hasRoom 0 0 (getCell stPort 0 0) 4 = true ∧
    64 ≤ SGet 0 (modEng stPort (fun e => { e with laneWait := [(0, 64)] })).eng.laneWait (8 * (1024 * 0 + 0) + 0) ∧
    (offered stOut 15 0 (6 + 4)).isSome = true := by decide +kernel
/-- R84: a lane that stands unacknowledged counts a tick; another does not. -/
theorem test_lane_wait : laneTick stPort = [(0, 1)] ∧ laneTick (withCell cellTest) = [] := by decide +kernel

/-! ### Witnesses: placements -/

/-- A placement of one sector. -/
def place0 : Placement :=
  { id := 7, part := 0, ctx := .chunk, all := false, slot := none, sect := 0, variant := 0, row := 0, col := 0, fh := 1, fw := 1
    sectors := [0], mode := 0, stallTicks := 100 }
def withPlace (p : Placement) : State := modEng State.reset (fun e => { e with places := [p] })
/-- Partition 0 of sectors 0 and 1 and memory group 0, firmware running. -/
def part0 : Part := { phase := .selected, sectors := 3, groups := 1, nslot := 2, rteq := 16, kvPages := 8 }
def withPart (P : Part) : State := modPart (modSec State.reset (fun e => { e with state := 4 })) 0 (fun _ => P)
/-- A registered image at offset 4096 with one array section of one variant of one sector, and a run of it. -/
def runPart : Part :=
  { part0 with images := [(5, some { addr := 4096, len := 4096, reg := .ok, cur := some (4096, 4096) })], runs := [{ cmd := 9, handle := 5, layer := 0, left := 1 }] }
/-- Layer section at 64 with one array section, listed at 256 and found at 512; the variant's footprint is 1 by 1 with 1 core. -/
def put (s : State) (l : List (Nat × List Byte)) : State := l.foldl (fun s e => memPut s e.1 e.2) s

def stImage : State := put (withPart runPart)
  [(4096 + 0x18, [64#8]), (4096 + 64 + 8, [1#8]), (4096 + 64 + 0x11, [1#8]), (4096 + 257, [2#8]), (4096 + 512 + 6, [1#8]),
   (4096 + 512 + 0x40, [1#8, 1#8, 1#8])]

def ciRun : CfgImg := ⟨0, none, 4096, 4096⟩
theorem witness_PlacementsOfConfigurations_place : let u := modEng stImage (fun e => { e with nextPlace := e.nextPlace + 1 })
    ctxImage stImage 0 (some 9) 0 = some (ciRun, .run 9, true) ∧ stImage.sec.state = 4 ∧ 0 < nArrays stImage ciRun ∧
    findRect u ciRun (arrayOff stImage ciRun 0) (fun n => roleSector u 0 true n && sectorFree u n) = some (0, 0, 0, [0]) := by
  decide +kernel
/-- The same image for a partition whose sectors are all occupied: the placement waits; and one that waits for them. -/
def stFull : State := modEng stImage (fun e => { e with places := [{ place0 with sectors := [0, 1], sect := 0 }] })
def wait0 : Placement := { place0 with id := 9, ctx := .run 9, all := true, base := 4096, len := 4096, sect := 512, sectors := [] }
theorem witness_PlacementsOfConfigurations_wait : let u := modEng stFull (fun e => { e with nextPlace := e.nextPlace + 1 })
    ctxImage stFull 0 (some 9) 0 = some (ciRun, .run 9, true) ∧ 0 < nArrays stFull ciRun ∧
    findRect u ciRun (arrayOff stFull ciRun 0) (fun n => roleSector u 0 true n && sectorFree u n) = none ∧
    stFull.eng.waits.any (fun x => x.id == stFull.eng.nextPlace) = false ∧
    (let s := modEng stImage (fun e => { e with waits := [wait0] })
     s.eng.waits.find? (fun x => x.id == 9) = some wait0 ∧
     findRect s (placeImg wait0) wait0.sect (fun n => roleSector s wait0.part wait0.all n && sectorFree s n) = some (0, 0, 0, [0])) := by
  decide +kernel
theorem witness_PlacementsOfConfigurations_stall : let p := { place0 with idle := 100 }
    let s := setCell (withPlace p) 0 0 cellMac
    s.eng.places.find? (fun q => q.id == 7) = some p ∧ p.stallTicks ≤ p.idle ∧ itemsPending s p = true := by decide +kernel
theorem witness_PlacementsOfConfigurations_load : isSector 63 = true ∧
    (withPlace { place0 with loading := [0] }).eng.places.find? (fun p => p.loading.contains 0 && !p.begun.contains 0) =
      some { place0 with loading := [0] } ∧
    State.reset.eng.places.find? (fun p => p.sectors.contains 63) = none ∧
    (withPlace place0).eng.places.find? (fun p => p.sectors.contains 0) = some place0 ∧
    atBoundary (withPlace place0) place0 = true ∧ place0.loading.contains 0 = false := by decide +kernel
/-- A load under way whose records lie at 1 MiB, with the CRC `c` of the sector's records in the image. -/
def placeLoad : Placement := { place0 with loading := [0], begun := [0] }
def stLoad (c : Nat) : State := modMem (withPlace placeLoad) (fun m => { m with bytes := SSetRun 0 [(0x4A, 16#8)] 0 (leBytes 4 c) })
theorem leNat_leBytes_four (n : Nat) (h : n < 2 ^ 32) : leNat (leBytes 4 n) = n := by
  simp only [leBytes, leNat, BitVec.toNat_ofNat]
  omega
theorem stLoad_above (c j : Nat) (h : 4 ≤ j) : SGet 0 (stLoad c).mem.bytes j = SGet 0 [(0x4A, 16#8)] j := by
  unfold stLoad
  exact SGet_SSetRun_ne 0 (leBytes 4 c) [(0x4A, 16#8)] 0 (.inr (by simpa [leBytes] using h))
theorem stLoad_same (c : Nat) : ∀ n k, 4 ≤ k → SGetRun 0 (stLoad c).mem.bytes k n = SGetRun 0 [(0x4A, 16#8)] k n := by
  intro n
  induction n with
  | zero => intro k _; rfl
  | succ n ih => intro k hk; rw [SGetRun, SGetRun, ih (k + 1) (by omega), stLoad_above c k hk]
theorem stLoad_run (c : Nat) : ∀ n k, 0x4A < k → SGetRun 0 (stLoad c).mem.bytes k n = zeros n := by
  intro n k hk
  rw [stLoad_same c n k (by omega)]
  clear c
  induction n generalizing k with
  | zero => rfl
  | succ n ih =>
    rw [SGetRun, ih (k + 1) (by omega), SGet, if_neg (by omega), SGet_nil]
    rfl
theorem stLoad_var (c : Nat) : varDesc (stLoad c) (placeImg placeLoad) 0 0 = zeros 10 ++ [16#8] ++ zeros 21 := by
  show SGetRun 0 (stLoad c).mem.bytes 64 32 = _
  rw [stLoad_same c 32 64 (by decide)]
  decide +kernel
theorem stLoad_crc (c : Nat) (h : c < 2 ^ 32) : ciFld (stLoad c) (placeImg placeLoad) 0 4 = c :=
  (congrArg leNat (SGetRun_SSetRun_self (0 : Byte) (leBytes 4 c) [(0x4A, 16#8)] 0)).trans (leNat_leBytes_four c h)
/-- A sector's load ends with the CRC of its image. -/
theorem witness_PlacementsOfConfigurations_loaded : ∀ rec' : List Byte, rec' = zeros 524288 → ∃ s : State, ∃ pl : Placement, ∃ v,
    s.eng.places.find? (fun p => p.loading.contains 0 && p.begun.contains 0) = some pl ∧ (firstIdx (· == 0) pl.sectors).getD 0 = 0 ∧
    v = varDesc s (placeImg pl) pl.sect pl.variant ∧ ciGet s (placeImg pl) (pl.sect + fld v 8 8 + 524288 * 0) 524288 = rec' ∧
    (crc32c rec').toNat = ciFld s (placeImg pl) (pl.sect + fld v 0x18 8 + 4 * 0) 4 ∧
    memLost s (ciLocal s (placeImg pl) (pl.sect + fld v 8 8 + 524288 * 0)) 524288 = false := by
  intro rec' h
  refine ⟨stLoad (crc32c rec').toNat, placeLoad, _, rfl, rfl, (stLoad_var _).symm, ?_, ?_, rfl⟩
  · rw [h]
    exact stLoad_run _ _ _ (by decide +kernel)
  · have k : placeLoad.sect + fld (zeros 10 ++ [16#8] ++ zeros 21) 0x18 8 + 4 * 0 = 0 := by decide +kernel
    rw [k, stLoad_crc _ (BitVec.isLt _)]

/-! ### Witnesses: a core and its endpoint -/

def tinTo (typ src dst arg : Nat) (data : List Byte) : Tin := { dst := dst, src := src, typ := typ, part := 0, arg := arg, data := data }

theorem witness_WindowDeliveries_write : ∀ x ∈ [(0, 0, 0), (0x40, 0, 1), (0xC0, 0, 2), (0x4000, 0, 3), (8, 2 ^ 30, 4), (8, 2 ^ 31, 5)], ∃ m,
    m = tinTo 1 0x1000 0 x.1 (leBytes 8 x.2.1) ∧ winHead (withTin m) 1 0x1000 0 = some m ∧ winKind m = x.2.2 ∧
    outOfService (withTin m) utCore 0 = false ∧ isCore 4095 = true := by
  intro x hx
  refine ⟨_, rfl, ?_⟩
  revert x
  decide +kernel
theorem witness_WindowDeliveries_read : winHead (withTin (tinTo 2 0x1000 0 0 [])) 2 0x1000 0 = some (tinTo 2 0x1000 0 0 []) ∧
    tinFront (withTin (tinTo 3 0 0x1000 0 (zeros 8))) true 0 0x1000 = some (tinTo 3 0 0x1000 0 (zeros 8)) ∧
    tinFront (withTin (tinTo 10 0 0x1000 0 (zeros 8))) true 0 0x1000 = some (tinTo 10 0 0x1000 0 (zeros 8)) ∧
    (getCob (withTin (tinTo 3 0 0x1000 0 (zeros 8))) 0).rxq.length < 64 := by decide +kernel
theorem witness_ControlAndDescriptorWrites : bit 0x80000003 30 = false ∧ bit 0x80000003 31 = true ∧ ({} : Core).busy = false ∧
    bit 0xC0000000 30 = true ∧ rgdCause {} 0 (putBits (1 % 2 ^ 58) 42 3 0) = none ∧
    (rgdCause {} 15 (putBits ((2 ^ 34 + 0x18000 * 2 ^ 17) % 2 ^ 58) 42 3 0)).isSome = true ∧ 15 < 16 ∧ 2 ^ 64 - 1 < 2 ^ 64 ∧ 1023 < 1024 := by
  decide +kernel
/-- R122 cause 1: a region whose limit lies above the scratchpad's last word. -/
theorem test_descriptor_limit : rgdCause {} 0 (2 ^ 34 + 0x18000 * 2 ^ 17) = some 1 := by decide +kernel
theorem witness_CobaltEndpoint : tinFront (withTin (tinTo 4 0 0x1000 1 [])) false 0 0x1000 = some (tinTo 4 0 0x1000 1 []) ∧
    tinFront (withTin (tinTo 5 0 0x1000 1 [])) false 0 0x1000 = some (tinTo 5 0 0x1000 1 []) ∧
    tinFront (withTin (tinTo 11 0x1001 0x1000 1 [])) false 0x1001 0x1000 = some (tinTo 11 0x1001 0x1000 1 []) ∧
    (getCob (withCob { run := true }) 0).busy = false ∧ txAllowed State.reset 0 (zeros 272) = false ∧
    (getCob (withCob { rxq := [tinTo 4 0 0x1000 1 []] }) 0).rxq ≠ [] ∧
    (getCob (withCob { run := true, timecmp := some 0 }) 0).timecmp = some 0 := by decide +kernel
/-- R188: a message to the hub's counter unit of 8 bytes is allowed for a sector of a partition. -/
theorem witness_CobaltEndpoint_send : txAllowed (withPart part0) 0 (leBytes 8 (0x1104 + 2 ^ 32 * 0x0B + 2 ^ 40 * 8) ++ zeros 264) = true := by
  decide +kernel

/-- A core with a tile region of one tile of 256 words at word 0 under entry 0, checked against the CRC of zeros. -/
def tileCore : Core := { rgd := [(0, BitVec.ofNat 64 (255 * 2 ^ 17 + 2 * 2 ^ 34))], checking := [0], refetch := [0]
                         tags := [(0, { crc := 4004437628, home := 0 })] }
theorem witness_TileChecks : tileOf tileCore 0 = some (0, 256) ∧ (getCore (withCore tileCore) 0).checking.contains 0 = true ∧
    memLost State.reset 0 1024 = false ∧ memWaits State.reset 0 1024 = false ∧ (∀ u ∈ [(0, 0), (255, 1)], u.2 < 2) := by decide +kernel
set_option maxRecDepth 1000000 in
/-- R125: the CRC-32C of 1,024 zero bytes. -/
theorem witness_TileChecks_crc : (crc32c (zeros 1024)).toNat = (SGet {} tileCore.tags 0).crc ∧
    spadBytes tileCore 0 256 = zeros 1024 ∧ memGet (withCore tileCore) (SGet {} tileCore.tags 0).home (4 * 256) = zeros 1024 ∧
    (SGet {} ({ tileCore with tags := [(0, {})] } : Core).tags 0).crc ≠ (crc32c (zeros 1024)).toNat := by decide +kernel

/-! ### Witnesses: the vector engine -/

/-- A core about to run the word. -/
def vecCore (w : Nat) : Core := { busy := true, vim := [(0, BitVec.ofNat 64 w)] }
/-- The next instruction of core 0 is a legal one of the opcode. -/
def vecOk (opc w : Nat) : Bool :=
  let s := withCore (vecCore (opc * 2 ^ 58 + w))
  vecReady s 0 && vLegal (getCore s 0) (SGet 0#64 (getCore s 0).vim 0).toNat && vOpc (SGet 0#64 (getCore s 0).vim 0).toNat == opc

theorem vecAt_of (opc w : Nat) (h : vecOk opc w = true) :
    VecAt (withCore (vecCore (opc * 2 ^ 58 + w))) 0 opc (SGet 0#64 (getCore (withCore (vecCore (opc * 2 ^ 58 + w))) 0).vim 0).toNat := by
  simp only [vecOk, Bool.and_eq_true, beq_iff_eq] at h
  exact ⟨by decide, h.1.1, rfl, h.1.2, h.2⟩

theorem witness_VectorMovesAndLogic : [0x03, 0x08, 0x09, 0x0A, 0x0B, 0x0C, 0x0D, 0x0E].all (fun o => vecOk o 0) = true := by decide +kernel
theorem witness_VectorArithmetic : [0x10, 0x11, 0x12, 0x13, 0x14, 0x15, 0x16, 0x17, 0x1A, 0x07].all (fun o => vecOk o 0) = true ∧
    vecOk 0x1D (3 * 2 ^ 39) = true := by decide +kernel
theorem witness_VectorConversions : vecOk 0x18 0 = true ∧ vecOk 0x19 0 = true := by decide +kernel
theorem witness_VectorSummaries : vecOk 0x1B 0 = true ∧ vecOk 0x1C 0 = true := by decide +kernel
theorem witness_VectorRegistersAndControl :
    [0x00, 0x05, 0x06, 0x20, 0x23, 0x21, 0x24].all (fun o => vecOk o 0) = true ∧ vecOk 0x04 (32 * 256 + 32) = true ∧
    vecOk 0x22 65536 = true := by decide +kernel
/-- A VWAIT whose counter stands at its value, and one that has lasted 100,000 ticks. -/
theorem witness_VectorRegistersAndControl_wait : coreHeld (withCore { busy := true, vwait := some (1, 0, 0, false) }) 0 = false ∧
    (SGet 0#16 ({} : Core).ev 1 - 0#16).toNat < 2 ^ 15 := by decide +kernel
/-- A data region of words 0 to 255 that every agent may read and write. -/
def openRegion : Dword := BitVec.ofNat 64 (255 * 2 ^ 17 + 2 ^ 34 + 63 * 2 ^ 36)
/-- Loads and stores of a region of 256 words, one row of one word each. -/
def ldCore (o : Nat) : Core := { vecCore (o * 2 ^ 58) with rgd := [(0, openRegion)], nr := 1, nb := 1 }
theorem witness_VectorLoadsAndStores : vecOk 1 0 = true ∧ vecOk 2 0 = true ∧
    firstAcc (readAcc (ldCore 1).past 38) (vldWords (ldCore 1).past (2 ^ 58)) = .ok ∧
    firstAcc (writeAcc (ldCore 2).past 39) ((vstWords (ldCore 2).past (2 * 2 ^ 58)).map (·.1)) = .ok := by decide +kernel
/-- R137: VCLZ of 0 counts the whole width, and VSETX takes NR and NB. -/
theorem test_vsetx : (nextOf (exec (.vsetx 0) (withCore (vecCore (4 * 2 ^ 58 + 7 * 256 + 5))))).map (fun t =>
    ((getCore t 0).nr, (getCore t 0).nb, (getCore t 0).vpc)) = some (5, 7, 1) := by decide +kernel
/-- R136: a reserved opcode stops the program with a fault. -/
theorem test_vector_illegal : (nextOf (exec (.vnop 0) (withCore (vecCore (0x25 * 2 ^ 58))))).map (fun t =>
    ((getCore t 0).fault, (getCore t 0).busy)) = some (true, false) := by decide +kernel

/-! ### Witnesses: the stream engines -/

def seCore (v : SE) : State := withCore { se := [(0, v)] }
def runSE (w : Nat) : SE := { state := .running, prog := [(0, BitVec.ofNat 64 w)] }
/-- The next instruction of stream engine 0 of core 0 is a legal one of the opcode. -/
def seOkB (s : State) (opc : Nat) : Bool :=
  seReady s 0 0 && sLegal s 0 (getSE s 0 0) (SGet 0#64 (getSE s 0 0).prog (getSE s 0 0).pc).toNat &&
    sOpc (SGet 0#64 (getSE s 0 0).prog (getSE s 0 0).pc).toNat == opc

theorem seAt_of (s : State) (opc : Nat) (h : seOkB s opc = true) :
    SeAt s 0 0 opc (SGet 0#64 (getSE s 0 0).prog (getSE s 0 0).pc).toNat := by
  simp only [seOkB, Bool.and_eq_true, beq_iff_eq] at h
  exact ⟨by decide, by decide, h.1.1, rfl, h.1.2, h.2⟩

theorem witness_StreamRegisterInstructions :
    [0x00, 0x01, 0x02, 0x03, 0x04, 0x05, 0x06, 0x07, 0x09].all (fun o => seOkB (seCore (runSE (o * 2 ^ 58))) o) = true ∧
    seOkB (seCore { runSE (8 * 2 ^ 58) with opens := [0], levels := [(0, { opn := true, cnt := 2 })] }) 8 = true ∧
    seOkB (seCore (runSE (0x10 * 2 ^ 58 + 8))) 0x10 = true ∧
    sLegal (seCore (runSE (0x10 * 2 ^ 58))) 0 (runSE (0x10 * 2 ^ 58)) (0x10 * 2 ^ 58) = false ∧
    fillDue (seCore (runSE (0x10 * 2 ^ 58))) 0 0 = none ∧ seReady (seCore (runSE (0x10 * 2 ^ 58))) 0 0 = true := by decide +kernel
theorem witness_StreamWaitsAndEnds : seOkB (seCore (runSE (0x0F * 2 ^ 58))) 0x0F = true ∧
    seOkB (seCore (runSE (0x11 * 2 ^ 58))) 0x11 = true ∧ seOkB (seCore (runSE (0x0E * 2 ^ 58))) 0x0E = true ∧
    coreHeld (seCore { state := .waiting }) 0 = false ∧ waitOver {} 0 0 = true ∧
    (getSE (seCore { state := .running, atEnd := true }) 0 0).xfers = [] ∧
    (getSE (setTick (seCore { state := .running }) 100000) 0 0).wdt ≤ 100000 := by decide +kernel
/-- A control message with the fields of `arg` for engine 0 of core 0. -/
def ctlMsg (b : Nat) : Tin := tinTo 9 0x1000 0 (2 ^ b) (zeros 64)
theorem witness_StreamControl : winHead (withTin (tinTo 8 0x1000 0 0 (zeros 8))) 8 0x1000 0 = some (tinTo 8 0x1000 0 0 (zeros 8)) ∧
    outOfService (tinDrop (withTin (tinTo 8 0x1000 0 0 (zeros 8))) (tinTo 8 0x1000 0 0 (zeros 8))) utCore 0 = false ∧
    (getSE State.reset 0 0).state.live = false ∧
    [8, 9, 10, 11, 12].all (fun b => seCtl (withTin (ctlMsg b)) 0x1000 0 == some (ctlMsg b) && seNext (ctlMsg b).arg == some b &&
      !outOfService (seApplied (withTin (ctlMsg b)) (ctlMsg b) [b]) utCore 0) = true := by decide +kernel
/-- A START meets a stopped engine, a live one, and a core that is held. -/
theorem witness_StreamControl_start : ∀ b : Bool, let s := modSE (withTin (ctlMsg 8)) 0 0 (fun v => { v with state := if b then .running else .done })
    let u := seApplied s (ctlMsg 8) [8]
    let h := modPow s (fun w => { w with held := [(0, 1)] })
    seCtl s 0x1000 0 = some (ctlMsg 8) ∧ coreHeld u 0 = false ∧ (getSE u 0 0).state.live = b ∧
    seCtl h 0x1000 0 = some (ctlMsg 8) ∧ coreHeld (seApplied h (ctlMsg 8) [8]) 0 = true := by decide +kernel

/-- Partition 0 of sector 0 with an engine of its core 0 that moves one element of 8 bits at local offset 0, and a region. -/
def xferSE (w : Nat) : SE := { runSE w with shape := { nrow := 1, nel := 4, mp := 0, sp := 1, fmt := .i8 }, ylim := 1, xlim := 4 }
def stXfer (w : Nat) : State := setCore (withPart part0) 0
  { rgd := [(0, openRegion)], se := [(0, xferSE w)] }
def xferOf (k : XKind) (w : Nat) : Xfer := newXfer (getSE (stXfer w) 0 0) (stXfer w).host.nextId k w
/-- A FILL keeps the descriptors in force. -/
def fillOf (w : Nat) : Xfer := { xferOf .fill w with rgd := (getCore (stXfer w) 0).rgd }
/-- An engine whose transfers have a read outstanding, or none. -/
theorem witness_StreamControl_aborted : ∀ k ∈ [0, 4], let v : SE := { runSE 0 with xfers := [{ xferOf .fill 0 with out := k }] }
    v.state = .running ∧ v.outst = k ∧ (getSE (seCore { v with state := .aborting }) 0 0).state = .aborting ∧
    (getSE (seCore { v with state := .aborting }) 0 0).outst = k := by decide +kernel

def fillW : Nat := 0x0A * 2 ^ 58
def drainW : Nat := 0x0B * 2 ^ 58
theorem witness_StreamTransfersStart : let s := stXfer fillW
    let x := fillOf fillW
    seOkB s 0x0A = true ∧ fillDue s 0 0 = none ∧ hostStopped s 0 x = false ∧ rowsPermitted s 0 x false = true ∧
    runsWait s (xferRuns s 0 x) = false ∧ layerBegun s 0 = true ∧ tier1 s 0 x = true ∧ (getSE s 0 0).xfers = [] ∧
    x.piece 0 = some (0, 4) ∧ firstAcc (writeAcc (getCore s 0) 37) (x.words (fun _ => ceilDiv x.shape.rowBytes 4)) = .ok ∧
    ({ x with ylim := 0 } : Xfer).piece 0 = none := by decide +kernel
/-- A FILL under way of two rows of 4 bytes, its first read back. -/
def fillGo : Xfer := { fillOf fillW with shape := { nrow := 2, nel := 4, mp := 1, sp := 1, fmt := .i8 }, ylim := 2, bytes := 4 }
theorem witness_StreamTransfersStart_next : let s := modSE (stXfer fillW) 0 0 (fun v => { v with xfers := [fillGo] })
    fillDue s 0 0 = some fillGo ∧ hostStopped s 0 fillGo = false ∧ runsWait s (xferRuns s 0 fillGo) = false ∧ tier1 s 0 fillGo = true ∧
    fillGo.out = 0 ∧ findXfer s 0 0 fillGo.id = some fillGo ∧ (fillGo.piece 4).isSome = true ∧ (getSE s 0 0).outst < 16384 := by decide +kernel
theorem witness_StreamTransfersStart_drain : let s := stXfer drainW
    let x := xferOf .drain drainW
    seOkB s 0x0B = true ∧ hostStopped s 0 x = false ∧ rowsPermitted s 0 x true = true ∧ gSpace x.m ≠ 1 ∧ runsWait s (xferRuns s 0 x) = false ∧
    x.rows = [0] ∧ localOf s (partOfCore s 0) (imgSlotOf s 0) (x.rowAddr 0) = some 0 ∧
    firstAcc (readAcc (getCore s 0) 36) (x.words (fun r => ceilDiv (x.inBytes r) 4)) = .ok := by decide +kernel
/-- The same engine at an address of group 1, which is not its partition's. -/
def stBadAddr (w : Nat) : State := modSE (stXfer w) 0 0 (fun v => { v with m := 2 ^ 36 })
theorem witness_StreamTransfersStart_denied :
    rowsPermitted (stBadAddr fillW) 0 (newXfer (getSE (stBadAddr fillW) 0 0) 0 .fill fillW) false = false ∧
    rowsPermitted (stBadAddr drainW) 0 (newXfer (getSE (stBadAddr drainW) 0 0) 0 .drain drainW) true = false ∧
    seOkB (stBadAddr fillW) 0x0A = true ∧ seOkB (stBadAddr drainW) 0x0B = true := by decide +kernel

/-- A FEED or COLLECT of lane 0 on the north side of core 0, about to start or under way. -/
def feedW : Nat := 0x0C * 2 ^ 58 + 2 ^ 32
def collectW : Nat := 0x0D * 2 ^ 58 + 2 ^ 32
def stFeed (w : Nat) (xs : List Xfer) : State := modCore (modSE (setCell (stXfer w) 0 0 { w0 := 3 * 2 ^ 12 }) 0 0
  (fun v => { v with xfers := xs })) 0 (fun c => { c with fout := [(0, [dat 9])] })
theorem witness_StreamPorts_start : seOkB (stFeed feedW []) 0x0C = true ∧
    movable (stFeed feedW []) 0 0 .feed (feedLanes (stFeed feedW []) 0 0) = none ∧ seOkB (stFeed collectW []) 0x0D = true ∧
    movable (stFeed collectW []) 0 0 .collect (collectLanes (stFeed collectW []) 0 0) = none := by decide +kernel
theorem witness_StreamPorts_move :
    movable (stFeed feedW [xferOf .feed feedW]) 0 0 .feed (feedLanes (stFeed feedW [xferOf .feed feedW]) 0 0) = some (xferOf .feed feedW) ∧
    firstAcc (readAcc (getCore (stFeed feedW []) 0) 36) ((feedLanes (stFeed feedW []) 0 0 (xferOf .feed feedW)).map (·.2)) = .ok ∧
    movable (stFeed collectW [xferOf .collect collectW]) 0 0 .collect (collectLanes (stFeed collectW [xferOf .collect collectW]) 0 0) =
      some (xferOf .collect collectW) ∧
    firstAcc (writeAcc (getCore (stFeed collectW []) 0) 37) ((collectLanes (stFeed collectW []) 0 0 (xferOf .collect collectW)).map (·.2)) = .ok ∧
    SGet [] (getCore (stFeed collectW []) 0).fout (16 * 0 + 0) = dat 9 :: [] := by decide +kernel
/-- A transfer of each kind that is complete. -/
def doneOf (k : XKind) : Xfer := { xferOf k (match k with | .feed => feedW | .collect => collectW | _ => fillW) with bytes := 4, beats := [(0, 1)] }
theorem witness_StreamCompletion : ∀ k ∈ [XKind.fill, .drain, .sig, .feed, .collect], let x := doneOf k
    let s := modCore (stFeed fillW [x]) 0 (fun c => { c with fout := [] })
    findXfer s 0 0 x.id = some x ∧ (getSE s 0 0).state = .running ∧ x.fin = false ∧ xferComplete s 0 0 x = true ∧
    (k = .fill → tier1 s 0 x = true) ∧ (x.kind = .fill ↔ k = .fill) ∧ (x.kind = .collect ↔ k = .collect) := by decide +kernel
/-- The rows of a FILL: its words, and its bytes of tier 1 and of tier 2. -/
theorem witness_StreamCompletion_rows : let x := doneOf .fill
    fillData (stXfer fillW) 0 x = [(0, zeros 4)] ∧ 0 < ceilDiv x.shape.rowBytes 4 ∧ ceilDiv x.shape.rowBytes 4 ≤ x.shape.sp ∧ 0 < x.shape.nrow ∧
    tier1 (stXfer fillW) 0 x = true ∧ tier1 (stXfer fillW) 0 { x with m := 2 ^ 48 } = false := by decide +kernel
theorem witness_StreamCompletion_signals : ∀ b : Bool, (getSE (stFeed fillW [{ xferOf .sig fillW with fin := b }]) 0 0).xfers =
    { xferOf .sig fillW with fin := b } :: [] := by decide +kernel
theorem witness_StreamCompletion_lost : let x := doneOf .fill
    let s := lostRow (stFeed fillW [x]) 0
    fillLost s 0 x = some 0 ∧ findXfer s 0 0 x.id = some x ∧ tier1 s 0 x = true ∧ x.fin = false ∧
    sliceServes (modEng State.reset (fun e => { e with away := [(utSlice, 47)] })) 47 = false := by decide +kernel

/-! ### Witnesses: counters and layers -/

/-- A counter operation of core 3 on counter 0 from Cobalt core 0, in partition 0. -/
def cntMsg (op : Nat) : Tin := { dst := 0x1104, src := 0x1000, typ := 6, part := 0, arg := op + 3 * 2 ^ 20 }
def ctr0 : Ctr := { part := 0, tr := 1, tc := 1, probs := [⟨2, 2, 2, false⟩] }
def withCtr (op : Nat) (c : Ctr) : State := tinSend (setCtr (withPart part0) 0 (some c)) (cntMsg op)
theorem witness_CounterOperations_heads : ∀ op ∈ [2, 3, 4, 5, 6], cntHead (withCtr op ctr0) op 0x1000 = some (cntMsg op) ∧
    getCtr (withCtr op ctr0) 0 = some ctr0 ∧ argCore (cntMsg op) ∉ ctr0.gone ∧ coreClaims (tinDrop (withCtr op ctr0) (cntMsg op)) 3 = 0 := by
  decide +kernel
theorem witness_CounterOperations_claims : ctr0.waiting = [] ∧ ctr0.reissue = [] ∧ ctr0.next < tileCount ctr0.probs ∧ ctr0.ledger = [] ∧
    tileCount ctr0.probs ≤ ({ ctr0 with next := 4 } : Ctr).next ∧ ({ ctr0 with ledger := [⟨0, 3, []⟩] } : Ctr).ledger ≠ [] ∧
    2 ≤ coreClaims (tinDrop (withCtr 2 { ctr0 with ledger := [⟨0, 3, []⟩, ⟨1, 3, []⟩] }) (cntMsg 2)) (argCore (cntMsg 2)) ∧
    argCore (cntMsg 2) ∈ ({ ctr0 with gone := [3] } : Ctr).gone ∧ ({ ctr0 with waiting := [(4, 0x1000, 0)] } : Ctr).waiting ≠ [] := by
  decide +kernel
/-- A CREATE of a single problem of 2 by 2, tiles of 1 by 1. -/
def createMsg : Tin := { cntMsg 1 with data := zeros 8 ++ leBytes 4 2 ++ leBytes 4 2 ++ zeros 4 ++ leBytes 2 1 ++ leBytes 2 1 ++ zeros 8 }
theorem witness_CounterOperations_create : cntHead (tinSend (withPart { part0 with cntq := 1 }) createMsg) 1 0x1000 = some createMsg ∧
    getCtr (tinSend (withPart { part0 with cntq := 1 }) createMsg) 0 = none ∧
    (getPart (tinSend (withPart { part0 with cntq := 1 }) createMsg) 0).cntq = 1 ∧
    listUnread (tinSend (withPart { part0 with cntq := 1 }) createMsg) 0 createMsg.data = false ∧
    tileCount (createProbs (withPart part0) 0 createMsg.data) < 2 ^ 32 ∧ fld createMsg.data 0x14 2 ≠ 0 ∧ fld createMsg.data 0x16 2 ≠ 0 := by
  decide +kernel
theorem witness_CounterOperations_held : getCtr (withCtr 5 { ctr0 with waiting := [(3, 0x1000, 0)] }) 0 =
      some { ctr0 with waiting := [(3, 0x1000, 0)] } ∧
    (tinFront (withTin (tinTo 7 0x1104 0x1000 0 [])) true 0x1104 0x1000).isSome = true := by decide +kernel
/-- R203, R207: the first CLAIM of a counter issues value 0, of the first tile. -/
theorem test_first_claim : (nextOf (exec (.cntClaim 0x1000 false) (withCtr 2 ctr0))).map (fun t =>
    t.eng.tin.map (fun m => (m.dst, m.arg, m.data))) = some [(0x1000, 0, zeros 16)] := by decide +kernel
theorem test_first_claim_ledger : (nextOf (exec (.cntClaim 0x1000 false) (withCtr 2 ctr0))).map (fun t =>
    (getCtr t 0).map (·.ledger)) = some (some [⟨0, 3, []⟩]) := by decide +kernel
/-- R202: QUERY answers issued, retired, outstanding and waiting. -/
theorem test_query : queryBytes { ctr0 with next := 3, retired := 1, ledger := [⟨1, 0, []⟩], reissue := [2] } =
    leBytes 4 3 ++ leBytes 4 1 ++ leBytes 4 1 ++ leBytes 4 1 := by decide

/-- A layer descriptor: MATMUL of 32 by 32 by 32 in i8, row tags constant, A at the given address. -/
def layerBytes (a : Nat) : List Byte :=
  [1#8, 1#8, 64#8, 0#8] ++ zeros 4 ++ leBytes 4 32 ++ leBytes 4 32 ++ leBytes 4 32 ++ zeros 4 ++ leBytes 8 a ++ leBytes 8 0x20000 ++
    zeros 8 ++ leBytes 8 0x30000 ++ leBytes 4 128 ++ leBytes 4 128 ++ zeros 4 ++ leBytes 4 128 ++ zeros 48
/-- The image of stImage with one layer, loaded for its run. -/
def stLayer (a : Nat) : State := modSec (modEng (put stImage [(4096 + 64 + 6, [1#8]), (4096 + 128, layerBytes a)])
  (fun e => { e with places := [{ place0 with ctx := .run 9, base := 4096, sect := 512, len := 4096 }] })) (fun e => { e with state := 4 })
theorem witness_LayersOfRuns_start : ctxImage (stLayer 0x10000) 0 (some 9) 0 = some (ciRun, .run 9, true) ∧
    serving (stLayer 0x10000) = true ∧ groupLen (stLayer 0x10000) ciRun 8 0 = 1 ∧ layerDue (stLayer 0x10000) 0 (.run 9) 0 ciRun 0 = true ∧
    0 < nLayers (stLayer 0x10000) ciRun ∧ (leadSector (stLayer 0x10000) 0).isSome = true ∧ getCtr (stLayer 0x10000) 0 = none ∧
    (stLayer 0x10000).eng.layers = [] ∧ unread (stLayer 0x10000) 0 none (layerReads (stLayer 0x10000) ciRun 0 1) = [] := by decide +kernel
theorem witness_LayersOfRuns_checks : (layerPlace (stLayer 0x10000) ciRun (.run 9) 0).map (·.id) = some 7 ∧
    noSectors (stLayer 0x10000) ciRun true 0 = false ∧
    copperLayer (true && Ctx.run 9 == .step) (layerAt (stLayer 0x10000) ciRun 0) = false ∧
    runCheck (stLayer 0x10000) ciRun 0 1 64 = .ok 32 32 [⟨1, 1, 32, false⟩] ∧
    runCheck (stLayer (2 ^ 36)) ciRun 0 1 64 = .fail { status := 0x0316, layer := 0 } := by decide +kernel
/-- A decode image of the selected model whose one layer reads its weights from the model image: Copper computes it. -/
def stCopper : State := put (withPart { part0 with slots := [(0, some ⟨0x400000, zeros 64, [0x400000], false, .ok, []⟩)], sel := some 0,
                                                   serving := some 0, step := some { rows := [{ rte := 0 }], start := 0 } })
  [(0x400000 + 6, [1#8]), (0x400080, leBytes 8 0x1000 ++ leBytes 8 0x2000 ++ [2#8]), (0x401018, [64#8]), (0x401046, [1#8]), (0x401048, [1#8]),
   (0x401051, [1#8]), (0x401101, [2#8]), (0x401206, [1#8]), (0x401240, [1#8, 1#8, 1#8]), (0x401080, (layerBytes 0x10000).take 32 ++
     leBytes 8 (3 * 2 ^ 48 + 0x10000) ++ (layerBytes 0x10000).drop 40)]
def ciCop : CfgImg := ⟨0, some 0, 0x1000, 0x2000⟩
theorem witness_LayersOfRuns_copper : ctxImage stCopper 0 none 0 = some (ciCop, .step, true) ∧ layerDue stCopper 0 .step 0 ciCop 0 = true ∧
    0 < nLayers stCopper ciCop ∧ copperLayer (true && Ctx.step == .step) (layerAt stCopper ciCop 0) = true ∧
    noSectors stCopper ciCop true 0 = false ∧ layerPlace stCopper ciCop .step 0 = none ∧
    unread stCopper 0 (some 0) (layerReads stCopper ciCop 0 (groupLen stCopper ciCop 8 0)) = [] ∧
    runCheck stCopper ciCop 0 (groupLen stCopper ciCop 8 0) 1 = .ok 32 32 [⟨1, 1, 32, false⟩] := by decide +kernel
theorem witness_LayersOfRuns_rows : localOf (withPart part0) 0 none 0x30000 = some 0x30000 ∧
    permitted (withPart part0) 0 none true 0x30000 4 = true ∧ (0x30000 + 4 ≤ 0x30004) ∧
    (let l := layerOf (layerBytes 0x10000); l.m = 32 ∧ l.kind = 1 ∧ l.seq = 0) := by decide +kernel
def stLayerRun : State := setCtr (modEng (stLayer 0x10000) (fun e => { e with layers := [⟨0, some 9, 0, 0, 1, 0⟩] })) 0 (some { ctr0 with retired := 4 })
theorem witness_LayersOfRuns_complete : ctxImage stLayerRun 0 (some 9) 0 = some (ciRun, .run 9, true) ∧
    copperLayer (true && Ctx.run 9 == .step) (layerAt stLayerRun ciRun 0) = false ∧ getCtr stLayerRun 0 = some { ctr0 with retired := 4 } ∧
    tileCount ctr0.probs ≤ 4 ∧ drainsDone stLayerRun 0 (.run 9) = true ∧ programsDone stLayerRun 0 (.run 9) = true ∧
    noReports stLayerRun 0 = true ∧ serving stLayerRun = true := by decide +kernel
/-- RETIRE of a tile that has no drain, and of one whose rows a DRAIN still writes. -/
def drain0 : Xfer := { xferOf .drain 0 with m := 0x30000, ylim := 1, xlim := 4, shape := { nrow := 1, nel := 4 } }
def stRetire (b : Bool) : State := tinSend (setCtr (setCore stLayerRun 3 (if b then { se := [(0, { xfers := [drain0] })] } else {})) 0
  (some { ctr0 with tr := 32, tc := 32, probs := [⟨1, 1, 32, false⟩], next := 1, ledger := [⟨0, 3, []⟩] })) (cntMsg 3)
theorem witness_CounterOperations_retire : ∀ b : Bool, cntHead (stRetire b) 3 0x1000 = some (cntMsg 3) ∧
    ((getCtr (stRetire b) 0).map (fun c => (c.part, c.gone, c.ledger.find? (fun x => x.val == bits (cntMsg 3).arg 32 32 && x.core == argCore (cntMsg 3)),
      tileDraining (tinDrop (stRetire b) (cntMsg 3)) 3 (tileOfCtr (tinDrop (stRetire b) (cntMsg 3)) 0 c 0)))) =
      some (0, [], some ⟨0, 3, []⟩, b) := by decide +kernel
/-! ### Witnesses: requests -/

/-- A model image in one segment: kvtok 1, one plane, 2 token ids, i8 logits, a context of 16, and two configuration images of one layer, of
roles PREFILL and DECODE. -/
def slot0 : Slot := { imgLen := 0x400000, digest := zeros 64, segs := [0x400000], mirror := false, reg := .ok }
def modelPart : Part := { part0 with slots := [(0, some slot0)], sel := some 0, serving := some 0 }
def req0 : Rte := { part := 0, model := 0, steer := 0xFFFF, fn := 1, sq := 1, seq := 0, cid := 0, cq := 1, sring := 1, limit := 4
                    hosttag := 0, seed := 0, nprompt := 1, prompt := 0x10000, kvRows := 4, resv := 4, order := 0, samp := zeros 16
                    stopset := leBytes 4 0xFFFFFFFF ++ zeros 268, dyn0 := { state := .open } }
def withReq (P : Part) (q : Rte) : State := setRte (put (withPart P) [(0x400006, [2#8]), (0x400014, leBytes 2 1), (0x400019, [1#8]),
  (0x40001A, leBytes 2 1), (0x40001C, leBytes 4 2), (0x400020, leBytes 4 16), (0x400024, leBytes 2 1),
  (0x400080, leBytes 8 0x2000 ++ leBytes 8 0x1000 ++ [1#8] ++ zeros 15 ++ leBytes 8 0x3000 ++ leBytes 8 0x1000 ++ [2#8]),
  (0x402018, [64#8]), (0x402046, [1#8]), (0x403018, [64#8]), (0x403046, [1#8])]) 0 (some q)
theorem witness_PrefillOfRequests_prompt : ∀ b : Bool, let s := withReq modelPart { req0 with prompt := if b then 0x10000 else 2 ^ 36 }
    getRte s 0 = some { req0 with prompt := if b then 0x10000 else 2 ^ 36 } ∧ serving s = true ∧ (dynOf s req0).state = .open ∧
    req0.ids = none ∧ req0.err = none ∧ s.host.reads = [] ∧ permitted s 0 none false (if b then 0x10000 else 2 ^ 36) 4 = b ∧
    localOf s 0 none 0x10000 = some 0x10000 ∧ memLost s 0x10000 4 = false ∧ (hdrOf s slot0).v = 2 ∧ selSlot s 0 = some slot0 := by decide +kernel
theorem witness_PrefillOfRequests_hostPrompt : let s := modFn (withReq modelPart { req0 with prompt := 2 ^ 48 }) 1 (fun f => { f with enabled := true })
    serving s = true ∧ permitted s 0 none false (2 ^ 48) 4 = true ∧ gSpace (2 ^ 48) = 1 ∧
    [2, 0].any (fun i => decide ((hdrOf s slot0).v ≤ i)) = true ∧ [1, 0].any (fun i => decide ((hdrOf s slot0).v ≤ i)) = false := by decide +kernel
theorem witness_PrefillOfRequests_start : let s := withReq modelPart { req0 with ids := some [1] }
    selSlot s 0 = some slot0 ∧ s.power.tstop = false ∧ nextPrefill s 0 = some 0 ∧ pacedReady s 0 = true ∧ (getPart s 0).chunk = none ∧
    (getPart s 0).runs = [] ∧ (dynOf s { req0 with ids := some [1] }).prefilled + 1 ≤ req0.nprompt ∧ slot0.damaged = [] ∧
    (unmapped (hdrOf s slot0) { req0 with ids := some [1] } 0).length = 1 ∧ [0x20000].all (pageFree s 0) = true := by decide +kernel
def chunk0 : Chunk := { rte := 0, first := 0, count := 1, start := 0, ran := [(0, 1)] }
/-- A chunk whose one layer is complete, and one whose layer is not. -/
theorem witness_PrefillOfRequests_commit : ∀ b : Bool,
    let s := withReq { modelPart with chunk := some (if b then chunk0 else { chunk0 with ran := [] }) } req0
    (getPart s 0).chunk = some (if b then chunk0 else { chunk0 with ran := [] }) ∧ serving s = true ∧ noReports s 0 = true ∧
    horizonAt s 0 s.tick = true ∧ (getPart s 0).halves = [] ∧ chunkRan s 0 (if b then chunk0 else { chunk0 with ran := [] }) = b ∧
    s.power.paced = false ∧ s.power.departed = none ∧ s.power.ecmode ≠ 1 ∧ (validDyn (getPart s 0).cw req0).state ≠ .closing ∧
    selSlot s 0 = some slot0 := by decide +kernel
/-- A request in DECODE with one token's step in progress. -/
def reqDec : Rte := { req0 with ids := some [1], dyn0 := { state := .decode, prefilled := 1 } }
theorem witness_DecodeSteps_start : let s := withReq modelPart reqDec
    selSlot s 0 = some slot0 ∧ serving s = true ∧ (getPart s 0).serving = some 0 ∧ pacedReady s 0 = true ∧ s.power.tstop = false ∧
    batchOf s 0 = [0] ∧ (getPart s 0).step = none ∧ [(0, 0)] = stepNeeds s (hdrOf s slot0) [0] ∧ [0x20000].all (pageFree s 0) = true ∧
    batchOf (withPart modelPart) 0 = [] := by decide +kernel
def step0 : DStep := { rows := [{ rte := 0 }], start := 0, ran := [(1, 1)], logits := [(0, 0x30001)] }
/-- A step whose layer is complete with its logits row, and one with neither. -/
theorem witness_DecodeSteps_output : ∀ b : Bool,
    let s := withReq { modelPart with step := some (if b then step0 else { step0 with ran := [], logits := [] }) } reqDec
    (getPart s 0).step = some (if b then step0 else { step0 with ran := [], logits := [] }) ∧ selSlot s 0 = some slot0 ∧ serving s = true ∧
    step0.tout = none ∧ (getPart s 0).halves = [] ∧
    stepReady s 0 (if b then step0 else { step0 with ran := [], logits := [] }) = b := by decide +kernel
theorem witness_DecodeSteps_commit : ∀ k : Bool, let s := withReq { modelPart with step := some { step0 with
      rows := [{ rte := 0, token := some 1 }], tout := some 0 } } { reqDec with dyn0 := { state := if k then .decode else .closing } }
    (getPart s 0).step.bind (·.tout) = some 0 ∧ serving s = true ∧ noReports s 0 = true ∧ horizonAt s 0 0 = true ∧ (getPart s 0).halves = [] ∧
    s.power.paced = false ∧ s.power.departed = none ∧ s.power.ecmode ≠ 1 ∧ selSlot s 0 = some slot0 ∧
    ((validDyn (getPart s 0).cw (((getRte s 0)).getD req0)).state = .closing ↔ k = false) := by decide +kernel
/-- A row of logits with a NaN in f16, and one without. -/
theorem witness_StopMatching : [0x7E00, 0].any (Fmt.isNanCode (Fmt.ofCode 6)) = true ∧ [0, 1].any (Fmt.isNanCode (Fmt.ofCode 6)) = false := by
  decide
/-- R228: the order of the conditions: a token that ends a sequence of length 1 at the token limit stops with STOP_SEQUENCE. -/
theorem test_stop_order : stopOf { req0 with limit := 1, stopset := leBytes 4 0xFFFFFFFF ++ [1#8, 0#8, 0#8, 0#8, 1#8] ++ zeros 7 ++ leBytes 4 7 }
    16 0 7 = 2 ∧ stopOf { req0 with limit := 1 } 16 0 7 = 3 ∧ stopOf { req0 with limit := 9 } 1 0 7 = 4 ∧ stopOf { req0 with limit := 9 } 9 0 7 = 0 := by
  decide +kernel
theorem witness_CommitsRaiseTheCommitWord : let q := { req0 with dyn1 := { csn := 5 } }
    (q.dyn0.csn ≤ 3 ∨ q.dyn1.csn ≤ 3) ∧ q.dyn0.csn ≠ q.dyn1.csn ∧ 3 < ({ csn := 4 } : Dyn).csn ∧ (q.dyn1.csn ≤ 5 ∧ q.dyn0.csn < q.dyn1.csn) ∧
    (q.dyn0.csn ≤ 3 ∧ 3 < q.dyn1.csn) ∧ State.reset.power.pfwAt = none ∧
    (modPow State.reset (fun w => { w with pfwAt := some 0 })).power.pfwAt.isSome = true := by decide

/-- Function 1 with partition 0, the link up, and a ring. -/
def withRing (r : Ring) (P : Part) : State := modHost (withPart P) (fun h => { h with
  dlActive := true, fns := [(1, { enabled := true })], rings := [r] })
def ringS : Ring := { kind := .stream, fn := 1, id := 1, base := 4096, lg := 4, db := 3 }
theorem witness_QueueEngineWrites_entry : let s := setRte (withRing ringS part0) 0 (some { req0 with ents := [⟨7, 0, false, 1⟩] })
    findRing s .stream 1 1 = some ringS ∧ mayWrite s 1 = true ∧ ringS.room = true ∧
    (getRte s 0).map (·.ents) = some [⟨7, 0, false, 1⟩] ∧
    entryFirst s 0 { req0 with ents := [⟨7, 0, false, 1⟩] } ⟨7, 0, false, 1⟩ = true := by decide +kernel
def comp0 : Comp := { fn := 1, sq := 1, seq := 0, cid := 5, status := 0 }
def withComp : State := modHost (withRing { ringS with kind := .comp } part0) (fun h => { h with
  comps := [comp0], rings := h.rings ++ [{ ringS with kind := .sub, cq := 1, db := 4 }] })
theorem witness_QueueEngineWrites_completion : findRing withComp .comp 1 1 = some { ringS with kind := .comp } ∧
    nextComp withComp 1 1 { ringS with kind := .comp } = some comp0 ∧
    mayWrite withComp 1 = true ∧ compRoom { ringS with kind := .comp } comp0 = true := by decide +kernel
theorem witness_QueueEngineWrites_record :
    let s := withRing { ringS with kind := .record, id := 0 } { part0 with held := [(zeros 192, none)] }
    (getPart s 0).held = (zeros 192, none) :: [] ∧ findRing s .record 1 0 = some { ringS with kind := .record, id := 0 } ∧
    mayWrite s 1 = true := by decide +kernel
/-- R302, R305: the completion entry's CID and PHASE lie in its last doubleword. -/
theorem test_completion_bytes : (nextOf (exec (.completionWrite 1 1) withComp)).map (fun t => t.host.writes.map (·.addr)) =
    some [4096, 4104] := by decide +kernel
/-- A steering set of 64 bytes with one direction and no layer. -/
def steerBytes : List Byte := leBytes 4 0x52454554 ++ leBytes 2 1 ++ leBytes 2 0 ++ leBytes 2 1 ++ [5#8] ++ zeros 53
def bindCmd (b : List Byte) : Cmd :=
  { id := 9, d := { fn := 1, sq := 1, seq := 0, tick := 0, raw := leBytes 1 0x12 ++ zeros 31 ++ leBytes 4 64 ++ zeros 28 }, ph := .running, buf := b }
theorem witness_QueueEngineWrites_bind : let s := modHost (withPart modelPart) (fun h => { h with cmds := [bindCmd steerBytes] })
    findCmd s 9 = some (bindCmd steerBytes) ∧ serving s = true ∧ (bindCmd steerBytes).buf.length = fld (bindCmd steerBytes).d.raw 0x20 4 ∧
    steerOk steerBytes = true ∧ steerOk (zeros 64) = false ∧ roomFor s 0 64 = true ∧ rangeFree s 0 (holdings s 0) 0x10000 64 = true := by
  decide +kernel

/-! ### Witnesses: expert exchange -/

/-- The model image with one expert layer of 2 experts, window 64, one expert per token, rows of 1 element in i8, results in f16, TEXCH 100 and
XLIMIT 1,000, every expert at chip 0, partition 0; its router is layer 0 of the DECODE image, with D at 0x30000, and its LIST layer is layer 1
of the PREFILL image, of one problem whose list lies at the address given. -/
def withExpertsAt (a : Nat) (P : Part) (q : Rte) : State := put (withReq P q) [(0x400030, leBytes 8 0x1000), (0x401006, leBytes 2 1),
  (0x401008, leBytes 4 2), (0x40100C, leBytes 2 64), (0x401010, leBytes 8 0x80), (0x401042, [1#8, 0#8, 1#8]), (0x401045, [1#8, 0#8, 1#8]),
  (0x401048, leBytes 4 1), (0x40104C, leBytes 4 100), (0x401050, leBytes 4 1000), (0x401054, leBytes 2 1), (0x401056, [BitVec.ofNat 8 (1 + 8 * 6)]),
  (0x403080, [1#8, 8#8, 64#8] ++ zeros 5 ++ leBytes 4 1 ++ leBytes 4 2 ++ zeros 32 ++ leBytes 8 0x30000),
  (0x402100, [2#8] ++ zeros 0x5F ++ leBytes 8 a ++ zeros 4 ++ leBytes 4 1)]
def withExperts : Part → Rte → State := withExpertsAt 0x50000
def xs0 : State := withExperts { modelPart with step := some step0 } reqDec
/-- A dispatch of a half whose activation rows are those of the router's layer and whose output row lies at 0x32000: where firmware has them
is a free value (log entries 45 and 48). -/
theorem witness_ExpertExchange_dispatch (hin : Config.expertIn slot0.digest 0 = 0) (hout : Config.expertOut 0 0 false 0 = 0x32000) :
    nxlOf xs0 0 = 1 ∧ batchRows xs0 0 0 false = [(0, 0)] ∧ halfOf 1 0 = (0, 1) ∧ ctxRows xs0 0 .step = [(0, 0, 1)] ∧
    (numbered 0 [(0, 0, 1)]).mapM (fun e => rowAts xs0 0 slot0 (hdrOf xs0 slot0) 0 false e.1 e.2) = some [(0x30000, 0x30000, 0x32000)] ∧
    serving xs0 = true ∧ (getPart xs0 0).step.bind (·.tout) = none ∧ findHalf xs0 0 (halfKey false 0 0 0) = none ∧
    halfJoined (getPart xs0 0) false (halfKey false 0 0 0) = false ∧
    ctxLayerDone xs0 0 false (imgFld xs0 slot0 (xrecOff (hdrOf xs0 slot0) 0) 2) = true ∧
    ctxLayerDone xs0 0 false (Config.expertIn slot0.digest 0) = true ∧ routable xs0 0 0 false 0 0 = true ∧
    [(0x30000, 0x30000, 0x32000)].all (fun r => localOk xs0 0 r.1 (4 * (xpar xs0 slot0 (hdrOf xs0 slot0) 0).nexp) && localOk xs0 0 r.2.1 1 &&
      localOk xs0 0 r.2.2 (4 * xDim xs0 slot0 (hdrOf xs0 slot0) 0)) = true := by
  have h : rowAts xs0 0 slot0 (hdrOf xs0 slot0) 0 false 0 (0, 0, 1) = some (0x30000, 0x30000, 0x32000) := by
    unfold rowAts
    rw [hin, hout]
    decide +kernel
  refine ⟨by decide +kernel, by decide +kernel, by decide +kernel, by decide +kernel, ?_, by decide +kernel, by decide +kernel,
    by decide +kernel, by decide +kernel, by decide +kernel, ?_, by decide +kernel, by decide +kernel⟩
  · simp [numbered, h]
  · rw [hin]
    decide +kernel
theorem witness_ExpertExchange_jobs : let x := routeRow slot0 (hdrOf xs0 slot0) 0 0 false 0 0 0 0x30000 0x32000 xs0
    jobsOf x.1 slot0 (hdrOf xs0 slot0) 0 [x.2] = [{ chip := 0, hpart := 0, rows := [(0, 0)] }] ∧ holderBusy xs0 0 0 0 0 = false := by
  decide +kernel
def xrow0 : XRow := ⟨0, 0, 0x32000, [0], [0]⟩
/-- A half whose one job has a RESULT header of the status and a result row. -/
def xjob (st : Nat) : XJob := { chip := 0, hpart := 0, rows := [(0, 0)], headed := true
                                got := [(64, zeros 32), (0, xHeader 2 0 0 st 0 0 0 (if st = 0 then 1 else 0) 1 0 (zeros 16))] }
def xhalf (st : Nat) : XHalf := { xl := 0, half := 0, pos0 := 0, attempt := 0, start := 0, jobs := [xjob st], rows := [xrow0], chunk := false }
def withHalf (h : XHalf) : State := withExperts { modelPart with step := some step0, halves := [h] } reqDec
theorem witness_ExpertExchange_result : ∀ st ∈ [0, 3, 5],
    (getPart (withHalf (xhalf st)) 0).halves.find? (fun h => h.xl == 0 && h.half == 0 && (answeredJob h 0).isSome) = some (xhalf st) ∧
    answeredJob (xhalf st) 0 = some (xjob st) ∧ selSlot (withHalf (xhalf st)) 0 = some slot0 ∧ serving (withHalf (xhalf st)) = true ∧
    resultFits (xhalf st) (xjob st) ((gather (xjob st).got 0 64).getD []) = decide (st ≤ 4) ∧
    fld ((gather (xjob st).got 0 64).getD []) 7 1 = st ∧ halfLimit (withHalf (xhalf st)) 0 (xhalf st) = 1000 ∧
    gather (xjob st).got 64 (rowBytes (xFmtOut (withHalf (xhalf st)) slot0 (hdrOf (withHalf (xhalf st)) slot0) 0) 1) = some (zeros 32) ∧
    fld (zeros 32) 0 2 % 2048 = 0 ∧ fld (zeros 32) 5 1 = (xhalf st).attempt % 256 ∧ 1000 < (setTick (withHalf (xhalf st)) 1001).tick := by
  decide +kernel
theorem witness_ExpertExchange_late : ∀ b : Bool, let h := { xhalf 0 with jobs := [{ xjob 0 with result := if b then some 0 else none }] }
    let s := setTick (modPow (withHalf h) (fun w => { w with paced := true })) 100
    (getPart s 0).halves.find? (fun h => h.xl == 0 && h.half == 0 && !h.late && s.tick == halfDue s 0 h) = some h ∧ serving s = true ∧
    s.power.paced = true ∧ halfComplete h = b ∧
    (let u := setTick s 1000
     serving u = true ∧ (b = false → (getPart u 0).halves.find? (fun h => h.xl == 0 && h.half == 0 && !halfComplete h &&
       decide (halfLimit u 0 h ≤ u.tick)) = some h)) := by decide +kernel
/-- A job header from partition 1 of chip 0 in the receive buffer of partition 0, and its one row. -/
def jobHead (mode : Nat) : List Byte := xHeader 1 0 0 0 0 1 0 1 1 mode (zeros 16)
def withJobAt (a : Nat) (P : Part) : State := modFab (withExpertsAt a P reqDec) (fun f => { f with
  brassIn := [⟨0, 0, 1, 0, 64, zeros 32⟩, ⟨0, 0, 1, 0, 0, jobHead 0⟩] })
def withJob : Part → State := withJobAt 0x50000
def holder0 : Part := { modelPart with xsend := [(0, 1)] }
theorem witness_ExpertExchange_arrival : let s := withJob holder0
    s.fab.brassIn.find? (fun b => b.hpart == 0 && b.chip == 0 && b.spart == 1 && b.off == 0) = some ⟨0, 0, 1, 0, 0, jobHead 0⟩ ∧ serving s = true ∧
    (judgeJob s 0 0 1 0 (jobHead 0)).1 = 0 ∧ (judgeJob s 0 0 2 0 (jobHead 0)).1 = 4 ∧ (judgeJob s 0 0 1 0 (jobHead 1)).1 = 2 ∧
    (getPart s 0).phase ≠ .absent ∧ (getPart s 0).phase ≠ .faulted ∧ (0, 1) ∈ (getPart s 0).xsend ∧ (0, 2) ∉ (getPart s 0).xsend ∧
    slotOfDigest s 0 (((jobHead 0).drop 32).take 16) = some (0, slot0) ∧ slotOfDigest s 0 [1#8] = none ∧
    (hdrOf s slot0).mode ≠ fld (jobHead 1) 24 4 := by decide +kernel
def hjob0 : HJob := { chip := 0, spart := 1, half := 0, header := jobHead 0, rows := [zeros 32] }
/-- A holder's job whose list is in tier 1, and one whose list is in host memory and has not been read. -/
theorem witness_ExpertExchange_complete : ∀ b : Bool,
    let s := modHost (withJobAt (if b then 0x50000 else 2 ^ 48) { holder0 with hjobs := [hjob0] }) (fun h => { h with
      dlActive := true, fns := [(1, { enabled := true })] })
    (getPart s 0).hjobs.find? (fun j => j.chip == 0 && j.spart == 1 && j.reply.isNone) = some hjob0 ∧ noReports s 0 = true ∧ serving s = true ∧
    slotOfDigest s 0 ((hjob0.header.drop 32).take 16) = some (0, slot0) ∧ s.host.reads = [] ∧
    unread s 0 (some 0) ((hjob0.rows.map (fun b => fld b 2 2)).eraseDups.flatMap (expertReads s 0 0 slot0 (hdrOf s slot0) 0)) =
      (if b then [] else [(2 ^ 48, 64)]) ∧ (startRead s 1 (2 ^ 48) 64 (.list 0 (2 ^ 48))).2 = true := by decide +kernel
theorem witness_CombinedHalvesWriteTheirRows : let h := { xhalf 0 with jobs := [{ xjob 0 with result := some 0, res := [zeros 32] }] }
    selSlot (withHalf h) 0 = some slot0 ∧ h.rows = [xrow0] ∧ rowLost h xrow0 = false ∧ h.chunk = false ∧
    (getPart (withHalf h) 0).step = some step0 ∧ (getPart (withHalf h) 0).halves = [h] := by decide +kernel
/-- R254: a half whose job was lost writes nothing. -/
theorem test_lost_half : memGet (combineHalf (withHalf { xhalf 0 with jobs := [{ xjob 0 with lost := true }] }) 0
    { xhalf 0 with jobs := [{ xjob 0 with lost := true }] }) 0x32000 4 = memGet (withHalf (xhalf 0)) 0x32000 4 := by decide +kernel

/-! ### Witnesses: local memory -/

/-- The next activation of row 0 of the first bank is its 256th; or its 512th has passed. -/
def hotRow (n : Nat) : State := modMem State.reset (fun m => { m with rows := [(0, [(0, n)])] })
theorem witness_LocalMemoryAndUpkeep_read : inMemory 0 = true ∧ blocked State.reset 0 = false ∧ fenced State.reset utGroup 0 = false ∧
    blocked (hotRow 512) 0 = true ∧ mirrored State.reset 0 = false ∧ mirrored State.reset (2 ^ 35) = false := by decide +kernel
theorem witness_LocalMemoryAndUpkeep_blocks : readBlock State.reset 0 [] = .clean ∧ readBlock State.reset 0 [(0, 1#8)] = .corrected (zeros 32) ∧
    readBlock (lostRow State.reset 0) 0 [] = .uncorrectable ∧ mirrored State.reset 0 = false ∧ primaryOf State.reset 0 = 0 := by decide +kernel
/-- A mirrored block whose primary, or whose copy too, cannot be corrected. -/
def withMirror : State := modMem State.reset (fun m => { m with classMap := [(0, 1)] })
set_option maxRecDepth 1000000 in
theorem witness_LocalMemoryAndUpkeep_copies : let off := 2 ^ 35
    mirrored withMirror off = true ∧ readBlock (lostRow withMirror off) off [] = .uncorrectable ∧
    readBlock (activate (lostRow withMirror off) (copyOf off)) (copyOf off) [] = .clean ∧
    readBlock (activate withMirror (copyOf off)) (copyOf off) [(0, 1#8), (1, 1#8), (2, 1#8), (3, 1#8)] = .uncorrectable := by decide +kernel
/-- Group 0 with one sector that is held, and with two free ones. -/
theorem witness_LocalMemoryAndUpkeep_held : takerHeld (modPow (withPart { part0 with sectors := 1 }) (fun w => { w with held := [(0, 9)] })) 0 = true ∧
    takerHeld (withPart part0) 0 = false ∧ 33 ≤ (32 + 1 : Nat) := by decide +kernel
/-- Group 0 of a partition in paced mode, some ticks after its interval began. -/
def pacedAt (n : Nat) : State := setTick (modPow (withPart part0) (fun w => { w with paced := true })) n
theorem witness_LocalMemoryAndUpkeep_rows : slotOpen (pacedAt 0) 0 = true ∧ slotOpen (pacedAt 16) 0 = false ∧ slotOpen State.reset 0 = true ∧
    inWindow (pacedAt 0) 0 + 4 ≤ 8 ∧ 8 < inWindow (modMem (pacedAt 0) (fun m => { m with window := [(0, (0, 8))] })) 0 + 4 ∧
    slotTick (pacedAt 0) 0 ≠ none ∧ 256 ≤ countOf 0 (activated 0 [(0, 255)]) ∧ countOf 0 (activated 0 [(0, 254)]) < 256 := by decide +kernel
theorem witness_LocalMemoryAndUpkeep_spares : sparesOf (modMem State.reset (fun m => { m with spares := [(0, 10 ^ 6)] })) (subOf 0) = 0 ∧
    sparesOf State.reset (subOf 0) ≠ 0 := by decide +kernel
theorem witness_LocalMemoryAndUpkeep_late : let s := setTick (modMem State.reset (fun m => { m with reads := [(0, 0, 0)] })) 10000
    s.mem.reads.find? (fun r => r.1 == 0 && decide (r.2.2 + 10000 ≤ s.tick)) = some (0, 0, 0) := by decide +kernel
theorem witness_LocalMemoryAndUpkeep_rest : slotOpen State.reset 47 = true ∧ State.reset.power.pg = true ∧ State.reset.power.paced = false ∧
    SGet 0 (modMem State.reset (fun m => { m with calFails := [(3, 2)] })).mem.calFails 3 = 2 ∧
    (sramUnit utCore 4095 = true ∧ sramUnit utCore 4096 = false) ∧ outOfService State.reset utCore 4095 = false ∧
    SGet [] (modMem State.reset (fun m => { m with due := [(0, [5])] })).mem.due 0 = [5] ∧ State.reset.mem.rfm = [] ∧ inWindow State.reset 0 + 4 ≤ 8 ∧
    (pacedAt 0).power.paced = true ∧ partOfGroup (pacedAt 0) 0 = some 0 ∧ (pacedAt 0).tick < (getPart (pacedAt 0) 0).ctick + 200 ∧
    fenced State.reset utGroup 0 = false ∧ blocked State.reset (3 * 2 ^ 33) = false ∧ SGet none State.reset.mem.lines 65536 = none ∧
    sramUnit utCobalt 63 = true ∧ sramUnit utCopper 383 = true ∧ sramUnit utSlice 47 = true ∧
    (SGet none (modMem State.reset (fun m => { m with lines := [(65536, some { tag := 5, dirty := true })] })).mem.lines 65536).isSome = true ∧
    40000 < lossPpm 1000 955 ∧ 50000 < lossPpm 1000 945 := by decide +kernel
/-- R273: the 256th activation of a row refreshes its neighbours at once when maintenance is open. -/
theorem test_activation_256 : countOf 0 (SGet [] (activate (hotRow 255) 0).mem.rows 0) = 0 ∧
    countOf 0 (SGet [] (activate (hotRow 254) 0).mem.rows 0) = 255 := by decide +kernel

/-! ### Witnesses: host reads and peers -/

/-- A host read of 64 bytes with one piece of `n` bytes left, issued at tick 0. -/
def read0 (n : Nat) : ORead := { id := 5, fn := 1, addr := 2 ^ 48 + 4096, len := n, issued := 0, use := .copy 9 }
def withRead (r : ORead) : State := modHost (withPart part0) (fun h => { h with dlActive := true, fns := [(1, { enabled := true })], reads := [r] })
theorem witness_HostReads : hostRead (withRead (read0 64)) 5 = some (read0 64) ∧ pieceLen (withRead (read0 64)) (read0 64) = 64 ∧
    hostRead (withRead (read0 513)) 5 = some (read0 513) ∧ pieceLen (withRead (read0 513)) (read0 513) = 512 ∧ (read0 64).host = true ∧
    (read0 64).tag = 0 ∧ (read0 64).issued + hostLimOf (withRead (read0 64)) 1 ≤ (setTick (withRead (read0 64)) 200000).tick ∧
    (withRead (read0 64)).tick < (read0 64).issued + hostLimOf (withRead (read0 64)) 2 ∧ (withRead (read0 64)).host.dlActive = true := by
  decide +kernel
theorem witness_HostReads_one : (withRead (read0 64)).host.reads = [read0 64] ∧ (withRead (read0 64)).power.pfwAt = none ∧
    (read0 64).use = .copy 9 ∧ (read0 64).len ≤ (read0 64).got.length + 64 := by decide +kernel
theorem witness_HostReads_link : let s := modSec State.reset (fun e => { e with waiting := true })
    s.power.pg = true ∧ s.power.perst = false ∧ s.sec.waiting = true ∧ s.host.dlActive = false ∧
    (s.host.reads.filter (fun r => r.host && r.tag == 0)) = [] ∧ (pfwStart State.reset).power.pfwAt.isSome = true := by decide +kernel

/-- Port 0 active with one message on a class of request or answer. -/
def withMsg0 (m : Msg) (P : Part) : State := modPort (withPart P) 0 (fun p => { p with state := .active, msgs0 := [m] })
def withMsg1 (m : Msg) (a : Option Access) : State := modFab (modPort (withPart part0) 0 (fun p => { p with state := .active, msgs1 := [m] }))
  (fun f => { f with accs := a.toList })
/-- A message of chip 3 for 32 bytes at offset 65,536. -/
def msg (mtype status : Nat) (data : List Byte) : Msg := ⟨mtype, 0, 0, 3, 0, 7, 32, 65536, status, data⟩
/-- A peer window over those bytes that chip 3 may read and write. -/
def openPart : Part := { part0 with pwin := [⟨65536, 4096, 3, 3, 0xFFFF, 3⟩] }
theorem witness_PeerRequestsAreServed : windowOpen (withMsg0 (msg 1 0 []) openPart) false 3 0 65536 32 = true ∧
    windowOpen (withMsg0 (msg 1 0 []) part0) false 3 0 65536 32 = false ∧ memLost (withMsg0 (msg 1 0 []) openPart) 65536 32 = false ∧
    memLost (lostRow (withMsg0 (msg 1 0 []) openPart) 65536) 65536 32 = true ∧
    chainTarget (withMsg0 (msg 2 0 (zeros 32)) openPart) 3 65536 32 = none ∧
    windowOpen (withMsg0 (msg 2 0 (zeros 32)) openPart) true 3 0 65536 32 = true ∧
    (getPort (withMsg0 (msg 1 0 []) openPart) 0).msgs0 = msg 1 0 [] :: [] := by decide +kernel
/-- The slice of those bytes leaves service with a line still in it. -/
def leaving (m : Msg) : State :=
  modMem (modEng (withMsg0 m openPart) (fun e => { e with away := [(utSlice, 0)] })) (fun m => { m with lines := [(0, some ⟨1, true⟩)] })
theorem witness_PeerRequestsAreServed_wait : memWaits (withMsg0 (msg 1 0 []) openPart) 65536 32 = false ∧
    memWaits (withMsg0 (msg 2 0 (zeros 32)) openPart) 65536 32 = false ∧ memWaits (leaving (msg 1 0 [])) 65536 32 = true ∧
    windowOpen (leaving (msg 1 0 [])) false 3 0 65536 32 = true ∧ writeToMem (leaving (msg 2 0 (zeros 32))) (msg 2 0 (zeros 32)) = true := by
  decide +kernel
/-- A write longer than a buffer meets no window, notice, job or result buffer, wherever firmware has the buffers. -/
def longMsg : Msg := { msg 2 0 [] with len := brassBuf + 1 }
theorem longMsg_fits (a b : Nat) : ¬ (b ≤ a ∧ a + longMsg.len ≤ b + brassBuf) := by
  have hl : longMsg.len = brassBuf + 1 := rfl
  omega
theorem witness_PeerRequestsAreServed_none : (getPort (withMsg0 longMsg part0) 0).msgs0 = longMsg :: [] ∧
    chainTarget (withMsg0 longMsg part0) longMsg.src longMsg.off longMsg.len = none ∧
    windowOpen (withMsg0 longMsg part0) true longMsg.src longMsg.spart longMsg.off longMsg.len = false ∧
    noticeTarget (withMsg0 longMsg part0) longMsg.src longMsg.off = none ∧ serveWrite (withMsg0 longMsg part0) longMsg = none := by
  have hc : chainTarget (withMsg0 longMsg part0) longMsg.src longMsg.off longMsg.len = none := by decide +kernel
  have hw : windowOpen (withMsg0 longMsg part0) true longMsg.src longMsg.spart longMsg.off longMsg.len = false := by decide +kernel
  have hn : noticeTarget (withMsg0 longMsg part0) longMsg.src longMsg.off = none := by decide +kernel
  have hj : jobBufAt (withMsg0 longMsg part0) longMsg.src longMsg.spart longMsg.off longMsg.len = none := by
    unfold jobBufAt
    simp only [List.findSome?_eq_none_iff]
    exact fun p _ h _ => if_neg (longMsg_fits _ _)
  have hr : resultBufAt (withMsg0 longMsg part0) longMsg.src longMsg.spart longMsg.off longMsg.len = none := by
    unfold resultBufAt
    simp only [List.findSome?_eq_none_iff]
    exact fun p _ h _ => if_neg (fun x => longMsg_fits _ _ x.2)
  refine ⟨rfl, hc, hw, hn, ?_⟩
  unfold serveWrite
  rw [hc]
  simp only [hw, hn, hj, hr]
  rfl
/-- A write to the first buffer of the jobs of a sender. -/
theorem witness_PeerRequestsAreServed_job (s : State) :
    jobBufAt s 3 0 (Config.jobBuf (ownChip s) 0 3 0 0) 32 = some (0, 0, 0) := by
  have h : Config.jobBuf (ownChip s) 0 3 0 0 + 32 ≤ Config.jobBuf (ownChip s) 0 3 0 0 + brassBuf := Nat.add_le_add_left (by decide) _
  simp [jobBufAt, partIds, List.range, List.range.loop, h]
/-- R278: a write into an open window stores its bytes. -/
theorem test_peer_write : (nextOf (exec (.wr 0) (withMsg0 (msg 2 0 (List.replicate 32 9#8)) openPart))).map (fun t => memGet t 65535 34) =
    some (0#8 :: List.replicate 32 9#8 ++ [0#8]) := by decide +kernel
/-- An access of 32 bytes at chip 3 with tag 7. -/
def acc0 : Access := { tag := 7, chip := 3, port := 0, stor := false, part := 0, len := 32, issued := 0 }
theorem witness_PeerAnswers : answered (withMsg1 (msg 4 0 (zeros 32)) none) (msg 4 0 (zeros 32)) = none ∧
    answered (withMsg1 (msg 5 0 []) (some { acc0 with write := some .head })) (msg 5 0 []) = some { acc0 with write := some .head } ∧
    answered (withMsg1 (msg 4 1 []) (some { acc0 with read := some 5 })) (msg 4 1 []) = some { acc0 with read := some 5 } ∧
    (getPort (withMsg1 (msg 4 0 (zeros 32)) none) 0).msgs1 = msg 4 0 (zeros 32) :: [] := by decide +kernel
/-- The read that the access serves. -/
def read1 : ORead := { read0 32 with addr := 2 * 2 ^ 48 + 3 * 2 ^ 50 + 65536, tag := 7 }
def withAnswer : State := modHost (withMsg1 (msg 4 0 (zeros 32)) (some { acc0 with read := some 5 })) (fun h => { h with reads := [read1] })
theorem witness_PeerAnswers_data : readOf withAnswer { acc0 with read := some 5 } = some read1 ∧
    (readMore (endAccess withAnswer 7 false) read1 (zeros 32)).2 = true ∧
    withAnswer.fab.accs.find? (fun a => a.tag == 7) = some { acc0 with read := some 5 } ∧
    acc0.issued + peerLimOf withAnswer 0 ≤ (setTick withAnswer (10 ^ 9)).tick ∧ withAnswer.tick < acc0.issued + peerLimOf (modPart withAnswer 0 (fun P => { P with peerlim := 1000 })) 0 := by decide +kernel

/-- A chain into slot 1, of one segment of 32 bytes at 65,536, in the middle of its chips, with one notice. -/
def chain0 (n : List (List Byte)) : Chain := { cmd := 9, id := 4, imgLen := 32, pred := 3, succ := noChip, slot := 1, mirror := false, src := 0
                                               res := none, digest := [], segs := [65536], st := [{ idx := 0 }], win := 131072, notices := n, heard := 0 }
def chainNote (kind attempt crc reason : Nat) : List Byte :=
  zeros 4 ++ leBytes 1 kind ++ leBytes 1 attempt ++ zeros 18 ++ leBytes 4 crc ++ zeros 6 ++ leBytes 1 reason ++ zeros 29
def withChain (c : Chain) : State := withPart { part0 with chains := [c], peerlim := 1000 }
theorem witness_ChainNotices : ∀ k ∈ [1, 2, 3, 4], let c := chain0 [chainNote k 0 (crc32c (zeros 32)).toNat k]
    findChain (withChain c) 0 1 = some c ∧ c.notices = chainNote k 0 (crc32c (zeros 32)).toNat k :: [] ∧ serving (withChain c) = true ∧
    fld (chainNote k 0 (crc32c (zeros 32)).toNat k) 4 1 = k ∧ segLen c 0 = 32 ∧ memGet (withChain c) 65536 32 = zeros 32 ∧
    (getSeg c 0).attempt < 2 := by decide +kernel
theorem witness_ChainNotices_crc : fld (chainNote 1 2 0 0) 24 4 ≠ (crc32c (zeros 32)).toNat ∧ fld (chainNote 1 2 0 0) 5 1 = 2 ∧
    fld (chainNote 1 0 (crc32c (zeros 32)).toNat 0) 24 4 = (crc32c (zeros 32)).toNat ∧ fld (chainNote 1 1 0 0) 5 1 ≠ 2 ∧
    fld (chainNote 4 0 0 6) 34 1 = 6 := by decide +kernel
/-- The end of a chain with its command, at the last chip or before it. -/
theorem witness_ChainNotices_ends : ∀ b : Bool, let c := { chain0 [] with succ := if b then 5 else noChip }
    let s := modHost (withChain c) (fun h => { h with cmds := [{ id := 9, d := { fn := 1, sq := 1, seq := 0, tick := 0, raw := zeros 64 }, ph := .running }] })
    findChain s 0 1 = some c ∧ c.slot = 1 ∧ (c.succ = noChip ↔ b = false) ∧ (findCmd s c.cmd).map (·.d.silent) = some false ∧
    (getSeg { chain0 [] with st := [{ idx := 0, stored := true }] } 0).stored = true := by decide +kernel
theorem witness_ChainNotices_silent : (chain0 []).pred ≠ noChip ∧ (chain0 []).st.all (·.stored) = false ∧
    (chain0 []).heard + 1000 ≤ (setTick (withChain (chain0 [])) 1000).tick := by decide +kernel
/-- A plan that routes chip 3 to port 0, which is active; the answer to its notice is issued, wherever its window lies. -/
def planned (s : State) : State := modPort (modPew s (fun w => { w with applied := some (zeros 4096) })) 0 (fun p => { p with state := .active })
def stWay : State := modSeg (planned (withChain (chain0 []))) 0 1 0 (fun g => { g with stored := true })
theorem witness_ChainNotices_answer : (answer stWay 0 1 (chain0 []) 2 0 0).2 = true := by
  have h : (sendNotice stWay 0 (chain0 []) (chain0 []).pred 2 0 0 0 0).2 = true :=
    peerWrite_issued 0 0 3 (.notice 0 1 9) (by decide) _ stWay _ _ (by decide +kernel) (by decide +kernel)
  unfold answer
  dsimp only
  rw [if_pos h]
  exact h

/-! ### Witnesses: descriptors -/

/-- 64 bytes with some of them set. -/
def patch (b : List Byte) (l : List (Nat × List Byte)) : List Byte := l.foldl (fun b e => b.take e.1 ++ e.2 ++ b.drop (e.1 + e.2.length)) b
def rawOf (opc : Nat) (l : List (Nat × List Byte)) : List Byte := patch (zeros 64) ((0, leBytes 1 opc) :: l)
def descOf (opc : Nat) (l : List (Nat × List Byte)) : Desc :=
  { fn := if 5 ≤ opc ∧ opc ≤ 7 then 0 else 1, sq := if opc < 16 then 0 else 1, seq := 3, tick := 1, raw := rawOf opc l }
/-- Function 1 of a partition with the descriptor handed over. -/
def withDesc (P : Part) (d : Desc) : State := modHost (withPart P) (fun h => { h with handed := [d], fns := [(1, { enabled := true, dbCfg := 0 })] })
/-- Every opcode with bytes of its arguments that are not as R311 has them. -/
theorem witness_DescriptorsAreJudged : [0x01, 0x02, 0x03, 0x04, 0x05, 0x06, 0x07, 0x10, 0x11, 0x12, 0x13, 0x14, 0x15, 0x20, 0x21, 0x22, 0x23,
      0x24].all (fun o =>
    let d := descOf o [(0x20, [1#8]), (0x3F, [9#8])]
    frontDesc (withDesc part0 d) d.fn == some d && judge (withDesc part0 d) d == some 1 && serving (withDesc part0 d) &&
      fnServes (withDesc part0 d) d.fn) = true := by decide +kernel
theorem witness_DescriptorsAreJudged_state : [(0x06, 3), (0x11, 3), (0x13, 3), (0x15, 3), (0x20, 3)].all (fun x =>
    let d := descOf x.1 []
    judge (withDesc { part0 with phase := .faulted } (if x.1 = 6 then { d with raw := rawOf 6 [(0x10, [1#8])] } else d))
      (if x.1 = 6 then { d with raw := rawOf 6 [(0x10, [1#8])] } else d) == some x.2) = true := by decide +kernel
theorem witness_DescriptorsAreJudged_order : let bad := { descOf 0x23 [] with sq := 0 }
    headOk bad = true ∧ argsOk (withDesc part0 bad) bad = true ∧ queueOk bad = false ∧
    ringsOk (withDesc part0 (descOf 0x02 [(0x10, [1#8]), (0x12, [1#8])])) (descOf 0x02 [(0x10, [1#8]), (0x12, [1#8])]) = false ∧
    headOk (descOf 0x23 [(1, [1#8])]) = false ∧ judge (withDesc part0 (descOf 0x23 [])) (descOf 0x23 []) = none ∧
    judge (modPow (withDesc part0 (descOf 0x22 [(0x18, leBytes 8 0x10000), (0x20, leBytes 8 0x20000), (0x28, [1#8])])) (fun w => { w with tstop := true }))
      (descOf 0x22 [(0x18, leBytes 8 0x10000), (0x20, leBytes 8 0x20000), (0x28, [1#8])]) = some 0x010A := by decide +kernel

/-- A submission ring of function 1 with 2 descriptors to fetch, its completion ring, and admin rings enabled. -/
def subRing : Ring := { kind := .sub, fn := 1, id := 1, base := 4096, lg := 4, db := 64, cq := 1, idx := 2 }
def compRing : Ring := { kind := .comp, fn := 1, id := 1, base := 8192, lg := 4, db := 65 }
def withRings (reads : List ORead) : State := modHost (withPart { part0 with sqq := 4, cqq := 4, srq := 4 }) (fun h => { h with
  dlActive := true, fns := [(1, { enabled := true, aqen := true, dbCfg := 3 })], rings := [subRing, compRing], passTick := 0, reads := reads })
def lineRead : ORead := { id := 1, fn := 1, addr := 2 ^ 64, len := 512, issued := 0, use := .line 1 1 }
def descRead : ORead := { id := 1, fn := 1, addr := 2 ^ 64, len := 64, issued := 0, use := .desc 1 1 }
theorem witness_PollingAndFetching : let s := setTick (withRings []) 100
    serving s = true ∧ s.host.dlActive = true ∧ s.host.passing = false ∧ activeLines s = [(1, 1)] ∧
    s.host.passTick + max s.host.poll.toNat (5 * (activeLines s).length) ≤ s.tick := by decide +kernel
theorem witness_PollingAndFetching_reads : (withRings [lineRead]).host.reads.find? (fun r => r.use == .line 1 1) = some lineRead ∧
    (zeros 512).length = 512 ∧ lineRead.tag = 0 ∧ (withRings [descRead]).host.reads.find?
      (fun r => match r.use with | .desc f _ => f == 1 | _ => false) = some descRead ∧ opcKnown (fld (rawOf 0x23 []) 0 1) = true ∧
    findRing (withRings []) .sub 1 1 = some subRing ∧ subRing.stopped = false ∧ subRing.cnt ≠ subRing.idx ∧
    cqRoom (withRings []) 1 subRing.cq ≠ 0 := by decide +kernel
theorem witness_PollingAndFetching_ends : ∀ b : Bool, let s := modHost (withRings (if b then [] else [lineRead])) (fun h => { h with passing := true })
    let d : Desc := { fn := 1, sq := 1, tick := 0, raw := rawOf 0xFF [], seq := 0 }
    s.host.passing = true ∧ s.host.reads.any (fun r => isLine r.use) = !b ∧ behindFence s d = false ∧ opcKnown (fld (rawOf 0xFF []) 0 1) = false ∧
    behindFence (modHost s (fun h => { h with cmds := [{ id := 9, d := descOf 0x23 [], ph := .waiting }] })) d = true ∧
    cqRoom s 1 ({ subRing with cnt := 2 } : Ring).cq ≠ 0 ∧ ({ subRing with cnt := 2 } : Ring).cnt = subRing.idx := by decide +kernel
theorem witness_PollingAndFetching_doorbells : (16#32 - subRing.cnt).toNat ≤ 2 ^ subRing.lg ∧ 2 ^ subRing.lg < (17#32 - subRing.cnt).toNat ∧
    compRing.kind ≠ .sub ∧ (compRing.cnt - 0#32).toNat ≤ 2 ^ compRing.lg ∧ 2 ^ compRing.lg < (compRing.cnt - 1#32).toNat := by decide
/-- R301: a tail 17 past the count of a ring of 16 stops the ring and sets the doorbell error. -/
theorem test_doorbell_overrun : (findRing (doorbell (withRings []) subRing 17) .sub 1 1).map (·.stopped) = some true ∧
    (getFn (doorbell (withRings []) subRing 17) 1).errstat.getLsbD 3 = true := by decide +kernel
/-- R304: the fetches take descriptors while the completion ring has room. -/
theorem test_fetches : (fetchRing 1 1 9 (withRings [])).host.reads.map (·.addr) = [2 ^ 64 + 4096, 2 ^ 64 + 4160] := by decide +kernel

/-- A descriptor that passes its checks, with the rings of function 1. -/
def okDesc (d : Desc) : State := modHost (withRings []) (fun h => { h with handed := [d] })
def okB (d : Desc) : Bool := frontDesc (okDesc d) d.fn == some d && judge (okDesc d) d == none && serving (okDesc d) && fnServes (okDesc d) d.fn
def qCreate (t id db : Nat) : Desc := descOf 0x01 [(0x10, [BitVec.ofNat 8 t, 6#8]), (0x12, leBytes 2 id), (0x14, leBytes 2 (if t = 1 then 1 else 0)),
  (0x16, leBytes 2 db), (0x18, leBytes 8 4096)]
theorem witness_QueueCommands : okB (qCreate 1 1 70) = true ∧ okB (qCreate 1 2 70) = true ∧ okB (qCreate 3 2 70) = true ∧
    ringTaken (dropDesc (okDesc (qCreate 1 1 70)) (qCreate 1 1 70)) 1 (kindOf 1) 1 70 = true ∧
    ringTaken (dropDesc (okDesc (qCreate 1 2 70)) (qCreate 1 2 70)) 1 (kindOf 1) 2 70 = false ∧
    ringCount (okDesc (qCreate 1 2 70)) 1 .sub = 1 ∧ ringQuota { part0 with sqq := 1 } .sub = 1 := by decide +kernel
theorem witness_QueueCommands_rest : okB (descOf 0x02 [(0x10, [1#8]), (0x12, leBytes 2 1)]) = true ∧
    okB (descOf 0x03 [(0x10, [4#8]), (0x12, leBytes 2 70), (0x18, leBytes 8 4096)]) = true ∧
    okB (descOf 0x03 [(0x10, [4#8]), (0x12, leBytes 2 64), (0x18, leBytes 8 4096)]) = true ∧
    okB (descOf 0x04 [(0x10, [1#8]), (0x18, leBytes 8 4096), (0x20, leBytes 4 4096)]) = true ∧
    okB (descOf 0x04 [(0x10, [2#8]), (0x18, leBytes 8 4096), (0x20, leBytes 4 4096)]) = true ∧
    okB (descOf 0x07 [(0x10, leBytes 4 1000)]) = true ∧ okB (descOf 0x07 [(0x10, leBytes 4 2400)]) = true ∧
    okB (descOf 0x07 [(0x10, leBytes 4 2401)]) = false := by decide +kernel
theorem witness_QueueCommands_deletes : ∀ t ∈ [1, 2, 3], let d := descOf 0x02 [(0x10, [BitVec.ofNat 8 t]), (0x12, leBytes 2 (if t = 1 then 1 else 2))]
    let s := modHost (withRings []) (fun h => { h with
      handed := [d], rings := h.rings ++ [{ compRing with id := 2, db := 66 }, { compRing with kind := .stream, id := 2, db := 67 }] })
    judge s d = none ∧ frontDesc s 1 = some d ∧ serving s = true ∧ fnServes s 1 = true := by decide +kernel
theorem witness_RequestsAndRuns_small : okB (descOf 0x12 [(0x20, leBytes 4 64)]) = true ∧ okB (descOf 0x12 []) = true ∧
    okB (descOf 0x20 [(0x18, leBytes 8 0x10000), (0x20, leBytes 8 4096)]) = true ∧ okB (descOf 0x23 []) = true ∧
    okB (descOf 0x22 [(0x18, leBytes 8 0x10000), (0x20, leBytes 8 0x20000), (0x28, [1#8])]) = true ∧
    okB (descOf 0x24 [(0x10, [5#8]), (0x18, leBytes 8 4096)]) = true := by decide +kernel
theorem witness_RequestsAndRuns_copy : ∀ b : Bool, let d := descOf 0x22 [(0x18, leBytes 8 0x10000), (0x20, leBytes 8 (if b then 0x20000 else 2 ^ 36)), (0x28, [1#8])]
    permitted (beginAt (okDesc d) d) 0 none true (d.f 0x20 8) (d.f 0x28 8) = b := by decide +kernel
def ringS1 : Ring := { ringS with db := 66 }
def recRing : Ring := { kind := .record, fn := 1, id := 0, base := 65536, lg := 4, db := 67 }
/-- A request in OPEN of a partition whose function has stream and record rings, and a descriptor that opens or cancels. -/
def stOpen (d : Desc) : State := setRte (modHost (okDesc d) (fun h => { h with rings := h.rings ++ [ringS1, recRing] })) 0 (some { req0 with hosttag := 7 })
def openDesc : Desc := descOf 0x10 [(0x12, leBytes 2 0xFFFF), (0x14, leBytes 2 1), (0x20, leBytes 8 0x10000), (0x28, leBytes 4 1), (0x30, leBytes 8 0x20000), (0x38, leBytes 8 0x30000)]
theorem witness_RequestsAndRuns_open : judge (stOpen openDesc) openDesc = none ∧ frontDesc (stOpen openDesc) 1 = some openDesc ∧
    judge (stOpen (descOf 0x11 [(8, [7#8])])) (descOf 0x11 [(8, [7#8])]) = none ∧
    cancelTarget (stOpen (descOf 0x11 [(8, [7#8])])) 0 (descOf 0x11 [(8, [7#8])]) = some 0 := by decide +kernel
/-- A GRAPH_RUN of handle 5, registered or still registering. -/
def runDesc : Desc := descOf 0x21 [(0x10, [5#8]), (0x14, leBytes 2 1)]
def stRun (b : Bool) : State := modHost (withPart { runPart with runs := [] }) (fun h => { h with handed := [runDesc], cmds := if b then
  [{ id := 9, d := descOf 0x20 [(0x10, [5#8])], ph := .running }] else [] })
theorem witness_RequestsAndRuns_run : ∀ b : Bool, judge (stRun b) runDesc = none ∧ frontDesc (stRun b) 1 = some runDesc ∧
    registering (dropDesc (stRun b) runDesc) 1 (runDesc.f 0x10 1) = b := by decide +kernel
/-- A run of a handle without an image, of the layer the image has, and of one more. -/
def runCmd (n : Nat) : Cmd :=
  { id := 9, d := descOf 0x21 [(0x10, [BitVec.ofNat 8 (if n = 0 then 6 else 5)]), (0x14, leBytes 2 n)], ph := .running }
theorem witness_RequestsAndRuns_image : ∀ n ∈ [0, 1, 2], let s := modHost (stLayer 0x10000) (fun h => { h with cmds := [runCmd n] })
    findCmd s 9 = some (runCmd n) ∧ handleImage s 0 ((runCmd n).d.f 0x10 1) = (if n = 0 then none else some ciRun) ∧
    (runCmd n).d.f 0x12 2 + (runCmd n).d.f 0x14 2 = n ∧ nLayers s ciRun = 1 ∧ (layerAt s ciRun 0).fin = false ∧
    (layerAt s ciRun 0).fout = false := by decide +kernel
theorem witness_RequestsAndRuns_counter : let d := descOf 0x24 [(0x10, [5#8]), (0x18, leBytes 8 4096)]
    getCtr (okDesc d) (bits (d.f 0x10 8) 8 12) = none ∧ getCtr (setCtr (okDesc d) 0 (some ctr0)) (bits (d.f 0x10 8) 8 12) = some ctr0 ∧
    ctr0.part = 1 - 1 := by decide +kernel
theorem witness_RequestsAndRuns_ends : ∀ b : Bool,
    let c : Cmd := { id := 9, d := descOf 0x22 [(0x18, leBytes 8 0x10000), (0x20, leBytes 8 0x20000), (0x28, [4#8])], ph := .running, b := 1 }
    let f : Cmd := { id := 8, d := { descOf 0x23 [] with seq := if b then 2 else 4 }, ph := .running }
    let s := modHost (withPart part0) (fun h => { h with cmds := [c, f] })
    findCmd s 9 = some c ∧ c.d.opc = 0x22 ∧ c.b = 1 ∧ findCmd s 8 = some f ∧ f.d.opc = 0x23 ∧ earlierOpen s 1 1 f.d.seq = !b ∧
    localOf s 0 none (c.d.f 0x20 8) = some 0x20000 := by decide +kernel

/-! ### Witnesses: partitions and models -/

theorem witness_PartitionsAndModels_descriptors : okB (descOf 0x14 [(0x18, leBytes 8 4096)]) = true ∧
    okB (descOf 0x05 [(0x10, [1#8]), (0x18, leBytes 8 4096)]) = true ∧
    (let d := descOf 0x06 []; judge (withDesc modelPart d) d = none ∧ frontDesc (withDesc modelPart d) 0 = some d) ∧
    (let d := descOf 0x15 []; judge (withDesc { modelPart with sel := none, phase := .empty } d) d = none ∧
      ({ modelPart with sel := none } : Part).sel ≠ some (d.f 0x10 2)) := by decide +kernel
/-- A MODEL_SELECT of slot 0, registered or refused. -/
def selPart (r : Reg) : Part := { modelPart with slots := [(0, some { slot0 with reg := r })] }
theorem witness_PartitionsAndModels_select : ∀ b : Bool, let d := descOf 0x13 []
    let r : Reg := if b then .ok else .refused { status := 0x0301 }
    judge (withDesc (selPart r) d) d = none ∧ frontDesc (withDesc (selPart r) d) 1 = some d ∧ (withDesc (selPart r) d).power.tstop = false ∧
    (let h := modPow (withDesc (selPart r) d) (fun w => { w with tstop := true }); judge h d = none ∧ frontDesc h 1 = some d) ∧
    (getSlot (modPart (deselect (beginAt (withDesc (selPart r) d) d) 0) 0 (fun P => { P with phase := .selecting })) 0 0).map (·.reg) = some r := by
  decide +kernel
theorem witness_PartitionsAndModels_ends : let s := withPart { part0 with creating := true, phase := .absent }
    (getPart s 0).creating = true ∧ serving s = true ∧
    s.host.cmds.find? (fun c => c.d.fn == 0 && c.d.opc == 5 && c.d.f 0x10 1 == 0) = none ∧
    (getPart (withPart { selPart .ok with selecting := some (9, 0), phase := .selecting }) 0).selecting = some (9, 0) ∧
    getSlot (withPart (selPart .ok)) 0 0 = some slot0 ∧ noReports s 0 = true ∧
    getSlot (withPart (selPart (.running 3))) 0 0 = some { slot0 with reg := .running 3 } := by decide +kernel
/-- A registered image without an array section, and one whose first section is not placed, loading, or loaded. -/
def stSel (n : Nat) : State := modEng (put (withReq { modelPart with selecting := some (9, 0), phase := .selecting } req0)
    (if n = 0 then [] else [(0x402048, [1#8]), (0x402051, [1#8]), (0x402101, [2#8])]))
  (fun e => { e with places := if n < 2 then [] else [{ place0 with slot := some 0, sect := 512, base := 0x2000, loading := if n = 2 then [0] else [] }] })
theorem witness_PartitionsAndModels_place : (∀ n ∈ [0, 1, 2, 3], (getPart (stSel n) 0).selecting = some (9, 0) ∧
      getSlot (stSel n) 0 0 = some slot0 ∧ slot0.reg = .ok ∧ serving (stSel n) = true ∧ noReports (stSel n) 0 = true) ∧
    firstSection (stSel 0) 0 0 slot0 = none ∧ firstSection (stSel 1) 0 0 slot0 = some (⟨0, some 0, 0x2000, 0x1000⟩, 512) ∧
    firstPlace (stSel 1) 0 0 512 = none ∧ ((firstPlace (stSel 2) 0 0 512).map (fun p => (p.sectors, p.loading))) = some ([0], [0]) ∧
    ((firstPlace (stSel 3) 0 0 512).map (fun p => (p.sectors, p.loading))) = some ([0], []) := by decide +kernel

/-! ### Witnesses: set-up registers, mailboxes, resets -/

/-- Functions reached by the host; function 1 with the admin registers as given. -/
def reach (r : FnRegs) : State := modHost State.reset (fun h => { h with dlActive := true, fns := [(1, { r with enabled := true })] })
def goodRegs : FnRegs := { aqBase := 4096, aqCfg := 0x3FC4, dbBase := 8192 }
theorem witness_SetupRegisters : hostReach (reach goodRegs) 0 = true ∧ hostReach (reach goodRegs) 1 = true ∧ hostReach (reach goodRegs) 2 = false ∧
    aqBad (modHost (reach goodRegs) (fun h => { h with lock := true })) 1 = false ∧ aqBad (reach goodRegs) 1 = true ∧
    bits (0x3FC4#64).toNat 8 8 = 63 ∧ bits (0x3FC4#64).toNat 0 4 = 4 ∧ bits (0x3FC4#64).toNat 4 4 = 12 ∧
    (getFn (reach { goodRegs with aqen := true }) 1).aqen = true ∧ (reach goodRegs).host.lock = false := by decide +kernel
theorem witness_SetupRegisters_vectors : ({ goodRegs with pba := 1#64 <<< 63 } : FnRegs).pba.getLsbD 63 = true ∧
    goodRegs.pba.getLsbD 63 = false ∧ (withRing { ringS with unsig := 1, vec := 2, first := 5 } part0).host.rings.find?
      (fun r => r.fn == 1 && r.db == 3 && r.kind != .sub) = some { ringS with unsig := 1, vec := 2, first := 5 } := by decide +kernel
theorem witness_SetupRegisters_cobalt : ∀ b : Bool, let s := withCob { run := true, busy := b }
    (getCob s 0).run = true ∧ (getCob s 0).busy = b ∧ (2#64).getLsbD 1 = true ∧ bits (0x5040#64).toNat 12 3 = 5 ∧ bits (0x5040#64).toNat 5 3 = 2 ∧
    (reach { goodRegs with errstat := 0x20 }).host.lock = false := by decide +kernel
/-- R295: an AQEN write while AQBASE is 0 sets AQCFGERR. -/
theorem test_aqcfgerr : (nextOf (exec (.aqenWrite 0 true) (reach goodRegs))).map (fun t => ((getFn t 0).errstat.getLsbD 1, (getFn t 0).aqen)) =
    some (true, false) := by decide +kernel
/-- R294: POLL does not go below 25. -/
theorem test_poll : (nextOf (exec (.pollWrite 0 3) (reach goodRegs))).map (fun t => t.host.poll) = some 25 := by decide +kernel

/-- Channel 31 bound from a sender to a receiver, both there. -/
def bound (snd rcv : Nat) (q : List (List Byte)) : State := modHost (withDesc part0 (descOf 0x23 [])) (fun h => { h with
  dlActive := true, mbbind := [(31, BitVec.ofNat 32 (2 ^ 31 + snd + 2 ^ 8 * rcv))], mbRx := if q = [] then [] else [(31, q)] })
theorem witness_MailboxMessages : bindValid (bound 1 0 []) 31 = true ∧ bindRcv (bound 1 0 []) 31 = 0 ∧ bindSnd (bound 1 0 []) 31 = 1 ∧
    masterDown (bound 1 0 []) 0 = false ∧ bindValid (bound 1 0 []) 0 = false ∧ hostReach (bound 1 0 []) 1 = true ∧
    (SGet [] (bound 1 0 (List.replicate 4 [])).host.mbRx 31).length = 4 ∧ bindRcv (bound 1 0x80 []) 31 = 0x80 ∧
    masterDown (bound 1 0x80 []) 0x80 = false ∧ mbDropped (bound 1 0 []) 1 31 = false ∧ mbDropped (bound 1 0 []) 1 30 = true := by decide +kernel
theorem witness_MailboxMessages_tin : winHead (withTin (tinTo 12 0x1001 0x1102 3 (zeros 64))) 12 0x1001 0x1102 = some (tinTo 12 0x1001 0x1102 3 (zeros 64)) ∧
    tinFront (withTin (tinTo 12 0x1100 0x1000 3 (zeros 64))) false 0x1100 0x1000 = some (tinTo 12 0x1100 0x1000 3 (zeros 64)) ∧
    mbHeld (withTin (tinTo 12 0x1100 0x1000 3 (zeros 64))) 0 3 < 4 := by decide +kernel
/-- R324: a fifth message to a host receiver is lost and sets MBRXOVF with its channel. -/
theorem test_mailbox_full : (nextOf (exec (.txsend 1 31 0) (bound 1 0 (List.replicate 4 [])))).map (fun t =>
    ((getFn t 0).errstat.getLsbD 5, (SGet [] t.host.mbRx 31).length)) = some (true, 4) := by decide +kernel
theorem witness_FunctionResets : hostReach (reach {}) 0 = true ∧ (reach {}).host.cmds = [] ∧ (reach {}).host.handed = [] ∧ (reach {}).host.reads = [] ∧
    vfsOn (reach {}) = [1] ∧ vfsOn (modHost State.reset (fun h => { h with dlActive := true })) = [] ∧ State.reset.power.pfwAt = none := by decide +kernel
theorem witness_FunctionResets_requests : let s := withReq modelPart req0
    getRte s 0 = some req0 ∧ req0.part = 0 ∧ (dynOf s req0).state ≠ .free ∧ (getPart s 0).phase ≠ .absent ∧ (getPart s 0).phase ≠ .faulted ∧
    State.reset.power.pg = true ∧ State.reset.power.perst = false := by decide +kernel

/-! ### Witnesses: ports -/

/-- Port 0 in a state, its link layer as given. -/
def withPort (p : Port) : State := modPew (modPort State.reset 0 (fun _ => p)) (fun w => { w with applied := some (zeros 352) })
def flitIn (ft seq : Nat) : List Byte := flitBytes {} ft 0 seq 0 (if ft = 1 then [zeros 16] else [])
set_option maxRecDepth 1000000 in
theorem witness_PortFlits : (getPort (withPort { state := .active }) 0).linked = true ∧ flitOk (flitIn 1 0) = true ∧ flitOk (flitIn 1 9) = true ∧
    flitOk (flitIn 2 0) = true ∧ flitOk (flitIn 3 0) = true ∧ flitOk (zeros 256) = false ∧ (flitIn 1 0).length = 256 ∧
    bits (fld (flitIn 1 9) 0 8) 8 12 = 9 := by decide +kernel
theorem witness_PortFlits_replay : ([⟨4095, 0, []⟩, ⟨0, 0, []⟩] : List TxFlit)[1]? = some ⟨0, 0, []⟩ ∧
    (∀ j < 1, ∀ g, ([⟨4095, 0, []⟩, ⟨0, 0, []⟩] : List TxFlit)[j]? = some g → g.seq ≠ 0) := by
  refine ⟨rfl, fun j hj g h => ?_⟩
  obtain rfl : j = 0 := by omega
  cases h
  decide
theorem witness_PortStates : ∀ st ∈ [PortState.active, .check, .quarantine, .retrain, .down, .training],
    (getPort (withPort { state := st }) 0).state = st ∧ (withPort { state := st }).pew.applied = some (zeros 352) ∧
    (withPort { state := st }).power.pg = true ∧ (getPort (withPort { state := st }) 0).since + 5000000 ≤ (setTick (withPort { state := st }) 10000000).tick := by
  decide +kernel
/-- An identity record that the all-zero plan expects, and one of another chip. -/
def recordOf (chip : Nat) : List Byte := patch (zeros 64) [(0, [8#8]), (4, leBytes 2 chip)]
theorem witness_PortStates_record : recordOk (recordOf 0) = true ∧ recordCause (zeros 352) 0 (recordOf 0) = 0 ∧ recordOk (recordOf 5) = true ∧
    recordCause (zeros 352) 0 (recordOf 5) ≠ 0 ∧ recordOk (zeros 64) = false ∧
    (retrainsOf (withPort {}) { retrains := [0, 0] }).length = 2 ∧ (retrainsOf (withPort {}) {}).length < 2 := by decide +kernel
theorem witness_PortStates_ident : let s := withPort { state := .active, record := recordOf 0, msgs2 := [⟨8, 0, 0, 0, 0, 0, 64, 0, 0, recordOf 0⟩] }
    let c := withPort { state := .check, identSent := true }
    (getPort s 0).msgs2 = ⟨8, 0, 0, 0, 0, 0, 64, 0, 0, recordOf 0⟩ :: [] ∧ recordOf 0 = (getPort s 0).record ∧ recordOf 5 ≠ (getPort s 0).record ∧
    (getPort c 0).identAt + 1000 ≤ (setTick c 1000).tick ∧ (getPort (withPort { state := .check }) 0).identSent = false ∧
    s.tick ≤ (getPort s 0).since + 5000000 := by decide +kernel
theorem witness_PortFlits_states : (getPort (withPort { state := .active, owed := true }) 0).owed = true ∧
    (getPort (withPort { state := .active, replay := [⟨0, 0, []⟩] }) 0).replay ≠ [] ∧
    (getPort (withPort { state := .active }) 0).ackTick + 2000 ≤ (setTick (withPort { state := .active }) 2000).tick := by decide +kernel
set_option maxRecDepth 1000000 in
/-- R330, R331: a flit with one bit changed fails its check. -/
theorem test_flit_crc : flitOk ((flitIn 1 0).take 20 ++ [1#8] ++ (flitIn 1 0).drop 21) = false := by decide +kernel

/-! ### Witnesses: recovery -/

def report0 (u : Nat) (p : Option Nat) : Report1 := { tick := 0, utype := u, source := 1, unit := 2, part := p, log := 0 }
def test0 (w : TestWhy) : SelfTest := { utype := utCore, unit := 2, why := w, start := 0, log := 0, part := none }
theorem witness_UnitRecovery : ∀ w ∈ [TestWhy.error, .boot, .returned], let s := modEng State.reset (fun e => { e with
      reports := [report0 utCore none, report0 utCore (some 0)], tests := [test0 w] })
    s.eng.tests.find? (fun t => t.utype == utCore && t.unit == 2) = some (test0 w) ∧ transientsOf s utCore 2 < 2 ∧
    fenced s utCore 2 = false ∧ fenced (modPew s (fun p => { p with fence := [(utCore, 2)] })) utCore 2 = true ∧
    2 ≤ transientsOf (modPew s (fun p => { p with transients := [(utCore, 2, 0), (utCore, 2, 0)] })) utCore 2 := by decide +kernel
theorem witness_UnitRecovery_reports : ∀ u ∈ [utHub, utCore], (modEng State.reset (fun e => { e with reports := [report0 u none] })).eng.reports =
    [report0 u none] ∧ (u ≠ utHub ∨ u = 7) := by decide
def stReturn (b : Bool) : State := modEng (withPart { part0 with chunk := if b then some { rte := 0, first := 0, count := 1, start := 0 } else none })
  (fun e => { e with returning := [(0, utCore, 2)] })
theorem witness_UnitRecovery_return : ∀ b : Bool, let s := stReturn b
    s.eng.returning.find? (fun r => r.2 == (utCore, 2)) = some (0, utCore, 2) ∧ homeOf s utCore 2 = some 0 ∧ partWorks (getPart s 0) = b := by
  decide +kernel
theorem witness_UnitRecovery_faults : let s := modRtes (withPart { part0 with
      chunk := some { rte := 0, first := 0, count := 1, start := 0 } }) (fun m => SSet none m 0 (some { req0 with err := some { tick := 0, rank := 10, status := 0x0201 } }))
    partWorks (getPart s 0) = true ∧ (getRte s 0).bind (fun q => q.err.map (fun x => programStatus x.status)) = some true ∧
    (getRte s 0).map (·.part) = some 0 := by decide +kernel
/-- A test of a memory-side cache slice whose lines are written back, or still are. -/
theorem witness_UnitRecovery_slice : ∀ b : Bool, let s := modMem (modPew (modEng State.reset (fun e => { e with tests := [{ test0 .error with utype := utSlice }] }))
      (fun w => { w with fence := [(utSlice, 2)] })) (fun m => { m with lines := if b then [(2 * 65536, some { tag := 0, dirty := true })] else [] })
    s.eng.tests.find? (fun t => t.utype == utSlice && t.unit == 2) = some { test0 .error with utype := utSlice } ∧ sliceLeaving s 2 = b := by
  decide +kernel

/-! ### Witnesses: power -/

/-- Main power off with EN deasserted; on with the power-fail sequence begun. -/
def stOff : State := modPow State.reset (fun w => { w with pg := false, en := false, pstate := .off })
def stPfw : State := modPow State.reset (fun w => { w with pfwAt := some 0, needCycle := true })
theorem witness_PowerSequences : stOff.power.en = false ∧ stOff.power.needCycle = false ∧ stOff.power.uv = false ∧ stOff.pew.standby = true ∧
    stOff.pew.ready = true ∧ stOff.power.pg = false ∧ stOff.power.pstate ≠ .starting ∧
    (modPow stOff (fun w => { w with pstate := .starting })).power.pstate = .starting ∧ State.reset.power.pg = true ∧ State.reset.power.en = true ∧
    State.reset.power.pfwAt = none ∧ stPfw.power.pfwAt = some 0 ∧ 0 + 300000 ≤ (setTick stPfw 300000).tick ∧ stPfw.power.pg = true ∧
    211 ∉ State.reset.power.railsOff ∧ (modPow State.reset (fun w => { w with uv := true })).power.uv = true := by decide +kernel
/-- R427: the loss of main power clears local memory and the requests. -/
theorem test_collapse : (nextOf (exec (.inputCollapse 3599) (withReq modelPart req0))).map (fun t => (t.power.pg, t.rtes.length, t.mem == State.reset.mem)) =
    some (false, 0, true) := by decide +kernel

def stPace (f : Power → Power) (n : Nat) : State := setTick (modSec (modPow State.reset f) (fun e => { e with state := 4 })) n
theorem witness_PaceDroopThermal_droop : SGet 0 State.reset.power.held 112 = 0 ∧
    SGet 0 (stPace (fun w => { w with held := [(112, 1)] }) 0).power.held 112 ≠ 0 ∧ (stPace id 1000).tick % 1000 = 0 ∧
    State.reset.power.ecmode = 0 := by decide +kernel
theorem witness_PaceDroopThermal_governor : (stPace id 10000).tick % 10000 = 0 ∧
    (stPace id 10000).power.floor = false ∧ (stPace id 10000).power.paced = false ∧ 600 < (stPace id 10000).power.vset ∧
    98 * rampLimit (stPace (fun w => { w with avg := 2400 }) 10000) < 100 * 2400 ∧ 100 * 0 < 93 * rampLimit (stPace id 10000) ∧
    (stPace (fun w => { w with vset := 600 }) 10000).power.vset ≤ 600 ∧ (stPace id 10000).power.tj < 980 ∧
    (stPace id 10000).power.lastRaise + 100000 ≤ (stPace id 100000).tick ∧ 100 * 1900 ≤ 98 * rampLimit (stPace id 10000) ∧
    93 * rampLimit (stPace id 10000) ≤ 100 * 1900 := by decide +kernel
theorem witness_PaceDroopThermal_floor : let s := stPace (fun w => { w with floor := true, below98 := some 0, departed := some 0, paced := true }) 100000000
    s.power.floor = true ∧ cool s = true ∧ stopOver s = true ∧ s.power.departed = some 0 ∧ 105 * s.power.refA ≤ 100 * limitOf s ∧
    100 * s.power.avg < 93 * limitOf s ∧ s.power.lastClimb + 100000 ≤ s.tick := by decide +kernel
theorem witness_PaceDroopThermal_climb : ∀ b : Bool, let s := stPace (fun w => { w with
      floor := true, below98 := some 0, burst := b, vset := 600, gate := if b then 800 else 10 ^ 6 }) 100000000
    s.power.floor = true ∧ s.power.paced = false ∧ s.power.pfwAt = none ∧ 100 * s.power.avg < 93 * limitOf s ∧ s.power.tj < 980 ∧
    s.power.lastClimb + 100000 ≤ s.tick ∧ cool s = true ∧ stopOver s = true ∧ s.power.burst = b ∧
    topRate s.power.vset s.power.tj ≤ 10 ^ 6 + 50 ∧ 0 + 50 < topRate s.power.vset s.power.tj ∧ State.reset.power.floor = false := by decide +kernel
theorem witness_PaceDroopThermal_ramp : let s := stPace (fun w => { w with ramp := some 0, paced := true, pace := 70, rampRate := 149 }) 2000000
    s.power.ramp = some 0 ∧ s.power.rampRate = 79 + 70 ∧ 70 ≤ s.power.pace ∧ 0 + ceilDiv (2000000 * 70) (max s.power.pace 1) ≤ s.tick := by decide +kernel
theorem witness_PaceDroopThermal_thermal : (List.replicate 68 (1050 : Int)).length = 68 ∧ 1050 ≤ maxOf (List.replicate 68 (1050 : Int)) ∧
    maxOf (List.replicate 68 (950 : Int)) ≤ 950 ∧ (∀ p < 16, reqsOf State.reset p = []) ∧
    (stPace (fun w => { w with below95 := some 0, tstop := true }) 1000000000).power.tstop = true := by decide +kernel
/-- R402, R403: 105.0 °C starts the thermal stop, 104.9 °C does not. -/
theorem test_thermal_stop : (nextOf (exec (.thermalSample (List.replicate 68 1050) 0 0) (stPace id 10000))).map (fun t => (t.power.tstop, t.power.floor)) =
      some (true, true) ∧
    (nextOf (exec (.thermalSample (List.replicate 68 1049) 0 0) (stPace id 10000))).map (fun t => (t.power.tstop, t.power.floor)) = some (false, true) := by
  decide +kernel

/-! ### Witnesses: boot, attestation, seals -/

/-- The SPDM responder up, at a stage of negotiation and a boot state. -/
def stSpdm (stage st : Nat) : State := modHost (modSec State.reset (fun e => { e with waiting := true, started := true, spdm := stage, state := st, bm := [1#8] }))
  (fun h => { h with dlActive := true })
/-- A vendor-defined request. -/
def vendor (b : List Byte) : List Byte :=
  [0x13#8, 0xFE#8, 0#8, 0#8, 3#8, 0#8, 2#8] ++ leBytes 2 Config.vendorId.toNat ++ leBytes 2 b.length ++ b
theorem fld_leBytes_two (n : Nat) (h : n < 65536) (a b : List Byte) (k : Nat) (hk : a.length = k) :
    fld (a ++ leBytes 2 n ++ b) k 2 = n := by
  subst hk
  simp only [fld, List.append_assoc, List.drop_left, leBytes, List.cons_append, List.nil_append, List.take_succ_cons, List.take_zero, leNat,
    BitVec.toNat_ofNat]
  omega
theorem vendor_read (b : List Byte) (h : 1 ≤ b.length) (k : b.length < 65536) : vendorReq (vendor b) = some b ∧
    fld (vendor b) 0 1 = 0x13 ∧ fld (vendor b) 1 1 = 0xFE := by
  have e1 : fld (vendor b) 7 2 = Config.vendorId.toNat := by
    have := fld_leBytes_two Config.vendorId.toNat Config.vendorId.isLt [0x13#8, 0xFE#8, 0#8, 0#8, 3#8, 0#8, 2#8] (leBytes 2 b.length ++ b) 7 rfl
    simpa only [vendor, List.append_assoc] using this
  have e2 : fld (vendor b) 9 2 = b.length :=
    fld_leBytes_two b.length k ([0x13#8, 0xFE#8, 0#8, 0#8, 3#8, 0#8, 2#8] ++ leBytes 2 Config.vendorId.toNat) b 9 rfl
  refine ⟨?_, rfl, rfl⟩
  unfold vendorReq
  rw [if_pos ⟨rfl, rfl, rfl, e1, by rw [e2]; exact h⟩, e2]
  show some (b.take b.length) = some b
  rw [List.take_length]
theorem witness_BootSequence_register : ∃ req, spdmUp (stSpdm 3 0) = true ∧ vendorReq req = some (1#8 :: leBytes 8 4096 ++ leBytes 8 67108864) ∧
    fld req 0 1 = 0x13 ∧ fld req 1 1 = 0xFE ∧ (stSpdm 3 0).sec.resync = false ∧ 3 ≤ (stSpdm 3 0).sec.spdm := by
  obtain ⟨a, b, c⟩ := vendor_read (1#8 :: leBytes 8 4096 ++ leBytes 8 67108864) (by decide) (by decide)
  exact ⟨_, by decide +kernel, a, b, c, rfl, by decide⟩
theorem witness_BootSequence : State.reset.power.pg = true ∧ State.reset.sec.started = false ∧ State.reset.pew.moduleFault = false ∧
    State.reset.pew.returns = [] ∧ State.reset.parts = [] ∧ bundleCheck (modSec State.reset (fun e => { e with state := 1 })).sec = 0x11 ∧
    (modSec State.reset (fun e => { e with state := 1 })).sec.bundle.length = (modSec State.reset (fun e => { e with state := 1 })).sec.len ∧
    (modSec State.reset (fun e => { e with state := 2, bm := [1#8] })).sec.bm ≠ [] ∧
    (modSec State.reset (fun e => { e with state := 3, trained := true })).sec.trained = true := by decide +kernel
theorem witness_Attestation : spdmUp (stSpdm 3 4) = true ∧ (stSpdm 3 4).sec.resync = false ∧ (stSpdm 0 4).sec.spdm < 1 ∧
    ([0x12, 0x84, 0xE1, 0xE3, 0x81, 0x82, 0x83, 0xE0].map (fun c => fld [0x13#8, BitVec.ofNat 8 c] 1 1)) =
      [0x12, 0x84, 0xE1, 0xE3, 0x81, 0x82, 0x83, 0xE0] ∧ (slotChain (stSpdm 3 4) 1).isSome = true ∧ slotChain (stSpdm 3 0) 1 = none := by decide +kernel
/-- The certificate chain of slot 0 is not empty, whatever the identity store holds. -/
theorem witness_Attestation_certificate : ∃ c, slotChain (stSpdm 3 4) 0 = some c ∧ fld [0x13#8, 0x82#8, 0#8, 0#8, 0#8, 0#8, 9#8, 0#8] 4 2 < c.length := by
  refine ⟨_, rfl, ?_⟩
  simp [leBytes, zeros]
  decide
/-- R417: a request before GET_VERSION draws UnexpectedRequest. -/
theorem test_spdm_order : (nextOf (exec (.getDigests [0x13#8, 0x81#8, 0#8, 0#8]) (stSpdm 2 4))).map (fun t => t.sec.out) =
    some [[0x13#8, 0x7F#8, 4#8, 0#8]] := by decide +kernel
theorem witness_EpochSeals : let s := setTick (modSec (withPart { part0 with epochAt := 0 }) (fun e => { e with
      store := [⟨0, zeros 16, 0, zeros 308⟩] })) 100000000
    s.sec.state = 4 ∧ (getPart s 0).phase ≠ .absent ∧ (getPart s 0).chainOver = false ∧ (getPart s 0).epochAt + 100000000 ≤ s.tick ∧
    s.sec.store = ⟨0, zeros 16, 0, zeros 308⟩ :: [] ∧ mayWrite s 0 = false := by decide +kernel
def sealRing : Ring := { kind := .seal, fn := 0, id := 0, base := 4096, lg := 4, db := 2 }
theorem witness_EpochSeals_ring : let s := modHost (stSpdm 3 4) (fun h => { h with rings := [sealRing], lock := true })
    findRing s .seal 0 0 = some sealRing ∧ mayWrite s 0 = true ∧ sealRing.room = true ∧ s.sec.state = 4 ∧ s.host.lock = true ∧
    fld (leBytes 8 4096 ++ [4#8, 63#8] ++ leBytes 2 2) 9 1 = 63 ∧ dbRange s 0 2 = true ∧ dbFree s 0 2 (some .seal) = true := by decide +kernel
theorem witness_EpochSeals_requests : ∀ b ∈ [leBytes 1 3 ++ leBytes 8 4096 ++ [4#8, 63#8] ++ leBytes 2 2, [4#8, 15#8], [4#8, 16#8]],
    vendorReq (vendor b) = some b := by
  intro b hb
  refine (vendor_read b ?_ ?_).1 <;> revert b <;> decide
def epochEnd0 : EpochEnd := ⟨1, 1, 100, 0, 0, zeros 64, 0⟩
theorem witness_EpochSeals_seal : (getPart (withPart { part0 with ended := [epochEnd0] }) 0).ended = epochEnd0 :: [] ∧ epochEnd0.head.length = 64 := by
  decide +kernel

/-! ### Witnesses: Pewter -/

/-- A message of the rack manager for this module. -/
def pewIn (type : Nat) (b : List Byte) : List Byte :=
  leBytes 4 0x53574550 ++ leBytes 1 type ++ zeros 1 ++ leBytes 2 b.length ++ zeros 4 ++ zeros 4 ++ leBytes 8 Config.serial.toNat ++ b
theorem leNat_leBytes_eight (n : Nat) (h : n < 2 ^ 64) : leNat (leBytes 8 n) = n := by
  simp only [leBytes, leNat, BitVec.toNat_ofNat]
  omega
theorem pewIn_serial (type : Nat) (b : List Byte) : fld (pewIn type b) 0x10 8 = Config.serial.toNat := by
  have e : (pewIn type b).drop 16 = leBytes 8 Config.serial.toNat ++ b := by
    show List.drop 16 (leBytes 4 0x53574550 ++ leBytes 1 type ++ zeros 1 ++ leBytes 2 b.length ++ zeros 4 ++ zeros 4 ++
      leBytes 8 Config.serial.toNat ++ b) = _
    rfl
  unfold fld
  rw [e]
  exact leNat_leBytes_eight _ Config.serial.isLt
/-- A sound message is taken: its header has the form, its payload the length of its type. -/
theorem pewIn_parse (type : Nat) (b : List Byte) (ht : type < 0x80) (hl : pewLen type b = some b.length) (h16 : b.length < 65536)
    (hz : pewZero type b = true) : pewParse (pewIn type b) = .ok b := by
  have d : (pewIn type b).drop 24 = b := rfl
  have l : 24 ≤ (pewIn type b).length := by simp [pewIn, leBytes, zeros]
  have t : fld (pewIn type b) 4 1 = type := by
    show leNat (leBytes 1 type) = type
    simp only [leBytes, leNat, BitVec.toNat_ofNat]
    omega
  have n : fld (pewIn type b) 6 2 = b.length := by
    show leNat (leBytes 2 b.length) = b.length
    simp only [leBytes, leNat, BitVec.toNat_ofNat]
    omega
  unfold pewParse
  dsimp only
  rw [d, t, pewIn_serial, n, hl]
  have z1 : zeroAt (pewIn type b) 5 1 = true := by
    show (zeros 1).all (· == 0) = true
    decide
  have z2 : zeroAt (pewIn type b) 0x0C 4 = true := by
    show (zeros 4).all (· == 0) = true
    decide
  have s0 : fld (pewIn type b) 0 4 = 0x53574550 := by
    show leNat (leBytes 4 0x53574550) = 0x53574550
    decide
  rw [if_neg (by rw [s0]; omega), if_neg (by simp [z1, z2, hz])]
theorem witness_PewterAndItsMessages : ∀ x ∈ [(1, 0), (2, 32), (4, 4), (5, 16), (6, 4), (7, 0), (3, 1028)],
    pewParse (pewIn x.1 (zeros x.2)) = .ok (zeros x.2) := by
  intro x hx
  have hl : (zeros x.2).length = x.2 := List.length_replicate ..
  simp only [List.mem_cons, List.not_mem_nil, or_false] at hx
  rcases hx with rfl | rfl | rfl | rfl | rfl | rfl | rfl <;>
    exact pewIn_parse _ _ (by decide) (by rw [hl]; decide) (by rw [hl]; decide) (by decide)
/-- A message with a payload that its type does not have is malformed; an empty one is dropped. -/
theorem witness_PewterAndItsMessages_malformed : pewParse (pewIn 9 []) = .malformed ∧ pewParse [] = .drop ∧ fld (pewIn 9 []) 4 1 = 9 := by
  refine ⟨?_, by decide, rfl⟩
  unfold pewParse
  dsimp only
  rw [if_neg, if_pos (.inl (by decide))]
  rw [pewIn_serial]
  rintro (h | h | h | h)
  · revert h; decide
  · revert h; decide
  · revert h; decide
  · exact h rfl
theorem witness_PewterAndItsMessages_states : (modPew State.reset (fun w => { w with standby := false })).pew.standby = false ∧
    (modPew State.reset (fun w => { w with ready := false })).pew.ready = false ∧ State.reset.pew.standby = true ∧ State.reset.pew.ready = true ∧
    State.reset.pew.dynAddr = none ∧ (modPew State.reset (fun w => { w with dynAddr := some 127 })).pew.dynAddr.isSome = true ∧
    State.reset.pew.hbLost = false ∧ State.reset.pew.beat.getD State.reset.pew.readyAt + 200000000 ≤ (setStandby State.reset 200000000).sbTick := by
  decide +kernel
/-- R381: a settings block in its table, and one with an I/O cap below 1,000 W. -/
def settingsBlock (cap : Nat) : List Byte := leBytes 4 0x52574F50 ++ leBytes 2 1 ++ zeros 2 ++ leBytes 2 1000 ++ leBytes 2 cap ++ [4#8, 0#8] ++ zeros 18
theorem witness_PewterAndItsMessages_settings : settingsOk (settingsBlock 2400) = true ∧ settingsOk (settingsBlock 999) = false ∧
    (settingsBlock 2400).length = 32 := by decide +kernel
theorem witness_PewterAndItsMessages_plan : planCheck (zeros 4 ++ zeros 320) = some 1 ∧ fld ([16#8, 0#8] ++ zeros 322) 0 2 = 16 ∧
    pewLen 3 ([16#8, 0#8] ++ zeros 322) = some 324 := by decide +kernel
theorem witness_PewterAndItsMessages_return : (getPort (modPort State.reset 15 (fun p => { p with state := .fenced })) 15).state = .fenced ∧
    (utCore, 4095) ∈ (modPew State.reset (fun w => { w with fence := [(utCore, 4095)] })).pew.fence ∧ (utCore, 2) ∉ State.reset.pew.fence := by
  decide +kernel
/-- R393: a heartbeat ends the loss of the heartbeat. -/
theorem test_standby_loss : (nextOf (exec .standbyLoss State.reset)).map (fun t => (t.power.pg, t.pew.standby, t.pew.settings)) = some (false, false, none) := by
  decide +kernel

/-! ### Witnesses: sampling -/

/-- A sampling message of function 1 waits at Pewter on channel 31; function 1 has a sample ring or none. -/
def sampIn (m : List Byte) (rings : List Ring) : State := modHost (modSec (withPart part0) (fun e => { e with state := 4 })) (fun h => { h with
  dlActive := true, fns := [(1, { enabled := true })], mbbind := [(31, BitVec.ofNat 32 (2 ^ 31 + 1 + 2 ^ 8 * 0x80))], mbRx := [(31, [m])], rings := rings })
def sampleRing : Ring := { kind := .sample, fn := 1, id := 0, base := 4096, lg := 6, db := 3 }
def sringMsg : List Byte := patch (zeros 64) [(0, [1#8]), (8, leBytes 8 4096), (0x10, [6#8, 63#8]), (0x12, leBytes 2 2)]
theorem witness_SamplingSets_ring : let s := sampIn sringMsg []
    SGet [] s.host.mbRx 31 = sringMsg :: [] ∧ bindValid s 31 = true ∧ bindRcv s 31 = 0x80 ∧ bindSnd s 31 = 1 ∧ s.pew.standby = true ∧
    zeroAt sringMsg 1 7 = true ∧ zeroAt sringMsg 0x14 44 = true ∧ fld sringMsg 8 8 % 4096 = 0 ∧ dbRange s 1 (fld sringMsg 0x12 2) = true ∧
    dbFree s 1 (fld sringMsg 0x12 2) (some .sample) = true ∧ mayWrite s 1 = true ∧ findRing s .sample 1 0 = none ∧
    findRing (sampIn sringMsg [sampleRing]) .sample 1 0 = some sampleRing ∧ sampleRing.room = true := by decide +kernel
def ssetMsg (period : Nat) : List Byte := patch (zeros 64) [(0, [2#8, 3#8]), (8, leBytes 8 1), (0x10, leBytes 8 1), (0x18, leBytes 8 1), (0x20, leBytes 4 period)]
def setOf (period : Nat) : SampSet := { sectors := 1, cores := 1, kinds := 1, period := period, count := 0 }
theorem witness_SamplingSets_set : zeroAt (ssetMsg 100) 2 6 = true ∧ zeroAt (ssetMsg 100) 0x28 24 = true ∧ fld (ssetMsg 100) 1 1 = 3 ∧
    fld (ssetMsg 100000000) 0x20 4 = 100000000 ∧ fld (ssetMsg 99) 0x20 4 < 100 ∧ (sampRate [setOf 100]).1 ≤ 64000000 * (sampRate [setOf 100]).2 ∧
    64000000 * (sampRate [{ setOf 100 with cores := 2 ^ 64 - 1, kinds := 3 }]).2 < (sampRate [{ setOf 100 with cores := 2 ^ 64 - 1, kinds := 3 }]).1 ∧
    bit (getPart (sampIn sringMsg []) 0).sectors 0 = true ∧ bit (getPart (sampIn sringMsg []) 0).sectors 63 = false ∧
    fenced State.reset utCobalt 0 = false := by decide +kernel
theorem witness_SamplingSets_tick : let s := setTick (modPew (sampIn sringMsg [sampleRing]) (fun w => { w with sets := [(7, some (setOf 100))] })) 200
    SGet none s.pew.sets (4 * 1 + 3) = some (setOf 100) ∧ findRing s .sample 1 0 = some sampleRing ∧ s.tick % 100 = 0 ∧ (setOf 100).last < s.tick ∧
    s.power.pg = true ∧ mayWrite (modHost s (fun h => { h with dlActive := false })) 1 = false := by decide +kernel

/-! ### Witnesses: every state -/

theorem witness_SetupLockStays : let s := modHost State.reset (fun h => { h with lock := true })
    s.pending.head? ≠ some .perstAssert ∧ s.host.lock = true ∧ step s = .next (tickOnce s) ∧ (tickOnce s).host.lock = true := by
  refine ⟨by decide, rfl, rfl, ?_⟩
  decide +kernel
theorem witness_MailboxBindingsStay : (modSec State.reset (fun e => { e with state := 4 })).sec.state = 4 := by decide
theorem witness_EmptyQueueCountsATick : State.reset.pending = [] ∧ ∀ n < 64, cobRuns State.reset n = false := by decide +kernel
/-- A Cobalt core of sector 0 that runs the words at address 0, as changed by `f`; its vector is at 0x100. -/
def cobRun (ws : List Nat) (f : Cobalt → Cobalt) : State :=
  withCob (f { run := true, imem := SSetRun 0 [] 0 (ws.flatMap (leBytes 4)), csrs := [(csrTvec, 0x100)] })
theorem witness_EmptyQueueCountsATick_interrupt :
    (rvInterrupt (getCob (cobRun [] (fun c => { c with pend := 4, csrs := SSet 0 (SSet 0 c.csrs csrIe 2048) csrStatus 8 })) 0)).isSome = true := by
  decide +kernel
/-- ADDI x1, x0, 5; ECALL; LD x2, 0(x3); SD x3, 0(x3); an illegal word; a pc without memory. -/
theorem witness_EmptyQueueCountsATick_runs : (∀ w ∈ [0x00500093, 0x73, 0x0001B103, 0x0031B023], let c := getCob (cobRun [w] id) 0
      rvInterrupt c = none ∧ (rvFetch c 0).toOption = some (w, 4, some w)) ∧ rvOp 0x00500093 = 0x13 ∧ rvF3 0x00500093 = 0 ∧
    rvOp 0x0001B103 = 0x03 ∧ rvF3 0x0001B103 = 3 ∧ rvOp 0x0031B023 = 0x23 ∧ rvF3 0x0031B023 = 3 ∧
    (rvFetch (getCob (cobRun [0] id) 0) 0).toOption = some (0, 2, none) ∧
    (rvFetch (getCob (cobRun [] (fun c => { c with pc := 0x50000 })) 0) 0).toOption = none := by decide +kernel
theorem witness_EmptyQueueCountsATick_loads : let c := getCob (cobRun [0x0001B103] (fun c => { c with x := [(3, 0x20010000)] })) 0
    wrapInt 64 ((rx c (rvRs1 0x0001B103) : Int) + immI 0x0001B103) = 0x20010000 ∧ pmpOk c (dataUser c) 0 0x20010000 8 = true ∧
    pmpOk { c with user := true } (dataUser { c with user := true }) 0 0x20010000 8 = false ∧ cobRegion 0 0x20010008 8 = .none ∧
    cobRegion 0 0x10008000 8 = .window 1 0 ∧ windowOpenTo (cobRun [] id) 1 = false := by decide +kernel
/-- R148: the core's instruction adds, and its next would trap to the vector with the cause of an environment call. -/
theorem test_cobalt_addi : (nextOf (step (cobRun [0x00500093] id))).map (fun t => (rx (getCob t 0) 1, (getCob t 0).pc.toNat)) = some (5, 4) := by
  decide +kernel
theorem test_cobalt_ecall : (nextOf (step (cobRun [0x73] id))).map (fun t => ((getCob t 0).pc.toNat, csrRaw (getCob t 0) csrCause)) = some (0x100, 11) := by
  decide +kernel
theorem witness_StepsKeepTheInvariant : Inv { State.reset with pending := [.ident 15] } ∧
    (nextOf (step { State.reset with pending := [.ident 15] })).isSome = true := by
  refine ⟨⟨?_, ?_, ?_⟩, by decide +kernel⟩ <;> decide
theorem witness_CommandsComplete : (Instr.ident 15).wf = true ∧ (Instr.ident 16).wf = false := by decide
/-- A step on an empty queue counts a tick. -/
theorem test_idle_tick : (nextOf (step State.reset)).map (·.tick) = some 1 := by decide +kernel
/-- A word spells no command, so the queue is as it was. -/
theorem test_withFetchWord (s : State) (n w : Nat) : s.withFetchWord n w = s := rfl

end Sys2Proof.Tests
end

section
/-! Frames of all commands, and what a step runs. -/

namespace Sys2Proof.Machine

/-- Each command keeps to its frame: the law of its meaning, at the parts that the frame lists. -/
theorem exec_keeps_frame (c : Instr) (s : State) : Keeps c.frame s (exec c s) := by
  cases c with
  | itemTransfer => apply execItemTransfer_keeps <;> simp [Instr.frame, Within.refl]
  | handshakeAnomaly => apply execHandshakeAnomaly_keeps <;> simp [Instr.frame, Within.refl]
  | macFiring => apply execMacFiring_keeps <;> simp [Instr.frame, Within.refl]
  | maclFiring => apply execMaclFiring_keeps <;> simp [Instr.frame, Within.refl]
  | delayFiring => apply execDelayFiring_keeps <;> simp [Instr.frame, Within.refl]
  | testFiring => apply execTestFiring_keeps <;> simp [Instr.frame, Within.refl]
  | steerFiring => apply execSteerFiring_keeps <;> simp [Instr.frame, Within.refl]
  | mergeFiring => apply execMergeFiring_keeps <;> simp [Instr.frame, Within.refl]
  | gateFiring => apply execGateFiring_keeps <;> simp [Instr.frame, Within.refl]
  | repeatFiring => apply execRepeatFiring_keeps <;> simp [Instr.frame, Within.refl]
  | countFiring => apply execCountFiring_keeps <;> simp [Instr.frame, Within.refl]
  | stallTimeout => apply execStallTimeout_keeps <;> simp [Instr.frame, Within.refl]
  | variantPlace => apply execVariantPlace_keeps <;> simp [Instr.frame, Within.refl]
  | placementResume => apply execPlacementResume_keeps <;> simp [Instr.frame, Within.refl]
  | sectorLoad => apply execSectorLoad_keeps <;> simp [Instr.frame, Within.refl]
  | sectorLoadDone => apply execSectorLoadDone_keeps <;> simp [Instr.frame, Within.refl]
  | sectorClear => apply execSectorClear_keeps <;> simp [Instr.frame, Within.refl]
  | winWr => apply execWinWr_keeps <;> simp [Instr.frame, Within.refl]
  | winRd => apply execWinRd_keeps <;> simp [Instr.frame, Within.refl]
  | winRsp => apply execWinRsp_keeps <;> simp [Instr.frame, Within.refl]
  | rgdWrite => apply execRgdWrite_keeps <;> simp [Instr.frame, Within.refl]
  | evWrite => apply execEvWrite_keeps <;> simp [Instr.frame, Within.refl]
  | tagEntryWrite => apply execTagEntryWrite_keeps <;> simp [Instr.frame, Within.refl]
  | tileCheckDone => apply execTileCheckDone_keeps <;> simp [Instr.frame, Within.refl]
  | tileRefetchDone => apply execTileRefetchDone_keeps <;> simp [Instr.frame, Within.refl]
  | vctlGo => apply execVctlGo_keeps <;> simp [Instr.frame, Within.refl]
  | vctlAbort => apply execVctlAbort_keeps <;> simp [Instr.frame, Within.refl]
  | vnop => apply execVnop_keeps <;> simp [Instr.frame, Within.refl]
  | vld => apply execVld_keeps <;> simp [Instr.frame, Within.refl]
  | vst => apply execVst_keeps <;> simp [Instr.frame, Within.refl]
  | vmov => apply execVmov_keeps <;> simp [Instr.frame, Within.refl]
  | vsetx => apply execVsetx_keeps <;> simp [Instr.frame, Within.refl]
  | vseta => apply execVseta_keeps <;> simp [Instr.frame, Within.refl]
  | vadda => apply execVadda_keeps <;> simp [Instr.frame, Within.refl]
  | vsplat => apply execVsplat_keeps <;> simp [Instr.frame, Within.refl]
  | vand => apply execVand_keeps <;> simp [Instr.frame, Within.refl]
  | vor => apply execVor_keeps <;> simp [Instr.frame, Within.refl]
  | vxor => apply execVxor_keeps <;> simp [Instr.frame, Within.refl]
  | vnot => apply execVnot_keeps <;> simp [Instr.frame, Within.refl]
  | vshl => apply execVshl_keeps <;> simp [Instr.frame, Within.refl]
  | vshr => apply execVshr_keeps <;> simp [Instr.frame, Within.refl]
  | vsra => apply execVsra_keeps <;> simp [Instr.frame, Within.refl]
  | vadd => apply execVadd_keeps <;> simp [Instr.frame, Within.refl]
  | vsub => apply execVsub_keeps <;> simp [Instr.frame, Within.refl]
  | vmul => apply execVmul_keeps <;> simp [Instr.frame, Within.refl]
  | vmulq => apply execVmulq_keeps <;> simp [Instr.frame, Within.refl]
  | vmin => apply execVmin_keeps <;> simp [Instr.frame, Within.refl]
  | vmax => apply execVmax_keeps <;> simp [Instr.frame, Within.refl]
  | vcmp => apply execVcmp_keeps <;> simp [Instr.frame, Within.refl]
  | vsel => apply execVsel_keeps <;> simp [Instr.frame, Within.refl]
  | vcvt => apply execVcvt_keeps <;> simp [Instr.frame, Within.refl]
  | vlut => apply execVlut_keeps <;> simp [Instr.frame, Within.refl]
  | vclz => apply execVclz_keeps <;> simp [Instr.frame, Within.refl]
  | vred => apply execVred_keeps <;> simp [Instr.frame, Within.refl]
  | vspls => apply execVspls_keeps <;> simp [Instr.frame, Within.refl]
  | vcap => apply execVcap_keeps <;> simp [Instr.frame, Within.refl]
  | vsig => apply execVsig_keeps <;> simp [Instr.frame, Within.refl]
  | vwait => apply execVwait_keeps <;> simp [Instr.frame, Within.refl]
  | vwaitEnd => apply execVwaitEnd_keeps <;> simp [Instr.frame, Within.refl]
  | vwaitlong => apply execVwaitlong_keeps <;> simp [Instr.frame, Within.refl]
  | vsetl => apply execVsetl_keeps <;> simp [Instr.frame, Within.refl]
  | vloop => apply execVloop_keeps <;> simp [Instr.frame, Within.refl]
  | vend => apply execVend_keeps <;> simp [Instr.frame, Within.refl]
  | seLoad => apply execSeLoad_keeps <;> simp [Instr.frame, Within.refl]
  | seSetwd => apply execSeSetwd_keeps <;> simp [Instr.frame, Within.refl]
  | seSetp => apply execSeSetp_keeps <;> simp [Instr.frame, Within.refl]
  | seAbort => apply execSeAbort_keeps <;> simp [Instr.frame, Within.refl]
  | seAborted => apply execSeAborted_keeps <;> simp [Instr.frame, Within.refl]
  | seStart => apply execSeStart_keeps <;> simp [Instr.frame, Within.refl]
  | seQuery => apply execSeQuery_keeps <;> simp [Instr.frame, Within.refl]
  | seStat => apply execSeStat_keeps <;> simp [Instr.frame, Within.refl]
  | snop => apply execSnop_keeps <;> simp [Instr.frame, Within.refl]
  | setm => apply execSetm_keeps <;> simp [Instr.frame, Within.refl]
  | sets => apply execSets_keeps <;> simp [Instr.frame, Within.refl]
  | setc => apply execSetc_keeps <;> simp [Instr.frame, Within.refl]
  | limit => apply execLimit_keeps <;> simp [Instr.frame, Within.refl]
  | strm => apply execStrm_keeps <;> simp [Instr.frame, Within.refl]
  | strc => apply execStrc_keeps <;> simp [Instr.frame, Within.refl]
  | loop => apply execLoop_keeps <;> simp [Instr.frame, Within.refl]
  | endl => apply execEndl_keeps <;> simp [Instr.frame, Within.refl]
  | shape => apply execShape_keeps <;> simp [Instr.frame, Within.refl]
  | fill => apply execFill_keeps <;> simp [Instr.frame, Within.refl]
  | drain => apply execDrain_keeps <;> simp [Instr.frame, Within.refl]
  | feed => apply execFeed_keeps <;> simp [Instr.frame, Within.refl]
  | collect => apply execCollect_keeps <;> simp [Instr.frame, Within.refl]
  | streamTransferComplete => apply execStreamTransferComplete_keeps <;> simp [Instr.frame, Within.refl]
  | sig => apply execSig_keeps <;> simp [Instr.frame, Within.refl]
  | wait => apply execWait_keeps <;> simp [Instr.frame, Within.refl]
  | streamWaitEnd => apply execStreamWaitEnd_keeps <;> simp [Instr.frame, Within.refl]
  | cfg => apply execCfg_keeps <;> simp [Instr.frame, Within.refl]
  | endProg => apply execEndProg_keeps <;> simp [Instr.frame, Within.refl]
  | sdone => apply execSdone_keeps <;> simp [Instr.frame, Within.refl]
  | swatch => apply execSwatch_keeps <;> simp [Instr.frame, Within.refl]
  | streamReadError => apply execStreamReadError_keeps <;> simp [Instr.frame, Within.refl]
  | sliceWritebackDone => apply execSliceWritebackDone_keeps <;> simp [Instr.frame, Within.refl]
  | notice => apply execNotice_keeps <;> simp [Instr.frame, Within.refl]
  | flag => apply execFlag_keeps <;> simp [Instr.frame, Within.refl]
  | fwMsg => apply execFwMsg_keeps <;> simp [Instr.frame, Within.refl]
  | txGo => apply execTxGo_keeps <;> simp [Instr.frame, Within.refl]
  | rxPop => apply execRxPop_keeps <;> simp [Instr.frame, Within.refl]
  | cntCreate => apply execCntCreate_keeps <;> simp [Instr.frame, Within.refl]
  | cntClaim => apply execCntClaim_keeps <;> simp [Instr.frame, Within.refl]
  | claimHeldAnswer => apply execClaimHeldAnswer_keeps <;> simp [Instr.frame, Within.refl]
  | cntRetire => apply execCntRetire_keeps <;> simp [Instr.frame, Within.refl]
  | cntWithdraw => apply execCntWithdraw_keeps <;> simp [Instr.frame, Within.refl]
  | cntQuery => apply execCntQuery_keeps <;> simp [Instr.frame, Within.refl]
  | cntDestroy => apply execCntDestroy_keeps <;> simp [Instr.frame, Within.refl]
  | cntRsp => apply execCntRsp_keeps <;> simp [Instr.frame, Within.refl]
  | layerStart => apply execLayerStart_keeps <;> simp [Instr.frame, Within.refl]
  | layerComplete => apply execLayerComplete_keeps <;> simp [Instr.frame, Within.refl]
  | promptCheck => apply execPromptCheck_keeps <;> simp [Instr.frame, Within.refl]
  | prefillChunkStart => apply execPrefillChunkStart_keeps <;> simp [Instr.frame, Within.refl]
  | prefillChunkCommit => apply execPrefillChunkCommit_keeps <;> simp [Instr.frame, Within.refl]
  | decodeStepStart => apply execDecodeStepStart_keeps <;> simp [Instr.frame, Within.refl]
  | decodeStepOutput => apply execDecodeStepOutput_keeps <;> simp [Instr.frame, Within.refl]
  | decodeStepCommit => apply execDecodeStepCommit_keeps <;> simp [Instr.frame, Within.refl]
  | streamEntryWrite => apply execStreamEntryWrite_keeps <;> simp [Instr.frame, Within.refl]
  | completionWrite => apply execCompletionWrite_keeps <;> simp [Instr.frame, Within.refl]
  | recordRingWrite => apply execRecordRingWrite_keeps <;> simp [Instr.frame, Within.refl]
  | steeringBindComplete => apply execSteeringBindComplete_keeps <;> simp [Instr.frame, Within.refl]
  | halfDispatch => apply execHalfDispatch_keeps <;> simp [Instr.frame, Within.refl]
  | jobArrival => apply execJobArrival_keeps <;> simp [Instr.frame, Within.refl]
  | jobComplete => apply execJobComplete_keeps <;> simp [Instr.frame, Within.refl]
  | resultArrival => apply execResultArrival_keeps <;> simp [Instr.frame, Within.refl]
  | texchExpiry => apply execTexchExpiry_keeps <;> simp [Instr.frame, Within.refl]
  | xlimitExpiry => apply execXlimitExpiry_keeps <;> simp [Instr.frame, Within.refl]
  | memoryReadReturn => apply execMemoryReadReturn_keeps <;> simp [Instr.frame, Within.refl]
  | tier1ReadLate => apply execTier1ReadLate_keeps <;> simp [Instr.frame, Within.refl]
  | periodicRefresh => apply execPeriodicRefresh_keeps <;> simp [Instr.frame, Within.refl]
  | rfmRequest => apply execRfmRequest_keeps <;> simp [Instr.frame, Within.refl]
  | maintenanceWindow => apply execMaintenanceWindow_keeps <;> simp [Instr.frame, Within.refl]
  | periodicCalibration => apply execPeriodicCalibration_keeps <;> simp [Instr.frame, Within.refl]
  | patrolScrub => apply execPatrolScrub_keeps <;> simp [Instr.frame, Within.refl]
  | sramScrub => apply execSramScrub_keeps <;> simp [Instr.frame, Within.refl]
  | opticalBiasCalibration => exact execOpticalBiasCalibration_keeps (.refl _ _)
  | ageingMeasurement => apply execAgeingMeasurement_keeps <;> simp [Instr.frame, Within.refl]
  | hostlimExpiry => apply execHostlimExpiry_keeps <;> simp [Instr.frame, Within.refl]
  | pcieCompletionTimeout => apply execPcieCompletionTimeout_keeps <;> simp [Instr.frame, Within.refl]
  | hostErrorCompletion => apply execHostErrorCompletion_keeps <;> simp [Instr.frame, Within.refl]
  | linkLeavesDlActive => apply execLinkLeavesDlActive_keeps <;> simp [Instr.frame, Within.refl]
  | rd => apply execRd_keeps <;> simp [Instr.frame, Within.refl]
  | wr => apply execWr_keeps <;> simp [Instr.frame, Within.refl]
  | rdata => apply execRdata_keeps <;> simp [Instr.frame, Within.refl]
  | wack => apply execWack_keeps <;> simp [Instr.frame, Within.refl]
  | peerlimExpiry => apply execPeerlimExpiry_keeps <;> simp [Instr.frame, Within.refl]
  | segment => apply execSegment_keeps <;> simp [Instr.frame, Within.refl]
  | ack => apply execAck_keeps <;> simp [Instr.frame, Within.refl]
  | nack => apply execNack_keeps <;> simp [Instr.frame, Within.refl]
  | chainAbort => apply execChainAbort_keeps <;> simp [Instr.frame, Within.refl]
  | chainPredecessorSilent => apply execChainPredecessorSilent_keeps <;> simp [Instr.frame, Within.refl]
  | pollPass => apply execPollPass_keeps <;> simp [Instr.frame, Within.refl]
  | doorbellLineRead => apply execDoorbellLineRead_keeps <;> simp [Instr.frame, Within.refl]
  | descriptorFetch => apply execDescriptorFetch_keeps <;> simp [Instr.frame, Within.refl]
  | queueCreate => apply execQueueCreate_keeps <;> simp [Instr.frame, Within.refl]
  | queueDelete => apply execQueueDelete_keeps <;> simp [Instr.frame, Within.refl]
  | recordRingSet => apply execRecordRingSet_keeps <;> simp [Instr.frame, Within.refl]
  | telemetryReadDrops => apply execTelemetryReadDrops_keeps <;> simp [Instr.frame, Within.refl]
  | telemetryReadEnergy => apply execTelemetryReadEnergy_keeps <;> simp [Instr.frame, Within.refl]
  | partCreate => apply execPartCreate_keeps <;> simp [Instr.frame, Within.refl]
  | partDestroy => apply execPartDestroy_keeps <;> simp [Instr.frame, Within.refl]
  | capSet => apply execCapSet_keeps <;> simp [Instr.frame, Within.refl]
  | requestOpen => apply execRequestOpen_keeps <;> simp [Instr.frame, Within.refl]
  | requestCancel => apply execRequestCancel_keeps <;> simp [Instr.frame, Within.refl]
  | steeringBind => apply execSteeringBind_keeps <;> simp [Instr.frame, Within.refl]
  | modelSelect => apply execModelSelect_keeps <;> simp [Instr.frame, Within.refl]
  | modelSelectComplete => apply execModelSelectComplete_keeps <;> simp [Instr.frame, Within.refl]
  | modelChain => apply execModelChain_keeps <;> simp [Instr.frame, Within.refl]
  | modelEvict => apply execModelEvict_keeps <;> simp [Instr.frame, Within.refl]
  | imageRegister => apply execImageRegister_keeps <;> simp [Instr.frame, Within.refl]
  | registrationDone => apply execRegistrationDone_keeps <;> simp [Instr.frame, Within.refl]
  | graphRun => apply execGraphRun_keeps <;> simp [Instr.frame, Within.refl]
  | copy => apply execCopy_keeps <;> simp [Instr.frame, Within.refl]
  | copyComplete => apply execCopyComplete_keeps <;> simp [Instr.frame, Within.refl]
  | fence => apply execFence_keeps <;> simp [Instr.frame, Within.refl]
  | fenceRelease => apply execFenceRelease_keeps <;> simp [Instr.frame, Within.refl]
  | counterOp => apply execCounterOp_keeps <;> simp [Instr.frame, Within.refl]
  | aqenWrite => apply execAqenWrite_keeps <;> simp [Instr.frame, Within.refl]
  | setupLock => apply execSetupLock_keeps <;> simp [Instr.frame, Within.refl]
  | pollWrite => apply execPollWrite_keeps <;> simp [Instr.frame, Within.refl]
  | mbpop => apply execMbpop_keeps <;> simp [Instr.frame, Within.refl]
  | txsend => apply execTxsend_keeps <;> simp [Instr.frame, Within.refl]
  | mbox => apply execMbox_keeps <;> simp [Instr.frame, Within.refl]
  | registerWrite => apply execRegisterWrite_keeps <;> simp [Instr.frame, Within.refl]
  | msixVectorUnmask => apply execMsixVectorUnmask_keeps <;> simp [Instr.frame, Within.refl]
  | imodTimerExpiry => apply execImodTimerExpiry_keeps <;> simp [Instr.frame, Within.refl]
  | vfFlr => apply execVfFlr_keeps <;> simp [Instr.frame, Within.refl]
  | vfEnableClear => apply execVfEnableClear_keeps <;> simp [Instr.frame, Within.refl]
  | pfFlr => apply execPfFlr_keeps <;> simp [Instr.frame, Within.refl]
  | flitReceive => apply execFlitReceive_keeps <;> simp [Instr.frame, Within.refl]
  | nak => apply execNak_keeps <;> simp [Instr.frame, Within.refl]
  | ackIdleTimer => apply execAckIdleTimer_keeps <;> simp [Instr.frame, Within.refl]
  | ackStallTimeout => apply execAckStallTimeout_keeps <;> simp [Instr.frame, Within.refl]
  | laneLockLoss => apply execLaneLockLoss_keeps <;> simp [Instr.frame, Within.refl]
  | portRelock => apply execPortRelock_keeps <;> simp [Instr.frame, Within.refl]
  | retrainTimeout => apply execRetrainTimeout_keeps <;> simp [Instr.frame, Within.refl]
  | downRetry => apply execDownRetry_keeps <;> simp [Instr.frame, Within.refl]
  | portLock => apply execPortLock_keeps <;> simp [Instr.frame, Within.refl]
  | identSend => apply execIdentSend_keeps <;> simp [Instr.frame, Within.refl]
  | ident => apply execIdent_keeps <;> simp [Instr.frame, Within.refl]
  | noRecord => apply execNoRecord_keeps <;> simp [Instr.frame, Within.refl]
  | unitErrorRecovery => apply execUnitErrorRecovery_keeps <;> simp [Instr.frame, Within.refl]
  | selfTestDone => apply execSelfTestDone_keeps <;> simp [Instr.frame, Within.refl]
  | returnTestStart => apply execReturnTestStart_keeps <;> simp [Instr.frame, Within.refl]
  | enAssert => apply execEnAssert_keeps <;> simp [Instr.frame, Within.refl]
  | enDeassert => apply execEnDeassert_keeps <;> simp [Instr.frame, Within.refl]
  | powerGood => apply execPowerGood_keeps <;> simp [Instr.frame, Within.refl]
  | railStartFail => apply execRailStartFail_keeps <;> simp [Instr.frame, Within.refl]
  | railOutOfWindow => apply execRailOutOfWindow_keeps <;> simp [Instr.frame, Within.refl]
  | inputUndervoltage => apply execInputUndervoltage_keeps <;> simp [Instr.frame, Within.refl]
  | inputCollapse => apply execInputCollapse_keeps <;> simp [Instr.frame, Within.refl]
  | inputRestart => apply execInputRestart_keeps <;> simp [Instr.frame, Within.refl]
  | inputOvervoltage => apply execInputOvervoltage_keeps <;> simp [Instr.frame, Within.refl]
  | pfwRecognised => apply execPfwRecognised_keeps <;> simp [Instr.frame, Within.refl]
  | pfwPowerOff => apply execPfwPowerOff_keeps <;> simp [Instr.frame, Within.refl]
  | droopTrip => apply execDroopTrip_keeps <;> simp [Instr.frame, Within.refl]
  | droopRelease => apply execDroopRelease_keeps <;> simp [Instr.frame, Within.refl]
  | powerSample => apply execPowerSample_keeps <;> simp [Instr.frame, Within.refl]
  | governorAction => apply execGovernorAction_keeps <;> simp [Instr.frame, Within.refl]
  | floorPaceClimb => apply execFloorPaceClimb_keeps <;> simp [Instr.frame, Within.refl]
  | departureReturn => apply execDepartureReturn_keeps <;> simp [Instr.frame, Within.refl]
  | thermalSample => apply execThermalSample_keeps <;> simp [Instr.frame, Within.refl]
  | thermalStopEnd => apply execThermalStopEnd_keeps <;> simp [Instr.frame, Within.refl]
  | hardwareTrip => apply execHardwareTrip_keeps <;> simp [Instr.frame, Within.refl]
  | heartbeatLost => apply execHeartbeatLost_keeps <;> simp [Instr.frame, Within.refl]
  | perstAssert => apply execPerstAssert_keeps <;> simp [Instr.frame, Within.refl]
  | bootStart => apply execBootStart_keeps <;> simp [Instr.frame, Within.refl]
  | lpddr6TrainingDone => apply execLpddr6TrainingDone_keeps <;> simp [Instr.frame, Within.refl]
  | bundleRegister => apply execBundleRegister_keeps <;> simp [Instr.frame, Within.refl]
  | bundleFetched => apply execBundleFetched_keeps <;> simp [Instr.frame, Within.refl]
  | fuseProgramDone => apply execFuseProgramDone_keeps <;> simp [Instr.frame, Within.refl]
  | bootRunning => apply execBootRunning_keeps <;> simp [Instr.frame, Within.refl]
  | getVersion => apply execGetVersion_keeps <;> simp [Instr.frame, Within.refl]
  | getCapabilities => apply execGetCapabilities_keeps <;> simp [Instr.frame, Within.refl]
  | negotiateAlgorithms => apply execNegotiateAlgorithms_keeps <;> simp [Instr.frame, Within.refl]
  | getDigests => apply execGetDigests_keeps <;> simp [Instr.frame, Within.refl]
  | getCertificate => apply execGetCertificate_keeps <;> simp [Instr.frame, Within.refl]
  | challenge => apply execChallenge_keeps <;> simp [Instr.frame, Within.refl]
  | getMeasurements => apply execGetMeasurements_keeps <;> simp [Instr.frame, Within.refl]
  | spdmUnsupportedRequest => apply execSpdmUnsupportedRequest_keeps <;> simp [Instr.frame, Within.refl]
  | bootStatus => apply execBootStatus_keeps <;> simp [Instr.frame, Within.refl]
  | sealRingSet => apply execSealRingSet_keeps <;> simp [Instr.frame, Within.refl]
  | sealGet => apply execSealGet_keeps <;> simp [Instr.frame, Within.refl]
  | epochTimeEnd => apply execEpochTimeEnd_keeps <;> simp [Instr.frame, Within.refl]
  | epochSeal => apply execEpochSeal_keeps <;> simp [Instr.frame, Within.refl]
  | sealRingWrite => apply execSealRingWrite_keeps <;> simp [Instr.frame, Within.refl]
  | standbyUp => apply execStandbyUp_keeps <;> simp [Instr.frame, Within.refl]
  | pewterReady => apply execPewterReady_keeps <;> simp [Instr.frame, Within.refl]
  | standbyLoss => apply execStandbyLoss_keeps <;> simp [Instr.frame, Within.refl]
  | setdasa => apply execSetdasa_keeps <;> simp [Instr.frame, Within.refl]
  | entdaa => apply execEntdaa_keeps <;> simp [Instr.frame, Within.refl]
  | i3cIndexWrite => apply execI3cIndexWrite_keeps <;> simp [Instr.frame, Within.refl]
  | i3cRegisterWrite => apply execI3cRegisterWrite_keeps <;> simp [Instr.frame, Within.refl]
  | heartbeat => apply execHeartbeat_keeps <;> simp [Instr.frame, Within.refl]
  | settingsPut => apply execSettingsPut_keeps <;> simp [Instr.frame, Within.refl]
  | planPut => apply execPlanPut_keeps <;> simp [Instr.frame, Within.refl]
  | telemGet => apply execTelemGet_keeps <;> simp [Instr.frame, Within.refl]
  | logGet => apply execLogGet_keeps <;> simp [Instr.frame, Within.refl]
  | returnUnit => apply execReturnUnit_keeps <;> simp [Instr.frame, Within.refl]
  | settingsGet => apply execSettingsGet_keeps <;> simp [Instr.frame, Within.refl]
  | sring => apply execSring_keeps <;> simp [Instr.frame, Within.refl]
  | sset => apply execSset_keeps <;> simp [Instr.frame, Within.refl]
  | sstop => apply execSstop_keeps <;> simp [Instr.frame, Within.refl]
  | sampleTick => apply execSampleTick_keeps <;> simp [Instr.frame, Within.refl]
  | hostReadCompletion => apply execHostReadCompletion_keeps <;> simp [Instr.frame, Within.refl]
  | hostLinkDlActive => apply execHostLinkDlActive_keeps <;> simp [Instr.frame, Within.refl]
  | vfEnableSet => apply execVfEnableSet_keeps <;> simp [Instr.frame, Within.refl]
  | partCreateComplete => apply execPartCreateComplete_keeps <;> simp [Instr.frame, Within.refl]
  | cobaltTimerCompare => apply execCobaltTimerCompare_keeps <;> simp [Instr.frame, Within.refl]
  | startRampPaceStep => apply execStartRampPaceStep_keeps <;> simp [Instr.frame, Within.refl]
  | rackManagerMalformed => apply execRackManagerMalformed_keeps <;> simp [Instr.frame, Within.refl]

/-- Settles O57, by the law of each command's meaning. -/
theorem commandsKeepTheirFrames : Obligations.CommandsKeepTheirFrames := exec_keeps_frame

/-- Settles O52: the queue's rest is what the command meets. -/
theorem stepRunsTheFrontCommand : Obligations.StepRunsTheFrontCommand :=
  fun c rest s => step_front { s with pending := c :: rest } c rest rfl

end Sys2Proof.Machine
end

section
/-! The set-up lock (R15): only PERST# and the loss of main power clear it. -/

namespace Sys2Proof.Machine

/-- R15 over one step: a lock that was set is still set, or main power is off. -/
def LockHeld (s t : State) : Prop := s.host.lock = true → t.host.lock = true ∨ t.power.pg = false

/-- An outcome holds the lock when its next state, if it answers one, does. -/
def HoldsLock (s : State) (o : Host.Outcome State Fault Refusal) : Prop := ∀ t, o = .next t → LockHeld s t

/-- Every part of the state but the set-up. -/
def notSetup : List Field := [.tick, .sbTick, .freeCtr, .host, .parts, .rtes, .fab, .power, .sec, .pew, .eng, .mem]

variable {fs : List Field} {s t u : State}

theorem LockHeld.refl (s : State) : LockHeld s s := fun h => .inl h

theorem LockHeld.of_dark (h : t.power.pg = false) : LockHeld s t := fun _ => .inr h

theorem LockHeld.of_lock_eq (h : t.host.lock = s.host.lock) : LockHeld s t := fun hl => .inl (h.trans hl)

theorem LockHeld.whenB {c : Bool} (h : c = true → LockHeld s t) : LockHeld s (whenB c s t) := by
  cases c with
  | false => exact .refl s
  | true => exact h rfl

theorem HoldsLock.next (h : LockHeld s t) : HoldsLock s (.next t) := by
  intro u hu; cases hu; exact h

theorem HoldsLock.onUnit {k : Bool} (h : LockHeld s t) : HoldsLock s (onUnit k t) := by
  cases k with
  | false => intro u hu; cases hu
  | true => exact .next h

/-- A frame without the set-up keeps a lock that is set. -/
theorem Within.lock (h : Within fs s t) (hf : .setup ∉ fs) (hl : s.host.lock = true) : t.host.lock = true :=
  (h.setup.resolve_left hf).1 hl

theorem Within.lockHeld (h : Within fs s t) (hf : .setup ∉ fs) : LockHeld s t := fun hl => .inl (h.lock hf hl)

theorem Within.trans_lockHeld (h : Within fs s t) (hf : .setup ∉ fs) (k : LockHeld t u) : LockHeld s u :=
  fun hl => k (h.lock hf hl)

theorem Keeps.holdsLock {o} (h : Keeps fs s o) (hf : .setup ∉ fs) : HoldsLock s o :=
  fun t ht => (h t ht).lockHeld hf

/-! ### Main power that is lost stays off within the step -/

theorem mainLost_dark (s : State) (ps : PwrState) : (mainLost s ps).power.pg = false := rfl

theorem ibiCheck_power (s : State) : (ibiCheck s).power = s.power :=
  (ibiCheck_within (fs := [.pew]) (.head _) (.refl _ s)).power.resolve_left (by decide)

theorem recognise_pg (s : State) : (recognise s).power.pg = s.power.pg := by
  unfold recognise
  split
  · rfl
  · simp only [ibiCheck_power, modPow_power, modPew_power]

theorem ibiCheck_mainLost_lockHeld (v : State) (ps : PwrState) : LockHeld s (ibiCheck (mainLost v ps)) :=
  .of_dark (by rw [ibiCheck_power, mainLost_dark])

/-! ### The commands that may touch the set-up -/

/-- R383: a rail of one unit fences it and keeps the lock; a shared rail ends main power. -/
theorem railOut_lockHeld (s : State) (rail : Nat) : LockHeld s (railOut s rail) := by
  unfold railOut
  have hoff : ∀ {p o} (f : Power → Power), Within notSetup s (modPow (logRail s rail p o) f) := fun f =>
    modPow_within f (by decide) (logRail_within (by decide) (.refl _ s))
  have hfence : ∀ {v a b}, Within notSetup s v → Within notSetup s (fenceUnit v a b) :=
    fun h => fenceUnit_within (by decide) (by decide) (by decide) (by decide) (by decide) h
  have hdiscard : ∀ {v p}, Within notSetup s v → LockHeld s (discardWork v p) :=
    fun h => (discardWork_within (by decide) (by decide) (by decide) (by decide) h).lockHeld (by decide)
  split_ifs
  · exact hdiscard (hfence (hoff _))
  · exact hdiscard (foldl_within _ _ (hoff _) (fun _ _ h => hfence h))
  · exact hdiscard (hfence (hoff _))
  · exact (groupDown_within (by decide) (by decide) (by decide) (by decide) (by decide) (by decide) (by decide)
      (hoff _)).lockHeld (by decide)
  · exact ibiCheck_mainLost_lockHeld _ _

theorem execRailOutOfWindow_holdsLock (rail : Nat) (s : State) : HoldsLock s (execRailOutOfWindow rail s) :=
  .onUnit (.whenB fun _ => railOut_lockHeld s rail)

theorem startAbort_lockHeld {ps : PwrState} (h : Within [.power, .pew] s t) : LockHeld s (startAbort t ps) :=
  (startAbort_within (by decide) (by decide) h).lockHeld (by decide)

theorem execInputCollapse_holdsLock (vin : Nat) (s : State) : HoldsLock s (execInputCollapse vin s) := by
  refine .next (.whenB fun _ => ?_)
  dsimp only
  split_ifs
  · exact ibiCheck_mainLost_lockHeld _ _
  · exact startAbort_lockHeld (modPow_within _ (.head _) (modPow_within _ (.head _) (.refl _ s)))
  · exact .of_lock_eq rfl

theorem execInputOvervoltage_holdsLock (vin : Nat) (s : State) : HoldsLock s (execInputOvervoltage vin s) := by
  refine .next (.whenB fun _ => ?_)
  dsimp only
  split_ifs
  · exact ibiCheck_mainLost_lockHeld _ _
  · exact startAbort_lockHeld (modPow_within _ (.head _) (.refl _ s))
  · exact .of_lock_eq rfl

theorem execPfwPowerOff_holdsLock (s : State) : HoldsLock s (execPfwPowerOff s) := by
  refine .next ?_
  split
  · refine .whenB fun _ => .of_dark ?_
    rw [recognise_pg, ibiCheck_power, mainLost_dark]
  · exact .refl s

theorem execDroopRelease_holdsLock (domain held : Nat) (s : State) : HoldsLock s (execDroopRelease domain held s) := by
  refine .onUnit (.whenB fun _ => ?_)
  have hheld : ∀ {p f}, Within notSetup s (addHeld (modPow s f) p held) := fun {_ f} =>
    addHeld_within (by decide) (modPow_within f (by decide) (.refl _ s))
  dsimp only
  split
  · exact hheld.trans_lockHeld (by decide) (railOut_lockHeld _ _)
  · exact (releaseAll_within (by decide) hheld).lockHeld (by decide)

theorem execHardwareTrip_holdsLock (s : State) : HoldsLock s (execHardwareTrip s) :=
  .next (.whenB fun _ => ibiCheck_mainLost_lockHeld _ _)

/-- R428: a loss of standby power ends main power first. -/
theorem execStandbyLoss_holdsLock (s : State) : HoldsLock s (execStandbyLoss s) := by
  refine .next (.whenB fun _ => ?_)
  dsimp only
  split
  · exact .of_dark rfl
  · exact .of_lock_eq rfl

theorem bootState_host (s : State) (n : Nat) : (bootState s n).host = s.host :=
  (bootState_within (fs := [.sec, .pew]) (by decide) (by decide) (.refl _ s)).host.resolve_left (by decide)

theorem portTo_host (s : State) (n : Nat) (st : PortState) : (portTo s n st).host = s.host :=
  (portTo_within (fs := [.fab]) (by decide) (.refl _ s)).host.resolve_left (by decide)

/-- R322: boot writes the binding table, of the host interface nothing else. -/
theorem execBootRunning_holdsLock (s : State) : HoldsLock s (execBootRunning s) := by
  refine .next (.whenB fun _ => .of_lock_eq ?_)
  dsimp only
  rw [bootState_host, modPow_host]
  refine List.foldlRecOn (motive := fun t : State => t.host.lock = s.host.lock) _ _ rfl fun t ht n _ => ?_
  split
  · split
    · rwa [portTo_host]
    · exact ht
  · exact ht

/-! ### Every step -/

/-- The nine commands whose frame has the set-up, PERST# apart, hold the lock or end main power; the others cannot clear it. -/
theorem exec_holdsLock (c : Instr) (s : State) (hc : c ≠ .perstAssert) : HoldsLock s (exec c s) := by
  cases c with
  | perstAssert => exact absurd rfl hc
  | railOutOfWindow rail => exact execRailOutOfWindow_holdsLock rail s
  | inputCollapse vin => exact execInputCollapse_holdsLock vin s
  | inputOvervoltage vin => exact execInputOvervoltage_holdsLock vin s
  | pfwPowerOff => exact execPfwPowerOff_holdsLock s
  | droopRelease domain held => exact execDroopRelease_holdsLock domain held s
  | hardwareTrip => exact execHardwareTrip_holdsLock s
  | standbyLoss => exact execStandbyLoss_holdsLock s
  | bootRunning => exact execBootRunning_holdsLock s
  | _ => exact (exec_keeps_frame _ s).holdsLock (by simp [Instr.frame])

theorem tickOnce_lockHeld (s : State) : LockHeld s (tickOnce s) :=
  (tickOnce_within (fs := [.tick, .sbTick, .eng]) (by decide) (by decide) (by decide) (.refl _ s)).lockHeld (by decide)

theorem step_lockHeld (s : State) (hp : s.pending.head? ≠ some .perstAssert) : HoldsLock s (step s) := by
  cases hq : s.pending with
  | nil => rw [step_idle s hq]; exact .next (tickOnce_lockHeld s)
  | cons c rest =>
    rw [step_front s c rest hq]
    exact exec_holdsLock c { s with pending := rest } (by simpa [hq] using hp)

/-- Settles O59: the step lemma over the front command, or the tick of an empty queue. -/
theorem setupLockStays : Obligations.SetupLockStays :=
  fun s t hp hs hl => step_lockHeld s hp t hs hl

end Sys2Proof.Machine
end

section
/-! The module after reset (R13). -/

namespace Sys2Proof.Machine

/-- R294: the set-up registers of every function after reset. -/
theorem getFn_reset (fn : Nat) : getFn State.reset fn = {} := rfl

/-- R322: no mailbox channel is bound after reset. -/
theorem bindValid_reset (ch : Nat) : bindValid State.reset ch = false := by
  show bit 0 31 = false
  decide

/-- R291: after reset the PF alone is enabled. -/
theorem fnOn_reset (fn : Nat) : fnOn State.reset fn = decide (fn = 0) := by
  simp [fnOn, getFn_reset, Bool.beq_eq_decide_eq]

/-- Settles O54: every unit reads as its store's default. -/
theorem resetState : Obligations.ResetState :=
  ⟨rfl, rfl, rfl, rfl, rfl, rfl, rfl,
    fun fn => ⟨getFn_reset fn, rfl, rfl, rfl, rfl, rfl, rfl, rfl, rfl⟩,
    bindValid_reset, fnOn_reset, fun _ => rfl, fun _ => rfl, fun _ => rfl, fun _ => rfl⟩

end Sys2Proof.Machine
end

section
/-! Set-up registers: admin rings, lock, poll interval, register writes and interrupts (R293 to R296, R319, R320, R323). -/

namespace Sys2Proof.Machine

theorem onUnit_known {k : Bool} (t : State) (h : k = true) : onUnit k t = .next t := if_pos h

theorem whenB_true {c : Bool} (s t : State) (h : c = true) : whenB c s t = t := if_pos h

theorem whenB_false {c : Bool} (s t : State) (h : c = false) : whenB c s t = s := by rw [h]; rfl

/-! ### Admin rings (R294, R295) -/

/-- R295: what AQEN_WRITE asks of the admin registers before it makes the rings. -/
theorem aqBad_eq_false_iff (s : State) (fn : Nat) {a c v : Nat} (ha : a = bits (getFn s fn).aqCfg.toNat 0 4)
    (hc : c = bits (getFn s fn).aqCfg.toNat 4 4) (hv : v = bits (getFn s fn).aqCfg.toNat 8 8) :
    aqBad s fn = false ↔ (4 ≤ a ∧ a ≤ 12 ∧ 4 ≤ c ∧ c ≤ 12 ∧ v ≤ 63 ∧ (getFn s fn).aqBase ≠ 0 ∧ (getFn s fn).dbBase ≠ 0 ∧
      (fn = 0 ∨ s.host.lock = true)) := by
  subst ha hc hv
  simp only [aqBad, inRange, Bool.or_eq_false_iff, Bool.not_eq_false', Bool.and_eq_true, decide_eq_true_eq,
    decide_eq_false_iff_not, beq_eq_false_iff_ne, Bool.and_eq_false_iff, bne_eq_false_iff_eq, not_lt, and_assoc]

/-- R295: the admin ring of a kind as it stood, or one that has not run. -/
def adminOld (s : State) (k : RingKind) (fn db : Nat) : Ring :=
  (findRing s k fn 0).getD { kind := k, fn := fn, id := 0, base := 0, lg := 0, db := db }

theorem adminOld_of_find {s : State} {k : RingKind} {fn db : Nat} {r : Ring} (h : findRing s k fn 0 = some r) :
    adminOld s k fn db = r := by
  rw [adminOld, h]; rfl

/-- The ring that a search finds is of the kind, function and number searched for. -/
theorem findRing_spec {s : State} {k : RingKind} {fn id : Nat} {r : Ring} (h : findRing s k fn id = some r) :
    r.kind = k ∧ r.fn = fn ∧ r.id = id := by
  simpa only [Bool.and_eq_true, beq_iff_eq, and_assoc] using List.find?_some h

theorem adminOld_spec (s : State) (k : RingKind) (fn db : Nat) :
    (adminOld s k fn db).kind = k ∧ (adminOld s k fn db).fn = fn ∧ (adminOld s k fn db).id = 0 := by
  cases h : findRing s k fn 0 with
  | none => simp [adminOld, h]
  | some r => rw [adminOld_of_find h]; exact findRing_spec h

/-- R294: the two admin rings that AQEN_WRITE makes. -/
def adminSub (s : State) (fn : Nat) : Ring :=
  { adminOld s .sub fn 0 with base := (getFn s fn).aqBase.toNat, lg := bits (getFn s fn).aqCfg.toNat 0 4 }
def adminComp (s : State) (fn : Nat) : Ring :=
  { adminOld s .comp fn 1 with
    base := (getFn s fn).aqBase.toNat + roundUp (64 * 2 ^ bits (getFn s fn).aqCfg.toNat 0 4) 4096
    lg := bits (getFn s fn).aqCfg.toNat 4 4
    vec := bits (getFn s fn).aqCfg.toNat 8 8 }

theorem adminRings_rings (s : State) (fn : Nat) : (adminRings s fn).host.rings =
    s.host.rings.filter (fun x => !(x.fn == fn && x.id == 0 && (x.kind == .sub || x.kind == .comp))) ++
      [adminSub s fn, adminComp s fn] := rfl

/-- The rings that stood before are gone, so a search among the admin rings finds one of the two made. -/
theorem findRing_adminRings (s : State) (fn : Nat) {k : RingKind} (hk : k = .sub ∨ k = .comp) :
    findRing (adminRings s fn) k fn 0 =
      [adminSub s fn, adminComp s fn].find? (fun r => r.kind == k && r.fn == fn && r.id == 0) := by
  rw [findRing, adminRings_rings, List.find?_append, List.find?_eq_none.2, Option.none_or]
  intro r hr
  have hout := (List.mem_filter.1 hr).2
  rintro hin
  simp only [Bool.and_eq_true, beq_iff_eq] at hin
  obtain ⟨⟨rfl, rfl⟩, hid⟩ := hin
  rcases hk with hk | hk <;> simp [hk, hid] at hout

theorem findRing_adminRings_sub (s : State) (fn : Nat) : findRing (adminRings s fn) .sub fn 0 = some (adminSub s fn) := by
  obtain ⟨hkind, hfn, hid⟩ := adminOld_spec s .sub fn 0
  rw [findRing_adminRings s fn (.inl rfl), List.find?_cons_of_pos]
  simp [adminSub, hkind, hfn, hid]

theorem findRing_adminRings_comp (s : State) (fn : Nat) : findRing (adminRings s fn) .comp fn 0 = some (adminComp s fn) := by
  obtain ⟨hkind, -, -⟩ := adminOld_spec s .sub fn 0
  obtain ⟨hkind', hfn', hid'⟩ := adminOld_spec s .comp fn 1
  rw [findRing_adminRings s fn (.inr rfl), List.find?_cons_of_neg, List.find?_cons_of_pos]
  · simp [adminComp, hkind', hfn', hid']
  · simp [adminSub, hkind]

/-- The state that an AQEN_WRITE of 1 answers when R295 allows it. -/
def aqStarted (s : State) (fn : Nat) : State :=
  let t := adminRings (modFn s fn (fun r => { r with aqen := true })) fn
  if fn = 0 then t else reopenHost t (fn - 1)

/-- What follows the making of the rings touches partitions alone. -/
theorem aqStarted_within (s : State) (fn : Nat) :
    Within [.parts] (adminRings (modFn s fn (fun r => { r with aqen := true })) fn) (aqStarted s fn) :=
  ite_within (.refl _ _) (reopenHost_within (.head _) (.refl _ _))

theorem aqStarted_host (s : State) (fn : Nat) :
    (aqStarted s fn).host = (adminRings (modFn s fn (fun r => { r with aqen := true })) fn).host :=
  (aqStarted_within s fn).host.resolve_left (by decide)

theorem aqStarted_eng (s : State) (fn : Nat) : (aqStarted s fn).eng = s.eng :=
  (aqStarted_within s fn).eng.resolve_left (by decide)

theorem aqStarted_mem (s : State) (fn : Nat) : (aqStarted s fn).mem = s.mem :=
  (aqStarted_within s fn).mem.resolve_left (by decide)

theorem getFn_aqStarted (s : State) (fn m : Nat) :
    getFn (aqStarted s fn) m = getFn (modFn s fn (fun r => { r with aqen := true })) m := by
  rw [getFn, aqStarted_host]; rfl

theorem adminSub_modFn_aqen (s : State) (fn : Nat) :
    adminSub (modFn s fn (fun r => { r with aqen := true })) fn = adminSub s fn := by
  simp only [adminSub, getFn_modFn]; rfl

theorem adminComp_modFn_aqen (s : State) (fn : Nat) :
    adminComp (modFn s fn (fun r => { r with aqen := true })) fn = adminComp s fn := by
  simp only [adminComp, getFn_modFn]; rfl

theorem findRing_aqStarted_sub (s : State) (fn : Nat) : findRing (aqStarted s fn) .sub fn 0 = some (adminSub s fn) := by
  rw [findRing, aqStarted_host, ← adminSub_modFn_aqen]
  exact findRing_adminRings_sub _ fn

theorem findRing_aqStarted_comp (s : State) (fn : Nat) : findRing (aqStarted s fn) .comp fn 0 = some (adminComp s fn) := by
  rw [findRing, aqStarted_host, ← adminComp_modFn_aqen]
  exact findRing_adminRings_comp _ fn

theorem getPart_aqStarted_ne (s : State) {fn p : Nat} (h : p + 1 ≠ fn) : getPart (aqStarted s fn) p = getPart s p := by
  unfold aqStarted reopenHost
  dsimp only
  split
  · rfl
  · split
    · rfl
    · exact getPart_modPart_ne _ _ (by omega)

/-- R297: the host traffic of a partition whose requests of before the reset are gone is let through again. -/
theorem getPart_aqStarted (s : State) (p : Nat) : getPart (aqStarted s (p + 1)) p =
    if (reqsOf s p).any (fun e => e.2.aborted) then getPart s p else { getPart s p with hostCut := false } := by
  have hreqs : reqsOf (adminRings (modFn s (p + 1) (fun r => { r with aqen := true })) (p + 1)) p = reqsOf s p := rfl
  unfold aqStarted reopenHost
  dsimp only
  rw [if_neg (Nat.succ_ne_zero p), Nat.add_sub_cancel, hreqs]
  split
  · rfl
  · rw [getPart_modPart]; rfl

/-! ### Poll interval -/

theorem poll_floor (v : Word) : (if v < 25 then 25 else v) = BitVec.ofNat 32 (max v.toNat 25) := by
  split
  next h => rw [Nat.max_eq_right (show v.toNat ≤ 25 from Nat.le_of_lt h)]; rfl
  next h => rw [Nat.max_eq_left (show 25 ≤ v.toNat from Nat.le_of_not_lt h), BitVec.ofNat_toNat, BitVec.setWidth_eq]

/-! ### Registers that a write changes -/

theorem errstat_mask (i : Nat) (h : i < 64) : (0x3E#64).getLsbD i = decide (1 ≤ i ∧ i ≤ 5) := by
  revert i; decide

/-- R294: bits 1 to 5 of ERRSTAT clear where a 1 is written. -/
theorem errstat_clear (e v : Dword) {i : Nat} (h : i < 64) :
    (e &&& ~~~(v &&& 0x3E#64)).getLsbD i = (e.getLsbD i && !(decide (1 ≤ i ∧ i ≤ 5) && v.getLsbD i)) := by
  simp only [BitVec.getLsbD_and, BitVec.getLsbD_not, errstat_mask i h, h, decide_true, Bool.true_and]
  rw [Bool.and_comm (v.getLsbD i)]

theorem writeAdmin_held (s : State) (fn : Nat) (f) (h : s.host.lock = true ∨ (getFn s fn).aqen = true) :
    writeAdmin s fn f = s := if_pos h

theorem writeAdmin_open (s : State) (fn : Nat) (f) (hl : s.host.lock = false) (hq : (getFn s fn).aqen = false) :
    writeAdmin s fn f = modFn s fn f := by simp [writeAdmin, hl, hq]

/-- R293: a read-only or reserved offset of BAR0 takes no write. -/
theorem bar0Write_ignored (s : State) (fn : Nat) {off : Nat} (v : Dword)
    (h : off < 0x20 ∨ off = 0x58 ∨ (0x68 ≤ off ∧ off < 0x2000) ∨ 0x2400 ≤ off) : bar0Write s fn off v = s := by
  unfold bar0Write
  iterate 9 rw [if_neg (by omega)]

/-- R320: the two halves of an entry of the MSI-X table. -/
theorem bar0Write_msix (s : State) (fn : Nat) {off : Nat} (v : Dword) (h : 0x2000 ≤ off ∧ off < 0x2400) :
    bar0Write s fn off v =
      if off % 16 = 0 then modFn s fn (fun r => { r with msixAddr := SSet 0 r.msixAddr ((off - 0x2000) / 16) v })
      else modFn s fn (fun r => { r with
        msixData := SSet 0 r.msixData ((off - 0x2000) / 16) (v.setWidth 32)
        msixOpen := if v.getLsbD 32 then r.msixOpen &&& ~~~(1#64 <<< ((off - 0x2000) / 16)) else r.msixOpen }) := by
  unfold bar0Write
  iterate 8 rw [if_neg (by omega)]
  rw [if_pos h]

/-- R323: the words past a mailbox buffer, its TXSEND word included, take no register write. -/
theorem bar2Write_ignored (s : State) (fn : Nat) {off : Nat} (v : Dword) (h : 0x38 ≤ off % 0x80 ∨ 0x1000 ≤ off) :
    bar2Write s fn off v = s := if_pos (h.imp_right (by omega))

theorem bar2Write_buffer (s : State) (fn : Nat) {off : Nat} (v : Dword) (h : off % 0x80 < 0x38) (hoff : off < 0x1000) :
    bar2Write s fn off v =
      if mbDropped s fn (off / 0x80) then setErrCh s fn 4 (off / 0x80) else mbPut s fn (off / 0x80) (off % 0x80) v :=
  if_neg (by omega)

/-- R293: reserved offsets of BAR0 read 0. -/
theorem bar0Read_reserved (s : State) (fn : Nat) {off : Nat} (h : 0x180 ≤ off) (h' : off < 0x2000) : bar0Read s fn off = 0 := by
  unfold bar0Read
  dsimp only
  iterate 17 rw [if_neg (by omega)]

theorem getFn_hostWrite (s : State) (fn addr : Nat) (bs : List Byte) (n : Nat) : getFn (hostWrite s fn addr bs) n = getFn s n := rfl

theorem hostWrite_writes (s : State) (fn addr : Nat) (bs : List Byte) :
    (hostWrite s fn addr bs).host.writes = s.host.writes ++ [⟨fn, addr, bs⟩] := rfl

theorem hostWrite_parts (s : State) (fn addr : Nat) (bs : List Byte) : (hostWrite s fn addr bs).parts = s.parts := rfl

theorem hostWrite_mem (s : State) (fn addr : Nat) (bs : List Byte) : (hostWrite s fn addr bs).mem = s.mem := rfl

theorem sendVec_open {s : State} {fn v : Nat} (h : (getFn s fn).msixOpen.getLsbD v = true) : sendVec s fn v =
    hostWrite s fn (SGet 0 (getFn s fn).msixAddr v).toNat (leBytes 4 (SGet 0 (getFn s fn).msixData v).toNat) := if_pos h

/-! ### The commands, for a function that the host reaches -/

section reached

variable {s : State} {fn : Nat} (hfn : fn < 17) (hr : hostReach s fn = true)
include hfn hr

theorem exec_aqenWrite_reached (on : Bool) : exec (.aqenWrite fn on) s =
    .next (if !on then modFn s fn (fun r => { r with aqen := false })
      else if (getFn s fn).aqen then s else if aqBad s fn then setErr s fn 1 else aqStarted s fn) := by
  rw [exec_aqenWrite, execAqenWrite, onUnit_known _ (decide_eq_true hfn), whenB_true _ _ hr]; rfl

theorem exec_pollWrite_reached (v : Word) : exec (.pollWrite fn v) s = .next (pollSet s fn v) := by
  rw [exec_pollWrite, execPollWrite, onUnit_known _ (decide_eq_true hfn), whenB_true _ _ hr]

omit hr in
theorem exec_registerWrite_unaligned {sp off : Nat} (v : Dword) (hsp : sp < 2) (h : off % 8 ≠ 0) :
    exec (.registerWrite sp fn off v) s = .next s := by
  rw [exec_registerWrite, execRegisterWrite, onUnit_known _ (decide_eq_true (.inl ⟨hsp, hfn⟩)), if_pos h]

theorem exec_registerWrite_bar0 {off : Nat} (v : Dword) (h : off % 8 = 0) :
    exec (.registerWrite 0 fn off v) s = .next (bar0Write s fn off v) := by
  rw [exec_registerWrite, execRegisterWrite, onUnit_known _ (decide_eq_true (.inl ⟨by decide, hfn⟩)), if_neg (not_not.2 h),
    if_pos rfl, whenB_true _ _ hr]

theorem exec_registerWrite_bar2 {off : Nat} (v : Dword) (h : off % 8 = 0) :
    exec (.registerWrite 1 fn off v) s = .next (bar2Write s fn off v) := by
  rw [exec_registerWrite, execRegisterWrite, onUnit_known _ (decide_eq_true (.inl ⟨by decide, hfn⟩)), if_neg (not_not.2 h),
    if_neg (by decide), if_pos rfl, whenB_true _ _ hr]

theorem exec_msixVectorUnmask_reached {vec : Nat} (hv : vec < 64) : exec (.msixVectorUnmask fn vec) s =
    .next (let t := modFn s fn (fun r => { r with msixOpen := r.msixOpen ||| (1#64 <<< vec) })
      if (getFn t fn).pba.getLsbD vec then
        sendVec (modFn t fn (fun r => { r with pba := r.pba &&& ~~~(1#64 <<< vec) })) fn vec
      else t) := by
  rw [exec_msixVectorUnmask, execMsixVectorUnmask, onUnit_known _ (decide_eq_true ⟨hfn, hv⟩), whenB_true _ _ hr]

/-- R320: a masked vector that pends sends its message when it is unmasked. -/
theorem exec_msixVectorUnmask_pending {vec : Nat} (hv : vec < 64) (hp : (getFn s fn).pba.getLsbD vec = true) :
    ∃ t, exec (.msixVectorUnmask fn vec) s = .next t ∧
      t.host.writes = s.host.writes ++
        [⟨fn, (SGet 0 (getFn s fn).msixAddr vec).toNat, leBytes 4 (SGet 0 (getFn s fn).msixData vec).toNat⟩] ∧
      (getFn t fn).msixOpen.getLsbD vec = true ∧ (getFn t fn).pba.getLsbD vec = false ∧ t.parts = s.parts ∧ t.mem = s.mem := by
  refine ⟨_, exec_msixVectorUnmask_reached hfn hr hv, ?_⟩
  have hopen : ((getFn s fn).msixOpen ||| (1#64 <<< vec)).getLsbD vec = true := by simp [hv]
  have hclear : ((getFn s fn).pba &&& ~~~(1#64 <<< vec)).getLsbD vec = false := by simp [hv]
  dsimp only
  rw [if_pos (by rw [getFn_modFn]; exact hp), sendVec_open (by simpa only [getFn_modFn] using hopen)]
  simp only [getFn_hostWrite, getFn_modFn, hostWrite_writes, hostWrite_parts, hostWrite_mem, modFn_host, modFn_parts, modFn_mem,
    hopen, hclear, and_self]

theorem exec_msixVectorUnmask_idle {vec : Nat} (hv : vec < 64) (hp : (getFn s fn).pba.getLsbD vec = false) :
    exec (.msixVectorUnmask fn vec) s = .next (modFn s fn (fun r => { r with msixOpen := r.msixOpen ||| (1#64 <<< vec) })) := by
  rw [exec_msixVectorUnmask_reached hfn hr hv]
  simp [hp]

/-- R295: an AQEN_WRITE of 1 that the rule allows. -/
theorem exec_aqenWrite_allowed (hq : (getFn s fn).aqen = false) (hok : aqBad s fn = false) :
    ∃ t sub comp, exec (.aqenWrite fn true) s = .next t ∧ (getFn t fn).aqen = true ∧
      findRing t .sub fn 0 = some sub ∧ findRing t .comp fn 0 = some comp ∧
      sub.base = (getFn s fn).aqBase.toNat ∧ sub.lg = bits (getFn s fn).aqCfg.toNat 0 4 ∧
      comp.base = (getFn s fn).aqBase.toNat + roundUp (64 * 2 ^ bits (getFn s fn).aqCfg.toNat 0 4) 4096 ∧
      comp.lg = bits (getFn s fn).aqCfg.toNat 4 4 ∧ comp.vec = bits (getFn s fn).aqCfg.toNat 8 8 ∧
      (∀ r, findRing s .sub fn 0 = some r → sub.cnt = r.cnt ∧ sub.idx = r.idx) ∧
      (∀ r, findRing s .comp fn 0 = some r → comp.cnt = r.cnt ∧ comp.idx = r.idx) ∧
      (∀ m, m ≠ fn → getFn t m = getFn s m) ∧ (∀ p, p + 1 ≠ fn → getPart t p = getPart s p) ∧
      (∀ p, p + 1 = fn → getPart t p = if (reqsOf s p).any (fun e => e.2.aborted) then getPart s p
        else { getPart s p with hostCut := false }) ∧ t.eng = s.eng ∧ t.mem = s.mem := by
  refine ⟨aqStarted s fn, adminSub s fn, adminComp s fn, ?_, ?_, findRing_aqStarted_sub s fn, findRing_aqStarted_comp s fn,
    rfl, rfl, rfl, rfl, rfl, ?_, ?_, ?_, fun p hp => getPart_aqStarted_ne s hp, ?_, aqStarted_eng s fn, aqStarted_mem s fn⟩
  · simp [exec_aqenWrite_reached hfn hr, hq, hok]
  · rw [getFn_aqStarted, getFn_modFn]
  · intro r h
    rw [adminSub, adminOld_of_find h]
    exact ⟨rfl, rfl⟩
  · intro r h
    rw [adminComp, adminOld_of_find h]
    exact ⟨rfl, rfl⟩
  · intro m hm
    rw [getFn_aqStarted, getFn_modFn_ne _ _ hm]
  · rintro p rfl
    exact getPart_aqStarted s p

/-- R320: the addresses, data and masks of the MSI-X table. -/
theorem exec_registerWrite_msix {n : Nat} (hn : n < 64) (v : Dword) :
    exec (.registerWrite 0 fn (0x2000 + 16 * n) v) s = .next (modFn s fn (fun r => { r with msixAddr := SSet 0 r.msixAddr n v })) ∧
    exec (.registerWrite 0 fn (0x2008 + 16 * n) v) s = .next (modFn s fn (fun r => { r with
      msixData := SSet 0 r.msixData n (v.setWidth 32)
      msixOpen := if v.getLsbD 32 then r.msixOpen &&& ~~~(1#64 <<< n) else r.msixOpen })) := by
  constructor
  · rw [exec_registerWrite_bar0 hfn hr v (by omega), bar0Write_msix s fn v (by omega), if_pos (by omega),
      show (0x2000 + 16 * n - 0x2000) / 16 = n by omega]
  · rw [exec_registerWrite_bar0 hfn hr v (by omega), bar0Write_msix s fn v (by omega), if_neg (by omega),
      show (0x2008 + 16 * n - 0x2000) / 16 = n by omega]

/-- R294, R295: the admin registers while the lock or AQEN guards them. -/
theorem exec_registerWrite_admin_held {off : Nat} (v : Dword) (h : s.host.lock = true ∨ (getFn s fn).aqen = true)
    (hoff : off = 0x20 ∨ off = 0x28 ∨ off = 0x30 ∨ off = 0x38) : exec (.registerWrite 0 fn off v) s = .next s := by
  rcases hoff with rfl | rfl | rfl | rfl <;>
    simp [exec_registerWrite_bar0 hfn hr, bar0Write, writeAdmin_held s fn _ h]

theorem exec_registerWrite_admin_open (v : Dword) (hl : s.host.lock = false) (hq : (getFn s fn).aqen = false) :
    exec (.registerWrite 0 fn 0x20 v) s = .next (modFn s fn (fun r => { r with aqBase := v &&& 0xFFFFFFFFFFFFF000#64 })) ∧
    exec (.registerWrite 0 fn 0x28 v) s = .next (modFn s fn (fun r => { r with aqCfg := v &&& 0xFFFF#64 })) ∧
    exec (.registerWrite 0 fn 0x30 v) s = .next (modFn s fn (fun r => { r with dbBase := v &&& 0xFFFFFFFFFFFFF000#64 })) ∧
    exec (.registerWrite 0 fn 0x38 v) s = .next (modFn s fn (fun r => { r with dbCfg := v &&& 0xFF#64 })) := by
  simp [exec_registerWrite_bar0 hfn hr, bar0Write, writeAdmin_open s fn _ hl hq]

/-- R294, R319: moderation, mailbox interrupt enable and the bits of ERRSTAT that a 1 clears. -/
theorem exec_registerWrite_interrupt (v : Dword) :
    exec (.registerWrite 0 fn 0x48 v) s = .next (modFn s fn (fun r => { r with imod := v &&& 0xFFFF00FF#64 })) ∧
    exec (.registerWrite 0 fn 0x50 v) s = .next (modFn s fn (fun r => { r with mbien := v.getLsbD 3 })) ∧
    ∃ t, exec (.registerWrite 0 fn 0x60 v) s = .next t ∧ ∀ i, i < 64 → (getFn t fn).errstat.getLsbD i =
      ((getFn s fn).errstat.getLsbD i && !(decide (1 ≤ i ∧ i ≤ 5) && v.getLsbD i)) := by
  have hrun : ∀ off, off % 8 = 0 → exec (.registerWrite 0 fn off v) s = .next (bar0Write s fn off v) :=
    fun off h => exec_registerWrite_bar0 hfn hr v h
  refine ⟨by simp [hrun, bar0Write], by simp [hrun, bar0Write],
    modFn s fn (fun r => { r with errstat := r.errstat &&& ~~~(v &&& 0x3E#64) }), by simp [hrun, bar0Write], fun i hi => ?_⟩
  rw [getFn_modFn, errstat_clear _ _ hi]

theorem exec_registerWrite_ignored {sp off : Nat} (v : Dword) (hsp : sp < 2)
    (h : off % 8 ≠ 0 ∨ (sp = 0 ∧ (off < 0x20 ∨ off = 0x58 ∨ (0x68 ≤ off ∧ off < 0x2000) ∨ 0x2400 ≤ off)) ∨
      (sp = 1 ∧ (0x38 ≤ off % 0x80 ∨ 0x1000 ≤ off))) : exec (.registerWrite sp fn off v) s = .next s := by
  by_cases h8 : off % 8 = 0
  · rcases h.resolve_left (not_not.2 h8) with ⟨rfl, h0⟩ | ⟨rfl, h1⟩
    · rw [exec_registerWrite_bar0 hfn hr v h8, bar0Write_ignored s fn v h0]
    · rw [exec_registerWrite_bar2 hfn hr v h8, bar2Write_ignored s fn v h1]
  · exact exec_registerWrite_unaligned hfn v hsp h8

end reached

/-! ### The PF's registers -/

/-- R296: the lock is the PF's, once. -/
theorem exec_setupLock_pf {s : State} (hr : hostReach s 0 = true) (hl : s.host.lock = false) : exec (.setupLock 0) s =
    .next { s with host := { s.host with lock := true }
                   sec := { s.sec with lockDigest := sha512 ((List.range 17).flatMap (lockRegs s)) } } := by
  rw [exec_setupLock, execSetupLock, onUnit_known _ (decide_eq_true (by decide)), whenB_true _ _ (by simp [hr, hl])]; rfl

theorem exec_setupLock_other {s : State} {fn : Nat} (hfn : fn < 17) (h : fn ≠ 0 ∨ s.host.lock = true) :
    exec (.setupLock fn) s = .next s := by
  rw [exec_setupLock, execSetupLock, onUnit_known _ (decide_eq_true hfn), whenB_false]
  rcases h with h | h <;> simp [h]

/-- R294: POLL, at least MINPOLL. -/
theorem pollSet_pf {s : State} (v : Word) (hl : s.host.lock = false) :
    pollSet s 0 v = { s with host := { s.host with poll := BitVec.ofNat 32 (max v.toNat 25) } } := by
  rw [← poll_floor v, pollSet, hl]; rfl

theorem pollSet_other {s : State} {fn : Nat} (v : Word) (h : fn ≠ 0 ∨ s.host.lock = true) : pollSet s fn v = s := by
  rcases h with h | h <;> simp [pollSet, h]

/-- R276: the PF's configuration space. -/
theorem exec_registerWrite_conf {s : State} {off : Nat} (hr : hostReach s 0 = true) (v : Dword) (h : off % 8 = 0) :
    exec (.registerWrite 2 0 off v) s = .next (confWrite s off v) := by
  rw [exec_registerWrite, execRegisterWrite, onUnit_known _ (decide_eq_true (.inr (.inl ⟨rfl, rfl⟩))), if_neg (not_not.2 h),
    if_neg (by decide), if_neg (by decide), if_pos rfl, whenB_true _ _ hr]

theorem confWrite_devctl {s : State} {v : Dword} (hrd : bits v.toNat 12 3 ≤ 5) (hpl : bits v.toNat 5 3 ≤ 2) :
    confWrite s 0 v = modHost s (fun h => { h with mrrs := 128 * 2 ^ bits v.toNat 12 3, mps := 128 * 2 ^ bits v.toNat 5 3 }) := by
  rw [confWrite, if_pos rfl, if_neg (by omega)]

/-! ### Moderation (R319) -/

theorem exec_imodTimerExpiry_found {s : State} {fn ring : Nat} {r : Ring} (hfn : fn < 17)
    (h : s.host.rings.find? (fun r => r.fn == fn && r.db == ring && r.kind != .sub) = some r) :
    exec (.imodTimerExpiry fn ring) s =
      .next (whenB (decide (0 < r.unsig ∧ 0 < r.vec ∧ r.first + bits (getFn s fn).imod.toNat 16 16 ≤ s.tick)) s
        (sendVec (modRing s r.kind fn r.id (fun r => { r with unsig := 0 })) fn r.vec)) := by
  rw [exec_imodTimerExpiry, execImodTimerExpiry, onUnit_known _ (decide_eq_true hfn), h]

/-! ### A Cobalt core's endpoint (R150, R188) -/

section cobalt

variable {s : State} {n : Nat} (hn : n < 64) (hrun : (getCob s n).run = true)
include hn hrun

theorem exec_registerWrite_cob {off : Nat} (v : Dword) (h : off % 8 = 0) :
    exec (.registerWrite 3 n off v) s = .next (cobWrite s n off v) := by
  rw [exec_registerWrite, execRegisterWrite, onUnit_known _ (decide_eq_true (.inr (.inr ⟨.inl rfl, hn⟩))), if_neg (not_not.2 h),
    if_neg (by decide), if_neg (by decide), if_neg (by decide), if_pos rfl, whenB_true _ _ hrun]

theorem exec_registerWrite_timer (v : Dword) :
    exec (.registerWrite 4 n 0 v) s = .next (modCob s n (fun c => { c with timecmp := some v.toNat })) := by
  rw [exec_registerWrite, execRegisterWrite, onUnit_known _ (decide_eq_true (.inr (.inr ⟨.inr rfl, hn⟩))), if_neg (by decide),
    if_neg (by decide), if_neg (by decide), if_neg (by decide), if_neg (by decide), whenB_true _ _ hrun]

end cobalt

/-- R188: TXBUF of a core that has no message under way. -/
theorem cobWrite_txbuf_idle {s : State} {n off : Nat} (v : Dword) (hoff : off < 0x110) (hb : (getCob s n).busy = false) :
    cobWrite s n off v = modCob s n (fun c => { c with txbuf := SSetRun 0 c.txbuf off (leBytes 8 v.toNat) }) := by
  rw [cobWrite, if_pos hoff, modCob, modCob, hb]; rfl

theorem getCob_cobWrite_busy {s : State} {n off : Nat} (v : Dword) (hoff : off < 0x110) (hb : (getCob s n).busy = true) :
    getCob (cobWrite s n off v) n = getCob s n := by
  rw [cobWrite, if_pos hoff, getCob_modCob, if_pos hb]

theorem cobWrite_denied {s : State} {n : Nat} {v : Dword} (hv : v.getLsbD 1 = true) :
    cobWrite s n 0x208 v = modCob s n (fun c => { c with denied := false }) := by
  rw [cobWrite, if_neg (by decide), if_pos ⟨rfl, hv⟩]

/-- Settles O39: for a function that the host reaches, and for a Cobalt core that runs, clause by clause. -/
theorem setupRegisters : Obligations.SetupRegisters := by
  refine ⟨fun s fn hfn hr => ⟨?_, ?_, ?_, ?_, fun h => exec_setupLock_other hfn h, ?_,
    fun off v h hoff => exec_registerWrite_admin_held hfn hr v h hoff,
    fun v hl hq => exec_registerWrite_admin_open hfn hr v hl hq,
    exec_registerWrite_interrupt hfn hr,
    fun n v hn => exec_registerWrite_msix hfn hr hn v,
    fun sp off v hsp h => exec_registerWrite_ignored hfn hr v hsp h, ?_, ?_, ?_, ?_, ?_⟩, fun s n v hn hrun => ⟨?_, ?_, ?_, ?_⟩⟩
  case refine_1 => simp [exec_aqenWrite_reached hfn hr]
  case refine_2 => intro hq; simp [exec_aqenWrite_reached hfn hr, hq]
  case refine_3 =>
    intro hq a c v ha hc hv
    have hbad := aqBad_eq_false_iff s fn ha hc hv
    refine ⟨fun h => ?_, fun h => ?_⟩
    · simp [exec_aqenWrite_reached hfn hr, hq, Bool.eq_true_of_not_eq_false (mt hbad.1 h)]
    · subst ha hc hv
      exact exec_aqenWrite_allowed hfn hr hq (hbad.2 h)
  case refine_4 => rintro rfl hl; exact exec_setupLock_pf hr hl
  case refine_5 =>
    intro v
    rw [exec_pollWrite_reached hfn hr]
    refine ⟨?_, fun h => by rw [pollSet_other v h]⟩
    rintro rfl hl
    rw [pollSet_pf v hl]
  case refine_6 =>
    intro off v h8 hlo hhi
    rw [exec_registerWrite_bar2 hfn hr v h8, bar2Write_buffer s fn v hlo hhi]
    exact ⟨fun h => by rw [if_pos h], fun h => by rw [h]; rfl⟩
  case refine_7 =>
    rintro v rfl
    exact ⟨fun hrd hpl => by rw [exec_registerWrite_conf hr v rfl, confWrite_devctl hrd hpl],
      exec_registerWrite_conf hr v rfl, exec_registerWrite_conf hr v rfl⟩
  case refine_8 => exact ⟨rfl, rfl, rfl, rfl, rfl, fun off h h' => bar0Read_reserved s fn h h'⟩
  case refine_9 =>
    rintro vec r hv rfl
    exact ⟨exec_msixVectorUnmask_pending hfn hr hv, exec_msixVectorUnmask_idle hfn hr hv⟩
  case refine_10 =>
    intro ring r hfind
    rw [exec_imodTimerExpiry_found hfn hfind]
    exact ⟨fun h1 h2 h3 => by rw [whenB_true _ _ (decide_eq_true ⟨h1, h2, h3⟩)],
      fun h => by rw [whenB_false _ _ (decide_eq_false (by omega))]⟩
  case refine_11 =>
    intro off h8 hoff hb
    rw [exec_registerWrite_cob hn hrun v h8, cobWrite_txbuf_idle v hoff hb]
  case refine_12 => exact fun off h8 hoff hb => ⟨_, exec_registerWrite_cob hn hrun v h8, getCob_cobWrite_busy v hoff hb⟩
  case refine_13 => intro hv; rw [exec_registerWrite_cob hn hrun v rfl, cobWrite_denied hv]
  case refine_14 => exact exec_registerWrite_timer hn hrun v

end Sys2Proof.Machine
end

section
/-! Resets from the host side: functions, VF Enable and PERST# (R297, R298, R410). -/

namespace Sys2Proof.Machine

/-- A run of operations that each leave a part of the state alone. -/
theorem foldl_proj {α β : Type} (π : State → β) (g : State → α → State) (hg : ∀ s x, π (g s x) = π s) (l : List α)
    (s : State) : π (l.foldl g s) = π s := by
  induction l generalizing s with
  | nil => rfl
  | cons x xs ih => rw [List.foldl_cons, ih, hg]

/-! ### VF Enable -/

theorem vfsOff_of_none {s : State} (h : vfsOn s = []) : vfsOff s = s := by rw [vfsOff, h]; rfl

/-- The VFs depend on the registers of the functions past the PF alone. -/
theorem vfsOn_congr {s t : State} (h : ∀ n, n ≠ 0 → getFn t n = getFn s n) : vfsOn t = vfsOn s := by
  refine List.filter_congr fun n _ => ?_
  by_cases hn : n = 0
  · simp [hn]
  · rw [h n hn]

/-- VF Enable set for the functions of a list. -/
def enableVfs (s : State) (l : List Nat) : State :=
  l.foldl (fun s n => if n = 0 then s else modFn s n (fun r => { r with enabled := true })) s

theorem enableVfs_eq (s : State) (l : List Nat) :
    enableVfs s l = { s with host := { s.host with fns := (enableVfs s l).host.fns } } := by
  induction l generalizing s with
  | nil => rfl
  | cons n l ih =>
    rw [enableVfs, List.foldl_cons]
    refine (ih _).trans ?_
    split <;> rfl

theorem getFn_enableVfs (s : State) (l : List Nat) (k : Nat) : getFn (enableVfs s l) k =
    if k ∈ l ∧ k ≠ 0 then { getFn s k with enabled := true } else getFn s k := by
  induction l generalizing s with
  | nil => rfl
  | cons n l ih =>
    rw [enableVfs, List.foldl_cons]
    refine (ih _).trans ?_
    by_cases hn : n = 0
    · by_cases hk : k = 0 <;> simp [hn, hk]
    · by_cases hk : k = n
      · subst hk; simp [hn]
      · simp [hn, hk, getFn_modFn_ne]

/-! ### The registers of a reset function -/

theorem getFn_resetRegs (s : State) (fn n : Nat) : getFn (resetRegs s fn) n = getFn (modFn s fn (fun r =>
    { aqBase := r.aqBase, aqCfg := r.aqCfg, dbBase := r.dbBase, dbCfg := r.dbCfg, enabled := r.enabled })) n := rfl

theorem getFn_resetRegs_ne (s : State) {fn n : Nat} (h : n ≠ fn) : getFn (resetRegs s fn) n = getFn s n := by
  rw [getFn_resetRegs, getFn_modFn_ne _ _ h]

theorem resetRegs_rings (s : State) (fn : Nat) : ∀ r ∈ (resetRegs s fn).host.rings, r.fn ≠ fn := by
  intro r hr
  simpa using (List.mem_filter.1 hr).2

/-! ### The requests of a reset function -/

/-- The counts of commits of all partitions are as they were. -/
def SameCw (s t : State) : Prop := ∀ k, (getPart t k).cw = (getPart s k).cw

theorem SameCw.of_parts {s t : State} (h : t.parts = s.parts) : SameCw s t := fun k => by rw [getPart, h]; rfl

theorem SameCw.trans {s t u : State} (h : SameCw s t) (k : SameCw t u) : SameCw s u := fun p => (k p).trans (h p)

theorem modPart_sameCw (s : State) (p : Nat) (f : Part → Part) (h : ∀ P, (f P).cw = P.cw) : SameCw s (modPart s p f) := by
  intro k
  by_cases hk : k = p
  · rw [hk, getPart_modPart, h]
  · rw [getPart_modPart_ne _ _ hk]

theorem ctxFlags_sameCw (s : State) (p : Nat) (c : Ctx) (f : Flg) : SameCw s (ctxFlags s p c f) := by
  refine modPart_sameCw s p _ fun P => ?_
  cases c with
  | chunk => rfl
  | run id => rfl
  | step => dsimp only; split <;> [split; skip] <;> rfl

theorem clearSector_sameCw (s : State) (n : Nat) : SameCw s (clearSector s n) := by
  unfold clearSector
  dsimp only
  split
  · exact ctxFlags_sameCw s _ _ _
  · exact fun _ => rfl

theorem foldl_sameCw {α : Type} (g : State → α → State) (hg : ∀ s x, SameCw s (g s x)) (l : List α) (s : State) :
    SameCw s (l.foldl g s) := fun k => foldl_proj (fun s => (getPart s k).cw) g (fun s x => hg s x k) l s

theorem clearPlaces_sameCw (s : State) (p : Placement → Bool) : SameCw s (clearPlaces s p) :=
  fun k => foldl_sameCw (fun s (pl : Placement) => pl.sectors.foldl clearSector s)
    (fun s pl => foldl_sameCw _ clearSector_sameCw pl.sectors s) _ s k

theorem tearDown_sameCw (s : State) (p : Nat) (c : Ctx) : SameCw s (tearDown s p c) := by
  unfold tearDown
  refine SameCw.trans (.of_parts ?_) (clearPlaces_sameCw _ _)
  exact (modEng_within (fs := [.eng]) _ (.head _) (freeCtrs_within (.head _) (abortCores_within (.head _) (.refl _ s)))).parts.resolve_left
    (by decide)

theorem tearDown_rtes (s : State) (p : Nat) (c : Ctx) : (tearDown s p c).rtes = s.rtes :=
  (tearDown_within (fs := [.parts, .eng]) (by decide) (by decide) (.refl _ s)).rtes.resolve_left (by decide)

/-- The requests outside FREE depend on the table and the counts of commits alone. -/
theorem reqsOf_congr {s t : State} (p : Nat) (hr : t.rtes = s.rtes) (hc : SameCw s t) : reqsOf t p = reqsOf s p := by
  have hd : dynOf t = dynOf s := funext fun q => by rw [dynOf, dynOf, hc]
  unfold reqsOf
  rw [hr, hd]

/-- A key that reads as other than the default is listed. -/
theorem mem_of_SGet {V : Type} {d v : V} {k : Nat} (hv : v ≠ d) : ∀ {m : SMap V}, SGet d m k = v → (k, v) ∈ m
  | [], h => absurd h.symm hv
  | (j, w) :: r, h => by
    rw [SGet] at h
    split at h
    next hj => rw [← hj, ← h]; exact .head _
    next => exact .tail _ (mem_of_SGet hv h)

theorem mem_reqsOf {s : State} {p r : Nat} {q : Rte} (h : getRte s r = some q) (hp : q.part = p) (hs : (dynOf s q).state ≠ .free) :
    (r, q) ∈ reqsOf s p :=
  List.mem_filterMap.2 ⟨(r, some q), mem_of_SGet (by simp) h, if_pos ⟨hp, hs⟩⟩

/-- R297: a request that is to end with ABORTED at its next commit. -/
def abortReq (q : Rte) : Rte := { q with aborted := true, ents := [] }

theorem getRte_foldl_abort (l : List (Nat × Rte)) (s : State) (r : Nat) :
    getRte (l.foldl (fun s e => modRte s e.1 abortReq) s) r =
      if r ∈ l.map (·.1) then (getRte s r).map abortReq else getRte s r := by
  induction l generalizing s with
  | nil => rfl
  | cons e l ih =>
    rw [List.foldl_cons, ih]
    by_cases he : r = e.1
    · subst he
      cases h : getRte s e.1 <;> simp [modRte, h, abortReq]
    · rw [modRte, getRte_setRte_ne _ _ he]
      simp only [List.map_cons, List.mem_cons, he, false_or]

/-- R297: what a reset leaves of the partition's work before its requests are marked. -/
def cutOff (s : State) (p : Nat) : State :=
  modPart (tearDown (tearDown s p .chunk) p .step) p
    (fun P => { P with chunk := none, step := none, halves := [], notices := [], hostCut := true })

theorem cutOff_rtes (s : State) (p : Nat) : (cutOff s p).rtes = s.rtes := by
  rw [cutOff, modPart_rtes, tearDown_rtes, tearDown_rtes]

theorem cutOff_sameCw (s : State) (p : Nat) : SameCw s (cutOff s p) :=
  ((tearDown_sameCw s p .chunk).trans (tearDown_sameCw _ p .step)).trans (modPart_sameCw _ p _ fun _ => rfl)

theorem abortReqs_live {s : State} {p : Nat} (ha : (getPart s p).phase ≠ .absent) (hf : (getPart s p).phase ≠ .faulted) :
    abortReqs s p = (reqsOf s p).foldl (fun s e => modRte s e.1 abortReq) (cutOff s p) := by
  rw [← reqsOf_congr p (cutOff_rtes s p) (cutOff_sameCw s p), abortReqs, if_neg (by simp [ha, hf])]
  rfl

theorem getRte_cutOff (s : State) (p r : Nat) : getRte (cutOff s p) r = getRte s r := by
  rw [getRte, cutOff_rtes]; rfl

theorem getPart_abortReqs_live {s : State} {p : Nat} (ha : (getPart s p).phase ≠ .absent) (hf : (getPart s p).phase ≠ .faulted) :
    getPart (abortReqs s p) p = getPart (cutOff s p) p := by
  rw [abortReqs_live ha hf]
  exact foldl_proj (fun s => getPart s p) (fun s (e : Nat × Rte) => modRte s e.1 abortReq)
    (fun _ _ => rfl) _ _

theorem abortReqs_marks {s : State} {p r : Nat} {q : Rte} (hq : getRte s r = some q) (hp : q.part = p)
    (hs : (dynOf s q).state ≠ .free) (ha : (getPart s p).phase ≠ .absent) (hf : (getPart s p).phase ≠ .faulted) :
    getRte (abortReqs s p) r = some { q with aborted := true, ents := [] } := by
  rw [abortReqs_live ha hf, getRte_foldl_abort, if_pos (List.mem_map_of_mem (f := (·.1)) (mem_reqsOf hq hp hs)), getRte_cutOff, hq]
  rfl

/-! ### The reset of the PF -/

/-- The set-up registers of all functions, and the lock. -/
def setupOf (s : State) : SMap FnRegs × Bool := (s.host.fns, s.host.lock)

theorem setupOf_of_host {s t : State} (h : t.host = s.host) : setupOf t = setupOf s := by rw [setupOf, h]; rfl

theorem startRead_setupOf (s : State) (fn addr len : Nat) (use : ReadFor) : setupOf (startRead s fn addr len use).1 = setupOf s := by
  unfold startRead issuePiece
  dsimp only
  split
  · rfl
  · exact setupOf_of_host (s := modHost s _) ((peerIssue_within (fs := [.fab, .pew]) (by decide) (by decide)
      (.refl _ _)).host.resolve_left (by decide))

theorem fetchRing_setupOf (fn sq n : Nat) (s : State) : setupOf (fetchRing fn sq n s) = setupOf s := by
  induction n generalizing s with
  | zero => rfl
  | succ n ih =>
    unfold fetchRing
    split
    · rfl
    · dsimp only
      split
      · rfl
      · rw [ih, startRead_setupOf]
        simp only [setupOf, modRing, modHost_host]

theorem fetchAll_setupOf (s : State) : setupOf (fetchAll s) = setupOf s := by
  refine foldl_proj setupOf _ (fun s fn => foldl_proj setupOf _ (fun s r => ?_) _ s) _ s
  split
  · exact fetchRing_setupOf _ _ _ s
  · rfl

theorem passEnd_setupOf (s : State) : setupOf (passEnd s) = setupOf s := by
  unfold passEnd
  split
  · rw [← fetchAll_setupOf s]
    simp only [setupOf, modHost_host]
  · rfl

theorem deleteRing_setupOf (s : State) (k : RingKind) (fn id : Nat) : setupOf (deleteRing s k fn id) = setupOf s := by
  unfold deleteRing
  dsimp only
  split <;> rfl

theorem deleteQueues_setupOf (s : State) (fn : Nat) : setupOf (deleteQueues s fn) = setupOf s := by
  unfold deleteQueues
  exact (passEnd_setupOf _).trans (foldl_proj setupOf _ (fun s r => deleteRing_setupOf s _ _ _) _ s)

/-- The PF after the reset of its registers and queues, before the commands that are kept come back. -/
def pfReset (s : State) : State := resetRegs (dropSets (deleteQueues s 0) 0) 0

theorem pfReset_within (s : State) : Within [.host, .parts, .fab, .pew] s (pfReset s) :=
  resetRegs_within (by decide) (dropSets_within (by decide)
    (deleteQueues_within (by decide) (by decide) (by decide) (by decide) (.refl _ s)))

theorem dropSets_setupOf (s : State) (fn : Nat) : setupOf (dropSets s fn) = setupOf s := rfl

theorem getFn_of_setupOf {s t : State} (h : setupOf t = setupOf s) (n : Nat) : getFn t n = getFn s n :=
  congrArg (fun x : SMap FnRegs × Bool => SGet ({} : FnRegs) x.1 n) h

theorem dropped_setupOf (s : State) : setupOf (dropSets (deleteQueues s 0) 0) = setupOf s := by
  rw [dropSets_setupOf, deleteQueues_setupOf]

theorem getFn_pfReset_ne (s : State) {n : Nat} (h : n ≠ 0) : getFn (pfReset s) n = getFn s n := by
  rw [pfReset, getFn_resetRegs_ne _ h, getFn_of_setupOf (dropped_setupOf s)]

theorem getFn_pfReset_pf (s : State) : getFn (pfReset s) 0 =
    { aqBase := (getFn s 0).aqBase, aqCfg := (getFn s 0).aqCfg, dbBase := (getFn s 0).dbBase, dbCfg := (getFn s 0).dbCfg
      enabled := (getFn s 0).enabled } := by
  rw [pfReset, getFn_resetRegs, getFn_modFn, getFn_of_setupOf (dropped_setupOf s)]

theorem pfReset_lock (s : State) : (pfReset s).host.lock = s.host.lock := congrArg Prod.snd (dropped_setupOf s)

/-- With no VF enabled and no command or read to keep, the PF's reset is that of its registers and queues. -/
theorem exec_pfFlr_alone {s : State} (hr : hostReach s 0 = true) (hc : s.host.cmds = []) (hh : s.host.handed = [])
    (hd : s.host.reads = []) (hv : vfsOn s = []) : exec .pfFlr s = .next (pfReset s) := by
  have hoff : vfsOff (pfReset s) = pfReset s := vfsOff_of_none (hv ▸ vfsOn_congr fun n hn => getFn_pfReset_ne s hn)
  rw [exec_pfFlr, execPfFlr, whenB_true _ _ hr]
  simp only [hc, hh, hd, List.filter_nil, List.map_nil, List.append_nil]
  exact congrArg Host.Outcome.next hoff

/-! ### PERST# (R410) -/

/-- R240: the epochs that PERST# ends are sealed. -/
def perstSealed (s : State) : State :=
  if s.sec.state = 4 then partIds.foldl (fun s p =>
      if (getPart s p).phase = .absent then s
      else
        let s := endEpoch s p 7
        sealAll (getPart s p).ended.length p s) s
  else s

/-- What PERST# leaves of a state, before the cap that it restores is compared with the power drawn. -/
def perstCleared (s : State) : State :=
  let r := State.reset
  let s := modRtes (modParts s (fun _ => [])) (fun _ => [])
  let s := modHost s (fun h => { r.host with writes := h.writes, nextId := h.nextId })
  let s := modEng s (fun e => { r.eng with nextPlace := e.nextPlace })
  let s := modFab s (fun f => { f with accs := [], brassIn := [] })
  let s := modSec s (fun e => { r.sec with
    svnMin := e.svnMin, rootRev := e.rootRev, store := e.store, dropped := e.dropped
    draws := e.draws, out := e.out, tick := s.tick })
  modPow (modPew s (fun w => { w with sets := [] })) (fun w => { w with
    perst := true, hostCap := 2000, tstop := false, stopEnd := none, tsParts := [], tsRuns := [], ramp := none, rampRate := 80 })

theorem exec_perstAssert_running {s : State} (hpg : s.power.pg = true) (hp : s.power.perst = false) (hw : s.power.pfwAt = none) :
    exec .perstAssert s = .next (ibiCheck (limitChanged (perstCleared (perstSealed s)) 1)) := by
  rw [exec_perstAssert, execPerstAssert, whenB_true _ _ (by simp [hpg, hp]), if_neg (by simp [hw])]
  rfl

theorem perstCleared_host (s : State) :
    (perstCleared s).host = { State.reset.host with writes := s.host.writes, nextId := s.host.nextId } := rfl
theorem perstCleared_parts (s : State) : (perstCleared s).parts = [] := rfl
theorem perstCleared_rtes (s : State) : (perstCleared s).rtes = [] := rfl
theorem perstCleared_mem (s : State) : (perstCleared s).mem = s.mem := by
  simp only [perstCleared, modPow_mem, modPew_mem, modSec_mem, modFab_mem, modEng_mem, modHost_mem, modRtes_mem, modParts_mem]
theorem perstCleared_tick (s : State) : (perstCleared s).tick = s.tick := by
  simp only [perstCleared, modPow_tick, modPew_tick, modSec_tick, modFab_tick, modEng_tick, modHost_tick, modRtes_tick, modParts_tick]
theorem perstCleared_ports (s : State) : (perstCleared s).fab.ports = s.fab.ports := rfl
theorem perstCleared_perst (s : State) : (perstCleared s).power.perst = true := rfl
theorem perstCleared_hostCap (s : State) : (perstCleared s).power.hostCap = 2000 := rfl
theorem perstCleared_energy (s : State) : (perstCleared s).power.energy = s.power.energy := rfl
theorem perstCleared_state (s : State) : (perstCleared s).sec.state = 0 := rfl
theorem perstCleared_svnMin (s : State) : (perstCleared s).sec.svnMin = s.sec.svnMin := rfl
theorem perstCleared_rootRev (s : State) : (perstCleared s).sec.rootRev = s.sec.rootRev := rfl

theorem perstSealed_within (s : State) : Within [.parts, .sec] s (perstSealed s) := by
  refine ite_within (foldl_within _ _ (.refl _ s) fun t p h => ite_within h ?_) (.refl _ s)
  exact sealAll_within (by decide) (by decide) (endEpoch_within (by decide) h)

/-- The revocation fuses. -/
def fusesOf (s : State) : Nat × Nat := (s.sec.svnMin, s.sec.rootRev)

theorem storeSeal_fuses (e : Electrum) (x : Seal) : ((storeSeal e x).svnMin, (storeSeal e x).rootRev) = (e.svnMin, e.rootRev) := by
  unfold storeSeal
  split
  · rfl
  · dsimp only
    split <;> rfl

theorem makeSeal_fuses (s : State) (p : Nat) : fusesOf (makeSeal s p) = fusesOf s := by
  unfold makeSeal
  split
  · rfl
  · exact storeSeal_fuses _ _

theorem sealAll_fuses (n p : Nat) (s : State) : fusesOf (sealAll n p s) = fusesOf s := by
  induction n generalizing s with
  | zero => rfl
  | succ n ih => rw [sealAll, ih, makeSeal_fuses]

theorem perstSealed_fuses (s : State) : fusesOf (perstSealed s) = fusesOf s := by
  unfold perstSealed
  split
  · refine foldl_proj fusesOf _ (fun s p => ?_) _ s
    split
    · rfl
    · exact sealAll_fuses _ _ (endEpoch s p 7)
  · rfl

/-- A partition that reads as absent stays so under an operation that leaves the absent partition alone. -/
theorem modPart_absent {s : State} (p : Nat) {f : Part → Part} (hs : s.parts = []) (hf : f {} = {}) : (modPart s p f).parts = [] := by
  rw [modPart_parts, getPart, hs, SGet_nil, hf]; rfl

theorem touchAll_absent {s : State} (hs : s.parts = []) : (touchAll s).parts = [] :=
  List.foldlRecOn (motive := fun t : State => t.parts = []) _ _ hs fun _ ht p _ => modPart_absent p ht rfl

/-- What floor pace leaves of the power figures that PERST# sets or keeps. -/
def perstPower (s : State) : Bool × Nat × Nat := (s.power.perst, s.power.hostCap, s.power.energy)

theorem touchAll_power (s : State) : (touchAll s).power = s.power :=
  (touchAll_within (fs := [.parts]) (by decide) (.refl _ s)).power.resolve_left (by decide)

theorem ibiCheck_parts (s : State) : (ibiCheck s).parts = s.parts :=
  (ibiCheck_within (fs := [.pew]) (.head _) (.refl _ s)).parts.resolve_left (by decide)

theorem ite_touchAll_absent (c : Prop) [Decidable c] {s : State} (hs : s.parts = []) :
    (if c then touchAll s else s).parts = [] := by
  split
  · exact touchAll_absent hs
  · exact hs

theorem ite_touchAll_power (c : Prop) [Decidable c] (s : State) : (if c then touchAll s else s).power = s.power := by
  split
  · exact touchAll_power s
  · rfl

theorem enterFloor_absent {s : State} (tj : Bool) (cap : Option Nat) (hs : s.parts = []) : (enterFloor s tj cap).parts = [] := by
  unfold enterFloor
  split
  · exact hs
  · split
    · exact hs
    · dsimp only
      rw [ibiCheck_parts]
      cases cap with
      | none => exact ite_touchAll_absent _ ((modPow_parts s _).trans hs)
      | some c => exact (modPew_parts _ _).trans (ite_touchAll_absent _ ((modPow_parts s _).trans hs))

theorem enterFloor_perstPower (s : State) (tj : Bool) (cap : Option Nat) : perstPower (enterFloor s tj cap) = perstPower s := by
  unfold enterFloor perstPower
  split
  · rfl
  · split
    · rfl
    · dsimp only
      rw [ibiCheck_power]
      cases cap <;> simp only [modPew_power, ite_touchAll_power, modPow_power]

theorem limitChanged_absent {s : State} (c : Nat) (hs : s.parts = []) : (limitChanged s c).parts = [] := by
  unfold limitChanged
  split
  · exact enterFloor_absent _ _ hs
  · exact hs

theorem limitChanged_perstPower (s : State) (c : Nat) : perstPower (limitChanged s c) = perstPower s := by
  unfold limitChanged
  split
  · exact enterFloor_perstPower _ _ _
  · rfl

/-- R410: what PERST# returns to reset and what it keeps. -/
theorem perstAssert_running {s : State} (hpg : s.power.pg = true) (hp : s.power.perst = false) (hw : s.power.pfwAt = none) :
    ∃ t, exec .perstAssert s = .next t ∧ t.host = { State.reset.host with writes := s.host.writes, nextId := s.host.nextId } ∧
      t.parts = [] ∧ t.rtes = [] ∧ t.mem = s.mem ∧ t.tick = s.tick ∧ t.fab.ports = s.fab.ports ∧ t.power.perst = true ∧
      t.power.hostCap = 2000 ∧ t.power.energy = s.power.energy ∧ t.sec.state = 0 ∧ t.sec.svnMin = s.sec.svnMin ∧
      t.sec.rootRev = s.sec.rootRev := by
  have hseal := perstSealed_within s
  have hlast : Within [.parts, .power, .pew] (perstCleared (perstSealed s))
      (ibiCheck (limitChanged (perstCleared (perstSealed s)) 1)) :=
    ibiCheck_within (by decide) (limitChanged_within (by decide) (by decide) (by decide) (.refl _ _))
  have hfig := limitChanged_perstPower (perstCleared (perstSealed s)) 1
  have hfuse := perstSealed_fuses s
  simp only [perstPower, fusesOf, Prod.mk.injEq] at hfig hfuse
  obtain ⟨hperst, hcap, henergy⟩ := hfig
  obtain ⟨hsvn, hroot⟩ := hfuse
  refine ⟨_, exec_perstAssert_running hpg hp hw, ?_, ?_, ?_, ?_, ?_, ?_, ?_, ?_, ?_, ?_, ?_, ?_⟩
  case refine_1 => rw [hlast.host.resolve_left (by decide), perstCleared_host, hseal.host.resolve_left (by decide)]
  case refine_2 => rw [ibiCheck_parts, limitChanged_absent 1 (perstCleared_parts _)]
  case refine_3 => rw [hlast.rtes.resolve_left (by decide), perstCleared_rtes]
  case refine_4 => rw [hlast.mem.resolve_left (by decide), perstCleared_mem, hseal.mem.resolve_left (by decide)]
  case refine_5 => rw [hlast.tick.resolve_left (by decide), perstCleared_tick, hseal.tick.resolve_left (by decide)]
  case refine_6 => rw [hlast.fab.resolve_left (by decide), perstCleared_ports, hseal.fab.resolve_left (by decide)]
  case refine_7 => rw [ibiCheck_power, hperst, perstCleared_perst]
  case refine_8 => rw [ibiCheck_power, hcap, perstCleared_hostCap]
  case refine_9 => rw [ibiCheck_power, henergy, perstCleared_energy, hseal.power.resolve_left (by decide)]
  case refine_10 => rw [hlast.sec.resolve_left (by decide), perstCleared_state]
  case refine_11 => rw [hlast.sec.resolve_left (by decide), perstCleared_svnMin, hsvn]
  case refine_12 => rw [hlast.sec.resolve_left (by decide), perstCleared_rootRev, hroot]

/-- Settles O41: the resets of functions, VF Enable and PERST#, clause by clause. -/
theorem functionResets : Obligations.FunctionResets := by
  refine ⟨fun s fn h1 h17 hr => ?_, fun s hr => ⟨?_, fun hv => ?_, ?_⟩, fun s fn r hr => ?_, fun s p r q hq hp hs ha hf => ?_,
    fun s hr hc hh hd hv => ?_, fun s hpg hp hw => ?_⟩
  case refine_1 => rw [exec_vfFlr, execVfFlr, onUnit_known _ (decide_eq_true ⟨h1, h17⟩), whenB_true _ _ hr]
  case refine_2 => rw [exec_vfEnableClear, execVfEnableClear, whenB_true _ _ hr]
  case refine_3 => rw [exec_vfEnableClear, execVfEnableClear, whenB_true _ _ hr, vfsOff_of_none hv]
  case refine_4 =>
    refine ⟨enableVfs s (List.range 17), ?_, enableVfs_eq s _, ?_, fun n h1 h17 => ?_⟩
    · rw [exec_vfEnableSet, execVfEnableSet, whenB_true _ _ hr]; rfl
    · rw [getFn_enableVfs, if_neg (by simp)]
    · rw [getFn_enableVfs, if_pos ⟨List.mem_range.2 h17, by omega⟩]
  case refine_5 =>
    subst hr
    exact ⟨by rw [getFn_resetRegs, getFn_modFn], resetRegs_rings s fn, fun n hn => getFn_resetRegs_ne s hn, rfl, rfl, rfl⟩
  case refine_6 =>
    refine ⟨abortReqs_marks hq hp hs ha hf, ?_⟩
    rw [getPart_abortReqs_live ha hf, cutOff, getPart_modPart]
    exact ⟨rfl, rfl, rfl⟩
  case refine_7 =>
    refine ⟨pfReset s, exec_pfFlr_alone hr hc hh hd hv, resetRegs_rings _ 0, ?_, ?_, pfReset_lock s,
      (pfReset_within s).mem.resolve_left (by decide)⟩ <;> rw [getFn_pfReset_pf]
  case refine_8 => exact perstAssert_running hpg hp hw

end Sys2Proof.Machine
end

section
/-! The invariant of a run (R27, R30, R268), and a command that names a unit the module does not have. -/

namespace Sys2Proof.Machine

/-- Settles O55: nothing waits, the tick count is 0 and no byte of memory is listed. -/
theorem resetMeetsTheInvariant : Obligations.ResetMeetsTheInvariant where
  commands _ hc := nomatch hc
  tick := by decide
  memory := State.reset_memory

/-- The queue without its front command meets the invariant. -/
theorem Inv.rest {s : State} (hi : Inv s) {c : Instr} {rest : List Instr} (hq : s.pending = c :: rest) :
    Inv { s with pending := rest } where
  commands d hd := hi.commands d (by rw [hq]; exact List.mem_cons_of_mem c hd)
  tick := hi.tick
  memory := hi.memory

/-- Settles O56: a frame keeps the invariant, and both a command and a tick keep to theirs. -/
theorem stepsKeepTheInvariant : Obligations.StepsKeepTheInvariant := by
  intro s t hi hs
  cases hq : s.pending with
  | nil =>
    rw [step_idle s hq] at hs
    rw [← Host.Outcome.next.inj hs]
    exact (tickOnce_within (fs := [.tick, .sbTick, .eng]) (by decide) (by decide) (by decide) (.refl _ s)).inv hi
  | cons c rest =>
    rw [step_front s c rest hq] at hs
    exact (exec_keeps_frame c _ t hs).inv (hi.rest hq)

/-- R84: the command knows eight lanes of a cell, sides 4 to 7 being those to a stream engine. -/
theorem exec_handshakeAnomaly_answers (s : State) {row col side : Nat} (hcell : row < 1024 ∧ col < 1024) (hside : side < 8) :
    ∃ t, exec (.handshakeAnomaly row col side) s = .next t :=
  ⟨_, by rw [exec_handshakeAnomaly, execHandshakeAnomaly, onUnit_known _ (by simp [inGrid, hcell, hside])]⟩

/-- Refutes O58: HANDSHAKE_ANOMALY of side 4 of cell (0, 0) is not well formed, whose sides are 0 to 3, and answers a next state
all the same. -/
theorem not_commandsComplete : ¬ Obligations.CommandsComplete := by
  rintro ⟨-, hfault⟩
  have hstops := hfault (.handshakeAnomaly 0 0 4) State.reset (by decide)
  obtain ⟨t, hanswers⟩ := exec_handshakeAnomaly_answers State.reset (row := 0) (col := 0) (side := 4) (by decide) (by decide)
  rw [hanswers] at hstops
  cases hstops

end Sys2Proof.Machine
end

section
/-! What the queue engine writes: stream entries, completions, records, and steering sets that were read (R44, R227, R232,
R301 to R307, R312). -/

namespace Sys2Proof.Machine

/-! ### Writes to a ring -/

/-- A search for the first entry of a kind meets the update of every entry of the kind. -/
theorem find?_updateWhere {α : Type} {p : α → Bool} {f : α → α} (hf : ∀ x, p x = true → p (f x) = true) (l : List α) :
    (updateWhere p f l).find? p = (l.find? p).map f := by
  induction l with
  | nil => rfl
  | cons x xs ih =>
    rw [updateWhere, List.map_cons]
    by_cases hx : p x = true
    · rw [if_pos hx, List.find?_cons_of_pos (hf x hx), List.find?_cons_of_pos hx]; rfl
    · rw [if_neg hx, List.find?_cons_of_neg hx, List.find?_cons_of_neg hx]; exact ih

theorem findRing_modRing (s : State) (k : RingKind) (fn id : Nat) (f : Ring → Ring)
    (hf : ∀ r, (f r).kind = r.kind ∧ (f r).fn = r.fn ∧ (f r).id = r.id) :
    findRing (modRing s k fn id f) k fn id = (findRing s k fn id).map f :=
  find?_updateWhere (fun r hr => by obtain ⟨hk, hn, hi⟩ := hf r; rwa [hk, hn, hi]) s.host.rings

theorem signalRing_unvectored {s : State} {k : RingKind} {fn id : Nat} {g : Ring} (hg : findRing s k fn id = some g)
    (hv : g.vec = 0) : signalRing s k fn id = s := by
  simp [signalRing, hg, hv]

/-- R302: the two posted writes of an entry. -/
def entryWrites (s : State) (k : RingKind) (fn : Nat) (g : Ring) (ent : List Byte) : State :=
  hostWrite (hostWrite s fn (g.base + k.size * (g.cnt.toNat % g.slots)) (ent.take (k.size - 8))) fn
    (g.base + k.size * (g.cnt.toNat % g.slots) + k.size - 8)
    (leBytes 8 (putBits (fld ent (k.size - 8) 8) (if k = .record ∨ k = .seal then 0 else 63) 1 (b2n g.phase)))

/-- R302: an entry written to a ring without a vector: the two writes and the ring's count. -/
theorem ringWrite_unvectored {s : State} {k : RingKind} {fn id : Nat} {g : Ring} (ent : List Byte)
    (hg : findRing s k fn id = some g) (hv : g.vec = 0) :
    ringWrite s k fn id ent = modRing (entryWrites s k fn g ent) k fn id (fun r => { r with cnt := r.cnt + 1 }) ∧
    findRing (ringWrite s k fn id ent) k fn id = some { g with cnt := g.cnt + 1 } := by
  have hfind : findRing (modRing (entryWrites s k fn g ent) k fn id (fun r => { r with cnt := r.cnt + 1 })) k fn id =
      some { g with cnt := g.cnt + 1 } :=
    (findRing_modRing _ k fn id (fun r => { r with cnt := r.cnt + 1 }) (fun _ => ⟨rfl, rfl, rfl⟩)).trans
      (congrArg (Option.map _) hg)
  have hwrite : ringWrite s k fn id ent =
      modRing (entryWrites s k fn g ent) k fn id (fun r => { r with cnt := r.cnt + 1 }) := by
    unfold ringWrite
    rw [hg]
    exact signalRing_unvectored hfind hv
  exact ⟨hwrite, by rw [hwrite, hfind]⟩

/-! ### Stream entries (R227, R306) -/

/-- R306: the order of the entries of a ring that requests share. -/
theorem entryFirst_iff (s : State) (r : Nat) (q : Rte) (e : StreamEnt) :
    entryFirst s r q e = true ↔ ∀ x ∈ s.rtes, ∀ p, x.2 = some p → p.fn = q.fn → p.sring = q.sring → x.1 ≠ r →
      ∀ d ds, p.ents = d :: ds → e.csn < d.csn ∨ (e.csn = d.csn ∧ r < x.1) := by
  rw [entryFirst, List.all_eq_true]
  refine forall₂_congr fun x _ => ?_
  obtain ⟨k, v⟩ := x
  cases v with
  | none => simp
  | some p =>
    cases hp : p.ents with
    | nil => simp [hp]
    | cons d ds =>
      simp only [hp, Bool.or_eq_true, bne_iff_ne, beq_iff_eq, decide_eq_true_eq, Option.some.injEq, forall_eq',
        List.cons.injEq, and_imp]
      grind

theorem modRte_of_some {s : State} {r : Nat} {q : Rte} (f : Rte → Rte) (h : getRte s r = some q) :
    modRte s r f = setRte s r (some (f q)) := by
  rw [modRte, h]; rfl

theorem exec_streamEntryWrite_due {s : State} {r : Nat} {q : Rte} {e : StreamEnt} {es : List StreamEnt} {g : Ring}
    (hq : getRte s r = some q) (he : q.ents = e :: es) (hg : findRing s .stream q.fn q.sring = some g)
    (hw : mayWrite s q.fn = true) (hroom : g.room = true) (hfirst : entryFirst s r q e = true) :
    exec (.streamEntryWrite r) s = .next (ringWrite (setRte s r (some { q with ents := es })) .stream q.fn q.sring
      (leBytes 8 q.hosttag ++ leBytes 4 e.token ++ leBytes 4 (e.n % 2 ^ 20 + 2 ^ 20 * b2n e.last))) := by
  rw [exec_streamEntryWrite, execStreamEntryWrite, hq]
  dsimp only
  rw [he, hg, ← modRte_of_some (fun q => { q with ents := es }) hq]
  exact if_neg (by simp [hw, hroom, hfirst])

/-! ### Completions (R301, R303, R305, R312) -/

/-- The state in which a completion has left the queue and given back its reserved slot. -/
def compTaken (s : State) (fn cq : Nat) (c : Comp) : State :=
  if c.held then modRing (modHost s (fun h => { h with comps := dropFirst (· == c) h.comps })) .comp fn cq
    (fun r => { r with resv := r.resv - 1 })
  else modHost s (fun h => { h with comps := dropFirst (· == c) h.comps })

theorem exec_completionWrite_due {s : State} {fn cq : Nat} {g : Ring} {c : Comp} (hg : findRing s .comp fn cq = some g)
    (hc : nextComp s fn cq g = some c) (hw : mayWrite s fn = true) (hroom : compRoom g c = true) :
    exec (.completionWrite fn cq) s = .next (settleDeletes
      (match c.req with
        | some q => freeReq (ringWrite (compTaken s fn cq c) .comp fn cq (compBytes s c)) q
        | none => ringWrite (compTaken s fn cq c) .comp fn cq (compBytes s c)) fn) := by
  rw [exec_completionWrite, execCompletionWrite, hg, Option.bind_some, hc]
  exact if_neg (by simp [hw, hroom])

theorem nextComp_spec {s : State} {fn cq : Nat} {g : Ring} {c : Comp} (h : nextComp s fn cq g = some c) :
    c ∈ s.host.comps ∧ c.fn = fn ∧ cqOf s fn c.sq = cq ∧ compReady s c = true ∧ (c.held = true ∨ compRoom g c = true) := by
  have hready := List.find?_some h
  simp only [Bool.and_eq_true, Bool.or_eq_true, beq_iff_eq, and_assoc] at hready
  exact ⟨List.mem_of_find?_eq_some h, hready⟩

/-- R211: a request that is freed leaves no entry and no read of its prompt. -/
theorem freeReq_spec (s : State) (r : Nat) : getRte (freeReq s r) r = none ∧
    (∀ k, k ≠ r → getRte (freeReq s r) k = getRte s k) ∧ ∀ x ∈ (freeReq s r).host.reads, x.use ≠ .prompt r := by
  refine ⟨getRte_setRte s r none, fun k hk => getRte_setRte_ne s none hk, fun x hx => ?_⟩
  simpa using (List.mem_filter.1 hx).2

/-! ### Records (R307) -/

theorem exec_recordRingWrite_due {s : State} {part : Nat} {h : List Byte × Option Nat} {hs : List (List Byte × Option Nat)}
    {g : Ring} (hheld : (getPart s part).held = h :: hs) (hg : findRing s .record (part + 1) 0 = some g)
    (hw : mayWrite s (part + 1) = true) (hroom : g.room = true) : exec (.recordRingWrite part) s = .next (ringWrite
    (match h.2 with
      | some r => modRte (modPart s part (fun P => { P with held := hs })) r (fun q => { q with recorded := true })
      | none => modPart s part (fun P => { P with held := hs })) .record (part + 1) 0 (h.1 ++ zeros 64)) := by
  rw [exec_recordRingWrite, execRecordRingWrite, hheld, hg]
  exact if_neg (by simp [hw, hroom])

/-! ### Steering sets (R232) -/

/-- R232: the checks of a set that has been read whole. -/
theorem exec_steeringBindComplete_read {s : State} {cmd : Nat} {c : Cmd} (hc : findCmd s cmd = some c)
    (hserve : serving s = true) (hopc : fld c.d.raw 0 1 = 0x12) (hrun : c.ph = .running)
    (hlen : c.buf.length = fld c.d.raw 0x20 4) (off : Nat) : exec (.steeringBindComplete cmd off) s =
    if !steerOk c.buf then .next (settle (endCmdSt s cmd 0x0105) (c.d.fn - 1))
    else if !roomFor s (c.d.fn - 1) (fld c.d.raw 0x20 4) then .next (settle (endCmdSt s cmd 0x040A) (c.d.fn - 1))
    else if off % 64 ≠ 0 ∨ !rangeFree s (c.d.fn - 1) (holdings s (c.d.fn - 1)) off (fld c.d.raw 0x20 4) then .next s
    else .next (settle (endCmdSt (modPart (memPut s off c.buf) (c.d.fn - 1) (fun P => { P with
      steers := SSet none P.steers (fld c.d.raw 0x10 2) (some { bytes := c.buf, digest := sha512 c.buf, off := off }) }))
        cmd 0) (c.d.fn - 1)) := by
  rw [exec_steeringBindComplete, execSteeringBindComplete, hc]
  exact if_neg (by simp [hserve, hopc, hrun, hlen])

/-- Settles O26: what each of the four commands writes, clause by clause. -/
theorem queueEngineWrites : Obligations.QueueEngineWrites := by
  refine ⟨fun s r q e es g hq he hg hw hroom hfirst => exec_streamEntryWrite_due hq he hg hw hroom hfirst, entryFirst_iff,
    fun s u fn cq g c hg hc hw hroom hu => ?_, fun s fn cq g c h => nextComp_spec h, freeReq_spec,
    fun s part h hs g hheld hg hw hroom => ?_, fun s k fn id g ent hg hv => ?_,
    fun s cmd off p len c hc hp hl hserve hopc hrun hlen => ?_⟩
  case refine_1 =>
    obtain rfl : u = compTaken s fn cq c := hu
    rw [exec_completionWrite_due hg hc hw hroom]
    exact ⟨fun hreq => by rw [hreq], fun q hreq => by rw [hreq]⟩
  case refine_2 =>
    rw [exec_recordRingWrite_due hheld hg hw hroom]
    refine ⟨fun hnone => by rw [hnone], fun r q hsome hq => ?_⟩
    rw [hsome]
    dsimp only
    rw [modRte_of_some _ (show getRte (modPart s part (fun P => { P with held := hs })) r = some q from hq)]
  case refine_3 =>
    obtain ⟨hwrite, hfind⟩ := ringWrite_unvectored ent hg hv
    refine ⟨_, _, ?_, rfl, rfl, hfind, ?_⟩
    · rw [hwrite]
      exact List.append_assoc s.host.writes [_] [_]
    · rw [hwrite]; rfl
  case refine_4 =>
    subst hp hl
    rw [exec_steeringBindComplete_read hc hserve hopc hrun hlen]
    refine ⟨fun hbad => ?_, fun hok hfull => ?_, fun hok hfits h64 hfree => ?_⟩
    · rw [hbad]; rfl
    · rw [hok, hfull]; rfl
    · rw [hok, hfits, hfree, h64]; rfl

end Sys2Proof.Machine
end

section
/-! A tick of the reference time base (R29, R30, R84, R103). -/

namespace Sys2Proof.Machine

/-! ### What a Cobalt core's instruction leaves of the stall monitors and the lane waits -/

/-- R84, R103: the placements with their stall monitors, and the waits of the lanes. -/
def monitors (s : State) : List Placement × SMap Nat := (s.eng.places, s.eng.laneWait)

@[simp] theorem monitors_modCob (s : State) (n : Nat) (f) : monitors (modCob s n f) = monitors s := rfl

@[simp] theorem monitors_modCore (s : State) (n : Nat) (f) : monitors (modCore s n f) = monitors s := rfl

@[simp] theorem monitors_txGo (s : State) (n : Nat) : monitors (txGo s n) = monitors s := by
  unfold txGo
  dsimp only
  split_ifs <;> rfl

@[simp] theorem monitors_rxPop (s : State) (n : Nat) : monitors (rxPop s n) = monitors s := by
  unfold rxPop whenB
  split <;> rfl

@[simp] theorem monitors_tinStore (s : State) (n o : Nat) (bs : List Byte) : monitors (tinStore s n o bs) = monitors s := by
  unfold tinStore
  dsimp only
  split_ifs <;> simp

theorem monitors_rvStore {s t : State} {n a k v : Nat} (h : rvStore s n a k v = .ok t) : monitors t = monitors s := by
  unfold rvStore at h
  dsimp only at h
  repeat' split at h
  all_goals cases h
  all_goals simp

/-- The state that an instruction of a Cobalt core answers, if it answers one, has the monitors of `s`. -/
def RvMonitors (s : State) : RvOut → Prop
  | .next t => monitors t = monitors s
  | .jump t _ => monitors t = monitors s
  | _ => True

section outcomes

variable (s : State) (n w : Nat) (c : Cobalt)

theorem rvOk_monitors {t : State} (f) (h : monitors t = monitors s) : RvMonitors s (rvOk t n f) := h

theorem rvIll_monitors : RvMonitors s (rvIll w) := trivial

theorem ite_rvMonitors {p : Prop} [Decidable p] {o q : RvOut} (h : RvMonitors s o) (k : RvMonitors s q) :
    RvMonitors s (if p then o else q) := by
  split <;> assumption

theorem rvPut_monitors (o : Option Nat) : RvMonitors s (rvPut s n w o) := by
  cases o with
  | none => exact rvIll_monitors s w
  | some v => exact rvOk_monitors s n _ rfl

theorem rvStoreOp_monitors (k v : Nat) : RvMonitors s (rvStoreOp s n w c k v) := by
  unfold rvStoreOp
  dsimp only
  split
  next h => exact monitors_rvStore h
  · trivial
  · trivial

theorem rvLoadOp_monitors : RvMonitors s (rvLoadOp s n w c) := by
  refine ite_rvMonitors s (rvIll_monitors s w) ?_
  split
  · exact rvOk_monitors s n _ rfl
  · trivial
  · trivial

theorem rvLoadF_monitors : RvMonitors s (rvLoadF s n w c) := by
  refine ite_rvMonitors s (rvIll_monitors s w) ?_
  split
  · exact rvOk_monitors s n _ rfl
  · trivial
  · trivial

theorem rvAtomic_monitors : RvMonitors s (rvAtomic s n w c) := by
  have hok : ∀ f, RvMonitors s (rvOk s n f) := fun f => rvOk_monitors s n f rfl
  unfold rvAtomic
  refine ite_rvMonitors s (rvIll_monitors s w) (ite_rvMonitors s trivial (ite_rvMonitors s trivial
    (ite_rvMonitors s (ite_rvMonitors s (hok _) ?_) ?_)))
  · split
    next h => exact rvOk_monitors s n _ (monitors_rvStore h)
    · trivial
    · trivial
  · split
    · trivial
    · trivial
    · refine ite_rvMonitors s (hok _) ?_
      split
      next h => exact rvOk_monitors s n _ (monitors_rvStore h)
      · trivial
      · trivial

theorem rvFpPut_monitors (o) : RvMonitors s (rvFpPut s n w c o) := by
  unfold rvFpPut
  split
  · exact rvOk_monitors s n _ rfl
  · exact rvOk_monitors s n _ rfl
  · exact rvIll_monitors s w

theorem rvCsr_monitors : RvMonitors s (rvCsr s n w c) := by
  unfold rvCsr
  dsimp only
  split
  · exact rvIll_monitors s w
  · exact ite_rvMonitors s (rvIll_monitors s w) (rvOk_monitors s n _ rfl)

theorem rvSystem_monitors : RvMonitors s (rvSystem s n w c) :=
  ite_rvMonitors s (rvCsr_monitors s n w c) (ite_rvMonitors s trivial (ite_rvMonitors s trivial
    (ite_rvMonitors s (monitors_modCob s n rvMret) (ite_rvMonitors s rfl (rvIll_monitors s w)))))

/-- By the opcode of the instruction. -/
theorem rvExec_monitors (len : Nat) : RvMonitors s (rvExec s n c w len) := by
  have hput := rvPut_monitors s n w
  have hill := rvIll_monitors s w
  have hfp := rvFpPut_monitors s n w c
  unfold rvExec
  dsimp only
  split
  · exact hput _
  · exact hput _
  · exact monitors_modCob s n _
  · exact ite_rvMonitors s hill (monitors_modCob s n _)
  · split
    · exact hill
    · exact ite_rvMonitors s rfl rfl
  · exact rvLoadOp_monitors s n w c
  · exact ite_rvMonitors s hill (rvStoreOp_monitors s n w c _ _)
  · exact ite_rvMonitors s hill (hput _)
  · exact ite_rvMonitors s hill (hput _)
  · exact ite_rvMonitors s (hput _) (ite_rvMonitors s (hput _) hill)
  · exact ite_rvMonitors s (ite_rvMonitors s (hput _) (ite_rvMonitors s (hput _) hill)) (ite_rvMonitors s (hput _) hill)
  · exact ite_rvMonitors s rfl hill
  · exact rvAtomic_monitors s n w c
  · exact rvSystem_monitors s n w c
  · exact rvLoadF_monitors s n w c
  · exact ite_rvMonitors s (rvStoreOp_monitors s n w c _ _) hill
  · exact hfp _
  · exact hfp _
  · exact hfp _
  · exact hfp _
  · exact hfp _
  · exact hill

end outcomes

theorem monitors_cobStep (s : State) (n : Nat) : monitors (cobStep s n) = monitors s := by
  unfold cobStep
  dsimp only
  split
  · rfl
  · split
    · rfl
    · rfl
    · rename_i len w _
      have hexec := rvExec_monitors s n w (getCob s n) len
      split <;> rename_i h
      · rw [h] at hexec; exact hexec
      · rw [h] at hexec; exact hexec
      · rfl
      · rfl

theorem monitors_cobaltTick (s : State) : monitors (cobaltTick s) = monitors s :=
  foldl_proj monitors _ (fun t n => by split; exacts [monitors_cobStep t n, rfl]) _ s

/-! ### The tick -/

/-- R29, R30, R84, R103: the time bases, the stall monitors and the lane waits after a tick. -/
def idleTick (s : State) : State :=
  { s with
    tick := if s.power.pg then (s.tick + 1) % 2 ^ 64 else s.tick
    sbTick := if s.pew.standby then s.sbTick + 1 else s.sbTick
    eng := { s.eng with places := s.eng.places.map (stallTick s), laneWait := laneTick s } }

/-- What every running Cobalt core executes on. -/
theorem tickOnce_eq (s : State) : tickOnce s = cobaltTick (idleTick s) := by
  unfold tickOnce idleTick
  dsimp only
  split_ifs <;> rfl

theorem cobRuns_idleTick (s : State) (n : Nat) : cobRuns (idleTick s) n = cobRuns s n := rfl

theorem cobaltTick_stopped {s : State} (h : ∀ n, n < 64 → cobRuns s n = false) : cobaltTick s = s :=
  List.foldlRecOn (motive := fun t => t = s) _ _ rfl fun t ht n hn => by rw [ht, h n (List.mem_range.1 hn)]; rfl

/-- A step within the array and cores changes nothing else. -/
theorem Within.eq_of_eng {s t : State} (h : Within [.eng] s t) : t = { s with eng := t.eng } := by
  obtain ⟨⟩ := s
  obtain ⟨⟩ := t
  have hpending := h.pending
  have htick := h.tick.resolve_left (by decide)
  have hsbTick := h.sbTick.resolve_left (by decide)
  have hfree := h.freeCtr.resolve_left (by decide)
  have hhost := h.host.resolve_left (by decide)
  have hparts := h.parts.resolve_left (by decide)
  have hrtes := h.rtes.resolve_left (by decide)
  have hfab := h.fab.resolve_left (by decide)
  have hpower := h.power.resolve_left (by decide)
  have hsec := h.sec.resolve_left (by decide)
  have hpew := h.pew.resolve_left (by decide)
  have hmem := h.mem.resolve_left (by decide)
  dsimp only at *
  subst_vars
  rfl

theorem tickOnce_frame (s : State) : tickOnce s = { idleTick s with eng := (tickOnce s).eng } := by
  rw [tickOnce_eq]
  exact (cobaltTick_within (fs := [.eng]) (.head _) (.refl _ _)).eq_of_eng

theorem tickOnce_monitors (s : State) : (tickOnce s).eng.places = s.eng.places.map (stallTick s) ∧
    (tickOnce s).eng.laneWait = laneTick s := by
  have h : monitors (tickOnce s) = monitors (idleTick s) := by rw [tickOnce_eq, monitors_cobaltTick]
  exact Prod.mk.inj h

theorem tickOnce_stopped {s : State} (h : ∀ n, n < 64 → cobRuns s n = false) : tickOnce s = idleTick s := by
  rw [tickOnce_eq]
  exact cobaltTick_stopped h

end Sys2Proof.Machine
end

section
/-! A Cobalt core takes an interrupt, a trap, or executes one instruction (R148, R149, R150). -/

namespace Sys2Proof.Machine

/-! ### Control and status registers -/

theorem csrRaw_csrSet (c : Cobalt) (n v : Nat) : csrRaw (csrSet c n v) n = v % 2 ^ 64 := by
  rw [csrRaw, csrSet, SGet_SSet_self, BitVec.toNat_ofNat]

theorem csrRaw_csrSet_ne (c : Cobalt) (v : Nat) {n k : Nat} (h : k ≠ n) : csrRaw (csrSet c n v) k = csrRaw c k :=
  congrArg BitVec.toNat (SGet_SSet_ne 0#64 c.csrs (BitVec.ofNat 64 v) h)

theorem csrRaw_lt (c : Cobalt) (n : Nat) : csrRaw c n < 2 ^ 64 := BitVec.isLt _

/-! ### Traps -/

/-- The status of a core that has taken a trap: interrupts off, what was on kept in MPIE and MPP. -/
def trapStatus (c : Cobalt) : Nat :=
  putBits (putBits (putBits (csrRaw c csrStatus) 7 1 (bits (csrRaw c csrStatus) 3 1)) 3 1 0) 11 2 (if c.user then 0 else 3)

theorem trapStatus_lt (c : Cobalt) : trapStatus c < 2 ^ 64 :=
  putBits_lt _ _ _ _ _ (putBits_lt _ _ _ _ _ (putBits_lt _ _ _ _ _ (csrRaw_lt c csrStatus) (by decide)) (by decide)) (by decide)

theorem trapStatus_fields (c : Cobalt) : bits (trapStatus c) 3 1 = 0 ∧
    bits (trapStatus c) 7 1 = bits (csrRaw c csrStatus) 3 1 ∧ bits (trapStatus c) 11 2 = (if c.user then 0 else 3) := by
  refine ⟨?_, ?_, ?_⟩
  · rw [trapStatus, bits_putBits_outside _ _ _ _ _ _ (by decide)]
    exact bits_putBits_inside _ 3 1 0 0 1 (by decide)
  · rw [trapStatus, bits_putBits_outside _ _ _ _ _ _ (by decide), bits_putBits_outside _ _ _ _ _ _ (by decide)]
    refine (bits_putBits_inside _ 7 1 _ 0 1 (by decide)).trans ?_
    simp [bits]
  · refine (bits_putBits_inside _ 11 2 _ 0 2 (by decide)).trans ?_
    split <;> rfl

theorem bit_eq_bits (x n : Nat) : bit x n = (bits x n 1 == 1) := rfl

theorem rvTrap_status (c : Cobalt) (i : Bool) (cause tval : Nat) : csrRaw (rvTrap c i cause tval) csrStatus = trapStatus c := by
  refine Eq.trans ?_ (Nat.mod_eq_of_lt (trapStatus_lt c))
  refine (csrRaw_csrSet_ne _ tval (by decide)).trans ((csrRaw_csrSet_ne _ _ (by decide)).trans ?_)
  exact (csrRaw_csrSet_ne _ _ (by decide)).trans (csrRaw_csrSet c csrStatus _)

theorem rvTrap_epc (c : Cobalt) (i : Bool) (cause tval : Nat) : csrRaw (rvTrap c i cause tval) csrEpc = c.pc.toNat := by
  refine Eq.trans ?_ (Nat.mod_eq_of_lt c.pc.isLt)
  exact (csrRaw_csrSet_ne _ tval (by decide)).trans ((csrRaw_csrSet_ne _ _ (by decide)).trans (csrRaw_csrSet _ csrEpc _))

theorem rvTrap_cause (c : Cobalt) (cause tval : Nat) : csrRaw (rvTrap c false cause tval) csrCause = cause % 2 ^ 64 :=
  (csrRaw_csrSet_ne _ tval (by decide)).trans (csrRaw_csrSet _ csrCause _)

theorem rvTrap_tval (c : Cobalt) (i : Bool) (cause tval : Nat) : csrRaw (rvTrap c i cause tval) csrTval = tval % 2 ^ 64 :=
  csrRaw_csrSet _ csrTval tval

/-- A trap leaves the registers and the two memories alone. -/
theorem rvTrap_frame (c : Cobalt) (i : Bool) (cause tval : Nat) : (rvTrap c i cause tval).x = c.x ∧
    (rvTrap c i cause tval).f = c.f ∧ (rvTrap c i cause tval).imem = c.imem ∧ (rvTrap c i cause tval).dmem = c.dmem := by
  simp only [rvTrap, csrSet, and_self]

/-! ### One step of a core, by what its instruction comes to -/

/-- A core takes a trap in place of an instruction. -/
def cobTrap (s : State) (n cause tval : Nat) : State := modCob s n (fun c => rvCount (rvTrap c false cause tval) false)

section cores

variable {s : State} {n : Nat}

theorem cobStep_interrupt {d : Cobalt} (h : rvInterrupt (getCob s n) = some d) :
    cobStep s n = modCob s n (fun _ => rvCount d false) := by
  rw [cobStep]; dsimp only; rw [h]

variable (hint : rvInterrupt (getCob s n) = none)
include hint

theorem cobStep_unfetched {a : Nat} (h : rvFetch (getCob s n) n = .error a) : cobStep s n = cobTrap s n 1 a := by
  rw [cobStep]; dsimp only; rw [hint, h]; rfl

theorem cobStep_illegal {raw len : Nat} (h : rvFetch (getCob s n) n = .ok (raw, len, none)) :
    cobStep s n = cobTrap s n 2 (raw % 2 ^ (8 * len)) := by
  rw [cobStep]; dsimp only; rw [hint, h]; rfl

variable {raw len w : Nat} (hfetch : rvFetch (getCob s n) n = .ok (raw, len, some w))
include hfetch

theorem cobStep_trap {cause tval : Nat} (h : rvExec s n (getCob s n) w len = .trap cause tval) :
    cobStep s n = cobTrap s n cause tval := by
  rw [cobStep]; dsimp only; rw [hint, hfetch]; dsimp only; rw [h]; rfl

/-- An instruction that writes its core alone retires, and the pc moves past it. -/
theorem getCob_cobStep_ok {f : Cobalt → Cobalt} (h : rvExec s n (getCob s n) w len = rvOk s n f) :
    getCob (cobStep s n) n =
      rvCount { f (getCob s n) with pc := (f (getCob s n)).pc + BitVec.ofNat 64 len } true := by
  have hstep : cobStep s n = modCob (modCob s n f) n (fun d => rvCount { d with pc := d.pc + BitVec.ofNat 64 len } true) := by
    rw [cobStep]; dsimp only; rw [hint, hfetch]; dsimp only; rw [h]; rfl
  rw [hstep, getCob_modCob, getCob_modCob]

end cores

/-! ### The instructions -/

theorem wx_pc (c : Cobalt) (i v : Nat) : (wx c i v).pc = c.pc := by
  unfold wx; split <;> rfl

theorem add_wrapInt (a : Nat) (i : Int) : (a + wrapInt 64 i) % 2 ^ 64 = wrapInt 64 ((a : Int) + i) := by
  unfold wrapInt; push_cast; omega

theorem sgn64_64 {v : Nat} (h : v < 2 ^ 64) : sgn64 64 v = v := by
  unfold sgn64 widen sext wrapInt
  dsimp only
  split <;> push_cast <;> omega

section instructions

variable {s : State} {n w : Nat} (c : Cobalt) (len : Nat)

theorem rvExec_addi (hop : rvOp w = 0x13) (hf3 : rvF3 w = 0) : rvExec s n c w len =
    rvOk s n (fun c' => wx c' (rvRd w) (wrapInt 64 ((rx c (rvRs1 w) : Int) + immI w))) := by
  rw [← add_wrapInt, rvExec]; dsimp only; rw [hop, hf3]; rfl

theorem rvExec_ecall : rvExec s n c 0x73 len = .trap (if c.user then 8 else 11) 0 := rfl

theorem rvExec_load (hop : rvOp w = 0x03) : rvExec s n c w len = rvLoadOp s n w c := by
  rw [rvExec]; dsimp only; rw [hop]; rfl

theorem rvExec_store (hop : rvOp w = 0x23) (hf3 : rvF3 w < 4) :
    rvExec s n c w len = rvStoreOp s n w c (2 ^ rvF3 w) (rx c (rvRs2 w)) := by
  rw [rvExec]; dsimp only; rw [hop]; exact if_neg (by omega)

end instructions

/-! ### Accesses -/

/-- R149: an address outside the map, or in the window of a core that the sector's Cobalt core may not reach. -/
def NoAccess (s : State) (n : Nat) (c : Cobalt) (kind a k : Nat) : Prop :=
  pmpOk c (dataUser c) kind a k = false ∨ cobRegion n a k = .none ∨
    ∃ core o, cobRegion n a k = .window core o ∧ windowOpenTo s core = false

theorem rvLoad_trap {s : State} {n : Nat} {c : Cobalt} {a k : Nat} (h : NoAccess s n c 0 a k) : rvLoad s n c a k = .trap 5 := by
  unfold rvLoad
  rcases h with h | h | ⟨core, o, h, hopen⟩
  · simp [h]
  · simp [h]
  · simp [h, hopen]

theorem rvStore_trap {s : State} {n a k : Nat} (v : Nat) (h : NoAccess s n (getCob s n) 1 a k) :
    rvStore s n a k v = .trap 7 := by
  unfold rvStore
  rcases h with h | h | ⟨core, o, h, hopen⟩
  · simp [h]
  · simp [h]
  · simp [h, hopen]

theorem cobRegion_tick (n : Nat) : cobRegion n 0x20010000 8 = .tick 0 := by simp [cobRegion]

/-- R30, R148: the tick register. -/
theorem rvLoad_tick {s : State} {n : Nat} {c : Cobalt} (hp : pmpOk c (dataUser c) 0 0x20010000 8 = true) (ht : s.tick < 2 ^ 64) :
    rvLoad s n c 0x20010000 8 = .ok s.tick := by
  simpa [rvLoad, hp, cobRegion_tick, bits] using ht

theorem rvLoadOp_trap {s : State} {n w a k : Nat} {c : Cobalt} (hf3 : rvF3 w ≠ 7)
    (ha : a = wrapInt 64 ((rx c (rvRs1 w) : Int) + immI w)) (hk : k = 2 ^ (rvF3 w % 4)) (h : NoAccess s n c 0 a k) :
    rvLoadOp s n w c = .trap 5 a := by
  subst ha hk
  rw [rvLoadOp, if_neg hf3, rvLoad_trap h]

theorem rvLoadOp_tick {s : State} {n w : Nat} {c : Cobalt} (hf3 : rvF3 w = 3)
    (ha : 0x20010000 = wrapInt 64 ((rx c (rvRs1 w) : Int) + immI w)) (hp : pmpOk c (dataUser c) 0 0x20010000 8 = true)
    (ht : s.tick < 2 ^ 64) : rvLoadOp s n w c = rvOk s n (fun c => wx c (rvRd w) s.tick) := by
  rw [rvLoadOp, ← ha, hf3, show 2 ^ (3 % 4) = 8 from rfl, rvLoad_tick hp ht]
  simp [sgn64_64 ht]

theorem rvStoreOp_trap {s : State} {n w a k : Nat} (v : Nat)
    (ha : a = wrapInt 64 ((rx (getCob s n) (rvRs1 w) : Int) + immS w)) (h : NoAccess s n (getCob s n) 1 a k) :
    rvStoreOp s n w (getCob s n) k v = .trap 7 a := by
  subst ha
  rw [rvStoreOp, rvStore_trap v h]

/-- Settles O53: the tick, one step of a Cobalt core by what its instruction comes to, and its traps. -/
theorem emptyQueueCountsATick : Obligations.EmptyQueueCountsATick := by
  refine ⟨fun s hq => ⟨tickOnce s, step_idle s hq, tickOnce_frame s, (tickOnce_monitors s).1, (tickOnce_monitors s).2,
      fun h => by rw [tickOnce_stopped h]; rfl⟩,
    ?_, ?_⟩
  case refine_1 =>
    rintro s n c rfl
    refine ⟨fun d hd => by rw [cobStep_interrupt hd, getCob_modCob], fun hint trapped htrapped => ?_⟩
    refine ⟨fun a ha => (htrapped 1 a).2 (cobStep_unfetched hint ha),
      fun raw len h => (htrapped _ _).2 (cobStep_illegal hint h), fun raw len w hfetch => ?_⟩
    have htrap : ∀ {cause tval}, rvExec s n (getCob s n) w len = .trap cause tval → trapped cause tval :=
      fun h => (htrapped _ _).2 (cobStep_trap hint hfetch h)
    refine ⟨fun hop hf3 => ?_, ?_, fun a k hop hf3 ha hk => ⟨fun h => ?_, fun hf3 ha' hp ht => ?_⟩, fun a k hop hf3 ha hk h => ?_⟩
    · rw [getCob_cobStep_ok hint hfetch (rvExec_addi _ len hop hf3), wx_pc]
    · rintro rfl
      exact htrap (rvExec_ecall (getCob s n) len)
    · exact htrap ((rvExec_load _ len hop).trans (rvLoadOp_trap hf3 ha hk h))
    · subst ha'
      rw [hk, hf3] at hp
      rw [getCob_cobStep_ok hint hfetch ((rvExec_load _ len hop).trans (rvLoadOp_tick hf3 ha hp ht)), wx_pc]
    · subst hk
      exact htrap ((rvExec_store _ len hop hf3).trans (rvStoreOp_trap _ ha h))
  case refine_2 =>
    rintro c d cause tval rfl
    obtain ⟨hmie, hmpie, hmpp⟩ := trapStatus_fields c
    refine ⟨rvTrap_epc c false cause tval, rvTrap_cause c cause tval, rvTrap_tval c false cause tval, rfl, rfl, ?_, ?_, ?_,
      rvTrap_frame c false cause tval⟩
    · rw [rvTrap_status, bit_eq_bits, hmie]; rfl
    · rw [rvTrap_status, bit_eq_bits, hmpie]; rfl
    · rw [rvTrap_status, hmpp]

end Sys2Proof.Machine
end

section
/-! The element-wise and width-changing instructions of the vector engine (R74, R133, R137, R138). -/

namespace Sys2Proof.Machine

/-! ### Elements and flags of a core that has moved past an instruction -/

@[simp] theorem el_past (c : Core) (m b k : Nat) : c.past.el m b k = c.el m b k := rfl
@[simp] theorem rowF_past (c : Core) (m r : Nat) : c.past.rowF m r = c.rowF m r := rfl

@[simp] theorem el_mod (c : Core) (m b k : Nat) : c.el m b k % 2 ^ b = c.el m b k := Nat.mod_eq_of_lt (el_lt c m b k)

theorem width_dvd (f : Fmt) : f.width ∣ 8192 := by cases f <;> decide

/-! ### What an element-wise instruction answers -/

section elementwise

variable {s : State} {n opc w d b : Nat} {F : Mode → Nat → Core → Core} {src : Core → Nat → List Nat} {f : Core → Nat → Nat × Flg}

/-- The state after an element-wise instruction: its elements, and its frame. -/
theorem ewise_written (hb : b ∣ 8192) {g : Nat → Nat} (hg : ∀ k, k < 8192 / b → (f (getCore s n).past k).1 % 2 ^ b = g k)
    {t : State} (ht : t = modCore (pastState s n) n (fun c => ewise c d b (src c) (f c))) :
    VecFrame s t n d ∧ ∀ k < 8192 / b, (getCore t n).el d b k = g k := by
  subst ht
  refine ⟨vecFrame_ewise s n d b src f, fun k hk => ?_⟩
  rw [getCore_at, el_ewise _ _ _ _ _ hb k hk, hg k hk]

variable (h : VecAt s n opc w) (hF : F (coreMode s n) w = fun c => ewise c d b (src c) (f c))
include h hF

theorem vecPure_ewise {o : Host.Outcome State Fault Refusal} (ho : o = vecPure opc n F s) (hb : b ∣ 8192) {g : Nat → Nat}
    (hg : ∀ k, k < 8192 / b → (f (getCore s n).past k).1 % 2 ^ b = g k) :
    ∃ t, o = .next t ∧ VecFrame s t n d ∧ ∀ k < 8192 / b, (getCore t n).el d b k = g k :=
  ⟨_, ho.trans (vecPure_at h F), ewise_written hb hg (congrArg (modCore (pastState s n) n) hF)⟩

/-- R361: a disagreement of the checks is reported on top of the same result. -/
theorem vecArith_ewise {o : Bool → Host.Outcome State Fault Refusal} (ho : ∀ bad, o bad = vecArith opc n bad F s) (hb : b ∣ 8192)
    {g : Nat → Nat} (hg : ∀ k, k < 8192 / b → (f (getCore s n).past k).1 % 2 ^ b = g k) :
    ∃ t, o false = .next t ∧ o true = .next (reportError t utCore 0x01 n 0) ∧
      VecFrame s t n d ∧ ∀ k < 8192 / b, (getCore t n).el d b k = g k :=
  ⟨_, (ho false).trans (vecArith_at h false F), (ho true).trans (vecArith_at h true F),
    ewise_written hb hg (congrArg (modCore (pastState s n) n) hF)⟩

end elementwise

/-- R133: an instruction on words that raises no flags joins those of its source rows. -/
theorem vecPure_words {s : State} {n opc w d : Nat} {o : Host.Outcome State Fault Refusal} {F : Mode → Nat → Core → Core}
    {src : List Nat} {f : Core → Nat → Nat} (h : VecAt s n opc w)
    (hF : F (coreMode s n) w = fun c => ewise c d 32 (fun _ => src) (fun k => (f c k, 0))) (ho : o = vecPure opc n F s)
    {g : Nat → Nat} (hg : ∀ k, f (getCore s n).past k % 2 ^ 32 = g k) :
    ∃ t, o = .next t ∧ VecFrame s t n d ∧ (∀ k < 256, (getCore t n).el d 32 k = g k) ∧
      ∀ r < 32, (getCore t n).rowF d r = src.foldl (fun fl x => fl ||| (getCore s n).rowF x r) 0 := by
  obtain ⟨hframe, hel⟩ := ewise_written (src := fun _ _ => src) (by decide) (fun k _ => hg k)
    (congrArg (modCore (pastState s n) n) hF)
  refine ⟨_, ho.trans (vecPure_at h F), hframe, hel, fun r hr => ?_⟩
  rw [hF, getCore_at, rowF_ewise _ _ _ _ _ (fun _ => rfl) (by decide) (by decide) r hr]
  rfl

/-! ### Bitwise instructions and shifts -/

theorem vLogic_at {s : State} {n opc w : Nat} {o : Host.Outcome State Fault Refusal} {f : Word → Word → Word}
    {g : Nat → Nat → Nat} (hfg : ∀ x y, (f x y).toNat = g x.toNat y.toNat) (h : VecAt s n opc w)
    (ho : o = vecPure opc n (fun _ => vLogic f) s) :
    ∃ t, o = .next t ∧ VecFrame s t n (vTD w) ∧
      (∀ k < 256, (getCore t n).el (vTD w) 32 k = g ((getCore s n).el (vTA w) 32 k) ((getCore s n).el (vTB w) 32 k)) ∧
      ∀ r < 32, (getCore t n).rowF (vTD w) r = (getCore s n).rowF (vTA w) r ||| (getCore s n).rowF (vTB w) r := by
  obtain ⟨t, hnext, hframe, hel, hrow⟩ := vecPure_words h rfl ho fun k => Nat.mod_eq_of_lt (BitVec.isLt _)
  refine ⟨t, hnext, hframe, fun k hk => ?_, fun r hr => by simpa using hrow r hr⟩
  rw [hel k hk, hfg, BitVec.toNat_ofNat, BitVec.toNat_ofNat, el_mod, el_mod, el_past, el_past]

theorem shiftElem_lt {kind b x : Nat} (a : Nat) (hx : x < 2 ^ b) : shiftElem kind b x a < 2 ^ b := by
  have hp : 0 < 2 ^ b := Nat.two_pow_pos b
  unfold shiftElem
  split_ifs
  · exact hp
  · exact Nat.mod_lt _ hp
  · exact hp
  · exact (Nat.div_le_self _ _).trans_lt hx
  · unfold wrapInt
    have := Int.emod_lt_of_pos (sext b x / ((2 ^ min a b : Nat) : Int)) (Int.natCast_pos.2 hp)
    omega

/-- The amount of a shift: the element of TB, or the immediate. -/
def shiftAmount (c : Core) (w k : Nat) : Nat := if bit w 5 then c.el (vTB w) (vFmt w).width k else bits w 0 5

theorem vShift_at {s : State} {n opc w kind : Nat} {o : Host.Outcome State Fault Refusal} (h : VecAt s n opc w)
    (ho : o = vecPure opc n (fun _ => vShift kind) s) :
    ∃ t, o = .next t ∧ VecFrame s t n (vTD w) ∧ ∀ k < 8192 / (vFmt w).width, ∀ a,
      a = shiftAmount (getCore s n) w k → (getCore t n).el (vTD w) (vFmt w).width k =
        shiftElem kind (vFmt w).width ((getCore s n).el (vTA w) (vFmt w).width k) a := by
  obtain ⟨t, hnext, hframe, hel⟩ := vecPure_ewise h rfl ho (width_dvd _)
    fun k _ => Nat.mod_eq_of_lt (shiftElem_lt _ (el_lt _ _ _ _))
  exact ⟨t, hnext, hframe, fun k hk a ha => by rw [hel k hk, ha]; rfl⟩

/-- Settles O8: the words of moves and bitwise instructions with their rows' flags, and the elements of shifts. -/
theorem vectorMovesAndLogic : Obligations.VectorMovesAndLogic := by
  rintro s n w c rfl
  refine ⟨fun h => ?vmov, fun h => ?vand, fun h => ?vor, fun h => ?vxor, fun h => ?vnot, ?shifts⟩
  case vmov => simpa using vecPure_words h rfl (exec_vmov s) (el_mod _ _ _)
  case vand => exact vLogic_at BitVec.toNat_and h (exec_vand s)
  case vor => exact vLogic_at BitVec.toNat_or h (exec_vor s)
  case vxor => exact vLogic_at BitVec.toNat_xor h (exec_vxor s)
  case vnot =>
    obtain ⟨t, hnext, hframe, hel, hrow⟩ := vecPure_words h rfl (exec_vnot s) fun k => Nat.mod_eq_of_lt (BitVec.isLt _)
    refine ⟨t, hnext, hframe, fun k hk => ?_, by simpa using hrow⟩
    rw [hel k hk, BitVec.toNat_not, BitVec.toNat_ofNat, el_mod, el_past]
  case shifts =>
    rintro b rfl
    exact ⟨fun h => vShift_at h (exec_vshl s), fun h => vShift_at h (exec_vshr s), fun h => vShift_at h (exec_vsra s)⟩

/-! ### Arithmetic, comparison and selection -/

theorem vInt_at {s : State} {n opc w : Nat} {o : Bool → Host.Outcome State Fault Refusal} {F : Mode → Nat → Core → Core}
    (op : Int → Int → Int) (h : VecAt s n opc w) (ho : ∀ bad, o bad = vecArith opc n bad F s)
    (hF : F (coreMode s n) w = vInt op (coreMode s n) w) :
    ∃ t, o false = .next t ∧ o true = .next (reportError t utCore 0x01 n 0) ∧
      VecFrame s t n (vTD w) ∧ ∀ k < 8192 / (vFmt w).width, (getCore t n).el (vTD w) (vFmt w).width k =
        (intFit (vFmt w).width (ovmWraps (coreMode s n) (vOvm w))
          (op (sext (vFmt w).width ((getCore s n).el (vTA w) (vFmt w).width k))
            (sext (vFmt w).width ((getCore s n).el (vTB w) (vFmt w).width k)))).1 % 2 ^ (vFmt w).width :=
  vecArith_ewise h hF ho (width_dvd _) fun _ _ => rfl

theorem vPair_at {s : State} {n opc w : Nat} {o : Host.Outcome State Fault Refusal} {F : Mode → Nat → Core → Core}
    (f : Fmt → Nat → Nat → Nat × Flg) (h : VecAt s n opc w) (ho : o = vecPure opc n F s)
    (hF : F (coreMode s n) w = vPair f w) :
    ∃ t, o = .next t ∧ VecFrame s t n (vTD w) ∧ ∀ k < 8192 / (vFmt w).width,
      (getCore t n).el (vTD w) (vFmt w).width k = (f (vFmt w) ((getCore s n).el (vTA w) (vFmt w).width k)
        ((getCore s n).el (vTB w) (vFmt w).width k)).1 % 2 ^ (vFmt w).width :=
  vecPure_ewise h hF ho (width_dvd _) fun _ _ => rfl

/-- A mask of `b` bits, all ones or 0, is an element. -/
theorem mask_mod (p : Bool) (b : Nat) : (if p then 2 ^ b - 1 else 0) % 2 ^ b = if p then 2 ^ b - 1 else 0 :=
  Nat.mod_eq_of_lt (by have := Nat.two_pow_pos b; split <;> omega)

/-- Settles O9: each instruction through what an element-wise instruction answers. -/
theorem vectorArithmetic : Obligations.VectorArithmetic := by
  rintro s n w b c md rfl rfl rfl
  refine ⟨fun h => ?vadd, fun h => ?vsub, fun h => ?vmul, fun h => ?vmulq, fun h => ?vmin, fun h => ?vmax, fun h => ?vcmp,
    fun h => ?vsel, fun h => ?vclz, fun h => ?vsplat, fun h => ?vcap⟩
  case vadd => exact vInt_at (· + ·) h (fun _ => exec_vadd s) rfl
  case vsub => exact vInt_at (· - ·) h (fun _ => exec_vsub s) rfl
  case vmul => exact vInt_at (· * ·) h (fun _ => exec_vmul s) rfl
  case vmulq => exact vInt_at (fun x y => rneShift (x * y) (bits w 0 6)) h (fun _ => exec_vmulq s) rfl
  case vmin => exact vPair_at (fun f x y => minMax (coreMode s n).flush f false x y) h (exec_vmin s) rfl
  case vmax => exact vPair_at (fun f x y => minMax (coreMode s n).flush f true x y) h (exec_vmax s) rfl
  case vcmp => exact vecPure_ewise h rfl (exec_vcmp s) (width_dvd _) fun _ _ => mask_mod _ _
  case vsel =>
    refine vecPure_ewise h rfl (exec_vsel s) (width_dvd _) fun k _ => (el_mod _ _ _ k).trans ?_
    exact apply_ite (fun m => (getCore s n).el m (vFmt w).width k) _ _ _
  case vclz => exact vecPure_ewise h rfl (exec_vclz s) (width_dvd _) fun _ _ => rfl
  case vsplat => exact vecPure_ewise h rfl (exec_vsplat s) (width_dvd _) fun _ _ => Nat.mod_eq_of_lt (bits_lt _ _ _)
  case vcap => exact vecPure_ewise h rfl (exec_vcap s) (by decide) fun _ _ => rfl

/-! ### Width-changing instructions -/

/-- R138: how many elements a width-changing instruction takes and writes. -/
def convCount (w : Nat) : Nat := 8192 / max (vFmt w).width (vFmtD w).width
/-- R138: the first element that it takes of TA, and the first that it writes of TD. -/
def convFrom (w : Nat) : Nat := if (vFmt w).width < (vFmtD w).width then bits w 0 3 * convCount w else 0
def convTo (w : Nat) : Nat := if (vFmtD w).width < (vFmt w).width then bits w 0 3 * convCount w else 0

theorem vCodes_of_legal {c : Core} {w : Nat} (h : vLegal c w = true) : vCodes c w = true := by
  unfold vLegal at h
  split at h
  · cases h
  · exact (Bool.and_eq_true_iff.1 h).2

/-- R136: the immediate of a legal width-changing instruction names one of the parts. -/
theorem VecAt.part_lt {s : State} {n opc w : Nat} (h : VecAt s n opc w) (hopc : opc = 0x18 ∨ opc = 0x19) :
    bits w 0 3 < partsOf (vFmt w) (vFmtD w) := by
  obtain ⟨-, -, -, hlegal, rfl⟩ := h
  have hcodes := vCodes_of_legal hlegal
  rcases hopc with ho | ho <;> simp [vCodes, ho] at hcodes <;> exact hcodes.2

section conversions

variable {w : Nat} (hp : bits w 0 3 < partsOf (vFmt w) (vFmtD w))
include hp

/-- The part that is written lies within the register. -/
theorem convTo_fits : (convTo w + convCount w) * (vFmtD w).width ≤ 8192 := by
  have hcount : convCount w * max (vFmt w).width (vFmtD w).width ≤ 8192 := Nat.div_mul_le_self _ _
  unfold convTo
  split
  next hlt =>
    have hparts : (bits w 0 3 + 1) * (vFmtD w).width ≤ (vFmt w).width := by
      rw [partsOf, max_eq_left hlt.le, min_eq_right hlt.le] at hp
      exact (Nat.mul_le_mul_right _ hp).trans (Nat.div_mul_le_self _ _)
    calc (bits w 0 3 * convCount w + convCount w) * (vFmtD w).width
        = convCount w * ((bits w 0 3 + 1) * (vFmtD w).width) := by ring
      _ ≤ convCount w * max (vFmt w).width (vFmtD w).width := Nat.mul_le_mul_left _ (hparts.trans (le_max_left _ _))
      _ ≤ 8192 := hcount
  next =>
    rw [Nat.zero_add]
    exact (Nat.mul_le_mul_left _ (le_max_right _ _)).trans hcount

variable (f : Nat → Nat × Flg) (x : Flg) (c : Core)

theorem el_vConv_inside {i : Nat} (hi : i < convCount w) : (vConv w f x c).el (vTD w) (vFmtD w).width (convTo w + i) =
    (f (c.el (vTA w) (vFmt w).width (convFrom w + i))).1 % 2 ^ (vFmtD w).width := by
  obtain ⟨es, hlen, hes, ht⟩ := t_vConv w f x c hp
  have hi' : i < es.length := hi.trans_eq hlen.symm
  have hfit : i * (vFmtD w).width + (vFmtD w).width ≤ convCount w * (vFmtD w).width := by
    rw [← Nat.succ_mul]; exact Nat.mul_le_mul_right _ hi
  rw [Core.el, ht, Nat.add_mul]
  exact (bits_putBits_inside _ _ _ _ _ _ hfit).trans ((bits_packElems _ es i hi').trans (by rw [hes]; rfl))

theorem el_vConv_outside {k : Nat} (hk : k < convTo w ∨ convTo w + convCount w ≤ k) :
    (vConv w f x c).el (vTD w) (vFmtD w).width k = c.el (vTD w) (vFmtD w).width k := by
  obtain ⟨es, -, -, ht⟩ := t_vConv w f x c hp
  rw [Core.el, ht]
  refine bits_putBits_outside _ _ _ _ _ _ (hk.imp (fun hlt => ?_) fun hle => ?_)
  · rw [← Nat.succ_mul]; exact Nat.mul_le_mul_right _ hlt
  · exact (Nat.add_mul _ _ _).symm.trans_le (Nat.mul_le_mul_right _ hle)

theorem rowF_vConv_ne {m r : Nat} (hm : m ≠ vTD w) (hr : r < 32) : (vConv w f x c).rowF m r = c.rowF m r := by
  have hrows : convTo w * (vFmtD w).width / 256 + convCount w * (vFmtD w).width / 256 ≤ 32 := by
    have hfits := convTo_fits hp
    rw [Nat.add_mul] at hfits
    omega
  exact (rowF_rows _ _ _ _ _ _ hr hrows _).trans (if_neg fun h => hm h.1)

/-- The state after a width-changing instruction: its frame, the part that it writes, and the rest of the register. -/
theorem vConv_written {s t : State} {n : Nat} (f : Core → Nat → Nat × Flg) (x : Core → Flg)
    (ht : t = modCore (pastState s n) n (fun c => vConv w (f c) (x c) c)) :
    VecFrame s t n (vTD w) ∧
      (∀ i < convCount w, (getCore t n).el (vTD w) (vFmtD w).width (convTo w + i) =
        (f (getCore s n).past ((getCore s n).el (vTA w) (vFmt w).width (convFrom w + i))).1 % 2 ^ (vFmtD w).width) ∧
      ∀ k, k < convTo w ∨ convTo w + convCount w ≤ k →
        (getCore t n).el (vTD w) (vFmtD w).width k = (getCore s n).el (vTD w) (vFmtD w).width k := by
  subst ht
  refine ⟨vecFrame_at s n _ _ (fun _ => rest_vConv _ _ _ _) (fun _ _ h => t_vConv_ne _ _ _ _ h)
    fun _ _ _ h hr => rowF_vConv_ne hp _ _ _ h hr, fun i hi => ?_, fun k hk => ?_⟩
  · rw [getCore_at, el_vConv_inside hp _ _ _ hi, el_past]
  · rw [getCore_at, el_vConv_outside hp _ _ _ hk, el_past]

end conversions

/-- Settles O10: what a width-changing instruction writes, for VCVT's conversion and for VLUT's table. -/
theorem vectorConversions : Obligations.VectorConversions := by
  rintro s n w a d N so dst c rfl rfl rfl rfl rfl rfl
  refine ⟨fun h => ?vcvt, fun h => ?vlut⟩
  case vcvt =>
    exact ⟨_, (exec_vcvt s).trans (vecArith_at h false _), (exec_vcvt s).trans (vecArith_at h true _),
      vConv_written (h.part_lt (.inl rfl)) (fun _ => convert (coreMode s n) (vOvm w) (vRnd w) (vFmt w) (vFmtD w)) (fun _ => 0) rfl⟩
  case vlut =>
    obtain ⟨hframe, hinside, houtside⟩ := vConv_written (h.part_lt (.inr rfl))
      (fun c x => (c.el (vTB w) (vFmtD w).width (x % 256), 0)) (fun c => (List.range 32).foldl (fun f r => f ||| c.rowF (vTB w) r) 0)
      (rfl : _ = modCore (pastState s n) n _)
    exact ⟨_, (exec_vlut s).trans (vecPure_at h _), hframe, fun i hi => (hinside i hi).trans (el_mod _ _ _ _), houtside⟩

end Sys2Proof.Machine
end

section
/-! The firings of a cell's function unit and steering unit (R67, R90 to R95). -/

namespace Sys2Proof.Machine

/-! ### A whole output of a MAC unit is the dot product (R67, R90) -/

section outputs

variable {md : Mode} {wraps : Bool} {f : Fmt} {n : Nat} {lscl : Option Int}

/-- The pairs of one group, of which the last ends it, joined to an output in progress. -/
def macGroup (md : Mode) (wraps : Bool) (f : Fmt) (lscl : Option Int) (ps : List (Nat × Nat)) (m : MacSt) : MacSt :=
  let g := groupFold md.flush f ps m.grp m.flg
  let e := groupEnd md wraps f g.1 (m.sa.getD 0) (lscl.getD (m.sb.getD 0)) m.acc
  { m with k := m.k + ps.length, acc := e.1, flg := g.2 ||| e.2, grp := GroupAcc.empty, sa := none, sb := none }

/-- A pair within a group. -/
def macJoin (md : Mode) (f : Fmt) (p : Nat × Nat) (m : MacSt) : MacSt :=
  let g := groupStep md.flush f m.grp p.1 p.2
  { m with k := m.k + 1, grp := g.1, flg := m.flg ||| g.2 }

theorem macPairs_done {m : MacSt} (h : n ≤ m.k) (ps : List (Nat × Nat)) : macPairs md wraps f n lscl ps m = m := by
  cases ps with
  | nil => rfl
  | cons p r => exact if_pos h

theorem macPairs_cons_end {m : MacSt} (hn : m.k < n) (hend : (m.k + 1) % 32 = 0 ∨ m.k + 1 = n) (p : Nat × Nat)
    (r : List (Nat × Nat)) : macPairs md wraps f n lscl (p :: r) m = macPairs md wraps f n lscl r (macGroup md wraps f lscl [p] m) :=
  (if_neg hn.not_ge).trans (if_pos hend)

theorem macPairs_cons_within {m : MacSt} (hn : m.k < n) (hend : ¬ ((m.k + 1) % 32 = 0 ∨ m.k + 1 = n)) (p : Nat × Nat)
    (r : List (Nat × Nat)) : macPairs md wraps f n lscl (p :: r) m = macPairs md wraps f n lscl r (macJoin md f p m) :=
  (if_neg hn.not_ge).trans (if_neg hend)

theorem macPairs_append (ps qs : List (Nat × Nat)) (m : MacSt) :
    macPairs md wraps f n lscl (ps ++ qs) m = macPairs md wraps f n lscl qs (macPairs md wraps f n lscl ps m) := by
  induction ps generalizing m with
  | nil => rfl
  | cons p r ih =>
    by_cases hn : m.k < n
    · by_cases hend : (m.k + 1) % 32 = 0 ∨ m.k + 1 = n
      · rw [List.cons_append, macPairs_cons_end hn hend, macPairs_cons_end hn hend, ih]
      · rw [List.cons_append, macPairs_cons_within hn hend, macPairs_cons_within hn hend, ih]
    · rw [macPairs_done (not_lt.1 hn), macPairs_done (not_lt.1 hn), macPairs_done (not_lt.1 hn)]

/-- The rest of a group in one piece. -/
theorem macPairs_group {ps : List (Nat × Nat)} {m : MacSt} (hne : ps ≠ []) (hfit : m.k % 32 + ps.length ≤ 32) (hn : m.k + ps.length ≤ n)
    (hend : (m.k + ps.length) % 32 = 0 ∨ m.k + ps.length = n) :
    macPairs md wraps f n lscl ps m = macGroup md wraps f lscl ps m := by
  induction ps generalizing m with
  | nil => exact absurd rfl hne
  | cons p r ih =>
    rw [List.length_cons] at hfit hn hend
    cases r with
    | nil => exact macPairs_cons_end hn hend p []
    | cons q r =>
      rw [List.length_cons] at hfit hn hend
      rw [macPairs_cons_within (by omega) (by omega), ih (List.cons_ne_nil q r)]
      · simp only [macGroup, macJoin, groupFold, List.length_cons, Nat.add_assoc, Nat.add_comm 1]
      all_goals simp only [macJoin, List.length_cons]; omega

/-- Flags raised in a group join those held before it. -/
theorem groupFold_flags (flush : Bool) (ps : List (Nat × Nat)) (g : GroupAcc) (fl : Flg) :
    groupFold flush f ps g fl = ((groupFold flush f ps g 0).1, fl ||| (groupFold flush f ps g 0).2) := by
  induction ps generalizing g fl with
  | nil => simp [groupFold]
  | cons p r ih =>
    rw [groupFold, groupFold, ih, ih _ (0 ||| _)]
    simp [BitVec.or_assoc]

/-- The scales of B that a latched operand gives: its own for every group. -/
def groupScales (lscl : Option Int) (n : Nat) : List Int := lscl.elim [] (List.replicate n)

theorem headD_groupScales (n : Nat) : (groupScales lscl (n + 1)).headD 0 = lscl.getD 0 := by cases lscl <;> rfl

theorem tail_groupScales (n : Nat) : (groupScales lscl (n + 1)).tail = groupScales lscl n := by cases lscl <;> rfl

theorem dotGroups_succ {ps : List (Nat × Nat)} (hne : ps ≠ []) (n : Nat) (acc : Nat) (fl : Flg) :
    dotGroups md wraps f (n + 1) ps [] (groupScales lscl (n + 1)) acc fl =
      let g := groupFold md.flush f (ps.take 32) GroupAcc.empty 0
      let e := groupEnd md wraps f g.1 0 (lscl.getD 0) acc
      dotGroups md wraps f n (ps.drop 32) [] (groupScales lscl n) e.1 (fl ||| g.2 ||| e.2) := by
  rw [← headD_groupScales n, ← tail_groupScales n]
  cases ps with
  | nil => exact absurd rfl hne
  | cons p r => rfl

/-- An output in progress that has nothing of its next group yet. -/
structure NoGroup (m : MacSt) : Prop where
  grp : m.grp = GroupAcc.empty
  sa : m.sa = none
  sb : m.sb = none

theorem macGroup_noGroup (ps : List (Nat × Nat)) (m : MacSt) : NoGroup (macGroup md wraps f lscl ps m) := ⟨rfl, rfl, rfl⟩

/-- The rest of an output, group by group, is what `dot` makes of its groups. -/
theorem macPairs_dotGroups {groups : Nat} {ps : List (Nat × Nat)} {m m' : MacSt} (hm : NoGroup m) (hk : ps ≠ [] → m.k % 32 = 0)
    (hg : groups = ceilDiv ps.length 32) (hn : m.k + ps.length = n) (hm' : macPairs md wraps f n lscl ps m = m') :
    (m'.acc, m'.flg) = dotGroups md wraps f groups ps [] (groupScales lscl groups) m.acc m.flg ∧ m'.k = n := by
  unfold ceilDiv at hg
  induction groups generalizing ps m with
  | zero =>
    obtain rfl : ps = [] := List.eq_nil_of_length_eq_zero (by omega)
    subst hm'
    exact ⟨rfl, hn⟩
  | succ groups ih =>
    have hne : ps ≠ [] := by rintro rfl; cases hg
    have htake : (ps.take 32).length = min 32 ps.length := List.length_take
    have hdrop : (ps.drop 32).length = ps.length - 32 := List.length_drop
    have hpos : 0 < ps.length := List.length_pos_iff.2 hne
    specialize hk hne
    have hgroup : macPairs md wraps f n lscl (ps.take 32) m = macGroup md wraps f lscl (ps.take 32) m :=
      macPairs_group (List.length_pos_iff.1 (by omega)) (by omega) (by omega) (by omega)
    have hcount : (macGroup md wraps f lscl (ps.take 32) m).k = m.k + (ps.take 32).length := rfl
    rw [← List.take_append_drop 32 ps, macPairs_append, hgroup] at hm'
    have hrest := ih (macGroup_noGroup _ _) (fun h => by have := List.length_pos_iff.2 h; omega) (by omega) (by omega) hm'
    rw [dotGroups_succ hne]
    simp only [macGroup, hm.grp, hm.sa, hm.sb, Option.getD_none] at hrest
    rwa [groupFold_flags] at hrest

/-- R67: a whole output from its start at `acc`. -/
theorem macPairs_dot (ps : List (Nat × Nat)) (acc : Nat) {m : MacSt}
    (hm : macPairs md wraps f ps.length lscl ps { begun := true, acc := acc } = m) :
    (m.acc, m.flg) = dot md wraps f ps [] (groupScales lscl (ceilDiv ps.length 32)) acc ∧ m.k = ps.length :=
  macPairs_dotGroups (m := { begun := true, acc := acc }) ⟨rfl, rfl, rfl⟩ (fun _ => rfl) rfl (Nat.zero_add _) hm

end outputs

/-! ### A firing of a MAC or MACL unit (R90, R361) -/

/-- The commands of a cell know every cell of the module. -/
theorem onUnit_isCell {row col : Nat} (h : isCell row col = true) (t : State) : onUnit (inGrid row col) t = .next t := if_pos h

section takes

variable {c : Cell} (hwait : c.macWait = none)
include hwait

/-- A unit that has begun its output takes no data item before it fires. -/
theorem macTake_data (hbegun : c.mac.begun = true) (ha : ∀ i, SGet none c.latch 4 = some i → i.kind = 0)
    (hb : ∀ i, SGet none c.latch 5 = some i → i.kind = 0) : macTake c = c := by
  cases h4 : SGet none c.latch 4 <;> cases h5 : SGet none c.latch 5 <;> simp [macTake, *]

variable (h5 : SGet none c.latch 5 = none)
include h5

/-- An output without C begins at zero. -/
theorem macTake_begin (hbegun : c.mac.begun = false) (h4 : SGet none c.latch 4 = none) (hsel : c.sel 6 = 0) :
    macTake c = { c with mac := { c.mac with begun := true } } := by
  simp [macTake, hwait, hbegun, hsel, h4, h5]

/-- An output with C begins at the item that its input holds. -/
theorem macTake_begin_at (hbegun : c.mac.begun = false) (h4 : SGet none c.latch 4 = none) (hsel : c.sel 6 ≠ 0) {i : Item}
    (h6 : SGet none c.latch 6 = some i) :
    macTake c = { c with
      mac := { c.mac with begun := true, acc := i.pay % 2 ^ 32, flg := c.mac.flg ||| i.flg }, latch := SSet none c.latch 6 none } := by
  simp [macTake, hwait, hbegun, hsel, h4, h5, h6, SGet_SSet_ne]

theorem macTake_scale (hbegun : c.mac.begun = true) {i : Item} (h4 : SGet none c.latch 4 = some i) (hkind : i.kind = 2)
    (hsa : c.mac.sa = none) :
    macTake c = { c with
      mac := { c.mac with sa := some (sext 8 i.pay), flg := c.mac.flg ||| i.flg }, latch := SSet none c.latch 4 none } := by
  simp [macTake, hwait, hbegun, h4, hkind, hsa, h5, SGet_SSet_ne]

end takes

section firings

variable {c : Cell} {a b : Item} (h4 : SGet none c.latch 4 = some a)

/-- A unit without an item at A does not fire. -/
theorem macReady_empty (h4 : SGet none c.latch 4 = none) : macReady c = false := by simp [macReady, h4]

include h4

theorem macFire_mac (md : Mode) (hop : c.op = 1) (h5 : SGet none c.latch 5 = some b) :
    macFire md c = macOut { c with
      mac := macPairs md (ovmWraps md (bits c.w1 15 2)) (Fmt.ofCode (bits c.w1 3 3)) (bits c.w2 0 20) none
        ((itemElems (Fmt.ofCode (bits c.w1 3 3)) a.pay).zip (itemElems (Fmt.ofCode (bits c.w1 3 3)) b.pay))
        { c.mac with flg := c.mac.flg ||| (a.flg ||| b.flg) }
      latch := SSet none (SSet none c.latch 5 none) 4 none } := by
  simp [macFire, h4, h5, hop]

theorem macFire_macl (md : Mode) (hop : c.op = 2) :
    macFire md c = macOut { c with
      mac := macPairs md (ovmWraps md (bits c.w1 15 2)) (Fmt.ofCode (bits c.w1 3 3)) (bits c.w2 0 20) (some (sext 8 (bits c.w2 20 8)))
        ((itemElems (Fmt.ofCode (bits c.w1 3 3)) a.pay).map (fun x => (x, bits c.w3 0 (Fmt.ofCode (bits c.w1 3 3)).width)))
        { c.mac with flg := c.mac.flg ||| a.flg }
      latch := SSet none c.latch 4 none } := by
  simp [macFire, h4, hop, List.map_prod_left_eq_zip]

variable (hkind : a.kind = 0) (hwait : c.macWait = none) (hbegun : c.mac.begun = true) (hsa : bit c.w1 17 = true → c.mac.sa.isSome = true)
include hkind hwait hbegun hsa

theorem macReady_mac (h5 : SGet none c.latch 5 = some b) (hkind' : b.kind = 0)
    (hsb : bit c.w1 18 = true → c.mac.sb.isSome = true) : macReady c = true := by
  simpa [macReady, h4, h5, hkind, hkind', hwait, hbegun] using And.intro (not_or_of_imp hsa) (Or.inr (not_or_of_imp hsb))

theorem macReady_macl (hop : c.op = 2) : macReady c = true := by
  simpa [macReady, h4, hkind, hwait, hbegun, hop] using not_or_of_imp hsa

end firings

/-- A finished output leaves the accumulator, for the stage when that is free. -/
theorem macFires_macOut (md : Mode) (c : Cell) (ps : List (Nat × Nat)) (lscl : Option Int) (l : SMap (Option Item)) (fl : Flg) :
    MacFires md c (macOut { c with
      mac := macPairs md (ovmWraps md (bits c.w1 15 2)) (Fmt.ofCode (bits c.w1 3 3)) (bits c.w2 0 20) lscl ps
        { c.mac with flg := c.mac.flg ||| fl }
      latch := l }) ps lscl l fl := by
  refine ⟨fun hk => if_neg hk, fun hk hfu => (if_pos hk).trans ?_, fun hk hfu => (if_pos hk).trans ?_⟩
  · exact if_pos (Option.isNone_iff_eq_none.2 hfu)
  · exact if_neg fun h => hfu (Option.isNone_iff_eq_none.1 h)

section cells

variable {s : State} {row col : Nat} {c c' : Cell} (hcell : isCell row col = true) (hheld : ¬ coreHeld s (coreOfCell row col) = true)
  (hc : getCell s row col = c)
include hheld hc

theorem macFiring_ready {op : Nat} (hop : c.op = op) (htake : macTake c = c) (hready : macReady c = true) (bad : Bool) :
    macFiring op row col bad s = if bad then
        reportError (setCell s row col (macFire (cellMode s row col) c)) utCore 0x01 (coreOfCell row col) 0
      else setCell s row col (macFire (cellMode s row col) c) := by
  simp [macFiring, hc, hop, hheld, htake, hready]

theorem macFiring_takes {op : Nat} (hop : c.op = op) (htake : macTake c = c') (hready : macReady c' = false) (bad : Bool) :
    macFiring op row col bad s = setCell s row col c' := by
  simp [macFiring, hc, hop, hheld, htake, hready]

include hcell

/-- What a MAC or a MACL unit takes before its data. -/
theorem exec_macTake (bad : Bool) (htake : macTake c = c') (h4 : SGet none c'.latch 4 = none) :
    (c.op = 1 → exec (.macFiring row col bad) s = .next (setCell s row col c')) ∧
    (c.op = 2 → exec (.maclFiring row col bad) s = .next (setCell s row col c')) := by
  refine ⟨fun hop => (onUnit_isCell hcell _).trans ?_, fun hop => (onUnit_isCell hcell _).trans ?_⟩ <;>
    rw [macFiring_takes hheld hc hop htake (macReady_empty h4)]

/-- A firing of a unit whose rule the cell meets. -/
theorem cellFiring_next {f : Cell → Option Cell} (hf : f c = some c') :
    onUnit (inGrid row col) (cellFiring row col f s) = .next (setCell s row col c') := by
  simp [onUnit_isCell hcell, cellFiring, hheld, hc, hf]

end cells

/-! ### The other function units (R92) and the steering units (R91, R95) -/

theorem delayFire_takes_and_offers {c : Cell} {i x : Item} {r : List Item} (hop : c.op = 3) (h4 : SGet none c.latch 4 = some i)
    (hfu : c.fu = none) (hroom : c.delay.length < 32) (hd : c.delay ++ [i] = x :: r) :
    delayFire c = some { c with fu := some x, delay := r, latch := SSet none c.latch 4 none } := by
  simp [delayFire, hop, h4, hfu, hroom, hd, b2n]

theorem delayFire_takes {c : Cell} {i y : Item} (hop : c.op = 3) (h4 : SGet none c.latch 4 = some i) (hfu : c.fu = some y)
    (hroom : c.delay.length < 31) :
    delayFire c = some { c with delay := c.delay ++ [i], latch := SSet none c.latch 4 none } := by
  simp [delayFire, hop, h4, hfu, b2n, show c.delay.length + 1 < 32 by omega]

theorem delayFire_offers {c : Cell} {x : Item} {r : List Item} (hop : c.op = 3) (h4 : SGet none c.latch 4 = none)
    (hfu : c.fu = none) (hd : c.delay = x :: r) : delayFire c = some { c with fu := some x, delay := r } := by
  simp [delayFire, hop, h4, hfu, hd]

theorem testFire_emits (md : Mode) {c : Cell} {i : Item} {b : Bool} {fl : Flg} (hop : c.op = 4) (hfu : c.fu = none)
    (h4 : SGet none c.latch 4 = some i) (hkind : i.kind = 0)
    (htest : testCond md.flush (Fmt.ofCode (bits c.w1 3 3)) (bits c.w1 19 2) (bits i.pay 0 (Fmt.ofCode (bits c.w1 3 3)).width) = (b, fl)) :
    testFire md c = some { c with
      fu := some ⟨i.flg ||| fl ||| c.owed, 1, b2n b⟩, owed := 0, latch := SSet none c.latch 4 none } := by
  simp [testFire, hop, hfu, h4, hkind, htest]

section steering

variable {c : Cell} {d k : Item}

theorem steerFire_one (hkind : c.skind = 1) (h7 : SGet none c.latch 7 = some d) (h9 : SGet none c.latch 9 = some k)
    (hk : bit k.pay 0 = true) (hst : c.st1 = none) :
    steerFire c = some { c with
      latch := SSet none (SSet none c.latch 7 none) 9 none, owed := 0, st1 := some (carry c d k.flg) } := by
  simp [steerFire, hkind, h7, h9, hk, hst]

theorem steerFire_zero (hkind : c.skind = 1) (h7 : SGet none c.latch 7 = some d) (h9 : SGet none c.latch 9 = some k)
    (hk : bit k.pay 0 = false) (hst : c.st0 = none) :
    steerFire c = some { c with
      latch := SSet none (SSet none c.latch 7 none) 9 none, owed := 0, st0 := some (carry c d k.flg) } := by
  simp [steerFire, hkind, h7, h9, hk, hst]

theorem mergeFire_selected (hkind : c.skind = 2) (h9 : SGet none c.latch 9 = some k) {n : Nat} (hn : n = if bit k.pay 0 then 8 else 7)
    (hd : SGet none c.latch n = some d) (hst : c.st0 = none) :
    mergeFire c = some { c with
      latch := SSet none (SSet none c.latch n none) 9 none, owed := 0, st0 := some (carry c d k.flg) } := by
  simp [mergeFire, hkind, h9, ← hn, hd, hst]

theorem gateFire_passes (hkind : c.skind = 3) (h7 : SGet none c.latch 7 = some d) (h9 : SGet none c.latch 9 = some k)
    (hk : bit k.pay 0 = bit c.w4 12) (hst : c.st0 = none) :
    gateFire c = some { c with
      latch := SSet none (SSet none c.latch 7 none) 9 none, owed := 0, st0 := some (carry c d k.flg) } := by
  simp [gateFire, hkind, h7, h9, hk, hst]

theorem gateFire_discards (hkind : c.skind = 3) (h7 : SGet none c.latch 7 = some d) (h9 : SGet none c.latch 9 = some k)
    (hk : bit k.pay 0 ≠ bit c.w4 12) :
    gateFire c = some { c with latch := SSet none (SSet none c.latch 7 none) 9 none, owed := c.owed ||| d.flg ||| k.flg } := by
  simp [gateFire, hkind, h7, h9, hk]

/-- R95: REPEAT holds what it needs: `n` emissions are left, and `fl` are the flags of the control item, if K is selected. -/
def RepeatHolds (c : Cell) (n : Nat) (fl : Flg) : Prop :=
  c.sel 9 = 0 ∧ SGet none c.latch 9 = none ∧ fl = 0 ∧ n = c.reps.getD (bits c.w4 16 16) ∨
    c.sel 9 ≠ 0 ∧ ∃ k, SGet none c.latch 9 = some k ∧ fl = k.flg ∧ n = c.reps.getD (bits k.pay 0 16)

theorem repeatFire_holds (hkind : c.skind = 4) (h7 : SGet none c.latch 7 = some d) {n : Nat} {fl : Flg} (h9 : RepeatHolds c n fl) :
    repeatFire c =
      if n = 0 then some { c with
        latch := SSet none (SSet none c.latch 7 none) 9 none, reps := none, owed := c.owed ||| d.flg ||| fl }
      else if c.st0.isSome then none
      else if n = 1 then some { c with
        latch := SSet none (SSet none c.latch 7 none) 9 none, reps := none, st0 := some d, owed := c.owed ||| fl }
      else some { c with st0 := some d, reps := some (n - 1) } := by
  rcases h9 with ⟨hsel, h9, rfl, rfl⟩ | ⟨hsel, k, h9, rfl, rfl⟩
  · simp [repeatFire, hkind, h7, hsel, h9]
  · simp [repeatFire, hkind, h7, hsel, h9]

theorem countFire_emits (hkind : c.skind = 5) (h7 : SGet none c.latch 7 = some d) (hst : c.st0 = none) {n : Nat} {fl : Flg}
    (hn : n = c.reps.getD (bits c.w4 16 16)) (hfl : fl = if c.reps.isNone then d.flg ||| c.owed else d.flg) :
    countFire c =
      if n ≤ 1 then some { c with
        owed := if c.reps.isNone then 0 else c.owed
        st0 := some ⟨fl, 1, 0⟩, reps := none, latch := SSet none c.latch 7 none }
      else some { c with
        owed := if c.reps.isNone then 0 else c.owed
        st0 := some ⟨fl, 1, 1⟩, reps := some (n - 1) } := by
  subst hn hfl
  simp [countFire, hkind, h7, hst]

end steering

/-- Settles O1: each firing by what its unit takes, makes and emits, and a whole output group by group. -/
theorem cellFirings : Obligations.CellFirings := by
  refine ⟨⟨?mac, ?macl, ?begins, ?scale, fun md wraps f n lscl ps qs m => macPairs_append ps qs m, ?dots⟩, ?delay, ?test,
    ?steer, ?merge, ?gate, ?repeats, ?count⟩
  case mac =>
    intro s row col c a b hcell hheld hc hop hwait hbegun h4 ha h5 hb hsa hsb
    have htake : macTake c = c := macTake_data hwait hbegun (by simpa [h4] using ha) (by simpa [h5] using hb)
    have hfires := macFiring_ready hheld hc hop htake (macReady_mac h4 ha hwait hbegun hsa h5 hb hsb)
    rw [macFire_mac h4 _ hop h5] at hfires
    exact ⟨_, macFires_macOut _ _ _ _ _ _, (onUnit_isCell hcell _).trans (congrArg _ (hfires false)),
      (onUnit_isCell hcell _).trans (congrArg _ (hfires true))⟩
  case macl =>
    intro s row col c a hcell hheld hc hop hwait hbegun h4 ha hb hsa
    have htake : macTake c = c := macTake_data hwait hbegun (by simpa [h4] using ha) hb
    have hfires := macFiring_ready hheld hc hop htake (macReady_macl h4 ha hwait hbegun hsa hop)
    rw [macFire_macl h4 _ hop] at hfires
    exact ⟨_, macFires_macOut _ _ _ _ _ _, (onUnit_isCell hcell _).trans (congrArg _ (hfires false)),
      (onUnit_isCell hcell _).trans (congrArg _ (hfires true))⟩
  case begins =>
    rintro s row col bad c hcell hheld hc hwait hbegun h4 h5 c' (⟨hsel, rfl⟩ | ⟨hsel, i, h6, rfl⟩)
    · exact exec_macTake hcell hheld hc bad (macTake_begin hwait h5 hbegun h4 hsel) h4
    · exact exec_macTake hcell hheld hc bad (macTake_begin_at hwait h5 hbegun h4 hsel h6) (by simp [SGet_SSet_ne, h4])
  case scale =>
    rintro s row col bad c i hcell hheld hc hwait hbegun h5 h4 hkind hsa c' rfl
    exact exec_macTake hcell hheld hc bad (macTake_scale hwait h5 hbegun h4 hkind hsa) (by simp)
  case dots =>
    intro md wraps f l ps acc
    exact ⟨macPairs_dot ps acc rfl, (macPairs_dot ps acc rfl).1⟩
  case delay =>
    intro s row col c hcell hheld hc hop
    exact ⟨fun i x r h4 hfu hroom hd => cellFiring_next hcell hheld hc (delayFire_takes_and_offers hop h4 hfu hroom hd),
      fun i y h4 hfu hroom => cellFiring_next hcell hheld hc (delayFire_takes hop h4 hfu hroom),
      fun x r h4 hfu hd => cellFiring_next hcell hheld hc (delayFire_offers hop h4 hfu hd)⟩
  case test =>
    intro s row col c i b f hcell hheld hc hop hfu h4 hkind htest
    exact cellFiring_next hcell hheld hc (testFire_emits _ hop hfu h4 hkind htest)
  case steer =>
    intro s row col c d k hcell hheld hc hkind h7 h9
    exact ⟨fun hk hst => cellFiring_next hcell hheld hc (steerFire_one hkind h7 h9 hk hst),
      fun hk hst => cellFiring_next hcell hheld hc (steerFire_zero hkind h7 h9 hk hst)⟩
  case merge =>
    intro s row col n c d k hcell hheld hc hkind h9 hn hd hst
    exact cellFiring_next hcell hheld hc (mergeFire_selected hkind h9 hn hd hst)
  case gate =>
    intro s row col c d k hcell hheld hc hkind h7 h9
    exact ⟨fun hk hst => cellFiring_next hcell hheld hc (gateFire_passes hkind h7 h9 hk hst),
      fun hk => cellFiring_next hcell hheld hc (gateFire_discards hkind h7 h9 hk)⟩
  case repeats =>
    intro s row col n c d kf hcell hheld hc hkind h7 h9
    have hfire := repeatFire_holds hkind h7 (n := n) (fl := kf) h9
    refine ⟨fun hn => ?_, fun hn hst => ?_, fun hn hst => ?_⟩ <;> refine cellFiring_next hcell hheld hc (hfire.trans ?_)
    · exact if_pos hn
    · exact (if_neg (by omega)).trans ((if_neg (by simp [hst])).trans (if_pos hn))
    · exact (if_neg (by omega)).trans ((if_neg (by simp [hst])).trans (if_neg (by omega)))
  case count =>
    intro s row col n c d fl hcell hheld hc hkind h7 hst hn hfl
    have hfire := countFire_emits hkind h7 hst hn hfl
    exact ⟨fun hle => cellFiring_next hcell hheld hc (hfire.trans (if_pos hle)),
      fun hlt => cellFiring_next hcell hheld hc (hfire.trans (if_neg hlt.not_ge))⟩

end Sys2Proof.Machine
end

section
/-! Transfers on lanes and the handshake anomaly (R77, R80, R81, R84 to R86). -/

namespace Sys2Proof.Machine

/-! ### An item on the wires (R77) -/

theorem bit_eq_testBit (x n : Nat) : bit x n = x.testBit n := by
  rw [bit, Nat.testBit_eq_decide_div_mod_eq, Bool.beq_eq_decide_eq]

/-- Bits above the counted ones do not count. -/
theorem ones_add_high (n w v : Nat) (hw : w < 2 ^ n) : ones n (w + 2 ^ n * v) = ones n w := by
  unfold ones
  congr 1
  refine List.filter_congr fun i hi => ?_
  rw [bit_eq_testBit, bit_eq_testBit, Nat.add_comm, Nat.testBit_two_pow_mul_add v hw, if_pos (List.mem_range.1 hi)]

theorem ones_succ (n x : Nat) : ones (n + 1) x = ones n x + b2n (bit x n) := by
  simp only [ones, List.range_succ, List.filter_append, List.length_append]
  cases h : bit x n <;> simp [h, b2n]

/-- The wires of an item below its parity bit. -/
def itemBits (i : Item) : Nat := i.pay % 2 ^ 32 + 2 ^ 32 * (i.kind % 4) + 2 ^ 34 * i.flg.toNat

theorem itemWord_eq (i : Item) : itemWord i = itemBits i + 2 ^ 38 * (ones 38 (itemBits i) % 2) := rfl

theorem itemBits_lt (i : Item) : itemBits i < 2 ^ 38 := by
  have hflg := i.flg.isLt
  unfold itemBits
  omega

theorem itemWord_lt (i : Item) : itemWord i < 2 ^ 39 := by
  have hbits := itemBits_lt i
  rw [itemWord_eq]
  omega

/-- R77: the parity bit makes the number of ones even. -/
theorem ones_itemWord (i : Item) : ones 39 (itemWord i) % 2 = 0 := by
  have hbits := itemBits_lt i
  rw [ones_succ, itemWord_eq, ones_add_high 38 _ _ hbits, bit, show (itemBits i + 2 ^ 38 * (ones 38 (itemBits i) % 2)) / 2 ^ 38 % 2 =
    ones 38 (itemBits i) % 2 by omega]
  rcases Nat.mod_two_eq_zero_or_one (ones 38 (itemBits i)) with h | h <;> simp [h, b2n]
  omega

theorem bits_itemWord_kind (i : Item) : bits (itemWord i) 32 2 = i.kind % 4 := by
  rw [itemWord_eq, itemBits, bits]
  omega

theorem wordItem_itemWord {i : Item} (hkind : i.kind < 4) (hpay : i.pay < 2 ^ 32) : wordItem (itemWord i) = i := by
  have hflg := i.flg.isLt
  have hf : bits (itemWord i) 34 4 = i.flg.toNat := by
    rw [itemWord_eq, itemBits, bits]
    omega
  have hp : bits (itemWord i) 0 32 = i.pay := by
    rw [itemWord_eq, itemBits, bits]
    omega
  rw [wordItem, hf, bits_itemWord_kind, hp, Nat.mod_eq_of_lt hkind, BitVec.ofNat_toNat, BitVec.setWidth_eq]

/-- R84: wires that nothing disturbs. -/
theorem undisturbed_itemWord (i : Item) : (BitVec.ofNat 39 (itemWord i) ^^^ 0).toNat = itemWord i :=
  (congrArg BitVec.toNat BitVec.xor_zero).trans ((BitVec.toNat_ofNat ..).trans (Nat.mod_eq_of_lt (itemWord_lt i)))

/-! ### What freeing a source leaves (R81, R90) -/

/-- What the inputs and outbound lanes of a cell hold, and the configuration of its function unit, are the same in `c` and `d`. -/
structure SameInputs (c d : Cell) : Prop where
  w1 : d.w1 = c.w1
  latch : d.latch = c.latch
  outs : d.outs = c.outs

theorem SameInputs.refl (c : Cell) : SameInputs c c := ⟨rfl, rfl, rfl⟩

theorem SameInputs.trans {c d e : Cell} (h : SameInputs c d) (k : SameInputs d e) : SameInputs c e :=
  ⟨k.w1.trans h.w1, k.latch.trans h.latch, k.outs.trans h.outs⟩

theorem SameInputs.kindTaken_eq {c d : Cell} (h : SameInputs c d) (k kind : Nat) : kindTaken d k kind = kindTaken c k kind := by
  unfold kindTaken Cell.op
  rw [h.w1]

/-- No cell but (row, col) differs, and no core. -/
structure OtherCellsKept (row col : Nat) (s t : State) : Prop where
  cores : t.eng.cores = s.eng.cores
  cells : ∀ r c, col < 1024 → c < 1024 → r ≠ row ∨ c ≠ col → getCell t r c = getCell s r c

section kept

variable {row col : Nat} {s t u : State}

theorem OtherCellsKept.trans (h : OtherCellsKept row col s t) (k : OtherCellsKept row col t u) : OtherCellsKept row col s u :=
  ⟨k.cores.trans h.cores, fun r c hcol hc hne => (k.cells r c hcol hc hne).trans (h.cells r c hcol hc hne)⟩

theorem setCell_otherCellsKept (s : State) (row col : Nat) (c : Cell) : OtherCellsKept row col s (setCell s row col c) :=
  ⟨rfl, fun _ _ hcol hc hne => getCell_setCell_ne s c hcol hc hne⟩

theorem freeUnit_otherCellsKept (s : State) (row col src : Nat) : OtherCellsKept row col s (freeUnit s row col src) := by
  unfold freeUnit
  split_ifs <;> exact setCell_otherCellsKept ..

theorem noteWith_otherCellsKept {free : State → State} (hfree : ∀ t, OtherCellsKept row col t (free t)) (s : State) (src k : Nat) :
    OtherCellsKept row col s (noteWith free s row col src k) := by
  unfold noteWith
  dsimp only
  split_ifs
  · exact (setCell_otherCellsKept ..).trans (hfree _)
  · exact setCell_otherCellsKept ..

theorem takeLane_otherCellsKept (s : State) (row col d : Nat) : OtherCellsKept row col s (takeLane s row col d) := by
  unfold takeLane
  dsimp only
  split_ifs
  · exact noteWith_otherCellsKept (fun t => freeUnit_otherCellsKept t ..) ..
  · exact setCell_otherCellsKept ..

end kept

/-- A neighbour is another cell. -/
theorem neighbour_ne {row col d : Nat} {n : Nat × Nat} (h : neighbour row col d = some n) (hcol : col < 1024) :
    n.2 < 1024 ∧ (row ≠ n.1 ∨ col ≠ n.2) := by
  unfold neighbour at h
  split_ifs at h <;> cases h <;> dsimp only <;> omega

theorem freeUnit_sameInputs (s : State) (row col src : Nat) :
    SameInputs (getCell s row col) (getCell (freeUnit s row col src) row col) := by
  unfold freeUnit
  dsimp only
  split_ifs <;> rw [getCell_setCell] <;> exact ⟨rfl, rfl, rfl⟩

theorem freeSource_sameInputs (s : State) (row : Nat) {col : Nat} (src : Nat) (hcol : col < 1024) :
    SameInputs (getCell s row col) (getCell (freeSource s row col src) row col) := by
  unfold freeSource
  dsimp only
  split_ifs
  · exact .refl _
  · cases hn : neighbour row col (src - 1) with
    | none => exact .refl _
    | some n =>
      obtain ⟨hlt, hne⟩ := neighbour_ne hn hcol
      dsimp only
      rw [(takeLane_otherCellsKept s n.1 n.2 _).cells row col hlt hcol hne]
      exact .refl _
  · exact freeUnit_sameInputs ..

theorem noteTaken_sameInputs (s : State) (row : Nat) {col : Nat} (src k : Nat) (hcol : col < 1024) :
    SameInputs (getCell s row col) (getCell (noteTaken s row col src k) row col) := by
  have hset (m : SMap Nat) : SameInputs (getCell s row col)
      (getCell (setCell s row col { getCell s row col with taken := m }) row col) := by
    rw [getCell_setCell]
    exact ⟨rfl, rfl, rfl⟩
  unfold noteTaken noteWith
  dsimp only
  split_ifs
  · exact (hset _).trans (freeSource_sameInputs _ row src hcol)
  · exact hset _

/-! ### A transfer that nothing disturbs (R80, R81, R85, R86) -/

theorem Within.eng_only {s t : State} (h : Within [.eng] s t) :
    t.mem = s.mem ∧ t.parts = s.parts ∧ t.host = s.host ∧ t.pew = s.pew :=
  ⟨h.mem.resolve_left (by decide), h.parts.resolve_left (by decide), h.host.resolve_left (by decide), h.pew.resolve_left (by decide)⟩

/-- The state after a cell's own consumer has latched an item that it takes. -/
def latched (s : State) (row col src k : Nat) (i : Item) : State :=
  let t := noteTaken (setCell s row col (latchItem (getCell s row col) k i)) row col src k
  if src ≤ 4 ∨ k < 4 then progressed t row col else t

theorem latched_within (s : State) (row col src k : Nat) (i : Item) : Within [.eng] s (latched s row col src k i) := by
  have hnote : Within [.eng] s (noteTaken (setCell s row col (latchItem (getCell s row col) k i)) row col src k) :=
    noteTaken_within (by decide) (setCell_within _ _ _ (by decide) (.refl _ s))
  exact ite_within (progressed_within (by decide) hnote) hnote

theorem latched_sameInputs (s : State) (row : Nat) {col : Nat} (src k : Nat) (i : Item) (hcol : col < 1024) :
    SameInputs (latchItem (getCell s row col) k i) (getCell (latched s row col src k i) row col) := by
  have hnote := noteTaken_sameInputs (setCell s row col (latchItem (getCell s row col) k i)) row src k hcol
  rw [getCell_setCell] at hnote
  unfold latched
  dsimp only
  split_ifs <;> exact hnote

theorem latchItem_input (c : Cell) {k : Nat} (i : Item) (hk : 4 ≤ k) : SGet none (latchItem c k i).latch k = some i := by
  simp only [latchItem, if_neg (not_lt.2 hk), SGet_SSet_self]

theorem latchItem_lane (c : Cell) {k : Nat} (i : Item) (hk : k < 4) :
    SGet [] (latchItem c k i).outs k = SGet [] c.outs k ++ [i] := by
  simp only [latchItem, if_pos hk, SGet_SSet_self]

theorem latchItem_kindTaken (c : Cell) (k : Nat) (i : Item) (k' kind : Nat) :
    kindTaken (latchItem c k i) k' kind = kindTaken c k' kind := by
  unfold latchItem
  split_ifs <;> rfl

/-- The state after a stream engine has taken the item at the far end of a boundary cell's outbound lane. -/
def ported (s : State) (row col d : Nat) (i : Item) : State :=
  progressed (modCore (takeLane s row col d) (coreOfCell row col)
    (fun k => { k with fout := SSet [] k.fout (portLane row col d) (SGet [] k.fout (portLane row col d) ++ [i]) })) row col

theorem ported_within (s : State) (row col d : Nat) (i : Item) : Within [.eng] s (ported s row col d i) :=
  progressed_within (by decide) (modCore_within (by decide) (takeLane_within (by decide) (.refl _ s)))

theorem getCore_progressed (s : State) (row col n : Nat) : getCore (progressed s row col) n = getCore s n := rfl

theorem ported_fout (s : State) (row col d : Nat) (i : Item) :
    SGet [] (getCore (ported s row col d i) (coreOfCell row col)).fout (portLane row col d) =
      SGet [] (getCore s (coreOfCell row col)).fout (portLane row col d) ++ [i] := by
  have hcore : getCore (takeLane s row col d) (coreOfCell row col) = getCore s (coreOfCell row col) := by
    rw [getCore, (takeLane_otherCellsKept s row col d).cores, getCore]
  rw [ported, getCore_progressed, getCore_modCore, hcore]
  exact SGet_SSet_self ..

section transfer

variable {s : State} {row col src cons d : Nat} {i : Item}

theorem receive_undisturbed (hcol : col < 1024) (hkind : i.kind < 4) (hpay : i.pay < 2 ^ 32)
    (htakes : kindTaken (getCell s row col) cons i.kind = true) :
    receive s row col src cons (itemWord i) = latched s row col src cons i := by
  have hk : kindTaken (getCell (latched s row col src cons i) row col) cons (bits (itemWord i) 32 2) = true := by
    rw [(latched_sameInputs s row src cons i hcol).kindTaken_eq, latchItem_kindTaken, bits_itemWord_kind, Nat.mod_eq_of_lt hkind, htakes]
  unfold receive
  dsimp only
  rw [if_neg (by rw [ones_itemWord]; decide), wordItem_itemWord hkind hpay]
  exact if_pos hk

theorem toPort_undisturbed (hkind : i.kind < 4) (hpay : i.pay < 2 ^ 32) :
    toPort s row col d (itemWord i) = ported s row col d i := by
  unfold toPort
  dsimp only
  rw [if_neg (by rw [ones_itemWord]; decide), wordItem_itemWord hkind hpay]
  rfl

variable (hcell : isCell row col = true) (hheld : ¬ coreHeld s (coreOfCell row col) = true)
include hcell hheld

theorem exec_itemTransfer_cell (hoff : offered s row col src = some i) (hsrc : src < 8) (hcons : cons < 10)
    (hsel : (getCell s row col).sel cons = src) (htaken : bit (SGet 0 (getCell s row col).taken src) cons = false)
    (hroom : hasRoom row col (getCell s row col) cons = true) :
    exec (.itemTransfer row col src cons 0) s = .next (receive s row col src cons (itemWord i)) := by
  rw [exec_itemTransfer, execItemTransfer, onUnit_isCell hcell, hoff]
  dsimp only
  rw [if_neg hheld, if_neg (by omega), whenB_true _ _ (by simp [hcons, hsel, htaken, hroom]),
    undisturbed_itemWord]

/-- R81: a consumer takes the item offered. -/
theorem exec_itemTransfer_latched (hoff : offered s row col src = some i) (hsrc : src < 8) (hcons : cons < 10)
    (hsel : (getCell s row col).sel cons = src) (htaken : bit (SGet 0 (getCell s row col).taken src) cons = false)
    (hroom : hasRoom row col (getCell s row col) cons = true) (hkind : i.kind < 4) (hpay : i.pay < 2 ^ 32)
    (htakes : kindTaken (getCell s row col) cons i.kind = true) :
    exec (.itemTransfer row col src cons 0) s = .next (latched s row col src cons i) := by
  rw [exec_itemTransfer_cell hcell hheld hoff hsrc hcons hsel htaken hroom,
    receive_undisturbed (of_decide_eq_true hcell).2 hkind hpay htakes]

/-- R86: an item leaves for the side's stream engine. -/
theorem exec_itemTransfer_port (hoff : offered s row col (d + 8) = some i) (hkind : i.kind < 4) (hpay : i.pay < 2 ^ 32)
    (hroom : (SGet [] (getCore s (coreOfCell row col)).fout (portLane row col d)).length < 8) :
    exec (.itemTransfer row col (d + 8) 10 0) s = .next (ported s row col d i) := by
  rw [exec_itemTransfer, execItemTransfer, onUnit_isCell hcell, hoff]
  dsimp only
  rw [if_neg hheld, if_pos (by omega), Nat.add_sub_cancel, whenB_true _ _ (by simp [hroom]),
    undisturbed_itemWord, toPort_undisturbed hkind hpay]

end transfer

/-! ### The handshake anomaly (R84) -/

theorem laneStuck_inbound {s : State} {row col side k : Nat} (hheld : ¬ coreHeld s (coreOfCell row col) = true) (hside : side < 4)
    (hoff : (offered s row col (side + 1)).isSome = true) (hk : k ∈ (getCell s row col).consumers (side + 1))
    (htaken : bit (SGet 0 (getCell s row col).taken (side + 1)) k = false) (hroom : hasRoom row col (getCell s row col) k = true) :
    laneStuck s row col side = true := by
  have hany : ((getCell s row col).consumers (side + 1)).any (fun k =>
      !bit (SGet 0 (getCell s row col).taken (side + 1)) k && hasRoom row col (getCell s row col) k) = true :=
    List.any_eq_true.2 ⟨k, hk, by simp [htaken, hroom]⟩
  simp [laneStuck, hheld, hside, hoff, hany]

theorem laneStuck_outbound {s : State} {row col side : Nat} (hheld : ¬ coreHeld s (coreOfCell row col) = true) (hside : 4 ≤ side)
    (hoff : (offered s row col (side + 4)).isSome = true)
    (hroom : (SGet [] (getCore s (coreOfCell row col)).fout (portLane row col (side - 4))).length < 8) :
    laneStuck s row col side = true := by
  simp [laneStuck, hheld, not_lt.2 hside, hoff, hroom]

theorem exec_handshakeAnomaly_stuck {s : State} {row col side : Nat} (hcell : isCell row col = true) (hside : side < 8)
    (hstuck : laneStuck s row col side = true) (hwait : 64 ≤ SGet 0 s.eng.laneWait (8 * (1024 * row + col) + side)) :
    exec (.handshakeAnomaly row col side) s = .next (reportError s utCore 0x04 (coreOfCell row col) 0) := by
  have hknown : (inGrid row col && decide (side < 8)) = true := Bool.and_eq_true_iff.2 ⟨hcell, decide_eq_true hside⟩
  rw [exec_handshakeAnomaly, execHandshakeAnomaly, onUnit_known _ hknown, whenB_true _ _ (by simp [hstuck, hwait])]

/-- Settles O2: a transfer through the state it leaves, to a consumer of the cell and to a stream engine, and the anomaly of a lane
that stands unacknowledged. -/
theorem laneEvents : Obligations.LaneEvents := by
  refine ⟨?consumers, ?port, ?anomaly⟩
  case consumers =>
    intro s row col src cons i hcell hoff hheld hsrc hsel htaken hkind hpay
    have hcol : col < 1024 := (of_decide_eq_true hcell).2
    have hsame := latched_sameInputs s row src cons i hcol
    have hframe := (latched_within s row col src cons i).eng_only
    refine ⟨fun hlo hhi hfree htakes => ?_, fun hlane hlen => ?_⟩
    · have hroom : hasRoom row col (getCell s row col) cons = true := by simp [hasRoom, not_lt.2 hlo, hfree]
      exact ⟨_, exec_itemTransfer_latched hcell hheld hoff hsrc hhi hsel htaken hroom hkind hpay htakes,
        hsame.latch ▸ latchItem_input _ i hlo, hframe⟩
    · have hroom : hasRoom row col (getCell s row col) cons = true := by simp [hasRoom, hlane, hlen]
      exact ⟨_, exec_itemTransfer_latched hcell hheld hoff hsrc (by omega) hsel htaken hroom hkind hpay (if_pos hlane),
        hsame.outs ▸ latchItem_lane _ i hlane, hframe⟩
  case port =>
    intro s row col d i hcell _ hoff hheld hkind hpay hroom
    exact ⟨_, exec_itemTransfer_port hcell hheld hoff hkind hpay hroom, ported_fout s row col d i,
      (ported_within s row col d i).eng_only⟩
  case anomaly =>
    rintro s row col side k hcell hwait hheld (⟨hside, hoff, hk, htaken, hroom⟩ | ⟨hlo, hhi, hoff, hroom⟩)
    · exact exec_handshakeAnomaly_stuck hcell (by omega) (laneStuck_inbound hheld hside hoff hk htaken hroom) hwait
    · exact exec_handshakeAnomaly_stuck hcell hhi (laneStuck_outbound hheld hlo hoff hroom) hwait

end Sys2Proof.Machine
end

section
/-! Placements: placed, waiting, loaded, cleared and faulted (R103, R107, R109, R112). -/

namespace Sys2Proof.Machine

/-- The commands of a sector know every sector of the module. -/
theorem onUnit_isSector {n : Nat} (h : isSector n = true) (t : State) : onUnit (decide (n < 64)) t = .next t := if_pos h

/-! ### A section that is placed or waits (R107) -/

/-- The sectors, of those found for it, whose records a placement has to load. -/
def toLoad (s : State) (ci : CfgImg) (sect v : Nat) (secs : List Nat) : List Nat :=
  ((numbered 0 secs).filter (fun x => SGet none s.eng.loaded x.2 != some (recordsOf s ci sect v x.1))).map (·.2)

/-- The placement `w` at the rectangle found for it. -/
def placedAt (s : State) (w : Placement) (ci : CfgImg) (v r c : Nat) (secs : List Nat) : Placement :=
  { w with
    variant := v, row := r, col := c, fh := fld (varDesc s ci w.sect v) 0 1, fw := fld (varDesc s ci w.sect v) 1 1
    sectors := secs, withdrawn := rectWithdrawn s ci w.sect v secs, begun := [], loading := toLoad s ci w.sect v secs }

/-- R107: the rectangle that a placement can take now. -/
def rectFor (s : State) (w : Placement) (ci : CfgImg) : Option (Nat × Nat × Nat × List Nat) :=
  findRect s ci w.sect (fun n => roleSector s w.part w.all n && sectorFree s n)

section tried

variable {s : State} {w : Placement} {ci : CfgImg}

theorem tryPlace_placed {v r c : Nat} {secs : List Nat} (h : rectFor s w ci = some (v, r, c, secs)) :
    tryPlace s w ci = modEng s (fun e => { e with
      waits := e.waits.filter (fun x => x.id != w.id), places := e.places ++ [placedAt s w ci v r c secs] }) := by
  rw [rectFor] at h
  rw [tryPlace, h]
  rfl

theorem tryPlace_waits (h : rectFor s w ci = none) (hnew : s.eng.waits.any (fun x => x.id == w.id) = false) :
    tryPlace s w ci = modEng s (fun e => { e with waits := e.waits ++ [w] }) := by
  rw [rectFor] at h
  rw [tryPlace, h]
  dsimp only
  rw [hnew]
  rfl

end tried

/-! ### VARIANT_PLACE -/

theorem handleImage_part {s : State} {p h : Nat} {ci : CfgImg} (hi : handleImage s p h = some ci) : ci.part = p := by
  unfold handleImage at hi
  split at hi
  · obtain ⟨a, -, rfl⟩ := Option.map_eq_some_iff.1 hi
    rfl
  · cases hi

theorem cfgImage_part {s : State} {p k i : Nat} {x : CfgImg × Nat} (hi : cfgImage s p k i = some x) : x.1.part = p := by
  unfold cfgImage at hi
  split at hi
  · cases hi
  · split at hi
    · cases hi
      rfl
    · cases hi

/-- The image that a context runs is an image of its partition. -/
theorem ctxImage_part {s : State} {p i : Nat} {run : Option Nat} {ci : CfgImg} {ctx : Ctx} {all : Bool}
    (h : ctxImage s p run i = some (ci, ctx, all)) : ci.part = p := by
  unfold ctxImage at h
  cases run with
  | some id =>
    obtain ⟨r, -, hr⟩ := Option.bind_eq_some_iff.1 h
    obtain ⟨c, hc, heq⟩ := Option.map_eq_some_iff.1 hr
    cases heq
    exact handleImage_part hc
  | none =>
    obtain ⟨x, hx, hrole⟩ := Option.bind_eq_some_iff.1 h
    obtain ⟨k, -, hk⟩ := Option.bind_eq_some_iff.1 hx
    have hpart := cfgImage_part hk
    split_ifs at hrole <;> cases hrole <;> exact hpart

/-- R58, R107: what a context asks to be placed, numbered by the next number of a placement. -/
def askedPlace (s : State) (ci : CfgImg) (ctx : Ctx) (all : Bool) (a : Nat) : Placement :=
  { id := s.eng.nextPlace, part := ci.part, ctx := ctx, all := all, slot := ci.slot, sect := a, base := ci.base, len := ci.len
    variant := 0, row := 0, col := 0, fh := 0, fw := 0, sectors := []
    mode := match ctx with
      | .run id => (((getPart s ci.part).runs.find? (fun r => r.cmd == id)).map (·.mode)).getD 0
      | _ => (getPart s ci.part).serving.getD (ciFld s ci 0x10 4)
    stallTicks := stallTicksOf s ci a }

theorem newPlace_eq (s : State) (ci : CfgImg) (ctx : Ctx) (all : Bool) (a : Nat) :
    newPlace s ci ctx all a =
      tryPlace (modEng s (fun e => { e with nextPlace := e.nextPlace + 1 })) (askedPlace s ci ctx all a) ci := rfl

theorem exec_variantPlace_asks {s : State} {part img sect : Nat} {run : Option Nat} {ci : CfgImg} {ctx : Ctx} {all : Bool}
    (hctx : ctxImage s part run img = some (ci, ctx, all)) (hrun : s.sec.state = 4) (hsect : sect < nArrays s ci) :
    exec (.variantPlace part run img sect) s = .next (tryPlace (modEng s (fun e => { e with nextPlace := e.nextPlace + 1 }))
      (askedPlace s ci ctx all (arrayOff s ci sect)) ci) := by
  rw [exec_variantPlace, execVariantPlace, hctx]
  dsimp only
  rw [whenB_true _ _ (by simp [hrun, hsect]), newPlace_eq]

theorem exec_placementResume_found {s : State} {wait : Nat} {w : Placement} (h : s.eng.waits.find? (fun x => x.id == wait) = some w) :
    exec (.placementResume wait) s = .next (tryPlace s w (placeImg w)) := by
  rw [exec_placementResume, execPlacementResume, h]

/-! ### Loads, clears and the progress monitor (R103, R109, R112) -/

theorem exec_stallTimeout_stalled {s : State} {place : Nat} {pl : Placement}
    (h : s.eng.places.find? (fun p => p.id == place) = some pl) (hidle : pl.stallTicks ≤ pl.idle) (hitems : itemsPending s pl = true) :
    exec (.stallTimeout place) s = .next (arrayFault s pl 1) := by
  rw [exec_stallTimeout, execStallTimeout, h]
  dsimp only
  rw [whenB_true _ _ (by simp [hidle, hitems])]

section sectors

variable {s : State} {sector : Nat} {pl : Placement} (hsector : isSector sector = true)
include hsector

theorem exec_sectorLoad_waiting (h : s.eng.places.find? (fun p => p.loading.contains sector && !p.begun.contains sector) = some pl) :
    exec (.sectorLoad sector) s = .next (modEng (clearSector s sector) (fun e => { e with
      loaded := SSet none e.loaded sector none
      places := updateWhere (fun x => x.id == pl.id) (fun x => { x with begun := x.begun ++ [sector] }) e.places })) := by
  rw [exec_sectorLoad, execSectorLoad, onUnit_isSector hsector, h]

/-- R109: a load whose records arrive with the CRC of the image. -/
theorem exec_sectorLoadDone_matches {i o : Nat}
    (h : s.eng.places.find? (fun p => p.loading.contains sector && p.begun.contains sector) = some pl)
    (hi : i = (firstIdx (· == sector) pl.sectors).getD 0)
    (ho : o = pl.sect + fld (varDesc s (placeImg pl) pl.sect pl.variant) 8 8 + 524288 * i)
    (hcrc : (crc32c (ciGet s (placeImg pl) o 524288)).toNat =
      ciFld s (placeImg pl) (pl.sect + fld (varDesc s (placeImg pl) pl.sect pl.variant) 0x18 8 + 4 * i) 4)
    (hlost : memLost s (ciLocal s (placeImg pl) o) 524288 = false) :
    exec (.sectorLoadDone sector) s = .next (releaseSector (modEng (loadCells s sector (ciGet s (placeImg pl) o 524288)) (fun e => { e with
      loaded := SSet none e.loaded sector (some (recordsOf s (placeImg pl) pl.sect pl.variant i))
      places := updateWhere (fun x => x.id == pl.id)
        (fun x => { x with loading := x.loading.filter (· != sector), begun := x.begun.filter (· != sector) }) e.places })) sector) := by
  rw [exec_sectorLoadDone, execSectorLoadDone, onUnit_isSector hsector, h]
  dsimp only
  rw [← hi, ← ho, if_pos ⟨hcrc, by rw [hlost]; rfl⟩]

theorem exec_sectorClear_unplaced (h : s.eng.places.find? (fun p => p.sectors.contains sector) = none) :
    exec (.sectorClear sector) s = .next (clearSector s sector) := by
  rw [exec_sectorClear, execSectorClear, onUnit_isSector hsector, h]

theorem exec_sectorClear_atBoundary (h : s.eng.places.find? (fun p => p.sectors.contains sector) = some pl)
    (hbound : atBoundary s pl = true) (hload : ¬ pl.loading.contains sector = true) :
    exec (.sectorClear sector) s = .next (modEng (clearSector s sector) (fun e => { e with
      places := (updateWhere (fun x => x.id == pl.id)
        (fun x => { x with sectors := x.sectors.filter (· != sector) }) e.places).filter (fun x => !x.sectors.isEmpty) })) := by
  rw [exec_sectorClear, execSectorClear, onUnit_isSector hsector, h]
  dsimp only
  rw [whenB_true _ _ (by rw [hbound, Bool.eq_false_iff.2 hload]; rfl)]

end sectors

/-- Settles O3: each of the events by what it makes of the placements. -/
theorem placementsOfConfigurations : Obligations.PlacementsOfConfigurations := by
  refine ⟨?stall, ?placed, ?waits, ?resumed, ?load, ?loaded, ?clear⟩
  case stall =>
    intro s place pl h hidle hitems
    exact exec_stallTimeout_stalled h hidle hitems
  case placed =>
    rintro s u part img sect v r c run ci ctx all secs hctx hrun hsect rfl hrect
    obtain rfl := ctxImage_part hctx
    exact ⟨_, _, (exec_variantPlace_asks hctx hrun hsect).trans (congrArg _ (tryPlace_placed hrect)),
      rfl, rfl, rfl, rfl, rfl, rfl, rfl, rfl, rfl, rfl, rfl, rfl, rfl, rfl, rfl, rfl⟩
  case waits =>
    rintro s u part img sect run ci ctx all hctx hrun hsect rfl hrect hnew
    obtain rfl := ctxImage_part hctx
    exact ⟨_, _, (exec_variantPlace_asks hctx hrun hsect).trans (congrArg _ (tryPlace_waits hrect hnew)),
      rfl, rfl, rfl, rfl, rfl, rfl, rfl, rfl⟩
  case resumed =>
    intro s wait v r c w secs h hrect
    exact ⟨_, _, (exec_placementResume_found h).trans (congrArg _ (tryPlace_placed hrect)),
      rfl, rfl, rfl, rfl, rfl, rfl, rfl, rfl, rfl⟩
  case load =>
    intro s sector pl hsector h
    exact exec_sectorLoad_waiting hsector h
  case loaded =>
    rintro s sector i o crc pl rec' hsector h hi ho rfl rfl hcrc hlost
    exact exec_sectorLoadDone_matches hsector h hi ho hcrc hlost
  case clear =>
    intro s sector hsector
    exact ⟨exec_sectorClear_unplaced hsector, fun pl h hbound hload => exec_sectorClear_atBoundary hsector h hbound hload⟩

end Sys2Proof.Machine
end

section
/-! Registers, events, loops and waits of the vector engine, and the end of a program (R119, R132, R137, R139, R144). -/

namespace Sys2Proof.Machine

/-! ### What an instruction that may run answers -/

section instruction

variable {s : State} {n opc w : Nat} (h : VecAt s n opc w)
include h

theorem onCore_at (f : Nat → State → State) : onUnit (coreOk n) (vecRun opc n f s) = .next (f w (pastState s n)) := by
  rw [vecRun_at h, onUnit_known _ (show coreOk n = true from decide_eq_true h.1)]

/-- An instruction on the core alone: its frame, and what it makes of the core. -/
theorem vecPure_core {o : Host.Outcome State Fault Refusal} {F : Mode → Nat → Core → Core} (ho : o = vecPure opc n F s) :
    ∃ t, o = .next t ∧ CoreOnly s t n ∧ getCore t n = F (coreMode s n) w (getCore s n).past :=
  ⟨_, ho.trans (vecPure_at h F), coreOnly_at s n _, getCore_at s n _⟩

end instruction

theorem getCore_notice (s : State) (n kind engine m : Nat) : getCore (notice s n kind engine) m = getCore s m := rfl

/-- R150: the notice of a core goes to the Cobalt core of its sector, with its kind in the low byte. -/
theorem notice_sent (s : State) (n : Nat) {kind : Nat} (hkind : kind < 256) : ∃ m, (notice s n kind 0).eng.tin = s.eng.tin ++ [m] ∧
    m.dst = cobEp (n / 64) ∧ m.src = n ∧ m.typ = 0x04 ∧ m.arg % 256 = kind :=
  ⟨_, rfl, rfl, rfl, rfl, by dsimp only; omega⟩

/-- A branch that is taken or not, as one value of the program counter. -/
theorem branch_eq (p : Prop) [Decidable p] (c : Core) (k : Nat) :
    (if p then { c with vpc := k } else c) = { c with vpc := if p then k else c.vpc } := by
  split <;> rfl

/-! ### Waits (R119) -/

section waits

variable {s : State} {n e b : Nat} {v : BitVec 16} {long : Bool} (hn : n < 4096) (hwait : (getCore s n).vwait = some (e, v, b, long))
include hn hwait

theorem exec_vwaitEnd_over (hheld : ¬ coreHeld s n = true) (hover : (SGet 0#16 (getCore s n).ev e - v).toNat < 2 ^ 15) :
    exec (.vwaitEnd n) s = .next (modCore s n (fun c => { c with vwait := none })) := by
  rw [exec_vwaitEnd, execVwaitEnd, hwait, onUnit_known _ (show coreOk n = true from decide_eq_true hn)]
  exact congrArg _ (whenB_true _ _ (Bool.and_eq_true_iff.2 ⟨decide_eq_true hover, by simpa using hheld⟩))

theorem exec_vwaitlong_due (hlong : long = false) (hdue : b + 100000 ≤ s.tick) : exec (.vwaitlong n) s =
    .next (notice (modCore s n (fun c => { c with waitlong := true, vwait := some (e, v, b, true) })) n 0x02 0) := by
  rw [exec_vwaitlong, execVwaitlong, hwait, onUnit_known _ (show coreOk n = true from decide_eq_true hn)]
  exact congrArg _ (whenB_true _ _ (by simp [hlong, hdue]))

end waits

/-- Settles O12: each instruction by what it makes of its core, and the two ends of a wait. -/
theorem vectorRegistersAndControl : Obligations.VectorRegistersAndControl := by
  rintro s n w c rfl
  refine ⟨fun h => ?vnop, fun h => ?vsetx, fun h => ?vseta, fun h => ?vadda, fun h => ?vsetl, fun h => ?vsig, ?vloop, ?vwait,
    fun h => ?vend, fun e v b long hn hwait => ⟨fun hheld hover => ?vwaitEnd, fun hlong hdue => ?vwaitlong⟩⟩
  case vnop => exact vecPure_core h (exec_vnop s)
  case vsetx => exact vecPure_core h (exec_vsetx s)
  case vseta => exact vecPure_core h (exec_vseta s)
  case vadda => exact vecPure_core h (exec_vadda s)
  case vsetl => exact vecPure_core h (exec_vsetl s)
  case vsig => exact vecPure_core h (exec_vsig s)
  case vloop =>
    rintro v rfl h
    obtain ⟨t, hnext, honly, hcore⟩ := vecPure_core h (exec_vloop s)
    exact ⟨t, hnext, honly, hcore.trans (branch_eq _ _ _)⟩
  case vwait =>
    rintro v rfl h
    refine ⟨_, (exec_vwait s).trans (onCore_at h _), coreOnly_at s n _, (getCore_at s n _).trans ?_⟩
    unfold waitOver
    simp only [decide_eq_true_eq]
    rfl
  case vend =>
    obtain ⟨m, hm⟩ := notice_sent (modCore (pastState s n) n (fun c => { c with busy := false, done := true })) n
      (kind := 1) (by decide)
    refine ⟨_, (exec_vend s).trans (onCore_at h _), fun k hk => ?_, ?_, ⟨m, hm⟩, rfl, rfl, rfl⟩
    · rw [getCore_notice]; exact (coreOnly_at s n _).2 k hk
    · rw [getCore_notice, getCore_at]
  case vwaitEnd => exact ⟨_, exec_vwaitEnd_over hn hwait hheld hover, coreOnly_modCore s n _, getCore_modCore s n _⟩
  case vwaitlong =>
    obtain ⟨m, htin, hdst, -, -, harg⟩ := notice_sent
      (modCore s n (fun c => { c with waitlong := true, vwait := some (e, v, b, true) })) n (kind := 2) (by decide)
    refine ⟨_, exec_vwaitlong_due hn hwait hlong hdue, ?_, fun k hk => ?_, ⟨m, htin, hdst, harg⟩, rfl⟩
    · rw [getCore_notice, getCore_modCore]
    · rw [getCore_notice, getCore_modCore_ne _ _ hk]

end Sys2Proof.Machine
end

section
/-! Deliveries on the Tin path to a core's window and to a Cobalt core, and the Cobalt core's endpoint (R149, R150, R182, R188). -/

namespace Sys2Proof.Machine

/-! ### A message that is taken -/

/-- Taking a message off the network leaves the fences and the units away as they were. -/
theorem outOfService_tinDrop (s : State) (m : Tin) (u n : Nat) : outOfService (tinDrop s m) u n = outOfService s u n := by
  unfold tinDrop
  dsimp only
  split <;> rfl

section window

variable {s : State} {src dst : Nat} {m : Tin} (hdst : isCore dst)
include hdst

theorem deliverWin_sound {kind : Nat} (hm : winHead s 0x01 src dst = some m) (hkind : winKind m = kind)
    (hs : ¬ outOfService s utCore dst) : onUnit (decide (dst < 4096)) (deliverWin kind src dst false s) =
      .next (modCore (tinDrop s m) dst (fun c => winPut c (m.arg % 2 ^ 32) m.data)) := by
  refine (onUnit_known _ hdst).trans (congrArg _ ?_)
  rw [deliverWin, hm]
  simp only [hkind, outOfService_tinDrop, hs, ne_eq, not_true_eq_false, if_false, Bool.false_eq_true]

theorem deliverWin_bad {kind : Nat} (hm : winHead s 0x01 src dst = some m) (hkind : winKind m = kind) :
    onUnit (decide (dst < 4096)) (deliverWin kind src dst true s) = .next (tinBad s m) := by
  refine (onUnit_known _ hdst).trans (congrArg _ ?_)
  rw [deliverWin, hm]
  simp only [hkind, ne_eq, not_true_eq_false, if_false, if_true]

theorem exec_winRd_sound (hm : winHead s 0x02 src dst = some m) (hs : ¬ outOfService s utCore dst) :
    exec (.winRd src dst false) s = .next (tinSend (tinDrop s m) {
      dst := src, src := dst, typ := 0x03, part := (partOfSector (tinDrop s m) (dst / 64)).getD 0, tag := m.tag
      data := winRead (getCore (tinDrop s m) dst) (m.arg % 2 ^ 32) (bits m.arg 40 8) }) := by
  rw [exec_winRd, execWinRd, hm]
  refine (onUnit_known _ hdst).trans (congrArg _ ?_)
  simp only [outOfService_tinDrop, hs, if_false, Bool.false_eq_true]

end window

section cobalt

variable {s : State} {rsp : Bool} {src dst : Nat} {m : Tin} (hlo : 0x1000 ≤ dst) (hhi : dst < 0x1040)
  (hm : tinFront s rsp src dst = some m) (hroom : (getCob s (dst - 0x1000)).rxq.length < 64)
include hlo hhi hm hroom

theorem deliverCob_sound {typ : Nat} (htyp : m.typ = typ) (f : Nat → State → Tin → State) :
    onUnit (cobDst dst) (deliverCob rsp typ src dst false f s) = .next (f (dst - 0x1000) (tinDrop s m) m) := by
  refine (onUnit_known _ (decide_eq_true (by omega))).trans (congrArg _ ?_)
  rw [deliverCob, hm]
  dsimp only
  rw [if_neg (by omega), if_neg Bool.false_ne_true]

theorem deliverCob_bad {typ : Nat} (htyp : m.typ = typ) (f : Nat → State → Tin → State) :
    onUnit (cobDst dst) (deliverCob rsp typ src dst true f s) = .next (tinBad s m) := by
  refine (onUnit_known _ (decide_eq_true (by omega))).trans (congrArg _ ?_)
  rw [deliverCob, hm]
  dsimp only
  rw [if_neg (by omega), if_pos rfl]

end cobalt

/-- Settles O4: each message of the window by its delivery, and the two answers that a Cobalt core receives. -/
theorem windowDeliveries : Obligations.WindowDeliveries := by
  refine ⟨fun s src dst m hdst hm hs => ?writes, fun s src dst m hdst hm hs => exec_winRd_sound hdst hm hs,
    fun s src dst m hlo hhi hm hroom => ⟨fun htyp => ?winRsp, fun htyp => ?seStat⟩⟩
  case writes =>
    have hsound {kind : Nat} (hk : winKind m = kind) := deliverWin_sound hdst hm hk hs
    have hbad {kind : Nat} (hk : winKind m = kind) := deliverWin_bad hdst hm hk
    exact ⟨fun hk => (exec_winWr s).trans (hsound hk),
      fun hk => (exec_winWr s).trans (hbad hk),
      fun hk => (exec_rgdWrite s).trans (hbad hk),
      fun hk => (exec_evWrite s).trans (hbad hk),
      fun hk => (exec_tagEntryWrite s).trans (hbad hk),
      fun hk => (exec_vctlAbort s).trans (hbad hk),
      fun hk => (exec_vctlGo s).trans (hbad hk),
      fun hk => (exec_rgdWrite s).trans (hsound hk),
      fun hk => (exec_evWrite s).trans (hsound hk),
      fun hk => (exec_tagEntryWrite s).trans (hsound hk),
      fun hk => (exec_vctlAbort s).trans (hsound hk),
      fun hk => (exec_vctlGo s).trans (hsound hk)⟩
  case winRsp => exact (exec_winRsp s).trans (deliverCob_sound hlo hhi hm hroom htyp _)
  case seStat => exact (exec_seStat s).trans (deliverCob_sound hlo hhi hm hroom htyp _)

/-! ### The endpoint registers of a Cobalt core (R150, R188) -/

section endpoint

variable {s : State} {sector : Nat} (hsector : isSector sector)
include hsector

theorem exec_txGo_sector : exec (.txGo sector) s = .next (txGo s sector) := by
  rw [exec_txGo, execTxGo, onUnit_isSector hsector]

theorem exec_rxPop_waiting (hq : (getCob s sector).rxq ≠ []) :
    exec (.rxPop sector) s = .next (modCob s sector (fun c => { c with rxq := c.rxq.drop 1, head := (c.head + 1) % 64 })) := by
  rw [exec_rxPop, execRxPop, onUnit_isSector hsector, rxPop, whenB_true _ _ (by simpa using hq)]

theorem exec_cobaltTimerCompare_reached {n : Nat} (hcmp : (getCob s sector).timecmp = some n) (hn : n ≤ s.tick) :
    exec (.cobaltTimerCompare sector) s = .next (raiseInt (modCob s sector (fun c => { c with timecmp := none })) sector 3) := by
  rw [exec_cobaltTimerCompare, execCobaltTimerCompare, onUnit_isSector hsector, hcmp]
  exact congrArg _ (whenB_true _ _ (decide_eq_true hn))

end endpoint

theorem getCob_tinSend (s : State) (m : Tin) (n : Nat) : getCob (tinSend s m) n = getCob s n := rfl

section transmit

variable {s : State} {sector : Nat} {h : List Byte} (hbusy : (getCob s sector).busy = false) (hrun : (getCob s sector).run = true)
  (hh : h = SGetRun 0 (getCob s sector).txbuf 0 272)
include hbusy hrun hh

theorem txGo_allowed (hok : txAllowed s sector h = true) : ∃ m, txGo s sector =
      tinSend (modCob s sector (fun c => { c with busy := true })) m ∧
    m.dst = fld h 0 2 ∧ m.src = cobEp sector ∧ m.typ = fld h 4 1 ∧ m.arg = fld h 8 8 ∧
    m.data = (h.drop 16).take (bits (fld h 0 8) 40 9) := by
  subst hh
  unfold txGo
  dsimp only
  rw [if_neg (by simp [hbusy, hrun]), if_pos hok]
  exact ⟨_, rfl, rfl, rfl, rfl, rfl, rfl⟩

theorem txGo_denied (hno : txAllowed s sector h = false) :
    txGo s sector = modCob s sector (fun c => { c with denied := true }) := by
  subst hh
  unfold txGo
  dsimp only
  rw [if_neg (by simp [hbusy, hrun]), if_neg (ne_of_eq_of_ne hno Bool.false_ne_true)]

end transmit

/-- Settles O7: what arrives at the endpoint, and its three register commands. -/
theorem cobaltEndpoint : Obligations.CobaltEndpoint := by
  refine ⟨fun s src dst m hlo hhi hm hroom => ?arrivals,
    fun s sector h hsector hbusy hrun hh => ⟨fun hok => ?sent, fun hno => ?denied⟩,
    fun s sector hsector hq => exec_rxPop_waiting hsector hq, fun s sector n hsector hcmp hn => ?timer⟩
  case arrivals =>
    exact ⟨fun ht => (exec_notice s).trans (deliverCob_sound hlo hhi hm hroom ht _),
      fun ht => (exec_flag s).trans (deliverCob_sound hlo hhi hm hroom ht _),
      fun ht => (exec_fwMsg s).trans (deliverCob_sound hlo hhi hm hroom ht _),
      fun ht => (exec_notice s).trans (deliverCob_bad hlo hhi hm hroom ht _),
      fun ht => (exec_flag s).trans (deliverCob_bad hlo hhi hm hroom ht _),
      fun ht => (exec_fwMsg s).trans (deliverCob_bad hlo hhi hm hroom ht _)⟩
  case sent =>
    obtain ⟨m, hgo, hdst, hsrc, htyp, harg, hdata⟩ := txGo_allowed hbusy hrun hh hok
    exact ⟨_, m, (exec_txGo_sector hsector).trans (congrArg _ hgo), rfl, hdst, hsrc, htyp, harg, hdata,
      by rw [getCob_tinSend, getCob_modCob]⟩
  case denied => exact (exec_txGo_sector hsector).trans (congrArg _ (txGo_denied hbusy hrun hh hno))
  case timer =>
    refine ⟨_, exec_cobaltTimerCompare_reached hsector hcmp hn, ?_, ?_, rfl, rfl, rfl⟩
    · rw [raiseInt, getCob_modCob, getCob_modCob]
    · rw [raiseInt, getCob_modCob, getCob_modCob]; rfl

end Sys2Proof.Machine
end

section
/-! Summary sets of the vector engine (R137, R140). -/

namespace Sys2Proof.Machine

/-! ### One element (R140) -/

section element

variable (md : Mode) {f : Fmt} (hf : f.isInt = true) (t : SumSet) (x : Nat)

theorem redStep_valid : (redStep md f t x).valid = true := rfl

include hf

theorem redStep_scnt : (redStep md f t x).scnt = (t.scnt + b2n (x != 0)) % 2 ^ 32 := by
  simp [redStep, hf, bne]

theorem redStep_smax_first (hv : t.valid = false) : (redStep md f t x).smax = x := by
  simp [redStep, hf, hv]

/-- The greater of the two, as integers of the format. -/
theorem redStep_smax (hv : t.valid = true) :
    (redStep md f t x).smax = if sext f.width t.smax < sext f.width x then x else t.smax := by
  simp [redStep, minMax, hf, hv]

end element

/-! ### All elements of the extent -/

section elements

variable (md : Mode) {f : Fmt} (hf : f.isInt = true)

/-- `m` is the greatest of the elements `xs`, as integers of the format. -/
def IsMax (f : Fmt) (m : Nat) (xs : List Nat) : Prop := m ∈ xs ∧ ∀ x ∈ xs, sext f.width x ≤ sext f.width m

include hf

theorem foldl_redStep_smax (xs : List Nat) (t : SumSet) (hv : t.valid = true) :
    IsMax f (xs.foldl (redStep md f) t).smax (t.smax :: xs) := by
  induction xs generalizing t with
  | nil => exact ⟨List.mem_singleton.2 rfl, fun x hx => by rw [List.mem_singleton.1 hx]; rfl⟩
  | cons y ys ih =>
    obtain ⟨hmem, hmax⟩ := ih (redStep md f t y) (redStep_valid md t y)
    rw [List.foldl_cons]
    have hstep := redStep_smax md hf t y hv
    generalize (ys.foldl (redStep md f) (redStep md f t y)).smax = m at hmem hmax ⊢
    rw [hstep] at hmem hmax
    simp only [IsMax, List.mem_cons, forall_eq_or_imp] at hmem hmax ⊢
    obtain ⟨hhead, hrest⟩ := hmax
    split at hmem
    next hlt => rw [if_pos hlt] at hhead; exact ⟨.inr hmem, by omega, hhead, hrest⟩
    next hle => rw [if_neg hle] at hhead; exact ⟨hmem.imp_right .inr, hhead, by omega, hrest⟩

theorem foldl_redStep_scnt (xs : List Nat) (t : SumSet) (ht : t.scnt < 2 ^ 32) :
    (xs.foldl (redStep md f) t).scnt = (t.scnt + (xs.filter (· != 0)).length) % 2 ^ 32 := by
  induction xs generalizing t with
  | nil => exact (Nat.mod_eq_of_lt ht).symm
  | cons y ys ih =>
    have hstep := redStep_scnt md hf t y
    rw [List.foldl_cons, ih _ (by rw [hstep]; exact Nat.mod_lt _ (by decide)), hstep, Nat.mod_add_mod, List.filter_cons]
    cases y != 0 with
    | false => rfl
    | true => exact congrArg (· % 2 ^ 32) (by simp [b2n]; omega)

omit hf in
theorem foldl_redStep_kept (xs : List Nat) (t : SumSet) :
    (xs.foldl (redStep md f) t).fmt = t.fmt ∧ (xs.foldl (redStep md f) t).ssum = t.ssum ∧
      (xs ≠ [] → (xs.foldl (redStep md f) t).valid = true) := by
  induction xs generalizing t with
  | nil => exact ⟨rfl, rfl, fun h => absurd rfl h⟩
  | cons y ys ih =>
    obtain ⟨hfmt, hsum, hvalid⟩ := ih (redStep md f t y)
    refine ⟨hfmt, hsum, fun _ => ?_⟩
    cases ys with
    | nil => rfl
    | cons z zs => exact hvalid (List.cons_ne_nil z zs)

end elements

/-! ### The running sum of an integer format -/

/-- R140: a 64-bit sum, kept within its limits. -/
def clamp64 (v : Int) : Int := min (2 ^ 63 - 1) (max (-(2 ^ 63)) v)

theorem clamp64_range (v : Int) : -(2 ^ 63) ≤ clamp64 v ∧ clamp64 v ≤ 2 ^ 63 - 1 := by unfold clamp64; omega

/-- The two's complement code of 64 bits of an integer in range reads as the integer. -/
theorem sext_emod {c : Nat} {v : Int} (hc : (c : Int) = v % 2 ^ 64) (hlo : -(2 ^ 63) ≤ v) (hhi : v ≤ 2 ^ 63 - 1) : sext 64 c = v := by
  unfold sext
  dsimp only
  split <;> omega

theorem redInt_ssum (f : Fmt) (t : SumSet) (x : Nat) {v : Int} (hc : (t.ssum : Int) = v % 2 ^ 64) (hlo : -(2 ^ 63) ≤ v)
    (hhi : v ≤ 2 ^ 63 - 1) : ((redInt f t x).ssum : Int) = clamp64 (v + sext f.width x) % 2 ^ 64 := by
  unfold redInt clamp64
  rw [sext_emod hc hlo hhi]
  dsimp only
  split
  · dsimp only; omega
  · split
    · dsimp only; omega
    · dsimp only [wrapInt]; omega

theorem foldl_redInt_ssum (f : Fmt) (xs : List Nat) (t : SumSet) {v : Int} (hc : (t.ssum : Int) = v % 2 ^ 64)
    (hlo : -(2 ^ 63) ≤ v) (hhi : v ≤ 2 ^ 63 - 1) :
    ((xs.foldl (redInt f) t).ssum : Int) = xs.foldl (fun v x => clamp64 (v + sext f.width x)) v % 2 ^ 64 := by
  induction xs generalizing t v with
  | nil => exact hc
  | cons y ys ih => exact ih _ (redInt_ssum f t y hc hlo hhi) (clamp64_range _).1 (clamp64_range _).2

theorem redInt_kept (f : Fmt) (t : SumSet) (x : Nat) : (redInt f t x).fmt = t.fmt ∧ (redInt f t x).valid = t.valid ∧
    (redInt f t x).smax = t.smax ∧ (redInt f t x).scnt = t.scnt := by
  unfold redInt
  dsimp only
  split_ifs <;> exact ⟨rfl, rfl, rfl, rfl⟩

theorem foldl_redInt_kept (f : Fmt) (xs : List Nat) (t : SumSet) :
    (xs.foldl (redInt f) t).fmt = t.fmt ∧ (xs.foldl (redInt f) t).valid = t.valid ∧
      (xs.foldl (redInt f) t).smax = t.smax ∧ (xs.foldl (redInt f) t).scnt = t.scnt := by
  induction xs generalizing t with
  | nil => exact ⟨rfl, rfl, rfl, rfl⟩
  | cons y ys ih =>
    obtain ⟨hfmt, hvalid, hmax, hcnt⟩ := ih (redInt f t y)
    obtain ⟨hfmt', hvalid', hmax', hcnt'⟩ := redInt_kept f t y
    exact ⟨hfmt.trans hfmt', hvalid.trans hvalid', hmax.trans hmax', hcnt.trans hcnt'⟩

/-! ### VRED -/

section vred

variable (md : Mode) (w : Nat) (c : Core)

theorem vRed_sums : ∃ x, vRed md w c = { c with sums := SSet {} c.sums (vSset w) x } := ⟨_, rfl⟩

/-- The set that VRED starts from when it does not accumulate. -/
def redStart (w : Nat) (c : Core) : SumSet := { smax := (SGet {} c.sums (vSset w)).smax, fmt := vFmt w }

variable {w c} (hint : (vFmt w).isInt = true) (hfirst : bit w 2 = false)
include hint hfirst

/-- The flags apart, an integer format's set is its elements' greatest and count, then their sum. -/
theorem vRed_set : ∃ fl, SGet {} (vRed md w c).sums (vSset w) = { ((redElems c w).foldl (redInt (vFmt w))
    ((redElems c w).foldl (redStep md (vFmt w)) (redStart w c))) with flg := fl } := by
  unfold vRed redSum
  dsimp only
  rw [SGet_SSet_self, if_pos hint, hfirst, if_neg Bool.false_ne_true]
  exact ⟨_, rfl⟩

theorem vRed_integers {y : SumSet} (hy : y = SGet {} (vRed md w c).sums (vSset w)) (hne : redElems c w ≠ []) :
    y.valid = true ∧ y.fmt = vFmt w ∧ IsMax (vFmt w) y.smax (redElems c w) ∧
      y.scnt = ((redElems c w).filter (· != 0)).length % 2 ^ 32 ∧
      (y.ssum : Int) = (redElems c w).foldl (fun v x => clamp64 (v + sext (vFmt w).width x)) 0 % 2 ^ 64 := by
  obtain ⟨fl, hset⟩ := vRed_set md hint hfirst (c := c)
  rw [hset] at hy
  subst hy
  obtain ⟨hfmt, hvalid, hmax, hcnt⟩ := foldl_redInt_kept (vFmt w) (redElems c w)
    ((redElems c w).foldl (redStep md (vFmt w)) (redStart w c))
  obtain ⟨hfmt', hsum, hvalid'⟩ := foldl_redStep_kept md (f := vFmt w) (redElems c w) (redStart w c)
  refine ⟨hvalid.trans (hvalid' hne), hfmt.trans hfmt', ?_, ?_, ?_⟩
  · rw [hmax]
    cases hxs : redElems c w with
    | nil => exact absurd hxs hne
    | cons z zs =>
      have := foldl_redStep_smax md hint zs (redStep md (vFmt w) (redStart w c) z) (redStep_valid _ _ _)
      rwa [redStep_smax_first md hint _ z rfl] at this
  · rw [hcnt, foldl_redStep_scnt md hint _ _ (show 0 < 2 ^ 32 by decide)]
    exact congrArg (· % 2 ^ 32) (Nat.zero_add _)
  · exact foldl_redInt_ssum (vFmt w) _ _ (by rw [hsum]; rfl) (by decide) (by decide)

end vred

/-! ### VSPLS -/

/-- Every row of a register filled with one value takes the value's flags. -/
theorem rowF_ewise_const (c : Core) (n v : Nat) (f : Fmt) (fl : Flg) {r : Nat} (hr : r < 32) :
    (ewise c n f.width (fun _ => []) (fun _ => (v, fl))).rowF n r = fl := by
  unfold ewise
  rw [rowF_putElems _ _ _ _ _ _ hr, if_pos rfl, rowJoin, foldl_or_const fl (fun e : Nat × Flg => e.2)]
  · refine (if_neg ?_).trans BitVec.zero_or
    rw [← List.length_eq_zero_iff]
    simp only [List.length_take, List.length_drop, List.length_map, List.length_range]
    cases f <;> simp only [Fmt.width] <;> omega
  · intro e he
    obtain ⟨k, -, rfl⟩ := List.mem_map.1 (List.mem_of_mem_drop (List.mem_of_mem_take he))
    rfl

/-- Settles O11: what VRED leaves of its set and of the rest, and what VSPLS writes. -/
theorem vectorSummaries : Obligations.VectorSummaries := by
  rintro s n w c rfl
  refine ⟨fun h => ?vred, fun h => ?vspls⟩
  case vred =>
    obtain ⟨x, hx⟩ := vRed_sums (coreMode s n) w (getCore s n).past
    have hcore := getCore_at s n (vRed (coreMode s n) w)
    refine ⟨modCore (pastState s n) n (vRed (coreMode s n) w), (exec_vred s).trans (vecArith_at h false _),
      (exec_vred s).trans (vecArith_at h true _), coreOnly_at s n _, ?_, ?_, fun k hk => ?_, ?_⟩
    · rw [hcore, hx]
    · rw [hcore]; rfl
    · rw [hcore, hx]; exact SGet_SSet_ne _ _ _ hk
    · rintro b rfl hint hfirst hne
      rw [hcore]
      obtain ⟨hvalid, hfmt, ⟨hmem, hmax⟩, hcnt, hsum⟩ := vRed_integers (coreMode s n) hint hfirst (c := (getCore s n).past) rfl hne
      exact ⟨hvalid, hfmt, hmem, hmax, hcnt, hsum⟩
  case vspls =>
    refine ⟨_, (exec_vspls s).trans (vecPure_at h _), vecFrame_ewise s n _ _ _ _, ?_⟩
    rintro x rfl
    refine ⟨fun k hk => ?_, fun r hr => ?_⟩
    · rw [getCore_at, el_ewise _ _ _ _ _ (width_dvd _) k hk]; rfl
    · rw [getCore_at]; exact rowF_ewise_const _ _ _ _ _ hr

end Sys2Proof.Machine
end

section
/-! Writes of a core's control window: VCTL, region descriptors, event counters and tag entries (R113, R122, R126, R139, R143,
R144, R149). -/

namespace Sys2Proof.Machine

/-! ### VCTL (R139, R143, R144) -/

section vctl

variable {c : Core} {v : Nat}

theorem vctlWrite_go (habort : bit v 30 = false) (hgo : bit v 31 = true) (hb : c.busy = false) :
    vctlWrite c v = vecStart { c with entry := v % 1024 } := by
  simp [vctlWrite, habort, hgo, hb]

theorem vctlWrite_busy (habort : bit v 30 = false) (hb : c.busy = true) : vctlWrite c v = { c with entry := v % 1024 } := by
  simp [vctlWrite, habort, hb]

theorem vctlWrite_abort (habort : bit v 30 = true) :
    vctlWrite c v = if c.busy then vecAbort { c with entry := v % 1024 } else { c with entry := v % 1024 } := by
  simp [vctlWrite, habort]

theorem vctlWrite_abort_idle (habort : bit v 30 = true) : (vctlWrite c v).busy = false := by
  rw [vctlWrite_abort habort]
  split
  · rfl
  next hb => exact Bool.eq_false_of_not_eq_true hb

theorem vctlWrite_keeps (c : Core) (v : Nat) : (vctlWrite c v).spad = c.spad ∧ (vctlWrite c v).tregs = c.tregs ∧
    (vctlWrite c v).rowFlg = c.rowFlg ∧ (vctlWrite c v).ev = c.ev ∧ (vctlWrite c v).vim = c.vim ∧ (vctlWrite c v).rgd = c.rgd ∧
    (vctlWrite c v).entry = v % 1024 := by
  unfold vctlWrite
  dsimp only
  split_ifs <;> exact ⟨rfl, rfl, rfl, rfl, rfl, rfl, rfl⟩

end vctl

/-! ### Region descriptors (R122) -/

/-- A descriptor that no check refuses replaces the old one; a refused one is recorded. The definition is opened before it has
arguments: of a match on a check of explicit bits, the kernel would evaluate the check. -/
theorem rgdWrite_eq (c : Core) (n v : Nat) {d : Nat} (hd : putBits (v % 2 ^ 58) 42 3 0 = d) : rgdWrite c n v =
    (rgdCause c n d).elim { c with rgd := SSet 0#64 c.rgd n (BitVec.ofNat 64 d) }
      (fun k => { c with rgerr := BitVec.ofNat 64 (k + 2 ^ 16 * n + 2 ^ 31) }) := by
  generalize hf : rgdWrite = f
  delta rgdWrite at hf
  subst hf
  beta_reduce
  rw [hd]
  dsimp only
  cases rgdCause c n d <;> rfl

section descriptors

variable {c : Core} {n v d : Nat} (hd : putBits (v % 2 ^ 58) 42 3 0 = d)
include hd

theorem rgdWrite_accepted (h : rgdCause c n d = none) : (rgdWrite c n v).rg n = (BitVec.ofNat 64 d).toNat ∧
    (rgdWrite c n v).rgerr = c.rgerr ∧ ∀ i, i ≠ n → (rgdWrite c n v).rg i = c.rg i := by
  rw [rgdWrite_eq c n v hd, h]
  exact ⟨congrArg BitVec.toNat (SGet_SSet_self _ _ _ _), rfl, fun i hi => congrArg BitVec.toNat (SGet_SSet_ne _ _ _ hi)⟩

theorem rgdWrite_refused {k : Nat} (h : rgdCause c n d = some k) : (rgdWrite c n v).rgd = c.rgd ∧
    (rgdWrite c n v).rgerr = BitVec.ofNat 64 (k + 2 ^ 16 * n + 2 ^ 31) := by
  rw [rgdWrite_eq c n v hd, h, Option.elim_some]
  exact ⟨rfl, rfl⟩

end descriptors

/-! ### A payload of one whole doubleword (R113, R149) -/

/-- A field written with its own value. -/
theorem putBits_bits (x lo w : Nat) : putBits x lo w (bits x lo w) = x := by
  rw [putBits_eq, Nat.mod_eq_of_lt (bits_lt x lo w), ← split_field]

theorem length_leBytes (n x : Nat) : (leBytes n x).length = n := by
  induction n generalizing x with
  | zero => rfl
  | succ n ih => rw [leBytes, List.length_cons, ih]

/-- A payload of eight bytes at a doubleword's offset covers it: little-endian, every bit marked. -/
theorem coverDword_whole (i : Nat) {v : Nat} (hv : v < 2 ^ 64) : coverDword (8 * i) (leBytes 8 v) i = (v, 2 ^ 64 - 1) := by
  have hin : ∀ j, j < 8 → 8 * i ≤ 8 * i + j ∧ 8 * i + j < 8 * i + (leBytes 8 v).length := by
    intro j hj; rw [length_leBytes]; omega
  simp only [coverDword, show List.range 8 = [0, 1, 2, 3, 4, 5, 6, 7] from rfl, List.foldl_cons, List.foldl_nil,
    if_pos (hin 0 (by decide)), if_pos (hin 1 (by decide)), if_pos (hin 2 (by decide)), if_pos (hin 3 (by decide)),
    if_pos (hin 4 (by decide)), if_pos (hin 5 (by decide)), if_pos (hin 6 (by decide)), if_pos (hin 7 (by decide))]
  simp only [Nat.add_sub_cancel_left, leBytes, List.getD_cons_zero, List.getD_cons_succ, BitVec.toNat_ofNat]
  refine Prod.ext ?_ ?_ <;> dsimp only <;> omega

theorem mergeBits_whole (old : Nat) {v : Nat} (hv : v < 2 ^ 64) : mergeBits old v (2 ^ 64 - 1) = v := by
  unfold mergeBits
  rw [show BitVec.ofNat 64 (2 ^ 64 - 1) = BitVec.allOnes 64 from rfl, BitVec.not_allOnes, BitVec.and_zero, BitVec.zero_or,
    BitVec.and_allOnes, BitVec.toNat_ofNat, Nat.mod_eq_of_lt hv]

section whole

variable (c : Core) {v : Nat} (hv : v < 2 ^ 64)
include hv

theorem winPut_whole {o i : Nat} (ho : o = 8 * i) : winPut c o (leBytes 8 v) = winWrite c i v (2 ^ 64 - 1) := by
  subst ho
  have hlast : (8 * i + (leBytes 8 v).length - 1) / 8 - 8 * i / 8 + 1 = 1 := by rw [length_leBytes]; omega
  have hne : (leBytes 8 v).isEmpty = false := rfl
  rw [winPut, hne, if_neg Bool.false_ne_true, hlast, Nat.mul_div_cancel_left i (by decide)]
  simp only [List.range_one, List.foldl_cons, List.foldl_nil, Nat.add_zero, coverDword_whole i hv]

theorem winWrite_vctl : winWrite c 1 v (2 ^ 64 - 1) = vctlWrite c v := by
  unfold winWrite
  rw [if_pos rfl, mergeBits_whole _ hv, mergeBits_whole _ hv, putBits_bits v 30 1, putBits_bits v 31 1]

theorem winWrite_rgd {n : Nat} (hn : n < 16) : winWrite c (8 + n) v (2 ^ 64 - 1) = rgdWrite c n v := by
  unfold winWrite
  rw [if_neg (by omega), if_neg (by omega), if_neg (by omega), if_pos (by omega), mergeBits_whole _ hv, Nat.add_sub_cancel_left]

theorem winWrite_ev {n : Nat} (hn : n < 4) : winWrite c (24 + n) v (2 ^ 64 - 1) = { c with
    ev := (List.range 4).foldl (fun x j => SSet 0#16 x (4 * n + j) (BitVec.ofNat 16 (bits v (16 * j) 16))) c.ev } := by
  unfold winWrite
  rw [if_neg (by omega), if_neg (by omega), if_neg (by omega), if_neg (by omega), if_pos (by omega), mergeBits_whole _ hv,
    Nat.add_sub_cancel_left]
  rfl

theorem winWrite_tag {n : Nat} (hn : n < 2048) : winWrite c (2048 + n) v (2 ^ 64 - 1) = tagWrite c n v := by
  unfold winWrite
  rw [if_neg (by omega), if_neg (by omega), if_neg (by omega), if_neg (by omega), if_neg (by omega), if_neg (by omega),
    if_neg (by omega), if_pos (by omega), mergeBits_whole _ hv, Nat.add_sub_cancel_left]

end whole

theorem tagWrite_even (c : Core) (i v : Nat) : tagWrite c (2 * i) v = { c with tags := SSet {} c.tags i { SGet {} c.tags i with
    crc := v % 2 ^ 32, valid := bit v 32, checked := bit v 33 && !bit v 32 } } := by
  rw [tagWrite, if_pos (Nat.mul_mod_right 2 i), Nat.mul_div_cancel_left i (by decide)]

theorem tagWrite_odd (c : Core) (i v : Nat) :
    tagWrite c (2 * i + 1) v = { c with tags := SSet {} c.tags i { SGet {} c.tags i with home := v % 2 ^ 42 } } := by
  rw [tagWrite, if_neg (by omega), show (2 * i + 1) / 2 = i by omega]

/-- Settles O5: VCTL and descriptors case by case, and payloads of one doubleword by what they write. -/
theorem controlAndDescriptorWrites : Obligations.ControlAndDescriptorWrites := by
  refine ⟨fun c v => ⟨fun habort hgo hb => ?go, fun habort hb => vctlWrite_busy habort hb, fun habort => vctlWrite_abort_idle habort,
    vctlWrite_keeps c v⟩, fun c n v k => ?descriptor, fun c v hv => ?vctl, fun c n v hn hv => ?rgd,
    fun c n v j hn hv => ?ev, fun c i v hi hv => ⟨?tag, ?home⟩⟩
  case go =>
    rw [vctlWrite_go habort hgo hb]
    exact ⟨rfl, rfl, rfl, rfl, rfl, rfl, rfl⟩
  case descriptor =>
    generalize hd : putBits (v % 2 ^ 58) 42 3 0 = d
    exact ⟨rgdWrite_accepted hd, rgdWrite_refused hd⟩
  case vctl => rw [winPut_whole c hv (show 0x08 = 8 * 1 from rfl), winWrite_vctl c hv]
  case rgd => rw [winPut_whole c hv (show 0x40 + 8 * n = 8 * (8 + n) by omega), winWrite_rgd c hv hn]
  case ev =>
    rw [winPut_whole c hv (show 0xC0 + 8 * n = 8 * (24 + n) by omega), winWrite_ev c hv hn]
    dsimp only
    split
    next hj =>
      have hsplit : j = 4 * n + j % 4 := by omega
      conv_lhs => rw [hsplit]
      rw [SGet_foldRange_at _ _ (fun j => BitVec.ofNat 16 (bits v (16 * j) 16)) _ _ (Nat.mod_lt _ (by decide))]
    next hj => exact SGet_foldRange_ne _ _ (fun j => BitVec.ofNat 16 (bits v (16 * j) 16)) _ _ (by omega)
  case tag => rw [winPut_whole c hv (show 0x4000 + 16 * i = 8 * (2048 + 2 * i) by omega), winWrite_tag c hv (by omega), tagWrite_even]
  case home =>
    rw [winPut_whole c hv (show 0x4008 + 16 * i = 8 * (2048 + (2 * i + 1)) by omega), winWrite_tag c hv (by omega), tagWrite_odd]

end Sys2Proof.Machine
end

section
/-! Loads and stores of the vector engine (R118, R121, R125, R132, R133, R137). -/

namespace Sys2Proof.Machine

/-! ### Places of a doubly numbered list -/

/-- A list of `m` runs of `n` entries. -/
theorem length_runs {α : Type} (f : Nat → Nat → α) (m n : Nat) :
    ((List.range m).flatMap (fun r => (List.range n).map (f r))).length = m * n := by
  simp

theorem getElem?_runs {α : Type} (f : Nat → Nat → α) {m n r i : Nat} (hr : r < m) (hi : i < n) :
    ((List.range m).flatMap (fun r => (List.range n).map (f r)))[n * r + i]? = some (f r i) := by
  induction m with
  | zero => omega
  | succ m ih =>
    rw [List.range_succ, List.flatMap_append, List.flatMap_singleton]
    by_cases hlast : r = m
    · subst hlast
      rw [List.getElem?_append_right (by rw [length_runs, Nat.mul_comm r n]; omega), length_runs, Nat.mul_comm r n,
        Nat.add_sub_cancel_left, List.getElem?_map, List.getElem?_range hi]
      rfl
    · have hrow : n * (r + 1) ≤ n * m := Nat.mul_le_mul_left n (by omega)
      rw [List.getElem?_append_left (by rw [length_runs, Nat.mul_comm m n]; rw [Nat.mul_succ] at hrow; omega), ih (by omega)]

/-! ### The address register (R137) -/

/-- A load or store steps its address register, of the core nothing else. -/
theorem vInc_rest (c : Core) (w : Nat) : vInc c w = { c with a := (vInc c w).a } := by
  unfold vInc
  split <;> rfl

theorem vInc_a_congr {c d : Core} (h : d.a = c.a) (w : Nat) : (vInc d w).a = (vInc c w).a := by
  unfold vInc
  rw [h]
  split
  · rfl
  · exact h

theorem vInc_spad (c : Core) (w : Nat) : (vInc c w).spad = c.spad := by rw [vInc_rest]
theorem vInc_ev (c : Core) (w : Nat) : (vInc c w).ev = c.ev := by rw [vInc_rest]
theorem vInc_tregs (c : Core) (w : Nat) : (vInc c w).tregs = c.tregs := by rw [vInc_rest]
theorem vInc_rowFlg (c : Core) (w : Nat) : (vInc c w).rowFlg = c.rowFlg := by rw [vInc_rest]

/-! ### Words read that hold a single bit in error (R125, R131) -/

/-- Of the module only core `n` differs, and of it only its error counters. -/
def SperrOnly (s t : State) (n : Nat) : Prop := CoreOnly s t n ∧ ∃ e, getCore t n = { getCore s n with sperr := e }

theorem SperrOnly.refl (s : State) (n : Nat) : SperrOnly s s n := ⟨⟨rfl, fun _ _ => rfl⟩, _, rfl⟩

theorem SperrOnly.trans {s t u : State} {n : Nat} (h : SperrOnly s t n) (k : SperrOnly t u n) : SperrOnly s u n := by
  obtain ⟨hst, e, he⟩ := h
  obtain ⟨htu, e', he'⟩ := k
  exact ⟨coreOnly_trans hst htu, e', by rw [he', he]⟩

theorem upsetWord_corrected (s : State) (n a : Nat) {k : Nat} (hk : k < 2) : SperrOnly s (upsetWord s n a k) n := by
  unfold upsetWord
  by_cases h0 : k = 0
  · rw [if_pos h0]
    exact .refl s n
  · rw [if_neg h0, if_pos (by omega)]
    exact ⟨coreOnly_modCore s n _, _, getCore_modCore s n _⟩

/-- R125: single-bit errors are corrected: the words are delivered. -/
theorem upsets_corrected (s : State) (n : Nat) (us : List (Nat × Nat)) (as : List Nat) (hus : ∀ u ∈ us, u.2 < 2) :
    (upsets s n us as).2 = false ∧ SperrOnly s (upsets s n us as).1 n := by
  have hus' : ∀ u ∈ us.filter (fun u => as.contains u.1), u.2 < 2 := fun u hu => hus u (List.mem_of_mem_filter hu)
  refine ⟨List.any_eq_false.2 fun u hu => by have := hus' u hu; simpa using this, ?_⟩
  exact List.foldlRecOn (motive := fun t => SperrOnly s t n) _ _ (.refl s n)
    fun t ht u hu => ht.trans (upsetWord_corrected t n u.1 (hus' u hu))

/-! ### VLD -/

theorem rowJoin_zero {b r : Nat} {es : List (Nat × Flg)} (h : ∀ e ∈ es, e.2 = 0) : rowJoin b r es = 0 := by
  rw [rowJoin, foldl_or_const 0 (fun e : Nat × Flg => e.2) _
    fun e he => h e (List.mem_of_mem_drop (List.mem_of_mem_take he))]
  split <;> rfl

theorem spadGet_lt (c : Core) (a : Nat) : spadGet c a < 2 ^ 32 := BitVec.isLt _

/-- What VLD puts into its register. -/
def vldElems (c : Core) (w : Nat) : List (Nat × Flg) := (vldWords c w).map (fun a => (spadGet c a, 0))

theorem vldPut_eq (w : Nat) (c : Core) : vldPut w c = vInc (putElems c (vTD w) 32 (vldElems c w)) w := rfl

theorem vldElems_at (c : Core) (w : Nat) {r i : Nat} (hr : r < 32) (hi : i < 8) :
    (vldElems c w)[8 * r + i]? = some (spadGet c (vAddr c w r i), 0) := by
  rw [vldElems, List.getElem?_map, vldWords, getElem?_runs (vAddr c w) hr hi]
  rfl

theorem kept_of_rest {c d : Core} (h : d.rest = c.rest) : d.spad = c.spad ∧ d.ev = c.ev ∧ d.a = c.a :=
  ⟨show d.rest.spad = c.rest.spad from congrArg Core.spad h, show d.rest.ev = c.rest.ev from congrArg Core.ev h,
    show d.rest.a = c.rest.a from congrArg Core.a h⟩

section vldPut

variable (c : Core) (w : Nat)

theorem vldPut_keeps : (vldPut w c).spad = c.spad ∧ (vldPut w c).ev = c.ev ∧ (vldPut w c).a = (vInc c w).a := by
  obtain ⟨hspad, hev, ha⟩ := kept_of_rest (rest_putElems c (vTD w) 32 (vldElems c w))
  rw [vldPut_eq]
  exact ⟨(vInc_spad _ w).trans hspad, (vInc_ev _ w).trans hev, vInc_a_congr ha w⟩

theorem t_vldPut_ne {m : Nat} (hm : m ≠ vTD w) : (vldPut w c).t m = c.t m := by
  rw [vldPut_eq, Core.t, vInc_tregs]
  exact t_putElems_ne _ _ _ hm

theorem el_vldPut {r i : Nat} (hr : r < 32) (hi : i < 8) :
    (vldPut w c).el (vTD w) 32 (8 * r + i) = spadGet c (vAddr c w r i) := by
  have hlen : (vldElems c w).length = 256 := by rw [vldElems, List.length_map, vldWords, length_runs]
  obtain ⟨hk, hval⟩ := List.getElem?_eq_some_iff.1 (vldElems_at c w hr hi)
  rw [vldPut_eq, Core.el, Core.t, vInc_tregs]
  refine (el_putElems c (vTD w) 32 _ _ hk (by rw [hlen])).trans ?_
  rw [hval]
  exact Nat.mod_eq_of_lt (spadGet_lt _ _)

theorem rowF_vldPut {r : Nat} (hr : r < 32) : (vldPut w c).rowF (vTD w) r = 0 := by
  rw [vldPut_eq, Core.rowF, vInc_rowFlg]
  refine (rowF_putElems c (vTD w) 32 _ _ r hr).trans ((if_pos rfl).trans (rowJoin_zero fun e he => ?_))
  obtain ⟨a, -, rfl⟩ := List.mem_map.1 he
  rfl

end vldPut

/-- The state after VLD: error counters apart, its core has the words of the scratchpad. -/
theorem exec_vld_reads {s : State} {n w : Nat} (h : VecAt s n 0x01 w) {us : List (Nat × Nat)} (hus : ∀ u ∈ us, u.2 < 2)
    (hacc : firstAcc (readAcc (getCore s n).past 38) (vldWords (getCore s n).past w) = .ok) :
    ∃ t e, exec (.vld n us) s = .next t ∧ CoreOnly s t n ∧ getCore t n = vldPut w { (getCore s n).past with sperr := e } := by
  obtain ⟨hcorr, honly, e, he⟩ := upsets_corrected (pastState s n) n us (vldWords (getCore s n) w) hus
  refine ⟨modCore (upsets (pastState s n) n us (vldWords (getCore s n) w)).1 n (vldPut w), e, ?_, ?_, ?_⟩
  · refine (exec_vld s).trans ((onCore_at h _).trans (congrArg _ ?_))
    dsimp only
    rw [hcorr, if_neg Bool.false_ne_true, show firstAcc (readAcc (getCore s n) 38) (vldWords (getCore s n) w) = .ok from hacc]
    rfl
  · exact coreOnly_trans (coreOnly_modCore s n _) (coreOnly_trans honly (coreOnly_modCore _ n _))
  · rw [getCore_modCore, he, getCore_pastState]

/-! ### VST -/

theorem spadPut_keeps (c : Core) (a v : Nat) : (spadPut c a v).tregs = c.tregs ∧ (spadPut c a v).rowFlg = c.rowFlg ∧
    (spadPut c a v).ev = c.ev ∧ (spadPut c a v).a = c.a := by
  unfold spadPut
  dsimp only
  split
  · exact ⟨rfl, rfl, rfl, rfl⟩
  · split <;> exact ⟨rfl, rfl, rfl, rfl⟩

theorem spadPuts_keeps (l : List (Nat × Nat)) (c : Core) : (spadPuts c l).tregs = c.tregs ∧ (spadPuts c l).rowFlg = c.rowFlg ∧
    (spadPuts c l).ev = c.ev ∧ (spadPuts c l).a = c.a := by
  induction l generalizing c with
  | nil => exact ⟨rfl, rfl, rfl, rfl⟩
  | cons x xs ih =>
    obtain ⟨htregs, hflg, hev, ha⟩ := ih (spadPut c x.1 x.2)
    obtain ⟨htregs', hflg', hev', ha'⟩ := spadPut_keeps c x.1 x.2
    exact ⟨htregs.trans htregs', hflg.trans hflg', hev.trans hev', ha.trans ha'⟩

/-- The word that VST writes from `x`, an entry of its words: the row's bytes within the extent. -/
def vstWord (w : Nat) (c : Core) (x : Nat × Nat × Nat × Nat) : Nat :=
  putBits (spadGet c x.1) 0 (8 * x.2.1) (c.el (vTA w) 32 (8 * x.2.2.1 + x.2.2.2))

theorem vstPut_eq (w : Nat) (c : Core) :
    vstPut w c = vInc (spadPuts c ((vstWords c w).map (fun x => (x.1, vstWord w c x)))) w := rfl

theorem mem_vstWords {c : Core} {w : Nat} {x : Nat × Nat × Nat × Nat} : x ∈ vstWords c w ↔
    ∃ r i, r < c.nr ∧ 4 * i < c.nb ∧ x = (vAddr c w r i, min 4 (c.nb - 4 * i), r, i) := by
  have hceil : ∀ i, i < ceilDiv c.nb 4 ↔ 4 * i < c.nb := fun i => by unfold ceilDiv; omega
  simp only [vstWords, List.mem_flatMap, List.mem_map, List.mem_range, hceil]
  constructor
  · rintro ⟨r, hr, i, hi, rfl⟩
    exact ⟨r, i, hr, hi, rfl⟩
  · rintro ⟨r, i, hr, hi, rfl⟩
    exact ⟨r, hr, i, hi, rfl⟩

section vstPut

variable (c : Core) (w : Nat)

theorem vstPut_keeps : (vstPut w c).tregs = c.tregs ∧ (vstPut w c).rowFlg = c.rowFlg ∧ (vstPut w c).ev = c.ev ∧
    (vstPut w c).a = (vInc c w).a := by
  obtain ⟨htregs, hflg, hev, ha⟩ := spadPuts_keeps ((vstWords c w).map (fun x => (x.1, vstWord w c x))) c
  rw [vstPut_eq]
  exact ⟨(vInc_tregs _ w).trans htregs, (vInc_rowFlg _ w).trans hflg, (vInc_ev _ w).trans hev, vInc_a_congr ha w⟩

theorem spadGet_vstPut (a : Nat) :
    spadGet (vstPut w c) a = spadGet (spadPuts c ((vstWords c w).map (fun x => (x.1, vstWord w c x)))) a := by
  rw [vstPut_eq, spadGet, vInc_spad, spadGet]

theorem spadGet_vstPut_outside {a : Nat} (ha : a ∉ (vstWords c w).map (·.1)) : spadGet (vstPut w c) a = spadGet c a := by
  rw [spadGet_vstPut]
  refine spadGet_spadPuts_ne a _ c fun x hx hxa => ha ?_
  obtain ⟨y, hy, rfl⟩ := List.mem_map.1 hx
  exact List.mem_map.2 ⟨y, hy, hxa⟩

theorem spadGet_vstPut_inside {r i : Nat} (hr : r < c.nr) (hi : 4 * i < c.nb)
    (halone : ∀ r' i', r' < c.nr → 4 * i' < c.nb → vAddr c w r' i' = vAddr c w r i → r' = r ∧ i' = i) :
    spadGet (vstPut w c) (vAddr c w r i) =
      putBits (spadGet c (vAddr c w r i)) 0 (8 * min 4 (c.nb - 4 * i)) (c.el (vTA w) 32 (8 * r + i)) := by
  rw [spadGet_vstPut]
  refine (spadGet_spadPuts_at (vAddr c w r i) (vstWord w c (vAddr c w r i, min 4 (c.nb - 4 * i), r, i)) _ c
    (List.mem_map.2 ⟨_, mem_vstWords.2 ⟨r, i, hr, hi, rfl⟩, rfl⟩) ?_).trans
    (Nat.mod_eq_of_lt (putBits_lt _ _ _ _ 32 (spadGet_lt _ _) (by dsimp only; omega)))
  intro x hx hxa
  obtain ⟨y, hy, rfl⟩ := List.mem_map.1 hx
  obtain ⟨r', i', hr', hi', rfl⟩ := mem_vstWords.1 hy
  obtain ⟨rfl, rfl⟩ := halone r' i' hr' hi' hxa
  rfl

end vstPut

theorem vstNotices_cores (s : State) (n w : Nat) : (vstNotices s n w).eng.cores = s.eng.cores := by
  refine foldl_proj (fun s => s.eng.cores) _ (fun s r => ?_) _ s
  dsimp only
  split <;> rfl

theorem getCore_vstNotices (s : State) (n w m : Nat) : getCore (vstNotices s n w) m = getCore s m :=
  congrArg (fun x => SGet ({} : Core) x m) (vstNotices_cores s n w)

/-- The state after VST: what it puts in the scratchpad, and the notices of its rows' flags. -/
theorem exec_vst_writes {s : State} {n w : Nat} (h : VecAt s n 0x02 w)
    (hacc : firstAcc (writeAcc (getCore s n).past 39) ((vstWords (getCore s n).past w).map (·.1)) = .ok) :
    exec (.vst n) s = .next (vstNotices (modCore (pastState s n) n (vstPut w)) n w) := by
  refine (exec_vst s).trans ((onCore_at h _).trans (congrArg _ ?_))
  dsimp only
  rw [show firstAcc (writeAcc (getCore s n) 39) ((vstWords (getCore s n) w).map (·.1)) = .ok from hacc]
  rfl

/-- Settles O13: VLD and VST by what each puts, the words read with at most single-bit errors. -/
theorem vectorLoadsAndStores : Obligations.VectorLoadsAndStores := by
  refine ⟨?vld, ?vst⟩
  case vld =>
    rintro s n w c rfl h hacc us hus
    obtain ⟨t, e, hnext, honly, hcore⟩ := exec_vld_reads h hus hacc
    obtain ⟨hspad, hev, ha⟩ := vldPut_keeps { (getCore s n).past with sperr := e } w
    refine ⟨t, hnext, honly, ?_⟩
    rw [hcore]
    exact ⟨hspad, hev, fun r hr i hi => el_vldPut _ w hr hi, fun r hr => rowF_vldPut _ w hr, fun m hm => t_vldPut_ne _ w hm,
      ha.trans (vInc_a_congr (by rfl) w)⟩
  case vst =>
    rintro s n w c rfl h hacc
    obtain ⟨htregs, hflg, hev, ha⟩ := vstPut_keeps (getCore s n).past w
    have hwithin : Within [.eng] s (vstNotices (modCore (pastState s n) n (vstPut w)) n w) :=
      vstNotices_within (by decide) (setCore_within n _ (by decide) (setCore_within n _ (by decide) (.refl _ s)))
    refine ⟨_, exec_vst_writes h hacc, fun m hm => ?_, ?_⟩
    · rw [getCore_vstNotices]; exact (coreOnly_at s n _).2 m hm
    · rw [getCore_vstNotices, getCore_at]
      exact ⟨htregs, hflg, hev, ha.trans (vInc_a_congr (by rfl) w), fun a ha => spadGet_vstPut_outside _ w ha,
        fun r i hr hi halone => spadGet_vstPut_inside _ w hr hi halone, hwithin.mem.resolve_left (by decide),
        hwithin.parts.resolve_left (by decide), hwithin.host.resolve_left (by decide)⟩

end Sys2Proof.Machine
end

section
/-! Boot, from PERST# to RUNNING (R148, R321, R322, R408 to R416, R420, R428). -/

namespace Sys2Proof.Machine

/-! ### A change of boot state (R416) -/

/-- A message to the rack manager, of Pewter's registers, adds to those sent. -/
theorem pewSend_pew (s : State) (b : List Byte) : ∃ o, (pewSend s b).pew = { s.pew with out := o } := by
  unfold pewSend
  split
  · exact ⟨_, rfl⟩
  · exact ⟨_, rfl⟩

theorem bootState_sec (s : State) (n : Nat) : (bootState s n).sec = { s.sec with state := n, tick := s.tick } :=
  (pewReport_within (fs := [.pew]) (by decide) (.refl _ _)).sec.resolve_left (by decide)

theorem bootState_pew (s : State) (n : Nat) : ∃ o, (bootState s n).pew = { s.pew with out := o } := pewSend_pew _ _

theorem bootState_within_self (s : State) (n : Nat) : Within [.sec, .pew] s (bootState s n) :=
  bootState_within (by decide) (by decide) (.refl _ s)

/-! ### The tests before Electrum starts (R428) -/

/-- The fenced units, and those whose return is pending. -/
def fences (s : State) : List (Nat × Nat) × List (Nat × Nat) := (s.pew.fence, s.pew.returns)

theorem fences_of_pew {s t : State} (h : t.pew = s.pew) : fences t = fences s := by rw [fences, h, fences]

theorem fences_of_within {fs : List Field} {s t : State} (h : Within fs s t) (hf : .pew ∉ fs) : fences t = fences s :=
  fences_of_pew (h.pew.resolve_left hf)

theorem sampStatus_fences (s : State) (fn setid op status : Nat) : fences (sampStatus s fn setid op status).1 = fences s := by
  unfold sampStatus
  split
  · rfl
  · split
    · rfl
    · exact (fences_of_within (ringWrite_within (fs := [.host]) (by decide) (.refl _ _)) (by decide)).trans rfl

theorem sampSectorLost_fences (s : State) (n : Nat) : fences (sampSectorLost s n) = fences s := by
  refine foldl_proj fences _ (fun s e => ?_) _ s
  dsimp only
  split
  · exact (sampStatus_fences _ _ _ _ _).trans rfl
  · rfl

theorem ite_fences {c : Prop} [Decidable c] {s t : State} (h : fences t = fences s) : fences (if c then t else s) = fences s := by
  split
  · exact h
  · rfl

theorem modPart_fences (s : State) (p : Nat) (f : Part → Part) : fences (modPart s p f) = fences s := rfl

theorem reregister_fences (s : State) (p : Nat) : fences (reregister s p) = fences s := rfl

theorem faultPart_fences (s : State) (p r : Nat) : fences (faultPart s p r) = fences s :=
  fences_of_within (faultPart_within (fs := [.host, .parts, .rtes, .eng]) (by decide) (by decide) (by decide) (by decide)
    (.refl _ s)) (by decide)

/-- R367: a unit that is fenced joins the fences; what it takes from its partition leaves them. -/
theorem fenceUnit_fences (s : State) (u n : Nat) : fences (fenceUnit s u n) =
    (if s.pew.fence.contains (u, n) then s.pew.fence else s.pew.fence ++ [(u, n)], s.pew.returns) := by
  have hcore : ∀ t, fences (if u = utCore then leavePlaces (modCore t n coreAbort) n else t) = fences t := fun t =>
    ite_fences (fences_of_within (leavePlaces_within (fs := [.eng]) (by decide) (setCore_within n _ (by decide) (.refl _ t)))
      (by decide))
  have hcob : ∀ t, fences (if u = utCobalt then sampSectorLost (clearPlaces t (fun pl => pl.sectors.contains n)) n else t) =
      fences t := fun t =>
    ite_fences ((sampSectorLost_fences _ n).trans
      (fences_of_within (clearPlaces_within (fs := [.parts, .eng]) (by decide) (by decide) (.refl _ t)) (by decide)))
  unfold fenceUnit
  dsimp only
  split
  · exact (hcob _).trans ((hcore _).trans rfl)
  · exact (ite_fences (faultPart_fences _ _ _)).trans ((ite_fences (reregister_fences _ _)).trans
      ((ite_fences (modPart_fences _ _ _)).trans ((hcob _).trans ((hcore _).trans rfl))))

theorem foldl_fenceUnit_returns (failed : List (Nat × Nat)) (s : State) :
    (failed.foldl (fun s u => fenceUnit s u.1 u.2) s).pew.returns = s.pew.returns :=
  foldl_proj (fun s => s.pew.returns) _ (fun s u => show (fences _).2 = _ by rw [fenceUnit_fences]) failed s

theorem mem_fence_fenceUnit (s : State) (u n : Nat) (f : Nat × Nat) :
    f ∈ (fenceUnit s u n).pew.fence ↔ f ∈ s.pew.fence ∨ f = (u, n) := by
  rw [show (fenceUnit s u n).pew.fence = _ from congrArg Prod.fst (fenceUnit_fences s u n)]
  dsimp only
  split
  next h =>
    have hmem : (u, n) ∈ s.pew.fence := List.contains_iff_mem.1 h
    exact ⟨.inl, fun hf => hf.elim id (· ▸ hmem)⟩
  · rw [List.mem_append, List.mem_singleton]

theorem mem_fence_foldl_fenceUnit (failed : List (Nat × Nat)) (s : State) (f : Nat × Nat) :
    f ∈ (failed.foldl (fun s u => fenceUnit s u.1 u.2) s).pew.fence ↔ f ∈ s.pew.fence ∨ f ∈ failed := by
  induction failed generalizing s with
  | nil => simp
  | cons u us ih => rw [List.foldl_cons, ih, mem_fence_fenceUnit, List.mem_cons, or_assoc]

section tests

variable {s : State} (hret : s.pew.returns = []) (failed : List (Nat × Nat))
include hret

theorem startTests_fresh (hf : s.pew.fresh = true) : startTests s failed =
    modPew (failed.foldl (fun s u => fenceUnit s u.1 u.2) s) (fun w => { w with fresh := false, returns := [] }) := by
  unfold startTests
  simp only [hf, if_true, foldl_fenceUnit_returns, hret, List.foldl_nil]

theorem startTests_kept (hf : s.pew.fresh = false) :
    startTests s failed = modPew s (fun w => { w with fresh := false, returns := [] }) := by
  unfold startTests
  simp only [hf, Bool.false_eq_true, if_false, hret, List.foldl_nil]

end tests

theorem startTests_pew_fresh (s : State) (failed : List (Nat × Nat)) : (startTests s failed).pew.fresh = false := rfl

/-- R408: PERST# is deasserted. -/
def perstOff (s : State) : State := modPow s (fun w => { w with perst := false })

/-- What BOOT_START leaves. -/
def bootBegun (s : State) (failed : List (Nat × Nat)) : State :=
  bootState (modSec (startTests (perstOff s) failed)
    (fun e => { e with started := true, waiting := true })) 0

theorem exec_bootStart_due {s : State} (failed : List (Nat × Nat)) (hpg : s.power.pg = true) (hpfw : s.power.pfwAt = none)
    (hstart : s.sec.started = false) (hfault : s.pew.moduleFault = false) :
    exec (.bootStart failed) s = .next (bootBegun s failed) := by
  rw [exec_bootStart, execBootStart, whenB_true _ _ (by simp [hpg, hpfw, hstart, hfault])]
  rfl

theorem exec_bootStart_over {s : State} (failed : List (Nat × Nat)) (h : s.sec.started = true ∨ s.pew.moduleFault = true) :
    exec (.bootStart failed) s = .next s := by
  rw [exec_bootStart, execBootStart, whenB_false _ _ (by rcases h with h | h <;> simp [h])]

theorem bootBegun_within (s : State) (failed : List (Nat × Nat)) :
    Within [.freeCtr, .host, .parts, .rtes, .pew, .eng, .sec] (perstOff s) (bootBegun s failed) :=
  bootState_within (by decide) (by decide) (modSec_within _ (by decide) (startTests_within (by decide) (by decide) (by decide)
    (by decide) (by decide) (by decide) (.refl _ _)))

theorem bootBegun_pew (s : State) (failed : List (Nat × Nat)) : ∃ o, (bootBegun s failed).pew =
    { (startTests (perstOff s) failed).pew with out := o } := bootState_pew _ _

/-! ### BUNDLE_REGISTER (R419, R420) -/

theorem vendorRow_admitted {s : State} {req b : List Byte} {code : Nat} (hup : spdmUp s = true) (hver : fld req 0 1 = 0x13)
    (hvendor : fld req 1 1 = 0xFE) (hreq : vendorReq req = some b) (hcode : fld b 0 1 = code) (hsync : s.sec.resync = false)
    (hstage : 3 ≤ s.sec.spdm) (ok : State → Bool) (f : List Byte → State → State) :
    vendorRow code req ok f s = .next (if ok s then f (b.drop 1) s else vendorSend s [1#8]) := by
  rw [vendorRow, hreq]
  dsimp only
  rw [if_neg (not_not_intro hcode), spdmRow, whenB_true _ _ (by simp [hup, hvendor]), if_neg (not_not_intro hver), hsync,
    if_neg Bool.false_ne_true, if_neg (by omega)]

/-- R420: the state in which the read of a registered bundle starts. -/
def registered (s : State) (a n : Nat) : State :=
  bootState (modSec s (fun e => { e with addr := a, len := n, reqAt := s.tick, bundle := [], bm := [] })) 1

theorem registered_within (s : State) (a n : Nat) : Within [.sec, .pew] s (registered s a n) :=
  bootState_within (by decide) (by decide) (modSec_within _ (by decide) (.refl _ s))

section register

variable {s : State} {req b : List Byte} (hup : spdmUp s = true) (hver : fld req 0 1 = 0x13) (hvendor : fld req 1 1 = 0xFE)
  (hreq : vendorReq req = some b) (hcode : fld b 0 1 = 1) (hsync : s.sec.resync = false) (hstage : 3 ≤ s.sec.spdm)
include hup hver hvendor hreq hcode hsync hstage

theorem exec_bundleRegister_early (h1 : 1 ≤ s.sec.state) (h10 : s.sec.state < 0x10) :
    exec (.bundleRegister req) s = .next (vendorSend s [1#8]) := by
  refine (exec_bundleRegister s).trans ((vendorRow_admitted hup hver hvendor hreq hcode hsync hstage _ _).trans
    (congrArg _ (if_neg ?_)))
  simp only [Bool.or_eq_true, beq_iff_eq, decide_eq_true_eq]
  omega

variable (hstate : s.sec.state = 0 ∨ 0x10 ≤ s.sec.state) {a n : Nat} (ha : a = fld (b.drop 1) 0 8) (hn : n = fld (b.drop 1) 8 8)
include hstate ha hn

theorem exec_bundleRegister_judged : exec (.bundleRegister req) s = .next
    (if (b.drop 1).length ≠ 16 ∨ a % 4096 ≠ 0 ∨ n < 4096 ∨ 67108864 < n then vendorSend s [2#8]
      else vendorSend (startRead (registered s a n) 0 (2 ^ 64 + a) n .bundle).1 [0#8]) := by
  subst ha hn
  exact (exec_bundleRegister s).trans ((vendorRow_admitted hup hver hvendor hreq hcode hsync hstage _ _).trans
    (congrArg _ (if_pos (by simpa using hstate))))

end register

/-! ### The checks of a bundle (R414, R415) -/

theorem exec_bundleFetched_whole {s : State} (hstate : s.sec.state = 1) (hpg : s.power.pg = true) (hpfw : s.power.pfwAt = none)
    (hlen : s.sec.bundle.length = s.sec.len) : exec .bundleFetched s = .next
      (if bundleCheck s.sec = 2 then modSec (bootState s 2) (fun e => { e with bm := bundleBm e.bundle })
        else bootState (bootState s 2) (bundleCheck s.sec)) := by
  rw [exec_bundleFetched, execBundleFetched, whenB_true _ _ (by simp [hstate, hpg, hpfw, hlen])]

theorem bundleCheck_range (e : Electrum) : bundleCheck e = 2 ∨ (0x11 ≤ bundleCheck e ∧ bundleCheck e ≤ 0x15) := by
  unfold bundleCheck
  dsimp only
  repeat' split
  all_goals omega

theorem bundleCheck_passed {e : Electrum} (h : bundleCheck e = 2) : bundleForm e.bundle = true ∧ fld e.bundle 0x10 1 = 1 ∧
    bit (fld e.bundle 0x11 1) 2 = true ∧ e.svnMin ≤ fld e.bundle 0x14 4 ∧ ∃ n, n < 4 ∧
      sha512 ((e.bundle.drop 0x40).take 133) = Config.rootHash n ∧ bit e.rootRev n = false ∧
      bit (fld e.bundle 0x1C 1) n = false := by
  unfold bundleCheck at h
  dsimp only at h
  split at h
  · cases h
  next hform =>
  split at h
  · cases h
  next hknown =>
  split at h
  · cases h
  split at h
  · cases h
  next hkind =>
  split at h
  · cases h
  next hsvn =>
  simp only [Bool.not_eq_false, Bool.not_eq_true', not_or, ne_eq, not_not] at hform hknown hkind
  obtain ⟨n, hn, hroot⟩ := List.any_eq_true.1 hknown
  simp only [Bool.and_eq_true, beq_iff_eq, Bool.not_eq_true'] at hroot
  obtain ⟨⟨hhash, hrev⟩, hrev'⟩ := hroot
  exact ⟨hform, hkind.1, hkind.2, by omega, n, List.mem_range.1 hn, hhash, hrev, hrev'⟩

/-! ### Fuses (R412) -/

/-- The number of four flags has each flag as a bit. -/
theorem bit_sum_flags (p : Nat → Bool) {n : Nat} (hn : n < 4) :
    bit ((List.range 4).map (fun k => if p k then 2 ^ k else 0)).sum n = p n := by
  have hall : ∀ a b c d : Bool, bit ((if a then 2 ^ 0 else 0) + ((if b then 2 ^ 1 else 0) + ((if c then 2 ^ 2 else 0) +
      ((if d then 2 ^ 3 else 0) + 0)))) n = [a, b, c, d].getD n false := by
    revert n; decide
  have hn' : n = 0 ∨ n = 1 ∨ n = 2 ∨ n = 3 := by omega
  refine (hall (p 0) (p 1) (p 2) (p 3)).trans ?_
  rcases hn' with rfl | rfl | rfl | rfl <;> rfl

/-- What programming the fuses leaves of Electrum's registers. -/
def fused (e : Electrum) : Electrum := { e with
  svnMin := max e.svnMin (fld e.bundle 0x18 4)
  rootRev := ((List.range 4).map (fun n => if bit e.rootRev n || bit (fld e.bundle 0x1C 1) n then 2 ^ n else 0)).sum }

theorem exec_fuseProgramDone_checked {s : State} (ok : Bool) (hstate : s.sec.state = 2) (hbm : s.sec.bm ≠ [])
    (hpg : s.power.pg = true) (hpfw : s.power.pfwAt = none) : exec (.fuseProgramDone ok) s = .next
      (if ok then bootState (modSec s fused) 3 else bootState (modSec s (fun e => { e with bm := [] })) 0x16) := by
  rw [exec_fuseProgramDone, execFuseProgramDone, whenB_true _ _ (by simp [hstate, hbm, hpg, hpfw])]
  rfl

/-! ### RUNNING (R148, R322, R409) -/

/-- R409: a port that the plan names and that is dark starts training. -/
def lightPort (s : State) (n : Nat) : State := match s.pew.applied with
  | some pl => if planExpect pl n ≠ 0 ∧ (getPort s n).state = .dark then portTo s n .training else s
  | none => s

/-- What BOOT_RUNNING sets before the ports are lit: the bindings, the Cobalt cores, and Electrum's registers. -/
def released (s : State) : State :=
  modSec (modEng (modHost s (fun h => { h with mbbind := (List.range 32).foldl (fun m i =>
      SSet 0 m i (BitVec.ofNat 32 (fld (secBytes s.sec.bundle 5) (4 * i) 4))) [] }))
    (fun e => { e with cobalts := (List.range 64).foldl (fun m n =>
      if fenced s utCobalt n then m else SSet {} m n (cobaltStart s.sec.bundle)) [] }))
    (fun e => { e with bundle := [], spdm := 0, resync := true, vca := [], msgB := [], msgL := [] })

/-- What BOOT_RUNNING leaves before its change of boot state. -/
def lit (s : State) : State := (List.range 16).foldl lightPort (released s)

/-- R395: the ramp begins. -/
def ramped (s : State) : State := modPow (lit s) (fun w => { w with
  ramp := some (lit s).tick, rampRate := 80, vset := if w.paced && !w.floor then pacedSet w.pace else w.vset })

theorem exec_bootRunning_trained {s : State} (hstate : s.sec.state = 3) (htr : s.sec.trained = true) (hpg : s.power.pg = true)
    (hpfw : s.power.pfwAt = none) : exec .bootRunning s = .next (bootState (ramped s) 4) := by
  rw [exec_bootRunning, execBootRunning, whenB_true _ _ (by simp [hstate, htr, hpg, hpfw])]
  rfl

theorem exec_bootRunning_untrained {s : State} (htr : s.sec.trained = false) : exec .bootRunning s = .next s := by
  rw [exec_bootRunning, execBootRunning, whenB_false _ _ (by simp [htr])]

theorem lightPort_within {fs : List Field} {s0 s : State} (n : Nat) (hf : .fab ∈ fs) (h : Within fs s0 s) :
    Within fs s0 (lightPort s n) := by
  unfold lightPort
  split
  · exact ite_within (portTo_within hf h) h
  · exact h

theorem foldl_lightPort_within (l : List Nat) (s : State) : Within [.fab] s (l.foldl lightPort s) :=
  foldl_within _ l (.refl _ s) fun _ n h => lightPort_within n (by decide) h

theorem lightPort_state {s : State} {pl : List Byte} {n : Nat} (hpl : s.pew.applied = some pl) (hdark : (getPort s n).state = .dark) :
    (getPort (lightPort s n) n).state = if planExpect pl n = 0 then .dark else .training := by
  unfold lightPort
  rw [hpl]
  dsimp only
  by_cases h : planExpect pl n = 0
  · rw [if_neg (by simp [h]), if_pos h, hdark]
  · rw [if_pos ⟨h, hdark⟩, if_neg h, portTo, getPort_modPort]

theorem getPort_lightPort_ne (s : State) {m n : Nat} (h : n ≠ m) : getPort (lightPort s m) n = getPort s n := by
  unfold lightPort
  split
  · split
    · exact getPort_modPort_ne s _ h
    · rfl
  · rfl

theorem getPort_foldl_lightPort_ne (l : List Nat) (s : State) {n : Nat} (h : n ∉ l) :
    getPort (l.foldl lightPort s) n = getPort s n :=
  List.foldlRecOn (motive := fun t => getPort t n = getPort s n) l lightPort rfl
    fun t ht m hm => (getPort_lightPort_ne t (fun hnm => h (by rwa [hnm]))).trans ht

theorem foldl_lightPort_state {s : State} {pl : List Byte} {n : Nat} (hpl : s.pew.applied = some pl)
    (hdark : (getPort s n).state = .dark) (k : Nat) (hn : n < k) :
    (getPort ((List.range k).foldl lightPort s) n).state = if planExpect pl n = 0 then .dark else .training := by
  induction k with
  | zero => omega
  | succ k ih =>
    rw [List.range_succ, List.foldl_append, List.foldl_cons, List.foldl_nil]
    by_cases hlast : n = k
    · subst hlast
      refine lightPort_state ?_ ?_
      · rw [(foldl_lightPort_within _ s).pew.resolve_left (by decide), hpl]
      · rw [getPort_foldl_lightPort_ne _ s (by simp), hdark]
    · rw [getPort_lightPort_ne _ hlast, ih (by omega)]

/-- Entries of one value, those that `p` excepts left out. -/
theorem SGet_foldRange_unless {V : Type} [DecidableEq V] (d v : V) (p : Nat → Bool) (k n : Nat) :
    SGet d ((List.range k).foldl (fun m i => if p i then m else SSet d m i v) []) n = if n < k ∧ p n = false then v else d := by
  induction k with
  | zero => rfl
  | succ k ih =>
    rw [List.range_succ, List.foldl_append, List.foldl_cons, List.foldl_nil]
    by_cases hlast : n = k
    · subst hlast
      cases hp : p n
      · simp
      · simp [ih]
    · rw [if_congr (and_congr_left fun _ => (by omega : n < k + 1 ↔ n < k)) rfl rfl, ← ih]
      split
      · rfl
      · exact SGet_SSet_ne d _ v hlast

theorem lit_within (s : State) : Within [.fab] (released s) (lit s) := foldl_lightPort_within _ _

section running

variable {s t : State} (ht : t = bootState (ramped s) 4)
include ht

theorem running_within : Within [.sec, .pew, .power, .fab] (released s) t := by
  rw [ht]
  exact bootState_within (by decide) (by decide) (modPow_within _ (by decide) ((lit_within s).mono (by decide)))

theorem running_sec : t.sec.state = 4 ∧ t.sec.resync = true := by
  rw [ht, bootState_sec, ramped, modPow_sec, (lit_within s).sec.resolve_left (by decide)]
  exact ⟨rfl, rfl⟩

theorem running_ramp : t.power.ramp = some s.tick := by
  rw [ht, (bootState_within_self (ramped s) 4).power.resolve_left (by decide), ramped, modPow_power,
    (lit_within s).tick.resolve_left (by decide)]
  rfl

theorem running_mbbind {c : Nat} (hc : c < 32) :
    SGet 0 t.host.mbbind c = BitVec.ofNat 32 (fld (secBytes s.sec.bundle 5) (4 * c) 4) := by
  rw [(running_within ht).host.resolve_left (by decide)]
  have hat := SGet_foldRange_at (0 : Word) 0 (fun i => BitVec.ofNat 32 (fld (secBytes s.sec.bundle 5) (4 * i) 4)) [] 32 hc
  simp only [Nat.zero_add] at hat
  exact hat

theorem running_cobalt {n : Nat} (hn : n < 64) : getCob t n = if fenced s utCobalt n then {} else cobaltStart s.sec.bundle := by
  rw [getCob, (running_within ht).eng.resolve_left (by decide)]
  refine (SGet_foldRange_unless {} (cobaltStart s.sec.bundle) (fenced s utCobalt) 64 n).trans ?_
  cases fenced s utCobalt n <;> simp [hn]

theorem running_port {pl : List Byte} {n : Nat} (hpl : s.pew.applied = some pl) (hn : n < 16)
    (hdark : (getPort s n).state = .dark) : (getPort t n).state = if planExpect pl n = 0 then .dark else .training := by
  have hports : t.fab = (lit s).fab := by
    rw [ht, (bootState_within_self (ramped s) 4).fab.resolve_left (by decide), ramped, modPow_fab]
  rw [getPort, hports]
  exact foldl_lightPort_state (s := released s) hpl hdark 16 hn

end running

theorem bootBegun_started {s : State} (failed : List (Nat × Nat)) (hret : s.pew.returns = []) :
    (bootBegun s failed).sec.started = true ∧ (bootBegun s failed).sec.waiting = true ∧ (bootBegun s failed).sec.state = 0 ∧
      (bootBegun s failed).power.perst = false ∧ (bootBegun s failed).pew.fresh = false ∧
      (s.pew.fresh = true → ∀ f ∈ failed, f ∈ (bootBegun s failed).pew.fence) ∧
      (s.pew.fresh = false → (bootBegun s failed).pew.fence = s.pew.fence) ∧ (bootBegun s failed).mem = s.mem := by
  have hsec : (bootBegun s failed).sec = _ := bootState_sec _ _
  have hwithin := bootBegun_within s failed
  obtain ⟨o, hpew⟩ := bootBegun_pew s failed
  rw [hsec, hpew, hwithin.power.resolve_left (by decide), hwithin.mem.resolve_left (by decide)]
  refine ⟨rfl, rfl, rfl, rfl, startTests_pew_fresh (perstOff s) failed, fun hf f hmem => ?_, fun hf => ?_, rfl⟩
  · rw [startTests_fresh (s := perstOff s) hret failed hf]
    exact (mem_fence_foldl_fenceUnit failed _ f).2 (.inr hmem)
  · rw [startTests_kept (s := perstOff s) hret failed hf]
    rfl

/-- Settles O47: each step of boot by what it leaves. -/
theorem bootSequence : Obligations.BootSequence := by
  refine ⟨fun s failed hpg hpfw hstart hfault hret _ => ?start, fun s _ h failed => exec_bootStart_over failed h,
    fun s hpg hstart => ?trained, fun s req b hup hver hvendor hreq hcode hsync hstage =>
      ⟨fun h1 h10 => exec_bundleRegister_early hup hver hvendor hreq hcode hsync hstage h1 h10, fun hstate a n ha hn => ?register⟩,
    fun s hstate hpg hpfw hlen => ?fetched, bundleCheck_range, fun e => bundleCheck_passed,
    fun s hstate hbm hpg hpfw => ⟨?fused, ?failed⟩, fun s hstate htr hpg hpfw => ?running,
    fun s _ htr => exec_bootRunning_untrained htr⟩
  case start => exact ⟨_, exec_bootStart_due failed hpg hpfw hstart hfault, bootBegun_started failed hret⟩
  case trained =>
    rw [exec_lpddr6TrainingDone, execLpddr6TrainingDone, whenB_true _ _ (by simp [hpg, hstart])]
    rfl
  case register =>
    have hjudged := exec_bundleRegister_judged hup hver hvendor hreq hcode hsync hstage hstate ha hn
    have hwithin := registered_within s a n
    rw [List.length_drop] at hjudged
    refine ⟨fun hbad => hjudged.trans (congrArg _ (if_pos (by omega))), fun hlen h4096 hlo hhi => ⟨registered s a n,
      hjudged.trans (congrArg _ (if_neg (by omega))), ?_⟩⟩
    rw [hwithin.host.resolve_left (by decide), hwithin.parts.resolve_left (by decide), hwithin.mem.resolve_left (by decide),
      show (registered s a n).sec = _ from bootState_sec _ _]
    exact ⟨rfl, rfl, rfl, rfl, rfl, rfl, rfl, rfl⟩
  case fetched =>
    refine ⟨_, exec_bundleFetched_whole hstate hpg hpfw hlen, ?_⟩
    have hchecking := bootState_within_self s 2
    by_cases hcheck : bundleCheck s.sec = 2
    · rw [if_pos hcheck, modSec_sec, bootState_sec]
      exact ⟨hchecking.host.resolve_left (by decide), hchecking.parts.resolve_left (by decide), hchecking.mem.resolve_left (by decide),
        hchecking.eng.resolve_left (by decide), fun _ => ⟨rfl, rfl⟩, fun hne => absurd hcheck hne⟩
    · have hends := hchecking.trans (bootState_within_self (bootState s 2) (bundleCheck s.sec))
      rw [if_neg hcheck, bootState_sec, bootState_sec]
      exact ⟨hends.host.resolve_left (by decide), hends.parts.resolve_left (by decide), hends.mem.resolve_left (by decide),
        hends.eng.resolve_left (by decide), fun h => absurd h hcheck, fun _ => ⟨rfl, rfl⟩⟩
  case fused =>
    refine ⟨_, exec_fuseProgramDone_checked true hstate hbm hpg hpfw, ?_⟩
    have hwithin := bootState_within_self (modSec s fused) 3
    rw [if_pos rfl, bootState_sec, hwithin.host.resolve_left (by decide), hwithin.mem.resolve_left (by decide)]
    exact ⟨rfl, rfl, fun n hn => bit_sum_flags (fun n => bit s.sec.rootRev n || bit (fld s.sec.bundle 0x1C 1) n) hn, rfl, rfl⟩
  case failed =>
    refine ⟨_, exec_fuseProgramDone_checked false hstate hbm hpg hpfw, ?_⟩
    have hwithin := bootState_within_self (modSec s (fun e => { e with bm := [] })) 0x16
    rw [if_neg Bool.false_ne_true, bootState_sec, hwithin.host.resolve_left (by decide), hwithin.mem.resolve_left (by decide)]
    exact ⟨rfl, rfl, rfl, rfl, rfl, rfl⟩
  case running =>
    obtain ⟨hstate', hsync⟩ := running_sec (s := s) rfl
    have hwithin := running_within (s := s) rfl
    refine ⟨_, exec_bootRunning_trained hstate htr hpg hpfw, hstate', hsync, running_ramp rfl, fun c hc => running_mbbind rfl hc,
      fun n hn => running_cobalt rfl hn, fun pl n hpl hn hdark => running_port rfl hpl hn hdark, ?_,
      hwithin.mem.resolve_left (by decide), hwithin.parts.resolve_left (by decide)⟩
    rw [hwithin.host.resolve_left (by decide)]
    rfl

end Sys2Proof.Machine
end

section
/-! Instructions of a stream engine on its own registers, its waits and its end (R153 to R156, R162, R163, R170). -/

namespace Sys2Proof.Machine

/-! ### The engine's own registers (R155, R156) -/

/-- A command whose meaning is an instruction on the engine's own registers. -/
theorem exec_sePure_at {s : State} {c : Instr} {n e opc w : Nat} {f : Nat → SE → SE} (hexec : exec c s = sePure opc n e f s)
    (h : SeAt s n e opc w) : ∃ t, exec c s = .next t ∧ SeFrame s t n e ∧
      getSE t n e = { f w { getSE s n e with pc := (getSE s n e).pc + 1 } with lastProg := s.tick, watched := false } := by
  rw [hexec]
  exact sePure_at h f

section illegal

variable {s : State} {n e : Nat} (hn : n < 4096) (he : e < 4) (hr : seReady s n e = true)
  (hl : sLegal s n (getSE s n e) (SGet 0#64 (getSE s n e).prog (getSE s n e).pc).toNat = false)
include hn he hr hl

/-- An illegal word stops the engine with cause 1, whichever instruction is asked for. -/
theorem exec_illegal {c : Instr} (hc : c ∈ [Instr.snop n e, .setm n e, .sets n e, .setc n e, .limit n e, .strm n e, .strc n e,
    .loop n e, .endl n e, .shape n e, .cfg n e, .wait n e, .endProg n e, .drain n e [] [], .sig n e]) :
    exec c s = .next (seFault s n e 1 0x0205) := by
  have hany {o : Host.Outcome State Fault Refusal} (opc : Nat) (f : Nat → State → State)
      (ho : o = onUnit (seOk n e) (seRun opc n e f s)) : o = .next (seFault s n e 1 0x0205) :=
    ho.trans (onSe_illegal hn he hr hl opc f)
  simp only [List.mem_cons, List.not_mem_nil, or_false] at hc
  rcases hc with rfl | rfl | rfl | rfl | rfl | rfl | rfl | rfl | rfl | rfl | rfl | rfl | rfl | rfl | rfl <;> exact hany _ _ rfl

theorem exec_fill_illegal (hdue : fillDue s n e = none) (lines : List Nat) :
    exec (.fill n e lines) s = .next (seFault s n e 1 0x0205) := by
  rw [exec_fill, execFill, hdue]
  exact onSe_illegal hn he hr hl _ _

end illegal

/-- Settles O15: each instruction by what the law of the engine's own registers makes of it, LIMIT, LOOP and ENDL by their two
branches. -/
theorem streamRegisterInstructions : Obligations.StreamRegisterInstructions := by
  rintro s n e w v rfl
  refine ⟨exec_sePure_at (exec_snop s), exec_sePure_at (exec_setm s), exec_sePure_at (exec_sets s), exec_sePure_at (exec_setc s),
    fun h => ?limit, exec_sePure_at (exec_strm s), exec_sePure_at (exec_strc s), fun h k hk => ?loop, fun h l hl => ?endl,
    exec_sePure_at (exec_shape s), exec_sePure_at (exec_cfg s), fun hn he hr hl c hc => exec_illegal hn he hr hl hc,
    fun hn he hr hl hdue lines => exec_fill_illegal hn he hr hl hdue lines⟩
  case limit =>
    obtain ⟨t, hexec, hframe, hse⟩ := exec_sePure_at (exec_limit s) h
    refine ⟨t, hexec, hframe, hse.trans ?_⟩
    cases bit w 57 <;> rfl
  case loop =>
    obtain ⟨t, hexec, hframe, hse⟩ := exec_sePure_at (exec_loop s) h
    dsimp only [SE.past, SE.par] at hse hk
    refine ⟨t, hexec, hframe, fun h0 => ?_, fun h0 => ?_⟩
    · rw [hse, if_pos (hk.symm.trans h0)]; rfl
    · rw [hse, if_neg (fun h => h0 (hk.trans h)), hk]; rfl
  case endl =>
    subst hl
    obtain ⟨t, hexec, hframe, hse⟩ := exec_sePure_at (exec_endl s) h
    dsimp only at hse
    refine ⟨t, hexec, hframe, fun hlt => ?_, fun hle => ?_⟩
    · rw [hse, if_pos (by exact hlt)]; rfl
    · rw [hse, if_neg (by exact Nat.not_lt.mpr hle)]; rfl

/-! ### What the frame of an engine keeps -/

theorem SeFrame.refl (s : State) (n e : Nat) : SeFrame s s n e := ⟨⟨rfl, fun _ _ => rfl⟩, rfl, fun _ _ => rfl⟩

/-- Of a core, the frame of one of its engines keeps what the other units use. -/
theorem SeFrame.core {s t : State} {n e : Nat} (h : SeFrame s t n e) : (getCore t n).spad = (getCore s n).spad ∧
    (getCore t n).ev = (getCore s n).ev ∧ (getCore t n).fin = (getCore s n).fin ∧ (getCore t n).fout = (getCore s n).fout := by
  obtain ⟨_, hcore, _⟩ := h
  rw [hcore]
  exact ⟨rfl, rfl, rfl, rfl⟩

/-- An engine that has changed and made progress. -/
theorem getSE_seMoved_modSE (s : State) (n e : Nat) (f : SE → SE) :
    getSE (seMoved (modSE s n e f) n e) n e = { f (getSE s n e) with lastProg := s.tick, watched := false } := by
  rw [getSE_seMoved, getSE_modSE]
  rfl

/-! ### Waits, the end of a program and the watchdog (R156, R163, R170) -/

/-- R156: the target of the event of a WAIT rises by its value. -/
theorem exec_wait_at {s : State} {n e w : Nat} (h : SeAt s n e 0x0F w) : exec (.wait n e) s = .next (modSE s n e (fun v => { v with
    g := SSet 0#16 v.g (sEv w) (SGet 0#16 v.g (sEv w) + BitVec.ofNat 16 (bits w 0 16)), state := .waiting })) := by
  rw [exec_wait, execWait, onSe_at h]

section unit

variable {s : State} {n e : Nat} (hn : n < 4096) (he : e < 4)
include hn he

theorem exec_streamWaitEnd_over (hstate : (getSE s n e).state = .waiting) (hheld : coreHeld s n = false)
    (hover : waitOver (getCore s n) (sEv (SGet 0#64 (getSE s n e).prog (getSE s n e).pc).toNat)
      (SGet 0#16 (getSE s n e).g (sEv (SGet 0#64 (getSE s n e).prog (getSE s n e).pc).toNat)) = true) :
    exec (.streamWaitEnd n e) s = .next (seMoved (modSE s n e (fun v => { v with state := .running, pc := v.pc + 1 })) n e) := by
  rw [exec_streamWaitEnd, execStreamWaitEnd, onUnit_known _ (seOk_of hn he), whenB_true _ _ (by simp [hstate, hheld, hover])]

theorem exec_sdone_ended (hstate : (getSE s n e).state = .running) (hend : (getSE s n e).atEnd = true)
    (hx : (getSE s n e).xfers = []) : exec (.sdone n e) s =
      .next (notice (seMoved (modSE s n e (fun v => { v with state := .done, atEnd := false })) n e) n 0x04 e) := by
  rw [exec_sdone, execSdone, onUnit_known _ (seOk_of hn he), whenB_true _ _ (by simp [hstate, hend, hx])]

theorem exec_swatch_due (hstate : (getSE s n e).state = .running ∨ (getSE s n e).state = .waiting)
    (hdue : (getSE s n e).lastProg + (getSE s n e).wdt ≤ s.tick) (hw : (getSE s n e).watched = false) :
    exec (.swatch n e) s = .next (notice (modSE s n e (fun v => { v with watched := true })) n 0x05 e) := by
  rw [exec_swatch, execSwatch, onUnit_known _ (seOk_of hn he), whenB_true _ _ (by simpa [hdue, hw] using hstate)]

end unit

/-! ### Signals (R162) -/

/-- The signal of a transfer leaves the engine's list and adds to its event counter. -/
def signalled (s : State) (n e : Nat) (x : Xfer) (r : List Xfer) : State :=
  modCore (modSE s n e (fun v => { v with xfers := r })) n (fun c => { c with
    ev := SSet 0#16 c.ev (sEv x.insn) (SGet 0#16 c.ev (sEv x.insn) + signalOf x) })

section signals

variable {s : State} {n e : Nat} {x : Xfer} {r : List Xfer}

theorem sendSignals_fin (k : Nat) (h : (getSE s n e).xfers = x :: r) (hx : x.fin = true) :
    sendSignals (k + 1) n e s = sendSignals k n e (signalled s n e x r) := by
  rw [sendSignals, h]
  exact if_pos hx

theorem sendSignals_open (k : Nat) (h : (getSE s n e).xfers = x :: r) (hx : x.fin = false) : sendSignals (k + 1) n e s = s := by
  rw [sendSignals, h]
  exact if_neg (ne_true_of_eq_false hx)

theorem getSE_signalled : getSE (signalled s n e x r) n e = { getSE s n e with xfers := r } := by
  simp [signalled, getSE, modSE, setSE]

theorem ev_signalled : (getCore (signalled s n e x r) n).ev =
    SSet 0#16 (getCore s n).ev (sEv x.insn) (SGet 0#16 (getCore s n).ev (sEv x.insn) + signalOf x) := by
  simp [signalled, modSE, setSE]

theorem coreOnly_signalled : CoreOnly s (signalled s n e x r) n :=
  coreOnly_trans (seFrame_modSE s n e _).1 (coreOnly_modCore _ n _)

end signals

section sig

variable {s : State} {n e w : Nat}

/-- The transfer that a SIG becomes: complete from its start. -/
def sigXfer (s : State) (n e w : Nat) : Xfer := { newXfer (getSE s n e) s.host.nextId .sig w with fin := true }

/-- A SIG with no transfer before it signals at once. -/
theorem exec_sig_first (h : SeAt s n e 0x0E w) (hx : (getSE s n e).xfers = []) : exec (.sig n e) s = .next (signalled
    (addXfer (modHost s (fun h => { h with nextId := h.nextId + 1 })) n e (sigXfer s n e w)) n e (sigXfer s n e w) []) := by
  have hlist : (getSE (addXfer (modHost s (fun h => { h with nextId := h.nextId + 1 })) n e (sigXfer s n e w)) n e).xfers =
      [sigXfer s n e w] := by
    rw [getSE_addXfer]
    exact congrArg (· ++ [sigXfer s n e w]) hx
  rw [exec_sig, execSig, onSe_at h]
  refine congrArg _ ((congrArg (fun k => sendSignals k n e _) (congrArg List.length hlist)).trans ?_)
  exact sendSignals_fin 0 hlist rfl

end sig

/-- Settles O16: each instruction by its next state; a SIG is the only transfer of its engine when none was there. -/
theorem streamWaitsAndEnds : Obligations.StreamWaitsAndEnds := by
  refine fun s n e w => ⟨fun h => ⟨_, exec_wait_at h, seFrame_modSE _ _ _ _, getSE_modSE _ _ _ _⟩,
    fun hn he hstate hheld hw hover => ?waitEnd, fun h => (exec_endProg s).trans (onSe_at h _),
    fun hn he hstate hend hx => ⟨_, exec_sdone_ended hn he hstate hend hx, seFrame_seMoved _ _ _ _, getSE_seMoved_modSE _ _ _ _⟩,
    fun hn he hstate hdue hw => exec_swatch_due hn he hstate hdue hw, fun h hx => ⟨_, exec_sig_first h hx, ?sig⟩⟩
  case waitEnd =>
    subst hw
    refine ⟨_, exec_streamWaitEnd_over hn he hstate hheld hover, seFrame_seMoved _ _ _ _, getSE_seMoved_modSE _ _ _ _⟩
  case sig =>
    have hev : sEv (sigXfer s n e w).insn = sEv w := rfl
    have hframe := seFrame_addXfer (modHost s (fun h => { h with nextId := h.nextId + 1 })) n e (sigXfer s n e w)
    have hkept : (getCore (addXfer (modHost s (fun h => { h with nextId := h.nextId + 1 })) n e (sigXfer s n e w)) n).ev =
      (getCore s n).ev := hframe.core.2.1
    refine ⟨?_, fun k hk => ?_, ?_, coreOnly_trans hframe.1 coreOnly_signalled⟩
    · rw [ev_signalled, hev, SGet_SSet_self, hkept]; rfl
    · rw [ev_signalled, hev, SGet_SSet_ne _ _ _ hk, hkept]
    · rw [getSE_signalled, getSE_addXfer, ← hx]; rfl

end Sys2Proof.Machine
end

section
/-! Control messages of the stream engines (R153, R154, R172, R182 to R184, R187). -/

namespace Sys2Proof.Machine

/-! ### Reads of an engine after its message was taken -/

theorem getSE_tinDrop (s : State) (m : Tin) (n e : Nat) : getSE (tinDrop s m) n e = getSE s n e := by
  unfold tinDrop
  dsimp only
  split <;> rfl

/-- A field that has been applied leaves the fences and the units away as they were. -/
theorem outOfService_seApplied (s : State) (m : Tin) (gone : List Nat) (u n : Nat) :
    outOfService (seApplied s m gone) u n = outOfService s u n := by
  unfold seApplied
  dsimp only
  split
  · exact outOfService_tinDrop s m u n
  · rfl

/-! ### A stopped engine is loaded (R153, R182) -/

section load

variable {s : State} {src dst e : Nat} {m : Tin} (hdst : isCore dst) (hm : winHead s 0x08 src dst = some m)
include hdst hm

theorem exec_seLoad_bad : exec (.seLoad src dst true) s = .next (tinBad s m) := by
  rw [exec_seLoad, execSeLoad, hm]
  exact onUnit_known _ hdst

theorem exec_seLoad_stopped (he : e = m.arg % 4) (hserves : outOfService (tinDrop s m) utCore dst = false)
    (hstop : (getSE s dst e).state.live = false) : exec (.seLoad src dst false) s =
      .next (modSE (tinDrop s m) dst e (fun v => { v with prog := (List.range (m.data.length / 8)).foldl (fun p i =>
        SSet 0#64 p (bits m.arg 8 5 + i) (BitVec.ofNat 64 (fld m.data (8 * i) 8))) v.prog })) := by
  subst he
  rw [exec_seLoad, execSeLoad, hm]
  refine (onUnit_known _ hdst).trans (congrArg _ ?_)
  dsimp only
  rw [if_neg Bool.false_ne_true, getSE_tinDrop, ← outOfService_tinDrop s m, hserves, hstop, if_neg (by decide)]

end load

/-! ### Control messages (R172, R183, R187) -/

section control

variable {s : State} {src dst : Nat} {m : Tin} (hdst : isCore dst) (hm : seCtl s src dst = some m)
include hdst hm

theorem seField_bad (b : Nat) (f : Tin → Nat → State → State) : seField b src dst true f s = .next (tinBad s m) := by
  rw [seField, hm]
  exact onUnit_known _ hdst

/-- The field whose turn has come takes its effect on the engine that the message names. -/
theorem seField_turn {b : Nat} (f : Tin → Nat → State → State) (hb : seNext m.arg = some b) {u : State}
    (hu : u = seApplied s m (if b = 9 then [9, 8] else [b])) (hserves : outOfService u utCore dst = false) :
    seField b src dst false f s = .next (f m (m.arg % 4) u) := by
  subst hu
  rw [seField, hm]
  refine (onUnit_known _ hdst).trans (congrArg _ ?_)
  dsimp only
  rw [if_neg Bool.false_ne_true, hb, if_neg (by simp), if_neg (by simp), ← outOfService_seApplied, hserves, if_neg Bool.false_ne_true]

end control

theorem seFrame_seStart (s : State) (n e : Nat) : SeFrame s (seStart s n e) n e := by
  unfold seStart
  exact seFrame_modSE s n e _

theorem getSE_seStart {s : State} {n e : Nat} (h : (getSE s n e).state.live = false) : getSE (seStart s n e) n e =
    { getSE s n e with
      pc := 0, m := 0, s := 0, y := 0, x := 0, ylim := 0, xlim := 0, levels := [], opens := [], g := (getCore s n).ev
      state := .running, cause := 0, xfers := [], lastProg := s.tick, watched := false, atEnd := false, pendingStart := false } := by
  rw [seStart, getSE_modSE, h]
  rfl

/-- A START leaves a running engine as it is. -/
theorem seStart_live {s : State} {n e : Nat} (h : (getSE s n e).state.live = true) :
    seStart s n e = setSE s n e (getSE s n e) := by
  rw [seStart, modSE, if_pos h]

/-! ### An abort (R172) -/

/-- The transfers that have a read outstanding. -/
theorem outst_filter_out (v : SE) : ((v.xfers.filter (fun x => x.out != 0)).map (·.out)).sum = v.outst := by
  rw [SE.outst]
  induction v.xfers with
  | nil => rfl
  | cons x xs ih =>
    rw [List.filter_cons]
    cases h : x.out != 0
    · simpa [show x.out = 0 by simpa using h] using ih
    · simpa using ih

theorem filter_out_eq_nil_iff (v : SE) : v.xfers.filter (fun x => x.out != 0) = [] ↔ v.outst = 0 := by
  refine ⟨fun h => by rw [← outst_filter_out, h]; rfl, fun h => List.filter_eq_nil_iff.mpr fun x hx => ?_⟩
  have := List.sum_eq_zero_iff.mp h x.out (List.mem_map_of_mem hx)
  simp [this]

theorem seAbort_live {v : SE} (h : v.state = .running ∨ v.state = .waiting) : seAbort v = { v with
    xfers := v.xfers.filter (fun x => x.out != 0)
    state := if (v.xfers.filter (fun x => x.out != 0)).isEmpty then .aborted else .aborting
    pendingStart := false } := by
  rcases h with h | h <;> simp only [seAbort, h]

theorem seAbort_idle {v : SE} (h : v.state = .running ∨ v.state = .waiting) (hout : v.outst = 0) :
    seAbort v = { v with xfers := [], state := .aborted, pendingStart := false } := by
  rw [seAbort_live h, (filter_out_eq_nil_iff v).mpr hout]
  rfl

theorem seAbort_outstanding {v : SE} (h : v.state = .running ∨ v.state = .waiting) (hout : v.outst ≠ 0) :
    (seAbort v).state = .aborting ∧ (seAbort v).outst = v.outst := by
  rw [seAbort_live h]
  exact ⟨if_neg (fun he => hout ((filter_out_eq_nil_iff v).mp (List.isEmpty_iff.mp he))), outst_filter_out v⟩

/-- Settles O14: a load by its writes, each field of a control message by its effect when its turn has come. -/
theorem streamControl : Obligations.StreamControl := by
  refine ⟨fun s src dst e m hdst he hm hserves hstop => ⟨exec_seLoad_bad hdst hm, _, exec_seLoad_stopped hdst hm he hserves hstop,
      seFrame_modSE _ _ _ _, ?load⟩, fun s src dst m hdst hm c hc => ?bad,
    fun v hv => ⟨seAbort_idle hv, seAbort_outstanding hv⟩, fun s u src dst e m hdst he hm => ?fields,
    fun s n e hn he hstate hout => ?aborted⟩
  case load =>
    rw [getSE_modSE, getSE_tinDrop]
    exact ⟨rfl, fun i hi => SGet_foldRange_at 0#64 (bits m.arg 8 5) (fun i => BitVec.ofNat 64 (fld m.data (8 * i) 8)) _ _ hi,
      fun j hj => SGet_foldRange_ne 0#64 (bits m.arg 8 5) (fun i => BitVec.ofNat 64 (fld m.data (8 * i) 8)) _ _ hj⟩
  case bad =>
    simp only [List.mem_cons, List.not_mem_nil, or_false] at hc
    rcases hc with rfl | rfl | rfl | rfl | rfl
    · exact (exec_seSetwd s).trans (seField_bad hdst hm _ _)
    · exact (exec_seSetp s).trans (seField_bad hdst hm _ _)
    · exact (exec_seAbort s).trans (seField_bad hdst hm _ _)
    · exact (exec_seStart s).trans (seField_bad hdst hm _ _)
    · exact (exec_seQuery s).trans (seField_bad hdst hm _ _)
  case fields =>
    subst he
    refine ⟨fun hb hu hs => (exec_seSetwd s).trans (seField_turn hdst hm _ hb hu hs),
      fun hb hu hs => ⟨_, (exec_seSetp s).trans (seField_turn hdst hm _ hb hu hs), seFrame_modSE _ _ _ _, ?setp⟩,
      fun hb hu hs => (exec_seAbort s).trans (seField_turn hdst hm _ hb hu hs), fun hb hu hs => ?start,
      fun hb hu hs => (exec_seQuery s).trans (seField_turn hdst hm _ hb hu hs)⟩
    case setp =>
      rw [getSE_modSE]
      refine ⟨rfl, fun i hi => ?_⟩
      simpa using SGet_foldRange_at 0#64 0 (fun i => BitVec.ofNat 64 (fld m.data (8 * i) 8)) (getSE u dst (m.arg % 4)).p 8 hi
    case start =>
      have hexec := (exec_seStart s).trans (seField_turn hdst hm _ hb hu hs)
      refine ⟨fun hheld hstop => ⟨seStart u dst (m.arg % 4), ?_, seFrame_seStart _ _ _, getSE_seStart hstop⟩, fun hheld hlive => ?_,
        fun hheld hstop => ⟨_, hexec.trans (congrArg _ (if_pos hheld)), seFrame_modSE _ _ _ _, ?_⟩⟩
      · exact hexec.trans (congrArg _ (if_neg (ne_true_of_eq_false hheld)))
      · exact hexec.trans (congrArg _ ((if_neg (ne_true_of_eq_false hheld)).trans (seStart_live hlive)))
      · rw [getSE_modSE, hstop]; rfl
  case aborted =>
    rw [exec_seAborted, execSeAborted, onUnit_known _ (by simpa [coreOk, isCore, he] using hn), whenB_true _ _ (by simp [hstate, hout])]

end Sys2Proof.Machine
end

section
/-! Mailboxes: messages sent, taken and received (R187, R323 to R325). -/

namespace Sys2Proof.Machine

/-- Taking a message off the network touches the engines' part alone. -/
theorem tinDrop_rest (s : State) (m : Tin) : tinDrop s m = { s with eng := (tinDrop s m).eng } := by
  unfold tinDrop
  dsimp only
  split <;> rfl

/-! ### The host's commands (R323, R325) -/

section sends

variable {s : State} {fn ch : Nat} (hfn : fn < 17) (hch : ch < 32) (hreach : hostReach s fn = true)
include hfn hch hreach

theorem exec_mbpop_bound (hv : bindValid s ch = true) (hr : bindRcv s ch = fn) : exec (.mbpop fn ch) s = .next (mbTake s ch) := by
  rw [exec_mbpop, execMbpop, onUnit_known _ (decide_eq_true ⟨hfn, hch⟩), whenB_true _ _ (by simp [hreach, hv, hr])]

theorem exec_txsend_dropped (v : Dword) (h : mbDropped s fn ch = true) : exec (.txsend fn ch v) s = .next (setErrCh s fn 4 ch) := by
  rw [exec_txsend, execTxsend, onUnit_known _ (decide_eq_true ⟨hfn, hch⟩), whenB_true _ _ hreach, if_pos h]

/-- A message that is sent holds the bytes written at 56, and goes to the host's queue or into the module. -/
theorem exec_txsend_sent (v : Dword) (h : mbDropped s fn ch = false) : exec (.txsend fn ch v) s = .next
    (if bindRcv s ch ≤ 0x10 then mbHost (mbPut s fn ch 56 v) (bindRcv s ch) ch (mbBuf (mbPut s fn ch 56 v) fn ch)
      else tinSend (mbPut s fn ch 56 v) (mbTin 0x1100 ch (mbEndpoint (bindRcv s ch)) (fn - 1) (mbBuf (mbPut s fn ch 56 v) fn ch))) := by
  rw [exec_txsend, execTxsend, onUnit_known _ (decide_eq_true ⟨hfn, hch⟩), whenB_true _ _ hreach,
    if_neg (ne_true_of_eq_false h)]

end sends

theorem mbDropped_iff {s : State} {fn ch : Nat} : mbDropped s fn ch = true ↔
    bindValid s ch = false ∨ bindSnd s ch ≠ fn ∨ masterDown s (bindRcv s ch) = true := by
  simp only [mbDropped, Bool.or_eq_true, Bool.not_eq_true', bne_iff_ne, or_assoc]

/-- A buffer that was written is read back. -/
theorem mbBuf_mbPut (s : State) (fn ch off : Nat) (v : Dword) : mbBuf (mbPut s fn ch off v) fn ch =
    (mbBuf s fn ch).take off ++ leBytes 8 v.toNat ++ (mbBuf s fn ch).drop (off + 8) := by
  rw [mbBuf, mbPut, modHost_host, SGet_SSet_self]
  exact if_neg (by simp [leBytes])

/-! ### Arrivals (R324) -/

section arrivals

variable {s : State} {fn ch : Nat} {msg : List Byte}

theorem mbHost_full (h : 4 ≤ (SGet [] s.host.mbRx ch).length) : mbHost s fn ch msg = setErrCh s fn 5 ch := if_pos h

theorem sendVec_mbRx (s : State) (fn v : Nat) : (sendVec s fn v).host.mbRx = s.host.mbRx := by
  unfold sendVec
  dsimp only
  split <;> rfl

theorem mbHost_mbRx (h : (SGet [] s.host.mbRx ch).length < 4) :
    (mbHost s fn ch msg).host.mbRx = SSet [] s.host.mbRx ch (SGet [] s.host.mbRx ch ++ [msg]) := by
  unfold mbHost
  rw [if_neg (Nat.not_le.mpr h)]
  dsimp only
  split
  · exact sendVec_mbRx _ _ _
  · rfl

theorem mbInner_room (h : (SGet [] s.host.mbRx ch).length < 4) : mbInner s ch msg =
    { s with host := { s.host with mbRx := SSet [] s.host.mbRx ch (SGet [] s.host.mbRx ch ++ [msg]) } } := by
  rw [mbInner, modHost, if_neg (Nat.not_le.mpr h)]

theorem mbInner_full (h : 4 ≤ (SGet [] s.host.mbRx ch).length) : mbInner s ch msg =
    { s with host := { s.host with mbLoss := SSet 0 s.host.mbLoss ch (SGet 0 s.host.mbLoss ch + 1) } } := by
  rw [mbInner, modHost, if_pos h]

end arrivals

section delivery

variable {s : State} {src dst : Nat} {m : Tin} (hm : winHead s 0x0C src dst = some m)
include hm

theorem exec_mbox_bad (hlo : 0x1040 ≤ dst) (hhi : dst < 0x1105) : exec (.mbox src dst true) s = .next (tinBad s m) := by
  rw [exec_mbox, execMbox, hm]
  refine (onUnit_known _ (decide_eq_true hhi)).trans (congrArg _ ?_)
  dsimp only
  rw [if_neg (by omega), if_pos rfl]

theorem exec_mbox_inner (hdst : dst = 0x1102 ∨ dst = 0x1103) :
    exec (.mbox src dst false) s = .next (mbInner (tinDrop s m) m.arg m.data) := by
  rw [exec_mbox, execMbox, hm]
  refine (onUnit_known _ (decide_eq_true (by omega))).trans (congrArg _ ?_)
  dsimp only
  rw [if_neg (by omega), if_neg Bool.false_ne_true, if_neg (by omega), if_pos hdst]

theorem exec_mbox_host (hdst : dst = 0x1100) (hr : bindRcv s m.arg ≤ 0x10) :
    exec (.mbox src dst false) s = .next (mbHost (tinDrop s m) (bindRcv s m.arg) m.arg m.data) := by
  have hsame : bindRcv (tinDrop s m) m.arg = bindRcv s m.arg := by rw [tinDrop_rest]; rfl
  subst hdst
  rw [exec_mbox, execMbox, hm]
  refine (onUnit_known _ (decide_eq_true (by decide))).trans (congrArg _ ?_)
  dsimp only
  rw [if_neg (by decide), if_neg Bool.false_ne_true, if_pos rfl, hsame, if_pos hr]

end delivery

/-- The message at the head of the way to a Cobalt core, when it is of the type. -/
theorem winHead_of_front {s : State} {typ src dst : Nat} {m : Tin} (h : tinFront s false src dst = some m) (ht : m.typ = typ) :
    winHead s typ src dst = some m := by
  rw [winHead, h]
  exact if_pos (beq_iff_eq.mpr ht)

section cobalt

variable {s : State} {src n : Nat} {m : Tin} (hn : n < 64) (hm : tinFront s false src (0x1000 + n) = some m) (ht : m.typ = 0x0C)
include hn hm ht

/-- To a Cobalt core a mailbox message goes as every message does. -/
theorem exec_mbox_cobalt (bad : Bool) : exec (.mbox src (0x1000 + n) bad) s = onUnit (cobDst (0x1000 + n))
    (deliverCob false 0x0C src (0x1000 + n) bad (fun n s m =>
      if 4 ≤ mbHeld s n m.arg then modHost s (fun h => { h with mbLoss := SSet 0 h.mbLoss m.arg (SGet 0 h.mbLoss m.arg + 1) })
      else rxArrive s n m) s) := by
  rw [exec_mbox, execMbox, winHead_of_front hm ht]
  exact congrArg _ (if_pos (by omega))

variable (hroom : (getCob s n).rxq.length < 64)
include hroom

theorem exec_mbox_cobalt_bad : exec (.mbox src (0x1000 + n) true) s = .next (tinBad s m) := by
  rw [exec_mbox_cobalt hn hm ht]
  exact deliverCob_bad (by omega) (by omega) hm (by simpa using hroom) ht _

theorem exec_mbox_cobalt_sound : exec (.mbox src (0x1000 + n) false) s = .next (if 4 ≤ mbHeld (tinDrop s m) n m.arg
    then modHost (tinDrop s m) (fun h => { h with mbLoss := SSet 0 h.mbLoss m.arg (SGet 0 h.mbLoss m.arg + 1) })
    else rxArrive (tinDrop s m) n m) := by
  rw [exec_mbox_cobalt hn hm ht, deliverCob_sound (by omega) (by omega) hm (by simpa using hroom) ht, Nat.add_sub_cancel_left]

end cobalt

/-- Settles O40: what each command sends, takes or delivers, by the receiver's queue. -/
theorem mailboxMessages : Obligations.MailboxMessages := by
  refine ⟨fun s fn ch hfn hch hreach hv hr => ⟨_, exec_mbpop_bound hfn hch hreach hv hr, SGet_SSet_self _ _ _ _,
      fun k hk => SGet_SSet_ne _ _ _ hk, rfl⟩,
    fun s fn ch v hfn hch hreach => ⟨fun h => exec_txsend_dropped hfn hch hreach v (mbDropped_iff.mpr h),
      fun r msg u hv hsnd hr hup hmsg hu => ?sent⟩,
    fun s src dst m hdst hm => ⟨_, exec_mbox_inner hm hdst, ?inner⟩,
    fun s src dst m hdst hm => ⟨exec_mbox_bad hm (by omega) (by omega), fun hd hr => exec_mbox_host hm hd hr⟩,
    fun s src n m hn hm ht hroom => ⟨exec_mbox_cobalt_bad hn hm ht hroom, fun h => ?_, fun h => ?_⟩⟩
  case sent =>
    subst hr
    have hno : mbDropped s fn ch = false := by
      rw [Bool.eq_false_iff, Ne, mbDropped_iff]
      simp [hv, hsnd, hup]
    have hexec := exec_txsend_sent hfn hch hreach v hno
    rw [mbBuf_mbPut, ← hmsg, show mbPut s fn ch 56 v = u by rw [hu, hmsg]; rfl] at hexec
    have hrx : u.host.mbRx = s.host.mbRx := by rw [hu]; rfl
    refine ⟨fun hhost hlen => ⟨_, hexec.trans (congrArg _ (if_pos hhost)), ?_⟩, fun hhost hfull => ?_, fun hin => ?_⟩
    · rw [mbHost_mbRx (by rwa [hrx]), SGet_SSet_self, hrx]
    · rw [hexec, if_pos hhost, mbHost_full (by rwa [hrx])]
    · exact ⟨_, hexec.trans (congrArg _ (if_neg (Nat.not_le.mpr hin))), rfl, rfl, rfl, rfl⟩
  case inner =>
    have hhost : (tinDrop s m).host = s.host := by rw [tinDrop_rest]
    refine ⟨by rw [mbInner, modHost_parts, tinDrop_rest], by rw [mbInner, modHost_mem, tinDrop_rest], fun hroom => ?_, fun hfull => ?_⟩
    · rw [mbInner_room (by rwa [hhost]), hhost]
      exact ⟨rfl, SGet_SSet_self _ _ _ _⟩
    · rw [mbInner_full (by rwa [hhost]), hhost]
      exact ⟨rfl, by dsimp only; rw [SGet_SSet_self]⟩
  · rw [exec_mbox_cobalt_sound hn hm ht hroom, if_neg (Nat.not_le.mpr h)]
  · rw [exec_mbox_cobalt_sound hn hm ht hroom, if_pos h]

end Sys2Proof.Machine
end

section
/-! The device rows of LPDDR6: what an activation and targeted refreshes leave (R273, R274), and a slice that has written back
(R179). -/

namespace Sys2Proof.Machine

/-- Of the module only the rows' counters, the rows due and the windows differ. -/
def RowsOnly (s t : State) : Prop :=
  t = { s with mem := { s.mem with rows := t.mem.rows, due := t.mem.due, window := t.mem.window } }

theorem RowsOnly.refl (s : State) : RowsOnly s s := rfl

theorem RowsOnly.trans {s t u : State} (h : RowsOnly s t) (k : RowsOnly t u) : RowsOnly s u := by
  unfold RowsOnly at *
  rw [k, h]

theorem RowsOnly.foldl {α : Type} {g : State → α → State} (hg : ∀ s x, RowsOnly s (g s x)) (l : List α) (s : State) :
    RowsOnly s (l.foldl g s) :=
  List.foldlRecOn (motive := fun t => RowsOnly s t) l g (.refl s) fun t ht x _ => ht.trans (hg t x)

theorem targeted_rowsOnly (s : State) (b r : Nat) : RowsOnly s (targeted s b r) := by
  unfold targeted
  dsimp only
  split
  · exact .refl s
  · rfl

theorem activate_rowsOnly (s : State) (off : Nat) : RowsOnly s (activate s off) := by
  unfold activate
  dsimp only
  split
  · rfl
  · refine .trans ?_ (targeted_rowsOnly _ _ _)
    rfl

theorem issueDue_rowsOnly (s : State) (b : Nat) : RowsOnly s (issueDue s b) :=
  RowsOnly.foldl (fun t r => targeted_rowsOnly t b r) _ s

/-- A slice that has left service writes its dirty lines back and has none left. -/
theorem exec_sliceWritebackDone_left {s : State} {g : Nat} (hg : g < 48) (hserves : sliceServes s g = false) :
    exec (.sliceWritebackDone g []) s = .next (clearSlice ((dirtyLines s g).foldl activate s) g) := by
  rw [exec_sliceWritebackDone, execSliceWritebackDone, onUnit_known _ (decide_eq_true hg), whenB_true _ _ (by rw [hserves]; rfl)]
  rfl

end Sys2Proof.Machine
end

section
/-! FEED and COLLECT of the stream engines (R158 to R160, R163, R164). -/

namespace Sys2Proof.Machine

/-! ### The instructions start -/

section starts

variable {s : State} {n e w : Nat}

theorem exec_feed_start (h : SeAt s n e 0x0C w) (hnone : movable s n e .feed (feedLanes s n e) = none) (upset : List (Nat × Nat)) :
    exec (.feed n e upset) s = .next (addXfer (modHost s (fun h => { h with nextId := h.nextId + 1 })) n e
      (newXfer (getSE s n e) s.host.nextId .feed w)) := by
  rw [exec_feed, execFeed, hnone]
  exact onSe_at h _

theorem exec_collect_start (h : SeAt s n e 0x0D w) (hnone : movable s n e .collect (collectLanes s n e) = none) :
    exec (.collect n e) s = .next (addXfer (modHost s (fun h => { h with nextId := h.nextId + 1 })) n e
      (newXfer (getSE s n e) s.host.nextId .collect w)) := by
  rw [exec_collect, execCollect, hnone]
  exact onSe_at h _

/-- What the start of a transfer leaves: the scratchpad, memory and the partitions as they were, and the transfer in its list. -/
theorem addXfer_started (s : State) (n e : Nat) (x : Xfer) (f : HostIf → HostIf) :
    (addXfer (modHost s f) n e x).mem = s.mem ∧ (addXfer (modHost s f) n e x).parts = s.parts ∧
    (getCore (addXfer (modHost s f) n e x) n).spad = (getCore s n).spad ∧
    getSE (addXfer (modHost s f) n e x) n e = { (getSE s n e).past s.tick with xfers := (getSE s n e).xfers ++ [x] } :=
  ⟨rfl, rfl, (seFrame_addXfer (modHost s f) n e x).core.1, getSE_addXfer _ _ _ _⟩

end starts

/-! ### A beat moves -/

/-- The state after the words of a FEED's beat were read, with one item more on every lane that has room. -/
def fed (s : State) (n e : Nat) (x : Xfer) (upset : List (Nat × Nat)) : State :=
  modCore (upsets s n upset ((feedLanes s n e x).map (·.2))).1 n (fun k => { k with
    fin := (feedLanes s n e x).foldl (fun m l => SSet [] m (16 * e + l.1) (SGet [] m (16 * e + l.1) ++
      [feedItem x (x.beat l.1) (spadGet (getCore s n) l.2)])) k.fin })

/-- The core and the transfer after a COLLECT took the first item of every lane that holds one. -/
def collected (s : State) (n e : Nat) (x : Xfer) : Core × Xfer :=
  (collectLanes s n e x).foldl (fun a l => collectLane e a.1 a.2 l) (getCore s n, x)

section beats

variable {s : State} {n e : Nat} {x : Xfer}

section feed

variable {upset : List (Nat × Nat)} (hupset : ∀ u ∈ upset, u.2 < 2)
include hupset

theorem exec_feed_beat (hn : n < 4096) (he : e < 4) (hx : movable s n e .feed (feedLanes s n e) = some x)
    (hacc : firstAcc (readAcc (getCore s n) 36) ((feedLanes s n e x).map (·.2)) = .ok) : exec (.feed n e upset) s =
      .next (seMoved (modXfer (fed s n e x upset) n e x.id (fun y => { y with
        beats := (feedLanes s n e x).foldl (fun m l => SSet 0 m l.1 (SGet 0 m l.1 + 1)) y.beats })) n e) := by
  obtain ⟨hcorrected, -⟩ := upsets_corrected s n upset ((feedLanes s n e x).map (·.2)) hupset
  rw [exec_feed, execFeed, hx]
  refine (onUnit_known _ (seOk_of hn he)).trans (congrArg _ ?_)
  dsimp only
  unfold feedBeat
  dsimp only
  rw [hacc, hcorrected]
  rfl

/-- A beat's reads and items touch its core alone, of it the scratchpad not at all. -/
theorem fed_core : CoreOnly s (fed s n e x upset) n ∧ (getCore (fed s n e x upset) n).spad = (getCore s n).spad ∧
    (getCore (fed s n e x upset) n).fin = (feedLanes s n e x).foldl (fun m l => SSet [] m (16 * e + l.1) (SGet [] m (16 * e + l.1) ++
      [feedItem x (x.beat l.1) (spadGet (getCore s n) l.2)])) (getCore s n).fin := by
  obtain ⟨-, honly, _, hcore⟩ := upsets_corrected s n upset ((feedLanes s n e x).map (·.2)) hupset
  refine ⟨coreOnly_trans honly (coreOnly_modCore _ n _), ?_, ?_⟩ <;> rw [fed, getCore_modCore, hcore]

end feed

theorem exec_collect_beat (hn : n < 4096) (he : e < 4) (hx : movable s n e .collect (collectLanes s n e) = some x)
    (hacc : firstAcc (writeAcc (getCore s n) 37) ((collectLanes s n e x).map (·.2)) = .ok) : exec (.collect n e) s =
      .next (seMoved (modXfer (setCore s n (collected s n e x).1) n e x.id (fun _ => (collected s n e x).2)) n e) := by
  rw [exec_collect, execCollect, hx]
  refine (onUnit_known _ (seOk_of hn he)).trans (congrArg _ ?_)
  dsimp only
  unfold collectBeat
  dsimp only
  rw [hacc]
  rfl

end beats

theorem coreOnly_setCore (s : State) (n : Nat) (c : Core) : CoreOnly s (setCore s n c) n :=
  ⟨rfl, fun _ h => getCore_setCore_ne _ _ h⟩

theorem seFrame_modXfer (s : State) (n e id : Nat) (f : Xfer → Xfer) : SeFrame s (seMoved (modXfer s n e id f) n e) n e :=
  seFrame_seMoved s n e _

/-- An entry of a list whose entries of a key were replaced. -/
theorem eq_of_mem_updateWhere {α : Type} {p : α → Bool} {v y : α} {xs : List α} (hy : y ∈ updateWhere p (fun _ => v) xs)
    (hp : p y = true) : y = v := by
  obtain ⟨z, -, hz⟩ := List.mem_map.mp hy
  split at hz
  next => exact hz.symm
  next hno => exact absurd (hz ▸ hp) hno

/-! ### One lane of a COLLECT (R160) -/

section lane

variable {e : Nat} {c : Core} {x : Xfer} {i a : Nat} {it : Item} {r : List Item} (h : SGet [] c.fout (16 * e + i) = it :: r)
include h

theorem collectLane_item : collectLane e c x (i, a) =
    ({ spadPut c a it.pay with fout := SSet [] c.fout (16 * e + i) r }, { x with
      beats := SSet 0 x.beats i (x.beat i + 1)
      flags := if decide (x.y + x.beat i < x.ylim ∧ x.x + i < x.xlim) then
        SSet 0 x.flags (rowTagOf c x (x.beat i)) (SGet 0 x.flags (rowTagOf c x (x.beat i)) ||| it.flg) else x.flags }) := by
  rw [collectLane, h]

theorem spadGet_collectLane : spadGet (collectLane e c x (i, a)).1 a = it.pay % 2 ^ 32 := by
  rw [collectLane_item h]
  show (SGet 0#32 (spadPut c a it.pay).spad a).toNat = _
  rw [spad_spadPut, SGet_SSet_self, BitVec.toNat_ofNat]

theorem collectLane_rest : SGet [] (collectLane e c x (i, a)).1.fout (16 * e + i) = r ∧
    (collectLane e c x (i, a)).2.beat i = x.beat i + 1 ∧
    (collectLane e c x (i, a)).2.flags = if x.y + x.beat i < x.ylim ∧ x.x + i < x.xlim then
      SSet 0 x.flags (rowTagOf c x (x.beat i)) (SGet 0 x.flags (rowTagOf c x (x.beat i)) ||| it.flg) else x.flags := by
  rw [collectLane_item h]
  refine ⟨SGet_SSet_self _ _ _ _, by simp only [Xfer.beat, SGet_SSet_self], by simp only [decide_eq_true_eq]⟩

end lane

/-- Settles O18: a start by its new transfer, a beat by what it leaves of its core, a lane by the item it takes. -/
theorem streamPorts : Obligations.StreamPorts := by
  refine fun s n e w x => ⟨fun h hnone hx upset => ⟨_, exec_feed_start h hnone upset, hx ▸ addXfer_started s n e _ _⟩,
    fun h hnone hx => ⟨_, exec_collect_start h hnone, hx ▸ addXfer_started s n e _ _⟩,
    fun hn he hx hacc upset hupset => ⟨_, exec_feed_beat hupset hn he hx hacc, ?feed⟩,
    fun hn he hx hacc => ⟨_, collected s n e x, exec_collect_beat hn he hx hacc, ?collect⟩,
    fun c i a it r h => ⟨spadGet_collectLane h, collectLane_rest h⟩⟩
  case feed =>
    obtain ⟨honly, hspad, hfin⟩ := fed_core (s := s) (n := n) (e := e) (x := x) hupset
    have hframe := seFrame_modXfer (fed s n e x upset) n e x.id (fun y => { y with
      beats := (feedLanes s n e x).foldl (fun m l => SSet 0 m l.1 (SGet 0 m l.1 + 1)) y.beats })
    obtain ⟨hstate, hothers⟩ := coreOnly_trans honly hframe.1
    exact ⟨by rw [hstate], by rw [hstate], by rw [hstate], hframe.core.1.trans hspad, hframe.core.2.2.1.trans hfin, hothers⟩
  case collect =>
    have hframe := seFrame_modXfer (setCore s n (collected s n e x).1) n e x.id (fun _ => (collected s n e x).2)
    obtain ⟨hstate, hothers⟩ := coreOnly_trans (coreOnly_setCore s n (collected s n e x).1) hframe.1
    obtain ⟨hspad, -, -, hfout⟩ := hframe.core
    rw [getCore_setCore] at hspad hfout
    refine ⟨by rw [hstate], by rw [hstate], by rw [hstate], rfl, hspad, hfout, fun y hy hid _ => ?_, hothers⟩
    rw [modXfer, getSE_seMoved_modSE] at hy
    exact eq_of_mem_updateWhere hy (beq_iff_eq.mpr hid)

end Sys2Proof.Machine
end

section
/-! The end of a transfer: what a FILL has written, signals, lost blocks, and a slice that has written back (R157, R162, R167,
R171, R178, R179). -/

namespace Sys2Proof.Machine

/-! ### The bytes of a FILL (R157, R158) -/

/-- The in-extent bytes of row `r` as they came: of tier 1 from memory, of another tier in row order. -/
def fillBytes (s : State) (n : Nat) (x : Xfer) (r : Nat) : List Byte :=
  if tier1 s n x then gGet s (partOfCore s n) (imgSlotOf s n) (x.rowAddr r) (x.inBytes r)
  else (x.got.drop ((List.range r).map x.inBytes).sum).take (x.inBytes r)

/-- Bytes dealt out row by row, after `k` rows. -/
theorem foldl_deal (f : Nat → Nat) (got : List Byte) (k : Nat) :
    (List.range k).foldl (fun a r => (a.1 ++ [(r, a.2.take (f r))], a.2.drop (f r))) (([] : List (Nat × List Byte)), got) =
      ((List.range k).map (fun r => (r, (got.drop ((List.range r).map f).sum).take (f r))), got.drop ((List.range k).map f).sum) := by
  induction k with
  | zero => rfl
  | succ k ih => simp [List.range_succ, List.foldl_append, ih]

theorem fillData_eq (s : State) (n : Nat) (x : Xfer) : fillData s n x = (List.range x.shape.nrow).map (fun r => (r, fillBytes s n x r)) := by
  unfold fillData fillBytes
  split
  · rfl
  · rw [foldl_deal]

theorem mem_fillData_iff {s : State} {n : Nat} {x : Xfer} {r : Nat} {bs : List Byte} :
    (r, bs) ∈ fillData s n x ↔ r < x.shape.nrow ∧ bs = fillBytes s n x r := by
  rw [fillData_eq, List.mem_map]
  constructor
  · rintro ⟨q, hq, heq⟩
    obtain ⟨rfl, rfl⟩ := Prod.mk.inj heq
    exact ⟨List.mem_range.mp hq, rfl⟩
  · rintro ⟨hr, rfl⟩
    exact ⟨r, List.mem_range.mpr hr, rfl⟩

/-! ### The words of a FILL -/

/-- The words that a FILL of `nw` words a row writes, with their places. -/
def fillWords (s : State) (n : Nat) (x : Xfer) : List (Nat × Nat) :=
  ((fillData s n x).map (fun d => (d.1, fillRow x d.1 d.2))).flatMap (fun d =>
    (List.range (ceilDiv x.shape.rowBytes 4)).map (fun i => (x.s + d.1 * x.shape.sp + i, fld d.2 (4 * i) 4)))

theorem mem_fillWords_iff {s : State} {n : Nat} {x : Xfer} {z : Nat × Nat} : z ∈ fillWords s n x ↔
    ∃ r < x.shape.nrow, ∃ i < ceilDiv x.shape.rowBytes 4,
      z = (x.s + r * x.shape.sp + i, fld (fillRow x r (fillBytes s n x r)) (4 * i) 4) := by
  simp only [fillWords, fillData_eq, List.map_map, List.mem_flatMap, List.mem_map, List.mem_range, Function.comp]
  constructor
  · rintro ⟨_, ⟨r, hr, rfl⟩, i, hi, rfl⟩
    exact ⟨r, hr, i, hi, rfl⟩
  · rintro ⟨r, hr, i, hi, rfl⟩
    exact ⟨_, ⟨r, hr, rfl⟩, i, hi, rfl⟩

/-- Rows that do not overlap: a place belongs to one word of one row. -/
theorem row_place_inj {sp nw r q i j : Nat} (hsp : nw ≤ sp) (hi : i < nw) (hj : j < nw) (h : q * sp + j = r * sp + i) :
    q = r ∧ j = i := by
  have hq : (q * sp + j) / sp = q := by rw [Nat.mul_comm, Nat.mul_add_div (by omega), Nat.div_eq_of_lt (by omega), Nat.add_zero]
  have hr : (r * sp + i) / sp = r := by rw [Nat.mul_comm, Nat.mul_add_div (by omega), Nat.div_eq_of_lt (by omega), Nat.add_zero]
  have heq : q = r := hq.symm.trans ((congrArg (· / sp) h).trans hr)
  subst heq
  exact ⟨rfl, by omega⟩

/-- Of the scratchpad a FILL leaves its words; the tag entry of TAGW (R161) is no word. -/
theorem spad_fillPut (s : State) (n : Nat) (x : Xfer) :
    (getCore (fillPut s n x) n).spad = (spadPuts { getCore s n with rgd := x.rgd } (fillWords s n x)).spad := by
  unfold fillPut
  rw [getCore_modCore]
  dsimp only
  split <;> rfl

theorem spadGet_fillPut {s : State} {n : Nat} {x : Xfer} {r i : Nat} (hr : r < x.shape.nrow)
    (hi : i < ceilDiv x.shape.rowBytes 4) (hsp : ceilDiv x.shape.rowBytes 4 ≤ x.shape.sp) :
    spadGet (getCore (fillPut s n x) n) (x.s + r * x.shape.sp + i) =
      fld (fillRow x r (fillBytes s n x r)) (4 * i) 4 % 2 ^ 32 := by
  rw [spadGet, spad_fillPut]
  refine spadGet_spadPuts_at _ _ (fillWords s n x) _ (mem_fillWords_iff.mpr ⟨r, hr, i, hi, rfl⟩) fun z hz hplace => ?_
  obtain ⟨q, -, j, hj, rfl⟩ := mem_fillWords_iff.mp hz
  dsimp only at hplace
  obtain ⟨rfl, rfl⟩ := row_place_inj hsp hi hj (by omega : q * x.shape.sp + j = r * x.shape.sp + i)
  rfl

/-! ### STREAM_TRANSFER_COMPLETE (R162, R171) -/

/-- What a transfer leaves before its signal: a FILL its words, a COLLECT its FLAG messages. -/
def kindDone (k : XKind) (b : State) (n : Nat) (x : Xfer) : State :=
  match k with | .fill => fillPut b n x | .collect => flagMsgs b n x | _ => b

section completes

variable {s : State} {n e id : Nat} {x : Xfer} (hn : n < 4096) (he : e < 4) (hx : findXfer s n e id = some x)
include hn he hx

theorem exec_transferComplete_at (hlive : (getSE s n e).state = .running ∨ (getSE s n e).state = .waiting) (hfin : x.fin = false)
    (hdone : xferComplete s n e x = true) {b u : State}
    (hb : b = (if x.kind = .fill ∧ tier1 s n x = true ∧ x.out ≠ 0 then
      modXfer (readBack s n x) n e id (fun x => { x with out := 0 }) else s)) (hu : u = kindDone x.kind b n x) :
    exec (.streamTransferComplete n e id) s = .next
      (sendSignals (getSE (seMoved (modXfer u n e id (fun x => { x with fin := true })) n e) n e).xfers.length n e
        (seMoved (modXfer u n e id (fun x => { x with fin := true })) n e)) := by
  rw [exec_streamTransferComplete, execStreamTransferComplete, hx]
  refine (onUnit_known _ (seOk_of hn he)).trans (congrArg _ ?_)
  have habort : (getSE s n e).state ≠ .aborting := by rcases hlive with h | h <;> simp [h]
  have hrun : (getSE s n e).state.live = true := by rcases hlive with h | h <;> rw [h] <;> rfl
  dsimp only
  rw [if_neg habort, if_neg (by simp [hrun, hfin, hdone]), ← hb, hu]
  unfold kindDone
  rfl

theorem exec_streamReadError_lost (hkind : x.kind = .fill) (hfin : x.fin = false) (ht : tier1 s n x = true) {off : Nat}
    (hlost : fillLost s n x = some off) :
    exec (.streamReadError n e id) s = .next (lostFor (seStop (readBack s n x) n e 3) n off) := by
  rw [exec_streamReadError, execStreamReadError, hx]
  refine (onUnit_known _ (seOk_of hn he)).trans (congrArg _ ?_)
  dsimp only
  rw [if_neg (by simp [hkind, hfin, ht]), hlost]

end completes

/-- Settles O19: the words of a FILL by their places, the end of a transfer by its kind, signals one by one. -/
theorem streamCompletion : Obligations.StreamCompletion := by
  refine ⟨fun s n x r i bs hmem hi hsp => ?words, fun s n x r hr => ⟨fun ht => ?near, fun ht => ?far⟩,
    fun s b u n e id x hn he hx hlive hfin hdone hb hfill hcollect hother =>
      exec_transferComplete_at hn he hx hlive hfin hdone hb ?kind,
    fun s n e k x r h => ⟨sendSignals_open k h, sendSignals_fin k h⟩,
    fun s n e id off x hn he hx hkind hfin ht hlost => exec_streamReadError_lost hn he hx hkind hfin ht hlost,
    fun s g hg hserves => ?slice⟩
  case words =>
    obtain ⟨hr, rfl⟩ := mem_fillData_iff.mp hmem
    exact spadGet_fillPut hr hi hsp
  case near => exact mem_fillData_iff.mpr ⟨hr, by rw [fillBytes, if_pos ht]⟩
  case far => exact mem_fillData_iff.mpr ⟨hr, by rw [fillBytes, if_neg (ne_true_of_eq_false ht)]⟩
  case kind =>
    cases hk : x.kind with
    | fill => exact hfill hk
    | collect => exact hcollect hk
    | drain => exact hother (by simp [hk]) (by simp [hk])
    | feed => exact hother (by simp [hk]) (by simp [hk])
    | sig => exact hother (by simp [hk]) (by simp [hk])
  case slice =>
    refine ⟨_, exec_sliceWritebackDone_left hg hserves, ?_⟩
    have hrows : RowsOnly s ((dirtyLines s g).foldl activate s) := RowsOnly.foldl (fun t o => activate_rowsOnly t o) _ s
    rw [hrows]
    exact ⟨rfl, rfl, fun l hl => bne_iff_ne.mp (List.mem_filter.mp hl).2,
      fun l hl hne => List.mem_filter.mpr ⟨hl, bne_iff_ne.mpr hne⟩, rfl⟩

end Sys2Proof.Machine
end

section
/-! FILL and DRAIN of local memory, and addresses that are not permitted (R157, R158, R162 to R166, R269). -/

namespace Sys2Proof.Machine

/-! ### Lists of transfers -/

theorem find?_append_new {α : Type} {p : α → Bool} {xs : List α} {x : α} (hx : p x = true) (hxs : ∀ y ∈ xs, p y = false) :
    (xs ++ [x]).find? p = some x := by
  rw [List.find?_append, List.find?_eq_none.mpr (fun y hy => by simp [hxs y hy])]
  simp [hx]

theorem updateWhere_none {α : Type} {p : α → Bool} {f : α → α} {xs : List α} (hxs : ∀ y ∈ xs, p y = false) :
    updateWhere p f xs = xs :=
  (List.map_congr_left fun y hy => if_neg (ne_true_of_eq_false (hxs y hy))).trans (List.map_id xs)

theorem updateWhere_append_new {α : Type} {p : α → Bool} {f : α → α} {xs : List α} {x : α} (hx : p x = true)
    (hxs : ∀ y ∈ xs, p y = false) : updateWhere p f (xs ++ [x]) = xs ++ [f x] := by
  unfold updateWhere
  rw [List.map_append]
  exact congrArg₂ _ (updateWhere_none hxs) (by simp [hx])

/-- What is read of a state whose memory alone differs. -/
theorem getSE_of_mem {t u : State} (h : t = { u with mem := t.mem }) (n e : Nat) : getSE t n e = getSE u n e := by
  rw [h]
  rfl

/-! ### A read of tier 1 is issued (R163, R288) -/

/-- A read of tier 1 touches local memory alone, and no byte of it. -/
theorem issueTier1_rest (s : State) (n ch a k : Nat) :
    issueTier1 s n ch a k = { s with mem := (issueTier1 s n ch a k).mem } ∧ (issueTier1 s n ch a k).mem.bytes = s.mem.bytes := by
  have hrest := foldl_rest (fun (s : State) (r : Nat × Nat) => cacheAccess s false ch r.1 r.2)
    (fun s r => cacheAccess_rest s false ch r.1 r.2) ((localRuns s (partOfCore s n) (imgSlotOf s n) a k).getD []) s
  have hbytes := foldl_bytes (fun (s : State) (r : Nat × Nat) => cacheAccess s false ch r.1 r.2)
    (fun s r => cacheAccess_bytes s false ch r.1 r.2) ((localRuns s (partOfCore s n) (imgSlotOf s n) a k).getD []) s
  unfold issueTier1
  dsimp only
  split
  · split
    · exact ⟨hrest, hbytes⟩
    · refine ⟨?_, hbytes⟩
      rw [hrest]; rfl
  · exact ⟨hrest, hbytes⟩

section issue

variable {s : State} {n e id : Nat} {x : Xfer} (hx : findXfer s n e id = some x)
include hx

theorem issueRead_done (hpiece : x.piece x.bytes = none) : issueRead s n e id = s := by
  rw [issueRead, hx]
  dsimp only
  rw [hpiece]

variable {a left : Nat} (hpiece : x.piece x.bytes = some (a, left))
include hpiece

theorem issueRead_full (hk : min left (16384 - (getSE s n e).outst) = 0) : issueRead s n e id = s := by
  rw [issueRead, hx]
  dsimp only
  rw [hpiece]
  exact if_pos hk

theorem issueRead_local {k : Nat} (hk : k = min left (16384 - (getSE s n e).outst)) (h0 : k ≠ 0) (ht : tier1 s n x = true) :
    issueRead s n e id =
      issueTier1 (modXfer s n e id (fun x => { x with bytes := x.bytes + k, out := k })) n (sCh x.insn) a k := by
  subst hk
  rw [issueRead, hx]
  dsimp only
  rw [hpiece]
  dsimp only
  rw [if_neg h0]
  exact if_pos ht

end issue

section issued

variable {s : State} {n e id : Nat} {x : Xfer} (hx : findXfer s n e id = some x) (ht : tier1 s n x = true)
include hx ht

/-- A next read of tier 1 touches its engine and the lines it meets: no byte of memory and no word of the scratchpad. -/
theorem issueRead_keeps : ∃ u, SeFrame s u n e ∧ issueRead s n e id = { u with mem := (issueRead s n e id).mem } ∧
    (issueRead s n e id).mem.bytes = s.mem.bytes := by
  rcases hpiece : x.piece x.bytes with _ | ⟨a, left⟩
  · exact ⟨s, SeFrame.refl s n e, by rw [issueRead_done hx hpiece], by rw [issueRead_done hx hpiece]⟩
  · by_cases h0 : min left (16384 - (getSE s n e).outst) = 0
    · exact ⟨s, SeFrame.refl s n e, by rw [issueRead_full hx hpiece h0], by rw [issueRead_full hx hpiece h0]⟩
    · obtain ⟨hrest, hbytes⟩ := issueTier1_rest (modXfer s n e id (fun x => { x with
        bytes := x.bytes + min left (16384 - (getSE s n e).outst), out := min left (16384 - (getSE s n e).outst) }))
        n (sCh x.insn) a (min left (16384 - (getSE s n e).outst))
      rw [issueRead_local hx hpiece rfl h0 ht]
      exact ⟨_, seFrame_modSE s n e _, hrest, hbytes⟩

theorem getSE_issueRead {a left k : Nat} (hpiece : x.piece x.bytes = some (a, left))
    (hk : k = min left (16384 - (getSE s n e).outst)) (h0 : k ≠ 0) : getSE (issueRead s n e id) n e = { getSE s n e with
      xfers := updateWhere (fun x => x.id == id) (fun x => { x with bytes := x.bytes + k, out := k }) (getSE s n e).xfers } := by
  rw [issueRead_local hx hpiece hk h0 ht, getSE_of_mem (issueTier1_rest _ _ _ _ _).1]
  exact getSE_modSE _ _ _ _

end issued

/-! ### FILL -/

theorem findXfer_id {s : State} {n e id : Nat} {x : Xfer} (h : findXfer s n e id = some x) : x.id = id :=
  beq_iff_eq.mp (List.find?_some (p := fun x : Xfer => x.id == id) h)

section fill

variable {s : State} {n e w : Nat} {x : Xfer} {lines : List Nat}

/-- A FILL as it starts, under the region descriptors in force (R123). -/
def fillXfer (s : State) (n e w : Nat) : Xfer := { newXfer (getSE s n e) s.host.nextId .fill w with rgd := (getCore s n).rgd }

variable (h : SeAt s n e 0x0A w) (hdue : fillDue s n e = none) (hx : x = fillXfer s n e w) (hstop : hostStopped s n x = false)
include h hdue hx hstop

theorem exec_fill_denied (hperm : rowsPermitted s n x false = false) :
    exec (.fill n e lines) s = .next (seFault s n e 6 0x0409) := by
  subst hx
  rw [exec_fill, execFill, hdue]
  refine (onSe_at h _).trans (congrArg _ ?_)
  exact (if_neg (ne_true_of_eq_false hstop)).trans (if_pos (by rw [Bool.not_eq_true']; exact hperm))

theorem exec_fill_starts (hperm : rowsPermitted s n x false = true) (hwait : runsWait s (xferRuns s n x) = false)
    (hlayer : layerBegun s n = true)
    (hacc : firstAcc (writeAcc (getCore s n) 37) (x.words (fun _ => ceilDiv x.shape.rowBytes 4)) = .ok) :
    exec (.fill n e lines) s = .next (issueRead (addXfer (meetLines (modHost s (fun h => { h with nextId := h.nextId + 1 })) false lines
      (xferRuns s n x)) n e x) n e x.id) := by
  subst hx
  rw [exec_fill, execFill, hdue]
  refine (onSe_at h _).trans (congrArg _ ?_)
  refine (if_neg (ne_true_of_eq_false hstop)).trans ((if_neg (by rw [Bool.not_eq_true']; exact ne_false_of_eq_true hperm)).trans ?_)
  refine (if_neg (by
    rintro (hc | hc)
    · exact absurd hc (ne_true_of_eq_false hwait)
    · exact absurd hc (by rw [hlayer]; decide))).trans ?_
  refine (congrArg (fun y => seAcc s n e y _) hacc).trans ?_
  rfl

end fill

/-- A FILL under way issues its next read. -/
theorem exec_fill_next {s : State} {n e : Nat} {x : Xfer} (hn : n < 4096) (he : e < 4) (hdue : fillDue s n e = some x)
    (hstop : hostStopped s n x = false) (hwait : runsWait s (xferRuns s n x) = false) (hout : x.out = 0) :
    exec (.fill n e []) s = .next (seMoved (issueRead s n e x.id) n e) := by
  rw [exec_fill, execFill, hdue]
  refine (onUnit_known _ (seOk_of hn he)).trans (congrArg _ ?_)
  dsimp only
  rw [if_neg (ne_true_of_eq_false hstop), if_neg (ne_true_of_eq_false hwait), if_pos hout]
  rfl

/-! ### A FILL of tier 1 that has started -/

section started

variable {s : State} {n e w : Nat} {x : Xfer} (hx : x = fillXfer s n e w)
include hx

/-- The state of a FILL that has started and issued nothing yet. -/
def fillBegun (s : State) (n e : Nat) (x : Xfer) : State := addXfer (modHost s (fun h => { h with nextId := h.nextId + 1 })) n e x

omit hx in
theorem getSE_fillBegun : getSE (fillBegun s n e x) n e =
    { (getSE s n e).past s.tick with xfers := (getSE s n e).xfers ++ [x] } := getSE_addXfer _ _ _ _

omit hx in
theorem findXfer_fillBegun (hnew : ∀ y ∈ (getSE s n e).xfers, y.id ≠ x.id) : findXfer (fillBegun s n e x) n e x.id = some x := by
  rw [findXfer, getSE_fillBegun]
  exact find?_append_new (beq_self_eq_true x.id) fun y hy => beq_false_of_ne (hnew y hy)

theorem outst_fillBegun : (getSE (fillBegun s n e x) n e).outst = (getSE s n e).outst := by
  subst hx
  rw [getSE_fillBegun]
  simp [SE.outst, fillXfer, newXfer]

variable (hnew : ∀ y ∈ (getSE s n e).xfers, y.id ≠ x.id) (ht : tier1 s n x = true)
include hnew ht

/-- The first read of a FILL of tier 1. -/
theorem getSE_firstRead {a left k : Nat} (hpiece : x.piece 0 = some (a, left))
    (hk : k = min left (16384 - (getSE s n e).outst)) : getSE (issueRead (fillBegun s n e x) n e x.id) n e =
      { (getSE s n e).past s.tick with xfers := (getSE s n e).xfers ++ [{ x with bytes := k, out := k }] } := by
  have hfind := findXfer_fillBegun hnew
  have hzero : x.bytes = 0 ∧ x.out = 0 := by subst hx; exact ⟨rfl, rfl⟩
  have hfirst : x.piece x.bytes = some (a, left) := by rw [hzero.1]; exact hpiece
  rw [← outst_fillBegun hx] at hk
  by_cases h0 : k = 0
  · have hsame : { x with bytes := 0, out := 0 } = x := by subst hx; rfl
    rw [issueRead_full hfind hfirst (hk ▸ h0), getSE_fillBegun, h0, hsame]
  · have hupdate := updateWhere_append_new (f := fun x : Xfer => { x with bytes := x.bytes + k, out := k })
      (beq_self_eq_true x.id) fun y hy => beq_false_of_ne (hnew y hy)
    rw [getSE_issueRead hfind ht hfirst hk h0, getSE_fillBegun]
    dsimp only [SE.past]
    rw [hupdate, hzero.1, Nat.zero_add]

theorem getSE_firstRead_none (hpiece : x.piece 0 = none) : getSE (issueRead (fillBegun s n e x) n e x.id) n e =
    { (getSE s n e).past s.tick with xfers := (getSE s n e).xfers ++ [x] } := by
  have hzero : x.bytes = 0 := by subst hx; rfl
  rw [issueRead_done (findXfer_fillBegun hnew) (by rw [hzero]; exact hpiece), getSE_fillBegun]

omit hx in
/-- What a FILL of tier 1 that starts leaves as it was. -/
theorem firstRead_keeps : (getCore (issueRead (fillBegun s n e x) n e x.id) n).spad = (getCore s n).spad ∧
    (issueRead (fillBegun s n e x) n e x.id).mem.bytes = s.mem.bytes ∧
    (issueRead (fillBegun s n e x) n e x.id).parts = s.parts ∧ (issueRead (fillBegun s n e x) n e x.id).fab = s.fab := by
  obtain ⟨u, hframe, hrest, hbytes⟩ := issueRead_keeps (findXfer_fillBegun hnew) ht
  have hall := seFrame_trans (seFrame_addXfer (modHost s (fun h => { h with nextId := h.nextId + 1 })) n e x) hframe
  refine ⟨?_, hbytes, ?_, ?_⟩
  · rw [hrest]; exact hall.core.1
  · rw [hrest, hall.1.1]; rfl
  · rw [hrest, hall.1.1]; rfl

end started

/-! ### DRAIN (R164, R166) -/

/-- Reads of the same bytes. -/
theorem SGetRun_congr {V : Type} {d : V} {m m' : SMap V} : ∀ {n k : Nat}, (∀ i < n, SGet d m (k + i) = SGet d m' (k + i)) →
    SGetRun d m k n = SGetRun d m' k n
  | 0, _, _ => rfl
  | n + 1, k, h => by
    have hrest : SGetRun d m (k + 1) n = SGetRun d m' (k + 1) n := SGetRun_congr fun i hi => by
      rw [Nat.add_right_comm]
      exact h (i + 1) (by omega)
    rw [SGetRun, SGetRun, hrest, show SGet d m k = SGet d m' k from h 0 (by omega)]

theorem bytes_localWrite (s : State) (ch off : Nat) (bs : List Byte) :
    (localWrite s ch off bs).mem.bytes = SSetRun 0 s.mem.bytes off bs := by
  show SSetRun 0 (cacheAccess s true ch off bs.length).mem.bytes off bs = _
  rw [cacheAccess_bytes]

theorem localWrite_rest (s : State) (ch off : Nat) (bs : List Byte) :
    localWrite s ch off bs = { s with mem := (localWrite s ch off bs).mem } := by
  have h := cacheAccess_rest s true ch off bs.length
  unfold localWrite
  generalize cacheAccess s true ch off bs.length = t at h ⊢
  rw [h]
  rfl

/-- Rows written one after the other, each at its offset. -/
def putRows (ch : Nat) (off : Nat → Nat) (bs : Nat → List Byte) (l : List Nat) (s : State) : State :=
  l.foldl (fun t r => localWrite t ch (off r) (bs r)) s

section rows

variable {ch : Nat} {off : Nat → Nat} {bs : Nat → List Byte}

theorem putRows_rest (l : List Nat) (s : State) : putRows ch off bs l s = { s with mem := (putRows ch off bs l s).mem } :=
  foldl_rest _ (fun t r => localWrite_rest t ch (off r) (bs r)) l s

/-- A byte outside every row is as it was. -/
theorem byte_putRows {a : Nat} {l : List Nat} (h : ∀ r ∈ l, a < off r ∨ off r + (bs r).length ≤ a) (s : State) :
    Memory.byte (putRows ch off bs l s).mem a = Memory.byte s.mem a := by
  induction l generalizing s with
  | nil => rfl
  | cons r rs ih =>
    refine (ih (fun q hq => h q (List.mem_cons_of_mem _ hq)) (localWrite s ch (off r) (bs r))).trans ?_
    rw [Memory.byte, bytes_localWrite]
    exact SGet_SSetRun_ne 0 (bs r) _ _ (h r (List.mem_cons_self ..))

/-- A row that no later one overlaps holds its bytes. -/
theorem memGet_putRows {l : List Nat} {r : Nat} (hr : r ∈ l) (hl : l.Pairwise (· < ·))
    (hlater : ∀ q ∈ l, r < q → off q + (bs q).length ≤ off r ∨ off r + (bs r).length ≤ off q) (s : State) :
    memGet (putRows ch off bs l s) (off r) (bs r).length = bs r := by
  induction l generalizing s with
  | nil => simp at hr
  | cons p ps ih =>
    obtain ⟨hfirst, hps⟩ := List.pairwise_cons.mp hl
    have hafter : ∀ q ∈ ps, r < q → off q + (bs q).length ≤ off r ∨ off r + (bs r).length ≤ off q :=
      fun q hq => hlater q (List.mem_cons_of_mem _ hq)
    rcases List.mem_cons.mp hr with rfl | hr
    · have hkept : ∀ i < (bs r).length, SGet 0 (putRows ch off bs ps (localWrite s ch (off r) (bs r))).mem.bytes (off r + i) =
          SGet 0 (localWrite s ch (off r) (bs r)).mem.bytes (off r + i) := fun i hi =>
        byte_putRows (fun q hq => by have := hafter q hq (hfirst q hq); omega) _
      refine (SGetRun_congr hkept).trans ?_
      rw [bytes_localWrite]
      exact SGetRun_SSetRun_self 0 (bs r) _ _
    · exact ih hr hps hafter (localWrite s ch (off p) (bs p))

end rows

theorem length_drainBytes (c : Core) (x : Xfer) (r : Nat) : (drainBytes c x r).length = x.inBytes r := length_leBytes _ _

theorem drainBytes_congr {c d : Core} (h : d.spad = c.spad) (x : Xfer) (r : Nat) : drainBytes d x r = drainBytes c x r := by
  unfold drainBytes spadBytes spadGet
  rw [h]

/-- Rows ascend. -/
theorem pairwise_rows (x : Xfer) : x.rows.Pairwise (· < ·) := List.Pairwise.filter _ List.pairwise_lt_range

/-- The local offset of a row that has one. -/
def rowOff (s : State) (n : Nat) (x : Xfer) (r : Nat) : Nat := (localOf s (partOfCore s n) (imgSlotOf s n) (x.rowAddr r)).getD 0

/-- Rows of local memory are written through the near cache, one after the other. -/
theorem foldl_engineWrite (s : State) (n e id ch : Nat) (x : Xfer) (bs : Nat → List Byte) {l : List Nat}
    (hl : ∀ r ∈ l, (localOf s (partOfCore s n) (imgSlotOf s n) (x.rowAddr r)).isSome) : ∀ m : Mem,
    l.foldl (fun a r => if a.2 then engineWrite a.1 n e id ch (x.rowAddr r) (bs r) else a) ({ s with mem := m }, true) =
      (putRows ch (rowOff s n x) bs l { s with mem := m }, true) := by
  induction l with
  | nil => exact fun _ => rfl
  | cons r rs ih =>
    intro m
    obtain ⟨off, hoff⟩ := Option.isSome_iff_exists.mp (hl r (List.mem_cons_self ..))
    have hwrite : engineWrite { s with mem := m } n e id ch (x.rowAddr r) (bs r) =
        (localWrite { s with mem := m } ch (rowOff s n x r) (bs r), true) := by
      have hsame : localOf { s with mem := m } (partOfCore { s with mem := m } n) (imgSlotOf { s with mem := m } n) (x.rowAddr r) =
        some off := hoff
      rw [engineWrite, hsame, rowOff, hoff]
      rfl
    have hrest := localWrite_rest { s with mem := m } ch (rowOff s n x r) (bs r)
    rw [List.foldl_cons, if_pos rfl, hwrite, hrest]
    refine (ih (fun q hq => hl q (List.mem_cons_of_mem _ hq)) _).trans ?_
    exact congrArg (fun t => (putRows ch (rowOff s n x) bs rs t, true)) hrest.symm

theorem drainRows_local {s : State} {n e ch : Nat} {x : Xfer}
    (hl : ∀ r ∈ x.rows, (localOf s (partOfCore s n) (imgSlotOf s n) (x.rowAddr r)).isSome) :
    drainRows s n e ch x = (putRows ch (rowOff s n x) (drainBytes (getCore s n) x) x.rows s, true) :=
  foldl_engineWrite s n e x.id ch x (drainBytes (getCore s n) x) hl s.mem

/-- The state of a DRAIN that has read its words and started. -/
def drainBegun (s : State) (n e : Nat) (x : Xfer) (upset : List (Nat × Nat)) : State :=
  addXfer (upsets (modHost s (fun h => { h with nextId := h.nextId + 1 })) n upset (x.words (fun r => ceilDiv (x.inBytes r) 4))).1 n e x

section drainBegun

variable {s : State} {n e : Nat} {x : Xfer} {upset : List (Nat × Nat)} (hupset : ∀ u ∈ upset, u.2 < 2)
include hupset

/-- A DRAIN that has started: error counters and its engine apart, the core is as it was, and all else. -/
theorem drainBegun_keeps : CoreOnly (modHost s (fun h => { h with nextId := h.nextId + 1 })) (drainBegun s n e x upset) n ∧
    (getCore (drainBegun s n e x upset) n).spad = (getCore s n).spad ∧
    getSE (drainBegun s n e x upset) n e = { (getSE s n e).past s.tick with xfers := (getSE s n e).xfers ++ [x] } := by
  obtain ⟨-, honly, _, hcore⟩ := upsets_corrected (modHost s (fun h => { h with nextId := h.nextId + 1 })) n upset
    (x.words (fun r => ceilDiv (x.inBytes r) 4)) hupset
  have hframe := seFrame_addXfer (upsets (modHost s (fun h => { h with nextId := h.nextId + 1 })) n upset
    (x.words (fun r => ceilDiv (x.inBytes r) 4))).1 n e x
  refine ⟨coreOnly_trans honly hframe.1, hframe.core.1.trans (by rw [hcore]; rfl), ?_⟩
  have hse : getSE (upsets (modHost s (fun h => { h with nextId := h.nextId + 1 })) n upset
      (x.words (fun r => ceilDiv (x.inBytes r) 4))).1 n e = getSE s n e := by
    unfold getSE
    rw [hcore]
    rfl
  rw [drainBegun, getSE_addXfer, hse, honly.1]
  rfl

/-- Its rows lie where they lay. -/
theorem drainBegun_localOf (a : Nat) : localOf (drainBegun s n e x upset) (partOfCore (drainBegun s n e x upset) n)
    (imgSlotOf (drainBegun s n e x upset) n) a = localOf s (partOfCore s n) (imgSlotOf s n) a := by
  rw [(drainBegun_keeps hupset).1.1]
  rfl

end drainBegun

section drain

variable {s : State} {n e w : Nat} {x : Xfer} (h : SeAt s n e 0x0B w) (hx : x = newXfer (getSE s n e) s.host.nextId .drain w)
  (hstop : hostStopped s n x = false)
include h hx hstop

theorem exec_drain_denied (upset : List (Nat × Nat)) (lines : List Nat) (hperm : rowsPermitted s n x true = false) :
    exec (.drain n e upset lines) s = .next (seFault s n e 6 0x0409) := by
  subst hx
  rw [exec_drain, execDrain]
  refine (onSe_at h _).trans (congrArg _ ?_)
  exact (if_neg (ne_true_of_eq_false hstop)).trans (if_pos (by rw [Bool.not_eq_true']; exact hperm))

theorem exec_drain_local {upset : List (Nat × Nat)} (hupset : ∀ u ∈ upset, u.2 < 2) (hperm : rowsPermitted s n x true = true)
    (hspace : gSpace x.m ≠ 1) (hwait : runsWait s (xferRuns s n x) = false)
    (hacc : firstAcc (readAcc (getCore s n) 36) (x.words (fun r => ceilDiv (x.inBytes r) 4)) = .ok)
    (hrows : ∀ r ∈ x.rows, (localOf s (partOfCore s n) (imgSlotOf s n) (x.rowAddr r)).isSome) :
    exec (.drain n e upset []) s = .next (putRows (sCh w) (rowOff s n x) (drainBytes (getCore s n) x) x.rows
      (drainBegun s n e x upset)) := by
  have hcore := (upsets_corrected (modHost s (fun h => { h with nextId := h.nextId + 1 })) n upset
    (x.words (fun r => ceilDiv (x.inBytes r) 4)) hupset).1
  have hsame : drainBytes (getCore (drainBegun s n e x upset) n) x = drainBytes (getCore s n) x :=
    funext fun r => drainBytes_congr (drainBegun_keeps hupset).2.1 x r
  have hoff : rowOff (drainBegun s n e x upset) n x = rowOff s n x :=
    funext fun r => congrArg (Option.getD · 0) (drainBegun_localOf hupset (x.rowAddr r))
  have hdrained : drainRows (drainBegun s n e x upset) n e (sCh w) x =
      (putRows (sCh w) (rowOff s n x) (drainBytes (getCore s n) x) x.rows (drainBegun s n e x upset), true) := by
    rw [drainRows_local (fun r hr => by rw [drainBegun_localOf hupset]; exact hrows r hr), hoff, hsame]
  subst hx
  rw [exec_drain, execDrain]
  refine (onSe_at h _).trans (congrArg _ ?_)
  refine (if_neg (ne_true_of_eq_false hstop)).trans ((if_neg (by rw [Bool.not_eq_true']; exact ne_false_of_eq_true hperm)).trans ?_)
  refine (if_neg (by
    rintro (⟨hc, -⟩ | hc)
    · exact hspace hc
    · exact absurd hc (ne_true_of_eq_false hwait))).trans ?_
  refine (congrArg (fun y => seAcc s n e y _) hacc).trans ?_
  refine (if_neg (ne_true_of_eq_false hcore)).trans ?_
  exact congrArg (fun d : State × Bool => if d.2 then d.1 else tier2Fail d.1 n e 5 0x0408) hdrained

end drain

/-- Settles O17: a FILL that starts or goes on by its next read, a DRAIN by the rows it writes. -/
theorem streamTransfersStart : Obligations.StreamTransfersStart := by
  refine ⟨fun s n e w lines x h hdue hx hstop => ⟨exec_fill_denied h hdue hx hstop, fun hperm hwait hlayer hacc =>
      ⟨_, _, exec_fill_starts h hdue hx hstop hperm hwait hlayer hacc, rfl, rfl, ?fill⟩⟩,
    fun s n e a left k x hn he hdue hstop hwait ht hout hfind hids hpiece hk hpos => ?next,
    fun s n e w x h hx hstop => ⟨fun lines upset hperm => exec_drain_denied h hx hstop upset lines hperm,
      fun hperm hspace hwait hrows hacc upset hupset =>
        ⟨_, exec_drain_local h hx hstop hupset hperm hspace hwait hacc hrows, ?drain⟩⟩⟩
  case fill =>
    rintro rfl ht hnew
    exact ⟨fun a left k hpiece hk => getSE_firstRead hx hnew ht hpiece hk, fun hpiece => getSE_firstRead_none hx hnew ht hpiece,
      firstRead_keeps hnew ht⟩
  case next =>
    obtain ⟨u, hframe, hrest, hbytes⟩ := issueRead_keeps hfind ht
    have hse := getSE_issueRead hfind ht hpiece hk (Nat.ne_of_gt hpos)
    have htick : (issueRead s n e x.id).tick = s.tick := by rw [hrest, hframe.1.1]
    have hparts : (issueRead s n e x.id).parts = s.parts := by rw [hrest, hframe.1.1]
    have hspad : (getCore (issueRead s n e x.id) n).spad = (getCore s n).spad := by rw [hrest]; exact hframe.core.1
    refine ⟨_, exec_fill_next hn he hdue hstop hwait hout, hbytes, hparts, (seFrame_modSE _ n e _).core.1.trans hspad, ?_, ?_, ?_⟩
    · rw [findXfer, getSE_seMoved, hse]
      exact (find?_updateWhere (p := fun y : Xfer => y.id == x.id) (f := fun y => { y with bytes := y.bytes + k, out := k })
        (fun y hy => hy) _).trans (congrArg (Option.map _) hfind)
    · rw [getSE_seMoved]; exact htick
    · rw [getSE_seMoved, hse]
  case drain =>
    obtain ⟨hbegun, hspad, hse⟩ := drainBegun_keeps (s := s) (n := n) (e := e) (x := x) hupset
    have hrest := putRows_rest (ch := sCh w) (off := rowOff s n x) (bs := drainBytes (getCore s n) x) x.rows
      (drainBegun s n e x upset)
    have hoff {r off : Nat} (h : localOf s (partOfCore s n) (imgSlotOf s n) (x.rowAddr r) = some off) : rowOff s n x r = off := by
      rw [rowOff, h]; rfl
    have hbytes : (drainBegun s n e x upset).mem.bytes = s.mem.bytes := by rw [hbegun.1]; rfl
    refine ⟨(getSE_of_mem hrest n e).trans hse, by rw [hrest]; exact hspad, by rw [hrest, hbegun.1]; rfl, by rw [hrest, hbegun.1]; rfl,
      fun a ha => ?_, fun r hr off hr' hlater => ?_⟩
    · refine (byte_putRows (fun r hr => ?_) _).trans (congrArg (SGet 0 · a) hbytes)
      obtain ⟨off, hlocal⟩ := Option.isSome_iff_exists.mp (hrows r hr)
      rw [hoff hlocal, length_drainBytes]
      exact ha r hr off hlocal
    · have hget := memGet_putRows (ch := sCh w) (off := rowOff s n x) (bs := drainBytes (getCore s n) x) hr (pairwise_rows x)
        (fun q hq hlt => ?_) (drainBegun s n e x upset)
      · rwa [hoff hr', length_drainBytes] at hget
      · obtain ⟨o, ho⟩ := Option.isSome_iff_exists.mp (hrows q hq)
        rw [hoff ho, hoff hr', length_drainBytes, length_drainBytes]
        exact hlater q hq hlt o ho

end Sys2Proof.Machine
end

section
/-! Droop holds, power samples, the governor, floor pace and the thermal responses (R172, R384 to R403). -/

namespace Sys2Proof.Machine

/-! ### What an in-band interrupt and a touched interval leave -/

theorem ibiCheck_capLog (s : State) : (ibiCheck s).pew.capLog = s.pew.capLog := by
  unfold ibiCheck
  dsimp only
  split <;> rfl

theorem touchAll_pew (s : State) : (touchAll s).pew = s.pew :=
  (touchAll_within (fs := [.parts]) (by decide) (.refl _ s)).pew.resolve_left (by decide)

theorem touchAll_tick (s : State) : (touchAll s).tick = s.tick :=
  (touchAll_within (fs := [.parts]) (by decide) (.refl _ s)).tick.resolve_left (by decide)

/-! ### Entry to floor pace (R395) -/

/-- The figures of floor pace that its entry sets. -/
def floorPower (s : State) (tj : Bool) : Power :=
  let w := s.power
  let dep := w.paced && w.departed.isNone
  { w with
    floor := true, burst := true, gate := 800, vset := 600, hot := tj, lastClimb := s.tick
    departed := if dep then some s.tick else w.departed
    depCause := if dep then (if tj then 2 else 1) else w.depCause
    refA := if dep then (w.recentA.filter (fun a => decide (s.tick < a.1 + 100000000))).foldl (fun m a => max m a.2) 0 else w.refA }

/-- The state after the entry, before the excursion is logged and the interrupt sent. -/
def floorEntered (s : State) (tj : Bool) : State :=
  if s.power.paced && s.power.departed.isNone then touchAll (modPow s (fun _ => floorPower s tj)) else modPow s (fun _ => floorPower s tj)

theorem floorEntered_rest (s : State) (tj : Bool) : (floorEntered s tj).power = floorPower s tj ∧
    (floorEntered s tj).pew = s.pew ∧ (floorEntered s tj).tick = s.tick := by
  unfold floorEntered
  split
  · exact ⟨touchAll_power _, touchAll_pew _, touchAll_tick _⟩
  · exact ⟨rfl, rfl, rfl⟩

section enters

variable {s : State} (tj : Bool) (c : Option Nat) (hpg : s.power.pg = true)
include hpg

theorem enterFloor_again (hf : s.power.floor = true) : enterFloor s tj c = modPow s (fun w => { w with hot := w.hot || tj }) := by
  unfold enterFloor
  rw [if_neg (by simp [hpg]), if_pos hf]

theorem enterFloor_first (hf : s.power.floor = false) : enterFloor s tj c = ibiCheck (match c with
    | some k => modPew (floorEntered s tj) (fun w => { w with
        capLog := SSet none w.capLog w.capNext (some
          { tstart := (floorEntered s tj).tick, limit := limitOf (floorEntered s tj), peak := (floorEntered s tj).power.avg, cause := k })
        capNext := w.capNext + 1 })
    | none => floorEntered s tj) := by
  unfold enterFloor
  rw [if_neg (by simp [hpg]), if_neg (by simp [hf])]
  rfl

theorem enterFloor_power (hf : s.power.floor = false) : (enterFloor s tj c).power = floorPower s tj := by
  rw [enterFloor_first tj c hpg hf, ibiCheck_power]
  cases c <;> exact (floorEntered_rest s tj).1

theorem enterFloor_floor : (enterFloor s tj c).power.floor = true := by
  cases hf : s.power.floor
  · rw [enterFloor_power tj c hpg hf]; rfl
  · rw [enterFloor_again tj c hpg hf]; exact hf

/-- A cap excursion is logged with its start, the limit and its cause (R397). -/
theorem enterFloor_capLog (hf : s.power.floor = false) {k : Nat} (hc : c = some k) :
    ∃ e, SGet none (enterFloor s tj c).pew.capLog s.pew.capNext = some e ∧ e.tstart = s.tick ∧ e.limit = limitOf s ∧ e.cause = k := by
  obtain ⟨hpower, hpew, htick⟩ := floorEntered_rest s tj
  have hlimit : limitOf (floorEntered s tj) = limitOf s := by
    unfold limitOf rackCap settingsNow
    rw [hpower, hpew]
    rfl
  subst hc
  rw [enterFloor_first tj _ hpg hf, ibiCheck_capLog]
  dsimp only [modPew_pew]
  rw [hpew]
  exact ⟨_, SGet_SSet_self _ _ _ _, htick, hlimit, rfl⟩

end enters

/-- The two sets of figures differ in those of floor pace alone. -/
def FloorOnly (w v : Power) : Prop := v = { w with
  floor := v.floor, burst := v.burst, gate := v.gate, vset := v.vset, hot := v.hot, lastClimb := v.lastClimb
  departed := v.departed, depCause := v.depCause, refA := v.refA }

theorem enterFloor_floorOnly (s : State) (tj : Bool) (c : Option Nat) : FloorOnly s.power (enterFloor s tj c).power := by
  by_cases hpg : s.power.pg = true
  · cases hf : s.power.floor
    · rw [enterFloor_power tj c hpg hf]; rfl
    · rw [enterFloor_again tj c hpg hf]; rfl
  · rw [enterFloor, if_pos (by simp [hpg])]
    rfl

/-- Entry to floor pace touches no request, no memory, no host interface and no engine. -/
theorem enterFloor_kept (s : State) (tj : Bool) (c : Option Nat) : (enterFloor s tj c).host = s.host ∧ (enterFloor s tj c).mem = s.mem ∧
    (enterFloor s tj c).rtes = s.rtes ∧ (enterFloor s tj c).eng = s.eng := by
  have h := enterFloor_within (fs := [.parts, .power, .pew]) (a2 := tj) (a3 := c) (by decide) (by decide) (by decide) (.refl _ s)
  exact ⟨h.host.resolve_left (by decide), h.mem.resolve_left (by decide), h.rtes.resolve_left (by decide),
    h.eng.resolve_left (by decide)⟩

/-! ### Droop (R386) -/

/-- The state of a domain freed after a hold of `ns`, counted, and charged to its partition's interval. -/
def droopReleased (s : State) (d ns : Nat) : State := addHeld (modPow s (fun w => { w with
    held := SSet 0 w.held d 0
    droop := SSet {} w.droop d (let x := SGet ({} : DroopCtr) w.droop d
                                { x with total := x.total + ns, longest := max x.longest ns }) }))
  (if d < 64 then partOfSector s d else if d < 112 then partOfGroup s (d - 64) else none) ns

section droop

variable {s : State} {d : Nat} (hd : d < 113) (hpg : s.power.pg = true)
include hd hpg

theorem exec_droopTrip_free (hfree : SGet 0 s.power.held d = 0) : exec (.droopTrip d) s = .next (modPow s (fun w => { w with
    held := SSet 0 w.held d (s.tick + 1)
    droop := SSet {} w.droop d { SGet ({} : DroopCtr) w.droop d with trips := (SGet {} w.droop d).trips + 1 } })) := by
  rw [exec_droopTrip, execDroopTrip, onUnit_known _ (decide_eq_true hd), whenB_true _ _ (by simp [hpg, hfree])]

theorem exec_droopRelease_held (ns : Nat) (hheld : SGet 0 s.power.held d ≠ 0) : exec (.droopRelease d ns) s = .next
    (if 10000 < ns then railOut (droopReleased s d ns) d else releaseAll (droopReleased s d ns)) := by
  rw [exec_droopRelease, execDroopRelease, onUnit_known _ (decide_eq_true hd), whenB_true _ _ (by simp [hpg, hheld])]
  rfl

end droop

/-! ### Power samples (R394, R398) -/

/-- The state after a sample has entered the mean and the energy. -/
def sampled (s : State) (watts : Nat) : State := modPow s (fun w =>
  let l := (watts :: w.samples).take 100
  let a := l.sum / l.length
  { w with
    samples := l
    avg := a
    recentA := if w.floor then w.recentA else (s.tick, a) :: w.recentA.filter (fun x => decide (s.tick < x.1 + 100000000))
    energy := (w.energy + 10 * watts) % 2 ^ 64 })

/-- The watch of excursions changes their log alone. -/
theorem capWatch_rest (s : State) : capWatch s = modPew s (fun w => { w with capLog := (capWatch s).pew.capLog }) :=
  List.foldlRecOn (motive := fun t => t = modPew s (fun w => { w with capLog := t.pew.capLog })) _ _ rfl
    fun t ht e _ => by rw [ht]; rfl

theorem capWatch_kept (s : State) : (capWatch s).power = s.power ∧ (capWatch s).host = s.host ∧ (capWatch s).mem = s.mem ∧
    (capWatch s).rtes = s.rtes := by
  rw [capWatch_rest]
  exact ⟨rfl, rfl, rfl, rfl⟩

theorem exec_powerSample_due {s : State} (w : Nat) (hpg : s.power.pg = true) (htick : s.tick % 1000 = 0) :
    exec (.powerSample w []) s = .next (if 105 * limitOf s < 100 * (sampled s w).power.avg
      then enterFloor (capWatch (sampled s w)) false (some 4) else capWatch (sampled s w)) := by
  have hlimit : limitOf (capWatch (sampled s w)) = limitOf s := by rw [capWatch_rest]; rfl
  have hpower := (capWatch_kept (sampled s w)).1
  rw [exec_powerSample, execPowerSample, whenB_true _ _ (by simp [hpg, htick])]
  refine congrArg _ ?_
  rw [← hpower, ← hlimit]
  exact congrArg (fun t : State => if 105 * limitOf (capWatch t) < 100 * (capWatch t).power.avg
    then enterFloor (capWatch t) false (some 4) else capWatch t)
    (ite_self (c := (sampled s w).power.ecmode = 1) (sampled s w))

/-! ### The governor (R384, R394 to R396) -/

section governor

variable {s : State} (hpg : s.power.pg = true) (hpaced : s.power.paced = false) (hf : s.power.floor = false)
  (htick : s.tick % 10000 = 0)
include hpg hpaced hf htick

/-- What the governor does in free-running mode at its tick. -/
theorem exec_governorAction_due : exec .governorAction s = .next
    (if 98 * rampLimit s < 100 * s.power.avg ∨ 1000 ≤ s.power.tj then
      if s.power.vset ≤ 600 then
        if 98 * rampLimit s < 100 * s.power.avg then enterFloor (drawFree s).2 false (some (1 + (drawFree s).1 % 4))
        else enterFloor s false none
      else modPow s (fun w => { w with vset := w.vset - 5 })
    else if 100 * s.power.avg < 93 * rampLimit s ∧ s.power.tj < 980 ∧ s.power.vset < 850 ∧ s.power.lastRaise + 100000 ≤ s.tick then
      modPow s (fun w => { w with vset := w.vset + 5, lastRaise := s.tick })
    else s) := by
  rw [exec_governorAction, execGovernorAction, whenB_true _ _ (by simp [hpg, hpaced, hf, htick])]

theorem exec_governorAction_lowers (hhot : 98 * rampLimit s < 100 * s.power.avg ∨ 1000 ≤ s.power.tj) (hv : 600 < s.power.vset) :
    exec .governorAction s = .next { s with power := { s.power with vset := s.power.vset - 5 } } := by
  rw [exec_governorAction_due hpg hpaced hf htick, if_pos hhot, if_neg (Nat.not_le.mpr hv)]
  rfl

/-- At the lowest setpoint the module enters floor pace. -/
theorem exec_governorAction_bottom (hhot : 98 * rampLimit s < 100 * s.power.avg ∨ 1000 ≤ s.power.tj) (hv : s.power.vset ≤ 600) :
    ∃ t, exec .governorAction s = .next t ∧ t.power.floor = true ∧ t.power.vset = 600 ∧ t.host = s.host ∧ t.mem = s.mem := by
  rw [exec_governorAction_due hpg hpaced hf htick, if_pos hhot, if_pos hv]
  have hset (u : State) (c : Option Nat) (hp : u.power = s.power) : (enterFloor u false c).power.vset = 600 := by
    rw [enterFloor_power false c (by rw [hp]; exact hpg) (by rw [hp]; exact hf)]
    rfl
  split
  · obtain ⟨hhost, hmem, -⟩ := enterFloor_kept (drawFree s).2 false (some (1 + (drawFree s).1 % 4))
    exact ⟨_, rfl, enterFloor_floor _ _ hpg, hset _ _ rfl, hhost, hmem⟩
  · obtain ⟨hhost, hmem, -⟩ := enterFloor_kept s false none
    exact ⟨_, rfl, enterFloor_floor _ _ hpg, hset _ _ rfl, hhost, hmem⟩

theorem exec_governorAction_raises (hlow : 100 * s.power.avg < 93 * rampLimit s) (htj : s.power.tj < 980)
    (hv : s.power.vset < 850) (hraise : s.power.lastRaise + 100000 ≤ s.tick) : exec .governorAction s =
      .next { s with power := { s.power with vset := s.power.vset + 5, lastRaise := s.tick } } := by
  rw [exec_governorAction_due hpg hpaced hf htick, if_neg (by omega), if_pos ⟨hlow, htj, hv, hraise⟩]
  rfl

theorem exec_governorAction_stays (hcool : ¬ (98 * rampLimit s < 100 * s.power.avg ∨ 1000 ≤ s.power.tj))
    (hno : 93 * rampLimit s ≤ 100 * s.power.avg ∨ 850 ≤ s.power.vset) : exec .governorAction s = .next s := by
  rw [exec_governorAction_due hpg hpaced hf htick, if_neg hcool, if_neg (by omega)]

end governor

/-! ### The end of floor pace (R395, R402) -/

theorem exec_floorPaceClimb_due {s : State} (hpg : s.power.pg = true) (hf : s.power.floor = true) (hpaced : s.power.paced = false)
    (hpfw : s.power.pfwAt = none) (havg : 100 * s.power.avg < 93 * limitOf s) (htj : s.power.tj < 980)
    (hclimb : s.power.lastClimb + 100000 ≤ s.tick) (hhot : s.power.hot = true → cool s = true) (hover : stopOver s = true) :
    exec .floorPaceClimb s = .next (ibiCheck (modPow s (fun w =>
      if w.burst then { w with burst := false, lastClimb := s.tick }
      else if topRate w.vset w.tj ≤ w.gate + 50 then { w with gate := 0, floor := false, hot := false, lastClimb := s.tick }
      else { w with gate := w.gate + 50, lastClimb := s.tick }))) := by
  have hcool : (!s.power.hot || cool s) = true := by
    cases h : s.power.hot
    · rfl
    · exact hhot h
  rw [exec_floorPaceClimb, execFloorPaceClimb, whenB_true _ _ (by simp [hpg, hf, hpaced, hpfw, havg, htj, hclimb, hcool, hover])]

theorem ibiCheck_kept (s : State) : (ibiCheck s).host = s.host ∧ (ibiCheck s).mem = s.mem :=
  have h := ibiCheck_within (fs := [.pew]) (.head _) (.refl _ s)
  ⟨h.host.resolve_left (by decide), h.mem.resolve_left (by decide)⟩

/-- The state of a departure that has ended: the interval touched, the log closed (R395). -/
def returned (s : State) (a : Nat) : State :=
  modPow (modPew (touchAll s) (fun w => { w with
    depLog := w.depLog.map (fun e => (e.1, e.2.map (fun d => if d.tend = 0 then { d with tend := s.tick } else d))) })) (fun w => { w with
    departed := none, lastDep := (a, s.tick), floor := false, burst := false, gate := 0, hot := false, vset := pacedSet w.pace })

theorem returned_rest (s : State) (a : Nat) : (returned s a).host = s.host ∧ (returned s a).mem = s.mem ∧
    (returned s a).power = { s.power with
      departed := none, lastDep := (a, s.tick), floor := false, burst := false, gate := 0, hot := false
      vset := pacedSet s.power.pace } := by
  have h := touchAll_within (fs := [.parts]) (by decide) (.refl _ s)
  rw [returned, modPow_host, modPew_host, modPow_mem, modPew_mem, modPow_power, modPew_power, touchAll_power]
  exact ⟨h.host.resolve_left (by decide), h.mem.resolve_left (by decide), rfl⟩

theorem exec_departureReturn_due {s : State} {a : Nat} (hdep : s.power.departed = some a) (hpg : s.power.pg = true)
    (hpaced : s.power.paced = true) (hcool : cool s = true) (hpfw : s.power.pfwAt = none) (hover : stopOver s = true)
    (href : 105 * s.power.refA ≤ 100 * limitOf s) : exec .departureReturn s = .next (ibiCheck (returned s a)) := by
  rw [exec_departureReturn, execDepartureReturn, hdep]
  refine congrArg _ ((whenB_true _ _ (by simp [hpg, hpaced, hcool, hpfw, hover, href])).trans ?_)
  dsimp only
  rw [modPew_tick, touchAll_tick]
  rfl

theorem exec_startRampPaceStep_due {s : State} {a k : Nat} (hramp : s.power.ramp = some a) (hpg : s.power.pg = true)
    (hpaced : s.power.paced = true) (hrate : s.power.rampRate = 79 + k) (h1 : 1 ≤ k) (hk : k ≤ s.power.pace)
    (hdue : a + ceilDiv (2000000 * k) (max s.power.pace 1) ≤ s.tick) : exec .startRampPaceStep s =
      .next { s with power := { s.power with rampRate := 80 + k, ramp := if k = s.power.pace then none else some a } } := by
  have hstep : s.power.rampRate - 80 + 1 = k := by omega
  rw [exec_startRampPaceStep, execStartRampPaceStep, hramp]
  dsimp only
  rw [hstep, whenB_true _ _ (by simp [hpg, hpaced, hk, hdue]), modPow, hramp, show s.power.rampRate + 1 = 80 + k by omega]

/-! ### Thermal responses (R401 to R403) -/

/-- The state after a sample of the sensors. -/
def sensed (s : State) (xs : List Int) (i o : Int) : State := modPow s (fun w => { w with
  sensors := xs, tin := i, tout := o, tj := maxOf xs
  below98 := if maxOf xs < 980 then some (w.below98.getD s.tick) else none
  below95 := if maxOf xs ≤ 950 then some (w.below95.getD s.tick) else none })

/-- The state after the sample's floor pace, if Tj calls for it. -/
def sensedFloor (s : State) (xs : List Int) (i o : Int) : State :=
  if 1030 ≤ maxOf xs then enterFloor (sensed s xs i o) true none else sensed s xs i o

section thermal

variable {s : State} {xs : List Int} (i o : Int)

theorem sensedFloor_floorOnly : FloorOnly (sensed s xs i o).power (sensedFloor s xs i o).power := by
  unfold sensedFloor
  split
  · exact enterFloor_floorOnly _ _ _
  · rfl

theorem sensedFloor_kept : (sensedFloor s xs i o).host = s.host ∧ (sensedFloor s xs i o).rtes = s.rtes ∧
    (sensedFloor s xs i o).mem = s.mem ∧ (sensedFloor s xs i o).eng = s.eng := by
  unfold sensedFloor
  split
  · obtain ⟨hhost, hmem, hrtes, heng⟩ := enterFloor_kept (sensed s xs i o) true none
    exact ⟨hhost, hrtes, hmem, heng⟩
  · exact ⟨rfl, rfl, rfl, rfl⟩

theorem sensedFloor_floor (hpg : s.power.pg = true) : (1030 ≤ maxOf xs → (sensedFloor s xs i o).power.floor = true) ∧
    (maxOf xs < 1030 → (sensedFloor s xs i o).power.floor = s.power.floor) := by
  refine ⟨fun h => ?_, fun h => ?_⟩
  · rw [sensedFloor, if_pos h]; exact enterFloor_floor _ _ hpg
  · rw [sensedFloor, if_neg (by omega)]; rfl

theorem exec_thermalSample_due (hpg : s.power.pg = true) (htick : s.tick % 10000 = 0) (hlen : xs.length = 68) :
    exec (.thermalSample xs i o) s = .next (ibiCheck (if 1050 ≤ maxOf xs ∧ s.power.tstop = false
      then thermalStop (sensedFloor s xs i o) else sensedFloor s xs i o)) := by
  have hstop : (sensedFloor s xs i o).power.tstop = s.power.tstop := by rw [sensedFloor_floorOnly i o]; rfl
  rw [exec_thermalSample, execThermalSample, whenB_true _ _ (by simp [hpg, htick, hlen]), ← hstop]
  simp only [← Bool.not_eq_true']
  rfl

end thermal

/-- A thermal stop of a module that serves no request has none to commit. -/
theorem thermalStop_unserved {s : State} (h : ∀ p, p < 16 → reqsOf s p = []) : thermalStop s = { s with power := { s.power with
    tstop := true, tsParts := [], tsRuns := partIds.flatMap (fun p => (getPart s p).runs.map (·.cmd)) } } := by
  have hnone : partIds.filter (fun p => (getPart s p).phase != .absent && (getPart s p).phase != .faulted && !(reqsOf s p).isEmpty) = [] :=
    List.filter_eq_nil_iff.mpr fun p hp => by simp [h p (List.mem_range.mp hp)]
  unfold thermalStop
  rw [hnone]
  rfl

section stopEnd

variable {s : State} {a : Nat} (ha : s.power.below95 = some a)
include ha

theorem exec_thermalStopEnd_due (hstop : s.power.tstop = true) (hdue : a + 1000000000 ≤ s.tick) : exec .thermalStopEnd s = .next (ibiCheck (releaseAll { s with
    power := { s.power with tstop := false, stopEnd := some s.tick, ramp := some s.tick, rampRate := 80 } })) := by
  rw [exec_thermalStopEnd, execThermalStopEnd, ha]
  exact congrArg _ (whenB_true _ _ (by simp [hstop, hdue]))

theorem exec_thermalStopEnd_early (hearly : s.tick < a + 1000000000) : exec .thermalStopEnd s = .next s := by
  rw [exec_thermalStopEnd, execThermalStopEnd, ha]
  exact congrArg _ (whenB_false _ _ (by simp [hearly]))

end stopEnd

/-- Settles O46: each response by its next state, entry to floor pace by the figures it sets. -/
theorem paceDroopThermal : Obligations.PaceDroopThermal := by
  refine ⟨fun s d hd hpg hfree => ⟨_, exec_droopTrip_free hd hpg hfree, ?trip⟩,
    fun s u v d ns hd hpg hheld hu hv => ?release, fun s w hpg htick _ => ?sample,
    fun s L hpg hpaced hf htick hL => ?governor, fun s tj c hpg hf => ⟨_, rfl, ?enters⟩,
    fun s hpg hf hpaced hpfw havg htj hclimb hhot hover =>
      ⟨_, exec_floorPaceClimb_due hpg hf hpaced hpfw havg htj hclimb hhot hover, ?climb⟩,
    fun s a hdep hpg hpaced hcool hpfw hover href =>
      ⟨_, exec_departureReturn_due hdep hpg hpaced hcool hpfw hover href, ?returns⟩,
    fun s a k hramp hpg hpaced hrate h1 hk hdue => exec_startRampPaceStep_due hramp hpg hpaced hrate h1 hk hdue,
    fun s xs i o hpg htick hlen => ⟨_, exec_thermalSample_due i o hpg htick hlen, ?thermal⟩,
    fun s h => thermalStop_unserved h,
    fun s a ha hstop => ⟨exec_thermalStopEnd_due ha hstop, exec_thermalStopEnd_early ha⟩⟩
  case trip =>
    rw [modPow_power]
    exact ⟨by rw [SGet_SSet_self], fun k hk => by rw [SGet_SSet_ne _ _ _ hk], by rw [SGet_SSet_self], rfl⟩
  case release =>
    have hexec := exec_droopRelease_held hd hpg ns hheld
    have hsame : v = droopReleased s d ns := by rw [hv, hu _ rfl]; rfl
    subst hsame
    exact ⟨fun h => hexec.trans (congrArg _ (if_neg (Nat.not_lt.mpr h))), fun h => hexec.trans (congrArg _ (if_pos h))⟩
  case sample =>
    obtain ⟨hpower, hhost, hmem, hrtes⟩ := capWatch_kept (sampled s w)
    refine ⟨_, exec_powerSample_due w hpg htick, ?_⟩
    split
    next hover =>
      have hfloor := enterFloor_floorOnly (capWatch (sampled s w)) false (some 4)
      have hkept := enterFloor_kept (capWatch (sampled s w)) false (some 4)
      refine ⟨?_, ?_, ?_, fun _ => enterFloor_floor _ _ (by rw [hpower]; exact hpg), hkept.1.trans hhost, hkept.2.1.trans hmem,
        hkept.2.2.1.trans hrtes⟩
      all_goals rw [hfloor, hpower]; rfl
    next hno =>
      rw [hpower]
      exact ⟨rfl, rfl, rfl, fun h => absurd h hno, hhost, hmem, hrtes⟩
  case governor =>
    subst hL
    exact ⟨fun hhot => ⟨exec_governorAction_lowers hpg hpaced hf htick hhot, exec_governorAction_bottom hpg hpaced hf htick hhot⟩,
      fun hlow htj => ⟨exec_governorAction_raises hpg hpaced hf htick hlow htj,
        fun hv => exec_governorAction_stays hpg hpaced hf htick (by omega) (.inr hv)⟩,
      fun hhigh hmid htj => exec_governorAction_stays hpg hpaced hf htick (by omega) (.inl hmid)⟩
  case enters =>
    obtain ⟨hhost, hmem, hrtes, heng⟩ := enterFloor_kept s tj c
    rw [enterFloor_power tj c hpg hf]
    exact ⟨rfl, rfl, rfl, rfl, rfl, fun hp hd => by simp [floorPower, hp, hd],
      fun x hx => enterFloor_capLog tj c hpg hf hx, hhost, hmem, hrtes, heng⟩
  case climb =>
    rw [ibiCheck_parts, (ibiCheck_kept _).1, ibiCheck_power, modPow_power]
    cases hb : s.power.burst
    · by_cases htop : topRate s.power.vset s.power.tj ≤ s.power.gate + 50
      · simp [htop, Nat.not_lt.mpr htop]
      · simp [htop, hf]
    · simp [hf]
  case returns =>
    obtain ⟨hhost, hmem⟩ := ibiCheck_kept (returned s a)
    obtain ⟨hhost', hmem', hpower⟩ := returned_rest s a
    rw [ibiCheck_power, hpower, hhost, hmem]
    exact ⟨rfl, rfl, rfl, rfl, rfl, hhost', hmem'⟩
  case thermal =>
    obtain ⟨hhost, hrtes, hmem, heng⟩ := sensedFloor_kept (s := s) (xs := xs) i o
    obtain ⟨hon, hoff⟩ := sensedFloor_floor (xs := xs) i o hpg
    refine ⟨?_, ?_, ?_, ?_, ?_, hon, hoff, fun h => ?_, fun h => ?_, hhost, hrtes, hmem, heng⟩
    all_goals rw [sensedFloor_floorOnly i o]
    iterate 5 rfl
    · exact if_neg (by omega)
    · exact if_neg (by omega)

end Sys2Proof.Machine
end

section
/-! Peer accesses at their target (R175, R179, R256 to R259, R278 to R282, R332, R341). -/

namespace Sys2Proof.Machine

/-- The state after the oldest request of port `n` has been taken and its slots freed. -/
def requestTaken (s : State) (n : Nat) (m : Msg) (r : List Msg) : State :=
  modPort s n (fun p => { p with msgs0 := r }.free 0 (slotsOf m))

/-- What the answer to a request leaves as it was. -/
theorem respond_kept (s : State) (m : Msg) (mtype status : Nat) (data : List Byte) : (respond s m mtype status data).mem = s.mem ∧
    (respond s m mtype status data).parts = s.parts ∧ (respond s m mtype status data).host = s.host ∧
    (respond s m mtype status data).eng = s.eng := by
  have h := respond_within (fs := [.fab, .pew]) (a2 := m) (a3 := mtype) (a4 := status) (a5 := data) (by decide) (by decide) (.refl _ s)
  exact ⟨h.mem.resolve_left (by decide), h.parts.resolve_left (by decide), h.host.resolve_left (by decide), h.eng.resolve_left (by decide)⟩

theorem memPut_rest (s : State) (off : Nat) (bs : List Byte) : (memPut s off bs).parts = s.parts ∧ (memPut s off bs).host = s.host ∧
    (memPut s off bs).eng = s.eng := by
  have h := memPut_within (fs := [.mem]) off bs (by decide) (.refl _ s)
  exact ⟨h.parts.resolve_left (by decide), h.host.resolve_left (by decide), h.eng.resolve_left (by decide)⟩

theorem memTouch_rest (s : State) (off len : Nat) : (memTouch s off len).parts = s.parts ∧ (memTouch s off len).host = s.host ∧
    (memTouch s off len).eng = s.eng := by
  have h := memTouch_within (fs := [.mem]) (a2 := off) (a3 := len) (by decide) (.refl _ s)
  exact ⟨h.parts.resolve_left (by decide), h.host.resolve_left (by decide), h.eng.resolve_left (by decide)⟩

section served

variable {s : State} {n : Nat} {m : Msg} {r : List Msg} (hn : n < 16) (hpg : s.power.pg = true)
  (hport : (getPort s n).state = .active ∨ (getPort s n).state = .retrain) (hmsg : (getPort s n).msgs0 = m :: r)
include hn hpg hport hmsg

theorem takeMsg_front {mtype : Nat} (ht : m.mtype = mtype) (f : Msg → State → State) :
    takeMsg n 0 mtype s f = .next (f m (requestTaken s n m r)) := by
  rw [takeMsg, portRow, onUnit_known _ (decide_eq_true hn), whenB_true _ _ hpg,
    if_neg (by rcases hport with h | h <;> simp [h]), if_pos rfl, hmsg]
  exact congrArg _ (if_neg (by simp [ht]))

/-- A read that is taken, by what its window and its bytes allow. -/
theorem exec_rd_front (ht : m.mtype = 1) : exec (.rd n) s = .next
    (if !windowOpen s false m.src m.spart m.off m.len then respond (portCount (requestTaken s n m r) n 9) m 4 1 []
    else if memWaits s m.off m.len then s
    else if memLost s m.off m.len then respond (requestTaken s n m r) m 4 2 []
    else respond (memTouch (requestTaken s n m r) m.off m.len) m 4 0 (memGet s m.off m.len)) := by
  rw [exec_rd, execRd, takeMsg_front hn hpg hport hmsg ht]
  rfl

/-- A write that is taken: it waits, takes effect, or is refused. -/
theorem exec_wr_front (ht : m.mtype = 2) : exec (.wr n) s = .next
    (if writeToMem s m && memWaits s m.off m.len then s
    else match serveWrite (requestTaken s n m r) m with
      | some t => respond t m 5 0 []
      | none => respond (portCount (requestTaken s n m r) n 9) m 5 1 []) := by
  rw [exec_wr, execWr, takeMsg_front hn hpg hport hmsg ht]
  rfl

theorem exec_wr_served (ht : m.mtype = 2) (hgo : (writeToMem s m && memWaits s m.off m.len) = false) {t : State}
    (hserve : serveWrite (requestTaken s n m r) m = some t) : exec (.wr n) s = .next (respond t m 5 0 []) := by
  rw [exec_wr_front hn hpg hport hmsg ht, if_neg (ne_true_of_eq_false hgo), hserve]

theorem exec_wr_refused (ht : m.mtype = 2) (hgo : (writeToMem s m && memWaits s m.off m.len) = false)
    (hserve : serveWrite (requestTaken s n m r) m = none) :
    exec (.wr n) s = .next (respond (portCount (requestTaken s n m r) n 9) m 5 1 []) := by
  rw [exec_wr_front hn hpg hport hmsg ht, if_neg (ne_true_of_eq_false hgo), hserve]

end served

/-! ### What takes a write (R278) -/

section takers

variable {s : State} {m : Msg}

theorem serveWrite_chain {p i : Nat} {c : Chain} (h : chainTarget s m.src m.off m.len = some (p, c, i)) :
    serveWrite s m = some (chainWrite s p c i m.off m.data) := by
  rw [serveWrite, h]

theorem serveWrite_window (hchain : chainTarget s m.src m.off m.len = none)
    (hopen : windowOpen s true m.src m.spart m.off m.len = true) : serveWrite s m = some (memPut s m.off m.data) := by
  rw [serveWrite, hchain]
  exact if_pos hopen

variable (hchain : chainTarget s m.src m.off m.len = none) (hclosed : windowOpen s true m.src m.spart m.off m.len = false)
include hchain hclosed

theorem writeToMem_closed : writeToMem s m = false := by
  rw [writeToMem, hchain, hclosed]
  rfl

/-- A write that no memory takes, by the notice window or the buffer it falls into. -/
theorem serveWrite_closed : serveWrite s m = (match noticeTarget s m.src m.off with
    | some (p, c) => some (noticeWrite s p c m.src m.data)
    | none => match jobBufAt s m.src m.spart m.off m.len with
      | some (p, h, o) => some (jobBytes p m.src m.spart h o m.data s)
      | none => (resultBufAt s m.src m.spart m.off m.len).map (fun r => resultBytes r.1 m.src m.spart r.2.1 r.2.2 m.data s)) := by
  rw [serveWrite, hchain]
  exact if_neg (ne_true_of_eq_false hclosed)

theorem serveWrite_notice {p : Nat} {c : Chain} (h : noticeTarget s m.src m.off = some (p, c)) :
    serveWrite s m = some (noticeWrite s p c m.src m.data) := by
  rw [serveWrite_closed hchain hclosed, h]

theorem serveWrite_job (hnotice : noticeTarget s m.src m.off = none) {p h o : Nat}
    (hjob : jobBufAt s m.src m.spart m.off m.len = some (p, h, o)) :
    serveWrite s m = some (jobBytes p m.src m.spart h o m.data s) := by
  rw [serveWrite_closed hchain hclosed, hnotice, hjob]

theorem serveWrite_result (hnotice : noticeTarget s m.src m.off = none) (hjob : jobBufAt s m.src m.spart m.off m.len = none)
    {p h o : Nat} (hresult : resultBufAt s m.src m.spart m.off m.len = some (p, h, o)) :
    serveWrite s m = some (resultBytes p m.src m.spart h o m.data s) := by
  rw [serveWrite_closed hchain hclosed, hnotice, hjob, hresult]
  rfl

end takers

/-- A write that nothing takes is not one to memory. -/
theorem writeToMem_of_none {s : State} {m : Msg} (h : serveWrite s m = none) : writeToMem s m = false := by
  rcases hchain : chainTarget s m.src m.off m.len with _ | ⟨p, c, i⟩
  · cases hopen : windowOpen s true m.src m.spart m.off m.len
    · exact writeToMem_closed hchain hopen
    · rw [serveWrite_window hchain hopen] at h
      exact absurd h (Option.some_ne_none _)
  · rw [serveWrite_chain hchain] at h
    exact absurd h (Option.some_ne_none _)

/-- Settles O31: each request by the window, chain, notice or buffer that takes it. -/
theorem peerRequestsAreServed : Obligations.PeerRequestsAreServed := by
  rintro s _ n m r hn hpg hport hmsg rfl
  have hrd := exec_rd_front hn hpg hport hmsg
  have hserved {t : State} := exec_wr_served (t := t) hn hpg hport hmsg
  refine ⟨fun ht hopen hwait => ?readWaits, fun ht hto hwait => ?writeWaits, fun ht hopen hgo hgood => ⟨_, ?read, rfl, ?readKeeps⟩,
    fun ht hopen hgo hlost => ?lost, fun ht hclosed => ?denied,
    fun ht hgo hchain hopen => ⟨_, hserved ht (by rw [hgo, Bool.and_false]) (serveWrite_window hchain hopen), rfl, ?write⟩,
    fun ht hgo p c i hchain => hserved ht (by rw [hgo, Bool.and_false]) (serveWrite_chain hchain), fun ht hchain hclosed => ?closed,
    fun ht hnone => ⟨_, exec_wr_refused hn hpg hport hmsg ht ?_ hnone, rfl, ?refused⟩⟩
  case readWaits => rw [hrd ht, hopen, hwait]; rfl
  case writeWaits => rw [exec_wr_front hn hpg hport hmsg ht, hto, hwait]; rfl
  case read => rw [hrd ht, hopen, hgo, hgood]; rfl
  case readKeeps =>
    obtain ⟨hmem, hparts, hhost, heng⟩ := respond_kept (memTouch (requestTaken s n m r) m.off m.len) m 4 0 (memGet s m.off m.len)
    obtain ⟨hparts', hhost', heng'⟩ := memTouch_rest (requestTaken s n m r) m.off m.len
    exact ⟨(congrArg Mem.bytes hmem).trans (cacheAccess_bytes _ _ _ _ _), hparts.trans hparts', hhost.trans hhost', heng.trans heng'⟩
  case lost => rw [hrd ht, hopen, hgo, hlost]; rfl
  case denied => rw [hrd ht, hclosed]; rfl
  case write =>
    obtain ⟨hmem, hparts, hhost, heng⟩ := respond_kept (memPut (requestTaken s n m r) m.off m.data) m 5 0 []
    obtain ⟨hparts', hhost', heng'⟩ := memPut_rest (requestTaken s n m r) m.off m.data
    refine ⟨?_, fun a ha => ?_, hparts.trans hparts', hhost.trans hhost', heng.trans heng'⟩
    · rw [memGet, hmem]; exact memGet_memPut _ _ _
    · rw [hmem]; exact byte_memPut_outside _ _ _ ha
  case closed =>
    have hgo : (writeToMem s m && memWaits s m.off m.len) = false := by rw [writeToMem_closed hchain hclosed, Bool.false_and]
    exact ⟨fun p c hnotice => hserved ht hgo (serveWrite_notice (s := requestTaken s n m r) hchain hclosed hnotice),
      fun hnotice => ⟨fun p h o hjob => hserved ht hgo (serveWrite_job (s := requestTaken s n m r) hchain hclosed hnotice hjob),
        fun p h o hjob hresult => hserved ht hgo (serveWrite_result (s := requestTaken s n m r) hchain hclosed hnotice hjob hresult)⟩⟩
  case refused =>
    obtain ⟨hmem, hparts, -⟩ := respond_kept (portCount (requestTaken s n m r) n 9) m 5 1 []
    exact ⟨hmem, hparts⟩
  · have hno : writeToMem s m = false := writeToMem_of_none (s := requestTaken s n m r) hnone
    rw [hno, Bool.false_and]

end Sys2Proof.Machine
end

section
/-! Blocks of local memory, its rows and their refresh, and the upkeep of the module (R264, R270 to R275, R369, R438 to R440). -/

namespace Sys2Proof.Machine

/-! ### A block comes back (R264, R270, R271, R369) -/

theorem exec_memoryReadReturn_room {s : State} {off n : Nat} (errs errs2 : List (Nat × Byte)) (tier1 : Bool)
    (hin : inMemory off = true) (hpg : s.power.pg = true) (hblocked : blocked s (blockAt off) = false)
    (hfence : fenced s utGroup (blockAt off / 2 ^ 36) = false)
    (hn : n = (if takerHeld s (blockAt off / 2 ^ 36) then SGet 0 s.mem.fifo (subOf (blockAt off)) + 1 else 0)) (hroom : n ≤ 32) :
    exec (.memoryReadReturn off errs errs2 tier1) s = .next (blockBack (activate (modMem s (fun m => { m with
      fifo := SSet 0 m.fifo (subOf (blockAt off)) n, reads := m.reads.filter (fun r => r.1 != blockAt off) })) (blockAt off))
      (blockAt off) errs errs2 tier1) := by
  subst hn
  rw [exec_memoryReadReturn, execMemoryReadReturn, onUnit_known _ hin,
    whenB_true _ _ (by rw [hpg, hblocked, hfence]; simpa using hroom)]

theorem readBlock_lost {s : State} {off : Nat} (errs : List (Nat × Byte)) (h : blockLost s off = true) :
    readBlock s off errs = .uncorrectable := if_pos h

section back

variable {s : State} {off : Nat} {errs errs2 : List (Nat × Byte)} {data : Bool}

theorem blockBack_clean (h : readBlock s off errs = .clean) : blockBack s off errs errs2 data = s := by
  rw [blockBack, h]

theorem blockBack_corrected {d : List Byte} (h : readBlock s off errs = .corrected d) :
    blockBack s off errs errs2 data = correctRow (memStore s (primaryOf s off) d) off := by
  rw [blockBack, h]

variable (h : readBlock s off errs = .uncorrectable)
include h

/-- A block without a second copy is lost. -/
theorem blockBack_single (hm : mirrored s off = false) (hp : primaryOf s off = off) :
    blockBack s off errs errs2 data = if data then lostData (lostRow s off) off else lostRow s off := by
  have hother : otherCopy s off = none := by rw [otherCopy, if_neg (ne_true_of_eq_false hm), if_pos hp]
  rw [blockBack, h, hother, hp]

variable (hm : mirrored s off = true)
include hm

/-- A mirrored block is repaired from its second copy. -/
theorem blockBack_repaired (hcopy : readBlock (activate s (copyOf off)) (copyOf off) errs2 = .clean) :
    blockBack s off errs errs2 data = markLost (lostRow (activate s (copyOf off)) off) off false := by
  rw [blockBack, h, otherCopy, if_pos hm]
  dsimp only
  rw [hcopy]

theorem blockBack_bothLost (hcopy : readBlock (activate s (copyOf off)) (copyOf off) errs2 = .uncorrectable) (hdata : data = false) :
    blockBack s off errs errs2 data = lostRow (lostRow (activate s (copyOf off)) off) (copyOf off) := by
  subst hdata
  rw [blockBack, h, otherCopy, if_pos hm]
  dsimp only
  rw [hcopy]
  rfl

end back

/-! ### Rows that are counted and remapped (R273, R369) -/

section remap

variable {s : State} {off : Nat} (src : Nat)

theorem remapRow_spareless (h : sparesOf s (subOf off) = 0) : remapRow s off src = groupFault s (off / 2 ^ 36) src off := if_pos h

theorem remapRow_spare (h : sparesOf s (subOf off) ≠ 0) :
    SGet 0 (remapRow s off src).mem.spares (subOf off) = SGet 0 s.mem.spares (subOf off) + 1 ∧
    rowOf off ∈ (remapRow s off src).mem.remaps ∧ (remapRow s off src).mem.bytes = s.mem.bytes := by
  have hmem : (remapRow s off src).mem = { s.mem with
      spares := SSet 0 s.mem.spares (subOf off) (SGet 0 s.mem.spares (subOf off) + 1)
      remaps := if s.mem.remaps.contains (rowOf off) then s.mem.remaps else s.mem.remaps ++ [rowOf off]
      corrected := s.mem.corrected.filter (fun c => c.1 != rowOf off) } := by
    rw [remapRow, if_neg h]
    rfl
  rw [hmem]
  refine ⟨by dsimp only; rw [SGet_SSet_self], ?_, rfl⟩
  dsimp only
  split
  next hin => exact List.contains_iff_mem.mp hin
  next => exact List.mem_append_right _ (List.mem_singleton_self _)

end remap

theorem exec_tier1ReadLate_due {s : State} {off : Nat} {r : Nat × Nat × Nat} (hin : inMemory off = true)
    (h : s.mem.reads.find? (fun r => r.1 == off && decide (r.2.2 + 10000 ≤ s.tick)) = some r) :
    exec (.tier1ReadLate off) s = .next (groupFault s (r.1 / 2 ^ 36) 0x0C r.1) := by
  rw [exec_tier1ReadLate, execTier1ReadLate, h]
  exact onUnit_known _ hin

/-! ### Targeted refreshes (R273, R274) -/

/-- A row without a counter. -/
theorem countOf_of_absent {r : Nat} {cs : List (Nat × Nat)} (h : ∀ c ∈ cs, c.1 ≠ r) : countOf r cs = 0 := by
  rw [countOf, List.find?_eq_none.mpr fun c hc => by simpa using h c hc]
  rfl

theorem fst_ne_of_mem_filter {r : Nat} {cs : List (Nat × Nat)} : ∀ c ∈ cs.filter (fun c => c.1 != r), c.1 ≠ r :=
  fun _ hc => bne_iff_ne.mp (List.mem_filter.mp hc).2

section targeted

variable {s : State} {b : Nat} (r : Nat)

theorem targeted_shut (h : slotOpen s (b / 32 / 8) = false ∨ 8 < inWindow s (b / 32) + 4) : targeted s b r = s := by
  refine if_pos (h.imp_left fun h => ?_)
  rw [h]
  rfl

variable (hopen : slotOpen s (b / 32 / 8) = true) (hroom : inWindow s (b / 32) + 4 ≤ 8)
include hopen hroom

theorem targeted_open : targeted s b r = modMem s (fun m => { refreshed m b r with
    window := match slotTick s (b / 32 / 8) with
      | none => m.window
      | some t => SSet (0, 0) m.window (b / 32) (s.tick - t % 192, inWindow s (b / 32) + 4) }) := by
  refine if_neg fun h => ?_
  rcases h with h | h
  · rw [hopen] at h; exact absurd h (by decide)
  · omega

/-- A row's refreshes reset its counter and are no longer due. -/
theorem targeted_rows : SGet [] (targeted s b r).mem.rows b = (SGet [] s.mem.rows b).filter (fun c => c.1 != r) ∧
    SGet [] (targeted s b r).mem.due b = (SGet [] s.mem.due b).filter (· != r) := by
  rw [targeted_open r hopen hroom]
  exact ⟨SGet_SSet_self _ _ _ _, SGet_SSet_self _ _ _ _⟩

/-- A window takes the four refreshes of a row (R274). -/
theorem inWindow_targeted (ht : slotTick s (b / 32 / 8) ≠ none) : inWindow (targeted s b r) (b / 32) = inWindow s (b / 32) + 4 := by
  obtain ⟨t, ht⟩ := Option.ne_none_iff_exists'.mp ht
  have hsame : slotTick (targeted s b r) (b / 32 / 8) = some t := by rw [targeted_rowsOnly s b r]; exact ht
  have htick : (targeted s b r).tick = s.tick := by rw [targeted_rowsOnly s b r]
  have hwindow : SGet (0, 0) (targeted s b r).mem.window (b / 32) = (s.tick - t % 192, inWindow s (b / 32) + 4) := by
    rw [targeted_open r hopen hroom, ht]
    exact SGet_SSet_self _ _ _ _
  conv_lhs => rw [inWindow, hsame]
  dsimp only
  rw [hwindow, htick, if_pos rfl]

end targeted

/-- A refresh of some row leaves a row without a counter so. -/
theorem targeted_absent {s : State} {b r : Nat} (h : ∀ c ∈ SGet [] s.mem.rows b, c.1 ≠ r) (b' r' : Nat) :
    ∀ c ∈ SGet [] (targeted s b' r').mem.rows b, c.1 ≠ r := by
  unfold targeted
  dsimp only
  split
  · exact h
  · by_cases hb : b = b'
    · subst hb
      intro c hc
      rw [modMem_mem, refreshed, SGet_SSet_self] at hc
      exact h c (List.mem_of_mem_filter hc)
    · intro c hc
      rw [modMem_mem, refreshed, SGet_SSet_ne _ _ _ hb] at hc
      exact h c hc

theorem issueDue_absent {s : State} {b r : Nat} (h : ∀ c ∈ SGet [] s.mem.rows b, c.1 ≠ r) (b' : Nat) :
    ∀ c ∈ SGet [] (issueDue s b').mem.rows b, c.1 ≠ r :=
  List.foldlRecOn (motive := fun t : State => ∀ c ∈ SGet [] t.mem.rows b, c.1 ≠ r) _ _ h fun _ ht r' _ => targeted_absent ht b' r'

/-! ### An activation (R273) -/

/-- The bank of an offset lies in its sub-channel, and that in its group. -/
theorem bankOf_div (off : Nat) : bankOf off / 32 = subOf off ∧ subOf off / 8 = off / 2 ^ 36 := by
  have hbit := bits_lt off 32 1
  have hbank : bankBits off < 2 ^ 4 := BitVec.isLt _
  unfold bankOf subOf
  omega

section activation

variable {s : State} {off : Nat}

/-- The state after the activation is counted. -/
def counted (s : State) (off : Nat) : State :=
  modMem s (fun m => { m with rows := SSet [] m.rows (bankOf off) (activated (rowIn off) (SGet [] m.rows (bankOf off))) })

/-- The rows of a bank that are due, the row among them. -/
def joinedDue (r : Nat) (l : List Nat) : List Nat := if l.contains r then l else l ++ [r]

theorem mem_joinedDue (r : Nat) (l : List Nat) : r ∈ joinedDue r l := by
  unfold joinedDue
  split
  next hin => exact List.contains_iff_mem.mp hin
  next => exact List.mem_append_right _ (List.mem_singleton_self _)

/-- The state after the row's targeted refreshes have fallen due. -/
def fallenDue (s : State) (off : Nat) : State :=
  modMem (counted s off) (fun m => { m with due := SSet [] m.due (bankOf off) (joinedDue (rowIn off) (SGet [] m.due (bankOf off))) })

theorem activate_eq : activate s off = if countOf (rowIn off) (activated (rowIn off) (SGet [] s.mem.rows (bankOf off))) < 256
    then counted s off else targeted (fallenDue s off) (bankOf off) (rowIn off) := by
  have hcount : SGet [] (counted s off).mem.rows (bankOf off) = activated (rowIn off) (SGet [] s.mem.rows (bankOf off)) :=
    SGet_SSet_self _ _ _ _
  rw [← hcount]
  rfl

variable (h256 : 256 ≤ countOf (rowIn off) (activated (rowIn off) (SGet [] s.mem.rows (bankOf off))))
include h256

theorem activate_due : activate s off = targeted (fallenDue s off) (bankOf off) (rowIn off) := by
  rw [activate_eq, if_neg (Nat.not_lt.mpr h256)]

/-- With maintenance shut, or its window full, the row's refreshes wait. -/
theorem activate_waits (h : slotOpen s (off / 2 ^ 36) = false ∨ 8 < inWindow s (subOf off) + 4) :
    rowIn off ∈ SGet [] (activate s off).mem.due (bankOf off) := by
  obtain ⟨hsub, hgroup⟩ := bankOf_div off
  rw [activate_due h256, targeted_shut _ (by rw [hsub, hgroup]; exact h), fallenDue, modMem_mem, SGet_SSet_self]
  exact mem_joinedDue _ _

theorem activate_refreshes (hopen : slotOpen s (off / 2 ^ 36) = true) (hroom : inWindow s (subOf off) + 4 ≤ 8) :
    countOf (rowIn off) (SGet [] (activate s off).mem.rows (bankOf off)) = 0 := by
  obtain ⟨hsub, hgroup⟩ := bankOf_div off
  obtain ⟨hrows, -⟩ := targeted_rows (s := fallenDue s off) (b := bankOf off) (rowIn off) (by rw [hsub, hgroup]; exact hopen)
    (by rw [hsub]; exact hroom)
  rw [activate_due h256, hrows]
  exact countOf_of_absent fst_ne_of_mem_filter

end activation

theorem activate_mem_few {s : State} {off : Nat}
    (h : countOf (rowIn off) (activated (rowIn off) (SGet [] s.mem.rows (bankOf off))) < 256) : (activate s off).mem = { s.mem with
      rows := SSet [] s.mem.rows (bankOf off) (activated (rowIn off) (SGet [] s.mem.rows (bankOf off))) } := by
  rw [activate_eq, if_pos h]
  rfl

/-! ### Slots (R273, R274) -/

/-- The banks of a sub-channel that a slot serves. -/
def slotBanks (s : State) (sub : Nat) (p : Nat → Bool) : List Nat :=
  ((List.range 32).map (32 * sub + ·)).filter (fun b => p b || s.mem.rfm.contains b)

/-- The state in which the requests of a sub-channel are taken. -/
def slotTaken (s : State) (sub : Nat) : State := modMem s (fun m => { m with rfm := m.rfm.filter (fun b => b / 32 != sub) })

theorem serveSlot_shut {s : State} {sub : Nat} (p : Nat → Bool) (h : slotOpen s (sub / 8) = false) : serveSlot s sub p = s := by
  refine if_pos ?_
  rw [h]
  rfl

theorem serveSlot_open {s : State} {sub : Nat} (p : Nat → Bool) (h : slotOpen s (sub / 8) = true) :
    serveSlot s sub p = (slotBanks s sub p).foldl issueDue (slotTaken s sub) := by
  refine if_neg ?_
  rw [h]
  decide

theorem serveSlot_rowsOnly {s : State} {sub : Nat} (p : Nat → Bool) (h : slotOpen s (sub / 8) = true) :
    RowsOnly (slotTaken s sub) (serveSlot s sub p) := by
  rw [serveSlot_open p h]
  exact RowsOnly.foldl issueDue_rowsOnly _ _

/-- The bytes and all but local memory are as they were. -/
def BytesKept (s t : State) : Prop := t.mem.bytes = s.mem.bytes ∧ t = { s with mem := t.mem }

theorem BytesKept.trans {s t u : State} (h : BytesKept s t) (k : BytesKept t u) : BytesKept s u := by
  obtain ⟨hbytes, hrest⟩ := h
  obtain ⟨kbytes, krest⟩ := k
  refine ⟨kbytes.trans hbytes, ?_⟩
  rw [krest, hrest]

theorem RowsOnly.bytesKept {s t : State} (h : RowsOnly s t) : BytesKept s t := by
  unfold BytesKept
  rw [h]
  exact ⟨rfl, rfl⟩

/-- A slot that is open leaves no request of its sub-channel. -/
theorem serveSlot_kept {s : State} {sub : Nat} (p : Nat → Bool) (h : slotOpen s (sub / 8) = true) :
    BytesKept s (serveSlot s sub p) ∧ (serveSlot s sub p).mem.rfm = s.mem.rfm.filter (fun b => b / 32 != sub) := by
  have hrows := serveSlot_rowsOnly p h
  refine ⟨.trans (t := slotTaken s sub) ⟨rfl, rfl⟩ hrows.bytesKept, ?_⟩
  rw [hrows]
  rfl

/-- The first `n` sub-channels of a group, served in a maintenance window. -/
def maintained (s : State) (group n : Nat) : State :=
  (List.range n).foldl (fun s k => serveSlot s (8 * group + k) (fun _ => true)) s

theorem maintained_succ (s : State) (group n : Nat) :
    maintained s group (n + 1) = serveSlot (maintained s group n) (8 * group + n) (fun _ => true) := by
  rw [maintained, List.range_succ, List.foldl_append]
  rfl

section maintenance

variable {s : State} (hpg : s.power.pg = true)
include hpg

/-- The state after the refresh of a row, before the slot serves its sub-channel. -/
def rowRefreshed (s : State) (sub off : Nat) : State := modMem s (fun m => { m with
  rows := SSet [] m.rows (bankOf off) ((SGet [] m.rows (bankOf off)).filter (fun c => c.1 != rowIn off))
  refreshAt := SSet 0 m.refreshAt sub s.tick })

theorem exec_periodicRefresh_open {sub row off : Nat} (hsub : sub < 384) (hopen : slotOpen s (sub / 8) = true)
    (hoff : off = sub * 2 ^ 33 + row % 2 ^ 22 * 2048) :
    exec (.periodicRefresh sub row) s = .next (serveSlot (rowRefreshed s sub off) sub (fun b => b == bankOf off)) := by
  subst hoff
  rw [exec_periodicRefresh, execPeriodicRefresh, onUnit_known _ (decide_eq_true hsub), whenB_true _ _ (by rw [hpg, hopen]; rfl)]
  rfl

/-- The state in which a request of a bank waits. -/
def rfmAsked (s : State) (b : Nat) : State :=
  modMem s (fun m => { m with rfm := if m.rfm.contains b then m.rfm else m.rfm ++ [b] })

theorem exec_rfmRequest_asked {sub bank : Nat} (hsub : sub < 384) (hbank : bank < 32) :
    exec (.rfmRequest sub bank) s = .next (serveSlot (rfmAsked s (sub * 32 + bank)) sub (fun _ => false)) := by
  rw [exec_rfmRequest, execRfmRequest, onUnit_known _ (by simp [hsub, hbank]), whenB_true _ _ hpg]
  rfl

theorem exec_maintenanceWindow_open {group : Nat} (hg : group < 48) (hpaced : s.power.paced = true) (hopen : slotOpen s group = true) :
    exec (.maintenanceWindow group) s = .next (maintained s group 8) := by
  rw [exec_maintenanceWindow, execMaintenanceWindow, onUnit_known _ (decide_eq_true hg), whenB_true _ _ (by rw [hpg, hpaced, hopen]; rfl)]
  rfl

end maintenance

/-- Of a refresh the row has no counter, and its tick is recorded. -/
theorem periodicRefresh_served {s : State} {sub off : Nat} (hopen : slotOpen s (sub / 8) = true) (p : Nat → Bool) :
    BytesKept s (serveSlot (rowRefreshed s sub off) sub p) ∧
    SGet 0 (serveSlot (rowRefreshed s sub off) sub p).mem.refreshAt sub = s.tick ∧
    countOf (rowIn off) (SGet [] (serveSlot (rowRefreshed s sub off) sub p).mem.rows (bankOf off)) = 0 := by
  have hopen' : slotOpen (rowRefreshed s sub off) (sub / 8) = true := hopen
  have hrows := serveSlot_rowsOnly p hopen'
  refine ⟨.trans (t := rowRefreshed s sub off) ⟨rfl, rfl⟩ (serveSlot_kept p hopen').1, ?_, countOf_of_absent ?_⟩
  · rw [hrows]
    show SGet 0 (SSet 0 s.mem.refreshAt sub s.tick) sub = s.tick
    rw [SGet_SSet_self]
  · have hnone : ∀ c ∈ SGet [] (slotTaken (rowRefreshed s sub off) sub).mem.rows (bankOf off), c.1 ≠ rowIn off := by
      intro c hc
      refine fst_ne_of_mem_filter c (cs := SGet [] s.mem.rows (bankOf off)) ?_
      rwa [slotTaken, rowRefreshed, modMem_mem, modMem_mem, SGet_SSet_self] at hc
    rw [serveSlot_open p hopen']
    exact List.foldlRecOn (motive := fun t : State => ∀ c ∈ SGet [] t.mem.rows (bankOf off), c.1 ≠ rowIn off) _ _ hnone
      fun _ ht b _ => issueDue_absent ht b

/-- A slot that is open serves the one request of its sub-channel. -/
theorem slotBanks_one {s : State} {sub bank : Nat} (hbank : bank < 32) (hnone : ∀ b ∈ s.mem.rfm, b / 32 ≠ sub) :
    slotBanks (rfmAsked s (sub * 32 + bank)) sub (fun _ => false) = [sub * 32 + bank] := by
  have habsent : sub * 32 + bank ∉ s.mem.rfm := fun h => hnone _ h (by omega)
  have hasked : (rfmAsked s (sub * 32 + bank)).mem.rfm = s.mem.rfm ++ [sub * 32 + bank] :=
    if_neg (by simpa using habsent)
  have honly : ∀ k ∈ List.range 32, (false || (s.mem.rfm ++ [sub * 32 + bank]).contains (32 * sub + k)) = (k == bank) := by
    intro k hk
    have hother : 32 * sub + k ∉ s.mem.rfm := fun h => hnone _ h (by have := List.mem_range.mp hk; omega)
    rw [Bool.eq_iff_iff]
    simp only [Bool.false_or, List.contains_iff_mem, List.mem_append, hother, false_or, List.mem_singleton, beq_iff_eq]
    omega
  have hcount : (List.range 32).count bank = 1 := List.count_eq_one_of_mem List.nodup_range (List.mem_range.mpr hbank)
  rw [slotBanks, hasked, List.filter_map, Function.comp_def, List.filter_congr honly, List.filter_beq, hcount]
  simp [Nat.mul_comm]

/-- A request served at once leaves the one row that was due no longer due. -/
theorem rfmRequest_served {s : State} {sub bank r : Nat} (hbank : bank < 32) (hopen : slotOpen s (sub / 8) = true)
    (hdue : SGet [] s.mem.due (sub * 32 + bank) = [r]) (hnone : ∀ b ∈ s.mem.rfm, b / 32 ≠ sub) (hroom : inWindow s sub + 4 ≤ 8) :
    r ∉ SGet [] (serveSlot (rfmAsked s (sub * 32 + bank)) sub (fun _ => false)).mem.due (sub * 32 + bank) := by
  have hsub : (sub * 32 + bank) / 32 = sub := by omega
  obtain ⟨-, hleft⟩ := targeted_rows (s := slotTaken (rfmAsked s (sub * 32 + bank)) sub) (b := sub * 32 + bank) r
    (by rw [hsub]; exact hopen) (by rw [hsub]; exact hroom)
  have hdue' : SGet [] (slotTaken (rfmAsked s (sub * 32 + bank)) sub).mem.due (sub * 32 + bank) = [r] := hdue
  rw [serveSlot_open _ (show slotOpen (rfmAsked s _) _ = true from hopen), slotBanks_one hbank hnone, List.foldl_cons, List.foldl_nil,
    issueDue, hdue', List.foldl_cons, List.foldl_nil, hleft, hdue']
  simp

/-- The sub-channels of a group that a maintenance window has served have no request left. -/
theorem maintained_kept {s : State} {group : Nat} (hopen : slotOpen s group = true) (n : Nat) (hn : n ≤ 8) :
    BytesKept s (maintained s group n) ∧ ∀ b ∈ (maintained s group n).mem.rfm, b / 32 / 8 = group → 8 * group + n ≤ b / 32 := by
  induction n with
  | zero => exact ⟨⟨rfl, rfl⟩, fun b _ hb => by omega⟩
  | succ n ih =>
    obtain ⟨hkept, hrfm⟩ := ih (by omega)
    have hgroup : (8 * group + n) / 8 = group := by omega
    have hopen' : slotOpen (maintained s group n) ((8 * group + n) / 8) = true := by
      rw [hgroup, hkept.2]
      exact hopen
    obtain ⟨hserved, hleft⟩ := serveSlot_kept (fun _ => true) hopen'
    rw [maintained_succ]
    refine ⟨hkept.trans hserved, fun b hb hbg => ?_⟩
    rw [hleft] at hb
    obtain ⟨hb, hne⟩ := List.mem_filter.mp hb
    have hge := hrfm b hb hbg
    have hne := bne_iff_ne.mp hne
    omega

/-! ### Calibration and patrol (R438, R439) -/

/-- The state with the outcome of a sub-channel's calibration recorded. -/
def calibrated (s : State) (sub n : Nat) : State :=
  modMem s (fun m => { m with calFails := SSet 0 m.calFails sub n, calAt := SSet 0 m.calAt sub s.tick })

section calibration

variable {s : State} {sub : Nat} (hsub : sub < 384) (hpg : s.power.pg = true) (hfence : fenced s utGroup (sub / 8) = false)
  (hgap : s.power.paced = false ∨ partOfGroup s (sub / 8) = none ∨ ∃ p, partOfGroup s (sub / 8) = some p ∧ s.tick < (getPart s p).ctick + 200)
include hsub hpg hfence hgap

theorem exec_periodicCalibration_gap (ok : Bool) {n : Nat} (hn : n = if ok then 0 else SGet 0 s.mem.calFails sub + 1) :
    exec (.periodicCalibration sub ok) s = .next (if 3 ≤ n
      then groupFault (drawFree (calibrated s sub n)).2 (sub / 8) ((drawFree (calibrated s sub n)).1 % 256) (sub * 2 ^ 33)
      else calibrated s sub n) := by
  subst hn
  rw [exec_periodicCalibration, execPeriodicCalibration, onUnit_known _ (decide_eq_true hsub), whenB_true]
  · rfl
  · rw [hpg, hfence]
    rcases hgap with h | h | ⟨p, h, htick⟩
    · rw [h]; rfl
    · rw [h]; simp
    · rw [h]; simp [htick]

theorem exec_periodicCalibration_ok : exec (.periodicCalibration sub true) s = .next (calibrated s sub 0) :=
  exec_periodicCalibration_gap hsub hpg hfence hgap true rfl

theorem exec_periodicCalibration_fails (h : SGet 0 s.mem.calFails sub < 2) :
    exec (.periodicCalibration sub false) s = .next (calibrated s sub (SGet 0 s.mem.calFails sub + 1)) := by
  rw [exec_periodicCalibration_gap hsub hpg hfence hgap false (n := SGet 0 s.mem.calFails sub + 1) rfl, if_neg (by omega)]

/-- The third failure in a row faults the group. -/
theorem exec_periodicCalibration_faults (h : 2 ≤ SGet 0 s.mem.calFails sub) : ∃ u x, exec (.periodicCalibration sub false) s =
    .next (groupFault u (sub / 8) x (sub * 2 ^ 33)) ∧ u.mem.bytes = s.mem.bytes := by
  rw [exec_periodicCalibration_gap hsub hpg hfence hgap false (n := SGet 0 s.mem.calFails sub + 1) rfl, if_pos (by omega)]
  exact ⟨_, _, rfl, rfl⟩

end calibration

/-- A patrol step reads the next block of its sub-channel and advances. -/
theorem exec_patrolScrub_steps {s : State} {sub off : Nat} (errs errs2 : List (Nat × Byte)) (hsub : sub < 384)
    (hoff : off = sub * 2 ^ 33 + SGet 0 s.mem.patrol sub % 2 ^ 28 * 32) (hpg : s.power.pg = true) (hopen : slotOpen s (sub / 8) = true)
    (hblocked : blocked s off = false) (hfence : fenced s utGroup (sub / 8) = false) :
    ∃ t, exec (.patrolScrub sub errs errs2) s = .next t ∧ SGet 0 t.mem.patrol sub = SGet 0 s.mem.patrol sub + 1 ∧
      t.mem.bytes = (blockBack (activate s off) off errs errs2 false).mem.bytes := by
  subst hoff
  rw [exec_patrolScrub, execPatrolScrub, onUnit_known _ (decide_eq_true hsub),
    whenB_true _ _ (by rw [hpg, hopen, hblocked, hfence]; rfl)]
  refine ⟨_, rfl, ?_⟩
  dsimp only
  split
  · exact ⟨by rw [modMem_mem, SGet_SSet_self], rfl⟩
  · exact ⟨by rw [memCtr, modPew_mem, modMem_mem, SGet_SSet_self], rfl⟩

/-! ### Scrub of the words of a unit (R439) -/

section scrub

variable {s : State} {u n : Nat} (word : Nat) (hunit : sramUnit u n = true) (hpg : s.power.pg = true) (hin : outOfService s u n = false)
  (hgap : s.power.paced = false ∨ partOfUnit s u n = none ∨ ∃ p, partOfUnit s u n = some p ∧
    (s.tick < (getPart s p).ctick + 200 ∨ (getPart s p).chunk = none ∧ (getPart s p).step = none))
include hunit hpg hin hgap

theorem exec_sramScrub_gap (bits : Nat) : exec (.sramScrub u n word bits) s = .next (if bits = 0 then s
    else if bits = 1 then (if u = utCore ∧ word < 98304 then upsetWord s n word 1 else s) else sramError s u n word) := by
  rw [exec_sramScrub, execSramScrub, onUnit_known _ hunit, whenB_true]
  rw [hpg, hin]
  rcases hgap with h | h | ⟨p, h, htick | ⟨hchunk, hstep⟩⟩
  · rw [h]; rfl
  · rw [h]; simp
  · rw [h]; simp [htick]
  · rw [h]; simp [hchunk, hstep]

theorem exec_sramScrub_sound : exec (.sramScrub u n word 0) s = .next s := exec_sramScrub_gap word hunit hpg hin hgap 0

theorem exec_sramScrub_corrected :
    exec (.sramScrub u n word 1) s = .next (if u = utCore ∧ word < 98304 then upsetWord s n word 1 else s) :=
  exec_sramScrub_gap word hunit hpg hin hgap 1

theorem exec_sramScrub_error : exec (.sramScrub u n word 2) s = .next (sramError s u n word) :=
  exec_sramScrub_gap word hunit hpg hin hgap 2

end scrub

section sramError

variable (s : State) (n : Nat) {word : Nat}

theorem sramError_word (h : word < 98304) : sramError s utCore n word = upsetWord s n word 2 := by
  rw [sramError, if_pos rfl, if_pos h]

theorem sramError_tag (h : 98304 ≤ word) : sramError s utCore n word = tileMismatch s n (word - 98304) := by
  rw [sramError, if_pos rfl, if_neg (Nat.not_lt.mpr h)]

variable (word)

theorem sramError_cobalt : sramError s utCobalt n word = reportError s utCobalt 0x07 n 0 := rfl

theorem sramError_copper : sramError s utCopper n word = reportError s utCopper 0x08 n 0 := rfl

variable {s n word}

theorem sramError_noLine (h : SGet none s.mem.lines (65536 * n + word % 65536) = none) : sramError s utSlice n word = s := by
  rw [sramError, if_neg (by decide), if_neg (by decide), if_neg (by decide), h]

theorem sramError_line {l : Line} (h : SGet none s.mem.lines (65536 * n + word % 65536) = some l) :
    sramError s utSlice n word = lineMet s true (n * 2 ^ 36 + 128 * l.tag) := by
  rw [sramError, if_neg (by decide), if_neg (by decide), if_neg (by decide), h]

end sramError

/-! ### Ageing and the optical engines (R438, R440) -/

/-- A sector joins a list of warnings when `c` holds. -/
theorem mem_warned {l : List Nat} {sector : Nat} {c : Prop} [Decidable c] (hc : c) :
    sector ∈ if decide c && !l.contains sector then l ++ [sector] else l := by
  split
  next => exact List.mem_append_right _ (List.mem_singleton_self _)
  next h => simpa [hc] using h

theorem exec_ageingMeasurement_recorded {s : State} {sector : Nat} (count : Nat) (hsector : sector < 64) (hpg : s.power.pg = true) :
    ∃ t, exec (.ageingMeasurement sector count) s = .next t ∧
      SGet {} t.pew.age sector = ⟨Config.startOfLife sector, count, lossPpm (Config.startOfLife sector) count, s.tick⟩ ∧
      (40000 < lossPpm (Config.startOfLife sector) count → sector ∈ t.pew.ageWarn) ∧
      (50000 < lossPpm (Config.startOfLife sector) count → sector ∈ t.pew.ageLimit) ∧ t = { s with pew := t.pew } := by
  rw [exec_ageingMeasurement, execAgeingMeasurement, onUnit_known _ (decide_eq_true hsector), whenB_true _ _ hpg]
  refine ⟨_, rfl, ?_, fun h => mem_warned h, fun h => mem_warned h, rfl⟩
  dsimp only [modPew]
  rw [SGet_SSet_self]

theorem exec_opticalBiasCalibration_same {s : State} {port lane : Nat} (hport : port < 16) (hlane : lane < 8) :
    exec (.opticalBiasCalibration port lane) s = .next s := by
  rw [exec_opticalBiasCalibration, execOpticalBiasCalibration, onUnit_known _ (by simp [hport, hlane])]

/-! ### The obligation -/

/-- Settles O29: by what each command of local memory does. -/
theorem localMemoryAndUpkeep : Obligations.LocalMemoryAndUpkeep := by
  unfold Obligations.LocalMemoryAndUpkeep
  refine ⟨⟨?_, ?_, ?_, ?_, ?_⟩, ?_, ?_, ?_, ?_, ?_, ?_, ?_, ?_, ?_⟩
  · intro s off n errs errs2 tier1
    exact exec_memoryReadReturn_room errs errs2 tier1
  · intro s off errs errs2 data
    exact ⟨readBlock_lost errs, blockBack_clean, fun d => blockBack_corrected, blockBack_single,
      fun h hm => ⟨blockBack_repaired h hm, blockBack_bothLost h hm⟩⟩
  · intro s off
    have hrows := activate_rowsOnly s off
    exact ⟨by rw [hrows], by rw [hrows], activate_mem_few, fun h256 => ⟨activate_waits h256, activate_refreshes h256⟩⟩
  · intro s off src
    exact ⟨remapRow_spareless src, remapRow_spare src⟩
  · intro s off r
    exact exec_tier1ReadLate_due
  · intro s sub row off hsub hpg hopen hoff
    obtain ⟨⟨hbytes, hrest⟩, hat, hcount⟩ := periodicRefresh_served (off := off) hopen (fun b => b == bankOf off)
    exact ⟨_, exec_periodicRefresh_open hpg hsub hopen hoff, hbytes, hrest, hat, hcount⟩
  · intro s sub bank hsub hbank hpg
    have hasked := exec_rfmRequest_asked hpg hsub hbank
    refine ⟨fun hshut => hasked.trans (congrArg _ (serveSlot_shut _ hshut)), fun hopen => ?_⟩
    obtain ⟨hkept, hrfm⟩ := serveSlot_kept (s := rfmAsked s (sub * 32 + bank)) (fun _ => false) hopen
    obtain ⟨hbytes, hrest⟩ := BytesKept.trans (t := rfmAsked s (sub * 32 + bank)) ⟨rfl, rfl⟩ hkept
    refine ⟨_, hasked, hbytes, hrest, fun b hb => ?_, fun r hdue hnone hroom => rfmRequest_served hbank hopen hdue hnone hroom⟩
    rw [hrfm] at hb
    exact bne_iff_ne.mp (List.mem_filter.mp hb).2
  · intro s group hg hpg hpaced hopen
    obtain ⟨⟨hbytes, hrest⟩, hrfm⟩ := maintained_kept hopen 8 le_rfl
    refine ⟨_, exec_maintenanceWindow_open hpg hg hpaced hopen, hbytes, hrest, fun b hb hbg => ?_⟩
    have := hrfm b hb hbg
    omega
  · intro s bank r
    refine ⟨targeted_shut r, fun hopen hroom => ?_⟩
    obtain ⟨hrows, hdue⟩ := targeted_rows r hopen hroom
    exact ⟨by rw [hrows]; exact countOf_of_absent fst_ne_of_mem_filter, by rw [hdue]; simp, inWindow_targeted r hopen hroom⟩
  · intro s sub hsub hpg hfence hgap
    exact ⟨exec_periodicCalibration_ok hsub hpg hfence hgap, exec_periodicCalibration_fails hsub hpg hfence hgap,
      exec_periodicCalibration_faults hsub hpg hfence hgap⟩
  · intro s sub off errs errs2
    exact exec_patrolScrub_steps errs errs2
  · intro s u n word hunit hpg hin hgap
    have hone := exec_sramScrub_corrected word hunit hpg hin hgap
    have htwo := exec_sramScrub_error word hunit hpg hin hgap
    refine ⟨exec_sramScrub_sound word hunit hpg hin hgap, ?_, ?_, ?_, ?_, ?_⟩
    · rintro rfl hword
      exact ⟨by rw [hone, if_pos ⟨rfl, hword⟩], by rw [htwo, sramError_word s n hword]⟩
    · rintro rfl hword
      exact ⟨by rw [hone, if_neg fun h => absurd h.2 (Nat.not_lt.mpr hword)], by rw [htwo, sramError_tag s n hword]⟩
    · rintro rfl
      rw [htwo, sramError_cobalt]
    · rintro rfl
      rw [htwo, sramError_copper]
    · rintro rfl
      exact ⟨fun h => by rw [htwo, sramError_noLine h], fun l h => by rw [htwo, sramError_line h]⟩
  · intro s sector count
    exact exec_ageingMeasurement_recorded count
  · intro s port lane
    exact exec_opticalBiasCalibration_same

end Sys2Proof.Machine
end

section
/-! The work counter unit: CREATE, CLAIM, RETIRE, WITHDRAW, QUERY, DESTROY, held claims and answers (R199 to R207). -/

namespace Sys2Proof.Machine

/-! ### What the messages leave of the counters -/

@[simp] theorem ctrs_tinDrop (s : State) (m : Tin) : (tinDrop s m).eng.ctrs = s.eng.ctrs := by
  unfold tinDrop
  dsimp only
  split <;> rfl

@[simp] theorem getCtr_tinDrop (s : State) (m : Tin) (n : Nat) : getCtr (tinDrop s m) n = getCtr s n := by
  rw [getCtr, ctrs_tinDrop, getCtr]

@[simp] theorem getPart_tinDrop (s : State) (m : Tin) (p : Nat) : getPart (tinDrop s m) p = getPart s p := by
  rw [tinDrop_rest]
  rfl

@[simp] theorem getCtr_tinSend (s : State) (m : Tin) (n : Nat) : getCtr (tinSend s m) n = getCtr s n := rfl

@[simp] theorem getCtr_cntAnswer (s : State) (p dst tag arg : Nat) (data : List Byte) (n : Nat) :
    getCtr (cntAnswer s p dst tag arg data) n = getCtr s n := rfl

theorem getCtr_issueClaim (s : State) (n : Nat) (c : Ctr) (v : Nat) (again : Bool) (core sender tag : Nat) :
    getCtr (issueClaim s n c v again core sender tag) n = some { c with ledger := c.ledger ++ [{ val := v, core := core }] } :=
  (getCtr_cntAnswer _ _ _ _ _ _ n).trans (getCtr_setCtr s n _)

/-! ### A counter that is freed (R203) -/

theorem getCtr_freeCtr (s : State) (n k : Nat) : getCtr (freeCtr s n) k = getCtr (setCtr s n none) k := by
  unfold freeCtr
  split
  case h_1 habsent =>
    rcases eq_or_ne k n with rfl | hk
    · rw [habsent, getCtr_setCtr]
    · rw [getCtr_setCtr_ne _ _ hk]
  case h_2 c _ => exact foldl_proj (getCtr · k) (fun t (w : Nat × Nat × Nat) => tinSend t
      { dst := w.2.1, src := 0x1104, typ := 0x07, part := c.part, tag := w.2.2, arg := 4 }) (fun _ _ => rfl) c.waiting _

theorem getCtr_freeCtr_self (s : State) (n : Nat) : getCtr (freeCtr s n) n = none :=
  (getCtr_freeCtr s n n).trans (getCtr_setCtr s n none)

theorem getCtr_freeCtr_ne (s : State) {n k : Nat} (h : k ≠ n) : getCtr (freeCtr s n) k = getCtr s k :=
  (getCtr_freeCtr s n k).trans (getCtr_setCtr_ne s none h)

/-! ### What a CLAIM comes to (R203), in the order of the tests -/

section claim

variable {s : State} {n core sender tag : Nat} {c : Ctr} {again : Bool}

theorem tryClaim_stale (hgone : core ∈ c.gone) : tryClaim s n c again core sender tag = cntAnswer s c.part sender tag 3 [] :=
  if_pos (List.contains_iff_mem.mpr hgone)

variable (hheld : core ∉ c.gone)
include hheld

theorem tryClaim_limit (htwo : 2 ≤ coreClaims s core) : tryClaim s n c again core sender tag = cntAnswer s c.part sender tag 2 [] := by
  rw [tryClaim, if_neg (by simpa using hheld), if_pos htwo]

variable (hfew : coreClaims s core < 2)
include hfew

theorem tryClaim_behind (hwait : c.waiting ≠ []) : tryClaim s n c false core sender tag =
    setCtr s n (some { c with waiting := c.waiting ++ [(core, sender, tag)] }) := by
  rw [tryClaim, if_neg (by simpa using hheld), if_neg (Nat.not_le.mpr hfew), if_pos (by simpa using hwait)]

variable (hwait : c.waiting = [])
include hwait

/-- A claim that no earlier one holds back. -/
theorem tryClaim_front : tryClaim s n c again core sender tag =
    if !c.reissue.isEmpty then issueClaim s n { c with reissue := dropFirst (· == lowest c.reissue) c.reissue } (lowest c.reissue)
      true core sender tag
    else if c.next < tileCount c.probs then issueClaim s n { c with next := c.next + 1 } c.next false core sender tag
    else if c.ledger.isEmpty then cntAnswer s c.part sender tag 1 []
    else setCtr s n (some { c with waiting := [(core, sender, tag)] }) := by
  rw [tryClaim, if_neg (by simpa using hheld), if_neg (Nat.not_le.mpr hfew), if_neg (by simp [hwait]), hwait]
  rfl

theorem tryClaim_reissue (hre : c.reissue ≠ []) : tryClaim s n c again core sender tag =
    issueClaim s n { c with reissue := dropFirst (· == lowest c.reissue) c.reissue } (lowest c.reissue) true core sender tag := by
  rw [tryClaim_front hheld hfew hwait, if_pos (by simpa using hre)]

variable (hre : c.reissue = [])
include hre

theorem tryClaim_new (hnext : c.next < tileCount c.probs) : tryClaim s n c again core sender tag =
    issueClaim s n { c with next := c.next + 1 } c.next false core sender tag := by
  rw [tryClaim_front hheld hfew hwait, if_neg (by simp [hre]), if_pos hnext]

variable (hall : tileCount c.probs ≤ c.next)
include hall

theorem tryClaim_end (hled : c.ledger = []) : tryClaim s n c again core sender tag = cntAnswer s c.part sender tag 1 [] := by
  rw [tryClaim_front hheld hfew hwait, if_neg (by simp [hre]), if_neg (Nat.not_lt.mpr hall), if_pos (by simp [hled])]

theorem tryClaim_held (hled : c.ledger ≠ []) : tryClaim s n c again core sender tag =
    setCtr s n (some { c with waiting := [(core, sender, tag)] }) := by
  rw [tryClaim_front hheld hfew hwait, if_neg (by simp [hre]), if_neg (Nat.not_lt.mpr hall), if_neg (by simpa using hled)]

end claim

/-! ### The oldest operation of an endpoint (R201) -/

theorem cobDst_of_lt {n : Nat} (h : n < 0x1105) : cobDst n = true := decide_eq_true h

section operation

variable {s : State} {op src : Nat} {m : Tin} (hsrc : src < 0x1105) (hm : cntHead s op src = some m)
include hsrc hm

theorem cntOp_bad (f : Nat → Ctr → Tin → State → State) : cntOp op src true f s = .next (tinBad s m) := by
  rw [cntOp, onUnit_known _ (cobDst_of_lt hsrc), hm]
  rfl

theorem cntOp_absent (hc : getCtr s (bits m.arg 8 12) = none) (f : Nat → Ctr → Tin → State → State) :
    cntOp op src false f s = .next (cntAnswer (tinDrop s m) m.part src m.tag 4 []) := by
  rw [cntOp, onUnit_known _ (cobDst_of_lt hsrc), hm]
  dsimp only
  rw [if_neg Bool.false_ne_true, getCtr_tinDrop, hc]

variable {c : Ctr} (hc : getCtr s (bits m.arg 8 12) = some c) (hp : c.part = m.part)
include hc hp

theorem cntOp_own (f : Nat → Ctr → Tin → State → State) :
    cntOp op src false f s = .next (f (bits m.arg 8 12) c m (tinDrop s m)) := by
  rw [cntOp, onUnit_known _ (cobDst_of_lt hsrc), hm]
  dsimp only
  rw [if_neg Bool.false_ne_true, getCtr_tinDrop, hc]
  exact congrArg _ (if_pos hp)

end operation

/-! ### RETIRE (R205) and CREATE (R202) -/

section retire

variable {s : State} {src : Nat} {m : Tin} {c : Ctr} (hsrc : src < 0x1105) (hm : cntHead s 3 src = some m)
  (hc : getCtr s (bits m.arg 8 12) = some c) (hp : c.part = m.part)
include hsrc hm hc hp

theorem exec_cntRetire_stale (hgone : argCore m ∈ c.gone) :
    exec (.cntRetire src false) s = .next (cntAnswer (tinDrop s m) c.part src m.tag 3 []) := by
  rw [exec_cntRetire, execCntRetire, onUnit_known _ (cobDst_of_lt hsrc), hm]
  dsimp only
  rw [if_neg Bool.false_ne_true, getCtr_tinDrop, hc]
  dsimp only
  rw [if_neg (not_not_intro hp), if_pos (List.contains_iff_mem.mpr hgone)]

/-- A claim that its core holds, by whether a DRAIN of its tile is incomplete. -/
theorem exec_cntRetire_claimed (hheld : argCore m ∉ c.gone) {e : Claim}
    (he : c.ledger.find? (fun x => x.val == bits m.arg 32 32 && x.core == argCore m) = some e) :
    exec (.cntRetire src false) s =
      .next (if tileDraining (tinDrop s m) e.core (tileOfCtr (tinDrop s m) (bits m.arg 8 12) c e.val) then s
        else cntAnswer (retireTile (setCtr (tinDrop s m) (bits m.arg 8 12) (some { c with
          ledger := dropFirst (· == e) c.ledger, retired := c.retired + 1 }))
            (tileOfCtr (tinDrop s m) (bits m.arg 8 12) c e.val) e.flags) c.part src m.tag 0 []) := by
  rw [exec_cntRetire, execCntRetire, onUnit_known _ (cobDst_of_lt hsrc), hm]
  dsimp only
  rw [if_neg Bool.false_ne_true, getCtr_tinDrop, hc]
  dsimp only
  rw [if_neg (not_not_intro hp), if_neg (by simpa using hheld), he]

end retire

/-- The counter that a CREATE makes: nothing issued, retired or held. -/
def createdCtr (s : State) (n : Nat) (m : Tin) : Ctr :=
  { part := m.part, tr := fld m.data 0x14 2, tc := fld m.data 0x16 2, probs := createProbs s m.part m.data
    run := (s.eng.layers.find? (fun l => l.part == m.part && l.cnt == n)).bind (·.run) }

/-- Counters that a partition holds. -/
def ctrsHeld (s : State) (p : Nat) : Nat :=
  (s.eng.ctrs.filter (fun e => match e.2 with | some c => c.part == p | none => false)).length

@[simp] theorem ctrsHeld_tinDrop (s : State) (m : Tin) (p : Nat) : ctrsHeld (tinDrop s m) p = ctrsHeld s p := by
  rw [ctrsHeld, ctrs_tinDrop, ctrsHeld]

theorem cntCreate_fits {s : State} {n : Nat} {m : Tin} (hfree : getCtr s n = none) (hquota : ctrsHeld s m.part < (getPart s m.part).cntq)
    (hcount : tileCount (createProbs s m.part m.data) < 2 ^ 32) (htr : fld m.data 0x14 2 ≠ 0) (htc : fld m.data 0x16 2 ≠ 0) :
    cntCreate s n m = cntAnswer (setCtr s n (some (createdCtr s n m))) m.part m.src m.tag 0 [] := by
  unfold cntCreate
  exact (if_neg (by simp [hfree])).trans ((if_neg (Nat.not_le.mpr hquota)).trans (if_neg (by omega)))

theorem exec_cntCreate_read {s : State} {src : Nat} {m : Tin} (hsrc : src < 0x1105) (hm : cntHead s 1 src = some m)
    (hread : listUnread s m.part m.data = false) :
    exec (.cntCreate src false) s = .next (cntCreate (tinDrop s m) (bits m.arg 8 12) m) := by
  rw [exec_cntCreate, execCntCreate, onUnit_known _ (cobDst_of_lt hsrc), hm]
  dsimp only
  rw [if_neg Bool.false_ne_true, if_neg (ne_true_of_eq_false hread)]

/-! ### A held claim (R203) -/

/-- A held claim is tried again when a value waits for reissue, when no claim is out, and when its core is withdrawn. -/
theorem exec_claimHeldAnswer_due {s : State} {n : Nat} {c : Ctr} {w : Nat × Nat × Nat} {r : List (Nat × Nat × Nat)}
    (hc : getCtr s n = some c) (hw : c.waiting = w :: r) (hdue : c.reissue ≠ [] ∨ c.ledger = [] ∨ w.1 ∈ c.gone) :
    exec (.claimHeldAnswer n) s = .next
      (tryClaim (setCtr s n (some { c with waiting := r })) n { c with waiting := r } true w.1 w.2.1 w.2.2) := by
  rw [exec_claimHeldAnswer, execClaimHeldAnswer, hc]
  dsimp only
  rw [hw]
  refine congrArg _ (if_neg ?_)
  rintro ⟨hre, hled, hheld⟩
  rcases hdue with h | h | h
  · exact h (List.isEmpty_iff.mp hre)
  · simp [h] at hled
  · simp [h] at hheld

/-- Settles O20: each operation by what the counter's state makes of it. -/
theorem counterOperations : Obligations.CounterOperations := by
  refine ⟨?own, ?absent, fun s n c w r hc hw hdue => exec_claimHeldAnswer_due hc hw hdue,
    fun s dst m hlo hhi hm htyp hroom => (exec_cntRsp s).trans (deliverCob_sound hlo hhi hm hroom htyp _),
    fun s n v core sender tag c again => getCtr_issueClaim s n c v again core sender tag⟩
  case own =>
    rintro s _ src _ m c hsrc rfl rfl hc hp
    refine ⟨fun hm => ?claim, fun hm hheld e he => ?retire, fun hm hgone => exec_cntRetire_stale hsrc hm hc hp hgone,
      fun hm => (exec_cntWithdraw s).trans (cntOp_own hsrc hm hc hp _), fun hm => (exec_cntQuery s).trans (cntOp_own hsrc hm hc hp _),
      fun hm => ⟨_, (exec_cntDestroy s).trans (cntOp_own hsrc hm hc hp _), getCtr_freeCtr_self _ _,
        fun k hk => (getCtr_freeCtr_ne _ hk).trans (getCtr_tinDrop _ _ _)⟩⟩
    case claim =>
      have hexec := (exec_cntClaim s).trans (cntOp_own hsrc hm hc hp (fun n c m s => tryClaim s n c false (argCore m) src m.tag))
      exact ⟨fun hgone => hexec.trans (congrArg _ (tryClaim_stale hgone)),
        fun hheld htwo => hexec.trans (congrArg _ (tryClaim_limit hheld htwo)),
        fun hheld hfew hwait v r hre => hexec.trans (congrArg _ (tryClaim_reissue hheld hfew hwait (by simp [hre]))),
        fun hheld hfew hwait hre hnext => hexec.trans (congrArg _ (tryClaim_new hheld hfew hwait hre hnext)),
        fun hheld hfew hwait hre hall hled => hexec.trans (congrArg _ (tryClaim_end hheld hfew hwait hre hall hled)),
        fun hheld hfew hwait hre hall hled => hexec.trans (congrArg _ (tryClaim_held hheld hfew hwait hre hall hled)),
        fun hheld hfew hwait => hexec.trans (congrArg _ (tryClaim_behind hheld hfew hwait))⟩
    case retire =>
      have hexec := exec_cntRetire_claimed hsrc hm hc hp hheld he
      exact ⟨fun hdone => hexec.trans (congrArg _ (if_neg (ne_true_of_eq_false hdone))),
        fun hdrain => hexec.trans (congrArg _ (if_pos hdrain))⟩
  case absent =>
    rintro s _ src m hsrc rfl hfree
    refine ⟨fun hm => ⟨(exec_cntClaim s).trans (cntOp_absent hsrc hm hfree _), (exec_cntClaim s).trans (cntOp_bad hsrc hm _)⟩,
      fun hm hread hquota hcount htr htc => ?create⟩
    have hmade := cntCreate_fits (s := tinDrop s m) (by rwa [getCtr_tinDrop]) (by rwa [ctrsHeld_tinDrop, getPart_tinDrop]) hcount htr htc
    exact ⟨_, createdCtr (tinDrop s m) (bits m.arg 8 12) m, (exec_cntCreate_read hsrc hm hread).trans (congrArg _ hmade),
      (getCtr_cntAnswer _ _ _ _ _ _ _).trans (getCtr_setCtr _ _ _), rfl, rfl, rfl, rfl, rfl, rfl, rfl, rfl, rfl, rfl,
      fun k hk => (getCtr_cntAnswer _ _ _ _ _ _ k).trans ((getCtr_setCtr_ne _ _ hk).trans (getCtr_tinDrop _ _ _))⟩

end Sys2Proof.Machine
end

section
/-! The life of a layer: its run checks and its counter, the rows of D, and its end (R193, R194, R197 to R209, R222, R268). -/

namespace Sys2Proof.Machine

/-! ### What a write of local memory leaves of the addresses' checks (R269, R272) -/

@[simp] theorem classMap_lineWrite (ch : Nat) (m : Mem) (off : Nat) : (lineWrite ch m off).classMap = m.classMap := by
  unfold lineWrite
  split
  · split
    · rfl
    · dsimp only
      split <;> rfl
  · split <;> rfl

@[simp] theorem classMap_activate (s : State) (off : Nat) : (activate s off).mem.classMap = s.mem.classMap := by
  rw [activate_rowsOnly]

@[simp] theorem classMap_lineAccess_write (ch : Nat) (s : State) (o : Nat) :
    (lineAccess true ch s o).mem.classMap = s.mem.classMap := by
  unfold lineAccess
  split
  · exact (classMap_lineWrite ch _ o).trans (foldl_proj (·.mem.classMap) activate classMap_activate _ s)
  · exact classMap_activate s o

theorem classMap_memPut (s : State) (off : Nat) (bs : List Byte) : (memPut s off bs).mem.classMap = s.mem.classMap :=
  foldl_proj (·.mem.classMap) (lineAccess true 0) (classMap_lineAccess_write 0) (linesIn off bs.length) s

theorem memPut_memOnly (s : State) (off : Nat) (bs : List Byte) : memPut s off bs = { s with mem := (memPut s off bs).mem } :=
  localWrite_rest s 0 off bs

theorem localOf_memPut (s : State) (off : Nat) (bs : List Byte) (p : Nat) (img : Option Nat) (a : Nat) :
    localOf (memPut s off bs) p img a = localOf s p img a := by
  rw [memPut_memOnly]
  rfl

theorem permitted_of_classMap {s : State} {m : Mem} (h : m.classMap = s.mem.classMap) (p : Nat) (img : Option Nat) (w : Bool) (a n : Nat) :
    permitted { s with mem := m } p img w a n = permitted s p img w a n := by
  have hdata : inDataSpace { s with mem := m } = inDataSpace s := by
    funext sys off
    simp only [inDataSpace, h]
  have hlocal : localOk { s with mem := m } = localOk s := by
    funext p off n
    simp only [localOk, hdata]
    rfl
  simp only [permitted, hlocal]
  rfl

theorem permitted_memPut (s : State) (off : Nat) (bs : List Byte) (p : Nat) (img : Option Nat) (w : Bool) (a n : Nat) :
    permitted (memPut s off bs) p img w a n = permitted s p img w a n := by
  rw [memPut_memOnly]
  exact permitted_of_classMap (classMap_memPut s off bs) p img w a n

/-! ### Rows of D in local memory (R193, R199) -/

/-- One row of D, written when its address is local and permitted. -/
def rowWritten (p : Nat) (img : Option Nat) (s : State) (x : Nat × List Byte) : State :=
  match localOf s p img x.1 with
  | some o => if x.2.isEmpty || !permitted s p img true x.1 x.2.length then s else memPut s o x.2
  | none => s

theorem writeRows_eq_foldl (s : State) (p : Nat) (img : Option Nat) (rows : List (Nat × List Byte)) :
    writeRows s p img rows = rows.foldl (rowWritten p img) s := rfl

section rows

variable {p : Nat} {img : Option Nat}

/-- A row that is written goes to its local offset. -/
theorem rowWritten_cases (s : State) (x : Nat × List Byte) : rowWritten p img s x = s ∨
    ∃ o, localOf s p img x.1 = some o ∧ rowWritten p img s x = memPut s o x.2 := by
  unfold rowWritten
  split
  next o ho =>
    split
    · exact .inl rfl
    · exact .inr ⟨o, ho, rfl⟩
  next => exact .inl rfl

theorem rowWritten_permitted {s : State} {x : Nat × List Byte} {o : Nat} (ho : localOf s p img x.1 = some o) (hx : x.2 ≠ [])
    (hperm : permitted s p img true x.1 x.2.length = true) : rowWritten p img s x = memPut s o x.2 := by
  rw [rowWritten, ho]
  exact if_neg (by simpa [hperm] using hx)

theorem localOf_rowWritten (s : State) (x : Nat × List Byte) : localOf (rowWritten p img s x) p img = localOf s p img := by
  funext a
  rcases rowWritten_cases s x with h | ⟨o, -, h⟩
  · rw [h]
  · rw [h, localOf_memPut]

theorem permitted_rowWritten (s : State) (x : Nat × List Byte) : permitted (rowWritten p img s x) p img = permitted s p img := by
  funext w a n
  rcases rowWritten_cases s x with h | ⟨o, -, h⟩
  · rw [h]
  · rw [h, permitted_memPut]

theorem localOf_writeRows (s : State) (rows : List (Nat × List Byte)) : localOf (writeRows s p img rows) p img = localOf s p img :=
  foldl_proj (localOf · p img) (rowWritten p img) localOf_rowWritten rows s

theorem permitted_writeRows (s : State) (rows : List (Nat × List Byte)) : permitted (writeRows s p img rows) p img = permitted s p img :=
  foldl_proj (permitted · p img) (rowWritten p img) permitted_rowWritten rows s

/-- A byte outside every row is as it was. -/
theorem byte_writeRows {a : Nat} {rows : List (Nat × List Byte)} : ∀ {s : State},
    (∀ x ∈ rows, ∀ o, localOf s p img x.1 = some o → a < o ∨ o + x.2.length ≤ a) →
    Memory.byte (writeRows s p img rows).mem a = Memory.byte s.mem a := by
  induction rows with
  | nil => exact fun _ => rfl
  | cons x xs ih =>
    intro s h
    have hrest : Memory.byte (writeRows (rowWritten p img s x) p img xs).mem a = Memory.byte (rowWritten p img s x).mem a :=
      ih fun y hy o ho => h y (List.mem_cons_of_mem _ hy) o (by rwa [localOf_rowWritten] at ho)
    refine hrest.trans ?_
    rcases rowWritten_cases s x with hx | ⟨o, ho, hx⟩
    · rw [hx]
    · rw [hx, byte_memPut_outside s o x.2 (h x (List.mem_cons_self ..) o ho)]

/-- A row that no later one overlaps reads back. -/
theorem memGet_writeRows {s : State} {rows pre post : List (Nat × List Byte)} {x : Nat × List Byte} {o : Nat}
    (hrows : rows = pre ++ x :: post) (ho : localOf s p img x.1 = some o) (hx : x.2 ≠ [])
    (hperm : permitted s p img true x.1 x.2.length = true)
    (hpost : ∀ y ∈ post, ∀ q, localOf s p img y.1 = some q → q + y.2.length ≤ o ∨ o + x.2.length ≤ q) :
    memGet (writeRows s p img rows) o x.2.length = x.2 := by
  have hwritten : rowWritten p img (writeRows s p img pre) x = memPut (writeRows s p img pre) o x.2 :=
    rowWritten_permitted (by rwa [localOf_writeRows]) hx (by rwa [permitted_writeRows])
  have hsplit : writeRows s p img rows = writeRows (memPut (writeRows s p img pre) o x.2) p img post := by
    rw [← hwritten, hrows]
    exact List.foldl_append
  have hkept : ∀ i < x.2.length, Memory.byte (writeRows s p img rows).mem (o + i) =
      Memory.byte (memPut (writeRows s p img pre) o x.2).mem (o + i) := fun i hi => by
    rw [hsplit]
    refine byte_writeRows fun y hy q hq => ?_
    rw [localOf_memPut, localOf_writeRows] at hq
    have := hpost y hy q hq
    omega
  exact (SGetRun_congr hkept).trans (memGet_memPut _ _ _)

end rows

/-! ### The elements of D (R193) -/

theorem getElem?_tileOut_rows (md : Mode) (src : Nat → Nat → List Byte) (l : Layer) (c0 tc : Nat) {r0 tr i : Nat}
    (hi : i < min tr (l.m - r0)) : (tileOut md src l r0 c0 tr tc).rows[i]? =
      some (l.d + (r0 + i) * l.dp + c0 * l.fmtd.width / 8,
        packRow l.fmtd (rowOfD md src l (l.rowA src (r0 + i)) (r0 + i) c0 (min tc (l.n - c0))).1) := by
  simp only [tileOut, List.getElem?_map, List.getElem?_range hi, Option.map_some]

theorem mmElem_convert (md : Mode) (src : Nat → Nat → List Byte) {l : Layer} (hseq : l.seq = 0) (xs : List Nat) (r c : Nat) :
    (mmElem md src l xs r c).1 = (convert md l.ovm (bit l.opt 5) (if l.fmt.isInt then .i32 else .f32) l.fmtd
      (dot md (ovmWraps md l.ovm) l.fmt (xs.zip (rowElems l.fmt l.k (src (l.b + c * l.bp) (ceilDiv (l.k * l.fmt.width) 8))))
        (if l.sca then l.scales src l.sa r else []) (if l.scb then l.scales src l.sb c else [])
        (if l.cin then fld (src (l.c + r * l.cp + 4 * c) 4) 0 4 else 0)).1).1 := by
  unfold mmElem
  dsimp only
  rw [if_pos hseq]

/-- An element of a row of a MATMUL or LIST layer. -/
theorem getElem?_rowOfD (md : Mode) (src : Nat → Nat → List Byte) {l : Layer} (hkind : l.kind = 1 ∨ l.kind = 2) (xs : List Nat) (r c : Nat)
    {n j : Nat} (hj : j < n) : (rowOfD md src l xs r c n).1[j]? = some (mmElem md src l xs r (c + j)).1 := by
  rw [rowOfD, if_neg (by omega), if_neg (by omega)]
  simp only [List.getElem?_map, List.getElem?_range hj, Option.map_some]

/-! ### LAYER_START (R194, R197, R202, R209) -/

/-- What a due layer comes to, by its run checks: it waits, its run ends, or it starts, with its counter or for the Copper units. -/
def layerChecked (s : State) (ci : CfgImg) (c : Ctx) (all : Bool) (lr : LayerRun) (tag : Nat) (r : RunCheck) : State :=
  match r with
  | .wait => s
  | .fail r => failRun s lr.part c r
  | .ok tr tc probs =>
    if noSectors s ci all lr.layer then
      (if s.eng.tests.any (fun t => t.part == some lr.part) then s else failRun s lr.part c { status := 0x031B, layer := lr.layer })
    else if copperLayer (all && c == .step) (layerAt s ci lr.layer) then modEng s (fun e => { e with layers := e.layers ++ [lr] })
    else match layerPlace s ci c lr.layer with
      | none => s
      | some _ => tinSend (modEng s (fun e => { e with layers := e.layers ++ [lr] }))
          (createMsg s lr.part (layerAt s ci lr.layer) lr.cnt (tag % 256) tr tc probs)

/-- The cores that the run checks count: of the layer's placement, or one. -/
def layerCores (s : State) (ci : CfgImg) (c : Ctx) (i : Nat) : Nat :=
  match layerPlace s ci c i with
  | some pl => 64 * pl.sectors.length - pl.withdrawn.length
  | none => 1

/-- A layer that starts with its counter. -/
theorem layerChecked_counted {s : State} {ci : CfgImg} {c : Ctx} {all : Bool} {lr : LayerRun} {tr tc : Nat} {probs : List Prob} {pl : Placement}
    (hroom : noSectors s ci all lr.layer = false) (hcores : copperLayer (all && c == .step) (layerAt s ci lr.layer) = false)
    (hpl : layerPlace s ci c lr.layer = some pl) (tag : Nat) : layerChecked s ci c all lr tag (.ok tr tc probs) =
      tinSend (modEng s (fun e => { e with layers := e.layers ++ [lr] }))
        (createMsg s lr.part (layerAt s ci lr.layer) lr.cnt (tag % 256) tr tc probs) := by
  unfold layerChecked
  dsimp only
  rw [if_neg (ne_true_of_eq_false hroom), if_neg (ne_true_of_eq_false hcores), hpl]

/-- A layer that Copper units compute starts without one. -/
theorem layerChecked_copper {s : State} {ci : CfgImg} {c : Ctx} {all : Bool} {lr : LayerRun} {tr tc : Nat} {probs : List Prob}
    (hroom : noSectors s ci all lr.layer = false) (hcopper : copperLayer (all && c == .step) (layerAt s ci lr.layer) = true) (tag : Nat) :
    layerChecked s ci c all lr tag (.ok tr tc probs) = modEng s (fun e => { e with layers := e.layers ++ [lr] }) := by
  unfold layerChecked
  dsimp only
  rw [if_neg (ne_true_of_eq_false hroom), if_pos hcopper]

/-- The tile shape stands in a CREATE behind its problems. -/
theorem createMsg_tile (s : State) (p : Nat) (l : Layer) (cnt tag tr tc : Nat) (probs : List Prob) :
    ((createMsg s p l cnt tag tr tc probs).data.drop 20).take 4 = leBytes 2 tr ++ leBytes 2 (min tc 65535) := by
  unfold createMsg
  dsimp only
  split <;> rfl

/-- The other fields of a CREATE. -/
theorem createMsg_head (s : State) (p : Nat) (l : Layer) (cnt tag tr tc : Nat) (probs : List Prob) :
    (createMsg s p l cnt tag tr tc probs).dst = 0x1104 ∧ (createMsg s p l cnt tag tr tc probs).typ = 0x06 ∧
      (createMsg s p l cnt tag tr tc probs).part = p ∧ (createMsg s p l cnt tag tr tc probs).arg = 1 + 2 ^ 8 * cnt ∧
      (createMsg s p l cnt tag tr tc probs).tag = tag := by
  unfold createMsg
  exact ⟨rfl, rfl, rfl, rfl, rfl⟩

section start

variable {s : State} {part img layer cnt n : Nat} {run : Option Nat} {ci : CfgImg} {c : Ctx} {all : Bool}
  (hctx : ctxImage s part run img = some (ci, c, all)) (hserv : serving s = true) (hn : n = groupLen s ci 8 layer)
  (hdue : layerDue s part c img ci layer = true) (hlayer : layer < nLayers s ci) (hcnt : cnt < 4096)
  (hlead : (leadSector s part).isSome) (hfree : getCtr s cnt = none)
  (hnew : s.eng.layers.find? (fun l => l.part == part && l.run == run && (run.isSome || l.img == img)) = none)
  (hread : unread s part ci.slot (layerReads s ci layer n) = [])
include hctx hserv hn hdue hlayer hcnt hlead hfree hnew hread

theorem exec_layerStart_due (tag : Nat) : exec (.layerStart part run img layer cnt tag) s =
    .next (layerChecked s ci c all ⟨part, run, img, layer, n, cnt⟩ tag (runCheck s ci layer n (layerCores s ci c layer))) := by
  have hsame : modEng s (fun e => { e with layers := e.layers.filter (fun l => some l != none) }) = s := by
    rw [modEng, (List.filter_eq_self (p := fun l : LayerRun => some l != none)).mpr fun _ _ => rfl]
  subst hn
  rw [exec_layerStart, execLayerStart, hctx]
  dsimp only
  rw [hnew, if_neg (by simp [hserv, hdue, hfree, Nat.not_le.mpr hlayer, Nat.not_le.mpr hcnt, Option.isSome_iff_ne_none.mp hlead]), hsame, hread]
  rfl

end start

/-! ### LAYER_COMPLETE (R194, R222) -/

section complete

variable {s t u : State} {part img layer cnt : Nat} {run : Option Nat} {ci : CfgImg} {c : Ctx} {all : Bool} {lr : LayerRun}
  (hctx : ctxImage s part run img = some (ci, c, all))
  (hlr : s.eng.layers.find? (fun l => l.part == part && l.run == run && l.layer == layer && l.cnt == cnt && (run.isSome || l.img == img)) =
    some lr)
  (hrep : noReports s part = true) (hserv : serving s = true)
  (hdone : copperLayer (all && c == .step) (layerAt s ci layer) = true ∧ t = copperRun s ci lr (layerAt s ci layer) ∨
    copperLayer (all && c == .step) (layerAt s ci layer) = false ∧ t = s ∧ drainsDone s part c = true ∧
      programsDone s part c = true ∧ ∃ k, getCtr s cnt = some k ∧ k.part = part ∧ tileCount k.probs ≤ k.retired)
  (hu : u = modPart (modEng t (fun e => { e with layers := dropFirst (· == lr) e.layers })) part
    (fun P => { P with lists := P.lists.filter (fun x => !(layerReads s ci layer lr.count).any (fun r => r.1 == x.1)) }))
include hctx hlr hrep hserv hdone hu

/-- A layer that has ended leaves its serving context or its run to go on from it. -/
theorem exec_layerComplete_done : exec (.layerComplete part run img layer cnt) s = .next (run.elim
    (layersRan (layerOutputs u (copperLayer (all && c == .step) (layerAt s ci layer)) part img (layer + lr.count - 1) ci c)
      part img layer lr.count c)
    (fun id => runBoundary u part id lr.count)) := by
  subst hu
  rw [exec_layerComplete, execLayerComplete, hctx, hlr]
  dsimp only
  rcases hdone with ⟨hcopper, rfl⟩ | ⟨hcores, rfl, hdrains, hprograms, k, hk, hpart, hall⟩
  · rw [if_neg (by simp [hcopper, hrep, hserv]), if_pos hcopper]
    cases run <;> rfl
  · rw [hk, if_neg (by simp [hdrains, hprograms, hpart, hall, hrep, hserv]), if_neg (ne_true_of_eq_false hcores)]
    cases run <;> rfl

end complete

/-- Settles O21: a due layer by its run checks, the rows of D one by one, and the end of a layer by what it serves. -/
theorem layersOfRuns : Obligations.LayersOfRuns := by
  refine ⟨?start, fun s p img rows => ⟨fun a h => byte_writeRows h,
      fun pre x post o hrows ho hx hperm hpost => memGet_writeRows hrows ho hx hperm hpost⟩,
    fun md src l r0 c0 tr tc i hi => getElem?_tileOut_rows md src l c0 tc hi,
    fun md src l xs r c n j hj hkind hseq => (getElem?_rowOfD md src hkind xs r c hj).trans
      (congrArg some (mmElem_convert md src hseq xs r (c + j))),
    fun s t part img layer cnt run ci c all lr hctx hlr hrep hserv hdone => ⟨_, rfl, ?complete⟩⟩
  case start =>
    intro s part img layer cnt tag n run ci c all hctx hserv hn hdue hlayer hcnt hlead hfree hnew hread
    have hexec := exec_layerStart_due hctx hserv hn hdue hlayer hcnt hlead hfree hnew hread tag
    refine ⟨fun tr tc probs pl hpl hroom hcores hcheck => ?counted, fun tr tc probs hroom hcopper hpl hcheck => ?copper,
      fun r pl hpl hcheck => ?fails⟩
    case counted =>
      rw [layerCores, hpl, hcheck, layerChecked_counted (lr := ⟨part, run, img, layer, n, cnt⟩) hroom hcores hpl] at hexec
      obtain ⟨hdst, htyp, hpart, harg, htag⟩ := createMsg_head s part (layerAt s ci layer) cnt (tag % 256) tr tc probs
      exact ⟨_, createMsg s part (layerAt s ci layer) cnt (tag % 256) tr tc probs, hexec, rfl, hdst, htyp, hpart, harg, htag,
        createMsg_tile s part _ cnt _ tr tc probs, rfl, rfl, rfl, rfl⟩
    case copper =>
      rw [layerCores, hpl, hcheck, layerChecked_copper (lr := ⟨part, run, img, layer, n, cnt⟩) hroom hcopper] at hexec
      exact ⟨_, hexec, rfl, rfl, rfl, rfl, rfl⟩
    case fails =>
      rw [layerCores, hpl, hcheck] at hexec
      exact hexec
  case complete =>
    have hexec := exec_layerComplete_done hctx hlr hrep hserv hdone rfl
    exact ⟨fun hrun => ⟨_, by rw [hexec, hrun]; rfl, rfl⟩, fun id hrun => by rw [hexec, hrun]; rfl⟩

end Sys2Proof.Machine
end

section
/-! Fields of little-endian numbers (R9). -/

namespace Sys2Proof.Machine

theorem leNat_leBytes (n x : Nat) : leNat (leBytes n x) = x % 256 ^ n := by
  induction n generalizing x with
  | zero => exact (Nat.mod_one x).symm
  | succ n ih =>
    rw [leBytes, leNat, ih, BitVec.toNat_ofNat, Nat.pow_succ' (m := 256)]
    exact Nat.mod_mul.symm

theorem leNat_lt (bs : List Byte) : leNat bs < 256 ^ bs.length := by
  induction bs with
  | nil => exact Nat.one_pos
  | cons b r ih =>
    have hb : b.toNat < 256 := b.isLt
    rw [leNat, List.length_cons, Nat.pow_succ']
    omega

theorem fld_lt (bs : List Byte) (off n : Nat) : fld bs off n < 256 ^ n :=
  (leNat_lt _).trans_le (Nat.pow_le_pow_right (by decide) (List.length_take_le ..))

theorem drop_leBytes (k x : Nat) : ∀ o, (leBytes k x).drop o = leBytes (k - o) (x / 256 ^ o) := by
  induction k generalizing x with
  | zero => intro o; rw [leBytes, List.drop_nil, Nat.zero_sub, leBytes]
  | succ k ih =>
    intro o
    cases o with
    | zero => rw [List.drop_zero, Nat.pow_zero, Nat.div_one, Nat.sub_zero]
    | succ o => rw [leBytes, List.drop_succ_cons, ih, Nat.div_div_eq_div_mul, ← Nat.pow_succ', Nat.add_sub_add_right]

theorem take_leBytes (k x n : Nat) (h : n ≤ k) : (leBytes k x).take n = leBytes n x := by
  induction n generalizing k x with
  | zero => rw [List.take_zero, leBytes]
  | succ n ih =>
    obtain ⟨k, rfl⟩ : ∃ j, k = j + 1 := ⟨k - 1, by omega⟩
    rw [leBytes, List.take_succ_cons, ih k _ (by omega), leBytes]

/-- A field of a number at the head of a run of bytes. -/
theorem fld_leBytes_append {k o n : Nat} (h : o + n ≤ k) (x : Nat) (bs : List Byte) :
    fld (leBytes k x ++ bs) o n = x / 256 ^ o % 256 ^ n := by
  rw [fld, List.drop_append_of_le_length (by rw [length_leBytes]; omega), drop_leBytes,
    List.take_append_of_le_length (by rw [length_leBytes]; omega), take_leBytes _ _ _ (by omega), leNat_leBytes]

end Sys2Proof.Machine
end

section
/-! The exchange of expert rows: halves and their results at the sender, jobs at the holder (R250 to R262). -/

namespace Sys2Proof.Machine

/-! ### HALF_DISPATCH (R255, R256) -/

/-- Half 1 is not asked for before half 0 is recorded or combined. -/
theorem not_second_before_first {half : Nat} {recorded : Option XHalf} {joined : Bool}
    (h : half = 0 ∨ recorded.isSome ∨ joined = true) : ¬ (half = 1 ∧ recorded.isNone ∧ (!joined) = true) := by
  rintro ⟨rfl, hnone, hnot⟩
  rcases h with h | h | h
  · omega
  · simp [Option.isNone_iff_eq_none.mp hnone] at h
  · simp [h] at hnot

theorem halfOf_first (n : Nat) : halfOf n 0 = (0, (n + 1) / 2) := rfl

theorem halfOf_second (n : Nat) : halfOf n 1 = ((n + 1) / 2, n / 2) :=
  congrArg (Prod.mk _) (by omega)

/-! ### RESULT_ARRIVAL (R257, R259 to R261) -/

section arrival

variable {s : State} {part xl half chip : Nat} {h : XHalf} {sl : Slot} {j : XJob} {b : List Byte}
  (hh : (getPart s part).halves.find? (fun h => h.xl == xl && h.half == half && (answeredJob h chip).isSome) = some h)
  (hj : answeredJob h chip = some j) (hsl : selSlot s part = some sl) (hserv : serving s = true) (hb : b = (gather j.got 0 64).getD [])
include hh hj hsl hserv

/-- A result after XLIMIT is late. -/
theorem exec_resultArrival_late (hlate : halfLimit s part h < s.tick) : exec (.resultArrival part xl half chip) s =
    .next (modFab (expireHalf s part h) (fun f => { f with brassErr := f.brassErr + 1 })) := by
  rw [exec_resultArrival, execResultArrival, hh, hsl]
  dsimp only
  rw [hj]
  dsimp only
  rw [if_neg (by simp [hserv]), if_pos hlate]

variable (hintime : s.tick ≤ halfLimit s part h)
include hb hintime

theorem exec_resultArrival_unfit (hfit : resultFits h j b = false) : exec (.resultArrival part xl half chip) s = .next (modFab
    (modHalf s part (fun x => x.key == h.key) (fun x => { x with
      jobs := updateWhere (fun k => k.chip == chip && k.hpart == j.hpart)
        (fun k => { k with got := k.got.filter (fun g => decide (64 ≤ g.1)) }) x.jobs })) (fun f => { f with brassErr := f.brassErr + 1 })) := by
  subst hb
  rw [exec_resultArrival, execResultArrival, hh, hsl]
  dsimp only
  rw [hj]
  dsimp only
  rw [if_neg (by simp [hserv]), if_neg (Nat.not_lt.mpr hintime), if_neg (by simp [hfit])]

variable (hfit : resultFits h j b = true)
include hfit

/-- A RESULT of a holder that refuses the job ends the job's requests. -/
theorem exec_resultArrival_refused (hst : fld b 7 1 ≠ 0) : exec (.resultArrival part xl half chip) s = .next (settleHalf (failJob
    (modHalf s part (fun x => x.key == h.key) (fun x => { x with
      jobs := updateWhere (fun k => k.chip == chip && k.hpart == j.hpart) (fun k => { k with
        result := some (fld b 7 1), res := [], late := h.late || decide (halfDue s part h < s.tick) }) x.jobs })) 0x0502 h j) part h.key) := by
  subst hb
  rw [exec_resultArrival, execResultArrival, hh, hsl]
  dsimp only
  rw [hj]
  dsimp only
  rw [if_neg (by simp [hserv]), if_neg (Nat.not_lt.mpr hintime), if_pos (by simp [hfit, hst]), if_neg hst]
  simp only [if_neg hst]

/-- A RESULT with all its rows is taken. -/
theorem exec_resultArrival_taken {rb : Nat} (hrb : rb = rowBytes (xFmtOut s sl (hdrOf s sl) xl) (xDim s sl (hdrOf s sl) xl))
    (hst : fld b 7 1 = 0) {rs : List (List Byte)}
    (hrs : (List.range j.rows.length).mapM (fun i => gather j.got (64 + rb * i) rb) = some rs)
    (hslots : rs.map (fun r => fld r 0 2 % 2048) = j.rows.map (·.1)) (hatt : rs.all (fun r => fld r 5 1 == h.attempt % 256) = true) :
    exec (.resultArrival part xl half chip) s = .next (settleHalf (modHalf s part (fun x => x.key == h.key)
      (fun x => { x with jobs := updateWhere (fun k => k.chip == chip && k.hpart == j.hpart) (fun k => { k with
        result := some 0, res := rs, late := h.late || decide (halfDue s part h < s.tick) }) x.jobs })) part h.key) := by
  subst hb hrb
  rw [exec_resultArrival, execResultArrival, hh, hsl]
  dsimp only
  rw [hj]
  dsimp only
  rw [if_neg (by simp [hserv]), if_neg (Nat.not_lt.mpr hintime), hrs, if_pos (by simp [hfit, hslots, hatt]), if_pos hst]
  simp only [hst, if_true, Option.getD_some]

end arrival

/-! ### The ends of an exchange (R260, R261) -/

section expiry

variable {s : State} {part xl half : Nat} {h : XHalf} (hserv : serving s = true)
include hserv

theorem exec_texchExpiry_due (hh : (getPart s part).halves.find? (fun h => h.xl == xl && h.half == half && !h.late && s.tick == halfDue s part h) =
    some h) (hpaced : s.power.paced = true) : exec (.texchExpiry part xl half) s = .next (if halfComplete h then combineHalf s part h
      else modHalf s part (fun x => x.key == h.key) (fun x => { x with late := true })) := by
  rw [exec_texchExpiry, execTexchExpiry, hh]
  dsimp only
  rw [if_neg (by simp [hserv, hpaced])]
  split <;> rfl

theorem exec_xlimitExpiry_due (hh : (getPart s part).halves.find? (fun h => h.xl == xl && h.half == half && !halfComplete h &&
    decide (halfLimit s part h ≤ s.tick)) = some h) : exec (.xlimitExpiry part xl half) s = .next (expireHalf s part h) := by
  rw [exec_xlimitExpiry, execXlimitExpiry, hh]
  exact if_neg (by simp [hserv])

end expiry

/-! ### JOB_ARRIVAL (R256, R258) -/

theorem exec_jobArrival_judged {s : State} {part chip spart : Nat} {x : BrassIn}
    (hx : s.fab.brassIn.find? (fun b => b.hpart == part && b.chip == chip && b.spart == spart && b.off == 0) = some x)
    (hserv : serving s = true) : exec (.jobArrival part chip spart) s = .next
      (if (judgeJob s part chip spart x.half x.data).1 ≠ 0 then
        sendResultHead (modFab s (fun f => { f with brassIn := f.brassIn.filter (fun b =>
            !(b.hpart == part && b.chip == chip && b.spart == spart && b.half == x.half)) })) part chip spart x.half
          (resultHead x.data (judgeJob s part chip spart x.half x.data).1 0)
      else modPart (modFab s (fun f => { f with brassIn := f.brassIn.filter (fun b =>
            !(b.hpart == part && b.chip == chip && b.spart == spart && b.half == x.half)) })) part (fun P => { P with
          hjobs := P.hjobs ++ [⟨chip, spart, x.half, x.data, (judgeJob s part chip spart x.half x.data).2, none, 0⟩] })) := by
  rw [exec_jobArrival, execJobArrival, hx]
  exact if_neg (by simp [hserv])

section judge

variable {s : State} {part chip spart : Nat} (half : Nat) (b : List Byte)

theorem judgeJob_unaccepted (h : (getPart s part).phase = .absent ∨ (getPart s part).phase = .faulted ∨
    (chip, spart) ∉ (getPart s part).xsend) : judgeJob s part chip spart half b = (4, []) := by
  unfold judgeJob
  exact if_pos (by simpa using h)

variable (ha : (getPart s part).phase ≠ .absent) (hf : (getPart s part).phase ≠ .faulted) (hx : (chip, spart) ∈ (getPart s part).xsend)
include ha hf hx

theorem judgeJob_unknown (h : slotOfDigest s part ((b.drop 32).take 16) = none) : judgeJob s part chip spart half b = (1, []) := by
  unfold judgeJob
  dsimp only
  rw [if_neg (by simp [ha, hf, hx]), h]

theorem judgeJob_mode {k : Nat} {sl : Slot} (h : slotOfDigest s part ((b.drop 32).take 16) = some (k, sl))
    (hmode : (hdrOf s sl).mode ≠ fld b 24 4) : judgeJob s part chip spart half b = (2, []) := by
  unfold judgeJob
  dsimp only
  rw [if_neg (by simp [ha, hf, hx]), h]
  exact if_pos hmode

end judge

/-! ### JOB_COMPLETE (R195, R256 to R258) -/

section complete

variable {s : State} {part chip spart k : Nat} {j : HJob} {sl : Slot} {rs : List (Nat × Nat)}
  (hj : (getPart s part).hjobs.find? (fun j => j.chip == chip && j.spart == spart && j.reply.isNone) = some j)
  (hsl : slotOfDigest s part ((j.header.drop 32).take 16) = some (k, sl)) (hserv : serving s = true) (hrep : noReports s part = true)
  (hrs : rs = (j.rows.map (fun b => fld b 2 2)).eraseDups.flatMap (expertReads s part k sl (hdrOf s sl) (fld j.header 12 2)))
include hj hsl hserv hrep hrs

/-- An operand of tier 2 is read first. -/
theorem exec_jobComplete_reads {r : Nat × Nat} {us : List (Nat × Nat)} (hu : unread s part (some k) rs = r :: us)
    (hnew : s.host.reads.any (fun x => x.use == .list part r.1) = false)
    (hgo : (startRead s (part + 1) r.1 r.2 (.list part r.1)).2 = true) :
    exec (.jobComplete part chip spart) s = .next (startRead s (part + 1) r.1 r.2 (.list part r.1)).1 := by
  subst hrs
  rw [exec_jobComplete, execJobComplete, hj]
  dsimp only
  rw [hsl]
  dsimp only
  rw [if_neg (by simp [hserv, hrep]), hu]
  dsimp only
  rw [if_neg (ne_true_of_eq_false hnew), if_pos hgo]

/-- The rows of a job computed and written in the order of the job, with the pieces issued. -/
theorem exec_jobComplete_computes {rb : Nat} {go : State × Nat}
    (hrb : rb = rowBytes (xFmtOut s sl (hdrOf s sl) (fld j.header 12 2)) (xDim s sl (hdrOf s sl) (fld j.header 12 2)))
    (hu : unread s part (some k) rs = [])
    (hgo : go = (numbered 0 j.rows).foldl (fun (a : State × Nat) x =>
      ((brassWrite a.1 part chip (Config.resultBuf chip spart (ownChip s) part j.half + 64 + rb * x.1) (resultRec s part k sl j x.1 x.2)
          (.resultRow part chip spart j.half) (resultBytes spart (ownChip s) part j.half (64 + rb * x.1) (resultRec s part k sl j x.1 x.2))).1,
        a.2 + (brassWrite a.1 part chip (Config.resultBuf chip spart (ownChip s) part j.half + 64 + rb * x.1) (resultRec s part k sl j x.1 x.2)
          (.resultRow part chip spart j.half) (resultBytes spart (ownChip s) part j.half (64 + rb * x.1) (resultRec s part k sl j x.1 x.2))).2.1))
      (s, 0)) :
    exec (.jobComplete part chip spart) s = .next (endJob (modJob
      (modPart go.1 part (fun P => { P with lists := P.lists.filter (fun x => !rs.any (fun r => r.1 == x.1)) })) part chip spart j.half
      (fun j => { j with reply := some (resultHead j.header 0 j.rows.length), unacked := go.2 })) part chip spart j.half) := by
  subst hrs hrb hgo
  rw [exec_jobComplete, execJobComplete, hj]
  dsimp only
  rw [hsl]
  dsimp only
  rw [if_neg (by simp [hserv, hrep]), hu]

end complete

/-! ### A result record (R257) -/

/-- What a row record begins with: the row and choice, the expert, the flags and the attempt. -/
theorem fld_rowRecord {rslot hslot flg attempt : Nat} (hr : rslot < 2 ^ 16) (hh : hslot < 2 ^ 16) (hf : flg < 2 ^ 8) (ha : attempt < 2 ^ 8)
    (f : Fmt) (n : Nat) (elems : List Byte) :
    fld (rowRecord rslot hslot flg attempt f n elems) 0 2 = rslot ∧ fld (rowRecord rslot hslot flg attempt f n elems) 2 2 = hslot ∧
      fld (rowRecord rslot hslot flg attempt f n elems) 4 1 = flg ∧ fld (rowRecord rslot hslot flg attempt f n elems) 5 1 = attempt := by
  have hfield {o m : Nat} (h : o + m ≤ 16) : fld (rowRecord rslot hslot flg attempt f n elems) o m =
      (rslot + 2 ^ 16 * hslot + 2 ^ 32 * flg + 2 ^ 40 * attempt) / 256 ^ o % 256 ^ m := by
    unfold rowRecord
    dsimp only
    rw [List.append_assoc, fld_leBytes_append h]
  refine ⟨?_, ?_, ?_, ?_⟩ <;> rw [hfield (by decide)] <;> omega

/-- A result record carries its row, its expert, the flags raised and the job's attempt. -/
theorem fld_resultRec {s : State} {part k i e : Nat} {sl : Slot} {j : HJob} {b : List Byte} {y : List Nat × Flg} (he : e = fld b 2 2)
    (hy : y = expertRow (Mode.ofWord (hdrOf s sl).mode) (opGet s part (some k)) ((j.rows.take i).filter (fun c => fld c 2 2 == e)).length
      ((List.range (expertDepth s sl (hdrOf s sl) (fld j.header 12 2))).map (expertProb s part k sl (hdrOf s sl) (fld j.header 12 2) e))
      (rowElems (xFmtIn s sl (hdrOf s sl) (fld j.header 12 2)) (xDim s sl (hdrOf s sl) (fld j.header 12 2)) (b.drop 16))) :
    fld (resultRec s part k sl j i b) 0 2 = fld b 0 2 ∧ fld (resultRec s part k sl j i b) 2 2 = e ∧
      fld (resultRec s part k sl j i b) 4 1 = y.2.toNat ∧ fld (resultRec s part k sl j i b) 5 1 = fld j.header 6 1 := by
  subst he hy
  exact fld_rowRecord (fld_lt b 0 2) (fld_lt b 2 2) (BitVec.isLt _ |>.trans (by decide)) (fld_lt j.header 6 1) _ _ _

/-- Settles O27: the sender's half from its dispatch to its end, and the holder's job from its arrival to its records. -/
theorem expertExchange : Obligations.ExpertExchange := by
  refine ⟨⟨?dispatch, fun n => ⟨halfOf_first n, halfOf_second n⟩, ?result, ?expiry⟩, ?arrival, ?judge, ?complete,
    fun s part k sl j i e b y he hy => fld_resultRec he hy⟩
  case dispatch =>
    rintro s part xl half pos0 k0 key chunk sl _ _ _ _ ats _ _ _ _ _ hsl rfl rfl rfl rfl rfl rfl rfl hats hserv hmodel hhalf hxl htime
      hrows hnew hopen hfirst hrouter hinput hnext hlocal rfl rfl hfree rfl rfl
    have hholds {q : Bool} (hq : q = true) : ¬ (!q) = true := by simp [hq]
    have hopenStep : ¬ ((!chunk) = true ∧ ((getPart s part).step.bind (·.tout)).isSome) := by
      rcases htime with h | h <;> simp [h]
    rw [exec_halfDispatch, execHalfDispatch, hsl]
    dsimp only
    rw [hats, Option.getD_some, if_neg ?ready, if_neg (ne_true_of_eq_false hfree)]
    simp only [not_or]
    exact ⟨hholds hserv, by simpa using Option.isSome_iff_ne_none.mp hmodel, Nat.not_lt.mpr hhalf, Nat.not_le.mpr hxl, hopenStep, hrows,
      by simp [hnew], ne_true_of_eq_false hopen, not_second_before_first hfirst, hholds hrouter, hholds hinput, hholds hnext,
      hholds hlocal, Option.some_ne_none _⟩
  case result =>
    intro s part xl half chip rb h sl j b hh hj hsl hserv hb hrb
    exact ⟨fun hlate => exec_resultArrival_late hh hj hsl hserv hlate,
      fun hintime hfit => exec_resultArrival_unfit hh hj hsl hserv hb hintime hfit,
      fun hintime hfit hst => exec_resultArrival_refused hh hj hsl hserv hb hintime hfit hst,
      fun hintime hfit hst rs hrs hslots hatt => exec_resultArrival_taken hh hj hsl hserv hb hintime hfit hrb hst hrs hslots hatt⟩
  case expiry =>
    intro s part xl half h hserv
    refine ⟨fun hh hpaced => ?_, fun hh => exec_xlimitExpiry_due hserv hh⟩
    have hexec := exec_texchExpiry_due hserv hh hpaced
    exact ⟨fun hall => hexec.trans (congrArg _ (if_pos hall)), fun hsome => hexec.trans (congrArg _ (if_neg (ne_true_of_eq_false hsome)))⟩
  case arrival =>
    rintro s _ part chip spart x hx hserv rfl
    have hexec := exec_jobArrival_judged hx hserv
    exact ⟨fun hno => hexec.trans (congrArg _ (if_pos hno)), fun hok => hexec.trans (congrArg _ (if_neg (not_not_intro hok)))⟩
  case judge =>
    intro s part chip spart half b
    exact ⟨judgeJob_unaccepted half b, fun ha hf hx => ⟨judgeJob_unknown half b ha hf hx, fun k sl => judgeJob_mode half b ha hf hx⟩⟩
  case complete =>
    intro s part chip spart k rb j sl rs go hj hsl hserv hrep hrb hrs
    exact ⟨fun r us hu hnew hgo => exec_jobComplete_reads hj hsl hserv hrep hrs hu hnew hgo,
      fun hu hgo => exec_jobComplete_computes hj hsl hserv hrep hrs hrb hu hgo⟩

end Sys2Proof.Machine
end

section
/-! The stop matcher (R225, R228, R239). -/

namespace Sys2Proof.Machine

/-! ### The token of a row (R239) -/

theorem sample_of_nan (flush : Bool) {fz : Fmt} {z : List Nat} (sp : SampBlk) (seed : BitVec 64) (n : Nat)
    (h : z.any (Fmt.isNanCode fz) = true) : sample flush fz z sp seed n = (none, flagNAN) := if_pos h

/-- A row without NaN gives a token in either mode. -/
theorem sample_of_not_nan (flush : Bool) {fz : Fmt} {z : List Nat} (sp : SampBlk) (seed : BitVec 64) (n : Nat)
    (h : z.any (Fmt.isNanCode fz) = false) : ∃ k fl, sample flush fz z sp seed n = (some k, fl) := by
  unfold sample
  rw [if_neg (ne_true_of_eq_false h)]
  dsimp only
  split
  · exact ⟨_, _, rfl⟩
  · exact ⟨_, _, rfl⟩

/-- The logits row that a request's token is sampled from. -/
def logitsRow (s : State) (h : Hdr) (off : Nat) : List Nat :=
  rowElems (Fmt.ofCode (h.hfmt % 8)) h.v (memGet s off (ceilDiv (h.v * (Fmt.ofCode (h.hfmt % 8)).width) 8))

section sampled

variable {s : State} (P : Part) {h : Hdr} {r off : Nat} {q : Rte} (hq : getRte s r = some q)
include hq

/-- The row of a request, once its token is drawn. -/
theorem sampleRow_eq {x : Option Nat × Flg} (hx : sample (bit (P.serving.getD 0) 0) (Fmt.ofCode (h.hfmt % 8)) (logitsRow s h off)
    (sampOf q.samp) (BitVec.ofNat 64 q.seed) (dynOf s q).ngen = x) : sampleRow s P h r off = match x.1 with
      | none => { rte := r, stop := 5, flg := x.2 }
      | some t => { rte := r, token := some t, stop := stopOf q h.ctxmax (dynOf s q).ngen t, flg := x.2 } := by
  subst hx
  rw [sampleRow, hq]
  rfl

theorem sampleRow_nan (hnan : (logitsRow s h off).any (Fmt.isNanCode (Fmt.ofCode (h.hfmt % 8))) = true) :
    (sampleRow s P h r off).token = none ∧ (sampleRow s P h r off).stop = 5 := by
  rw [sampleRow_eq P hq (sample_of_nan _ _ _ _ hnan)]
  exact ⟨rfl, rfl⟩

theorem sampleRow_token (hnan : (logitsRow s h off).any (Fmt.isNanCode (Fmt.ofCode (h.hfmt % 8))) = false) :
    ∃ k, (sampleRow s P h r off).token = some k ∧ (sampleRow s P h r off).stop = stopOf q h.ctxmax (dynOf s q).ngen k := by
  obtain ⟨k, fl, hk⟩ := sample_of_not_nan (bit (P.serving.getD 0) 0) (sampOf q.samp) (BitVec.ofNat 64 q.seed) (dynOf s q).ngen hnan
  rw [sampleRow_eq P hq hk]
  exact ⟨k, rfl, rfl⟩

end sampled

/-! ### The reason of a stop (R228) -/

/-- Some stop sequence equals the last tokens generated, `k` included. -/
def stopHit (q : Rte) (n k : Nat) : Bool := (List.range (fld q.stopset 4 1)).any (fun i =>
  decide (stopLen q.stopset i ≤ n + 1) && (q.toks ++ [k]).drop (n + 1 - stopLen q.stopset i) == stopSeq q.stopset i)

theorem stopHit_iff (q : Rte) (n k : Nat) : stopHit q n k = true ↔ ∃ i < fld q.stopset 4 1, fld q.stopset (8 + i) 1 ≤ n + 1 ∧
    (q.toks ++ [k]).drop (n + 1 - fld q.stopset (8 + i) 1) =
      (List.range (fld q.stopset (8 + i) 1)).map (fun j => fld q.stopset (0x10 + 32 * i + 4 * j) 4) := by
  simp only [stopHit, List.any_eq_true, List.mem_range, Bool.and_eq_true, decide_eq_true_eq, beq_iff_eq]
  rfl

theorem stopOf_eq (q : Rte) (ctxmax n k : Nat) : stopOf q ctxmax n k =
    if k = fld q.stopset 0 4 ∧ fld q.stopset 0 4 ≠ 0xFFFFFFFF then 1
    else if stopHit q n k then 2
    else if n + 1 = q.limit then 3
    else if n + 1 = ctxmax - q.nprompt + 1 then 4
    else 0 := rfl

/-- Settles O24: NaN logits give no token and reason 5, and the other reasons follow the order of the matcher's tests. -/
theorem stopMatching : Obligations.StopMatching := by
  refine ⟨?row, fun q ctxmax n k hit hhit => ?reason⟩
  case row =>
    rintro s P h r off q _ _ hq rfl rfl
    exact ⟨sampleRow_nan P hq, sampleRow_token P hq⟩
  case reason =>
    rw [← stopHit_iff] at hhit
    rw [stopOf_eq]
    refine ⟨fun hend hsome => if_pos ⟨hend, hsome⟩, fun hno => ?_⟩
    have hnend : ¬ (k = fld q.stopset 0 4 ∧ fld q.stopset 0 4 ≠ 0xFFFFFFFF) := by tauto
    rw [if_neg hnend, hhit]
    exact ⟨fun h => if_pos h, fun h hl => by rw [if_neg h, if_pos hl], fun h hl hc => by rw [if_neg h, if_neg hl, if_pos hc],
      fun h hl hc => by rw [if_neg h, if_neg hl, if_neg hc]⟩

end Sys2Proof.Machine
end

section
/-! The commit word (R215, R224, R248). -/

namespace Sys2Proof.Machine

/-! ### What leaves the commit words alone -/

/-- Every partition has its commit word and the tick of its latest commit as before. -/
def SameClock (s t : State) : Prop := ∀ k, (getPart t k).cw = (getPart s k).cw ∧ (getPart t k).ctick = (getPart s k).ctick

theorem SameClock.refl (s : State) : SameClock s s := fun _ => ⟨rfl, rfl⟩

theorem SameClock.trans {s t u : State} (h : SameClock s t) (h' : SameClock t u) : SameClock s u :=
  fun k => ⟨(h' k).1.trans (h k).1, (h' k).2.trans (h k).2⟩

theorem SameClock.of_parts {s t : State} (h : t.parts = s.parts) : SameClock s t := fun k => by
  rw [getPart, h]
  exact ⟨rfl, rfl⟩

theorem modPart_sameClock (s : State) (p : Nat) {f : Part → Part} (hcw : ∀ P, (f P).cw = P.cw) (hctick : ∀ P, (f P).ctick = P.ctick) :
    SameClock s (modPart s p f) := by
  intro k
  by_cases hk : k = p
  · rw [hk, getPart_modPart]
    exact ⟨hcw _, hctick _⟩
  · rw [getPart_modPart_ne _ _ hk]
    exact ⟨rfl, rfl⟩

theorem foldl_sameClock {α : Type} {g : State → α → State} (hg : ∀ s x, SameClock s (g s x)) (l : List α) (s : State) :
    SameClock s (l.foldl g s) :=
  List.foldlRecOn (motive := SameClock s) l g (.refl s) fun t ht x _ => ht.trans (hg t x)

theorem endEpoch_sameClock (s : State) (p reason : Nat) : SameClock s (endEpoch s p reason) := by
  refine modPart_sameClock s p (fun P => ?_) (fun P => ?_) <;> split <;> rfl

theorem freeReq_sameClock (s : State) (r : Nat) : SameClock s (freeReq s r) := .of_parts rfl

theorem appendRecord_sameClock (s : State) (r : Nat) : SameClock s (appendRecord s r) := by
  unfold appendRecord
  split
  · exact .refl s
  · next q _ =>
    split
    · exact .refl s
    · have hfolded : SameClock s (modPart (modRte s r (fun q => { q with appended := true })) q.part (fun P => { P with
          head := sha512 (buildRecord s q), seqno := P.seqno + 1, epochN := P.epochN + 1
          held := P.held ++ [(buildRecord s q, some r)] })) :=
        .trans (.of_parts rfl) (modPart_sameClock _ _ (fun _ => rfl) (fun _ => rfl))
      dsimp only
      split
      · exact hfolded.trans (endEpoch_sameClock _ _ _)
      · exact hfolded

theorem freeAborted_sameClock (s : State) (p : Nat) : SameClock s (freeAborted s p) := by
  unfold freeAborted
  exact foldl_sameClock (fun t _ => .trans (modPart_sameClock t p (fun _ => by rfl) (fun _ => by rfl)) (freeReq_sameClock _ _)) _ s

theorem rejoinUnits_sameClock (s : State) (p : Nat) : SameClock s (rejoinUnits s p) := by
  unfold rejoinUnits
  dsimp only
  refine .trans (.trans (foldl_sameClock (fun t u => ?_) _ s) (modPart_sameClock _ p (fun _ => by rfl) (fun _ => by rfl))) (.of_parts (modEng_parts _ _))
  split
  · exact modPart_sameClock t p (fun _ => rfl) (fun _ => rfl)
  · exact .refl t

/-! ### The commit (R224) -/

/-- The state in which the requests that end are in CLOSING, before the word rises. -/
def commitEnded (s : State) (p : Nat) : State :=
  thermalEndings (endings s p ((getPart s p).cw + 1)) p ((getPart s p).cw + 1)

theorem commitEnded_within (s : State) (p : Nat) : Within [.rtes, .power] s (commitEnded s p) :=
  thermalEndings_within (by decide) (by decide) (endings_within (by decide) (.refl _ s))

theorem getPart_commitEnded (s : State) (p k : Nat) : getPart (commitEnded s p) k = getPart s k := by
  rw [getPart, (commitEnded_within s p).parts.resolve_left (by decide)]
  rfl

/-- The state in which the word has risen. -/
def commitRaised (s : State) (p : Nat) : State := modPart (commitEnded s p) p (fun P => { P with
  cw := (getPart s p).cw + 1, ctick := (commitEnded s p).tick, discards := 0, failed := [] })

/-- R241: the records and completions of the requests that went to CLOSING at the commit `csn`. -/
def recordsDue (s : State) (p csn : Nat) : State :=
  let new := (reqsOf s p).filter (fun e => (dynOf s e.2).state == .closing && (dynOf s e.2).csn == csn)
  (new.filter (fun e => !e.2.aborted)).foldl (fun s e => dueComp s
    { fn := e.2.fn, sq := e.2.sq, seq := e.2.seq, cid := e.2.cid, status := e.2.status, req := some e.1 })
    (new.foldl (fun s e => appendRecord s e.1) s)

theorem recordsDue_sameClock (s : State) (p csn : Nat) : SameClock s (recordsDue s p csn) :=
  .trans (foldl_sameClock (fun t (e : Nat × Rte) => appendRecord_sameClock t e.1) _ s) (foldl_sameClock (fun t _ => .of_parts (modHost_parts t _)) _ _)

/-- R297: with no request left of a function that was reset, the partition's host traffic is no longer cut. -/
def hostJoined (s : State) (p : Nat) : State :=
  if (reqsOf s p).any (fun e => e.2.aborted) then s else modPart s p (fun P => { P with hostCut := false })

theorem hostJoined_sameClock (s : State) (p : Nat) : SameClock s (hostJoined s p) := by
  unfold hostJoined
  split
  · exact .refl s
  · exact modPart_sameClock s p (fun _ => rfl) (fun _ => rfl)

theorem commitWord_held {s : State} (p : Nat) (h : s.power.pfwAt.isSome) : commitWord s p = s := if_pos h

theorem commitWord_eq {s : State} (p : Nat) (h : s.power.pfwAt = none) : commitWord s p =
    rejoinUnits (hostJoined (freeAborted (recordsDue (commitRaised s p) p ((getPart s p).cw + 1)) p) p) p := by
  unfold commitWord
  exact if_neg (by simp [h])

/-- Records, completions and units that rejoin leave the words as the commit has set them. -/
theorem commitRaised_sameClock {s : State} (p : Nat) (h : s.power.pfwAt = none) : SameClock (commitRaised s p) (commitWord s p) := by
  rw [commitWord_eq p h]
  exact (recordsDue_sameClock _ p _).trans ((freeAborted_sameClock _ p).trans ((hostJoined_sameClock _ p).trans (rejoinUnits_sameClock _ p)))

section commits

variable {s : State} (p : Nat) (h : s.power.pfwAt = none)
include h

theorem commitWord_cw : (getPart (commitWord s p) p).cw = (getPart s p).cw + 1 := by
  rw [(commitRaised_sameClock p h p).1, commitRaised, getPart_modPart]

theorem commitWord_ctick : (getPart (commitWord s p) p).ctick = s.tick := by
  rw [(commitRaised_sameClock p h p).2, commitRaised, getPart_modPart]
  exact (commitEnded_within s p).tick.resolve_left (by decide)

theorem commitWord_cw_ne {k : Nat} (hk : k ≠ p) : (getPart (commitWord s p) k).cw = (getPart s k).cw := by
  rw [(commitRaised_sameClock p h k).1, commitRaised, getPart_modPart_ne _ _ hk, getPart_commitEnded]

end commits

theorem commitWord_mem (s : State) (p : Nat) : (commitWord s p).mem = s.mem :=
  (commitWord_within (fs := [.host, .parts, .rtes, .power, .eng]) (by decide) (by decide) (by decide) (by decide) (by decide)
    (.refl _ s)).mem.resolve_left (by decide)

/-! ### The two dynamic blocks (R215) -/

section blocks

variable {cw : Nat} {q : Rte}

theorem validDyn_second (h1 : q.dyn1.csn ≤ cw) (h : q.dyn0.csn < q.dyn1.csn ∨ cw < q.dyn0.csn) : validDyn cw q = q.dyn1 :=
  if_pos ⟨h1, h⟩

theorem validDyn_first (h : cw < q.dyn1.csn ∨ q.dyn1.csn ≤ q.dyn0.csn ∧ q.dyn0.csn ≤ cw) : validDyn cw q = q.dyn0 :=
  if_neg (by omega)

/-- A block written with a number above the commit word takes the place of the one that is not valid, and becomes the valid one
when the word reaches its number. -/
theorem validDyn_writeDyn {d : Dyn} (hsome : q.dyn0.csn ≤ cw ∨ q.dyn1.csn ≤ cw) (hd : cw < d.csn) :
    validDyn cw (writeDyn cw q d) = validDyn cw q ∧ validDyn d.csn (writeDyn cw q d) = d := by
  by_cases hsecond : q.dyn1.csn ≤ cw ∧ (q.dyn0.csn < q.dyn1.csn ∨ cw < q.dyn0.csn)
  · obtain ⟨hle, hor⟩ := hsecond
    rw [writeDyn, if_pos ⟨hle, hor⟩, validDyn_second hle hor]
    exact ⟨validDyn_second hle (.inr hd), validDyn_first (.inr ⟨by dsimp only; omega, le_rfl⟩)⟩
  · rw [writeDyn, if_neg hsecond, validDyn_first (q := q) (by omega)]
    exact ⟨validDyn_first (.inl hd), validDyn_second le_rfl (.inl (by dsimp only; omega))⟩

end blocks

/-- Settles O25: what the commit does to the words, and which of the two blocks is valid. -/
theorem commitsRaiseTheCommitWord : Obligations.CommitsRaiseTheCommitWord :=
  ⟨fun s p h => ⟨commitWord_cw p h, commitWord_ctick p h, fun _ hk => commitWord_cw_ne p h hk, commitWord_mem s p⟩,
    fun _ p h => commitWord_held p h,
    fun _ _ _ hsome _ hd => validDyn_writeDyn hsome hd,
    fun _ _ => ⟨fun h1 h => validDyn_second h1 (.inl h), fun h0 h => validDyn_first (.inr ⟨h.le, h0⟩),
      fun _ h => validDyn_first (.inl h), fun h1 h => validDyn_second h1 (.inr h)⟩⟩

end Sys2Proof.Machine
end

section
/-! Commands of an I/O ring: requests, steering sets, images, runs, copies, fences and queries (R212, R230, R232, R312, R313). -/

namespace Sys2Proof.Machine

/-! ### What each command begins with -/

section taken

variable {s : State} {fn : Nat} {d : Desc}

theorem exec_requestOpen_at (h : DescAt s fn 0x10 d) : exec (.requestOpen fn) s = .next (settle
    (cmdRead
      (cmdRead (startCmd (dropDesc s d) d .waiting) s.host.nextId (fn - 1) (d.f 0x30 8) 16 (.samp s.host.nextId)
        (fun bs s' => modCmd s' s.host.nextId (fun c => { c with buf := bs })))
      s.host.nextId (fn - 1) (d.f 0x38 8) 272 (.stopset s.host.nextId)
      (fun bs s' => modCmd s' s.host.nextId (fun c => { c with buf2 := bs }))) (fn - 1)) := by
  rw [exec_requestOpen, execRequestOpen, takeDesc_at h _ rfl]
  rfl

theorem exec_requestCancel_at (h : DescAt s fn 0x11 d) {r : Nat} (hr : cancelTarget (dropDesc s d) (fn - 1) d = some r) :
    exec (.requestCancel fn) s = .next (dueComp (modRte (dropDesc s d) r (fun q =>
      { q with cxlTick := if q.cxlTick = 0 then max 1 d.tick else q.cxlTick })) { compOf d 0 with cancel := some r }) := by
  rw [exec_requestCancel, execRequestCancel, takeDesc_at h _ rfl, hr]

theorem exec_steeringBind_at (h : DescAt s fn 0x12 d) : exec (.steeringBind fn) s = .next (if d.f 0x20 4 = 0 then beginAt s d else
    cmdRead (beginAt s d) s.host.nextId (fn - 1) (d.f 0x18 8) (d.f 0x20 4) (.steering s.host.nextId)
      (fun bs s' => modCmd s' s.host.nextId (fun c => { c with buf := bs }))) := by
  rw [exec_steeringBind, execSteeringBind, takeDesc_at h _ rfl]
  rfl

theorem exec_imageRegister_at (h : DescAt s fn 0x20 d) : exec (.imageRegister fn) s = .next (modPart (beginAt s d) (fn - 1) (fun P =>
    { P with images := SSet none P.images (d.f 0x10 1) (some {
        addr := gOff (d.f 0x18 8), len := d.f 0x20 8, reg := .running s.tick
        cur := (SGet none (getPart s (fn - 1)).images (d.f 0x10 1)).bind (fun i => i.cur) }) })) := by
  rw [exec_imageRegister, execImageRegister, takeDesc_at h _ rfl]
  rfl

theorem exec_graphRun_at (h : DescAt s fn 0x21 d) : exec (.graphRun fn) s = .next
    (if registering (dropDesc s d) fn (d.f 0x10 1) then startCmd (dropDesc s d) d .waiting
      else startRun (startCmd (dropDesc s d) d .waiting) s.host.nextId) := by
  rw [exec_graphRun, execGraphRun, takeDesc_at h _ rfl]
  rfl

theorem exec_copy_at (h : DescAt s fn 0x22 d) : exec (.copy fn) s = .next
    (if permitted (beginAt s d) (fn - 1) none true (d.f 0x20 8) (d.f 0x28 8) = false then endCmdSt (beginAt s d) s.host.nextId 0x0409
      else cmdRead (beginAt s d) s.host.nextId (fn - 1) (d.f 0x18 8) (d.f 0x28 8) (.copy s.host.nextId) (copyPut s.host.nextId)) := by
  rw [exec_copy, execCopy, takeDesc_at h _ rfl]
  simp only [← Bool.not_eq_true']
  rfl

theorem exec_fence_at (h : DescAt s fn 0x23 d) : exec (.fence fn) s = .next (releaseFence (beginAt s d) s.host.nextId) := by
  rw [exec_fence, execFence, takeDesc_at h _ rfl]
  rfl

/-- The answer to a query of a counter by a partition's function: the status and the bytes written. -/
def queryAnswer (s : State) (p n : Nat) : Nat × List Byte :=
  match getCtr s n with
  | some k => if k.part = p then (0, queryBytes k) else (4, zeros 16)
  | none => (4, zeros 16)

theorem queryAnswer_own {p n : Nat} {k : Ctr} (hk : getCtr s n = some k) (hp : k.part = p) : queryAnswer s p n = (0, queryBytes k) := by
  rw [queryAnswer, hk]
  exact if_pos hp

theorem queryAnswer_other {p n : Nat} (h : ∀ k, getCtr s n = some k → k.part ≠ p) : queryAnswer s p n = (4, zeros 16) := by
  unfold queryAnswer
  split
  next k hk => exact if_neg (h k hk)
  next => rfl

theorem exec_counterOp_at (h : DescAt s fn 0x24 d) : exec (.counterOp fn) s = .next (dueComp
    (hostWrite (dropDesc s d) fn (d.f 0x18 8) (queryAnswer s (fn - 1) (bits (d.f 0x10 8) 8 12)).2)
    { compOf d 0 with info := (queryAnswer s (fn - 1) (bits (d.f 0x10 8) 8 12)).1 }) := by
  rw [exec_counterOp, execCounterOp, takeDesc_at h _ rfl]
  rfl

end taken

/-! ### Copies and fences that end (R313) -/

section running

variable {s : State} {cmd : Nat} {c : Cmd} (hc : findCmd s cmd = some c) (hserv : serving s = true)
include hc hserv

theorem exec_copyComplete_written (hopc : c.d.opc = 0x22) (hb : c.b = 1) : exec (.copyComplete cmd) s =
    .next (endCmdSt (divideEnergy s (c.d.fn - 1) [(c.d.sq, 1)]) cmd 0) := by
  rw [exec_copyComplete, execCopyComplete, hc]
  exact congrArg _ (if_neg (by simp [hopc, hb, hserv]))

theorem exec_fenceRelease_fence (hopc : c.d.opc = 0x23) : exec (.fenceRelease cmd) s = .next
    (if earlierOpen s c.d.fn c.d.sq c.d.seq then s
      else flushReserved c.d.fn c.d.sq (endCmdSt s cmd 0).host.handed (endCmdSt s cmd 0)) := by
  rw [exec_fenceRelease, execFenceRelease, whenB_true _ _ hserv, releaseFence, hc]
  simp only [hopc, ne_eq, not_true, false_or]

end running

/-! ### Runs (R312) -/

section runs

variable {s : State} {id : Nat} {c : Cmd} (hc : findCmd s id = some c)
include hc

theorem startRun_without_image (hi : handleImage s (c.d.fn - 1) (c.d.f 0x10 1) = none) : startRun s id = endCmdSt s id 3 := by
  rw [startRun, hc]
  dsimp only
  rw [hi]

variable {ci : CfgImg} (hi : handleImage s (c.d.fn - 1) (c.d.f 0x10 1) = some ci)
include hi

/-- The layers lie past the image, or cut a fused group. -/
theorem startRun_bad_layers (hbad : nLayers s ci < c.d.f 0x12 2 + c.d.f 0x14 2 ∨ (layerAt s ci (c.d.f 0x12 2)).fin = true ∨
    (layerAt s ci (c.d.f 0x12 2 + c.d.f 0x14 2 - 1)).fout = true) : startRun s id = endCmdSt s id 1 := by
  rw [startRun, hc]
  dsimp only
  rw [hi]
  exact if_pos hbad

theorem startRun_starts (hin : c.d.f 0x12 2 + c.d.f 0x14 2 ≤ nLayers s ci) (hfin : (layerAt s ci (c.d.f 0x12 2)).fin = false)
    (hfout : (layerAt s ci (c.d.f 0x12 2 + c.d.f 0x14 2 - 1)).fout = false) :
    startRun s id = modPart (modCmd s id (fun c => { c with ph := .running })) (c.d.fn - 1) (fun P => { P with
      runs := P.runs ++ [{ cmd := id, handle := c.d.f 0x10 1, layer := c.d.f 0x12 2, left := c.d.f 0x14 2, mode := ciFld s ci 0x10 4 }]
      began := s.tick }) := by
  rw [startRun, hc]
  dsimp only
  rw [hi]
  exact if_neg (by simp [hfin, hfout, hin])

end runs

/-! ### The bytes of a copy (R162) -/

/-- An address in host memory names no local offset (R268). -/
theorem localOf_host (s : State) (p : Nat) (img : Option Nat) {a : Nat} (ha : gSpace a = 1) : localOf s p img a = none := by
  rw [localOf, ha]
  rfl

section copied

variable {s : State} {id : Nat} {c : Cmd} (hc : findCmd s id = some c) (bs : List Byte)
include hc

theorem copyPut_host (hhost : gSpace (c.d.f 0x20 8) = 1) : copyPut id bs s =
    modCmd (hostWrite s c.d.fn (gOff (c.d.f 0x20 8)) bs) id (fun c => { c with b := 1 }) := by
  rw [copyPut, hc]
  dsimp only
  rw [localOf_host s _ none hhost]
  exact if_pos hhost

theorem copyPut_local {off : Nat} (ho : localOf s (c.d.fn - 1) none (c.d.f 0x20 8) = some off) :
    copyPut id bs s = modCmd (memPut s off bs) id (fun c => { c with b := 1 }) := by
  rw [copyPut, hc]
  dsimp only
  rw [ho]

end copied

/-- Settles O37: each command by its next state, runs and copies by what they leave. -/
theorem requestsAndRuns : Obligations.RequestsAndRuns := by
  refine ⟨?begin, fun s cmd c hc hserv => ?ends, fun s id c hc => ?run, fun s id bs c hc hhost => copyPut_host hc bs hhost,
    fun s id off bs c hc ho => ?copied⟩
  case begin =>
    rintro s _ v w fn _ d rfl rfl
    refine ⟨?opens, fun r h hr => exec_requestCancel_at h hr, fun h hz => ?bind, fun h hz => ?bindRead, fun h => exec_imageRegister_at h,
      fun h => ?graphRun, fun h => ?copy, fun h => exec_fence_at h, fun h => ?query⟩
    case opens =>
      rintro h rfl rfl
      exact exec_requestOpen_at h
    case bind => rw [exec_steeringBind_at h, if_pos hz]
    case bindRead => rw [exec_steeringBind_at h, if_neg hz]
    case graphRun =>
      rw [exec_graphRun_at h]
      exact ⟨fun hreg => by rw [if_pos hreg], fun hreg => by rw [if_neg (ne_true_of_eq_false hreg)]⟩
    case copy =>
      rw [exec_copy_at h]
      exact ⟨fun hno => by rw [if_pos hno], fun hok => by rw [if_neg (by simp [hok])]⟩
    case query =>
      rw [exec_counterOp_at h]
      exact ⟨fun k hk hp => by rw [queryAnswer_own hk hp], fun hother => by rw [queryAnswer_other hother]⟩
  case ends =>
    refine ⟨exec_copyComplete_written hc hserv, fun hopc hopen => ?_, fun hopc hclear => ?_⟩
    · rw [exec_fenceRelease_fence hc hserv hopc, if_pos hopen]
    · rw [exec_fenceRelease_fence hc hserv hopc, if_neg (ne_true_of_eq_false hclear)]
  case run =>
    exact ⟨startRun_without_image hc, fun ci hi => ⟨startRun_bad_layers hc hi, startRun_starts hc hi⟩⟩
  case copied =>
    rw [copyPut_local hc bs ho]
    exact ⟨rfl, memGet_memPut s off bs, fun a ha => byte_memPut_outside s off bs ha⟩

end Sys2Proof.Machine
end

section
/-! The serving context that a MODEL_SELECT starts (R252, R357, R358). -/

namespace Sys2Proof.Machine

/-- The serving context starts with no flag raised. -/
theorem selectDone_ctxFlg (s : State) (p k : Nat) (sl : Slot) : (getPart (selectDone s p k sl) p).ctxFlg = 0 := by
  rw [selectDone, getPart_modPart]

/-- A module whose partition 0 has raised a flag in its serving context. -/
def flaggedContext : State := modPart State.reset 0 (fun P => { P with ctxFlg := 1 })

theorem flaggedContext_ctxFlg : (getPart flaggedContext 0).ctxFlg = 1 := by
  rw [flaggedContext, getPart_modPart]

/-- Refutes O38: the end of a MODEL_SELECT also clears the serving context's flag word, which the statement's next state keeps; in
partition 0 of `flaggedContext` that word is 1 before and 0 after. -/
theorem not_partitionsAndModels : ¬ Obligations.PartitionsAndModels := by
  rintro ⟨-, -, -, hdone, -⟩
  obtain ⟨out, hout⟩ := hdone flaggedContext 0 0 ⟨0, [], [], false, .none, []⟩
  have hcleared := selectDone_ctxFlg flaggedContext 0 0 ⟨0, [], [], false, .none, []⟩
  rw [hout, getPart_modPart, flaggedContext_ctxFlg] at hcleared
  exact absurd hcleared (by decide)

end Sys2Proof.Machine
end

section
/-! Power on, power fail and the loss of main power (R379 to R385, R404 to R406, R427). -/

namespace Sys2Proof.Machine

/-- An in-band interrupt changes what Pewter has sent of it, and nothing else. -/
theorem ibiCheck_rest (s : State) : ibiCheck s =
    { s with pew := { s.pew with mstatSeen := (ibiCheck s).pew.mstatSeen, ibis := (ibiCheck s).pew.ibis } } := by
  unfold ibiCheck
  dsimp only
  split <;> rfl

theorem ibiCheck_rtes (s : State) : (ibiCheck s).rtes = s.rtes := by rw [ibiCheck_rest]

/-! ### EN and PG (R381, R382) -/

/-- The state in which the rails start, with the settings accepted latest in force. -/
def railsStarted (s : State) : State :=
  modPow (modPew s (fun w => { w with inForce := some (settingsNow s), applied := w.plan })) (fun w => { w with
    pstate := .starting, enAt := s.sbTick, railFault := false, paced := fld (settingsNow s) 6 1 == 1
    pace := fld (settingsNow s) 7 1, slope := fld (settingsNow s) 12 1, ecmode := fld (settingsNow s) 13 1 })

theorem recognise_refused {s : State} (h : s.power.needCycle = true ∨ s.power.uv = true ∨ s.pew.ready = false) : recognise s = s := by
  unfold recognise
  refine if_pos ?_
  rcases h with h | h | h <;> simp [h]

theorem recognise_starts {s : State} (hen : s.power.en = true) (hcycle : s.power.needCycle = false) (huv : s.power.uv = false)
    (hstandby : s.pew.standby = true) (hready : s.pew.ready = true) (hpg : s.power.pg = false) (hps : s.power.pstate ≠ .starting) :
    recognise s = ibiCheck (railsStarted s) := by
  unfold recognise
  exact if_neg (by simp [hen, hcycle, huv, hstandby, hready, hpg, hps])

theorem exec_enAssert_off {s : State} (hen : s.power.en = false) :
    exec .enAssert s = .next (recognise (modPow s (fun w => { w with en := true }))) := by
  rw [exec_enAssert, execEnAssert, whenB_true _ _ (by simp [hen])]

theorem exec_powerGood_starting {s : State} (hps : s.power.pstate = .starting) (hstandby : s.pew.standby = true) :
    exec .powerGood s = .next (ibiCheck (setTick (modPow (modPew s (fun w => { w with moduleFault := false }))
      (fun w => { w with pg := true, pstate := .on })) 0)) := by
  rw [exec_powerGood, execPowerGood, whenB_true _ _ (by simp [hps, hstandby])]

theorem exec_railStartFail_starting {s : State} (hps : s.power.pstate = .starting) {rail : Nat} (hr : rail < 212) :
    exec (.railStartFail rail) s = .next (ibiCheck (modPow (modPow (logRail s rail none 6)
      (fun w => { w with railFault := true, needCycle := true })) (fun w => { w with pstate := .railFault }))) := by
  rw [exec_railStartFail, execRailStartFail, onUnit_known _ (decide_eq_true hr), whenB_true _ _ (by simp [hps])]
  rfl

theorem exec_inputRestart_above {s : State} {vin : Nat} (hv : 3950 < vin) (huv : s.power.uv = true) :
    exec (.inputRestart vin) s = .next (recognise (modPow s (fun w => { w with vin := vin, uv := false }))) := by
  rw [exec_inputRestart, execInputRestart, whenB_true _ _ (by simp [hv, huv])]

/-! ### The power-fail sequence (R211, R248, R385, R405) -/

/-- A PFW# hold leaves no request outside FREE. -/
theorem getRte_holdReqs {s : State} {r : Nat} {q : Rte} (h : getRte (holdReqs s) r = some q) :
    q.dyn0.state = .free ∧ q.dyn1.state = .free := by
  have hmem := (List.mem_filter.mp (mem_of_SGet (Option.some_ne_none q) h)).1
  obtain ⟨⟨k, v⟩, -, hv⟩ := List.mem_map.mp hmem
  obtain ⟨x, -, rfl⟩ := Option.map_eq_some_iff.mp (Prod.ext_iff.mp hv).2
  exact ⟨rfl, rfl⟩

/-- Time 0: floor pace, every request FREE, and what was due or under way at the host ended. -/
def pfwHeld (s : State) : State :=
  let t := enterFloor (bootAbandon s) false none
  modHost (holdReqs t) (fun h => { h with comps := (0 :: partIds.map (· + 1)).flatMap (pfwComps t), cmds := [], handed := [], reads := [] })

/-- The epochs of the partitions that exist end with the module's power. -/
def pfwEpochs (s : State) : State := partIds.foldl (fun s p => if (getPart s p).phase = .absent then s else endEpoch s p 6) s

theorem pfwStart_under_way {s : State} (h : s.power.pfwAt.isSome) : pfwStart s = s := if_pos h

theorem pfwStart_eq {s : State} (h : s.power.pfwAt = none) : pfwStart s = ibiCheck (modPow (pfwEpochs (pfwHeld s))
    (fun w => { w with pfwAt := some (pfwEpochs (pfwHeld s)).tick, pstate := .pfw, needCycle := true })) := by
  unfold pfwStart
  exact if_neg (by simp [h])

theorem pfwEpochs_within (s : State) : Within [.parts] s (pfwEpochs s) :=
  foldl_within _ _ (.refl _ s) fun _ _ h => ite_within h (endEpoch_within (by decide) h)

theorem pfwEpochs_sameClock (s : State) : SameClock s (pfwEpochs s) := by
  unfold pfwEpochs
  refine foldl_sameClock (fun t p => ?_) partIds s
  split
  · exact .refl t
  · exact endEpoch_sameClock t p 6

theorem touchAll_sameClock (s : State) : SameClock s (touchAll s) := by
  unfold touchAll
  exact foldl_sameClock (fun t p => modPart_sameClock t p (fun _ => by rfl) (fun _ => by rfl)) partIds s

theorem floorEntered_sameClock (s : State) (tj : Bool) : SameClock s (floorEntered s tj) := by
  unfold floorEntered
  split
  · exact .trans (.of_parts (modPow_parts s fun _ => floorPower s tj)) (touchAll_sameClock _)
  · exact .of_parts (modPow_parts s fun _ => floorPower s tj)

theorem enterFloor_sameClock (s : State) (tj : Bool) : SameClock s (enterFloor s tj none) := by
  by_cases hpg : s.power.pg = true
  · cases hf : s.power.floor
    · rw [enterFloor_first tj none hpg hf]
      exact (floorEntered_sameClock s tj).trans (.of_parts (ibiCheck_parts _))
    · rw [enterFloor_again tj none hpg hf]
      exact .of_parts (modPow_parts s _)
  · rw [enterFloor, if_pos (by simp [hpg])]
    exact .refl s

section fails

variable {s : State}

theorem bootAbandon_writes (s : State) : (bootAbandon s).host.writes = s.host.writes := by
  unfold bootAbandon
  split <;> rfl

theorem bootAbandon_kept (s : State) : (bootAbandon s).power = s.power ∧ (bootAbandon s).parts = s.parts := by
  have h := bootAbandon_within (fs := [.host, .sec]) (by decide) (by decide) (.refl _ s)
  exact ⟨h.power.resolve_left (by decide), h.parts.resolve_left (by decide)⟩

theorem pfwHeld_host (s : State) : (pfwHeld s).host.cmds = [] ∧ (pfwHeld s).host.handed = [] ∧ (pfwHeld s).host.reads = [] ∧
    (pfwHeld s).host.writes = s.host.writes :=
  ⟨rfl, rfl, rfl, (congrArg HostIf.writes (enterFloor_kept (bootAbandon s) false none).1).trans (bootAbandon_writes s)⟩

theorem pfwHeld_rtes (s : State) : (pfwHeld s).rtes = (holdReqs (enterFloor (bootAbandon s) false none)).rtes := modHost_rtes _ _

theorem pfwHeld_floor (hpg : s.power.pg = true) : (pfwHeld s).power.floor = true :=
  enterFloor_floor false none (by rw [(bootAbandon_kept s).1]; exact hpg)

theorem pfwHeld_sameClock (s : State) : SameClock s (pfwHeld s) :=
  .trans (.of_parts (bootAbandon_kept s).2) (.trans (enterFloor_sameClock _ false) (.of_parts rfl))

theorem pfwHeld_within (s : State) : Within [.host, .parts, .rtes, .power, .sec, .pew] s (pfwHeld s) := by
  unfold pfwHeld
  exact modHost_within _ (by decide) (holdReqs_within (by decide) (enterFloor_within (by decide) (by decide) (by decide)
    (bootAbandon_within (by decide) (by decide) (.refl _ s))))

/-- R405: what the sequence does at time 0. -/
theorem pfwStart_spec (hpg : s.power.pg = true) (hpfw : s.power.pfwAt = none) : (pfwStart s).power.pfwAt = some s.tick ∧
    (pfwStart s).power.pstate = .pfw ∧ (pfwStart s).power.floor = true ∧ (pfwStart s).power.needCycle = true ∧
    (pfwStart s).host.cmds = [] ∧ (pfwStart s).host.handed = [] ∧ (pfwStart s).host.reads = [] ∧
    (pfwStart s).host.writes = s.host.writes ∧ (pfwStart s).mem = s.mem ∧
    (∀ r q, getRte (pfwStart s) r = some q → q.dyn0.state = .free ∧ q.dyn1.state = .free) ∧
    ∀ p, (getPart (pfwStart s) p).cw = (getPart s p).cw := by
  have hheld := pfwHeld_within s
  have hepochs := pfwEpochs_within (pfwHeld s)
  have htick : (pfwEpochs (pfwHeld s)).tick = s.tick := (hepochs.tick.resolve_left (by decide)).trans (hheld.tick.resolve_left (by decide))
  have hmem : (pfwEpochs (pfwHeld s)).mem = s.mem := (hepochs.mem.resolve_left (by decide)).trans (hheld.mem.resolve_left (by decide))
  have hclock := (pfwHeld_sameClock s).trans (pfwEpochs_sameClock (pfwHeld s))
  obtain ⟨hcmds, hhanded, hreads, hwrites⟩ := pfwHeld_host s
  rw [pfwStart_eq hpfw, ibiCheck_power, (ibiCheck_kept _).1, (ibiCheck_kept _).2, modPow_power, modPow_host, modPow_mem,
    hepochs.power.resolve_left (by decide), hepochs.host.resolve_left (by decide), htick, hmem]
  refine ⟨rfl, rfl, pfwHeld_floor hpg, rfl, hcmds, hhanded, hreads, hwrites, rfl, fun r q hq => ?free, fun p => ?cw⟩
  case free =>
    rw [getRte, ibiCheck_rtes, modPow_rtes, hepochs.rtes.resolve_left (by decide), pfwHeld_rtes] at hq
    exact getRte_holdReqs hq
  case cw =>
    rw [getPart, ibiCheck_parts, modPow_parts]
    exact (hclock p).1

end fails

section sequence

variable {s : State} (hpg : s.power.pg = true)
include hpg

theorem exec_pfwRecognised_powered : exec .pfwRecognised s = .next (pfwStart s) := by
  rw [exec_pfwRecognised, execPfwRecognised, if_pos hpg]

theorem exec_inputUndervoltage_powered {vin : Nat} (hv : vin < 3850) : exec (.inputUndervoltage vin) s =
    .next (pfwStart (modPow s (fun w => { w with vin := vin, uv := true }))) := by
  rw [exec_inputUndervoltage, execInputUndervoltage, whenB_true _ _ (decide_eq_true hv), if_pos hpg]

theorem exec_enDeassert_powered (hen : s.power.en = true) : exec .enDeassert s =
    .next (modPow (pfwStart (modPow s (fun w => { w with en := false }))) (fun w => { w with needCycle := false })) := by
  rw [exec_enDeassert, execEnDeassert, whenB_true _ _ hen]
  dsimp only
  rw [if_pos hpg]

end sequence

section powerOff

variable {s : State} {a : Nat} (ha : s.power.pfwAt = some a)
include ha

theorem exec_pfwPowerOff_early (h : s.tick < a + 300000) : exec .pfwPowerOff s = .next s := by
  rw [exec_pfwPowerOff, execPfwPowerOff, ha]
  exact congrArg _ (whenB_false _ _ (decide_eq_false (Nat.not_le.mpr h)))

/-- Main power goes 3.0 ms after recognition, and the module does not start again before EN is cycled. -/
theorem exec_pfwPowerOff_due (h : a + 300000 ≤ s.tick) (hcycle : s.power.needCycle = true) :
    exec .pfwPowerOff s = .next (ibiCheck (mainLost s .off)) := by
  have hstays : recognise (ibiCheck (mainLost s .off)) = ibiCheck (mainLost s .off) :=
    recognise_refused (.inl (by rw [ibiCheck_power]; exact hcycle))
  rw [exec_pfwPowerOff, execPfwPowerOff, ha]
  exact congrArg _ ((whenB_true _ _ (decide_eq_true h)).trans hstays)

end powerOff

/-! ### The loss of main power (R383, R404, R406, R427) -/

section lost

variable {s : State} (hpg : s.power.pg = true)
include hpg

theorem exec_hardwareTrip_powered : exec .hardwareTrip s =
    .next (ibiCheck (mainLost (modPow s (fun w => { w with needCycle := true })) .tripped)) := by
  rw [exec_hardwareTrip, execHardwareTrip, whenB_true _ _ hpg]

theorem exec_inputOvervoltage_powered {vin : Nat} (hv : 6200 < vin) : exec (.inputOvervoltage vin) s =
    .next (ibiCheck (mainLost (modPow s (fun w => { w with vin := vin, needCycle := true })) .off)) := by
  rw [exec_inputOvervoltage, execInputOvervoltage, whenB_true _ _ (decide_eq_true hv), if_pos hpg]

theorem exec_inputCollapse_powered {vin : Nat} (hv : vin < 3600) : exec (.inputCollapse vin) s =
    .next (ibiCheck (mainLost (modPow s (fun w => { w with
      vin := vin, uv := true, needCycle := w.needCycle || s.power.pfwAt.isNone })) .off)) := by
  rw [exec_inputCollapse, execInputCollapse, whenB_true _ _ (decide_eq_true hv), if_pos hpg]
  rfl

theorem exec_railOutOfWindow_powered {rail : Nat} (hr : rail < 212) (hon : rail ∉ s.power.railsOff) :
    exec (.railOutOfWindow rail) s = .next (railOut s rail) := by
  rw [exec_railOutOfWindow, execRailOutOfWindow, onUnit_known _ (decide_eq_true hr), whenB_true _ _ (by simp [hpg, hon])]

end lost

/-- R383: a rail that no sector, group or slice has to itself takes main power away. -/
theorem railOut_shared (s : State) {rail : Nat} (h : rail = 112 ∨ (209 ≤ rail ∧ rail < 212)) : railOut s rail =
    ibiCheck (mainLost (modPow (logRail s rail none 6) (fun w => { w with railFault := true, needCycle := true })) .railFault) := by
  unfold railOut
  dsimp only
  rw [if_neg (by omega), if_neg (by omega), if_neg (by omega), if_neg (by omega)]

/-- Settles O45: each sequence by its next state, and what that state keeps. -/
theorem powerSequences : Obligations.PowerSequences := by
  refine ⟨fun s ps => ⟨_, rfl, ?lost⟩, fun s hen => ⟨fun hno => ?stays, fun hcycle huv hstandby hready hpg hps => ?starts⟩,
    fun s hps => ⟨fun hstandby => ⟨_, exec_powerGood_starting hps hstandby, ?good⟩,
      fun rail hr => ⟨_, exec_railStartFail_starting hps hr, ?fails⟩⟩,
    fun s hpg hpfw => ⟨exec_pfwRecognised_powered hpg, fun vin hv => exec_inputUndervoltage_powered hpg hv,
      fun hen => ⟨_, exec_enDeassert_powered hpg hen, rfl⟩, _, rfl, pfwStart_spec hpg hpfw⟩,
    fun s h => pfwStart_under_way h, fun s hpg hen hpfw => ?again,
    fun s a ha => ⟨exec_pfwPowerOff_early ha, exec_pfwPowerOff_due ha⟩,
    fun s hpg => ⟨exec_hardwareTrip_powered hpg, fun vin hv => exec_inputOvervoltage_powered hpg hv,
      fun vin hv => ⟨_, exec_inputCollapse_powered hpg hv, ?collapse⟩,
      fun rail hr hon => exec_railOutOfWindow_powered hpg hr hon, fun rail hr => ⟨_, railOut_shared s hr, ?shared⟩⟩,
    fun s vin hv huv => exec_inputRestart_above hv huv, fun s => ⟨_, rfl, ibiCheck_rest s⟩⟩
  case lost => exact ⟨rfl, rfl, rfl, rfl, rfl, rfl, rfl, rfl, rfl, rfl, rfl, rfl, rfl, rfl, rfl, rfl⟩
  case stays =>
    rw [exec_enAssert_off hen, recognise_refused (s := modPow s (fun w => { w with en := true })) hno]
    rfl
  case starts =>
    refine ⟨_, (exec_enAssert_off hen).trans (congrArg _ (recognise_starts rfl hcycle huv hstandby hready hpg hps)), ?_⟩
    rw [ibiCheck_rest]
    exact ⟨rfl, rfl, rfl, rfl, rfl, rfl⟩
  case good =>
    rw [ibiCheck_rest]
    exact ⟨rfl, rfl, rfl, rfl, rfl, rfl⟩
  case fails =>
    rw [ibiCheck_rest]
    exact ⟨rfl, rfl, rfl, rfl, rfl⟩
  case again =>
    rw [exec_enDeassert_powered hpg hen, pfwStart_under_way (s := modPow s (fun w => { w with en := false })) hpfw]
    rfl
  case collapse =>
    rw [ibiCheck_rest]
    exact ⟨rfl, rfl, rfl, rfl, rfl⟩
  case shared =>
    rw [ibiCheck_rest]
    exact ⟨rfl, rfl, rfl, rfl, rfl⟩

end Sys2Proof.Machine
end

section
/-! What a chunk and a step share: their inputs, and a commit in free-running mode (R224, R289, R391, R399). -/

namespace Sys2Proof.Machine

/-- Nothing that the request uses is marked damaged: no segment of the selected model, and not its steering set. -/
def Undamaged (s : State) (q : Rte) : Prop := (∀ sl, selSlot s q.part = some sl → sl.damaged = []) ∧
  (q.steer = 0xFFFF ∨ ∀ x, SGet none (getPart s q.part).steers q.steer = some x → x.damaged = false)

theorem damageCheck_undamaged {s : State} (r : Nat) {q : Rte} (h : Undamaged s q) : damageCheck s r q = s := by
  obtain ⟨hmodel, hset⟩ := h
  unfold damageCheck
  dsimp only
  rw [if_neg, if_neg]
  · rintro ⟨hbad, hsteered⟩
    split at hbad
    next x hx => exact ne_true_of_eq_false (hset.resolve_left hsteered x hx) hbad
    next => cases hbad
  · intro hbad
    split at hbad
    next sl hsl => simp [hmodel sl hsl] at hbad
    next => cases hbad

theorem divideEnergy_uncounted {s : State} (h : s.power.ecmode ≠ 1) (p : Nat) (ws : List (Nat × Nat)) : divideEnergy s p ws = s := if_pos h

theorem paceIssue_unpaced {s : State} (h : s.power.paced = false) (start ready held : Nat) : paceIssue s start ready held = true := by
  simp [paceIssue, h]

/-- Without a pace there is no interval that is long, and none that a departure touched is reported. -/
theorem reportTiming_unpaced {s : State} (hpaced : s.power.paced = false) (hdep : s.power.departed = none) (p start ready held : Nat) :
    reportTiming s p false start ready held = s := by
  have hguard : beyondGuard s start ready held = false := by simp [beyondGuard, hpaced]
  have hlog : logDeparture s p false 3 = s := rfl
  simp only [reportTiming, hdep, hguard, Option.isSome_none, Bool.or_self, Bool.false_eq_true, if_false, hlog]
  rw [logLong]
  exact if_pos (.inl (by simp [hpaced]))

theorem commitClear_of {s : State} {p o : Nat} (hserv : serving s = true) (hrep : noReports s p = true) (hhor : horizonAt s p o = true)
    (hhalves : (getPart s p).halves = []) : commitClear s p o = true := by
  simp [commitClear, hserv, hrep, hhor, hhalves]

/-- A frame of local memory alone. -/
theorem Within.mem_only {s t : State} (h : Within [.mem] s t) : t = { s with mem := t.mem } := by
  obtain ⟨tick, sbTick, freeCtr, host, parts, rtes, fab, power, sec, pew, eng, mem, pending⟩ := t
  obtain ⟨rfl, -, -, htick, hsb, hfree, hhost, hparts, hrtes, hfab, hpower, hsec, hpew, heng, -, -⟩ := h
  obtain rfl := htick.resolve_left (by decide)
  obtain rfl := hsb.resolve_left (by decide)
  obtain rfl := hfree.resolve_left (by decide)
  obtain rfl := hhost.resolve_left (by decide)
  obtain rfl := hparts.resolve_left (by decide)
  obtain rfl := hrtes.resolve_left (by decide)
  obtain rfl := hfab.resolve_left (by decide)
  obtain rfl := hpower.resolve_left (by decide)
  obtain rfl := hsec.resolve_left (by decide)
  obtain rfl := hpew.resolve_left (by decide)
  obtain rfl := heng.resolve_left (by decide)
  rfl

theorem writeInputs_within_mem (s : State) (p i : Nat) (c : Ctx) : Within [.mem] s (writeInputs s p i c) :=
  writeInputs_within (by decide) (.refl _ s)

end Sys2Proof.Machine
end

section
/-! The prefill of a request: its prompt, its chunks and their commits (R214, R217, R218, R220, R221, R224). -/

namespace Sys2Proof.Machine

/-! ### The prompt (R214, R268, R288) -/

/-- A read of host memory never ends at once. -/
theorem startRead_host (s : State) (fn : Nat) {addr : Nat} (len : Nat) (use : ReadFor) (ha : gSpace addr = 1) :
    (startRead s fn addr len use).2 = true := by
  unfold startRead issuePiece
  dsimp only
  rw [if_pos (by simp [ORead.host, ha])]

section begins

variable {s : State} {p addr len : Nat} (use : ReadFor)

theorem beginRead_denied (h : permitted s p none false addr len = false) : beginRead s p addr len use = (s, .fail 0x0409) := by
  unfold beginRead
  exact if_pos (by simp [h])

variable (h : permitted s p none false addr len = true)
include h

theorem beginRead_local {off : Nat} (ho : localOf s p none addr = some off) (hlost : memLost s off len = false) :
    beginRead s p addr len use = (memTouch s off len, .now (memGet s off len)) := by
  unfold beginRead
  rw [if_neg (by simp [h]), ho]
  exact if_neg (ne_true_of_eq_false hlost)

theorem beginRead_host (ha : gSpace addr = 1) : beginRead s p addr len use = ((startRead s (p + 1) addr len use).1, .pending) := by
  unfold beginRead
  rw [if_neg (by simp [h]), localOf_host s p none ha]
  exact if_pos (startRead_host s (p + 1) len use ha)

end begins

/-- What the answer to the read of a prompt makes of its request. -/
def promptAnswered (r : Nat) (a : State × RdRes) : State :=
  match a.2 with
  | .now bs => promptDone a.1 r bs
  | .pending => a.1
  | .fail st => failReq a.1 r (rankOf st) st

theorem exec_promptCheck_open {s : State} {r : Nat} {q : Rte} (hq : getRte s r = some q) (hserv : serving s = true)
    (hopen : (dynOf s q).state = .open) (hids : q.ids = none) (herr : q.err = none)
    (hnew : s.host.reads.any (fun x => x.use == .prompt r) = false) :
    exec (.promptCheck r) s = .next (promptAnswered r (beginRead s q.part q.prompt (4 * q.nprompt) (.prompt r))) := by
  rw [exec_promptCheck, execPromptCheck, hq]
  refine if_neg ?_
  simp only [not_or]
  exact ⟨by simp [hserv], not_not_intro hopen, by simp [hids], by simp [herr], ne_true_of_eq_false hnew⟩

/-- The number of token ids of the selected model. -/
def vocabOf (s : State) (p : Nat) : Nat := match selSlot s p with | some sl => (hdrOf s sl).v | none => 0

section prompt

variable {s : State} {r : Nat} {q : Rte} {bs : List Byte} {ids : List Nat} (hq : getRte s r = some q)
  (hids : ids = (List.range q.nprompt).map (fun i => fld bs (4 * i) 4))
include hq hids

theorem promptDone_eq : promptDone s r bs = if ids.any (fun i => decide (vocabOf s q.part ≤ i)) then
    failReq (modRte s r (fun q => { q with ids := some ids })) r 10 0x010B else modRte s r (fun q => { q with ids := some ids }) := by
  subst hids
  rw [promptDone, hq]
  rfl

theorem promptDone_invalid (hbad : ids.any (fun i => decide (vocabOf s q.part ≤ i)) = true) (herr : q.err = none) :
    getRte (promptDone s r bs) r = some { q with ids := some ids, err := some ⟨s.tick, 10, 0x010B⟩ } := by
  rw [promptDone_eq hq hids, if_pos hbad, modRte_of_some _ hq, failReq, modRte_of_some _ (getRte_setRte s r _), getRte_setRte]
  dsimp only
  rw [herr]
  rfl

theorem promptDone_valid (hok : ids.any (fun i => decide (vocabOf s q.part ≤ i)) = false) :
    getRte (promptDone s r bs) r = some { q with ids := some ids } := by
  rw [promptDone_eq hq hids, if_neg (ne_true_of_eq_false hok), modRte_of_some _ hq, getRte_setRte]

end prompt

/-! ### The start of a chunk (R218, R220) -/

/-- A chunk's request with its pages, and the chunk in its partition, before firmware writes its inputs. -/
def chunkBegun (s : State) (r count : Nat) (pages : List Nat) (q : Rte) (sl : Slot) : State :=
  modPart (setRte s r (some (mapPages q (unmapped (hdrOf s sl) q ((dynOf s q).prefilled + count - 1)) pages))) q.part (fun P => { P with
    chunk := some { rte := r, first := (dynOf s q).prefilled, count := count, start := s.tick, ready := s.tick, occ := occsOf s q }
    began := s.tick })

theorem exec_prefillChunkStart_due {s : State} {r count : Nat} {pages : List Nat} {q : Rte} {sl : Slot} (hq : getRte s r = some q)
    (hsl : selSlot s q.part = some sl) (hserv : serving s = true) (hstop : s.power.tstop = false)
    (hctx : (getPart s q.part).serving.isSome) (hchunk : (getPart s q.part).chunk = none) (hruns : (getPart s q.part).runs = [])
    (hnext : nextPrefill s q.part = some r) (hids : q.ids.isSome) (h1 : 1 ≤ count) (h2048 : count ≤ 2048)
    (hin : (dynOf s q).prefilled + count ≤ q.nprompt) (hpace : pacedReady s q.part = true)
    (hlen : pages.length = (unmapped (hdrOf s sl) q ((dynOf s q).prefilled + count - 1)).length)
    (hfree : pages.all (pageFree s q.part) = true) (hnodup : pages.Nodup) (hok : Undamaged s q) :
    exec (.prefillChunkStart r count pages) s = .next (writeInputs (chunkBegun s r count pages q sl) q.part
      (roleImage (chunkBegun s r count pages q sl) q.part 1) .chunk) := by
  rw [exec_prefillChunkStart, execPrefillChunkStart, hq]
  dsimp only
  rw [hsl]
  dsimp only
  rw [if_neg ?ready, damageCheck_undamaged r hok, modRte_of_some _ hq]
  case ready =>
    simp only [not_or]
    exact ⟨by simp [hserv], ne_true_of_eq_false hstop, by simpa using Option.isSome_iff_ne_none.mp hctx, by simp [hchunk], by simp [hruns],
      not_not_intro hnext, by simpa using Option.isSome_iff_ne_none.mp hids, by omega, by omega, by omega, by simp [hpace],
      not_not_intro hlen, by simp [hfree], by simp [hnodup]⟩
  rfl

/-! ### The commit of a chunk (R221, R224) -/

/-- A request once its chunk's positions are committed. -/
def chunkCommitted (P : Part) (k : Chunk) (q : Rte) : Rte :=
  writeDyn P.cw (commitOcc (P.cw + 1) k.occ { q with readyAt := if q.nprompt ≤ k.first + k.count then P.readied else q.readyAt })
    { validDyn P.cw q with
      csn := P.cw + 1, state := if q.nprompt ≤ k.first + k.count then .ready else .prefill
      prefilled := k.first + k.count, flg := (validDyn P.cw q).flg ||| k.flg ||| SGet 0 P.notices k.rte }

theorem exec_prefillChunkCommit_running {s : State} {part : Nat} {k : Chunk} (hk : (getPart s part).chunk = some k)
    (hran : chunkRan s part k = false) : exec (.prefillChunkCommit part) s = .next s := by
  rw [exec_prefillChunkCommit, execPrefillChunkCommit]
  dsimp only
  rw [hk]
  exact if_pos (.inr (.inl (by simp [hran])))

theorem exec_prefillChunkCommit_due {s : State} {part : Nat} {k : Chunk} {q : Rte} (hk : (getPart s part).chunk = some k)
    (hclear : commitClear s part s.tick = true) (hran : chunkRan s part k = true) (hpaced : s.power.paced = false)
    (hdep : s.power.departed = none) (htouched : k.departed = false) (hec : s.power.ecmode ≠ 1) (hq : getRte s k.rte = some q)
    (hstate : (validDyn (getPart s part).cw q).state ≠ .closing) (herr : q.err = none) (hcxl : q.cxlTick = 0) (hab : q.aborted = false)
    (hok : Undamaged s q) : exec (.prefillChunkCommit part) s = .next (settle (commitWord
      (modPart (setRte s k.rte (some (chunkCommitted (getPart s part) k q))) part (fun P => commitDrops k.drops { P with
        chunk := none, readied := P.readied + 1, notices := SErase P.notices k.rte })) part) part) := by
  have hcommits : (rowCommits ((getPart s part).cw + 1) s.tick q && q.cxlTick == 0) = true := by
    simp [rowCommits, hstate, herr, hcxl, hab]
  rw [exec_prefillChunkCommit, execPrefillChunkCommit]
  dsimp only
  rw [hk]
  dsimp only
  rw [if_neg ?clear]
  case clear => simp [hclear, hran, htouched, paceIssue_unpaced hpaced]
  simp only [hq, damageCheck_undamaged k.rte hok, hcommits, htouched, modRte_of_some _ hq, Bool.not_true, Bool.false_eq_true, if_false,
    if_true, decide_eq_true_eq]
  rw [divideEnergy_uncounted, reportTiming_unpaced]
  · rfl
  · exact hpaced
  · exact hdep
  · exact hec

/-- Settles O22: the prompt, the start of a chunk and its commit, each by its next state. -/
theorem prefillOfRequests : Obligations.PrefillOfRequests := by
  refine ⟨fun s r off q hq hserv hopen hids herr hnew => ?prompt, fun s r v q bs ids hq hids hv => ?tokens,
    fun s u r count pages q sl d hq hsl hd hserv hstop hctx hchunk hruns hnext hids h1 h2048 hin hpace hlen hfree hnodup hdam hset hu => ?start,
    fun s p i c => ⟨_, (writeInputs_within_mem s p i c).mem_only⟩,
    fun s u part k q d hk hserv hrep hhor hhalves hran hpaced hdep htouched hec hq hd hstate herr hcxl hab hdam hset hu => ?commit,
    fun s part k hk hran => exec_prefillChunkCommit_running hk hran⟩
  case prompt =>
    rw [exec_promptCheck_open hq hserv hopen hids herr hnew]
    refine ⟨fun hp ho hlost => ?_, fun hp hhost => ?_, fun hno => ?_⟩
    · rw [beginRead_local _ hp ho hlost]; rfl
    · rw [beginRead_host _ hp hhost]; rfl
    · rw [beginRead_denied _ hno]; rfl
  case tokens =>
    obtain rfl : v = vocabOf s q.part := hv
    exact ⟨promptDone_invalid hq hids, promptDone_valid hq hids⟩
  case start =>
    subst hd hu
    refine exec_prefillChunkStart_due hq hsl hserv hstop hctx hchunk hruns hnext hids h1 h2048 hin hpace hlen hfree hnodup ⟨?_, hset⟩
    rintro sl' hsl'
    obtain rfl := Option.some.inj (hsl.symm.trans hsl')
    exact hdam
  case commit =>
    subst hd hu
    exact exec_prefillChunkCommit_due hk (commitClear_of hserv hrep hhor hhalves) hran hpaced hdep htouched hec hq hstate herr hcxl hab ⟨hdam, hset⟩

end Sys2Proof.Machine
end

section
/-! A decode step: its start over the batch, its output and its commit (R217, R218, R225, R226, R231). -/

namespace Sys2Proof.Machine

/-! ### The start of a step (R217, R218, R225, R361) -/

/-- One request of the batch: damaged data and slices that the walker refuses end it. -/
def rowChecked (h : Hdr) (s : State) (r : Nat) : State :=
  match getRte s r with
  | some q => kvCheck (damageCheck s r q) h r
  | none => s

theorem rowChecked_within {fs : List Field} {s0 s : State} (h : Hdr) (r : Nat) (hf : .freeCtr ∈ fs) (hr : .rtes ∈ fs) (hp : .pew ∈ fs)
    (hs : Within fs s0 s) : Within fs s0 (rowChecked h s r) := by
  unfold rowChecked
  split
  · exact kvCheck_within hf hr hp (damageCheck_within hr hs)
  · exact hs

/-- The batch's requests with their pages, and checked. -/
def batchReady (s : State) (part : Nat) (pages : List (Nat × Nat)) (h : Hdr) : State :=
  (batchOf s part).foldl (rowChecked h)
    (((stepNeeds s h (batchOf s part)).zip pages).foldl (fun s x => modRte s x.1.1 (fun q => mapPages q [x.1.2] [x.2.2])) s)

theorem batchReady_within (s : State) (part : Nat) (pages : List (Nat × Nat)) (h : Hdr) :
    Within [.freeCtr, .rtes, .pew] s (batchReady s part pages h) := by
  unfold batchReady
  exact foldl_within _ _ (foldl_within _ _ (.refl _ s) fun _ _ ht => modRte_within (by decide) ht)
    fun _ r ht => rowChecked_within h r (by decide) (by decide) (by decide) ht

/-- The step of the batch stands in its partition. -/
def stepBegun (s : State) (part : Nat) (pages : List (Nat × Nat)) (h : Hdr) : State :=
  modPart (batchReady s part pages h) part (fun P => { P with
    step := some { rows := (batchOf s part).map (fun r => { rte := r }), start := (batchReady s part pages h).tick }
    began := (batchReady s part pages h).tick })

/-- Firmware has written the inputs of a batch that is not empty. -/
def stepStarted (s : State) (part : Nat) (pages : List (Nat × Nat)) (h : Hdr) : State :=
  if (batchOf s part).isEmpty then stepBegun s part pages h
  else writeInputs (stepBegun s part pages h) part (roleImage (stepBegun s part pages h) part 2) .step

theorem stepStarted_within (s : State) (part : Nat) (pages : List (Nat × Nat)) (h : Hdr) :
    Within [.mem] (stepBegun s part pages h) (stepStarted s part pages h) := by
  unfold stepStarted
  exact ite_within (.refl _ _) (writeInputs_within_mem _ part _ .step)

theorem stepBegun_within (s : State) (part : Nat) (pages : List (Nat × Nat)) (h : Hdr) :
    Within [.freeCtr, .rtes, .pew, .parts] s (stepBegun s part pages h) :=
  modPart_within _ _ (by decide) ((batchReady_within s part pages h).mono (by decide))

theorem getPart_stepStarted (s : State) (part k : Nat) (pages : List (Nat × Nat)) (h : Hdr) :
    getPart (stepStarted s part pages h) k = getPart (stepBegun s part pages h) k := by
  rw [getPart, (stepStarted_within s part pages h).parts.resolve_left (by decide)]
  rfl

theorem getPart_batchReady (s : State) (part k : Nat) (pages : List (Nat × Nat)) (h : Hdr) :
    getPart (batchReady s part pages h) k = getPart s k := by
  rw [getPart, (batchReady_within s part pages h).parts.resolve_left (by decide)]
  rfl

theorem getPart_stepStarted_self (s : State) (part : Nat) (pages : List (Nat × Nat)) (h : Hdr) :
    getPart (stepStarted s part pages h) part = { getPart s part with
      step := some { rows := (batchOf s part).map (fun r => { rte := r }), start := s.tick }, began := s.tick } := by
  rw [getPart_stepStarted, stepBegun, getPart_modPart, getPart_batchReady, (batchReady_within s part pages h).tick.resolve_left (by decide)]

theorem getPart_stepStarted_ne (s : State) {part k : Nat} (pages : List (Nat × Nat)) (h : Hdr) (hk : k ≠ part) :
    getPart (stepStarted s part pages h) k = getPart s k := by
  rw [getPart_stepStarted, stepBegun, getPart_modPart_ne _ _ hk, getPart_batchReady]

theorem stepStarted_mem {s : State} {part : Nat} (pages : List (Nat × Nat)) (h : Hdr) (hno : batchOf s part = []) :
    (stepStarted s part pages h).mem = s.mem := by
  rw [stepStarted, hno]
  exact (stepBegun_within s part pages h).mem.resolve_left (by decide)

/-- R361: the checks of a Copper unit of the partition disagree. -/
def copperReported (part : Nat) (bad : Option Nat) (s : State) : State :=
  match bad with
  | none => s
  | some u => if decide (u < 384) && partOfGroup s (u / 8) == some part then reportError s utCopper 0x01 u 0 else s

theorem copperReported_some (part u : Nat) (s : State) : copperReported part (some u) s =
    if u < 384 ∧ partOfGroup s (u / 8) = some part then reportError s utCopper 0x01 u 0 else s := by
  simp [copperReported]

theorem exec_decodeStepStart_due {s : State} {part : Nat} {pages : List (Nat × Nat)} {sl : Slot} (hsl : selSlot s part = some sl)
    (hserv : serving s = true) (hctx : (getPart s part).serving.isSome) (hstep : (getPart s part).step = none)
    (hpace : pacedReady s part = true) (hstop : s.power.tstop = false)
    (hneed : pages.map (·.1) = (stepNeeds s (hdrOf s sl) (batchOf s part)).map (·.1))
    (hfree : (pages.map (·.2)).all (pageFree s part) = true) (hnodup : (pages.map (·.2)).Nodup) (bad : Option Nat) :
    exec (.decodeStepStart part pages bad) s = .next (copperReported part bad (stepStarted s part pages (hdrOf s sl))) := by
  rw [exec_decodeStepStart, execDecodeStepStart]
  dsimp only
  rw [hsl]
  refine if_neg ?_
  simp only [not_or]
  exact ⟨by simp [hserv], by simpa using Option.isSome_iff_ne_none.mp hctx, by simp [hstep], by simp [hpace], ne_true_of_eq_false hstop,
    not_not_intro hneed, fun h => absurd hfree (by simpa using h), fun h => absurd hnodup (by simpa using h)⟩

/-! ### The output (R225, R228, R239) -/

section output

variable {s : State} {part : Nat} {t : DStep} {sl : Slot} (ht : (getPart s part).step = some t) (hsl : selSlot s part = some sl)
include ht hsl

theorem exec_decodeStepOutput_ready (hserv : serving s = true) (hout : t.tout = none) (hhalves : (getPart s part).halves = [])
    (hready : stepReady s part t = true) : exec (.decodeStepOutput part) s = .next (modPart s part (fun P => { P with step := some { t with
      tout := some s.tick
      rows := t.rows.map (fun x => { sampleRow s P (hdrOf s sl) x.rte (SGet 0 t.logits x.rte - 1) with
        flg := (sampleRow s P (hdrOf s sl) x.rte (SGet 0 t.logits x.rte - 1)).flg ||| x.flg, occ := x.occ, drops := x.drops }) } })) := by
  rw [exec_decodeStepOutput, execDecodeStepOutput]
  dsimp only
  rw [ht, hsl]
  exact if_neg (by simp [hserv, hout, hhalves, hready])

theorem exec_decodeStepOutput_running (hrun : stepReady s part t = false) : exec (.decodeStepOutput part) s = .next s := by
  rw [exec_decodeStepOutput, execDecodeStepOutput]
  dsimp only
  rw [ht, hsl]
  exact if_pos (by simp [hrun])

end output

/-! ### The rows of a commit (R226, R231) -/

section rows

variable {n o : Nat} {fl : SMap Flg} {x : StepRow} {q : Rte} {d : Dyn} (hd : d = validDyn n q)
include hd

theorem rowCommits_eq_false (h : d.state = .closing ∨ q.err.isSome ∨ q.aborted = true ∨ (q.cxlTick ≠ 0 ∧ q.cxlTick ≤ o)) :
    rowCommits (n + 1) o q = false := by
  subst hd
  rcases h with h | h | h | ⟨h0, h⟩
  · simp [rowCommits, h]
  · simp [rowCommits, Option.isSome_iff_ne_none.mp h]
  · simp [rowCommits, h]
  · simp [rowCommits, h0, h]

theorem rowCommits_eq_true (hstate : d.state ≠ .closing) (herr : q.err = none) (hab : q.aborted = false)
    (hcxl : q.cxlTick = 0 ∨ o < q.cxlTick) : rowCommits (n + 1) o q = true := by
  subst hd
  rcases hcxl with h | h <;> simp [rowCommits, hstate, herr, hab, h]

end rows

/-- The occupancy records of a commit leave a request's tokens and entries. -/
theorem commitOcc_kept (csn : Nat) (occ : SMap Occ) (q : Rte) :
    (commitOcc csn occ q).toks = q.toks ∧ (commitOcc csn occ q).ents = q.ents :=
  List.foldlRecOn (motive := fun p : Rte => p.toks = q.toks ∧ p.ents = q.ents) _ _ ⟨rfl, rfl⟩ fun p hp e _ => by
    dsimp only
    split <;> exact hp

theorem writeDyn_spec (cw : Nat) (q : Rte) (d : Dyn) : (writeDyn cw q d).toks = q.toks ∧ (writeDyn cw q d).ents = q.ents ∧
    ((writeDyn cw q d).dyn0 = d ∨ (writeDyn cw q d).dyn1 = d) := by
  unfold writeDyn
  split
  · exact ⟨rfl, rfl, .inl rfl⟩
  · exact ⟨rfl, rfl, .inr rfl⟩

theorem commitRow_suppressed {n o : Nat} {fl : SMap Flg} {x : StepRow} {q : Rte} (h : rowCommits (n + 1) o q = false) :
    commitRow (n + 1) o fl x q = q := by
  unfold commitRow
  exact if_pos (by simp [h])

theorem commitRow_token {n o k : Nat} {fl : SMap Flg} {x : StepRow} {q : Rte} (h : rowCommits (n + 1) o q = true)
    (hk : x.token = some k) : commitRow (n + 1) o fl x q = writeDyn n { commitOcc (n + 1) x.occ q with
        toks := (commitOcc (n + 1) x.occ q).toks ++ [k]
        ents := (commitOcc (n + 1) x.occ q).ents ++ [⟨k, (validDyn n q).ngen, decide (1 ≤ x.stop ∧ x.stop ≤ 4), n + 1⟩] }
      { validDyn n q with
        csn := n + 1, state := if x.stop ≠ 0 then .closing else .decode, stop := x.stop
        flg := (validDyn n q).flg ||| x.flg ||| SGet 0 fl x.rte, ngen := (validDyn n q).ngen + 1 } := by
  unfold commitRow
  dsimp only
  rw [if_neg (by simp [h]), hk]
  rfl

/-! ### The commit of a step (R224, R226) -/

/-- A request of the batch that would use damaged data ends with the step. -/
def damageFound (s : State) (x : StepRow) : State := match getRte s x.rte with | some q => damageCheck s x.rte q | none => s

theorem foldl_damageFound {s : State} {rows : List StepRow} (h : ∀ x ∈ rows, ∀ q, getRte s x.rte = some q → Undamaged s q) :
    rows.foldl damageFound s = s :=
  List.foldlRecOn (motive := fun t => t = s) rows damageFound rfl fun t ht x hx => by
    subst ht
    unfold damageFound
    split
    next q hq => exact damageCheck_undamaged x.rte (h x hx q hq)
    next => rfl

/-- The rows of a step, each as its commit leaves it. -/
def rowsCommitted (P : Part) (o : Nat) (t : DStep) (s : State) : State :=
  t.rows.foldl (fun u x => modRte u x.rte (commitRow (P.cw + 1) o P.notices x)) s

theorem rowsCommitted_within (P : Part) (o : Nat) (t : DStep) (s : State) : Within [.rtes] s (rowsCommitted P o t s) := by
  unfold rowsCommitted
  exact foldl_within _ _ (.refl _ s) fun _ _ hu => modRte_within (by decide) hu

/-- The row's request commits it from the state `s`. -/
def rowStands (P : Part) (o : Nat) (s : State) (x : StepRow) : Bool :=
  match getRte s x.rte with
  | some q => rowCommits (P.cw + 1) o q
  | none => false

theorem rowStands_eq_any (P : Part) (o : Nat) (s : State) :
    rowStands P o s = fun x => (getRte s x.rte).any (rowCommits (P.cw + 1) o) := by
  funext x
  rw [rowStands]
  cases getRte s x.rte <;> rfl

/-- The end of a step in its partition, with the drops of the rows that commit from the state `s`. -/
def stepEnded (P : Part) (part o : Nat) (t : DStep) (s u : State) : State :=
  modPart u part (fun Q => commitDrops ((t.rows.filter (rowStands P o s)).flatMap (·.drops))
    { Q with step := none, ctxFlg := Q.ctxFlg ||| t.flg, notices := t.rows.foldl (fun m x => SErase m x.rte) Q.notices })

/-- The state that the commit of a step acts on, from the one in which damaged data has been looked for. -/
def stepClosed (P : Part) (part o : Nat) (t : DStep) (s : State) : State :=
  stepEnded P part o t s (reportTiming (divideEnergy (rowsCommitted P o t s) part
    (t.rows.filterMap (fun x => (getRte (rowsCommitted P o t s) x.rte).map (fun q => (q.sq, 1))))) part t.departed t.start o t.held)

theorem stepClosed_unpaced {s : State} (P : Part) (part o : Nat) {t : DStep} (hpaced : s.power.paced = false)
    (hdep : s.power.departed = none) (htouched : t.departed = false) (hec : s.power.ecmode ≠ 1) :
    stepClosed P part o t s = stepEnded P part o t s (rowsCommitted P o t s) := by
  have hpower := (rowsCommitted_within P o t s).power.resolve_left (by decide)
  rw [stepClosed, htouched, divideEnergy_uncounted (by rw [hpower]; exact hec),
    reportTiming_unpaced (by rw [hpower]; exact hpaced) (by rw [hpower]; exact hdep)]

theorem exec_decodeStepCommit_due {s : State} {part o : Nat} {t : DStep} (ht : (getPart s part).step = some t) (hout : t.tout = some o)
    (hclear : commitClear s part o = true) (hpaced : s.power.paced = false) :
    exec (.decodeStepCommit part) s =
      .next (settle (commitWord (stepClosed (getPart s part) part o t (t.rows.foldl damageFound s)) part) part) := by
  rw [exec_decodeStepCommit, execDecodeStepCommit]
  dsimp only
  rw [ht]
  dsimp only
  rw [hout]
  dsimp only
  rw [if_neg (by simp [hclear, paceIssue_unpaced hpaced])]
  rfl

/-- Settles O23: the start, the output and the commit by their next states, a row of the commit by what it writes. -/
theorem decodeSteps : Obligations.DecodeSteps := by
  refine ⟨fun s part pages sl hsl hserv hctx hstep hpace hstop hneed hfree hnodup => ?start,
    fun s part t sl ht hsl hserv hout hhalves => ⟨exec_decodeStepOutput_ready ht hsl hserv hout hhalves, exec_decodeStepOutput_running ht hsl⟩,
    fun s u part o n t fl hn hfl ht hout hserv hrep hhor hhalves hpaced hdep htouched hec hok hu => ?commit,
    fun n o fl x q d hd => ⟨fun hno => commitRow_suppressed (rowCommits_eq_false hd hno), fun hstate herr hab hcxl k hk => ?row⟩⟩
  case start =>
    have hexec := exec_decodeStepStart_due hsl hserv hctx hstep hpace hstop hneed hfree hnodup
    have hbegun := stepBegun_within s part pages (hdrOf s sl)
    have hstarted := stepStarted_within s part pages (hdrOf s sl)
    have hself := getPart_stepStarted_self s part pages (hdrOf s sl)
    refine ⟨_, hexec none, ?_, ?_, fun p hp => getPart_stepStarted_ne s pages _ hp, ?_, ?_, ?_,
      fun hno => stepStarted_mem pages _ hno, fun u => (hexec (some u)).trans (congrArg _ (copperReported_some part u _))⟩
    · exact (congrArg Part.step hself :)
    · exact (congrArg Part.cw hself :)
    · exact (hstarted.host.resolve_left (by decide)).trans (hbegun.host.resolve_left (by decide))
    · exact (hstarted.eng.resolve_left (by decide)).trans (hbegun.eng.resolve_left (by decide))
    · exact (hstarted.power.resolve_left (by decide)).trans (hbegun.power.resolve_left (by decide))
  case commit =>
    subst hn hfl hu
    rw [exec_decodeStepCommit_due ht hout (commitClear_of hserv hrep hhor hhalves) hpaced, foldl_damageFound hok,
      stepClosed_unpaced _ part o hpaced hdep htouched hec, stepEnded, rowStands_eq_any]
    rfl
  case row =>
    subst hd
    obtain ⟨htoks, hents⟩ := commitOcc_kept (n + 1) x.occ q
    rw [commitRow_token (rowCommits_eq_true rfl hstate herr hab hcxl) hk, htoks, hents]
    exact writeDyn_spec n _ _

end Sys2Proof.Machine
end

section
/-! The combination of a half's rows and the half's end at its sender (R254, R260, R261). -/

namespace Sys2Proof.Machine

/-! ### The output rows of a half (R254) -/

theorem length_combineRow (flush : Bool) (fy : Fmt) (dim : Nat) (h : XHalf) (r : XRow) :
    (combineRow flush fy dim h r).1.length = 4 * dim := by
  simp [combineRow, List.length_flatMap, length_leBytes, Function.comp_def, Nat.mul_comm]

/-- A row's output `y r`, written at its place, its flags joined to the request's. -/
def rowOut (y : XRow → List Byte × Flg) (p : Nat) (s : State) (r : XRow) : State :=
  rowFlags (memPut s r.out (y r).1) p r.rte (y r).2

/-- The outputs of rows, written one after the other. -/
def rowsOut (y : XRow → List Byte × Flg) (p : Nat) (s : State) (rows : List XRow) : State := rows.foldl (rowOut y p) s

theorem getPart_memPut (s : State) (off : Nat) (bs : List Byte) (q : Nat) : getPart (memPut s off bs) q = getPart s q := by
  rw [memPut_memOnly]
  rfl

section rows

variable {y : XRow → List Byte × Flg} {p : Nat}

theorem byte_rowOut (s : State) (r : XRow) (a : Nat) :
    Memory.byte (rowOut y p s r).mem a = Memory.byte (memPut s r.out (y r).1).mem a := rfl

theorem getPart_rowOut (s : State) (r : XRow) : getPart (rowOut y p s r) p =
    { getPart s p with notices := SSet 0 (getPart s p).notices r.rte (SGet 0 (getPart s p).notices r.rte ||| (y r).2) } := by
  rw [rowOut, rowFlags, getPart_modPart, getPart_memPut]

theorem getPart_rowOut_ne (s : State) (r : XRow) {q : Nat} (hq : q ≠ p) : getPart (rowOut y p s r) q = getPart s q :=
  (getPart_modPart_ne _ _ hq).trans (getPart_memPut ..)

theorem getPart_rowsOut_ne (s : State) (rows : List XRow) {q : Nat} (hq : q ≠ p) : getPart (rowsOut y p s rows) q = getPart s q :=
  foldl_proj (getPart · q) (rowOut y p) (fun t r => getPart_rowOut_ne t r hq) rows s

theorem chunk_rowsOut (s : State) (rows : List XRow) : (getPart (rowsOut y p s rows) p).chunk = (getPart s p).chunk :=
  foldl_proj (fun t => (getPart t p).chunk) (rowOut y p) (fun t r => by rw [getPart_rowOut]) rows s

theorem step_rowsOut (s : State) (rows : List XRow) : (getPart (rowsOut y p s rows) p).step = (getPart s p).step :=
  foldl_proj (fun t => (getPart t p).step) (rowOut y p) (fun t r => by rw [getPart_rowOut]) rows s

/-- A byte outside every row is as it was. -/
theorem byte_rowsOut {a : Nat} {rows : List XRow} (h : ∀ r ∈ rows, a < r.out ∨ r.out + (y r).1.length ≤ a) (s : State) :
    Memory.byte (rowsOut y p s rows).mem a = Memory.byte s.mem a := by
  induction rows generalizing s with
  | nil => rfl
  | cons r rs ih =>
    have hlater : Memory.byte (rowsOut y p (rowOut y p s r) rs).mem a = Memory.byte (rowOut y p s r).mem a :=
      ih (fun q hq => h q (List.mem_cons_of_mem _ hq)) _
    exact hlater.trans (byte_memPut_outside s r.out _ (h r (List.mem_cons_self ..)))

/-- A row that no later one overlaps reads back. -/
theorem memGet_rowsOut (s : State) (pre : List XRow) {r : XRow} {post : List XRow}
    (hpost : ∀ q ∈ post, q.out + (y q).1.length ≤ r.out ∨ r.out + (y r).1.length ≤ q.out) :
    memGet (rowsOut y p s (pre ++ r :: post)) r.out (y r).1.length = (y r).1 := by
  have hsplit : rowsOut y p s (pre ++ r :: post) = rowsOut y p (rowOut y p (rowsOut y p s pre) r) post := List.foldl_append
  have hkept : ∀ i < (y r).1.length, Memory.byte (rowsOut y p s (pre ++ r :: post)).mem (r.out + i) =
      Memory.byte (memPut (rowsOut y p s pre) r.out (y r).1).mem (r.out + i) := fun i hi => by
    rw [hsplit, byte_rowsOut (fun q hq => by have := hpost q hq; omega), byte_rowOut]
  exact (SGetRun_congr hkept).trans (memGet_memPut _ _ _)

end rows

/-! ### The half ends (R254, R261) -/

/-- A partition that has combined a half: the half is gone, and its chunk or its step has joined it. -/
def joinHalf (h : XHalf) (P : Part) : Part :=
  if h.chunk then { P with
    halves := P.halves.filter (fun x => x.key != h.key), chunk := P.chunk.map (fun k => { k with joined := k.joined ++ [h.key] }) }
  else { P with
    halves := P.halves.filter (fun x => x.key != h.key), step := P.step.map (fun k => { k with joined := k.joined ++ [h.key] }) }

theorem joinHalf_halves (h : XHalf) (P : Part) : (joinHalf h P).halves = P.halves.filter (fun x => x.key != h.key) := by
  unfold joinHalf
  split <;> rfl

theorem joinHalf_chunk {h : XHalf} (hc : h.chunk = true) (P : Part) :
    (joinHalf h P).chunk = P.chunk.map (fun k => { k with joined := k.joined ++ [h.key] }) := by
  rw [joinHalf, if_pos hc]

theorem joinHalf_step {h : XHalf} (hc : h.chunk = false) (P : Part) :
    (joinHalf h P).step = P.step.map (fun k => { k with joined := k.joined ++ [h.key] }) := by
  rw [joinHalf, if_neg (ne_true_of_eq_false hc)]

/-- R254: what each row of a half comes to, in the layer's format and width and the partition's mode. -/
def halfOutput (s : State) (p : Nat) (h : XHalf) (sl : Slot) : XRow → List Byte × Flg :=
  combineRow (bit ((getPart s p).serving.getD 0) 0) (xFmtOut s sl (hdrOf s sl) h.xl) (xDim s sl (hdrOf s sl) h.xl) h

theorem length_halfOutput (s : State) (p : Nat) (h : XHalf) (sl : Slot) (r : XRow) :
    (halfOutput s p h sl r).1.length = 4 * xDim s sl (hdrOf s sl) h.xl := length_combineRow _ _ _ _ _

/-- R261: the rows of a half that have lost no job. -/
def rowsKept (h : XHalf) : List XRow := h.rows.filter (fun r => !rowLost h r)

theorem mem_rowsKept {h : XHalf} {r : XRow} : r ∈ rowsKept h ↔ r ∈ h.rows ∧ rowLost h r = false := by
  simp [rowsKept]

section combined

variable {s : State} {p : Nat} {sl : Slot} (h : XHalf) (hsl : selSlot s p = some sl)
include hsl

theorem combineHalf_eq : combineHalf s p h = modPart (rowsOut (halfOutput s p h sl) p s (rowsKept h)) p (joinHalf h) := by
  rw [combineHalf, hsl]
  rfl

theorem mem_combineHalf : (combineHalf s p h).mem = (rowsOut (halfOutput s p h sl) p s (rowsKept h)).mem := by
  rw [combineHalf_eq h hsl]
  rfl

theorem getPart_combineHalf :
    getPart (combineHalf s p h) p = joinHalf h (getPart (rowsOut (halfOutput s p h sl) p s (rowsKept h)) p) := by
  rw [combineHalf_eq h hsl, getPart_modPart]

theorem getPart_combineHalf_ne {q : Nat} (hq : q ≠ p) : getPart (combineHalf s p h) q = getPart s q := by
  rw [combineHalf_eq h hsl, getPart_modPart_ne _ _ hq, getPart_rowsOut_ne _ _ hq]

theorem byte_combineHalf {a : Nat}
    (ha : ∀ r ∈ h.rows, rowLost h r = false → a < r.out ∨ r.out + 4 * xDim s sl (hdrOf s sl) h.xl ≤ a) :
    Memory.byte (combineHalf s p h).mem a = Memory.byte s.mem a := by
  rw [mem_combineHalf h hsl]
  refine byte_rowsOut (fun r hr => ?_) s
  obtain ⟨hmem, hkept⟩ := mem_rowsKept.mp hr
  rw [length_halfOutput]
  exact ha r hmem hkept

theorem memGet_combineHalf {pre post : List XRow} {r : XRow} (hrows : h.rows = pre ++ r :: post) (hr : rowLost h r = false)
    (hpost : ∀ q ∈ post, rowLost h q = false →
      q.out + 4 * xDim s sl (hdrOf s sl) h.xl ≤ r.out ∨ r.out + 4 * xDim s sl (hdrOf s sl) h.xl ≤ q.out) :
    memGet (combineHalf s p h) r.out (4 * xDim s sl (hdrOf s sl) h.xl) = (halfOutput s p h sl r).1 := by
  have hkept : rowsKept h = pre.filter (fun q => !rowLost h q) ++ r :: post.filter (fun q => !rowLost h q) := by
    rw [rowsKept, hrows, List.filter_append, List.filter_cons_of_pos (by simp [hr])]
  rw [memGet, mem_combineHalf h hsl, hkept, ← length_halfOutput s p h sl r]
  refine memGet_rowsOut s _ fun q hq => ?_
  obtain ⟨hmem, hq⟩ := List.mem_filter.mp hq
  rw [length_halfOutput, length_halfOutput]
  exact hpost q hmem (by simpa using hq)

end combined

/-- Settles O28: the half's outputs written in the order of its rows, and then the half marked as joined. -/
theorem combinedHalvesWriteTheirRows : Obligations.CombinedHalvesWriteTheirRows := by
  intro s p h sl hsl
  have hself := getPart_combineHalf h hsl
  have hframe := combineHalf_within (fs := [.parts, .mem]) (a2 := p) (a3 := h) (by decide) (by decide) (.refl _ s)
  refine ⟨fun a ha => byte_combineHalf h hsl ha, fun x hx => ?gone, fun hc k hk => ?chunk, fun hc k hk => ?step,
    fun q hq => getPart_combineHalf_ne h hsl hq, hframe.eng.resolve_left (by decide), hframe.host.resolve_left (by decide),
    hframe.rtes.resolve_left (by decide), fun pre r post hrows hr hpost => memGet_combineHalf h hsl hrows hr hpost⟩
  case gone =>
    rw [hself, joinHalf_halves] at hx
    simpa using List.of_mem_filter hx
  case chunk => rw [hself, joinHalf_chunk hc, chunk_rowsOut, hk, Option.map_some]
  case step => rw [hself, joinHalf_step hc, step_rowsOut, hk, Option.map_some]

end Sys2Proof.Machine
end

section
/-! Answers to peer accesses at their requester (R279, R340, R341). -/

namespace Sys2Proof.Machine

/-- The state after the oldest response of port `n` has been taken and its slots freed. -/
def responseTaken (s : State) (n : Nat) (m : Msg) (r : List Msg) : State :=
  modPort s n (fun p => { p with msgs1 := r }.free 1 (slotsOf m))

section response

variable {s : State} {n : Nat} {m : Msg} {r : List Msg} (hn : n < 16) (hpg : s.power.pg = true)
  (hport : (getPort s n).state = .active ∨ (getPort s n).state = .retrain) (hmsg : (getPort s n).msgs1 = m :: r)
include hn hpg hport hmsg

/-- A response that is taken, by the access it answers and its status. -/
theorem takeResponse_front {mtype : Nat} (ht : m.mtype = mtype) (f : Access → Msg → State → State) :
    takeResponse n mtype s f = .next (match answered s m with
      | none => portCount (responseTaken s n m r) n 8
      | some a => if m.status = 0 then f a m (responseTaken s n m r) else failAccess (responseTaken s n m r) a false 0x0407) := by
  rw [takeResponse, takeMsg, portRow, onUnit_known _ (decide_eq_true hn), whenB_true _ _ hpg,
    if_neg (by rcases hport with h | h <;> simp [h]), if_neg Nat.one_ne_zero, hmsg]
  exact congrArg _ (if_neg (by simp [ht]))

theorem takeResponse_unknown {mtype : Nat} (ht : m.mtype = mtype) (hno : answered s m = none) (f : Access → Msg → State → State) :
    takeResponse n mtype s f = .next (portCount (responseTaken s n m r) n 8) := by
  rw [takeResponse_front hn hpg hport hmsg ht, hno]

variable {a : Access} (ha : answered s m = some a)
include ha

theorem takeResponse_refused {mtype : Nat} (ht : m.mtype = mtype) (hst : m.status ≠ 0) (f : Access → Msg → State → State) :
    takeResponse n mtype s f = .next (failAccess (responseTaken s n m r) a false 0x0407) := by
  rw [takeResponse_front hn hpg hport hmsg ht, ha]
  exact congrArg _ (if_neg hst)

theorem takeResponse_accepted {mtype : Nat} (ht : m.mtype = mtype) (hst : m.status = 0) (f : Access → Msg → State → State) :
    takeResponse n mtype s f = .next (f a m (responseTaken s n m r)) := by
  rw [takeResponse_front hn hpg hport hmsg ht, ha]
  exact congrArg _ (if_pos hst)

theorem exec_wack_accepted (ht : m.mtype = 5) (hst : m.status = 0) {w : WriteFor} (hw : a.write = some w) :
    exec (.wack n) s = .next (writeOk (endAccess (responseTaken s n m r) a.tag false) w) := by
  rw [exec_wack, execWack, takeResponse_accepted hn hpg hport hmsg ha ht hst, hw]

/-- Read data whose read goes on, or is complete. -/
theorem exec_rdata_continues (ht : m.mtype = 4) (hst : m.status = 0) {q : ORead} (hq : readOf s a = some q)
    (hmore : (readMore (endAccess (responseTaken s n m r) a.tag false) q m.data).2 = true) :
    exec (.rdata n) s = .next (readMore (endAccess (responseTaken s n m r) a.tag false) q m.data).1 := by
  have hread : readOf (endAccess (responseTaken s n m r) a.tag false) a = some q := hq
  rw [exec_rdata, execRdata, takeResponse_accepted hn hpg hport hmsg ha ht hst]
  dsimp only
  rw [hread]
  exact congrArg _ (if_pos hmore)

/-- Read data whose read has been dropped. -/
theorem exec_rdata_dropped (ht : m.mtype = 4) (hst : m.status = 0) (hq : readOf s a = none) :
    exec (.rdata n) s = .next (endAccess (responseTaken s n m r) a.tag false) := by
  have hread : readOf (endAccess (responseTaken s n m r) a.tag false) a = none := hq
  rw [exec_rdata, execRdata, takeResponse_accepted hn hpg hport hmsg ha ht hst]
  dsimp only
  rw [hread]

end response

/-- R279: PEERLIM, for an access that is no write of Brass. -/
theorem exec_peerlimExpiry_found {s : State} {tag : Nat} {a : Access} (hfind : s.fab.accs.find? (fun a => a.tag == tag) = some a)
    (hown : ∀ w, a.write = some w → w.brass = false) : exec (.peerlimExpiry tag) s =
      .next (whenB (decide (a.issued + peerLimOf s a.part ≤ s.tick)) s (failAccess s a true 0x0406)) := by
  rw [exec_peerlimExpiry, execPeerlimExpiry, hfind]
  dsimp only
  cases hw : a.write with
  | none => rfl
  | some w => simp only [hown w hw, Bool.not_false, Bool.true_and]

/-- An access that has ended is no longer outstanding. -/
theorem tag_ne_of_mem_endAccess {s : State} {tag : Nat} {dead : Bool} {a : Access} (ha : a ∈ (endAccess s tag dead).fab.accs) :
    a.tag ≠ tag := by
  simpa using (List.mem_filter.mp ha).2

/-- R341: a tag that rests is picked only when no tag within reach is free. -/
theorem pickTag_rested (s : State) (k tag : Nat) :
    s.fab.dead.any (fun d => d.1 == pickTag s k tag && decide (s.tick < d.2 + 10000000)) = false ∨
      pickTag s k tag = (tag + k) % 65536 := by
  induction k generalizing tag with
  | zero => exact .inr rfl
  | succ k ih =>
    rw [pickTag]
    split
    · rw [show tag + (k + 1) = tag + 1 + k by omega]
      exact ih (tag + 1)
    case isFalse hfree =>
      simp only [Bool.or_eq_true, not_or, Bool.not_eq_true] at hfree
      exact .inl hfree.2

/-- Settles O32: each response by the access it answers, the expiry by its tick. -/
theorem peerAnswers : Obligations.PeerAnswers := by
  refine ⟨?responses, fun s tag a hfind hown => ?expiry, fun s tag dead a ha => tag_ne_of_mem_endAccess ha,
    fun s tag k => pickTag_rested s k tag⟩
  case responses =>
    rintro s _ n m r hn hpg hport hmsg rfl
    refine ⟨fun hno => ⟨fun ht => ?unknownData, fun ht => ?unknownAck⟩, fun a ha => ⟨fun hst => ⟨fun ht => ?refusedData,
      fun ht => ?refusedAck⟩, fun hst ht w hw => exec_wack_accepted hn hpg hport hmsg ha ht hst hw,
      fun hst ht q hq hmore => exec_rdata_continues hn hpg hport hmsg ha ht hst hq hmore,
      fun hst ht hq => exec_rdata_dropped hn hpg hport hmsg ha ht hst hq⟩⟩
    case unknownData => exact (exec_rdata s).trans (takeResponse_unknown hn hpg hport hmsg ht hno _)
    case unknownAck => exact (exec_wack s).trans (takeResponse_unknown hn hpg hport hmsg ht hno _)
    case refusedData => exact (exec_rdata s).trans (takeResponse_refused hn hpg hport hmsg ha ht hst _)
    case refusedAck => exact (exec_wack s).trans (takeResponse_refused hn hpg hport hmsg ha ht hst _)
  case expiry =>
    have hbrass : ∀ w, a.write = some w → w.brass = false := fun w hw => by rwa [hw] at hown
    rw [exec_peerlimExpiry_found hfind hbrass]
    exact ⟨fun hlate => congrArg _ (whenB_true _ _ (decide_eq_true hlate)),
      fun hearly => congrArg _ (whenB_false _ _ (decide_eq_false (Nat.not_le.mpr hearly)))⟩

end Sys2Proof.Machine
end

section
/-! Notices of a chain, its silent predecessor and its end (R175, R280 to R282). -/

namespace Sys2Proof.Machine

/-! ### Notices acted on (R282) -/

/-- R175: a read leaves every byte as it was. -/
theorem memGet_memTouch (s : State) (off len a k : Nat) : memGet (memTouch s off len) a k = memGet s a k := by
  rw [memGet, memTouch, cacheAccess_bytes, memGet]

/-- The state after the oldest notice of a chain has been taken. -/
def noticeTaken (s : State) (part slot : Nat) (r : List (List Byte)) : State :=
  modChain s part slot (fun c => { c with notices := r })

/-- The state after a SEGMENT has been taken and its segment read for the CRC. -/
def segmentRead (s : State) (part slot : Nat) (c : Chain) (b : List Byte) (r : List (List Byte)) : State :=
  memTouch (noticeTaken s part slot r) (c.segs.getD (fld b 16 4) 0) (segLen c (fld b 16 4))

section notices

variable {s : State} {part slot : Nat} {c : Chain} {b : List Byte} {r : List (List Byte)} (hc : findChain s part slot = some c)
  (hnotice : c.notices = b :: r) (hserv : serving s = true)
include hc hnotice hserv

theorem chainRow_front {kind : Nat} (hk : fld b 4 1 = kind) (f : Chain → List Byte → State → State) :
    chainRow kind part slot s f = .next (f { c with notices := r } b (noticeTaken s part slot r)) := by
  rw [chainRow, hc]
  dsimp only
  rw [hnotice]
  exact congrArg _ (if_neg (by simp [hk, hserv]))

/-- A SEGMENT, by the CRC of the segment as stored and the attempt. -/
theorem exec_segment_front (hk : fld b 4 1 = 1) : exec (.segment part slot) s = .next
    (if fld b 24 4 = (crc32c (memGet s (c.segs.getD (fld b 16 4) 0) (segLen c (fld b 16 4)))).toNat then
      let v := answer (modSeg (segmentRead s part slot c b r) part slot (fld b 16 4)
        (fun g => { g with stored := true, attempt := fld b 5 1 })) part slot { c with notices := r } 2 (fld b 16 4) (fld b 5 1)
      if v.2 then pumped (announce v.1 part slot (fld b 16 4)) part slot else v.1
    else if fld b 5 1 = 2 then failChain (segmentRead s part slot c b r) part slot 1
    else (answer (segmentRead s part slot c b r) part slot { c with notices := r } 3 (fld b 16 4) (fld b 5 1)).1) := by
  rw [exec_segment, execSegment, chainRow_front hc hnotice hserv hk]
  dsimp only
  rw [memGet_memTouch]
  rfl

theorem exec_ack_front (hk : fld b 4 1 = 2) : exec (.ack part slot) s = .next
    (pumped (modSeg (noticeTaken s part slot r) part slot (fld b 16 4) (fun g => { g with acked := true })) part slot) := by
  rw [exec_ack, execAck, chainRow_front hc hnotice hserv hk]

theorem exec_nack_again (hk : fld b 4 1 = 3) (hatt : (getSeg { c with notices := r } (fld b 16 4)).attempt < 2)
    (hhas : (c.res.isSome || (getSeg { c with notices := r } (fld b 16 4)).stored) = true) : exec (.nack part slot) s = .next
      (sendSegment (modSeg (noticeTaken s part slot r) part slot (fld b 16 4)
        (fun g => { g with attempt := g.attempt + 1, fwd := false })) part slot (fld b 16 4)) := by
  rw [exec_nack, execNack, chainRow_front hc hnotice hserv hk]
  exact congrArg _ (if_neg (not_or.mpr ⟨Nat.not_le.mpr hatt, by rw [hhas]; decide⟩))

theorem exec_chainAbort_front (hk : fld b 4 1 = 4) :
    exec (.chainAbort part slot) s = .next (failChain (noticeTaken s part slot r) part slot (fld b 34 1)) := by
  rw [exec_chainAbort, execChainAbort, chainRow_front hc hnotice hserv hk]

end notices

/-- R282: a predecessor that has been silent for PEERLIM. -/
theorem exec_chainPredecessorSilent_late {s : State} {part slot : Nat} {c : Chain} (hc : findChain s part slot = some c)
    (hserv : serving s = true) (hpred : c.pred ≠ noChip) (hopen : c.st.all (·.stored) = false)
    (hlate : c.heard + (getPart s part).peerlim ≤ s.tick) :
    exec (.chainPredecessorSilent part slot) s = .next (failChain s part slot 3) := by
  rw [exec_chainPredecessorSilent, execChainPredecessorSilent, hc]
  exact congrArg _ (if_neg (by simp [hserv, hpred, hopen, hlate]))

/-! ### The end of a chain (R282) -/

/-- A partition without a chain. -/
def withoutChain (c : Chain) (P : Part) : Part := { P with chains := P.chains.filter (fun x => x.slot != c.slot) }

/-- The state without a chain and without its reads of the source. -/
def chainGone (s : State) (p : Nat) (c : Chain) : State :=
  modHost (modPart s p (withoutChain c)) (fun h => { h with reads := h.reads.filter (fun r => r.use != .chainSrc p c.slot) })

theorem getPart_chainGone (s : State) (p : Nat) (c : Chain) : getPart (chainGone s p c) p = withoutChain c (getPart s p) :=
  getPart_modPart s p (withoutChain c)

theorem dropChain_last {s : State} {p : Nat} {c : Chain} (hsucc : c.succ = noChip) (reason : Nat) :
    dropChain s p c reason = chainGone s p c := if_pos hsucc

theorem dropChain_passes {s : State} {p : Nat} {c : Chain} (hsucc : c.succ ≠ noChip) (reason : Nat) :
    dropChain s p c reason = (sendNotice (chainGone s p c) p c c.succ 4 0 0 0 reason).1 := if_neg hsucc

theorem failChain_found {s : State} {p slot : Nat} {c : Chain} (hc : findChain s p slot = some c) (reason : Nat) :
    failChain s p slot reason = endCmd (dropChain s p c reason) c.cmd (fun k => { k with status := 0x040B, info := reason }) := by
  rw [failChain, hc]

/-- A command that reports its end. -/
theorem endCmd_reported {s : State} {id : Nat} {k : Cmd} (hk : findCmd s id = some k) (hsilent : k.d.silent = false)
    (mk : Comp → Comp) : endCmd s id mk =
      dueComp (modHost s (fun h => { h with cmds := dropFirst (fun c => c.id == id) h.cmds })) (mk (compOf k.d 0)) := by
  rw [endCmd, hk]
  exact if_neg (ne_true_of_eq_false hsilent)

/-- R282 item 6, at the last chip of a chain. -/
theorem failChain_last {s : State} {p slot : Nat} {c : Chain} {k : Cmd} (hc : findChain s p slot = some c)
    (hsucc : c.succ = noChip) (hk : findCmd s c.cmd = some k) (hsilent : k.d.silent = false) (reason : Nat) :
    failChain s p slot reason =
      dueComp (modHost (chainGone s p c) (fun h => { h with cmds := dropFirst (fun x => x.id == c.cmd) h.cmds }))
        { compOf k.d 0 with status := 0x040B, info := reason } := by
  have hk' : findCmd (chainGone s p c) c.cmd = some k := hk
  rw [failChain_found hc, dropChain_last hsucc, endCmd_reported hk' hsilent]

/-- Settles O33: each notice by what its row makes of it, the end of a chain by its successor. -/
theorem chainNotices : Obligations.ChainNotices := by
  refine ⟨?notices, fun s part slot c hc hserv hpred hopen hlate => exec_chainPredecessorSilent_late hc hserv hpred hopen hlate,
    fun s p slot reason c k hc hslot hsucc hk hsilent => ⟨_, failChain_last hc hsucc hk hsilent reason, rfl, ?ends, rfl⟩, ?passes⟩
  case notices =>
    rintro s _ _ part slot c b r hc hnotice hserv rfl rfl
    have hseg := exec_segment_front hc hnotice hserv
    refine ⟨?stored, fun hk hcrc => ⟨fun hthird => ?third, fun hagain => ?again⟩, exec_ack_front hc hnotice hserv,
      exec_nack_again hc hnotice hserv, exec_chainAbort_front hc hnotice hserv⟩
    case stored =>
      rintro hk hcrc _ rfl hsent
      rw [hseg hk, if_pos hcrc]
      exact congrArg _ (if_pos hsent)
    case third => rw [hseg hk, if_neg hcrc, if_pos hthird]; rfl
    case again => rw [hseg hk, if_neg hcrc, if_neg hagain]; rfl
  case ends =>
    rw [← hslot]
    exact congrArg Part.chains (getPart_chainGone s p c)
  case passes =>
    rintro s _ p slot reason c hc hsucc rfl
    rw [failChain_found hc, dropChain_passes hsucc]
    rfl

end Sys2Proof.Machine
end

section
/-! Descriptors that a check of R309 refuses (R308 to R311, R316, R403). -/

namespace Sys2Proof.Machine

/-- The commands of descriptors but TELEMETRY_READ, which has two, by their opcodes. -/
def descCmds (fn : Nat) : List (Nat × Instr) :=
  [(0x01, .queueCreate fn), (0x02, .queueDelete fn), (0x03, .recordRingSet fn), (0x05, .partCreate fn), (0x06, .partDestroy fn),
    (0x07, .capSet fn), (0x10, .requestOpen fn), (0x11, .requestCancel fn), (0x12, .steeringBind fn), (0x13, .modelSelect fn),
    (0x14, .modelChain fn), (0x15, .modelEvict fn), (0x20, .imageRegister fn), (0x21, .graphRun fn), (0x22, .copy fn),
    (0x23, .fence fn), (0x24, .counterOp fn)]

/-- Each of them takes any descriptor of its opcode. -/
theorem exec_descCmds {fn : Nat} : ∀ x ∈ descCmds fn, ∃ f, ∀ s, exec x.2 s = takeDesc fn x.1 (fun _ => true) f s := by
  simp only [descCmds, List.forall_mem_cons, List.not_mem_nil, false_imp_iff, implies_true, and_true]
  exact ⟨⟨_, exec_queueCreate⟩, ⟨_, exec_queueDelete⟩, ⟨_, exec_recordRingSet⟩, ⟨_, exec_partCreate⟩, ⟨_, exec_partDestroy⟩,
    ⟨_, exec_capSet⟩, ⟨_, exec_requestOpen⟩, ⟨_, exec_requestCancel⟩, ⟨_, exec_steeringBind⟩, ⟨_, exec_modelSelect⟩,
    ⟨_, exec_modelChain⟩, ⟨_, exec_modelEvict⟩, ⟨_, exec_imageRegister⟩, ⟨_, exec_graphRun⟩, ⟨_, exec_copy⟩, ⟨_, exec_fence⟩,
    ⟨_, exec_counterOp⟩⟩

section judged

variable {s : State} {d : Desc}

theorem judge_invalid (h : headOk d = false ∨ argsOk s d = false) : judge s d = some 0x0001 := if_pos (by simpa using h)

variable (hhead : headOk d = true) (hargs : argsOk s d = true)
include hhead hargs

theorem judge_invalidQueue (hq : queueOk d = false) : judge s d = some 0x0002 := by
  rw [judge, if_neg (by simp [hhead, hargs]), if_pos (by simp [hq])]

variable (hq : queueOk d = true)
include hq

theorem judge_noQueue (hr : ringsOk s d = false) : judge s d = some 0x0007 := by
  rw [judge, if_neg (by simp [hhead, hargs]), if_neg (by simp [hq]), if_pos (by simp [hr])]

variable (hr : ringsOk s d = true)
include hr

theorem judge_badState (hst : stateOk s d = false) : judge s d = some 0x0003 := by
  rw [judge, if_neg (by simp [hhead, hargs]), if_neg (by simp [hq]), if_neg (by simp [hr]), if_pos (by simp [hst])]

/-- R403: what is left is the thermal stop. -/
theorem judge_permitted (hst : stateOk s d = true) :
    judge s d = if s.power.tstop = true ∧ thermalBars d.opc = true then some 0x010A else none := by
  rw [judge, if_neg (by simp [hhead, hargs]), if_neg (by simp [hq]), if_neg (by simp [hr]), if_neg (by simp [hst])]

end judged

theorem doneDesc_reported {d : Desc} (h : d.silent = false) (s : State) (st : Nat) : doneDesc s d st = dueComp s (compOf d st) :=
  if_neg (ne_true_of_eq_false h)

/-- Settles O34: the commands by what they take, the status by the checks in their order. -/
theorem descriptorsAreJudged : Obligations.DescriptorsAreJudged := by
  refine ⟨fun s fn opc st d c h hj hc => ?plain, fun s fn st d h hj => ⟨fun h2 => ?energy, fun h2 => ?drops⟩,
    fun s d => ⟨judge_invalid, judge_invalidQueue, judge_noQueue, judge_badState, judge_permitted⟩,
    fun s d st hsilent => doneDesc_reported hsilent s st⟩
  case plain =>
    obtain ⟨f, hf⟩ := exec_descCmds (opc, c) hc
    exact (hf s).trans (takeDesc_judged h hj _ rfl f)
  case energy => rw [exec_telemetryReadEnergy, execTelemetryReadEnergy, takeDesc_judged h hj _ (by simp [h2])]
  case drops => rw [exec_telemetryReadDrops, execTelemetryReadDrops, takeDesc_judged h hj _ (by simp [h2])]

end Sys2Proof.Machine
end

section
/-! Doorbell lines read in a pass, doorbells moved, and descriptors fetched (R299 to R304, R309). -/

namespace Sys2Proof.Machine

variable {s : State}

/-! ### The pass (R300) -/

theorem exec_pollPass_due (hserv : serving s = true) (hlink : s.host.dlActive = true) (hidle : s.host.passing = false)
    (hlines : activeLines s ≠ []) (hdue : s.host.passTick + max s.host.poll.toNat (5 * (activeLines s).length) ≤ s.tick) :
    exec .pollPass s = .next ((activeLines s).foldl (fun t l =>
      (startRead t l.1 (2 ^ 64 + (getFn t l.1).dbBase.toNat + 512 * l.2) 512 (.line l.1 l.2)).1)
      (modHost s (fun h => { h with passing := true, passTick := s.tick }))) := by
  rw [exec_pollPass, execPollPass]
  exact congrArg _ (whenB_true _ _ (by simpa [hserv, hlink, hidle, hlines] using hdue))

/-- R300: a piece of a line is joined to the earlier ones; with the last the line is acted on. -/
theorem exec_doorbellLineRead_piece {fn line : Nat} {data : List Byte} {r : ORead} (hfn : fn < 17)
    (hr : s.host.reads.find? (fun r => r.use == .line fn line) = some r) (hlen : data.length = pieceLen s r) (htag : r.tag = 0)
    (hserv : serving s = true) : exec (.doorbellLineRead fn line data) s = .next
    (if r.got.length + data.length < 512 then (issuePiece (dropRead s r.id) { r with got := r.got ++ data }).1
      else passEnd ((s.host.rings.filter (fun x => x.fn == fn && x.db / 64 == line)).foldl
        (fun t x => doorbell t x (BitVec.ofNat 32 (fld (r.got ++ data) (8 * (x.db % 64)) 4))) (dropRead s r.id))) := by
  rw [exec_doorbellLineRead, execDoorbellLineRead, onUnit_known _ (decide_eq_true hfn), hr]
  dsimp only
  rw [if_neg (by simp [hlen, htag, hserv]), List.length_append]
  rfl

theorem passEnd_last (hpass : s.host.passing = true) (hread : s.host.reads.any (fun r => isLine r.use) = false) :
    passEnd s = modHost (fetchAll s) (fun h => { h with passing := false }) := if_pos (by simp [hpass, hread])

theorem passEnd_open (h : s.host.passing = false ∨ s.host.reads.any (fun r => isLine r.use) = true) : passEnd s = s :=
  if_neg (by rcases h with h | h <;> simp [h])

/-! ### A doorbell word (R301) -/

section doorbells

variable {r : Ring} {idx : Word}

theorem doorbell_tail (hk : r.kind = .sub) (hrun : r.stopped = false) (hin : (idx - r.cnt).toNat ≤ 2 ^ r.lg) :
    doorbell s r idx = modRing s r.kind r.fn r.id (fun r => { r with idx := idx }) := by
  rw [doorbell, if_pos hk, if_neg (ne_true_of_eq_false hrun)]
  exact if_pos hin

theorem doorbell_tail_beyond (hk : r.kind = .sub) (hrun : r.stopped = false) (hout : 2 ^ r.lg < (idx - r.cnt).toNat) :
    doorbell s r idx = stopRing (setErr s r.fn 3) r.fn r.id r.cnt.toNat 4 false := by
  rw [doorbell, if_pos hk, if_neg (ne_true_of_eq_false hrun)]
  exact if_neg (Nat.not_le.2 hout)

theorem doorbell_stopped (hk : r.kind = .sub) (hstop : r.stopped = true) : doorbell s r idx = s := by
  rw [doorbell, if_pos hk, if_pos hstop]

theorem doorbell_head (hk : r.kind ≠ .sub) (hin : (r.cnt - idx).toNat ≤ 2 ^ r.lg) :
    doorbell s r idx = modRing s r.kind r.fn r.id (fun r => { r with idx := idx }) := by
  rw [doorbell, if_neg hk]
  exact if_pos hin

theorem doorbell_head_beyond (hk : r.kind ≠ .sub) (hout : 2 ^ r.lg < (r.cnt - idx).toNat) : doorbell s r idx = setErr s r.fn 3 := by
  rw [doorbell, if_neg hk]
  exact if_neg (Nat.not_le.2 hout)

end doorbells

/-! ### Fetching (R303, R304, R309) -/

/-- The descriptor that a fetch of 64 bytes from a ring has brought. -/
def fetchedDesc (s : State) (fn sq : Nat) (data : List Byte) : Desc :=
  { fn := fn, sq := sq, tick := s.tick, raw := data
    seq := (((findRing s .sub fn sq).map (·.cnt)).getD 0 -
      BitVec.ofNat 32 (s.host.reads.filter (fun x => x.use == .desc fn sq)).length).toNat }

/-- R309: a FENCE of the descriptor's ring is before it, handed over or not. -/
def fenceBefore (s : State) (d : Desc) : Bool :=
  behindFence s d || s.host.handed.any (fun x => x.fn == d.fn && x.sq == d.sq && x.opc == 0x23)

/-- The outstanding fetch of a descriptor of function `fn`. -/
def isFetchOf (fn : Nat) (r : ORead) : Bool := match r.use with
  | .desc f _ => f == fn
  | _ => false

theorem exec_descriptorFetch_returns {fn sq : Nat} {data : List Byte} {r : ORead} (hfn : fn < 17)
    (hr : s.host.reads.find? (isFetchOf fn) = some r) (huse : r.use = .desc fn sq)
    (hlen : data.length = 64) (htag : r.tag = 0) (hserv : serving s = true) : exec (.descriptorFetch fn data) s = .next
      (if opcKnown (fetchedDesc s fn sq data).opc = false ∧ fenceBefore s (fetchedDesc s fn sq data) = false then
        doneDesc (dropRead s r.id) (fetchedDesc s fn sq data) 1
      else modHost (dropRead s r.id) (fun h => { h with handed := h.handed ++ [fetchedDesc s fn sq data] })) := by
  rw [exec_descriptorFetch, execDescriptorFetch, onUnit_known _ (decide_eq_true hfn)]
  split
  next h => exact absurd (h.symm.trans hr) (by simp)
  next q h =>
    obtain rfl : q = r := Option.some.inj (h.symm.trans hr)
    rw [huse]
    dsimp only
    rw [if_neg (by simp [hlen, htag, hserv])]
    exact congrArg _ (if_congr (by rw [Bool.and_eq_true, Bool.not_eq_true', Bool.not_eq_true']; exact .rfl) rfl rfl)

section fetch

variable {fn sq : Nat} {r : Ring} (hr : findRing s .sub fn sq = some r)
include hr

theorem fetchRing_blocked (h : r.stopped = true ∨ r.cnt = r.idx ∨ cqRoom s fn r.cq = 0) (n : Nat) :
    fetchRing fn sq (n + 1) s = s := by
  rw [fetchRing, hr]
  exact if_pos h

theorem fetchRing_next (hrun : r.stopped = false) (hmore : r.cnt ≠ r.idx) (hroom : cqRoom s fn r.cq ≠ 0) (n : Nat) :
    fetchRing fn sq (n + 1) s = fetchRing fn sq n
      (startRead (modRing (modRing s .sub fn sq (fun r => { r with cnt := r.cnt + 1 })) .comp fn r.cq
        (fun c => { c with resv := c.resv + 1 })) fn (2 ^ 64 + (r.base + 64 * (r.cnt.toNat % 2 ^ r.lg))) 64 (.desc fn sq)).1 := by
  rw [fetchRing, hr]
  exact if_neg (by simp [hrun, hmore, hroom])

end fetch

/-- Settles O35: the pass by its lines, a doorbell word by its ring, a fetch by what it brings. -/
theorem pollingAndFetching : Obligations.PollingAndFetching := by
  refine ⟨fun _ => exec_pollPass_due,
    fun s fn line data r hfn hr hlen htag hserv => ?line, fun s => ⟨passEnd_last, passEnd_open⟩,
    fun s r idx => ⟨doorbell_tail, doorbell_tail_beyond, doorbell_stopped, doorbell_head, doorbell_head_beyond⟩, ?fetch,
    fun s fn sq n r hr => ⟨fun h => fetchRing_blocked hr h n, fun hrun hmore hroom =>
      fetchRing_next hr hrun hmore hroom n⟩⟩
  case line =>
    rw [exec_doorbellLineRead_piece hfn hr hlen htag hserv]
    exact ⟨fun hlast => by rw [if_neg (Nat.not_lt.2 hlast)], fun hpart => by rw [if_pos hpart]⟩
  case fetch =>
    rintro s _ fn sq data r _ hfn hr huse hlen htag hserv rfl rfl
    rw [exec_descriptorFetch_returns hfn hr huse hlen htag hserv]
    refine ⟨fun h => congrArg _ (if_neg ?_), fun hopc hno hnone => congrArg _ (if_pos ⟨hopc, ?_⟩)⟩
    · rintro ⟨hopc, hbefore⟩
      obtain ⟨hno, hnone⟩ := Bool.or_eq_false_iff.1 hbefore
      rcases h with h | h | h
      · exact ne_true_of_eq_false hopc h
      · exact ne_true_of_eq_false hno h
      · exact ne_true_of_eq_false hnone h
    · exact Bool.or_eq_false_iff.2 ⟨hno, hnone⟩

end Sys2Proof.Machine
end

section
/-! The mailbox binding table (R322): once firmware runs, only PERST# and the loss of main power change it. -/

namespace Sys2Proof.Machine

/-- A step that leaves the set-up alone, or after which main power is off. -/
def KeepsSetup (s t : State) : Prop := Within notSetup s t ∨ t.power.pg = false

variable {fs : List Field} {s t : State}

theorem Within.keepsSetup (h : Within fs s t) (hfs : fs ⊆ notSetup := by decide) : KeepsSetup s t := .inl (h.mono hfs)

theorem KeepsSetup.whenB {c : Bool} (h : KeepsSetup s t) : KeepsSetup s (whenB c s t) := by
  cases c with
  | false => exact .inl (.refl _ s)
  | true => exact h

theorem KeepsSetup.bindings (h : KeepsSetup s t) : t.host.mbbind = s.host.mbbind ∨ t.power.pg = false :=
  h.imp_left fun hw => (hw.setup.resolve_left (by decide)).2

theorem onUnit_eq_next {k : Bool} {u : State} (h : onUnit k u = .next t) : u = t := by
  cases k with
  | false => cases h
  | true => cases h; rfl

theorem ibiCheck_mainLost_keepsSetup (v : State) (ps : PwrState) : KeepsSetup s (ibiCheck (mainLost v ps)) :=
  .inr (by rw [ibiCheck_power, mainLost_dark])

theorem startAbort_keepsSetup {ps : PwrState} (h : Within [.power, .pew] s t) : KeepsSetup s (startAbort t ps) :=
  (startAbort_within (by decide) (by decide) h).keepsSetup

/-- R383: a rail of one unit fences it; a shared rail ends main power. -/
theorem railOut_keepsSetup (h : Within notSetup s t) (rail : Nat) : KeepsSetup s (railOut t rail) := by
  unfold railOut
  have hoff : ∀ {p o} (f : Power → Power), Within notSetup s (modPow (logRail t rail p o) f) := fun f =>
    modPow_within f (by decide) (logRail_within (by decide) h)
  have hfence : ∀ {v a b}, Within notSetup s v → Within notSetup s (fenceUnit v a b) :=
    fun h => fenceUnit_within (by decide) (by decide) (by decide) (by decide) (by decide) h
  have hdiscard : ∀ {v p}, Within notSetup s v → KeepsSetup s (discardWork v p) :=
    fun h => .inl (discardWork_within (by decide) (by decide) (by decide) (by decide) h)
  split_ifs
  · exact hdiscard (hfence (hoff _))
  · exact hdiscard (foldl_within _ _ (hoff _) fun _ _ h => hfence h)
  · exact hdiscard (hfence (hoff _))
  · exact .inl (groupDown_within (by decide) (by decide) (by decide) (by decide) (by decide) (by decide) (by decide) (hoff _))
  · exact ibiCheck_mainLost_keepsSetup _ _

/-! ### The commands whose frame has the set-up -/

theorem execRailOutOfWindow_keepsSetup {rail : Nat} (h : execRailOutOfWindow rail s = .next t) : KeepsSetup s t := by
  rw [← onUnit_eq_next h]
  exact .whenB (railOut_keepsSetup (.refl _ s) rail)

theorem execInputCollapse_keepsSetup {vin : Nat} (h : execInputCollapse vin s = .next t) : KeepsSetup s t := by
  rw [← Host.Outcome.next.inj h]
  refine .whenB ?_
  dsimp only
  split_ifs
  · exact ibiCheck_mainLost_keepsSetup _ _
  · exact startAbort_keepsSetup (modPow_within _ (by decide) (modPow_within _ (by decide) (.refl _ s)))
  · exact (modPow_within (fs := [.power]) _ (by decide) (.refl _ s)).keepsSetup

theorem execInputOvervoltage_keepsSetup {vin : Nat} (h : execInputOvervoltage vin s = .next t) : KeepsSetup s t := by
  rw [← Host.Outcome.next.inj h]
  refine .whenB ?_
  dsimp only
  split_ifs
  · exact ibiCheck_mainLost_keepsSetup _ _
  · exact startAbort_keepsSetup (modPow_within _ (by decide) (.refl _ s))
  · exact (modPow_within (fs := [.power]) _ (by decide) (.refl _ s)).keepsSetup

theorem execPfwPowerOff_keepsSetup (h : execPfwPowerOff s = .next t) : KeepsSetup s t := by
  rw [← Host.Outcome.next.inj h]
  split
  · exact .whenB (.inr (by rw [recognise_pg, ibiCheck_power, mainLost_dark]))
  · exact .inl (.refl _ s)

theorem execDroopRelease_keepsSetup {domain held : Nat} (h : execDroopRelease domain held s = .next t) : KeepsSetup s t := by
  rw [← onUnit_eq_next h]
  have hheld : ∀ {p f}, Within notSetup s (addHeld (modPow s f) p held) := fun {_ f} =>
    addHeld_within (by decide) (modPow_within f (by decide) (.refl _ s))
  refine .whenB ?_
  dsimp only
  split
  · exact railOut_keepsSetup hheld _
  · exact .inl (releaseAll_within (by decide) hheld)

theorem execHardwareTrip_keepsSetup (h : execHardwareTrip s = .next t) : KeepsSetup s t := by
  rw [← Host.Outcome.next.inj h]
  exact .whenB (ibiCheck_mainLost_keepsSetup _ _)

/-- R428: a loss of standby power ends main power first. -/
theorem execStandbyLoss_keepsSetup (h : execStandbyLoss s = .next t) : KeepsSetup s t := by
  rw [← Host.Outcome.next.inj h]
  refine .whenB ?_
  dsimp only
  split
  · exact .inr rfl
  · exact (modPow_within (fs := [.power, .pew]) _ (by decide) (modPew_within _ (by decide) (.refl _ s))).keepsSetup

/-- R416: firmware that runs is not started again. -/
theorem execBootRunning_keepsSetup (hrun : s.sec.state = 4) (h : execBootRunning s = .next t) : KeepsSetup s t := by
  rw [execBootRunning, whenB_false _ _ (by simp [hrun])] at h
  rw [← Host.Outcome.next.inj h]
  exact .inl (.refl _ s)

/-- From RUNNING, every command but PERST#: those without the set-up in their frame by the frame, the others one by one. -/
theorem exec_keepsSetup {c : Instr} (hc : c ≠ .perstAssert) (hrun : s.sec.state = 4) (h : exec c s = .next t) : KeepsSetup s t := by
  cases c with
  | perstAssert => exact absurd rfl hc
  | railOutOfWindow rail => exact execRailOutOfWindow_keepsSetup h
  | inputCollapse vin => exact execInputCollapse_keepsSetup h
  | inputOvervoltage vin => exact execInputOvervoltage_keepsSetup h
  | pfwPowerOff => exact execPfwPowerOff_keepsSetup h
  | droopRelease domain held => exact execDroopRelease_keepsSetup h
  | hardwareTrip => exact execHardwareTrip_keepsSetup h
  | standbyLoss => exact execStandbyLoss_keepsSetup h
  | bootRunning => exact execBootRunning_keepsSetup hrun h
  | _ => exact (exec_keeps_frame _ s t h).keepsSetup (by simp [Instr.frame, notSetup])

theorem tickOnce_bindings (s : State) : (tickOnce s).host.mbbind = s.host.mbbind :=
  ((tickOnce_within (fs := [.tick, .sbTick, .eng]) (by decide) (by decide) (by decide) (.refl _ s)).setup.resolve_left (by decide)).2

/-- Settles O60: the step lemma over the front command, or the tick of an empty queue. -/
theorem mailboxBindingsStay : Obligations.MailboxBindingsStay := by
  intro s t hp hrun hs
  cases hq : s.pending with
  | nil =>
    rw [step_idle s hq] at hs
    rw [← Host.Outcome.next.inj hs]
    exact .inl (tickOnce_bindings s)
  | cons c rest =>
    rw [step_front s c rest hq] at hs
    exact (exec_keepsSetup (s := { s with pending := rest }) (by simpa [hq] using hp) hrun hs).bindings

end Sys2Proof.Machine
end

section
/-! Administration of a function: rings created and deleted, telemetry, the host's cap (R307, R312, R314, R393, R400). -/

namespace Sys2Proof.Machine

section taken

variable {s : State} {fn : Nat} {d : Desc}

theorem exec_queueCreate_at (h : DescAt s fn 0x01 d) : exec (.queueCreate fn) s = .next
    (if ringTaken (dropDesc s d) fn (kindOf (d.f 0x10 1)) (d.f 0x12 2) (d.f 0x16 2) then doneDesc (dropDesc s d) d 5
      else if ringQuota (getPart s (fn - 1)) (kindOf (d.f 0x10 1)) ≤ ringCount (dropDesc s d) fn (kindOf (d.f 0x10 1)) then
        doneDesc (dropDesc s d) d 6
      else doneDesc (modHost (dropDesc s d) (fun h => { h with rings := h.rings ++ [{
          kind := kindOf (d.f 0x10 1), fn := fn, id := d.f 0x12 2, base := d.f 0x18 8, lg := d.f 0x11 1, db := d.f 0x16 2
          vec := d.f 0x20 1, cq := d.f 0x14 2 }] })) d 0) := by
  rw [exec_queueCreate, execQueueCreate, takeDesc_at h _ rfl]
  rfl

theorem exec_queueDelete_at (h : DescAt s fn 0x02 d) : exec (.queueDelete fn) s = .next
    (if kindOf (d.f 0x10 1) = .sub then settleDeletes
        (startCmd (modRing (dropDesc s d) .sub fn (d.f 0x12 2) (fun r => { r with stopped := true })) d .running) fn
      else doneDesc (deleteRing (dropDesc s d) (kindOf (d.f 0x10 1)) fn (d.f 0x12 2)) d 0) := by
  rw [exec_queueDelete, execQueueDelete, takeDesc_at h _ rfl]
  rfl

theorem exec_recordRingSet_at (h : DescAt s fn 0x03 d) : exec (.recordRingSet fn) s = .next
    (if s.host.rings.any (fun r => r.fn == fn && r.db == d.f 0x12 2 && r.kind != .record) then doneDesc (dropDesc s d) d 5
      else doneDesc (modHost (deleteRing (dropDesc s d) .record fn 0) (fun h => { h with rings := h.rings ++ [{
          kind := .record, fn := fn, id := 0, base := d.f 0x18 8, lg := d.f 0x10 1, db := d.f 0x12 2, vec := d.f 0x14 1 }] })) d 0) := by
  rw [exec_recordRingSet, execRecordRingSet, takeDesc_at h _ rfl]
  rfl

theorem exec_telemetryReadDrops_at (h : DescAt s fn 0x04 d) (hsel : d.f 0x10 1 ≠ 2) : exec (.telemetryReadDrops fn) s =
    .next (doneDesc (hostWrite (dropDesc s d) fn (d.f 0x18 8) (dropsBlock (dropDesc s d) (fn - 1))) d 0) := by
  rw [exec_telemetryReadDrops, execTelemetryReadDrops, takeDesc_at h _ (by simp [hsel])]

theorem exec_telemetryReadEnergy_at (h : DescAt s fn 0x04 d) (hsel : d.f 0x10 1 = 2) : exec (.telemetryReadEnergy fn) s =
    .next (doneDesc (hostWrite (dropDesc s d) fn (d.f 0x18 8) (energyBlock (dropDesc s d) fn)) d 0) := by
  rw [exec_telemetryReadEnergy, execTelemetryReadEnergy, takeDesc_at h _ (by simp [hsel])]

theorem exec_capSet_at (h : DescAt s fn 0x07 d) : exec (.capSet fn) s =
    .next (doneDesc (limitChanged (modPow (dropDesc s d) (fun w => { w with hostCap := d.f 0x10 4 })) 1) d 0) := by
  rw [exec_capSet, execCapSet, takeDesc_at h _ rfl]

end taken

/-- Settles O36: each command by its next state. -/
theorem queueCommands : Obligations.QueueCommands := by
  rintro s _ fn d rfl
  refine ⟨fun h => ?create, fun h => ?delete, fun h => ?record, exec_telemetryReadDrops_at, exec_telemetryReadEnergy_at, exec_capSet_at⟩
  case create =>
    rw [exec_queueCreate_at h]
    refine ⟨fun htaken => ?_, fun hfree hfull => ?_, fun hfree hroom => ?_⟩
    · rw [if_pos htaken]
    · rw [if_neg (ne_true_of_eq_false hfree), if_pos hfull]
    · rw [if_neg (ne_true_of_eq_false hfree), if_neg (Nat.not_le.2 hroom)]
  case delete =>
    rw [exec_queueDelete_at h]
    refine ⟨fun hsub => ?_, fun hcomp => ?_, fun hstream => ?_⟩
    · rw [hsub]; rfl
    · rw [hcomp]; rfl
    · rw [hstream]; rfl
  case record =>
    rw [exec_recordRingSet_at h]
    exact ⟨fun htaken => by rw [if_pos htaken], fun hfree => by rw [if_neg (ne_true_of_eq_false hfree)]⟩

end Sys2Proof.Machine
end

section
/-! Fields of a run of bytes that is put together from parts (R9). -/

namespace Sys2Proof.Machine

@[simp] theorem length_zeros (n : Nat) : (zeros n).length = n := List.length_replicate

theorem fld_append_left {bs cs : List Byte} {o n : Nat} (h : o + n ≤ bs.length) : fld (bs ++ cs) o n = fld bs o n := by
  rw [fld, fld, List.drop_append_of_le_length (by omega), List.take_append_of_le_length (by rw [List.length_drop]; omega)]

theorem fld_append_right {bs : List Byte} {k : Nat} (h : bs.length = k) (cs : List Byte) (o n : Nat) :
    fld (bs ++ cs) (k + o) n = fld cs o n := by
  rw [fld, fld, ← h, List.drop_append, List.drop_of_length_le (by omega), List.nil_append, Nat.add_sub_cancel_left]

theorem drop_append_length {bs : List Byte} {k : Nat} (h : bs.length = k) (cs : List Byte) (o : Nat) :
    (bs ++ cs).drop (k + o) = cs.drop o := by
  rw [← h, List.drop_append, List.drop_of_length_le (by omega), List.nil_append, Nat.add_sub_cancel_left]

/-- A number that fits its bytes is read back from their head. -/
theorem fld_leBytes_head {k x : Nat} (h : x < 256 ^ k) (bs : List Byte) : fld (leBytes k x ++ bs) 0 k = x := by
  rw [fld_leBytes_append (by omega), Nat.pow_zero, Nat.div_one, Nat.mod_eq_of_lt h]

end Sys2Proof.Machine
end


section
/-! The states of an optical port (R336, R337, R343 to R345, R349). -/

namespace Sys2Proof.Machine

theorem portRow_powered {s : State} {n : Nat} (hn : n < 16) (hpg : s.power.pg = true) (t : State) : portRow n s t = .next t := by
  rw [portRow, onUnit_known _ (decide_eq_true hn), whenB_true _ _ hpg]

/-- An event that is due at a tick, in a state that waits for it. -/
theorem whenB_due {c : Bool} (hc : c = true) (a k : Nat) (s t : State) :
    whenB (c && decide (a ≤ k)) s t = if a ≤ k then t else s := by
  rw [hc, Bool.true_and, whenB]
  simp only [decide_eq_true_eq]

theorem getPort_portTo (s : State) (n : Nat) (st : PortState) :
    getPort (portTo s n st) n = { getPort s n with state := st, since := s.tick } := getPort_modPort s n _

theorem getPort_portTo_ne (s : State) {n m : Nat} (st : PortState) (h : m ≠ n) : getPort (portTo s n st) m = getPort s m :=
  getPort_modPort_ne s _ h

theorem getPort_portCount (s : State) (n ctr m : Nat) : getPort (portCount s n ctr) m = getPort s m := rfl

/-! ### Events of a port whose unit is powered -/

section states

variable {s : State} {n : Nat} (hn : n < 16) (hpg : s.power.pg = true)
include hn hpg

theorem exec_laneLockLoss_active (h : (getPort s n).state = .active) : exec (.laneLockLoss n) s = .next (enterRetrain s n) := by
  rw [exec_laneLockLoss, execLaneLockLoss, portRow_powered hn hpg, h]

theorem exec_laneLockLoss_unproven (h : (getPort s n).state = .check ∨ (getPort s n).state = .quarantine) :
    exec (.laneLockLoss n) s = .next (portTo s n .training) := by
  rw [exec_laneLockLoss, execLaneLockLoss, portRow_powered hn hpg]
  rcases h with h | h <;> rw [h]

theorem exec_retrainTimeout_retrain (h : (getPort s n).state = .retrain) : exec (.retrainTimeout n) s =
    .next (if (getPort s n).since + 5000000 ≤ s.tick then portGone s n .down else s) := by
  rw [exec_retrainTimeout, execRetrainTimeout, portRow_powered hn hpg, whenB_due (beq_iff_eq.2 h)]

theorem exec_downRetry_down (h : (getPort s n).state = .down) : exec (.downRetry n) s =
    .next (if (getPort s n).since + 10000000 ≤ s.tick then portTo s n .training else s) := by
  rw [exec_downRetry, execDownRetry, portRow_powered hn hpg, whenB_due (beq_iff_eq.2 h)]

theorem exec_noRecord_check (h : (getPort s n).state = .check) : exec (.noRecord n) s =
    .next (if (getPort s n).since + 1000000 ≤ s.tick then quarantine s n 1 else s) := by
  rw [exec_noRecord, execNoRecord, portRow_powered hn hpg, whenB_due (beq_iff_eq.2 h)]

theorem exec_portLock_training (h : (getPort s n).state = .training) :
    exec (.portLock n) s = .next (modPort (portTo s n .check) n Port.fresh) := by
  rw [exec_portLock, execPortLock, portRow_powered hn hpg, whenB_true _ _ (beq_iff_eq.2 h)]

theorem exec_identSend_check {pl : List Byte} (hpl : s.pew.applied = some pl) (hc : (getPort s n).state = .check)
    (hdue : (getPort s n).identSent = false ∨ (getPort s n).identAt + 1000 ≤ s.tick) : exec (.identSend n) s =
    .next (sendMsg (modPort s n (fun p => { p with identAt := s.tick, identSent := true })) n 2
      ⟨8, 0, planFchip pl n, ownChip s, 0, 0, 64, 0, 0, ownRecord s n⟩) := by
  rw [exec_identSend, execIdentSend, portRow_powered hn hpg, hpl, whenB_true _ _ (by simpa [hc] using hdue)]

theorem exec_ident_received {m : Msg} {r : List Msg} (hm : (getPort s n).msgs2 = m :: r) : exec (.ident n) s =
    .next (takeRecord (modPort s n (fun p => { p with msgs2 := r }.free 2 (slotsOf m))) n m.data) := by
  rw [exec_ident, execIdent, portRow_powered hn hpg, hm]

end states

/-! ### RETRAIN and FENCED (R336, R337) -/

section retrain

variable {s : State} {n : Nat} (ha : (getPort s n).state = .active)
include ha

theorem enterRetrain_third (h : 2 ≤ (retrainsOf s (getPort s n)).length) : enterRetrain s n = portGone s n .fenced := by
  rw [enterRetrain, if_neg (not_not_intro ha), if_pos h]

theorem enterRetrain_early (h : (retrainsOf s (getPort s n)).length < 2) : enterRetrain s n =
    portCount (modPort (portTo s n .retrain) n (fun p => { p with retrains := s.tick :: retrainsOf s p })) n 6 := by
  rw [enterRetrain, if_neg (not_not_intro ha), if_neg (Nat.not_le.2 h)]

end retrain

/-! ### Records compared (R344, R345) -/

theorem recordCause_eq_zero_iff (pl b : List Byte) (n : Nat) : recordCause pl n b = 0 ↔ fld b 1 1 = planExpect pl n ∧
    fld b 0x10 8 = fld pl 8 8 ∧ fld b 8 8 = planFserial pl n ∧ fld b 4 2 = planFchip pl n ∧ fld b 2 1 = planFport pl n ∧
    (fld b 1 1 = 1 → fld b 3 1 = 1) := by
  unfold recordCause
  split_ifs <;> simp_all

theorem recordDiff_eq_zero_iff (a b : List Byte) : recordDiff a b = 0 ↔ a = b := by
  unfold recordDiff
  split_ifs with h <;> simp [h]

section taken

variable {s : State} {n : Nat} {pl b : List Byte} (hpl : s.pew.applied = some pl)
include hpl

theorem takeRecord_unsound (hb : recordOk b = false) : takeRecord s n b = s := by
  rw [takeRecord, hpl]
  exact if_pos (by rw [hb]; rfl)

theorem takeRecord_check (hb : recordOk b = true) (hc : (getPort s n).state = .check) : takeRecord s n b =
    if recordCause pl n b = 0 then pump (portUp (modPort s n (fun p => { p with record := b })) n) n
    else quarantine (modPort s n (fun p => { p with record := b })) n (recordCause pl n b) := by
  rw [takeRecord, hpl]
  exact (if_neg (by simp [hb])).trans (if_pos hc)

theorem takeRecord_active (hb : recordOk b = true) (ha : (getPort s n).state = .active) : takeRecord s n b =
    if b = (getPort s n).record then s
    else quarantine (modPort s n (fun p => { p with record := b })) n (recordDiff (getPort s n).record b) := by
  rw [takeRecord, hpl]
  refine (if_neg (by simp [hb])).trans ((if_neg (by simp [ha])).trans ?_)
  by_cases h : b = (getPort s n).record
  · rw [if_pos h, if_neg (by simp [(recordDiff_eq_zero_iff _ _).2 h.symm])]
  · rw [if_neg h, if_pos ⟨ha, mt (recordDiff_eq_zero_iff _ _).1 (Ne.symm h)⟩]

end taken

theorem exec_portRelock_inTime {s : State} {n : Nat} {b : List Byte} (hn : n < 16) (hpg : s.power.pg = true)
    (hr : (getPort s n).state = .retrain) (hb : recordOk b = true) (ht : s.tick ≤ (getPort s n).since + 5000000) :
    exec (.portRelock n b) s = .next (if b = (getPort s n).record then pump (replayAll
        (modPort (portUp s n) n (fun p => { p with ackTick := s.tick, replays := 0, naks := [] })) n) n
      else quarantine (modPort s n (fun p => { p with record := b })) n (recordDiff (getPort s n).record b)) := by
  rw [exec_portRelock, execPortRelock, portRow_powered hn hpg, whenB_true _ _ (by simp [hr, hb, ht])]
  exact congrArg _ (if_congr ((recordDiff_eq_zero_iff _ _).trans eq_comm) rfl rfl)

/-- A record taken from its queue leaves the port's state and the record compared at CHECK. -/
theorem Port.free_kept (p : Port) (vc k : Nat) : (p.free vc k).state = p.state ∧ (p.free vc k).record = p.record := by
  unfold Port.free
  split_ifs <;> exact ⟨rfl, rfl⟩

/-- Settles O43: each event of a port by its next state. -/
theorem portStates : Obligations.PortStates := by
  refine ⟨fun s n hn hpg => ⟨exec_laneLockLoss_active hn hpg, exec_laneLockLoss_unproven hn hpg,
      fun hr hdue => (exec_retrainTimeout_retrain hn hpg hr).trans (congrArg _ (if_pos hdue)),
      fun hr hearly => (exec_retrainTimeout_retrain hn hpg hr).trans (congrArg _ (if_neg (Nat.not_le.2 hearly))),
      fun hd hdue => (exec_downRetry_down hn hpg hd).trans (congrArg _ (if_pos hdue)),
      fun ht => ⟨_, exec_portLock_training hn hpg ht, ?lock⟩,
      fun hc hdue => (exec_noRecord_check hn hpg hc).trans (congrArg _ (if_pos hdue)),
      fun hc hearly => (exec_noRecord_check hn hpg hc).trans (congrArg _ (if_neg (Nat.not_le.2 hearly)))⟩,
    fun s n ha => ⟨fun hfew => ⟨_, enterRetrain_early ha hfew, ?retrain⟩, enterRetrain_third ha⟩,
    fun s n pl hn hpg hpl hc hdue => exec_identSend_check hn hpg hpl hc hdue,
    ?ident, fun pl b n => recordCause_eq_zero_iff pl b n,
    fun s n b hn hpg hr hb ht => ⟨fun hsame => ?same, fun hother => ?other⟩⟩
  case lock =>
    refine ⟨?_, fun m hm => ?_, rfl⟩
    · rw [getPort_modPort, getPort_portTo]; rfl
    · rw [getPort_modPort_ne _ _ hm, getPort_portTo_ne _ _ hm]
  case retrain =>
    refine ⟨?_, fun m hm => ?_, rfl, rfl, rfl⟩
    · rw [getPort_portCount, getPort_modPort, getPort_portTo]; rfl
    · rw [getPort_portCount, getPort_modPort_ne _ _ hm, getPort_portTo_ne _ _ hm]
  case ident =>
    intro s u n pl m r hn hpg hpl hm hu
    rw [exec_ident_received hn hpg hm, ← hu]
    have hplan : u.pew.applied = some pl := by rw [hu]; exact hpl
    obtain ⟨hstate, hrecord⟩ : (getPort u n).state = (getPort s n).state ∧ (getPort u n).record = (getPort s n).record := by
      rw [hu, getPort_modPort]; exact Port.free_kept _ 2 (slotsOf m)
    refine ⟨fun hb => ?_, fun hb hc => ?_, fun hb ha => ?_⟩
    · rw [takeRecord_unsound hplan hb]
    · rw [takeRecord_check hplan hb (hstate.trans hc)]
      exact ⟨fun h => by rw [if_pos h], fun h => by rw [if_neg h]⟩
    · rw [takeRecord_active hplan hb (hstate.trans ha), hrecord]
      exact ⟨fun h => by rw [if_pos h], fun h => by rw [if_neg h]⟩
  case same => rw [exec_portRelock_inTime hn hpg hr hb ht, if_pos hsame]
  case other => rw [exec_portRelock_inTime hn hpg hr hb ht, if_neg hother]

end Sys2Proof.Machine
end

section
/-! The link layer of the optical ports: flits built and checked, received, acknowledged and replayed (R330 to R336). -/

namespace Sys2Proof.Machine

/-! ### A flit that is built (R330, R331) -/

/-- R330: bytes 0 to 7 of a flit, as a number. -/
def flitWord (p : Port) (ft vc seq ack : Nat) : Nat := ft + 2 ^ 4 * vc + 2 ^ 8 * seq + 2 ^ 20 * ack + 2 ^ 32 * b2n p.ackv +
  2 ^ 36 * (p.freed0 / 8 % 4096) + 2 ^ 48 * (p.freed1 / 8 % 4096)

/-- R330: bytes 0 to 11 of a flit. -/
def flitHead (p : Port) (ft vc seq ack : Nat) : List Byte := leBytes 8 (flitWord p ft vc seq ack) ++ leBytes 4 (p.freed2 % 4096)

/-- R330: bytes 16 to 255 of a flit. -/
def flitBody (sl : List (List Byte)) : List Byte := sl.flatten ++ zeros (240 - 16 * sl.length)

theorem flitBytes_eq (p : Port) (ft vc seq ack : Nat) (sl : List (List Byte)) : flitBytes p ft vc seq ack sl =
    flitHead p ft vc seq ack ++ (leBytes 4 (crc32c (flitHead p ft vc seq ack ++ zeros 4 ++ flitBody sl)).toNat ++ flitBody sl) :=
  List.append_assoc _ _ _

theorem length_flitHead (p : Port) (ft vc seq ack : Nat) : (flitHead p ft vc seq ack).length = 12 := by
  rw [flitHead, List.length_append, length_leBytes, length_leBytes]

/-- The slots of a flit, filled up to fifteen. -/
def filled (sl : List (List Byte)) : List (List Byte) := sl ++ List.replicate (15 - sl.length) (zeros 16)

/-- Runs of one length, put together, are cut again at that length. -/
theorem map_take_drop_flatten {k : Nat} {L : List (List Byte)} (h : ∀ x ∈ L, x.length = k) :
    (List.range L.length).map (fun i => (L.flatten.drop (k * i)).take k) = L := by
  induction L with
  | nil => rfl
  | cons x L ih =>
    obtain ⟨hx, hL⟩ := List.forall_mem_cons.1 h
    rw [List.length_cons, List.range_succ_eq_map, List.map_cons, List.map_map, List.flatten_cons]
    congr 1
    · rw [Nat.mul_zero, List.drop_zero, List.take_left' hx]
    · refine Eq.trans (List.map_congr_left fun i _ => ?_) (ih hL)
      rw [Function.comp_apply, Nat.mul_succ, Nat.add_comm, drop_append_length hx]

section built

variable {sl : List (List Byte)} (h15 : sl.length ≤ 15) (h16 : ∀ x ∈ sl, x.length = 16)
include h15

theorem length_filled : (filled sl).length = 15 := by
  rw [filled, List.length_append, List.length_replicate]; omega

theorem flitBody_eq : flitBody sl = (filled sl).flatten := by
  rw [flitBody, filled, List.flatten_append, zeros, zeros, List.flatten_replicate_replicate]
  congr 2; omega

include h16

omit h15 in
theorem length_of_mem_filled {x : List Byte} (hx : x ∈ filled sl) : x.length = 16 := by
  rcases List.mem_append.1 hx with hx | hx
  · exact h16 x hx
  · rw [List.eq_of_mem_replicate hx, length_zeros]

theorem length_flitBody : (flitBody sl).length = 240 := by
  have hlen : ∀ k ∈ (filled sl).map List.length, k = 16 := by
    intro k hk
    obtain ⟨x, hx, rfl⟩ := List.mem_map.1 hk
    exact length_of_mem_filled h16 hx
  rw [flitBody_eq h15, List.length_flatten, List.sum_eq_card_nsmul _ _ hlen, List.length_map, length_filled h15]
  rfl

end built

/-- R331: the fields of a flit's first word. -/
theorem flitWord_fields (p : Port) {ft vc seq ack : Nat} (hft : ft ≤ 3) (hvc : vc < 3) (hseq : seq < 4096) (hack : ack < 4096) :
    let d := flitWord p ft vc seq ack
    d < 256 ^ 8 ∧ bits d 0 4 = ft ∧ bits d 4 2 = vc ∧ bits d 6 2 = 0 ∧ bits d 8 12 = seq ∧ bits d 20 12 = ack ∧
      bits d 33 3 = 0 ∧ bits d 60 4 = 0 := by
  have h0 : p.freed0 / 8 % 4096 < 4096 := Nat.mod_lt _ (by decide)
  have h1 : p.freed1 / 8 % 4096 < 4096 := Nat.mod_lt _ (by decide)
  have hv : b2n p.ackv ≤ 1 := by unfold b2n; split <;> decide
  unfold flitWord bits
  generalize p.freed0 / 8 % 4096 = c0 at *
  generalize p.freed1 / 8 % 4096 = c1 at *
  generalize b2n p.ackv = v at *
  dsimp only
  omega

section sent

variable (p : Port) (ft vc seq ack : Nat) {sl : List (List Byte)}

theorem fld_flitBytes_word (hd : flitWord p ft vc seq ack < 256 ^ 8) :
    fld (flitBytes p ft vc seq ack sl) 0 8 = flitWord p ft vc seq ack := by
  rw [flitBytes_eq, flitHead, List.append_assoc, fld_leBytes_head hd]

theorem fld_flitBytes_credit : fld (flitBytes p ft vc seq ack sl) 8 4 = p.freed2 % 4096 := by
  rw [flitBytes_eq, flitHead, List.append_assoc]
  exact (fld_append_right (length_leBytes _ _) _ 0 4).trans (fld_leBytes_head ((Nat.mod_lt _ (by decide)).trans (by decide)) _)

/-- R330: the CRC covers the flit with its own four bytes zero. -/
theorem fld_flitBytes_crc : fld (flitBytes p ft vc seq ack sl) 12 4 = (crc32c ((flitBytes p ft vc seq ack sl).take 12 ++
    zeros 4 ++ (flitBytes p ft vc seq ack sl).drop 16)).toNat := by
  have hh := length_flitHead p ft vc seq ack
  rw [flitBytes_eq, List.take_left' hh, drop_append_length hh _ 4, List.drop_left' (length_leBytes _ _)]
  exact (fld_append_right hh _ 0 4).trans (fld_leBytes_head (BitVec.isLt _) _)

theorem drop_flitBytes (o : Nat) : (flitBytes p ft vc seq ack sl).drop (16 + o) = (flitBody sl).drop o := by
  rw [flitBytes_eq, ← List.append_assoc]
  exact drop_append_length (by rw [List.length_append, length_flitHead, length_leBytes]) _ o

variable (h15 : sl.length ≤ 15) (h16 : ∀ x ∈ sl, x.length = 16)
include h15 h16

theorem length_flitBytes : (flitBytes p ft vc seq ack sl).length = 256 := by
  rw [flitBytes_eq, List.length_append, List.length_append, length_flitHead, length_leBytes, length_flitBody h15 h16]

theorem flitSlots_flitBytes : flitSlots (flitBytes p ft vc seq ack sl) = filled sl := by
  have hcut := map_take_drop_flatten (fun x hx => length_of_mem_filled h16 (x := x) hx)
  rw [length_filled h15, ← flitBody_eq h15] at hcut
  simpa only [flitSlots, drop_flitBytes] using hcut

omit h15 h16 in
theorem flitOk_flitBytes (hft : 1 ≤ ft) (hft3 : ft ≤ 3) (hvc : vc < 3) (hseq : seq < 4096) (hack : ack < 4096)
    (hctl : ft ≠ 1 → vc = 0 ∧ seq = 0 ∧ sl = []) : flitOk (flitBytes p ft vc seq ack sl) = true := by
  obtain ⟨hd, htype, hvcf, hr6, hseqf, -, hr33, hr60⟩ := flitWord_fields p hft3 hvc hseq hack
  have hcredit : bits (p.freed2 % 4096) 12 20 = 0 := by
    have hlt : p.freed2 % 4096 < 2 ^ 12 := Nat.mod_lt _ (by decide)
    rw [bits, Nat.div_eq_of_lt hlt, Nat.zero_mod]
  unfold flitOk
  dsimp only
  rw [fld_flitBytes_crc, fld_flitBytes_word p ft vc seq ack hd, fld_flitBytes_credit, htype, hvcf, hr6, hseqf, hr33, hr60, hcredit]
  by_cases h1 : ft = 1
  · simp [h1, hvc]
  · obtain ⟨rfl, rfl, rfl⟩ := hctl h1
    have hzero : zeroAt (flitBytes p ft 0 0 ack []) 16 240 = true := by
      rw [zeroAt, drop_flitBytes p ft 0 0 ack 0]; decide
    simp [h1, hft, hft3, hzero]

end sent

/-! ### What sending and accepting leave of the receiving side (R333, R334) -/

/-- What a port keeps of what it has received in order: the SEQ it expects, whether a NAK stands, and its state. -/
def Port.inOrder (p : Port) : Nat × Bool × PortState := (p.rxSeq, p.nakSent, p.state)

theorem getPort_portOut (s : State) (n : Nat) (b : List Byte) : getPort (portOut s n b) n = { getPort s n with owed := false } :=
  getPort_modPort s n (fun p => { p with owed := false })

theorem take_inOrder (p : Port) (vc k : Nat) : (p.take vc k).inOrder = p.inOrder := by unfold Port.take; split_ifs <;> rfl

theorem store_inOrder (p : Port) (vc : Nat) (r : Parsed) (ms : List Msg) : (p.store vc r ms).inOrder = p.inOrder := by
  unfold Port.store; split_ifs <;> rfl

theorem free_inOrder (p : Port) (vc k : Nat) : (p.free vc k).inOrder = p.inOrder := by unfold Port.free; split_ifs <;> rfl

theorem pumpVC_inOrder (n vc fuel : Nat) (s : State) : (getPort (pumpVC n vc fuel s) n).inOrder = (getPort s n).inOrder := by
  induction fuel generalizing s with
  | zero => rfl
  | succ k ih =>
    unfold pumpVC
    dsimp only
    split
    · rfl
    · rw [ih, getPort_portCount, getPort_modPort, getPort_portOut]
      exact take_inOrder _ vc _

theorem pump_inOrder (s : State) (n : Nat) : (getPort (pump s n) n).inOrder = (getPort s n).inOrder := by
  unfold pump
  dsimp only
  rw [pumpVC_inOrder, pumpVC_inOrder, pumpVC_inOrder]

theorem portCounts_ports (n ctr k : Nat) (s : State) (m : Nat) : getPort (portCounts s n ctr k) m = getPort s m := by
  induction k generalizing s with
  | zero => rfl
  | succ k ih => exact ih _

theorem deliverSlots_inOrder (s : State) (n vc : Nat) (sl : List (List Byte)) :
    (getPort (deliverSlots s n vc sl) n).inOrder = (getPort s n).inOrder := by
  unfold deliverSlots
  dsimp only
  rw [portCounts_ports, portCounts_ports, getPort_modPort, free_inOrder, store_inOrder]

theorem acceptFlit_inOrder (s : State) (n vc : Nat) (sl : List (List Byte)) : (getPort (acceptFlit s n vc sl) n).inOrder =
    (((getPort s n).rxSeq + 1) % 4096, false, (getPort s n).state) := by
  rw [acceptFlit, deliverSlots_inOrder, getPort_portCount, getPort_modPort]
  rfl

/-! ### ACK and credit of a flit (R333, R334) -/

/-- The place of the first entry with a property. -/
theorem firstIdx_eq_some {α : Type} {q : α → Bool} {xs : List α} {i : Nat} {x : α} (hx : xs[i]? = some x) (hq : q x = true)
    (hbefore : ∀ j y, j < i → xs[j]? = some y → q y = false) : firstIdx q xs = some i := by
  suffices h : ∀ k, ((numbered k xs).find? (fun e => q e.2)).map (·.1) = some (k + i) by rw [firstIdx, h 0, Nat.zero_add]
  induction xs generalizing i with
  | nil => simp at hx
  | cons y ys ih =>
    intro k
    cases i with
    | zero =>
      obtain rfl : y = x := by simpa using hx
      rw [numbered, List.find?_cons_of_pos (by exact hq)]; rfl
    | succ i =>
      have hy := hbefore 0 y (Nat.succ_pos i) rfl
      rw [numbered, List.find?_cons_of_neg (by simp [hy]),
        ih (by simpa using hx) (fun j z hj hz => hbefore (j + 1) z (Nat.succ_lt_succ hj) (by simpa using hz))]
      congr 1; omega

/-- R334: an ACK drops the flits up to the first of its SEQ. -/
theorem ackFlits_replay {s : State} {n i : Nat} {f : TxFlit} (hf : (getPort s n).replay[i]? = some f)
    (hbefore : ∀ j g, j < i → (getPort s n).replay[j]? = some g → g.seq ≠ f.seq) :
    (getPort (ackFlits s n f.seq) n).replay = (getPort s n).replay.drop (i + 1) := by
  have hidx : firstIdx (fun g => g.seq == f.seq) (getPort s n).replay = some i :=
    firstIdx_eq_some hf (beq_self_eq_true _) fun j g hj hg => beq_false_of_ne (hbefore j g hj hg)
  rw [ackFlits, getPort_modPort, hidx]

/-- An ACK changes the replay buffer and its clock alone. -/
theorem getPort_ackFlits (s : State) (n ack : Nat) : ∃ r a k,
    getPort (ackFlits s n ack) n = { getPort s n with replay := r, ackTick := a, replays := k } := by
  rw [ackFlits, getPort_modPort]
  split
  · exact ⟨_, _, _, rfl⟩
  · exact ⟨_, _, _, rfl⟩

/-- A sound flit heard on a port: its ACK and its credit are taken. -/
def flitHeard (s : State) (n : Nat) (b : List Byte) : State :=
  modPort (ackFlits s n (if bit (fld b 0 8) 32 then bits (fld b 0 8) 20 12 else 4096)) n (fun p => takeCredit p b)

theorem getPort_flitHeard (s : State) (n : Nat) (b : List Byte) : ∃ r a k f0 f1 f2, getPort (flitHeard s n b) n =
    { getPort s n with replay := r, ackTick := a, replays := k, far0 := f0, far1 := f1, far2 := f2 } := by
  obtain ⟨r, a, k, h⟩ := getPort_ackFlits s n (if bit (fld b 0 8) 32 then bits (fld b 0 8) 20 12 else 4096)
  rw [flitHeard, getPort_modPort, h]
  exact ⟨_, _, _, _, _, _, rfl⟩

theorem flitHeard_inOrder (s : State) (n : Nat) (b : List Byte) : (getPort (flitHeard s n b) n).inOrder = (getPort s n).inOrder := by
  obtain ⟨r, a, k, f0, f1, f2, h⟩ := getPort_flitHeard s n b
  rw [h]; rfl

theorem flitHeard_rxSeq (s : State) (n : Nat) (b : List Byte) : (getPort (flitHeard s n b) n).rxSeq = (getPort s n).rxSeq :=
  congrArg (·.1) (flitHeard_inOrder s n b)

theorem flitHeard_within (s : State) (n : Nat) (b : List Byte) : Within [.fab] s (flitHeard s n b) :=
  modPort_within _ _ (by decide) (ackFlits_within (by decide) (.refl _ s))

/-! ### FLIT_RECEIVE (R331, R333, R334) -/

section received

variable {s : State} {n : Nat} {b : List Byte} (hn : n < 16) (hpg : s.power.pg = true) (hl : (getPort s n).linked = true)
include hn hpg hl

theorem exec_nak_linked (ack : Nat) : exec (.nak n ack) s = .next (nakTaken (ackFlits s n ack) n) := by
  rw [exec_nak, execNak, portRow_powered hn hpg, whenB_true _ _ hl]

theorem exec_ackIdleTimer_linked : exec (.ackIdleTimer n) s = .next (if (getPort s n).owed then ctlFlit s n 2 else s) := by
  rw [exec_ackIdleTimer, execAckIdleTimer, portRow_powered hn hpg, hl, Bool.true_and, whenB]

variable (hlen : b.length = 256)
include hlen

theorem exec_flitReceive_uncorrectable : exec (.flitReceive n b true) s =
    .next (if bits (fld b 0 8) 0 4 = 1 then nakOnce (portCount (portCount s n 3) n 4) n
      else portCount (portCount s n 3) n 4) := by
  rw [exec_flitReceive, execFlitReceive, portRow_powered hn hpg]
  dsimp only
  rw [if_neg (by simp [hl, hlen]), if_pos (.inl rfl), if_pos rfl]

theorem exec_flitReceive_unsound (hok : flitOk b = false) : exec (.flitReceive n b false) s =
    .next (if bits (fld b 0 8) 0 4 = 1 then nakOnce (portCount s n 3) n else portCount s n 3) := by
  rw [exec_flitReceive, execFlitReceive, portRow_powered hn hpg]
  dsimp only
  rw [if_neg (by simp [hl, hlen]), if_pos (.inr (by rw [hok]; rfl)), if_neg Bool.false_ne_true]

theorem exec_flitReceive_sound (hok : flitOk b = true) : exec (.flitReceive n b false) s =
    .next (if bits (fld b 0 8) 0 4 = 1 then
        if bits (fld b 0 8) 8 12 = (getPort s n).rxSeq then
          pump (acceptFlit (flitHeard s n b) n (bits (fld b 0 8) 4 2) (flitSlots b)) n
        else nakOnce (flitHeard s n b) n
      else if bits (fld b 0 8) 0 4 = 3 then nakTaken (flitHeard s n b) n
      else pump (flitHeard s n b) n) := by
  rw [exec_flitReceive, execFlitReceive, portRow_powered hn hpg, ← flitHeard_rxSeq s n b]
  dsimp only
  rw [if_neg (by simp [hl, hlen]), if_neg (by simp [hok])]
  rfl

end received

/-! ### NAK, sent once (R334, R335) -/

/-- R334: a NAK is sent when none stands; nothing else of what was received changes. -/
theorem nakOnce_spec (s : State) (n : Nat) : (∃ o, getPort (nakOnce s n) n = { getPort s n with owed := o, nakSent := true }) ∧
    (nakOnce s n).fab.out.length = s.fab.out.length + (if (getPort s n).nakSent then 0 else 1) := by
  unfold nakOnce
  cases h : (getPort s n).nakSent with
  | true => exact ⟨⟨(getPort s n).owed, by rw [if_pos rfl, ← h]⟩, rfl⟩
  | false =>
    rw [if_neg Bool.false_ne_true, if_neg Bool.false_ne_true, getPort_modPort, ctlFlit, getPort_portOut]
    exact ⟨⟨_, rfl⟩, List.length_append⟩

theorem exec_ackStallTimeout_unacked {s : State} {n : Nat} (hn : n < 16) (hpg : s.power.pg = true)
    (hr : (getPort s n).replay ≠ []) : exec (.ackStallTimeout n) s =
    .next (if (getPort s n).ackTick + 2000 ≤ s.tick then enterRetrain s n else s) := by
  rw [exec_ackStallTimeout, execAckStallTimeout, portRow_powered hn hpg, whenB_due (by simpa using hr)]

/-- Settles O42: a flit built passes its check, and each event of the link layer by its next state. -/
theorem portFlits : Obligations.PortFlits := by
  refine ⟨?built, ?received, fun s n i f hf hbefore => ackFlits_replay hf hbefore,
    fun s n hn hpg hl => ⟨fun ho => ⟨_, (exec_ackIdleTimer_linked hn hpg hl).trans (congrArg _ (if_pos ho)), rfl, ?told⟩,
      fun ho => (exec_ackIdleTimer_linked hn hpg hl).trans (congrArg _ (if_neg (by simp [ho])))⟩,
    fun s n hn hpg hr => ⟨fun hdue => (exec_ackStallTimeout_unacked hn hpg hr).trans (congrArg _ (if_pos hdue)),
      fun hearly => (exec_ackStallTimeout_unacked hn hpg hr).trans (congrArg _ (if_neg (Nat.not_le.2 hearly)))⟩⟩
  case told => rw [ctlFlit, getPort_portOut]
  case built =>
    rintro p ft vc seq ack sl b rfl hft hft3 hvc hseq hack h15 h16 hctl
    obtain ⟨hd, htype, hvcf, -, hseqf, hackf, -, -⟩ := flitWord_fields p hft3 hvc hseq hack
    rw [fld_flitBytes_word p ft vc seq ack hd]
    exact ⟨flitOk_flitBytes p ft vc seq ack hft hft3 hvc hseq hack hctl, length_flitBytes p ft vc seq ack h15 h16, htype, hvcf,
      hseqf, hackf, flitSlots_flitBytes p ft vc seq ack h15 h16⟩
  case received =>
    rintro s u n b d hn hpg hl hlen rfl rfl
    refine ⟨exec_flitReceive_unsound hn hpg hl hlen, exec_flitReceive_uncorrectable hn hpg hl hlen, fun hok h1 hseq => ?accepted,
      fun hok h1 hseq => ?refused, fun hok h2 => ?idle, fun hok h3 => ?nak, exec_nak_linked hn hpg hl⟩
    all_goals rw [exec_flitReceive_sound hn hpg hl hlen hok]
    case accepted =>
      refine ⟨_, congrArg _ ((if_pos h1).trans (if_pos hseq)), rfl, ?_⟩
      have hport := (pump_inOrder (acceptFlit (flitHeard s n b) n (bits (fld b 0 8) 4 2) (flitSlots b)) n).trans
        (acceptFlit_inOrder _ _ _ _)
      have hstate : (getPort (flitHeard s n b) n).state = (getPort s n).state := congrArg (·.2.2) (flitHeard_inOrder s n b)
      rw [flitHeard_rxSeq, hstate] at hport
      have hframe : Within [.fab, .pew] s (pump (acceptFlit (flitHeard s n b) n (bits (fld b 0 8) 4 2) (flitSlots b)) n) :=
        pump_within (by decide) (by decide) (acceptFlit_within (by decide) (by decide) ((flitHeard_within s n b).mono (by decide)))
      exact ⟨congrArg (·.1) hport, congrArg (·.2.1) hport, congrArg (·.2.2) hport, hframe.mem.resolve_left (by decide),
        hframe.parts.resolve_left (by decide), hframe.host.resolve_left (by decide), hframe.eng.resolve_left (by decide)⟩
    case refused =>
      refine ⟨_, congrArg _ ((if_pos h1).trans (if_neg hseq)), ?_⟩
      obtain ⟨⟨o, hport⟩, hout⟩ := nakOnce_spec (flitHeard s n b) n
      obtain ⟨r, a, k, f0, f1, f2, hheard⟩ := getPort_flitHeard s n b
      rw [hheard] at hport hout
      rw [hport]
      exact ⟨rfl, rfl, rfl, rfl, rfl, hout⟩
    case idle => rw [if_neg (by omega), if_neg (by omega)]; rfl
    case nak => rw [if_neg (by omega), if_pos h3]; rfl

end Sys2Proof.Machine
end

section
/-! Epochs: their end, their seals, and the seal ring (R419 to R424). -/

namespace Sys2Proof.Machine

/-! ### The length of a digest (R421) -/

theorem length_beBytes (n x : Nat) : (beBytes n x).length = n := by rw [beBytes, List.length_reverse, length_leBytes]

theorem length_shaBlock {hs : List (BitVec 64)} (h : hs.length = 8) (blk : List Byte) : (shaBlock hs blk).length = 8 := by
  simp [shaBlock, h]

theorem length_shaBlocks (n : Nat) {hs : List (BitVec 64)} (h : hs.length = 8) (bs : List Byte) :
    (shaBlocks n hs bs).length = 8 := by
  induction n generalizing hs bs with
  | zero => exact h
  | succ n ih => exact ih (length_shaBlock h _) _

theorem length_sha512 (m : List Byte) : (sha512 m).length = 64 := by
  rw [sha512, List.length_flatMap]
  simp only [length_beBytes, List.map_const', List.sum_replicate, length_shaBlocks _ (hs := sha512H) rfl]
  rfl

/-! ### The end of an epoch (R242, R421) -/

/-- An epoch that ends in a chain that goes on: its entry waits to be sealed and the next one begins. -/
theorem getPart_endEpoch {s : State} {p : Nat} (h : (getPart s p).chainOver = false) (reason : Nat) :
    getPart (endEpoch s p reason) p = { getPart s p with
      ended := (getPart s p).ended ++ [⟨(getPart s p).epochN, reason, s.tick, (getPart s p).epoch,
        (getPart s p).seqno - (getPart s p).epochN, (getPart s p).head, (getPart s p).epochAt⟩]
      epoch := (getPart s p).epoch + 1, epochN := 0, epochAt := s.tick, chainOver := decide (3 ≤ reason) } := by
  rw [endEpoch, getPart_modPart, h]; rfl

theorem exec_epochTimeEnd_running {s : State} {p : Nat} (hp : p < 16) (hrun : s.sec.state = 4) (hpg : s.power.pg = true)
    (hperst : s.power.perst = false) (hphase : (getPart s p).phase ≠ .absent) (hover : (getPart s p).chainOver = false) :
    exec (.epochTimeEnd p) s = .next (if (getPart s p).epochAt + 100000000 ≤ s.tick then endEpoch s p 1 else s) := by
  rw [exec_epochTimeEnd, execEpochTimeEnd, onUnit_known _ (decide_eq_true hp),
    whenB_due (by simp [hrun, hpg, hperst, hphase, hover])]

/-! ### Seals (R421 to R423) -/

theorem getPart_modSec (s : State) (f : Electrum → Electrum) (q : Nat) : getPart (modSec s f) q = getPart s q := rfl

/-- R421: the seal of an ended epoch. -/
def sealOf (s : State) (p : Nat) (e : EpochEnd) : Seal where
  part := p
  chain := SGet (zeros 16) s.sec.chainIds p
  epoch := e.epoch
  bytes := sealBody s p e ++ sigBytes (tskKey s) (sha512 (sealBody s p e))

theorem makeSeal_ended {s : State} {p : Nat} {e : EpochEnd} {r : List EpochEnd} (h : (getPart s p).ended = e :: r) :
    makeSeal s p = modSec (modPart s p (fun P => { P with ended := r }))
      (fun c => { storeSeal c (sealOf s p e) with latest := SSet none c.latest p (some (sealOf s p e)) }) := by
  rw [makeSeal, h]; rfl

theorem makeSeal_none {s : State} {p : Nat} (h : (getPart s p).ended = []) : makeSeal s p = s := by rw [makeSeal, h]

/-- R423: a seal that enters the store is held. -/
theorem mem_store_storeSeal (e : Electrum) (x : Seal) : x ∈ (storeSeal e x).store := by
  have hlast (l : List Seal) : x ∈ l ++ [x] := List.mem_append_right l (List.mem_singleton_self x)
  unfold storeSeal
  split
  · exact hlast _
  · dsimp only
    split
    · exact hlast _
    · exact hlast _

theorem storeSeal_store {e : Electrum} (h : e.store.length < 1024) (x : Seal) : (storeSeal e x).store = e.store ++ [x] := by
  rw [storeSeal, if_pos h]

theorem exec_epochSeal_running {s : State} {p : Nat} (hp : p < 16) (hrun : s.sec.state = 4) (hpg : s.power.pg = true) :
    exec (.epochSeal p) s = .next (makeSeal s p) := by
  rw [exec_epochSeal, execEpochSeal, onUnit_known _ (decide_eq_true hp), whenB_true _ _ (by simp [hrun, hpg])]

theorem exec_epochSeal_none {s : State} {p : Nat} (hp : p < 16) (h : (getPart s p).ended = []) :
    exec (.epochSeal p) s = .next s := by
  rw [exec_epochSeal, execEpochSeal, onUnit_known _ (decide_eq_true hp), makeSeal_none h, whenB, ite_self]

/-- R421: a seal's body has 0xB0 bytes. -/
theorem length_sealBody {s : State} {p : Nat} {e : EpochEnd} (hchain : (SGet (zeros 16) s.sec.chainIds p).length = 16)
    (hhead : e.head.length = 64) (hbm : 16 ≤ s.sec.bm.length) : (sealBody s p e).length = 0xB0 := by
  have hdigest : (if e.first + e.count = 0 then zeros 64 else e.head).length = 64 := by
    split
    · exact length_zeros 64
    · exact hhead
  rw [sealBody]
  simp only [List.length_append, length_leBytes, length_zeros, List.length_take, length_sha512, hchain, hdigest,
    Nat.min_eq_left hbm]
  decide

/-! ### The seal ring (R419, R420, R423) -/

theorem exec_sealRingWrite_held {s : State} {x : Seal} {xs : List Seal} {r : Ring} (hstore : s.sec.store = x :: xs)
    (hring : findRing s .seal 0 0 = some r) : exec .sealRingWrite s =
    .next (if mayWrite s 0 = false ∨ r.room = false then s else ringWrite
      { s with sec := { s.sec with store := xs, dropped := SSet 0 s.sec.dropped (chainKey x.chain) 0 } } .seal 0 0
      (x.bytes ++ leBytes 2 (SGet 0 s.sec.dropped (chainKey x.chain)) ++ zeros 202)) := by
  rw [exec_sealRingWrite, execSealRingWrite, hstore, hring]
  simp only [Bool.not_eq_true']
  rfl

/-- R420: the parameters of a seal ring that the function can be given. -/
def SealRingFits (s : State) (c : List Byte) : Prop :=
  c.length = 12 ∧ fld c 0 8 % 4096 = 0 ∧ 4 ≤ fld c 8 1 ∧ fld c 8 1 ≤ 12 ∧ fld c 9 1 ≤ 63 ∧
    dbRange s 0 (fld c 10 2) = true ∧ dbFree s 0 (fld c 10 2) (some .seal) = true

section vendor

variable {s : State} {req b : List Byte} (hup : spdmUp s = true) (hver : fld req 0 1 = 0x13) (hvendor : fld req 1 1 = 0xFE)
  (hreq : vendorReq req = some b) (hsync : s.sec.resync = false) (hstage : 3 ≤ s.sec.spdm)
include hup hver hvendor hreq hsync hstage

section ring

variable (hcode : fld b 0 1 = 3)
include hcode

theorem exec_sealRingSet_early (h : s.sec.state ≠ 4 ∨ s.host.lock = false) :
    exec (.sealRingSet req) s = .next (vendorSend s [1#8]) := by
  refine (exec_sealRingSet s).trans ((vendorRow_admitted hup hver hvendor hreq hcode hsync hstage _ _).trans
    (congrArg _ (if_neg ?_)))
  rcases h with h | h <;> simp [h]

variable (hrun : s.sec.state = 4) (hlock : s.host.lock = true) {c : List Byte} (hc : c = b.drop 1)
include hrun hlock hc

theorem exec_sealRingSet_sound (h : SealRingFits s c) : exec (.sealRingSet req) s = .next (vendorSend (putRing s
      { kind := .seal, fn := 0, id := 0, base := fld c 0 8, lg := fld c 8 1, db := fld c 10 2, vec := fld c 9 1 }) [0#8]) := by
  subst hc
  obtain ⟨hlen, hbase, hlg4, hlg12, hvec, hrange, hfree⟩ := h
  refine (exec_sealRingSet s).trans ((vendorRow_admitted hup hver hvendor hreq hcode hsync hstage _ _).trans
    (congrArg _ ((if_pos (by simp [hrun, hlock])).trans (if_neg ?_))))
  simp only [hlen, hbase, hrange, hfree, Bool.not_true, Bool.false_eq_true, ne_eq, not_true_eq_false, false_or, or_false]
  omega

theorem exec_sealRingSet_unsound (h : ¬ SealRingFits s c) :
    exec (.sealRingSet req) s = .next (vendorSend s [2#8]) := by
  subst hc
  refine (exec_sealRingSet s).trans ((vendorRow_admitted hup hver hvendor hreq hcode hsync hstage _ _).trans
    (congrArg _ ((if_pos (by simp [hrun, hlock])).trans (if_pos ?_))))
  by_contra hno
  simp only [not_or, not_not, Nat.not_lt, Bool.not_eq_true', Bool.not_eq_false, ne_eq] at hno
  obtain ⟨hlen, hbase, hlg4, hlg12, hvec, hrange, hfree⟩ := hno
  exact h ⟨hlen, hbase, hlg4, hlg12, hvec, hrange, hfree⟩

end ring

section get

variable (hcode : fld b 0 1 = 4)
include hcode

theorem exec_sealGet_early (h : s.sec.state ≠ 4) : exec (.sealGet req) s = .next (vendorSend s [1#8]) :=
  (exec_sealGet s).trans ((vendorRow_admitted hup hver hvendor hreq hcode hsync hstage _ _).trans
    (congrArg _ (if_neg (by simp [h]))))

/-- R420: the latest seal of the partition, or NONE. -/
theorem exec_sealGet_running (hrun : s.sec.state = 4) (hlen : b.length = 2) (hpart : fld (b.drop 1) 0 1 < 16) :
    exec (.sealGet req) s = .next (vendorSend s
      (((SGet none s.sec.latest (fld (b.drop 1) 0 1)).map (fun x => [0#8] ++ x.bytes)).getD [3#8])) := by
  refine (exec_sealGet s).trans ((vendorRow_admitted hup hver hvendor hreq hcode hsync hstage _ _).trans
    (congrArg _ ((if_pos (by simp [hrun])).trans ((if_neg ?_).trans ?_))))
  · rw [List.length_drop]; omega
  · cases SGet none s.sec.latest (fld (b.drop 1) 0 1) <;> rfl

end get

end vendor

/-- Settles O49: each event and each request by its next state. -/
theorem epochSeals : Obligations.EpochSeals := by
  refine ⟨fun s p hp hrun hpg hperst hphase hover =>
      ⟨fun hdue => ⟨_, (exec_epochTimeEnd_running hp hrun hpg hperst hphase hover).trans (congrArg _ (if_pos hdue)),
        getPart_endEpoch hover 1, fun q hq => getPart_modPart_ne s _ hq, rfl⟩,
      fun hearly => (exec_epochTimeEnd_running hp hrun hpg hperst hphase hover).trans (congrArg _ (if_neg (Nat.not_le.2 hearly)))⟩,
    fun s p e r hp hrun hpg hended =>
      ⟨_, sealOf s p e, (exec_epochSeal_running hp hrun hpg).trans (congrArg _ (makeSeal_ended hended)), ?sealed⟩,
    fun s p hp hnone => exec_epochSeal_none hp hnone,
    fun s x xs r hstore hring => ⟨fun hno => (exec_sealRingWrite_held hstore hring).trans (congrArg _ (if_pos hno)),
      fun hmay hroom => (exec_sealRingWrite_held hstore hring).trans (congrArg _ (if_neg (by simp [hmay, hroom])))⟩,
    fun s req b hup hver hvendor hreq hsync hstage =>
      ⟨exec_sealRingSet_early hup hver hvendor hreq hsync hstage, fun hcode hrun hlock c hc =>
        ⟨exec_sealRingSet_sound hup hver hvendor hreq hsync hstage hcode hrun hlock hc,
          exec_sealRingSet_unsound hup hver hvendor hreq hsync hstage hcode hrun hlock hc⟩,
        exec_sealGet_early hup hver hvendor hreq hsync hstage, fun hcode hrun hlen hpart => ⟨fun x hx => ?found, fun hx => ?none⟩⟩,
    fun s p e hchain hhead hbm => length_sealBody hchain hhead hbm⟩
  case sealed =>
    refine ⟨?_, ?_, rfl, rfl, rfl, mem_store_storeSeal s.sec _, fun hroom => storeSeal_store hroom _, fun q hq => ?_, rfl, rfl, rfl⟩
    · rw [getPart_modSec, getPart_modPart]
    · rw [modSec_sec, SGet_SSet_self]
    · rw [getPart_modSec, getPart_modPart_ne s _ hq]
  case found => rw [exec_sealGet_running hup hver hvendor hreq hsync hstage hcode hrun hlen hpart, hx]; rfl
  case none => rw [exec_sealGet_running hup hver hvendor hreq hsync hstage hcode hrun hlen hpart, hx]; rfl

end Sys2Proof.Machine
end

section
/-! The SPDM responder: versions, capabilities, algorithms, certificates, challenges and measurements (R409, R417 to R420). -/

namespace Sys2Proof.Machine

/-! ### What a request meets before it is answered (R417) -/

section row

variable {s : State} {req : List Byte} {code : Nat} (hup : spdmUp s = true) (hcode : fld req 1 1 = code)
include hup hcode

theorem spdmRow_version (hver : fld req 0 1 ≠ 0x13) (stage : Nat) (f : State → State) :
    spdmRow code stage req f s = .next (spdmErr s 0x41) := by
  rw [spdmRow, whenB_true _ _ (by simp [hup, hcode]), if_pos hver]

variable (hver : fld req 0 1 = 0x13)
include hver

theorem spdmRow_resync (hsync : s.sec.resync = true) (stage : Nat) (f : State → State) :
    spdmRow code stage req f s = .next (spdmErr s 0x43) := by
  rw [spdmRow, whenB_true _ _ (by simp [hup, hcode]), if_neg (not_not_intro hver), if_pos hsync]

variable (hsync : s.sec.resync = false)
include hsync

theorem spdmRow_early {stage : Nat} (hstage : s.sec.spdm < stage) (f : State → State) :
    spdmRow code stage req f s = .next (spdmErr s 0x04) := by
  rw [spdmRow, whenB_true _ _ (by simp [hup, hcode]), if_neg (not_not_intro hver), hsync, if_neg Bool.false_ne_true, if_pos hstage]

theorem spdmRow_admitted {stage : Nat} (hstage : stage ≤ s.sec.spdm) (f : State → State) :
    spdmRow code stage req f s = .next (f s) := by
  rw [spdmRow, whenB_true _ _ (by simp [hup, hcode]), if_neg (not_not_intro hver), hsync, if_neg Bool.false_ne_true,
    if_neg (Nat.not_lt.2 hstage)]

end row

/-- Each request that the negotiation admits, with its code and its stage. -/
theorem exec_eq_spdmRow {req : List Byte} {x : Instr × Nat × Nat} (hx : x ∈ [(Instr.getCapabilities req, 0xE1, 1),
    (.negotiateAlgorithms req, 0xE3, 2), (.getDigests req, 0x81, 3), (.getCertificate req, 0x82, 3), (.challenge req, 0x83, 3),
    (.getMeasurements req, 0xE0, 3)]) (s : State) : ∃ f, exec x.1 s = spdmRow x.2.1 x.2.2 req f s := by
  simp only [List.mem_cons, List.not_mem_nil, or_false] at hx
  rcases hx with rfl | rfl | rfl | rfl | rfl | rfl
  · exact ⟨_, exec_getCapabilities s⟩
  · exact ⟨_, exec_negotiateAlgorithms s⟩
  · exact ⟨_, exec_getDigests s⟩
  · exact ⟨_, exec_getCertificate s⟩
  · exact ⟨_, exec_challenge s⟩
  · exact ⟨_, exec_getMeasurements s⟩

theorem exec_getVersion_answered {s : State} {req : List Byte} (hup : spdmUp s = true) (hcode : fld req 1 1 = 0x84)
    (hver : fld req 0 1 = 0x10) {r : List Byte}
    (hr : r = leBytes 1 0x10 ++ leBytes 1 0x04 ++ zeros 3 ++ leBytes 1 1 ++ leBytes 2 0x1300) : exec (.getVersion req) s =
    .next { s with sec := { s.sec with
      spdm := 1, resync := false, vca := req ++ r, msgB := [], msgL := [], out := s.sec.out ++ [r] } } := by
  subst hr
  rw [exec_getVersion, execGetVersion, whenB_true _ _ (by simp [hup, hcode]), if_neg (not_not_intro hver)]
  rfl

/-! ### The answers to admitted requests (R417, R418) -/

/-- CAPABILITIES: certificates, challenges and signed measurements. -/
def capabilitiesRsp (s : State) : List Byte := leBytes 1 0x13 ++ leBytes 1 0x61 ++ zeros 3 ++ leBytes 1 (drawFree s).1 ++ zeros 2 ++
  leBytes 4 0x16 ++ leBytes 8 (drawFree (drawFree s).2).1

theorem capabilitiesRsp_fields (s : State) :
    fld (capabilitiesRsp s) 0 1 = 0x13 ∧ fld (capabilitiesRsp s) 1 1 = 0x61 ∧ fld (capabilitiesRsp s) 8 4 = 0x16 := ⟨rfl, rfl, rfl⟩

/-- ALGORITHMS: DMTF measurements, ECDSA P-521 and SHA-512, each when the request offers it. -/
def algorithmsRsp (req : List Byte) : List Byte := leBytes 1 0x13 ++ leBytes 1 0x63 ++ zeros 2 ++ leBytes 2 36 ++
  leBytes 1 (fld req 6 1 % 2) ++ zeros 1 ++ leBytes 4 (8 * (fld req 6 1 % 2)) ++ leBytes 4 (bits (fld req 8 4) 8 1 * 256) ++
  leBytes 4 (bits (fld req 12 4) 2 1 * 4) ++ zeros 16

/-- Nothing else than the two algorithms is selected. -/
theorem algorithmsRsp_fields (req : List Byte) : (algorithmsRsp req).length = 36 ∧ fld (algorithmsRsp req) 1 1 = 0x63 ∧
    (fld (algorithmsRsp req) 12 4 = 0 ∨ fld (algorithmsRsp req) 12 4 = 0x100) ∧
    (fld (algorithmsRsp req) 16 4 = 0 ∨ fld (algorithmsRsp req) 16 4 = 4) := by
  have hasym : fld (algorithmsRsp req) 12 4 = bits (fld req 8 4) 8 1 * 256 % 256 ^ 4 := leNat_leBytes 4 _
  have hhash : fld (algorithmsRsp req) 16 4 = bits (fld req 12 4) 2 1 * 4 % 256 ^ 4 := leNat_leBytes 4 _
  have ha := bits_lt (fld req 8 4) 8 1
  have hh := bits_lt (fld req 12 4) 2 1
  refine ⟨rfl, rfl, ?_, ?_⟩ <;> omega

/-- DIGESTS of the slots that hold a chain. -/
def digestsRsp (s : State) : List Byte := leBytes 1 0x13 ++ leBytes 1 0x01 ++ leBytes 1 (slotMask s) ++ leBytes 1 (slotMask s) ++
  [0, 1].flatMap (fun n => match slotChain s n with | some c => sha512 c | none => [])

theorem fld_digestsRsp (s : State) : fld (digestsRsp s) 3 1 = if s.sec.state = 4 then 3 else 1 := by
  have h : fld (digestsRsp s) 3 1 = slotMask s % 256 ^ 1 := leNat_leBytes 1 _
  rw [h, slotMask]
  split <;> rfl

/-- CERTIFICATE: a portion `p` of the chain of slot `n`, `left` bytes before its end. -/
def certificateRsp (n left : Nat) (p : List Byte) : List Byte := leBytes 1 0x13 ++ leBytes 1 0x02 ++ leBytes 1 n ++ zeros 1 ++
  leBytes 2 p.length ++ leBytes 2 left ++ p

theorem certificateRsp_fields {n : Nat} (hn : n < 16) (left : Nat) (p : List Byte) :
    (certificateRsp n left p).drop 8 = p ∧ fld (certificateRsp n left p) 2 1 = n := by
  have h : fld (certificateRsp n left p) 2 1 = n % 256 ^ 1 := leNat_leBytes 1 _
  exact ⟨rfl, by omega⟩

/-- MEASUREMENTS of one block, without a signature. -/
def measurementRsp (s : State) (req : List Byte) (i : Nat) : List Byte := leBytes 1 0x13 ++ leBytes 1 0x60 ++ leBytes 1 0 ++ zeros 1 ++
  leBytes 1 1 ++ leBytes 3 (measBlock s i).length ++ measBlock s i ++ Config.nonce s.sec.draws ++ zeros 2 ++ (req.drop 4).take 8

theorem measurementRsp_fields (s : State) (req : List Byte) (i : Nat) : fld (measurementRsp s req i) 4 1 = 1 ∧
    (measurementRsp s req i).drop 8 = measBlock s i ++ Config.nonce s.sec.draws ++ zeros 2 ++ (req.drop 4).take 8 := ⟨rfl, rfl⟩

theorem slotChain_none (s : State) {n : Nat} (hn : 2 ≤ n) : slotChain s n = none := by
  rw [slotChain, if_neg (by omega), if_neg (by omega)]

section admitted

variable {s : State} {req : List Byte} (hup : spdmUp s = true) (hver : fld req 0 1 = 0x13) (hsync : s.sec.resync = false)
include hup hver hsync

theorem exec_getCapabilities_admitted (hcode : fld req 1 1 = 0xE1) (hstage : 1 ≤ s.sec.spdm) : exec (.getCapabilities req) s =
    .next (spdmSend (modSec (drawFree (drawFree s).2).2 (fun e => { e with spdm := 2, vca := e.vca ++ req ++ capabilitiesRsp s }))
      (capabilitiesRsp s)) :=
  (exec_getCapabilities s).trans (spdmRow_admitted hup hcode hver hsync hstage _)

theorem exec_negotiateAlgorithms_admitted (hcode : fld req 1 1 = 0xE3) (hstage : 2 ≤ s.sec.spdm) :
    exec (.negotiateAlgorithms req) s =
    .next (spdmSend (modSec s (fun e => { e with spdm := 3, vca := e.vca ++ req ++ algorithmsRsp req })) (algorithmsRsp req)) :=
  (exec_negotiateAlgorithms s).trans (spdmRow_admitted hup hcode hver hsync hstage _)

variable (hstage : 3 ≤ s.sec.spdm)
include hstage

theorem exec_getDigests_admitted (hcode : fld req 1 1 = 0x81) : exec (.getDigests req) s =
    .next (spdmSend (modSec s (fun e => { e with msgB := e.msgB ++ req ++ digestsRsp s })) (digestsRsp s)) :=
  (exec_getDigests s).trans (spdmRow_admitted hup hcode hver hsync hstage _)

theorem exec_getCertificate_noChain (hcode : fld req 1 1 = 0x82) (h : slotChain s (fld req 2 1 % 16) = none) :
    exec (.getCertificate req) s = .next (spdmErr s 0x01) := by
  refine (exec_getCertificate s).trans ((spdmRow_admitted hup hcode hver hsync hstage _).trans ?_)
  dsimp only
  rw [h]

theorem exec_getCertificate_portion (hcode : fld req 1 1 = 0x82) {c p : List Byte} (h : slotChain s (fld req 2 1 % 16) = some c)
    (hoff : fld req 4 2 < c.length) (hp : p = (c.drop (fld req 4 2)).take (fld req 6 2)) : exec (.getCertificate req) s =
    .next (spdmSend (modSec s (fun e => { e with
        msgB := e.msgB ++ req ++ certificateRsp (fld req 2 1 % 16) (c.length - fld req 4 2 - p.length) p }))
      (certificateRsp (fld req 2 1 % 16) (c.length - fld req 4 2 - p.length) p)) := by
  subst hp
  refine (exec_getCertificate s).trans ((spdmRow_admitted hup hcode hver hsync hstage _).trans ?_)
  dsimp only
  rw [h]
  exact congrArg _ (if_neg (Nat.not_le.2 hoff))

theorem exec_challenge_slot (hcode : fld req 1 1 = 0x83) (hslot : fld req 2 1 ≠ 0) :
    exec (.challenge req) s = .next (spdmErr s 0x01) :=
  (exec_challenge s).trans ((spdmRow_admitted hup hcode hver hsync hstage _).trans (congrArg _ (if_pos (.inl hslot))))

/-- A challenge that asks for no summary of measurements draws one nonce and is signed over what the transcript holds. -/
theorem exec_challenge_plain (hcode : fld req 1 1 = 0x83) (hslot : fld req 2 1 = 0) (hkind : fld req 3 1 = 0) {r : List Byte}
    (hr : r = leBytes 1 0x13 ++ leBytes 1 0x03 ++ leBytes 1 0 ++ leBytes 1 (slotMask s) ++ sha512 ((slotChain s 0).getD []) ++
      Config.nonce s.sec.draws ++ zeros 2 ++ (req.drop 36).take 8) : exec (.challenge req) s =
    .next (spdmSend (modSec s (fun e => { e with draws := e.draws + 1, msgB := [] }))
      (r ++ sigBytes Config.dik (spdmToSign ctxChallenge (sha512 (s.sec.vca ++ s.sec.msgB ++ req ++ r))))) := by
  subst hr
  refine (exec_challenge s).trans ((spdmRow_admitted hup hcode hver hsync hstage _).trans (congrArg _ ((if_neg ?_).trans ?_)))
  · simp [hslot, hkind]
  · simp only [hkind, if_pos, Nat.zero_ne_one, if_neg, not_false_eq_true, List.append_nil]
    rfl

theorem exec_getMeasurements_slot (hcode : fld req 1 1 = 0xE0) (hsig : bit (fld req 2 1) 0 = true)
    (hslot : fld req 36 1 % 16 ≠ 0) : exec (.getMeasurements req) s = .next (spdmErr s 0x01) :=
  (exec_getMeasurements s).trans ((spdmRow_admitted hup hcode hver hsync hstage _).trans (congrArg _ (if_pos (.inl ⟨hsig, hslot⟩))))

/-- R418: one block, asked for without a signature. -/
theorem exec_getMeasurements_block (hcode : fld req 1 1 = 0xE0) (hsig : bit (fld req 2 1) 0 = false) (h1 : 1 ≤ fld req 3 1)
    (h5 : fld req 3 1 ≤ 5) : exec (.getMeasurements req) s =
    .next (spdmSend (modSec s (fun e => { e with draws := e.draws + 1, msgL := e.msgL ++ req ++ measurementRsp s req (fld req 3 1) }))
      (measurementRsp s req (fld req 3 1))) := by
  have h0 : fld req 3 1 ≠ 0 := by omega
  have hall : fld req 3 1 ≠ 255 := by omega
  refine (exec_getMeasurements s).trans ((spdmRow_admitted hup hcode hver hsync hstage _).trans (congrArg _ ((if_neg ?_).trans ?_)))
  · rw [hsig]; simp [hall]; omega
  · simp only [hsig, if_neg h0, if_neg hall, List.flatMap_cons, List.flatMap_nil, List.append_nil, Bool.false_eq_true, if_false]
    rfl

theorem exec_bootStatus_admitted {b : List Byte} (hvendor : fld req 1 1 = 0xFE) (hreq : vendorReq req = some b)
    (hcode : fld b 0 1 = 2) (hlen : b.length = 1) : exec (.bootStatus req) s =
    .next (vendorSend s ([0#8] ++ leBytes 1 s.sec.state ++ zeros 7 ++ leBytes 8 s.sec.tick ++
      (if s.sec.bm.isEmpty then zeros 64 else s.sec.bm))) :=
  (exec_bootStatus s).trans ((vendorRow_admitted hup hver hvendor hreq hcode hsync hstage _ _).trans
    (congrArg _ ((if_pos rfl).trans (if_neg (by simp [hlen])))))

end admitted

/-! ### Codes outside R417 -/

theorem exec_spdmUnsupportedRequest_unknown {s : State} {req : List Byte} (hup : spdmUp s = true)
    (hcode : fld req 1 1 ∉ [0x84, 0xE1, 0xE3, 0x81, 0x82, 0x83, 0xE0, 0xFE]) (hsync : s.sec.resync = false) :
    exec (.spdmUnsupportedRequest req) s = .next (spdmErr s 0x07) := by
  simp only [List.mem_cons, List.not_mem_nil, or_false, not_or] at hcode
  obtain ⟨h84, hE1, hE3, h81, h82, h83, hE0, hFE⟩ := hcode
  rw [exec_spdmUnsupportedRequest, execSpdmUnsupportedRequest]
  rw [whenB_true _ _ (by simp [hup, h84, hE1, hE3, h81, h82, h83, hE0, hFE]), hsync, if_neg Bool.false_ne_true,
    if_neg fun h => hFE h.1]

/-- R418: the value of each measurement block. -/
theorem measValue_blocks (s : State) : measValue s 1 = Config.romDigest ∧ (s.sec.bm = [] → measValue s 2 = zeros 64) ∧
    (s.sec.bm ≠ [] → measValue s 2 = s.sec.bm) ∧ (s.host.lock = false → measValue s 3 = zeros 64) ∧
    (s.host.lock = true → measValue s 3 = s.sec.lockDigest) ∧ (s.pew.applied = none → measValue s 4 = zeros 64) ∧
    (∀ pl, s.pew.applied = some pl → measValue s 4 = sha512 pl) ∧ measValue s 5 = sha512 (settingsForce s) := by
  refine ⟨rfl, fun h => ?_, fun h => ?_, fun h => ?_, fun h => ?_, fun h => ?_, fun pl h => ?_, rfl⟩ <;> simp [measValue, h]

/-- Settles O48: each request by its next state. -/
theorem attestation : Obligations.Attestation := by
  refine ⟨?refused, fun s code => rfl, fun s req r hup hcode hver hr => exec_getVersion_answered hup hcode hver hr,
    fun s req hup hver hsync h1 => ⟨
      fun hcode => ⟨_, capabilitiesRsp s, exec_getCapabilities_admitted hup hver hsync hcode h1, ?capabilities⟩,
      fun hcode h2 => ⟨_, algorithmsRsp req, exec_negotiateAlgorithms_admitted hup hver hsync hcode h2, ?algorithms⟩⟩,
    fun s req hup hver hsync h3 => ⟨
      fun hcode => ⟨_, _, exec_getDigests_admitted hup hver hsync h3 hcode, rfl, fld_digestsRsp s, rfl, rfl⟩,
      ?certificate, exec_challenge_slot hup hver hsync h3,
      fun hcode hslot hkind => ⟨_, _, exec_challenge_plain hup hver hsync h3 hcode hslot hkind rfl, rfl, rfl, rfl, rfl, rfl⟩,
      exec_getMeasurements_slot hup hver hsync h3,
      fun hcode hsig hlo hhi => ⟨_, measurementRsp s req (fld req 3 1),
        exec_getMeasurements_block hup hver hsync h3 hcode hsig hlo hhi, ?measurements⟩⟩,
    measValue_blocks, fun s n hn => slotChain_none s hn,
    fun s req hup hcode hsync => exec_spdmUnsupportedRequest_unknown hup hcode hsync,
    fun s req b hup hver hvendor hreq hcode hlen hsync h3 => exec_bootStatus_admitted hup hver hsync h3 hvendor hreq hcode hlen⟩
  case refused =>
    intro s req x hx hup hcode
    obtain ⟨f, hf⟩ := exec_eq_spdmRow hx s
    rw [hf]
    exact ⟨fun hver => spdmRow_version hup hcode hver _ f, fun hver hsync => spdmRow_resync hup hcode hver hsync _ f,
      fun hver hsync hstage => spdmRow_early hup hcode hver hsync hstage f⟩
  case capabilities =>
    obtain ⟨hversion, hrsp, hflags⟩ := capabilitiesRsp_fields s
    exact ⟨rfl, hversion, hrsp, hflags, rfl, rfl, rfl, rfl⟩
  case algorithms =>
    obtain ⟨hlen, hrsp, hasym, hhash⟩ := algorithmsRsp_fields req
    exact ⟨rfl, hlen, hrsp, hasym, hhash, rfl, rfl, rfl⟩
  case certificate =>
    rintro hcode n rfl
    refine ⟨exec_getCertificate_noChain hup hver hsync h3 hcode, fun c p hc hoff hp =>
      ⟨_, certificateRsp (fld req 2 1 % 16) (c.length - fld req 4 2 - p.length) p,
        exec_getCertificate_portion hup hver hsync h3 hcode hc hoff hp, ?_⟩⟩
    obtain ⟨hportion, hslot⟩ := certificateRsp_fields (Nat.mod_lt (fld req 2 1) (by decide : 0 < 16))
      (c.length - fld req 4 2 - p.length) p
    exact ⟨rfl, hportion, hslot, rfl, rfl, rfl⟩
  case measurements =>
    obtain ⟨hcount, hrecord⟩ := measurementRsp_fields s req (fld req 3 1)
    exact ⟨rfl, hcount, hrecord, rfl, rfl, rfl⟩

end Sys2Proof.Machine
end

section
/-! Pewter: standby power, the tray, the heartbeat and the rack manager's messages (R393, R428 to R437, R447, R463). -/

namespace Sys2Proof.Machine

/-! ### Entries of a list -/

theorem not_not_contains {α : Type} [BEq α] [LawfulBEq α] {x : α} {l : List α} (h : x ∈ l) : ¬ (!l.contains x) = true := by
  rw [List.contains_iff_mem.2 h]; decide

/-- An entry that is put into a list once. -/
theorem mem_insertOnce {α : Type} [BEq α] [LawfulBEq α] (x : α) (l : List α) : x ∈ (if l.contains x then l else l ++ [x]) := by
  split
  next h => exact List.contains_iff_mem.1 h
  next => exact List.mem_append_right l (List.mem_singleton_self x)

/-! ### What a change of LIMIT leaves of Pewter (R393, R395, R429) -/

theorem ibiCheck_dynAddr (s : State) : (ibiCheck s).pew.dynAddr = s.pew.dynAddr := by rw [ibiCheck_rest]

theorem ite_touchAll_pew (c : Prop) [Decidable c] (s : State) : (if c then touchAll s else s).pew = s.pew := by
  split
  · exact touchAll_pew s
  · rfl

/-- Of Pewter, entry to floor pace changes the log of caps and the in-band interrupts. -/
theorem enterFloor_pew (s : State) (tj : Bool) (cap : Option Nat) : ∃ l k m i, (enterFloor s tj cap).pew =
    { s.pew with capLog := l, capNext := k, mstatSeen := m, ibis := i } := by
  unfold enterFloor
  split
  · exact ⟨_, _, _, _, rfl⟩
  · split
    · exact ⟨_, _, _, _, rfl⟩
    · dsimp only
      rw [ibiCheck_rest]
      cases cap with
      | none => exact ⟨_, _, _, _, by dsimp only; rw [ite_touchAll_pew]; rfl⟩
      | some c => exact ⟨_, _, _, _, by dsimp only; rw [modPew_pew, ite_touchAll_pew]; rfl⟩

theorem limitChanged_pew (s : State) (c : Nat) : ∃ l k m i, (limitChanged s c).pew =
    { s.pew with capLog := l, capNext := k, mstatSeen := m, ibis := i } := by
  unfold limitChanged
  split
  · exact enterFloor_pew s _ _
  · exact ⟨_, _, _, _, rfl⟩

theorem limitChanged_within_self (s : State) (c : Nat) : Within [.parts, .power, .pew] s (limitChanged s c) :=
  limitChanged_within (by decide) (by decide) (by decide) (.refl _ s)

theorem ibiCheck_limitChanged_pew (s : State) (c : Nat) : ∃ l k m i, (ibiCheck (limitChanged s c)).pew =
    { s.pew with capLog := l, capNext := k, mstatSeen := m, ibis := i } := by
  obtain ⟨l, k, m, i, h⟩ := limitChanged_pew s c
  rw [ibiCheck_rest, h]
  exact ⟨_, _, _, _, rfl⟩

theorem ibiCheck_limitChanged_within (s : State) (c : Nat) : Within [.parts, .power, .pew] s (ibiCheck (limitChanged s c)) :=
  ibiCheck_within (by decide) (limitChanged_within_self s c)

/-! ### Standby power and the tray (R428, R429, R447) -/

theorem exec_standbyUp_off {s : State} (h : s.pew.standby = false) (ga : Nat) : exec (.standbyUp ga) s = .next
    (modPow (setStandby (modPew s (fun w => { standby := true, ready := false, fresh := true, ga := ga % 64, out := w.out })) 0)
      (fun w => { w with needCycle := false, railFault := false, pstate := .off })) := by
  rw [exec_standbyUp, execStandbyUp, whenB_true _ _ (by rw [h]; rfl)]

/-- R428: without standby power Pewter is as it was made. -/
def darkened (s : State) : State :=
  modPow (modPew s (fun w => { standby := false, ready := false, out := w.out })) (fun w => { w with needCycle := false, pstate := .off })

theorem exec_standbyLoss_on {s : State} (h : s.pew.standby = true) :
    exec .standbyLoss s = .next (darkened (if s.power.pg then mainLost s .tripped else s)) := by
  rw [exec_standbyLoss, execStandbyLoss, whenB_true _ _ h]
  rfl

section tray

variable {s : State} (hs : s.pew.standby = true) (hr : s.pew.ready = true)
include hs hr

section address

variable {a : Nat} (ha : a < 128)
include ha

theorem exec_setdasa_free (h : s.pew.dynAddr = none) :
    exec (.setdasa a) s = .next (ibiCheck (modPew s (fun w => { w with dynAddr := some a }))) := by
  rw [exec_setdasa, execSetdasa, whenB_true _ _ (by simp [hs, hr, h, ha])]

theorem exec_entdaa_free (h : s.pew.dynAddr = none) :
    exec (.entdaa a) s = .next (ibiCheck (modPew s (fun w => { w with dynAddr := some a }))) := by
  rw [exec_entdaa, execEntdaa, whenB_true _ _ (by simp [hs, hr, h, ha])]

omit hs hr ha in
theorem exec_setdasa_assigned (h : s.pew.dynAddr.isSome) : exec (.setdasa a) s = .next s := by
  rw [exec_setdasa, execSetdasa, whenB_false _ _ (by simp [Option.isNone_eq_false_iff.2 h])]

omit hs hr ha in
theorem exec_entdaa_assigned (h : s.pew.dynAddr.isSome) : exec (.entdaa a) s = .next s := by
  rw [exec_entdaa, execEntdaa, whenB_false _ _ (by simp [Option.isNone_eq_false_iff.2 h])]

end address

theorem exec_i3cIndexWrite_ready {i : Nat} (hi : i < 256) :
    exec (.i3cIndexWrite i) s = .next (ibiCheck (modPew s (fun w => { w with index := i }))) := by
  rw [exec_i3cIndexWrite, execI3cIndexWrite, whenB_true _ _ (by simp [hs, hr, hi])]

theorem exec_i3cRegisterWrite_ready {i : Nat} (hi : i < 256) (v : Dword) : exec (.i3cRegisterWrite i v) s =
    .next (ibiCheck (modPew s (fun w => { w with index := i, tctl := if i = 3 then v &&& 1 else w.tctl }))) := by
  rw [exec_i3cRegisterWrite, execI3cRegisterWrite, whenB_true _ _ (by simp [hs, hr, hi])]

theorem exec_heartbeatLost_beating (hb : s.pew.hbLost = false) : exec .heartbeatLost s =
    .next (if s.pew.beat.getD s.pew.readyAt + 200000000 ≤ s.sbTick then
      ibiCheck (limitChanged (modPew s (fun w => { w with hbLost := true })) 3) else s) := by
  rw [exec_heartbeatLost, execHeartbeatLost, whenB_due (by simp [hs, hr, hb])]

end tray

/-! ### What becomes of a message (R433, R434) -/

theorem pewParse_drop {m : List Byte} (h : 24 ≤ m.length → fld m 0 4 ≠ 0x53574550 ∨ 0x80 ≤ fld m 4 1 ∨
    fld m 0x10 8 ≠ Config.serial.toNat) : pewParse m = .drop := by
  unfold pewParse
  refine if_pos ?_
  by_cases hlen : m.length < 24
  · exact .inl hlen
  · exact .inr (h (Nat.not_lt.1 hlen))

theorem pewParse_malformed_iff (m : List Byte) : pewParse m = .malformed ↔ 24 ≤ m.length ∧ fld m 0 4 = 0x53574550 ∧
    fld m 4 1 < 0x80 ∧ fld m 0x10 8 = Config.serial.toNat ∧ ¬ (pewLen (fld m 4 1) (m.drop 24) = some (m.length - 24) ∧
      fld m 6 2 = m.length - 24 ∧ zeroAt m 5 1 = true ∧ zeroAt m 0x0C 4 = true ∧ pewZero (fld m 4 1) (m.drop 24) = true) := by
  unfold pewParse
  dsimp only
  rw [List.length_drop]
  by_cases hd : m.length < 24 ∨ fld m 0 4 ≠ 0x53574550 ∨ 0x80 ≤ fld m 4 1 ∨ fld m 0x10 8 ≠ Config.serial.toNat
  · rw [if_pos hd]
    refine iff_of_false (by simp) fun ⟨hlen, hsig, htype, hserial, _⟩ => ?_
    rcases hd with h | h | h | h
    · omega
    · exact h hsig
    · omega
    · exact h hserial
  · rw [if_neg hd]
    simp only [not_or, Nat.not_lt, Nat.not_le, ne_eq, not_not] at hd
    obtain ⟨hlen, hsig, htype, hserial⟩ := hd
    split
    next hbad =>
      refine iff_of_true rfl ⟨hlen, hsig, htype, hserial, fun ⟨hl, hn, h5, hC, hz⟩ => ?_⟩
      simp [hl, hn, h5, hC, hz] at hbad
    next hgood =>
      refine iff_of_false (by simp) fun ⟨_, _, _, _, hbad⟩ => hbad ?_
      simp only [not_or, ne_eq, not_not, Bool.not_eq_true', Bool.not_eq_false] at hgood
      exact hgood

theorem exec_rackManagerMalformed_eq_pewRow (m : List Byte) (s : State) :
    exec (.rackManagerMalformed m) s = pewRow (fld m 4 1) m (fun _ s => s) s := by
  rw [exec_rackManagerMalformed, execRackManagerMalformed, pewRow, beq_self_eq_true, Bool.and_true]

/-- R437: a unit whose return waits for the next start. -/
def returnNoted (s : State) (u n : Nat) : State := modPew s (fun w => { w with
  returns := if w.returns.contains (u, n) then w.returns else w.returns ++ [(u, n)] })

/-- R437: a unit that is put forward for its test, under power. -/
def returnBegun (s : State) (u n : Nat) : State :=
  let e := ((partOfUnit s u n).getD 16, u, n)
  modEng s (fun g => { g with returning := if g.returning.contains e then g.returning else g.returning ++ [e] })

/-- Each request of the rack manager, with its type. -/
theorem exec_eq_pewRow {m : List Byte} {x : Instr × Nat} (hx : x ∈ [(Instr.heartbeat m, 1), (.settingsPut m, 2), (.planPut m, 3),
    (.telemGet m, 4), (.logGet m, 5), (.returnUnit m, 6), (.settingsGet m, 7), (.rackManagerMalformed m, fld m 4 1)]) (s : State) :
    ∃ f, exec x.1 s = pewRow x.2 m f s := by
  simp only [List.mem_cons, List.not_mem_nil, or_false] at hx
  rcases hx with rfl | rfl | rfl | rfl | rfl | rfl | rfl | rfl
  · exact ⟨_, exec_heartbeat s⟩
  · exact ⟨_, exec_settingsPut s⟩
  · exact ⟨_, exec_planPut s⟩
  · exact ⟨_, exec_telemGet s⟩
  · exact ⟨_, exec_logGet s⟩
  · exact ⟨_, exec_returnUnit s⟩
  · exact ⟨_, exec_settingsGet s⟩
  · exact ⟨_, exec_rackManagerMalformed_eq_pewRow m s⟩

section requests

variable {s : State} (hs : s.pew.standby = true) (hr : s.pew.ready = true)
include hs hr

theorem pewAnswer_ready (m : List Byte) (st : Nat) (p : List Byte) : pewAnswer s m st p =
    { s with pew := { s.pew with out := s.pew.out ++ [pewMsg (fld m 4 1 + 0x80) st (fld m 8 4) p] } } := by
  rw [pewAnswer, pewSend, hs, hr]
  rfl

section row

variable {m : List Byte} {type : Nat} (htype : fld m 4 1 = type)
include htype

theorem pewRow_dropped (h : pewParse m = .drop) (f : List Byte → State → State) : pewRow type m f s =
    .next { s with pew := { s.pew with discarded := s.pew.discarded + 1 } } := by
  rw [pewRow, whenB_true _ _ (by simp [hs, hr, htype]), h]
  rfl

theorem pewRow_malformed (h : pewParse m = .malformed) (f : List Byte → State → State) : pewRow type m f s =
    .next { s with pew := { s.pew with out := s.pew.out ++ [pewMsg (fld m 4 1 + 0x80) 1 (fld m 8 4) []] } } := by
  rw [pewRow, whenB_true _ _ (by simp [hs, hr, htype]), h, ← pewAnswer_ready hs hr]

theorem pewRow_sound {b : List Byte} (h : pewParse m = .ok b) (f : List Byte → State → State) :
    pewRow type m f s = .next (f b s) := by
  rw [pewRow, whenB_true _ _ (by simp [hs, hr, htype]), h]

end row

/-! ### Requests answered (R393, R433 to R437) -/

variable {m b : List Byte} (hb : pewParse m = .ok b)
include hb

theorem exec_heartbeat_sound (htype : fld m 4 1 = 1) : ∃ t, exec (.heartbeat m) s = .next t ∧ t.pew.beat = some s.sbTick ∧
    t.pew.hbLost = false ∧ t.pew.out = s.pew.out ++ [pewMsg (fld m 4 1 + 0x80) 0 (fld m 8 4) []] ∧ t.host = s.host ∧ t.mem = s.mem ∧
    t.eng = s.eng := by
  refine ⟨_, (exec_heartbeat s).trans (pewRow_sound hs hr htype hb _), ?_⟩
  have hframe := ibiCheck_limitChanged_within (modPew s (fun w => { w with beat := some s.sbTick, hbLost := false })) 2
  obtain ⟨l, k, ms, i, hpew⟩ := ibiCheck_limitChanged_pew (modPew s (fun w => { w with beat := some s.sbTick, hbLost := false })) 2
  rw [pewAnswer_ready (by rw [hpew]; exact hs) (by rw [hpew]; exact hr), hpew]
  exact ⟨rfl, rfl, rfl, hframe.host.resolve_left (by decide), hframe.mem.resolve_left (by decide),
    hframe.eng.resolve_left (by decide)⟩

theorem exec_settingsPut_kept (htype : fld m 4 1 = 2) (hok : settingsOk b = true) : ∃ t, exec (.settingsPut m) s = .next t ∧
    t.pew.settings = some b ∧ t.pew.out = s.pew.out ++ [pewMsg (fld m 4 1 + 0x80) 0 (fld m 8 4) []] ∧ t.host = s.host ∧
    t.mem = s.mem ∧ t.eng = s.eng := by
  refine ⟨_, (exec_settingsPut s).trans ((pewRow_sound hs hr htype hb _).trans (congrArg _ (if_pos hok))), ?_⟩
  have hframe := limitChanged_within_self (modPew s (fun w => { w with settings := some b })) (if s.pew.hbLost then 3 else 2)
  obtain ⟨l, k, ms, i, hpew⟩ := limitChanged_pew (modPew s (fun w => { w with settings := some b })) (if s.pew.hbLost then 3 else 2)
  rw [pewAnswer_ready (by rw [hpew]; exact hs) (by rw [hpew]; exact hr), hpew]
  exact ⟨rfl, rfl, hframe.host.resolve_left (by decide), hframe.mem.resolve_left (by decide), hframe.eng.resolve_left (by decide)⟩

theorem exec_settingsPut_refused (htype : fld m 4 1 = 2) (hok : settingsOk b = false) : exec (.settingsPut m) s =
    .next { s with pew := { s.pew with out := s.pew.out ++ [pewMsg (fld m 4 1 + 0x80) 2 (fld m 8 4) []] } } := by
  refine (exec_settingsPut s).trans ((pewRow_sound hs hr htype hb _).trans (congrArg _ ((if_neg ?_).trans (pewAnswer_ready hs hr _ _ _))))
  simp [hok]

section plan

variable (htype : fld m 4 1 = 3)
include htype

theorem exec_planPut_first (h0 : fld b 0 2 = 0) : exec (.planPut m) s = .next { s with pew := { s.pew with
    xfer := some (1, b.drop 4), out := s.pew.out ++ [pewMsg (fld m 4 1 + 0x80) 0 (fld m 8 4) []] } } := by
  refine (exec_planPut s).trans ((pewRow_sound hs hr htype hb _).trans (congrArg _ ?_))
  dsimp only
  rw [h0]
  exact pewAnswer_ready (s := modPew s (fun w => { w with xfer := some (1, b.drop 4) })) hs hr m 0 []

/-- R435: a chunk out of its order ends the transfer. -/
theorem exec_planPut_outOfOrder (h0 : fld b 0 2 ≠ 0) (hx : ∀ g, s.pew.xfer ≠ some (fld b 0 2, g)) : exec (.planPut m) s =
    .next { s with pew := { s.pew with
      xfer := none, out := s.pew.out ++ [pewMsg (fld m 4 1 + 0x80) 1 (fld m 8 4) []] } } := by
  refine (exec_planPut s).trans ((pewRow_sound hs hr htype hb _).trans (congrArg _ ?_))
  dsimp only
  rw [if_neg h0]
  refine Eq.trans ?_ (pewAnswer_ready (s := modPew s (fun w => { w with xfer := none })) hs hr m 1 [])
  cases hg : s.pew.xfer with
  | none => rfl
  | some x =>
    have hn : x.1 ≠ fld b 0 2 := fun h => hx x.2 (by rw [hg, ← h])
    dsimp only
    rw [if_neg hn]

section held

variable {g : List Byte} (hx : s.pew.xfer = some (fld b 0 2, g))
include hx

theorem exec_planPut_next (h0 : fld b 0 2 ≠ 0) (h16 : fld b 0 2 < 16) : exec (.planPut m) s = .next { s with pew := { s.pew with
    xfer := some (fld b 0 2 + 1, g ++ b.drop 4), out := s.pew.out ++ [pewMsg (fld m 4 1 + 0x80) 0 (fld m 8 4) []] } } := by
  refine (exec_planPut s).trans ((pewRow_sound hs hr htype hb _).trans (congrArg _ ?_))
  dsimp only
  rw [if_neg h0, hx]
  dsimp only
  rw [if_pos rfl]
  dsimp only
  rw [if_pos h16]
  exact pewAnswer_ready (s := modPew s (fun w => { w with xfer := some (fld b 0 2 + 1, g ++ b.drop 4) })) hs hr m 0 []

variable (h16 : fld b 0 2 = 16)
include h16

/-- R435: the last chunk, its plan checked. -/
theorem exec_planPut_last : exec (.planPut m) s = .next (((planCheck (g ++ b.drop 4)).map (fun k =>
      pewAnswer (modPew s (fun w => { w with xfer := none })) m 2 (leBytes 1 k))).getD
    (pewAnswer (modPew (modPew s (fun w => { w with xfer := none })) (fun w => { w with plan := some (g ++ b.drop 4) })) m 0 [])) := by
  refine (exec_planPut s).trans ((pewRow_sound hs hr htype hb _).trans (congrArg _ ?_))
  dsimp only
  rw [if_neg (by omega), hx]
  dsimp only
  rw [if_pos rfl]
  dsimp only
  rw [if_neg (by omega)]
  cases planCheck (g ++ b.drop 4) <;> rfl

theorem exec_planPut_accepted (hc : planCheck (g ++ b.drop 4) = none) : exec (.planPut m) s = .next { s with pew := { s.pew with
    xfer := none, plan := some (g ++ b.drop 4), out := s.pew.out ++ [pewMsg (fld m 4 1 + 0x80) 0 (fld m 8 4) []] } } := by
  rw [exec_planPut_last hs hr hb htype hx h16, hc]
  exact congrArg _ (pewAnswer_ready
    (s := modPew (modPew s (fun w => { w with xfer := none })) (fun w => { w with plan := some (g ++ b.drop 4) })) hs hr m 0 [])

theorem exec_planPut_refused {k : Nat} (hc : planCheck (g ++ b.drop 4) = some k) : exec (.planPut m) s = .next { s with pew := {
    s.pew with xfer := none, out := s.pew.out ++ [pewMsg (fld m 4 1 + 0x80) 2 (fld m 8 4) (leBytes 1 k)] } } := by
  rw [exec_planPut_last hs hr hb htype hx h16, hc]
  exact congrArg _ (pewAnswer_ready (s := modPew s (fun w => { w with xfer := none })) hs hr m 2 (leBytes 1 k))

end held

end plan

section logs

variable (htype : fld m 4 1 = 5)
include htype

theorem exec_logGet_faults (h : fld b 0 1 = 0) : exec (.logGet m) s = .next { s with pew := { s.pew with out := s.pew.out ++
    [pewMsg (fld m 4 1 + 0x80) 0 (fld m 8 4) (logBytes s.pew.faultLog s.pew.faultNext (fld b 8 8) faultBytes)] } } :=
  (exec_logGet s).trans ((pewRow_sound hs hr htype hb _).trans (congrArg _ ((if_pos h).trans (pewAnswer_ready hs hr _ _ _))))

theorem exec_logGet_caps (h : fld b 0 1 = 1) : exec (.logGet m) s = .next { s with pew := { s.pew with out := s.pew.out ++
    [pewMsg (fld m 4 1 + 0x80) 0 (fld m 8 4) (logBytes s.pew.capLog s.pew.capNext (fld b 8 8) capBytes)] } } :=
  (exec_logGet s).trans ((pewRow_sound hs hr htype hb _).trans (congrArg _
    ((if_neg (by omega)).trans ((if_pos h).trans (pewAnswer_ready hs hr _ _ _)))))

theorem exec_logGet_unknown (h : 3 ≤ fld b 0 1) : exec (.logGet m) s = .next { s with pew := { s.pew with out := s.pew.out ++
    [pewMsg (fld m 4 1 + 0x80) 1 (fld m 8 4) []] } } :=
  (exec_logGet s).trans ((pewRow_sound hs hr htype hb _).trans (congrArg _
    ((if_neg (by omega)).trans ((if_neg (by omega)).trans ((if_neg (by omega)).trans (pewAnswer_ready hs hr _ _ _))))))

end logs

theorem exec_settingsGet_sound (htype : fld m 4 1 = 7) : exec (.settingsGet m) s = .next { s with pew := { s.pew with
    out := s.pew.out ++ [pewMsg (fld m 4 1 + 0x80) 0 (fld m 8 4) (settingsForce s ++ settingsNow s)] } } :=
  (exec_settingsGet s).trans ((pewRow_sound hs hr htype hb _).trans (congrArg _ (pewAnswer_ready hs hr _ _ _)))

section back

variable (htype : fld m 4 1 = 6) {u n : Nat} (hu : u = fld b 0 1) (hn : n = fld b 2 2)
  (hmem : u ∈ [utCore, utCobalt, utCopper, utSlice, utGroup, utPort])
include htype hu hn hmem

/-- R437: no unit returns in a thermal stop or a power-fail sequence, nor one that is not fenced. -/
theorem exec_returnUnit_refused
    (h : s.power.tstop = true ∨ s.power.pfwAt.isSome ∨ (u ≠ utPort ∧ (u, n) ∉ s.pew.fence)) : exec (.returnUnit m) s =
    .next { s with pew := { s.pew with out := s.pew.out ++ [pewMsg (fld m 4 1 + 0x80) 3 (fld m 8 4) []] } } := by
  subst hu hn
  refine (exec_returnUnit s).trans ((pewRow_sound hs hr htype hb _).trans (congrArg _ ((if_neg (not_not_contains hmem)).trans ?_)))
  rw [← pewAnswer_ready hs hr m 3 []]
  by_cases hstop : s.power.tstop = true ∨ s.power.pfwAt.isSome
  · exact if_pos hstop
  · obtain ⟨hport, hfence⟩ := (or_assoc.2 h).resolve_left hstop
    exact (if_neg hstop).trans ((if_neg hport).trans (if_pos (by simpa using hfence)))

variable (hstop : s.power.tstop = false) (hpfw : s.power.pfwAt = none)
include hstop hpfw

theorem exec_returnUnit_port (hport : u = utPort) (h16 : n < 16) (hf : (getPort s n).state = .fenced) : exec (.returnUnit m) s =
    .next (pewAnswer (portTo s n .training) m 0 []) := by
  subst hn
  refine (exec_returnUnit s).trans ((pewRow_sound hs hr htype hb _).trans (congrArg _ ((if_neg (not_not_contains (hu ▸ hmem))).trans ?_)))
  exact (if_neg (by simp [hstop, hpfw])).trans ((if_pos (hu.symm.trans hport)).trans (if_pos ⟨h16, hf⟩))

variable (hport : u ≠ utPort) (hfence : (u, n) ∈ s.pew.fence)
include hport hfence

theorem exec_returnUnit_unpowered (hpg : s.power.pg = false) : exec (.returnUnit m) s =
    .next (pewAnswer (returnNoted s u n) m 0 []) := by
  subst hu hn
  refine (exec_returnUnit s).trans ((pewRow_sound hs hr htype hb _).trans (congrArg _ ((if_neg (not_not_contains hmem)).trans ?_)))
  exact (if_neg (by simp [hstop, hpfw])).trans ((if_neg hport).trans ((if_neg (not_not_contains hfence)).trans (if_pos (by simp [hpg]))))

theorem exec_returnUnit_powered (hpg : s.power.pg = true) : exec (.returnUnit m) s =
    .next (pewAnswer (returnBegun s u n) m 0 []) := by
  subst hu hn
  refine (exec_returnUnit s).trans ((pewRow_sound hs hr htype hb _).trans (congrArg _ ((if_neg (not_not_contains hmem)).trans ?_)))
  exact (if_neg (by simp [hstop, hpfw])).trans ((if_neg hport).trans ((if_neg (not_not_contains hfence)).trans (if_neg (by simp [hpg]))))

end back

end requests

/-- Settles O50: each event of Pewter and each message by its next state. -/
theorem pewterAndItsMessages : Obligations.PewterAndItsMessages := by
  refine ⟨fun s ga hoff => ⟨_, exec_standbyUp_off hoff ga, rfl, rfl, rfl, rfl, rfl⟩, ?ready,
    fun s hs => ⟨_, exec_standbyLoss_on hs, ?loss⟩,
    fun s a hs hr ha => ⟨fun hfree => ⟨_, exec_setdasa_free hs hr ha hfree, exec_entdaa_free hs hr ha hfree, ?assigned⟩,
      fun h => ⟨exec_setdasa_assigned h, exec_entdaa_assigned h⟩⟩,
    fun s i v hs hr hi => ⟨⟨_, exec_i3cIndexWrite_ready hs hr hi, ibiCheck_rest _⟩,
      _, exec_i3cRegisterWrite_ready hs hr hi v, ibiCheck_rest _⟩,
    fun s hs hr hbeat => ⟨fun hdue => ⟨_, (exec_heartbeatLost_beating hs hr hbeat).trans (congrArg _ (if_pos hdue)), ?lost⟩,
      fun hearly => (exec_heartbeatLost_beating hs hr hbeat).trans (congrArg _ (if_neg (Nat.not_le.2 hearly)))⟩,
    ?refused, ?judged, pewParse_malformed_iff, ?answered⟩
  case ready =>
    intro s hs hr
    rw [exec_pewterReady, execPewterReady, whenB_true _ _ (by simp [hs, hr])]
    rfl
  case loss =>
    cases hpg : s.power.pg with
    | true => exact ⟨rfl, rfl, fun _ => ⟨rfl, rfl, rfl⟩, fun h => by cases h⟩
    | false => exact ⟨rfl, rfl, fun h => (by cases h), fun _ => ⟨rfl, rfl⟩⟩
  case assigned => rw [ibiCheck_dynAddr]; rfl
  case lost =>
    have hframe := ibiCheck_limitChanged_within (modPew s (fun w => { w with hbLost := true })) 3
    obtain ⟨l, k, m, i, hpew⟩ := ibiCheck_limitChanged_pew (modPew s (fun w => { w with hbLost := true })) 3
    rw [hpew]
    exact ⟨rfl, hframe.host.resolve_left (by decide), hframe.mem.resolve_left (by decide), hframe.eng.resolve_left (by decide)⟩
  case refused =>
    intro s m x hs hr hx htype
    obtain ⟨f, hf⟩ := exec_eq_pewRow hx s
    rw [hf]
    exact ⟨fun h => pewRow_dropped hs hr htype (pewParse_drop h) f, fun h => pewRow_malformed hs hr htype h f⟩
  case judged =>
    intro s m hs hr
    rw [exec_rackManagerMalformed_eq_pewRow]
    exact ⟨fun h => pewRow_malformed hs hr rfl h _, fun h => pewRow_dropped hs hr rfl h _, fun b h => pewRow_sound hs hr rfl h _⟩
  case answered =>
    intro s m b ans hs hr hb hans
    obtain rfl : ans = fun st p => pewMsg (fld m 4 1 + 0x80) st (fld m 8 4) p := funext fun st => funext (hans st)
    refine ⟨exec_heartbeat_sound hs hr hb, fun h2 => ⟨exec_settingsPut_kept hs hr hb h2, exec_settingsPut_refused hs hr hb h2⟩,
      ?plan, ?telemetry, fun h5 => ⟨exec_logGet_faults hs hr hb h5, exec_logGet_caps hs hr hb h5, exec_logGet_unknown hs hr hb h5⟩,
      exec_settingsGet_sound hs hr hb, ?back⟩
    case plan =>
      rintro h3 n rfl
      exact ⟨exec_planPut_first hs hr hb h3, exec_planPut_outOfOrder hs hr hb h3,
        fun g hpos h16 hx => exec_planPut_next hs hr hb h3 hx (Nat.pos_iff_ne_zero.1 hpos) h16,
        fun g h16 hx => ⟨exec_planPut_accepted hs hr hb h3 hx h16, fun k => exec_planPut_refused hs hr hb h3 hx h16⟩⟩
    case telemetry =>
      intro h4
      refine (exec_telemGet s).trans ((pewRow_sound hs hr h4 hb _).trans (congrArg _ ?_))
      dsimp only
      cases telemValues s (fld b 0 1) (fld b 2 2) with
      | none => exact pewAnswer_ready hs hr m 1 []
      | some vs => exact pewAnswer_ready hs hr m 0 _
    case back =>
      intro h6 u n hu hn hmem
      refine ⟨exec_returnUnit_refused hs hr hb h6 hu hn hmem, fun hstop hpfw =>
        ⟨fun hport h16 hf => ⟨_, exec_returnUnit_port hs hr hb h6 hu hn hmem hstop hpfw hport h16 hf, ?port⟩,
          fun hport hf hpg => ⟨_, exec_returnUnit_unpowered hs hr hb h6 hu hn hmem hstop hpfw hport hf hpg, ?unpowered⟩,
          fun hport hf hpg => ⟨_, exec_returnUnit_powered hs hr hb h6 hu hn hmem hstop hpfw hport hf hpg, ?powered⟩⟩⟩
      case port =>
        rw [pewAnswer_ready (s := portTo s n .training) hs hr]
        exact ⟨congrArg Port.state (getPort_portTo s n .training), rfl, rfl⟩
      case unpowered =>
        rw [pewAnswer_ready (s := returnNoted s u n) hs hr]
        exact ⟨mem_insertOnce (u, n) s.pew.returns, rfl, rfl, rfl⟩
      case powered =>
        rw [pewAnswer_ready (s := returnBegun s u n) hs hr]
        exact ⟨mem_insertOnce _ s.eng.returning, rfl, rfl⟩

end Sys2Proof.Machine
end
